-- ==== Sys2Proof/Word.lean ====
section
/-!
DEFINITION. The machine's word types and the plainest arithmetic on them (R5, R10): 64-bit words,
bytes, sign extension, and reading a vector as elements.
-/

namespace Sys2Proof

/-- A 64-bit general value (R34). -/
abbrev Word := BitVec 64

/-- One byte of memory. -/
abbrev Byte := BitVec 8

/-- A 512-bit vector register or token payload (R35, R274). -/
abbrev Vec := BitVec 512

/-- A 6-bit register field (R57). -/
abbrev RegNo := BitVec 6

/-- A 3-bit predicate field (R57). -/
abbrev PredNo := BitVec 3

/-- The integer x wrapped to n bits (R10). -/
abbrev wrap (n : Nat) (x : Int) : BitVec n := BitVec.ofInt n x

/-- The sign extension of the low n bits of x to 64 bits. -/
def sextLow (n : Nat) (x : Word) : Word := (x.setWidth n).signExtend 64

/-- The low n bits of x, zero-extended to 64 bits. -/
def zextLow (n : Nat) (x : Word) : Word := (x.setWidth n).setWidth 64

/-- The Nat x as a signed value of n bits. -/
def signedOf (n x : Nat) : Int :=
  let y := x % 2 ^ n
  if y < 2 ^ (n - 1) then (y : Int) else (y : Int) - (2 : Int) ^ n

/-- The integer x as the bits of an n-bit field. -/
def bitsOf (n : Nat) (x : Int) : Nat := (x % ((2 : Int) ^ n)).toNat

/-- The integer x clamped to lo..hi. -/
def clampInt (lo hi x : Int) : Int := if x < lo then lo else if hi < x then hi else x

/-- Bits [hi:lo] of the Nat x. -/
def field (x hi lo : Nat) : Nat := (x >>> lo) % 2 ^ (hi + 1 - lo)

/-- Bit i of the Nat x. -/
def bitOf (x i : Nat) : Bool := x.testBit i

/-- A Bool as 0 or 1. -/
def b2n (b : Bool) : Nat := if b then 1 else 0

/-- Element e of width w of the value x (R219). -/
def elemOf (w e x : Nat) : Nat := (x >>> (w * e)) % 2 ^ w

/-- The elements of width w of x, n of them, element 0 first. -/
def elemsOf (w n x : Nat) : List Nat := (List.range n).map (fun e => elemOf w e x)

/-- The value whose elements of width w are the given ones, element 0 first. -/
def packElems (w : Nat) : List Nat → Nat
  | [] => 0
  | x :: xs => x % 2 ^ w + 2 ^ w * packElems w xs

/-- The little-endian bytes of x, n of them (R5). -/
def bytesLE (n x : Nat) : List Byte := (List.range n).map (fun i => BitVec.ofNat 8 (x >>> (8 * i)))

/-- The little-endian value of a list of bytes (R5, R11). -/
def valueLE : List Byte → Nat
  | [] => 0
  | b :: bs => b.toNat + 256 * valueLE bs

/-- floor(log2 x), and 0 for 0. -/
def log2 (x : Nat) : Nat := Nat.log2 x

/-- The number of one bits among the low n bits of x. -/
def popCount (n x : Nat) : Nat := ((List.range n).filter (fun i => x.testBit i)).length

/-- The number of leading zero bits of x within n bits; n when x = 0. -/
def leadingZeros (n x : Nat) : Nat :=
  if x % 2 ^ n = 0 then n else n - 1 - Nat.log2 (x % 2 ^ n)

/-- The number of trailing zero bits of x within n bits; n when x = 0. -/
def trailingZeros (n x : Nat) : Nat :=
  ((List.range n).find? (fun i => x.testBit i)).getD n

/-- The list with entry i replaced by x; unchanged when i is beyond the end. -/
def setAt {α : Type} (l : List α) (i : Nat) (x : α) : List α := l.set i x

/-- The list without its entry i. -/
def dropAt {α : Type} (l : List α) (i : Nat) : List α := l.eraseIdx i

/-- ceil(a / b). -/
def ceilDiv (a b : Nat) : Nat := (a + b - 1) / b

end Sys2Proof
end

