-- ==== Sys2Proof/Config.lean ====
section
/-!
DEFINITION. What one part fixes and the values that the manual leaves to the device. A free value has no
body: nothing in Lean can evaluate it. The first argument is the step counter of the state, so every step
has values of its own.
-/

namespace Sys2Proof

/-- The draw of a stochastic rounding (R95): 16 bits, for lane or element k of the step. -/
opaque Config.srDraw (tick k : Nat) : BitVec 16

/-- A choice that the manual gives to the device (R3): the k-th of the step. -/
opaque Config.choose (tick k : Nat) : Nat

/-- A bit that the manual gives to the device (R3): the k-th of the step. -/
opaque Config.chooseBit (tick k : Nat) : Bool

/-- A 64-bit value that the manual leaves open: the k-th of the step. -/
opaque Config.freeWord (tick k : Nat) : BitVec 64

/-- The SHA-384 digest of a byte string (R453). -/
opaque Config.sha384 (bytes : List (BitVec 8)) : BitVec 384
/-- A digest's ECDSA P-384 signature verifies against the public key in the Assayer's ROM (R453). -/
opaque Config.ecdsaVerifies (digest : BitVec 384) (signature : List (BitVec 8)) : Bool
/-- A digest's ML-DSA-87 signature verifies against the public key in the Assayer's ROM (R453). -/
opaque Config.mldsaVerifies (digest : BitVec 384) (signature : List (BitVec 8)) : Bool

namespace Config

/-- Cores of the device (R15). -/
def cores : Nat := 1536
/-- The numbers that the control cores cc0..cc4 take behind the Markhor cores (R452). -/
def controlCore (n : Nat) : Bool := decide (1536 ≤ n) && decide (n < 1541)
/-- Herds of the device (R15). -/
def herds : Nat := 192
/-- Fabric sites (R13). -/
def sites : Nat := 6144
/-- Colueso ports (R458). -/
def ports : Nat := 24
/-- c.ident (R4): vendor 0x5E10, part 0x1A06, step 2, variant 0. -/
def ident : BitVec 64 := 0x000000021A065E10
/-- The physical address of the on-chip window (R358). -/
def windowBase : Nat := 0x80000000000
/-- The physical address of the control registers (R359). -/
def controlBase : Nat := 0x80400000000
/-- The arbitration period in cycles (R392). -/
def arbitrationPeriod : Nat := 16384
/-- The length of a placement transaction in cycles (R395). -/
def transactionCycles : Nat := 96
/-- Cycles until a drain times out (R424). -/
def drainCycles : Nat := 16777216

end Config

end Sys2Proof
end

