-- ==== Sys2Proof/Syntax.lean ====
section
/-!
DEFINITION. The steps of the part: one constructor of Instr for every row of spec/opcode_table.json.
Glipel words carry the fields of their encodings (R56, R59, R61, R65), sequencer words those of R70.
An element firing carries no operand: its fields stand in the active plane of the acting site (R66).
A device event takes the data that its cause brings, its operands, from the acting field of the state, in
the order its docstring gives (Lean's runtime bounds the constructors that carry fields); the context, core
or site that it concerns is the acting one unless an operand names another.
-/

namespace Sys2Proof

/-- A scope (R9). -/
inductive Scope where
  | core | herd | device | system
  deriving DecidableEq, Repr

/-- Access kinds of ld and ldx, in f3 order (R154). -/
inductive LoadKind where
  | b | bz | h | hz | w | wz | d
  deriving DecidableEq, Repr

/-- Access kinds of st and stx (R155). -/
inductive StoreKind where
  | b | h | w | d
  deriving DecidableEq, Repr

/-- Operand size of lda and stl (R160). -/
inductive WordKind where
  | w | d
  deriving DecidableEq, Repr

/-- Atomic operations in fn[5:2] order (R165). -/
inductive AmoOp where
  | add | and | or | xor | smin | smax | umin | umax | swap | faddS | faddBf2
  deriving DecidableEq, Repr

/-- Atomic ordering: relaxed, or a scope of R9 from HERD (R165). Also the ordering of ldref and stref. -/
inductive Ord where
  | rlx | herd | dev | sys
  deriving DecidableEq, Repr

/-- Object kinds that mkobj makes (R153). -/
inductive ObjKind where
  | flat | mixed | tensor
  deriving DecidableEq, Repr

/-- Integer conditions of cmp and cmpi (R64, R134). -/
inductive IntCond where
  | eq | ne | lt | ge | ltu | geu
  deriving DecidableEq, Repr

/-- Float conditions (R64, R135). -/
inductive FloatCond where
  | feq | flt | fle | fun_
  deriving DecidableEq, Repr

/-- A condition of cmp: integer, or float in single or double precision (R64). -/
inductive Cond where
  | int (c : IntCond)
  | single (c : FloatCond)
  | double (c : FloatCond)
  deriving DecidableEq, Repr

/-- How cmp combines its outcome with the predicate (R134). -/
inductive Combine where
  | set | and | or
  deriving DecidableEq, Repr

/-- Formats of fcvt (R61, R144). -/
inductive CvtFmt where
  | d | s | bf | h | l | lu
  deriving DecidableEq, Repr

/-- Element types of vector instructions (R65, R219). -/
inductive VType where
  | i8 | i16 | i32 | f32 | bf16 | f16
  deriving DecidableEq, Repr

/-- Functions of vfma (R228). -/
inductive VFmaOp where
  | fma | fms | fnma | dot
  deriving DecidableEq, Repr

/-- Conditions of vcmp (R229). -/
inductive VCond where
  | eq | ne | lt | le | ltu | leu | feq | flt | fle | fun_
  deriving DecidableEq, Repr

/-- Formats of vcvt (R231). -/
inductive VFmt where
  | i8 | i16 | i32 | f32 | bf16 | f16 | e4m3 | e5m2
  deriving DecidableEq, Repr

/-- Block formats of vqnt and vdq (R232). -/
inductive BxFmt where
  | bx8e4 | bx8e5 | bx6e3 | bx6e2 | bx4 | bxi8
  deriving DecidableEq, Repr

/-- Functions of vred (R234). -/
inductive VRedOp where
  | add | min | max | minu | maxu | and | or | xor | fadd | fmin | fmax
  deriving DecidableEq, Repr

/-- Functions of vscan (R235). -/
inductive VScanOp where
  | add | max | min | maxu | minu | fadd | fmax | fmin
  deriving DecidableEq, Repr

/-- Kinds of vshuf (R237). -/
inductive VShufKind where
  | zlo | zhi | uev | uod | rev | rotl
  deriving DecidableEq, Repr

/-- The steps of the part (spec/opcode_table.json). -/
inductive Instr where
  /-- M-class nop (R59). -/
  | nop
  /-- A-class nop (R61). -/
  | nopA
  /-- Block header (R50). -/
  | blk (len : BitVec 6) (x sv a16 a32 : Bool)
  -- memory (R154..R178)
  | ld (z : LoadKind) (d a : RegNo) (off : BitVec 9)
  | ldx (z : LoadKind) (d a b : RegNo) (sh : BitVec 3)
  | st (z : StoreKind) (d a : RegNo) (off : BitVec 9)
  | stx (z : StoreKind) (d a b : RegNo) (sh : BitVec 3)
  | lda (z : WordKind) (sc : Scope) (d a : RegNo) (off : BitVec 9)
  | stl (z : WordKind) (sc : Scope) (d a : RegNo) (off : BitVec 9)
  | ldref (o : Ord) (d a : RegNo) (off : BitVec 9)
  | stref (o : Ord) (d a : RegNo) (off : BitVec 9)
  | amoW (op : AmoOp) (o : Ord) (d a b : RegNo)
  | amoD (op : AmoOp) (o : Ord) (d a b : RegNo)
  | casW (d a b c : RegNo)
  | casD (d a b c : RegNo)
  | fenceFull (sc : Scope)
  | fenceRel (sc : Scope)
  | fenceAcq (sc : Scope)
  | fenceEng (sc : Scope)
  | pub (sc : Scope) (a : RegNo)
  | mkobj (k : ObjKind) (d a b : RegNo)
  -- control (R179, R180)
  | b (p : PredNo) (n : Bool) (off : BitVec 20)
  | call (off : BitVec 20)
  | jr (a : RegNo)
  | callr (a : RegNo)
  | ret
  | cflush (a b : RegNo)
  | cflushInv (a b : RegNo)
  -- vector memory (R225, R226)
  | vld (z : Bool) (vd : BitVec 4) (k : BitVec 2) (a : RegNo) (off : BitVec 9)
  | vst (vd : BitVec 4) (k : BitVec 2) (a : RegNo) (off : BitVec 9)
  | vlds (z : Bool) (vd : BitVec 4) (k : BitVec 2) (a b : RegNo)
  | vgth (z : Bool) (vd : BitVec 4) (k : BitVec 2) (a : RegNo) (vb : BitVec 4) (sh : BitVec 3)
  | vsct (vd : BitVec 4) (k : BitVec 2) (a : RegNo) (vb : BitVec 4) (sh : BitVec 3)
  -- messages, ready queue, events (R197..R207)
  | send (d a : RegNo) (n1 : BitVec 3) (pri : BitVec 2)
  | recv (d a : RegNo) (ring : BitVec 2)
  | recvNb (d a : RegNo) (ring : BitVec 2) (p : PredNo)
  | mbind (a : RegNo) (ring pri : BitVec 2)
  | rqput (a : RegNo) (pri : BitVec 2) (p : PredNo)
  | rqtake (d : RegNo) (pri : BitVec 2) (p : PredNo)
  | waitev (d : RegNo)
  | waitevNb (d : RegNo) (p : PredNo)
  | sleep (mask : BitVec 4)
  -- engine commands (R242)
  | cpy (a b : RegNo)
  | gath (a b : RegNo)
  | gathOwn (a b : RegNo)
  | scat (a b : RegNo)
  | scatAdd (a b : RegNo)
  | xchg (a b : RegNo)
  | mxc (a b : RegNo)
  -- sets (R185..R196)
  | join (d a : RegNo)
  | joinNew (pool bound : Bool) (d a b : RegNo)
  | leave (a : RegNo)
  | bar (a : RegNo)
  | barArr (a : RegNo)
  | barWait (a : RegNo)
  | couple (a : RegNo)
  | coupleRe (a : RegNo)
  | rjput (a b c : RegNo)
  | rjtake (d a : RegNo) (p : PredNo)
  -- launching and system (R208..R217)
  | spawn (d a : RegNo) (p : PredNo)
  | reply (d : RegNo) (n1 : BitVec 3)
  | exit
  | srd (d : RegNo) (num : BitVec 10)
  | swr (num : BitVec 10) (a : RegNo)
  | trap (code : BitVec 12)
  | eret
  | repart (mode : Bool)
  | tlbinvPage (a b : RegNo)
  | tlbinvAsid (b : RegNo)
  | tlbinvAll
  | retag (d a : RegNo)
  -- register-register integer (R125..R128)
  | add (d a b : RegNo)
  | sub (d a b : RegNo)
  | and (d a b : RegNo)
  | or (d a b : RegNo)
  | xor (d a b : RegNo)
  | andn (d a b : RegNo)
  | orn (d a b : RegNo)
  | sll (d a b : RegNo)
  | srl (d a b : RegNo)
  | sra (d a b : RegNo)
  | rol (d a b : RegNo)
  | ror (d a b : RegNo)
  | mul (d a b : RegNo)
  | mulh (d a b : RegNo)
  | mulhu (d a b : RegNo)
  | div (d a b : RegNo)
  | divu (d a b : RegNo)
  | rem (d a b : RegNo)
  | remu (d a b : RegNo)
  | min (d a b : RegNo)
  | max (d a b : RegNo)
  | minu (d a b : RegNo)
  | maxu (d a b : RegNo)
  | clz (d a : RegNo)
  | ctz (d a : RegNo)
  | popc (d a : RegNo)
  | bswap (d a : RegNo)
  | addw (d a b : RegNo)
  | subw (d a b : RegNo)
  | mulw (d a b : RegNo)
  | sllw (d a b : RegNo)
  | srlw (d a b : RegNo)
  | sraw (d a b : RegNo)
  | mov (d a : RegNo)
  | hash64 (d a b : RegNo)
  | crc32c (d a b : RegNo)
  -- immediates and constants (R129..R133)
  | addi (d a : RegNo) (imm : BitVec 12)
  | andi (d a : RegNo) (imm : BitVec 12)
  | ori (d a : RegNo) (imm : BitVec 12)
  | xori (d a : RegNo) (imm : BitVec 12)
  | slli (d a : RegNo) (n : BitVec 6)
  | srli (d a : RegNo) (n : BitVec 6)
  | srai (d a : RegNo) (n : BitVec 6)
  | roli (d a : RegNo) (n : BitVec 6)
  | rori (d a : RegNo) (n : BitVec 6)
  | sllwi (d a : RegNo) (n : BitVec 6)
  | srlwi (d a : RegNo) (n : BitVec 6)
  | srawi (d a : RegNo) (n : BitVec 6)
  | li (d : RegNo) (imm : BitVec 18)
  | liu (d : RegNo) (imm : BitVec 18)
  | scadd (d a b : RegNo) (sh : BitVec 3)
  | bfx (d a : RegNo) (lsb width1 : BitVec 6)
  | bfi (d a : RegNo) (lsb width1 : BitVec 6)
  -- compares and predicates (R134..R137)
  | cmp (c : Cond) (k : Combine) (pd : PredNo) (a b : RegNo)
  | cmpi (c : IntCond) (k : Combine) (pd : PredNo) (a : RegNo) (imm : BitVec 9)
  | pand (pd pa pb : PredNo)
  | por (pd pa pb : PredNo)
  | pxor (pd pa pb : PredNo)
  | pandn (pd pa pb : PredNo)
  | pnot (pd pa : PredNo)
  | ppack (d : RegNo)
  | punpack (a : RegNo)
  | isref (pd : PredNo) (a : RegNo)
  | sel (d a b : RegNo) (pc : PredNo)
  -- scalar floating point (R142..R144)
  | faddS (d a b : RegNo)
  | fsubS (d a b : RegNo)
  | fmulS (d a b : RegNo)
  | fdivS (d a b : RegNo)
  | fsqrtS (d a : RegNo)
  | fminS (d a b : RegNo)
  | fmaxS (d a b : RegNo)
  | fabsS (d a : RegNo)
  | fnegS (d a : RegNo)
  | faddD (d a b : RegNo)
  | fsubD (d a b : RegNo)
  | fmulD (d a b : RegNo)
  | fdivD (d a b : RegNo)
  | fsqrtD (d a : RegNo)
  | fminD (d a b : RegNo)
  | fmaxD (d a b : RegNo)
  | fabsD (d a : RegNo)
  | fnegD (d a : RegNo)
  | fmaS (d a b c : RegNo)
  | fmsS (d a b c : RegNo)
  | fmaD (d a b c : RegNo)
  | fmsD (d a b c : RegNo)
  | fcvt (dst src : CvtFmt) (d a : RegNo)
  -- vector arithmetic (R227..R240)
  | vadd (t : VType) (vd va vb : BitVec 4) (k : BitVec 2)
  | vsub (t : VType) (vd va vb : BitVec 4) (k : BitVec 2)
  | vmul (t : VType) (vd va vb : BitVec 4) (k : BitVec 2)
  | vmin (t : VType) (vd va vb : BitVec 4) (k : BitVec 2)
  | vmax (t : VType) (vd va vb : BitVec 4) (k : BitVec 2)
  | vminu (t : VType) (vd va vb : BitVec 4) (k : BitVec 2)
  | vmaxu (t : VType) (vd va vb : BitVec 4) (k : BitVec 2)
  | vadds (t : VType) (vd va vb : BitVec 4) (k : BitVec 2)
  | vsubs (t : VType) (vd va vb : BitVec 4) (k : BitVec 2)
  | vaddus (t : VType) (vd va vb : BitVec 4) (k : BitVec 2)
  | vsubus (t : VType) (vd va vb : BitVec 4) (k : BitVec 2)
  | vavg (t : VType) (vd va vb : BitVec 4) (k : BitVec 2)
  | vmulh (t : VType) (vd va vb : BitVec 4) (k : BitVec 2)
  | vand (t : VType) (vd va vb : BitVec 4) (k : BitVec 2)
  | vor (t : VType) (vd va vb : BitVec 4) (k : BitVec 2)
  | vxor (t : VType) (vd va vb : BitVec 4) (k : BitVec 2)
  | vandn (t : VType) (vd va vb : BitVec 4) (k : BitVec 2)
  | vshl (t : VType) (vd va vb : BitVec 4) (k : BitVec 2)
  | vshr (t : VType) (vd va vb : BitVec 4) (k : BitVec 2)
  | vsar (t : VType) (vd va vb : BitVec 4) (k : BitVec 2)
  | vabs (t : VType) (vd va : BitVec 4) (k : BitVec 2)
  | vneg (t : VType) (vd va : BitVec 4) (k : BitVec 2)
  | vdiv (t : VType) (vd va vb : BitVec 4) (k : BitVec 2)
  | vrcp (t : VType) (vd va : BitVec 4) (k : BitVec 2)
  | vrsq (t : VType) (vd va : BitVec 4) (k : BitVec 2)
  | vsqrt (t : VType) (vd va : BitVec 4) (k : BitVec 2)
  | vexp2 (t : VType) (vd va : BitVec 4) (k : BitVec 2)
  | vlog2 (t : VType) (vd va : BitVec 4) (k : BitVec 2)
  | vtanh (t : VType) (vd va : BitVec 4) (k : BitVec 2)
  | vpopc (t : VType) (vd va : BitVec 4) (k : BitVec 2)
  | vclz (t : VType) (vd va : BitVec 4) (k : BitVec 2)
  | vfma (f : VFmaOp) (t : VType) (vd va vb : BitVec 4) (k : BitVec 2)
  | vcmp (c : VCond) (any : Bool) (t : VType) (kd : BitVec 2) (va vb : BitVec 4) (k : BitVec 2)
  | vsel (vd va vb : BitVec 4) (k : BitVec 2)
  | vcvt (dst src : VFmt) (vd va : BitVec 4) (part : BitVec 4) (k : BitVec 2)
  | vqnt (f : BxFmt) (t : VType) (vd va vb : BitVec 4)
  | vdq (f : BxFmt) (t : VType) (part : Bool) (vd va : BitVec 4) (k : BitVec 2)
  | vred (f : VRedOp) (t : VType) (vd va : BitVec 4) (k : BitVec 2)
  | vscan (f : VScanOp) (t : VType) (vd va : BitVec 4) (k : BitVec 2)
  | vperm (t2 : Bool) (t : VType) (vd va vb : BitVec 4) (k : BitVec 2)
  | vshuf (kind : VShufKind) (s : BitVec 4) (t : VType) (vd va vb : BitVec 4) (k : BitVec 2)
  | vbcast (t : VType) (vd va : BitVec 4) (idx : BitVec 6) (k : BitVec 2)
  | vbcastG (t : VType) (vd : BitVec 4) (a : RegNo) (k : BitVec 2)
  | vmovg (t : VType) (zext : Bool) (d : RegNo) (va : BitVec 4) (idx : BitVec 6)
  | vins (t : VType) (vd : BitVec 4) (a : RegNo) (idx : BitVec 6)
  | vcmprC (t : VType) (vd va : BitVec 4) (k : BitVec 2)
  | vcmprE (t : VType) (vd va : BitVec 4) (k : BitVec 2)
  | vmaskAnd (kd ka kb : BitVec 2)
  | vmaskOr (kd ka kb : BitVec 2)
  | vmaskXor (kd ka kb : BitVec 2)
  | vmaskAndn (kd ka kb : BitVec 2)
  | vmaskNot (kd ka : BitVec 2)
  | vmaskFromg (kd : BitVec 2) (a : RegNo)
  | vmaskTog (d : RegNo) (ka : BitVec 2)
  | vmaskPop (d : RegNo) (ka : BitVec 2)
  | vmaskFirst (d : RegNo) (ka : BitVec 2)
  -- sequencer words (R70, R314)
  | seqNop
  | seta (b : BitVec 2) (a : BitVec 16)
  | addaReg (b t : BitVec 2)
  | addaImm (b : BitVec 2) (i : BitVec 22)
  | sets (t : BitVec 2) (i : BitVec 25)
  | loopImm (n : BitVec 2) (c : BitVec 24)
  | loopArg (n : BitVec 2) (a : BitVec 24)
  | endl (n : BitVec 2) (top : BitVec 6)
  | emitLd (b q : BitVec 2) (sz : BitVec 3) (off : BitVec 16)
  | emitSt (b q : BitVec 2) (sz : BitVec 3) (off : BitVec 16)
  | emitGth (b iq : BitVec 2) (sz : BitVec 3) (oq : BitVec 2) (sh : BitVec 3)
  | emitSct (b iq : BitVec 2) (sz : BitVec 3) (dq : BitVec 2) (sh : BitVec 3)
  | brc (pol : Bool) (top : BitVec 6)
  | waitc (link : BitVec 2)
  | signal (link : BitVec 2) (v : Bool)
  | seqFence
  | eor (qmask : BitVec 4)
  | seqSync (level sc : BitVec 2)
  | setf (fmt : BitVec 5) (q : BitVec 2)
  | setfIn (fmt : BitVec 5) (q : BitVec 2)
  | halt
  -- fabric element firings (R284..R306)
  | feAdd | feSub | feMul | feFma | feFms | feMin | feMax | feAbs | feNeg | feDiv
  | feRcp | feRsq | feSqrt | feExp2 | feLog2 | feTanh | feAdds | feSubs | feAvg | feMulh
  | feCmpeq | feCmpne | feCmplt | feCmple | feAnd | feOr | feXor | feNot | feSel
  | feShl | feShr | feSar | fePopc | feClz
  | feCvt | feSround | feQmax | feQcvt | feDq
  | feRsum | feRmax | feRmin | feAcc | feScan
  | feBcast | feShuf | fePack | feUnpack | feDelay | feCturn | feRepl | feIota | feConst | feZip | feSplit
  | feHash | feSrc | feSink | feEsc | feSync | feFence | feCmpk
  /-- A marker firing of the acting site's element (R280, R281). -/
  | markerFiring
  /-- A plane change that waited for its slot (R308). -/
  | planeChange
  -- router operators (R291..R293)
  | steer | merge | carry
  -- memory tile and matrix element modes (R323, R328)
  | mtProbe | mxLoadb | mxMm | mxDrain | mxMsg
  /-- A free reserved context, or one asleep with the escape cause, takes the head payload (R300). -/
  | escDispatch
  /-- Reply k in flight arrives at its escape operator (R301). Operands: k. -/
  | escReplyArrival
  -- context events
  | blockFetch
  /-- Outstanding long result k of the acting context returns (R42); with more operands, the acting core's L1 (0) or
  its herd's slice (1) evicts a word (R373). Operands: k, cache, word. -/
  | loadReturn
  | blockCommit
  | timerExpiry
  /-- A free lane group of the acting core's quad takes a queue head (R224). -/
  | vuIssue
  /-- The next recipient of write k in flight from the acting core accepts it (R336). Operands: k. -/
  | updateAccept
  /-- The acting core's L1 (0) or its herd's slice (1) drains an update (R336). Operands: slice. -/
  | updateDrain
  /-- The home slice reads the 64-byte line at a physical address (R362). Operands: pa. -/
  | patrolRead
  /-- Walk k of the TLB slices makes a step (R367). Operands: k. -/
  | tlbWalkStep
  /-- The spoor walker of the acting core's herd makes a step (R172). -/
  | walkStep
  | walkerGrant
  /-- The send-buffer entry of a priority of the acting core injects its message (R197). Operands: pri. -/
  | sendInject
  /-- Message k in flight arrives (R199). Operands: k. -/
  | messageArrival
  /-- Held message k is written for a switched-out thread (R422). Operands: k. -/
  | savedRingDelivery
  /-- A waiting post of a herd's event queue is written (R369). Operands: herd. -/
  | eventPost
  | faultRecordPost
  -- launch and placement events (R381..R395)
  /-- Operands: q, v. -/
  | lqtailWrite
  /-- Operands: q. -/
  | launchAdmission
  /-- Thread t of a launch, new or resuming, is placed in the acting context (R394). Operands: launch. -/
  | threadPlacement
  /-- Operands: launch, herd. -/
  | herdPlacement
  /-- Operands: herd. -/
  | placementTimeout
  /-- Operands: fld. -/
  | arbitrationPeriod
  /-- The owner of the acting context's slot reclaims it (R393). -/
  | slotReclaim
  /-- Operands: launch. -/
  | launchDone
  -- fabric system events (R396..R442)
  /-- Operands: broad. -/
  | fabricAdmission
  /-- Operands: launch. -/
  | configLoad
  /-- Plane slot of the acting site has been written (R308). Operands: slot. -/
  | planeSlotWritten
  | planeRefetch
  | generatorFault
  | fenceRetire
  /-- Operands: launch. -/
  | stall
  /-- Operands: launch. -/
  | drainRequest
  /-- Operands: launch. -/
  | drained
  /-- Operands: launch. -/
  | drainTimeout
  /-- Operands: launch. -/
  | graphCompletion
  -- engines (R244..R273)
  | engineTake
  /-- Box k of the running command of the acting core's copy engine lands (R247). Operands: k. -/
  | boxLand
  /-- Operands: k. -/
  | engineSegmentFault
  | fixupReplay
  | engineComplete
  /-- A source device's data of a live exchange arrives: entries sent, entry size, bytes (R263). Operands: id, src, count, esize, bytes. -/
  | xchgReceive
  /-- Operands: id. -/
  | xchgTimeout
  /-- The held mxc message of the acting core is injected (R269). -/
  | mxcInject
  /-- The matrix commands: the head command of an MXE is performed (R269..R272). Operands: mxe. -/
  | loadw
  /-- Operands: mxe. -/
  | mm
  /-- Operands: mxe. -/
  | drain
  /-- Operands: mxe. -/
  | clear
  -- sets and switching
  /-- Operands: rec. -/
  | barWatchdog
  | switchOut
  | saveComplete
  /-- The thread with this handle resumes in the acting context (R423). Operands: handle. -/
  | resume
  -- supervisor and host registers
  | ctxctlSwitchOut
  | ctxctlAbort
  | ctxctlForward
  /-- Operands: index. -/
  | fqresRetry
  /-- Operands: index. -/
  | fqresAbort
  /-- Operands: v. -/
  | fqheadWrite
  /-- Operands: launch. -/
  | gctlDrain
  /-- Operands: launch. -/
  | gctlAbort
  /-- A supervisor write to offset off of the acting context's register window (R360). Operands: off, v. -/
  | contextWindowWrite
  /-- Operands: core, v. -/
  | ctileWrite
  /-- Operands: mt, v. -/
  | mtileWrite
  | segmentConversionDone
  /-- Operands: v. -/
  | clkctlWrite
  /-- Operands: v. -/
  | itportStage
  | itctlGo
  | tableBroadcastAck
  /-- Operands: off, v. -/
  | controlRegisterWrite
  -- the Assayer's requests (R454)
  /-- Operands: n. -/
  | retireCore
  /-- Operands: h. -/
  | retireHerd
  /-- Operands: site. -/
  | retireSite
  /-- Operands: stripe, dom. -/
  | retireDomain
  /-- Operands: lp, ch. -/
  | retireChannel
  /-- Operands: dest, path, port. -/
  | linkRoute
  /-- Operands: port. -/
  | laneSpare
  /-- Operands: addr, nonce. -/
  | attest
  /-- Operands: h. -/
  | herdQuiescentWindow
  /-- Operands: stripe. -/
  | stripeQuiescentWindow
  /-- Operands: ch. -/
  | channelSpareCopy
  /-- Operands: slice. -/
  | tlbSliceMove
  -- failures
  | niFail
  /-- Operands: stripe, dom, routing. -/
  | regulatorPhase
  /-- Operands: stripe, dom. -/
  | elementRailFailure
  /-- Operands: stripe, dom. -/
  | routingRailFailure
  /-- Operands: cc. -/
  | controlCoreFailure
  /-- Operands: entry, uncorrectable. -/
  | tableEntryError
  /-- Operands: entry. -/
  | tableEntryRefetch
  /-- Operands: k. -/
  | seamFlitReceive
  /-- Operands: k. -/
  | seamResend
  /-- A flit arrives at a port: sequence number and whether its check passed (R459). Operands: port, seq, ok, bytes. -/
  | linkFlitReceive
  /-- Operands: port, failed. -/
  | linkReplay
  /-- Operands: port. -/
  | laneFailure
  /-- A host access of 1, 2, 4 or 8 bytes at a device physical address (R463). Operands: write, pa, size, v. -/
  | hostAccess
  -- bring-up, power and temperature (R443..R503)
  | coldBoot
  /-- Operands: chain, unit. -/
  | chainUnitTimeout
  | inputUndervoltage
  /-- Operands: tmax, whereS. -/
  | thermalStep
  /-- Operands: tmax, whereS. -/
  | thermalTrip
  | thermalPowerRemoval
  /-- Operands: port, pdev, pgrp, pport. -/
  | linkTraining
  /-- Operands: pa, mask. -/
  | softError
  deriving DecidableEq, Repr

end Sys2Proof
end

