-- ==== Sys2Proof/Decode.lean ====
section
/-!
DEFINITION. Reading Glipel words (R46, R56..R65) and sequencer words (R70), the operation codes of
fabric planes (R284..R306, R320, R327), and the encoders written from the same tables.
Decoding is total; a word it refuses is refused by the cause that R57 and R60..R65 name.
-/

namespace Sys2Proof

/-- Why a Glipel word is refused, in the order of check 8 of R54. -/
inductive DecodeError where
  /-- Reserved major opcode (R60, R62). -/
  | opcRsv
  /-- Unassigned function, kind or type code (R57, R63..R65). -/
  | fnRsv
  /-- A reserved bit set, or a field outside its limits (R57). -/
  | encRsv
  deriving DecidableEq, Repr

/-- The 30-bit body cut into its five 6-bit fields (R56). -/
structure Body where
  op : BitVec 6
  d : BitVec 6
  a : BitVec 6
  b : BitVec 6
  c : BitVec 6
  deriving DecidableEq, Repr

/-- The body's bits (R56, R121). -/
def Body.bits (x : Body) : BitVec 30 := x.op ++ x.d ++ x.a ++ x.b ++ x.c

/-- The fields of a word's low 30 bits (R56). -/
def Body.ofWord (w : BitVec 32) : Body where
  op := w.extractLsb' 24 6
  d := w.extractLsb' 18 6
  a := w.extractLsb' 12 6
  b := w.extractLsb' 6 6
  c := w.extractLsb' 0 6

/-- Bit 31: L in word 0, S in word 1 (R46). -/
def wordTop (w : BitVec 32) : Bool := w.getLsbD 31

/-- Bit 30: the class K, true for an A-class word (R46). -/
def wordClass (w : BitVec 32) : Bool := w.getLsbD 30

/-- The 32-bit word of a body with its top bit and class (R46). -/
def Body.word (x : Body) (top cls : Bool) : BitVec 32 :=
  BitVec.ofBool top ++ BitVec.ofBool cls ++ x.bits

/-- imm12 of the RI format (R56). -/
def Body.imm12 (x : Body) : BitVec 12 := x.b ++ x.c
/-- imm18 of the LI format. -/
def Body.imm18 (x : Body) : BitVec 18 := x.a ++ x.b ++ x.c
/-- off20 of the BR format. -/
def Body.off20 (x : Body) : BitVec 20 := x.d.extractLsb' 0 2 ++ x.a ++ x.b ++ x.c
/-- p of the BR format. -/
def Body.brP (x : Body) : BitVec 3 := x.d.extractLsb' 3 3
/-- n of the BR format. -/
def Body.brN (x : Body) : Bool := x.d.getLsbD 2
/-- off9 of the MEM format. -/
def Body.off9 (x : Body) : BitVec 9 := x.b ++ x.c.extractLsb' 3 3
/-- f3 of the MEM format. -/
def Body.f3 (x : Body) : BitVec 3 := x.c.extractLsb' 0 3
/-- vd of the VRR format (R65). -/
def Body.vd (x : Body) : BitVec 4 := x.d.extractLsb' 2 4
/-- va of the VRR format. -/
def Body.va (x : Body) : BitVec 4 := x.d.extractLsb' 0 2 ++ x.a.extractLsb' 4 2
/-- vb of the VRR format. -/
def Body.vb (x : Body) : BitVec 4 := x.a.extractLsb' 0 4
/-- k of the VRR format. -/
def Body.vk (x : Body) : BitVec 2 := x.b.extractLsb' 4 2
/-- type of the VRR format. -/
def Body.vtype (x : Body) : BitVec 3 := x.b.extractLsb' 1 3
/-- fn of the VRR format. -/
def Body.vfn (x : Body) : BitVec 7 := x.b.extractLsb' 0 1 ++ x.c

/-- Answer i when the codes are assigned and the reserved bits are clear; FN_RSV comes first (R54). -/
def accept (enc : Bool) (i : Instr) : Except DecodeError Instr :=
  if enc then .ok i else .error .encRsv

/-- As accept, for an enumerated code: an unassigned one is FN_RSV. -/
def acceptFn {α : Type} (code : Option α) (enc : Bool) (mk : α → Instr) : Except DecodeError Instr :=
  match code with
  | none => .error .fnRsv
  | some x => accept enc (mk x)

-- Code tables. Each has its inverse beside it.

def LoadKind.ofCode (f : BitVec 3) : Option LoadKind :=
  match f.toNat with
  | 0 => some .b | 1 => some .bz | 2 => some .h | 3 => some .hz
  | 4 => some .w | 5 => some .wz | 6 => some .d | _ => none
def LoadKind.code : LoadKind → BitVec 3
  | .b => 0 | .bz => 1 | .h => 2 | .hz => 3 | .w => 4 | .wz => 5 | .d => 6

def StoreKind.ofCode (f : BitVec 3) : Option StoreKind :=
  match f.toNat with
  | 0 => some .b | 2 => some .h | 4 => some .w | 6 => some .d | _ => none
def StoreKind.code : StoreKind → BitVec 3
  | .b => 0 | .h => 2 | .w => 4 | .d => 6

def WordKind.ofBit (x : Bool) : WordKind := if x then .d else .w
def WordKind.bit : WordKind → Bool
  | .w => false | .d => true

def Scope.ofCode (x : BitVec 2) : Scope :=
  match x.toNat with
  | 0 => .core | 1 => .herd | 2 => .device | _ => .system
def Scope.code : Scope → BitVec 2
  | .core => 0 | .herd => 1 | .device => 2 | .system => 3

def Ord.ofCode (x : BitVec 2) : Ord :=
  match x.toNat with
  | 0 => .rlx | 1 => .herd | 2 => .dev | _ => .sys
def Ord.code : Ord → BitVec 2
  | .rlx => 0 | .herd => 1 | .dev => 2 | .sys => 3

def AmoOp.ofCode (x : BitVec 4) : Option AmoOp :=
  match x.toNat with
  | 0 => some .add | 1 => some .and | 2 => some .or | 3 => some .xor
  | 4 => some .smin | 5 => some .smax | 6 => some .umin | 7 => some .umax
  | 8 => some .swap | 9 => some .faddS | 10 => some .faddBf2 | _ => none
def AmoOp.code : AmoOp → BitVec 4
  | .add => 0 | .and => 1 | .or => 2 | .xor => 3 | .smin => 4 | .smax => 5
  | .umin => 6 | .umax => 7 | .swap => 8 | .faddS => 9 | .faddBf2 => 10

/-- The operations of amo.d: the float ones are FN_RSV there (R165). -/
def AmoOp.ofCodeD (x : BitVec 4) : Option AmoOp :=
  if x.toNat < 9 then AmoOp.ofCode x else none

def ObjKind.ofCode (x : BitVec 2) : Option ObjKind :=
  match x.toNat with
  | 0 => some .flat | 1 => some .mixed | 2 => some .tensor | _ => none
def ObjKind.code : ObjKind → BitVec 2
  | .flat => 0 | .mixed => 1 | .tensor => 2

def IntCond.ofCode (x : Nat) : Option IntCond :=
  match x with
  | 0 => some .eq | 1 => some .ne | 2 => some .lt | 3 => some .ge
  | 4 => some .ltu | 5 => some .geu | _ => none
def IntCond.code : IntCond → Nat
  | .eq => 0 | .ne => 1 | .lt => 2 | .ge => 3 | .ltu => 4 | .geu => 5

def FloatCond.ofCode (x : Nat) : Option FloatCond :=
  match x with
  | 0 => some .feq | 1 => some .flt | 2 => some .fle | 3 => some .fun_ | _ => none
def FloatCond.code : FloatCond → Nat
  | .feq => 0 | .flt => 1 | .fle => 2 | .fun_ => 3

/-- The conditions of cmp (R64). -/
def Cond.ofCode (x : BitVec 6) : Option Cond :=
  if x.toNat < 8 then (IntCond.ofCode x.toNat).map .int
  else if x.toNat < 12 then (FloatCond.ofCode (x.toNat - 8)).map .single
  else (FloatCond.ofCode (x.toNat - 12)).map .double
def Cond.code : Cond → BitVec 6
  | .int c => BitVec.ofNat 6 c.code
  | .single c => BitVec.ofNat 6 (8 + c.code)
  | .double c => BitVec.ofNat 6 (12 + c.code)

def Combine.ofCode (x : BitVec 3) : Option Combine :=
  match x.toNat with
  | 0 => some .set | 1 => some .and | 2 => some .or | _ => none
def Combine.code : Combine → BitVec 3
  | .set => 0 | .and => 1 | .or => 2

def CvtFmt.ofCode (x : BitVec 3) : Option CvtFmt :=
  match x.toNat with
  | 0 => some .d | 1 => some .s | 2 => some .bf | 3 => some .h | 4 => some .l | 5 => some .lu | _ => none
def CvtFmt.code : CvtFmt → BitVec 3
  | .d => 0 | .s => 1 | .bf => 2 | .h => 3 | .l => 4 | .lu => 5
def CvtFmt.isInt : CvtFmt → Bool
  | .l => true | .lu => true | _ => false

/-- The conversions that fcvt has: source and target differ and are not both integer (R61). -/
def cvtPair (dst src : BitVec 3) : Option (CvtFmt × CvtFmt) :=
  match CvtFmt.ofCode dst, CvtFmt.ofCode src with
  | some t, some f => if t = f || (t.isInt && f.isInt) then none else some (t, f)
  | _, _ => none

def VType.ofCode (x : BitVec 3) : Option VType :=
  match x.toNat with
  | 0 => some .i8 | 1 => some .i16 | 2 => some .i32 | 3 => some .f32 | 4 => some .bf16 | 5 => some .f16
  | _ => none
def VType.code : VType → BitVec 3
  | .i8 => 0 | .i16 => 1 | .i32 => 2 | .f32 => 3 | .bf16 => 4 | .f16 => 5
/-- Integer types (R219). -/
def VType.isInt : VType → Bool
  | .i8 => true | .i16 => true | .i32 => true | _ => false
/-- Element width in bits (R219). -/
def VType.width : VType → Nat
  | .i8 => 8 | .i16 => 16 | .i32 => 32 | .f32 => 32 | .bf16 => 16 | .f16 => 16
/-- Elements of a register (R219). -/
def VType.count (t : VType) : Nat := 512 / t.width

def VFmaOp.ofCode (x : BitVec 7) : Option VFmaOp :=
  match x.toNat with
  | 0 => some .fma | 1 => some .fms | 2 => some .fnma | 3 => some .dot | _ => none
def VFmaOp.code : VFmaOp → BitVec 7
  | .fma => 0 | .fms => 1 | .fnma => 2 | .dot => 3
/-- The types that vfma accepts (R228). -/
def VFmaOp.takes (f : VFmaOp) (t : VType) : Bool :=
  match f with
  | .dot => t == .i8 || t == .i16 || t == .bf16 || t == .f16
  | _ => true

def VCond.ofCode (x : BitVec 6) : Option VCond :=
  match x.toNat with
  | 0 => some .eq | 1 => some .ne | 2 => some .lt | 3 => some .le | 4 => some .ltu | 5 => some .leu
  | 8 => some .feq | 9 => some .flt | 10 => some .fle | 11 => some .fun_ | _ => none
def VCond.code : VCond → BitVec 6
  | .eq => 0 | .ne => 1 | .lt => 2 | .le => 3 | .ltu => 4 | .leu => 5
  | .feq => 8 | .flt => 9 | .fle => 10 | .fun_ => 11
def VCond.isInt : VCond → Bool
  | .feq => false | .flt => false | .fle => false | .fun_ => false | _ => true

def VFmt.ofCode (x : BitVec 3) : VFmt :=
  match x.toNat with
  | 0 => .i8 | 1 => .i16 | 2 => .i32 | 3 => .f32 | 4 => .bf16 | 5 => .f16 | 6 => .e4m3 | _ => .e5m2
def VFmt.code : VFmt → BitVec 3
  | .i8 => 0 | .i16 => 1 | .i32 => 2 | .f32 => 3 | .bf16 => 4 | .f16 => 5 | .e4m3 => 6 | .e5m2 => 7
def VFmt.width : VFmt → Nat
  | .i8 => 8 | .i16 => 16 | .i32 => 32 | .f32 => 32 | .bf16 => 16 | .f16 => 16 | .e4m3 => 8 | .e5m2 => 8
/-- The ratio of the wider to the narrower width (R231). -/
def VFmt.ratio (x y : VFmt) : Nat :=
  if x.width < y.width then y.width / x.width else x.width / y.width

def BxFmt.ofCode (x : BitVec 3) : Option BxFmt :=
  match x.toNat with
  | 0 => some .bx8e4 | 1 => some .bx8e5 | 2 => some .bx6e3 | 3 => some .bx6e2 | 4 => some .bx4
  | 5 => some .bxi8 | _ => none
def BxFmt.code : BxFmt → BitVec 3
  | .bx8e4 => 0 | .bx8e5 => 1 | .bx6e3 => 2 | .bx6e2 => 3 | .bx4 => 4 | .bxi8 => 5

def VRedOp.ofCode (x : BitVec 7) : Option VRedOp :=
  match x.toNat with
  | 0 => some .add | 1 => some .min | 2 => some .max | 3 => some .minu | 4 => some .maxu
  | 5 => some .and | 6 => some .or | 7 => some .xor | 8 => some .fadd | 9 => some .fmin | 10 => some .fmax
  | _ => none
def VRedOp.code : VRedOp → BitVec 7
  | .add => 0 | .min => 1 | .max => 2 | .minu => 3 | .maxu => 4 | .and => 5 | .or => 6 | .xor => 7
  | .fadd => 8 | .fmin => 9 | .fmax => 10
def VRedOp.isInt : VRedOp → Bool
  | .fadd => false | .fmin => false | .fmax => false | _ => true

def VScanOp.ofCode (x : BitVec 7) : Option VScanOp :=
  match x.toNat with
  | 0 => some .add | 1 => some .max | 2 => some .min | 3 => some .maxu | 4 => some .minu
  | 5 => some .fadd | 6 => some .fmax | 7 => some .fmin | _ => none
def VScanOp.code : VScanOp → BitVec 7
  | .add => 0 | .max => 1 | .min => 2 | .maxu => 3 | .minu => 4 | .fadd => 5 | .fmax => 6 | .fmin => 7
def VScanOp.isInt : VScanOp → Bool
  | .fadd => false | .fmax => false | .fmin => false | _ => true

def VShufKind.ofCode (x : BitVec 3) : Option VShufKind :=
  match x.toNat with
  | 0 => some .zlo | 1 => some .zhi | 2 => some .uev | 3 => some .uod | 4 => some .rev | 5 => some .rotl
  | _ => none
def VShufKind.code : VShufKind → BitVec 3
  | .zlo => 0 | .zhi => 1 | .uev => 2 | .uod => 3 | .rev => 4 | .rotl => 5
/-- rev and rotl read no second operand (R237). -/
def VShufKind.unary : VShufKind → Bool
  | .rev => true | .rotl => true | _ => false

/-- The value of an assigned code whose further condition holds; none is FN_RSV. -/
def keepIf {α : Type} (x : Option α) (p : α → Bool) : Option α :=
  match x with
  | some y => if p y then some y else none
  | none => none

/-- The number of a predicate field; bits [5:3] of the field are reserved (R57). -/
def predOf (f : BitVec 6) : PredNo := f.extractLsb' 0 3
/-- Bits [5:3] of a predicate field are clear. -/
def predOk (f : BitVec 6) : Bool := f.extractLsb' 3 3 == 0

/-- The M-class map (R59, R60). -/
def decodeM (x : Body) : Except DecodeError Instr :=
  match x.op.toNat with
  | 0x00 => accept (x.d == 0 && x.a == 0 && x.b == 0 && x.c == 0) .nop
  | 0x01 => acceptFn (LoadKind.ofCode x.f3) true (fun z => .ld z x.d x.a x.off9)
  | 0x02 => acceptFn (LoadKind.ofCode (x.c.extractLsb' 0 3)) true
      (fun z => .ldx z x.d x.a x.b (x.c.extractLsb' 3 3))
  | 0x03 => acceptFn (StoreKind.ofCode x.f3) true (fun z => .st z x.d x.a x.off9)
  | 0x04 => acceptFn (StoreKind.ofCode (x.c.extractLsb' 0 3)) true
      (fun z => .stx z x.d x.a x.b (x.c.extractLsb' 3 3))
  | 0x05 => .ok (.lda (WordKind.ofBit (x.f3.getLsbD 0)) (Scope.ofCode (x.f3.extractLsb' 1 2)) x.d x.a x.off9)
  | 0x06 => .ok (.stl (WordKind.ofBit (x.f3.getLsbD 0)) (Scope.ofCode (x.f3.extractLsb' 1 2)) x.d x.a x.off9)
  | 0x07 => accept (!x.f3.getLsbD 2) (.ldref (Ord.ofCode (x.f3.extractLsb' 0 2)) x.d x.a x.off9)
  | 0x08 => accept (!x.f3.getLsbD 2) (.stref (Ord.ofCode (x.f3.extractLsb' 0 2)) x.d x.a x.off9)
  | 0x09 => acceptFn (AmoOp.ofCode (x.c.extractLsb' 2 4)) true
      (fun op => .amoW op (Ord.ofCode (x.c.extractLsb' 0 2)) x.d x.a x.b)
  | 0x0A => acceptFn (AmoOp.ofCodeD (x.c.extractLsb' 2 4)) true
      (fun op => .amoD op (Ord.ofCode (x.c.extractLsb' 0 2)) x.d x.a x.b)
  | 0x0B => .ok (.casW x.d x.a x.b x.c)
  | 0x0C => .ok (.casD x.d x.a x.b x.c)
  | 0x0D =>
      let enc := x.d == 0 && x.a == 0 && x.imm12.extractLsb' 4 8 == 0
      let sc := Scope.ofCode (x.c.extractLsb' 0 2)
      match (x.c.extractLsb' 2 2).toNat with
      | 0 => accept enc (.fenceFull sc)
      | 1 => accept enc (.fenceRel sc)
      | 2 => accept enc (.fenceAcq sc)
      | _ => accept enc (.fenceEng sc)
  | 0x0E => if x.c.extractLsb' 0 2 == 0 then .error .fnRsv
      else accept (x.d == 0 && x.imm12.extractLsb' 2 10 == 0) (.pub (Scope.ofCode (x.c.extractLsb' 0 2)) x.a)
  | 0x0F => acceptFn (ObjKind.ofCode (x.c.extractLsb' 0 2)) (x.c.extractLsb' 2 4 == 0)
      (fun k => .mkobj k x.d x.a x.b)
  | 0x10 => accept (!(x.brP == 0 && x.brN)) (.b x.brP x.brN x.off20)
  | 0x11 => accept (x.brP == 0 && !x.brN) (.call x.off20)
  | 0x12 => match x.c.toNat with
      | 0 => accept (x.d == 0 && x.b == 0) (.jr x.a)
      | 1 => accept (x.d == 0 && x.b == 0) (.callr x.a)
      | 2 => accept (x.d == 0 && x.a == 0 && x.b == 0) .ret
      | _ => .error .fnRsv
  | 0x13 =>
      let enc := x.d == 0 && x.c.extractLsb' 1 5 == 0
      if x.c.getLsbD 0 then accept enc (.cflushInv x.a x.b) else accept enc (.cflush x.a x.b)
  | 0x14 => accept (x.f3.extractLsb' 1 2 == 0)
      (.vld (x.f3.getLsbD 0) (x.d.extractLsb' 0 4) (x.d.extractLsb' 4 2) x.a x.off9)
  | 0x15 => accept (x.f3 == 0) (.vst (x.d.extractLsb' 0 4) (x.d.extractLsb' 4 2) x.a x.off9)
  | 0x16 => accept (x.c.extractLsb' 1 5 == 0)
      (.vlds (x.c.getLsbD 0) (x.d.extractLsb' 0 4) (x.d.extractLsb' 4 2) x.a x.b)
  | 0x17 => accept (x.c.extractLsb' 4 2 == 0 && x.b.extractLsb' 4 2 == 0)
      (.vgth (x.c.getLsbD 3) (x.d.extractLsb' 0 4) (x.d.extractLsb' 4 2) x.a (x.b.extractLsb' 0 4)
        (x.c.extractLsb' 0 3))
  | 0x18 => accept (x.c.extractLsb' 3 3 == 0 && x.b.extractLsb' 4 2 == 0)
      (.vsct (x.d.extractLsb' 0 4) (x.d.extractLsb' 4 2) x.a (x.b.extractLsb' 0 4) (x.c.extractLsb' 0 3))
  | 0x19 => accept (!x.c.getLsbD 5 && x.b == 0 && decide (x.d.toNat + (x.c.extractLsb' 0 3).toNat ≤ 63))
      (.send x.d x.a (x.c.extractLsb' 0 3) (x.c.extractLsb' 3 2))
  | 0x1A =>
      let rng := decide (x.d.toNat + 7 ≤ 63) && !(decide (x.d.toNat ≤ x.a.toNat) && decide (x.a.toNat ≤ x.d.toNat + 7))
      let enc := x.c.extractLsb' 3 3 == 0 && rng
      if x.c.getLsbD 2 then accept (enc && predOk x.b) (.recvNb x.d x.a (x.c.extractLsb' 0 2) (predOf x.b))
      else accept (enc && x.b == 0) (.recv x.d x.a (x.c.extractLsb' 0 2))
  | 0x1B => accept (x.d == 0 && x.b == 0 && x.c.extractLsb' 4 2 == 0)
      (.mbind x.a (x.c.extractLsb' 0 2) (x.c.extractLsb' 2 2))
  | 0x1C => accept (x.d == 0 && predOk x.b && x.c.extractLsb' 2 4 == 0)
      (.rqput x.a (x.c.extractLsb' 0 2) (predOf x.b))
  | 0x1D => accept (x.a == 0 && predOk x.b && x.c.extractLsb' 2 4 == 0)
      (.rqtake x.d (x.c.extractLsb' 0 2) (predOf x.b))
  | 0x1E =>
      let enc := x.a == 0 && x.c.extractLsb' 1 5 == 0 && decide (x.d.toNat + 3 ≤ 63)
      if x.c.getLsbD 0 then accept (enc && predOk x.b) (.waitevNb x.d (predOf x.b))
      else accept (enc && x.b == 0) (.waitev x.d)
  | 0x1F => if x.imm12.extractLsb' 0 4 == 0 then .error .fnRsv
      else accept (x.d == 0 && x.a == 0 && x.imm12.extractLsb' 4 8 == 0) (.sleep (x.c.extractLsb' 0 4))
  | 0x20 => accept (x.d == 0 && x.c == 0) (.cpy x.a x.b)
  | 0x21 =>
      let enc := x.d == 0 && x.c.extractLsb' 1 5 == 0
      if x.c.getLsbD 0 then accept enc (.gathOwn x.a x.b) else accept enc (.gath x.a x.b)
  | 0x22 =>
      let enc := x.d == 0 && x.c.extractLsb' 1 5 == 0
      if x.c.getLsbD 0 then accept enc (.scatAdd x.a x.b) else accept enc (.scat x.a x.b)
  | 0x23 => accept (x.d == 0 && x.c == 0) (.xchg x.a x.b)
  | 0x24 => accept (x.d == 0 && x.c == 0) (.mxc x.a x.b)
  | 0x28 =>
      if x.c.getLsbD 0 then
        if !x.c.getLsbD 1 && !x.c.getLsbD 2 then .error .fnRsv
        else accept (x.c.extractLsb' 3 3 == 0) (.joinNew (x.c.getLsbD 1) (x.c.getLsbD 2) x.d x.a x.b)
      else accept (x.c == 0 && x.b == 0) (.join x.d x.a)
  | 0x29 => accept (x.d == 0 && x.b == 0 && x.c == 0) (.leave x.a)
  | 0x2A =>
      let enc := x.d == 0 && x.b == 0 && x.c.extractLsb' 2 4 == 0
      match (x.c.extractLsb' 0 2).toNat with
      | 0 => accept enc (.bar x.a)
      | 1 => accept enc (.barArr x.a)
      | 2 => accept enc (.barWait x.a)
      | _ => .error .fnRsv
  | 0x2B =>
      let enc := x.d == 0 && x.b == 0 && x.c.extractLsb' 1 5 == 0
      if x.c.getLsbD 0 then accept enc (.coupleRe x.a) else accept enc (.couple x.a)
  | 0x2C => accept (x.d == 0) (.rjput x.a x.b x.c)
  | 0x2D => accept (predOk x.b && x.c == 0 && decide (x.d.toNat + 1 ≤ 63)) (.rjtake x.d x.a (predOf x.b))
  | 0x30 => accept (predOk x.b && x.c == 0) (.spawn x.d x.a (predOf x.b))
  | 0x31 => accept (x.a == 0 && x.b == 0 && x.c.extractLsb' 3 3 == 0
        && decide (x.d.toNat + (x.c.extractLsb' 0 3).toNat ≤ 63)) (.reply x.d (x.c.extractLsb' 0 3))
  | 0x32 => accept (x.d == 0 && x.a == 0 && x.b == 0 && x.c == 0) .exit
  | 0x38 => accept (x.a == 0 && x.imm12.extractLsb' 10 2 == 0) (.srd x.d (x.imm12.extractLsb' 0 10))
  | 0x39 => accept (x.d == 0 && x.imm12.extractLsb' 10 2 == 0) (.swr (x.imm12.extractLsb' 0 10) x.a)
  | 0x3A => accept (x.d == 0 && x.a == 0) (.trap x.imm12)
  | 0x3B => accept (x.d == 0 && x.a == 0 && x.b == 0 && x.c == 0) .eret
  | 0x3C => accept (x.d == 0 && x.a == 0 && x.imm12.extractLsb' 1 11 == 0) (.repart (x.c.getLsbD 0))
  | 0x3D =>
      let enc := x.d == 0 && x.c.extractLsb' 2 4 == 0
      match (x.c.extractLsb' 0 2).toNat with
      | 0 => accept enc (.tlbinvPage x.a x.b)
      | 1 => accept (enc && x.a == 0) (.tlbinvAsid x.b)
      | 2 => accept (enc && x.a == 0 && x.b == 0) .tlbinvAll
      | _ => .error .fnRsv
  | 0x3E => accept (x.b == 0 && x.c == 0) (.retag x.d x.a)
  | 0x3F => accept (x.a.extractLsb' 0 2 == 0 && x.b == 0 && x.c == 0)
      (.blk (x.d) (x.a.getLsbD 5) (x.a.getLsbD 4) (x.a.getLsbD 3) (x.a.getLsbD 2))
  | _ => .error .opcRsv

/-- The alu functions with three registers, by fn (R63). -/
def aluBinary (fn : Nat) : Option (RegNo → RegNo → RegNo → Instr) :=
  match fn with
  | 0x00 => some .add | 0x01 => some .sub | 0x02 => some .and | 0x03 => some .or | 0x04 => some .xor
  | 0x05 => some .andn | 0x06 => some .orn | 0x07 => some .sll | 0x08 => some .srl | 0x09 => some .sra
  | 0x0A => some .rol | 0x0B => some .ror | 0x0C => some .mul | 0x0D => some .mulh | 0x0E => some .mulhu
  | 0x0F => some .div | 0x10 => some .divu | 0x11 => some .rem | 0x12 => some .remu | 0x13 => some .min
  | 0x14 => some .max | 0x15 => some .minu | 0x16 => some .maxu | 0x1B => some .addw | 0x1C => some .subw
  | 0x1D => some .mulw | 0x1E => some .sllw | 0x1F => some .srlw | 0x20 => some .sraw | 0x22 => some .hash64
  | 0x23 => some .crc32c | _ => none

/-- The unary alu functions (R63). -/
def aluUnary (fn : Nat) : Option (RegNo → RegNo → Instr) :=
  match fn with
  | 0x17 => some .clz | 0x18 => some .ctz | 0x19 => some .popc | 0x1A => some .bswap | 0x21 => some .mov
  | _ => none

/-- The float operations of major 0x10 with three registers (R64). -/
def fpuBinary (fn : Nat) : Option (RegNo → RegNo → RegNo → Instr) :=
  match fn with
  | 0x00 => some .faddS | 0x01 => some .fsubS | 0x02 => some .fmulS | 0x03 => some .fdivS
  | 0x05 => some .fminS | 0x06 => some .fmaxS
  | 0x10 => some .faddD | 0x11 => some .fsubD | 0x12 => some .fmulD | 0x13 => some .fdivD
  | 0x15 => some .fminD | 0x16 => some .fmaxD | _ => none

/-- The unary float operations of major 0x10 (R64). -/
def fpuUnary (fn : Nat) : Option (RegNo → RegNo → Instr) :=
  match fn with
  | 0x04 => some .fsqrtS | 0x07 => some .fabsS | 0x08 => some .fnegS
  | 0x14 => some .fsqrtD | 0x17 => some .fabsD | 0x18 => some .fnegD | _ => none

/-- The shift-immediate kinds (R61, R130). -/
def shiftImm (kind : Nat) : Option (RegNo → RegNo → BitVec 6 → Instr) :=
  match kind with
  | 0 => some .slli | 1 => some .srli | 2 => some .srai | 3 => some .roli | 4 => some .rori
  | 5 => some .sllwi | 6 => some .srlwi | 7 => some .srawi | _ => none

/-- The binary functions of valu that accept a type (R227). -/
def valuBinary (fn : Nat) (t : VType) : Option (VType → BitVec 4 → BitVec 4 → BitVec 4 → BitVec 2 → Instr) :=
  let int (i : VType → BitVec 4 → BitVec 4 → BitVec 4 → BitVec 2 → Instr) := if t.isInt then some i else none
  match fn with
  | 0x00 => some .vadd | 0x01 => some .vsub | 0x02 => some .vmul | 0x03 => some .vmin | 0x04 => some .vmax
  | 0x05 => int .vminu | 0x06 => int .vmaxu | 0x07 => int .vadds | 0x08 => int .vsubs
  | 0x09 => int .vaddus | 0x0A => int .vsubus | 0x0B => int .vavg | 0x0C => int .vmulh
  | 0x0D => int .vand | 0x0E => int .vor | 0x0F => int .vxor | 0x10 => int .vandn
  | 0x11 => int .vshl | 0x12 => int .vshr | 0x13 => int .vsar
  | 0x16 => if t.isInt then none else some .vdiv
  | _ => none

/-- The unary functions of valu that accept a type (R227). -/
def valuUnary (fn : Nat) (t : VType) : Option (VType → BitVec 4 → BitVec 4 → BitVec 2 → Instr) :=
  let int (i : VType → BitVec 4 → BitVec 4 → BitVec 2 → Instr) := if t.isInt then some i else none
  let flt (i : VType → BitVec 4 → BitVec 4 → BitVec 2 → Instr) := if t.isInt then none else some i
  match fn with
  | 0x14 => some .vabs | 0x15 => some .vneg
  | 0x17 => flt .vrcp | 0x18 => flt .vrsq | 0x19 => flt .vsqrt | 0x1A => flt .vexp2 | 0x1B => flt .vlog2
  | 0x1C => flt .vtanh | 0x1D => int .vpopc | 0x1E => int .vclz | _ => none

/-- The types that convert to and from block formats (R232, R233). -/
def floatTypes (t : VType) : Bool := !t.isInt

/-- The vector majors 0x20..0x2F (R65, R227..R240). Types 6 and 7 are FN_RSV in every vector word, those whose type field is
reserved among them. -/
def decodeV (x : Body) : Except DecodeError Instr :=
  let ty := VType.ofCode x.vtype
  match x.op.toNat with
  | 0x20 => match ty with
      | none => .error .fnRsv
      | some t => match valuBinary x.vfn.toNat t with
        | some i => .ok (i t x.vd x.va x.vb x.vk)
        | none => acceptFn (valuUnary x.vfn.toNat t) (x.vb == 0) (fun i => i t x.vd x.va x.vk)
  | 0x21 => match ty with
      | none => .error .fnRsv
      | some t => acceptFn (keepIf (VFmaOp.ofCode x.vfn) (fun f => f.takes t)) true
          (fun f => .vfma f t x.vd x.va x.vb x.vk)
  | 0x22 => match ty with
      | none => .error .fnRsv
      | some t => acceptFn (keepIf (VCond.ofCode x.c) (fun c => c.isInt == t.isInt))
          (x.vd.extractLsb' 2 2 == 0 && !(t.width == 32 && x.vfn.getLsbD 6))
          (fun c => .vcmp c (x.vfn.getLsbD 6) t (x.vd.extractLsb' 0 2) x.va x.vb x.vk)
  | 0x23 => if x.vfn != 0 || decide (6 ≤ x.vtype.toNat) then .error .fnRsv else accept (x.vtype == 0) (.vsel x.vd x.va x.vb x.vk)
  | 0x24 =>
      let t := VFmt.ofCode (x.c.extractLsb' 0 3)
      let f := VFmt.ofCode (x.c.extractLsb' 3 3)
      if t = f || decide (6 ≤ x.vtype.toNat) then .error .fnRsv
      else accept (!x.vfn.getLsbD 6 && x.vtype == 0 && decide (x.vb.toNat < t.ratio f))
        (.vcvt t f x.vd x.va x.vb x.vk)
  | 0x25 => match keepIf ty floatTypes with
      | none => .error .fnRsv
      | some t => acceptFn (BxFmt.ofCode (x.c.extractLsb' 0 3))
          (x.vfn.extractLsb' 3 4 == 0 && x.vk == 0 && (t == .f32 || x.vb == 0))
          (fun f => .vqnt f t x.vd x.va x.vb)
  | 0x26 => match keepIf ty floatTypes with
      | none => .error .fnRsv
      | some t => acceptFn (BxFmt.ofCode (x.c.extractLsb' 0 3))
          (x.vfn.extractLsb' 4 3 == 0 && x.vb == 0 && (t == .f32 || !x.c.getLsbD 3))
          (fun f => .vdq f t (x.c.getLsbD 3) x.vd x.va x.vk)
  | 0x27 => match ty with
      | none => .error .fnRsv
      | some t => acceptFn (keepIf (VRedOp.ofCode x.vfn) (fun f => f.isInt == t.isInt)) (x.vb == 0)
          (fun f => .vred f t x.vd x.va x.vk)
  | 0x28 => match ty with
      | none => .error .fnRsv
      | some t => acceptFn (keepIf (VScanOp.ofCode x.vfn) (fun f => f.isInt == t.isInt)) (x.vb == 0)
          (fun f => .vscan f t x.vd x.va x.vk)
  | 0x29 => match ty with
      | none => .error .fnRsv
      | some t => if x.vfn.extractLsb' 1 6 == 0 then .ok (.vperm (x.vfn.getLsbD 0) t x.vd x.va x.vb x.vk)
          else .error .fnRsv
  | 0x2A => match ty with
      | none => .error .fnRsv
      | some t => match VShufKind.ofCode (x.vfn.extractLsb' 0 3) with
        | none => .error .fnRsv
        | some q => accept ((q == .rotl || x.vfn.extractLsb' 3 4 == 0) && (!q.unary || x.vb == 0))
            (.vshuf q (x.vfn.extractLsb' 3 4) t x.vd x.va x.vb x.vk)
  | 0x2B => match ty with
      | none => .error .fnRsv
      | some t =>
        if x.vfn.getLsbD 6 then accept (x.c == 0 && x.d.extractLsb' 0 2 == 0) (.vbcastG t x.vd x.a x.vk)
        else accept (x.vb == 0 && decide (x.c.toNat < t.count)) (.vbcast t x.vd x.va x.c x.vk)
  | 0x2C => match ty with
      | none => .error .fnRsv
      | some t => accept (x.vk == 0 && x.d.extractLsb' 0 2 == 0 && decide (x.c.toNat < t.count)
          && (t.isInt || !x.vfn.getLsbD 6)) (.vmovg t (x.vfn.getLsbD 6) x.a x.vd x.c)
  | 0x2D => match ty with
      | none => .error .fnRsv
      | some t => accept (x.vk == 0 && x.d.extractLsb' 0 2 == 0 && decide (x.c.toNat < t.count)
          && !x.vfn.getLsbD 6) (.vins t x.vd x.a x.c)
  | 0x2E => match ty with
      | none => .error .fnRsv
      | some t => match x.vfn.toNat with
        | 0 => accept (x.vb == 0) (.vcmprC t x.vd x.va x.vk)
        | 1 => accept (x.vb == 0) (.vcmprE t x.vd x.va x.vk)
        | _ => .error .fnRsv
  | _ =>
      let enc := x.vtype == 0 && x.vk == 0 && x.vd.extractLsb' 2 2 == 0
      let kd := x.vd.extractLsb' 0 2
      let kk := enc && x.va.extractLsb' 2 2 == 0 && x.vb.extractLsb' 2 2 == 0
      let ka := x.va.extractLsb' 0 2
      let kb := x.vb.extractLsb' 0 2
      let gg := enc && x.d.extractLsb' 0 2 == 0
      if 6 ≤ x.vtype.toNat then .error .fnRsv
      else match x.vfn.toNat with
      | 0 => accept kk (.vmaskAnd kd ka kb)
      | 1 => accept kk (.vmaskOr kd ka kb)
      | 2 => accept kk (.vmaskXor kd ka kb)
      | 3 => accept kk (.vmaskAndn kd ka kb)
      | 4 => accept (enc && x.va.extractLsb' 2 2 == 0 && x.vb == 0) (.vmaskNot kd ka)
      | 5 => accept gg (.vmaskFromg kd x.a)
      | 6 => accept gg (.vmaskTog x.a kd)
      | 7 => accept gg (.vmaskPop x.a kd)
      | 8 => accept gg (.vmaskFirst x.a kd)
      | _ => .error .fnRsv

/-- The A-class map (R61, R62). -/
def decodeA (x : Body) : Except DecodeError Instr :=
  match x.op.toNat with
  | 0x00 => accept (x.d == 0 && x.a == 0 && x.b == 0 && x.c == 0) .nopA
  | 0x01 => match aluBinary x.c.toNat with
      | some i => .ok (i x.d x.a x.b)
      | none => acceptFn (aluUnary x.c.toNat) (x.b == 0) (fun i => i x.d x.a)
  | 0x02 => .ok (.addi x.d x.a x.imm12)
  | 0x03 => .ok (.andi x.d x.a x.imm12)
  | 0x04 => .ok (.ori x.d x.a x.imm12)
  | 0x05 => .ok (.xori x.d x.a x.imm12)
  | 0x06 => acceptFn (shiftImm x.b.toNat) (decide (x.b.toNat < 5) || decide (x.c.toNat < 32)) (fun i => i x.d x.a x.c)
  | 0x07 => .ok (.li x.d x.imm18)
  | 0x08 => .ok (.liu x.d x.imm18)
  | 0x09 => accept (x.c.extractLsb' 3 3 == 0) (.scadd x.d x.a x.b (x.c.extractLsb' 0 3))
  | 0x0A => accept (decide (x.c.toNat + x.b.toNat + 1 ≤ 64)) (.bfx x.d x.a x.c x.b)
  | 0x0B => accept (decide (x.c.toNat + x.b.toNat + 1 ≤ 64)) (.bfi x.d x.a x.c x.b)
  | 0x0C => match Combine.ofCode (x.d.extractLsb' 3 3) with
      | none => .error .fnRsv
      | some k => acceptFn (Cond.ofCode x.c) true (fun c => .cmp c k (predOf x.d) x.a x.b)
  | 0x0D => match Combine.ofCode (x.d.extractLsb' 3 3) with
      | none => .error .fnRsv
      | some k => acceptFn (IntCond.ofCode (x.c.extractLsb' 0 3).toNat) true
          (fun c => .cmpi c k (predOf x.d) x.a (x.b ++ x.c.extractLsb' 3 3))
  | 0x0E =>
      let pp := predOk x.d && predOk x.a && predOk x.b
      match x.c.toNat with
      | 0 => accept pp (.pand (predOf x.d) (predOf x.a) (predOf x.b))
      | 1 => accept pp (.por (predOf x.d) (predOf x.a) (predOf x.b))
      | 2 => accept pp (.pxor (predOf x.d) (predOf x.a) (predOf x.b))
      | 3 => accept pp (.pandn (predOf x.d) (predOf x.a) (predOf x.b))
      | 4 => accept (predOk x.d && predOk x.a && x.b == 0) (.pnot (predOf x.d) (predOf x.a))
      | 5 => accept (x.a == 0 && x.b == 0) (.ppack x.d)
      | 6 => accept (x.d == 0 && x.b == 0) (.punpack x.a)
      | 7 => accept (predOk x.d && x.b == 0) (.isref (predOf x.d) x.a)
      | _ => .error .fnRsv
  | 0x0F => accept (predOk x.c) (.sel x.d x.a x.b (predOf x.c))
  | 0x10 => match fpuBinary x.c.toNat with
      | some i => .ok (i x.d x.a x.b)
      | none => acceptFn (fpuUnary x.c.toNat) (x.b == 0) (fun i => i x.d x.a)
  | 0x11 => .ok (.fmaS x.d x.a x.b x.c)
  | 0x12 => .ok (.fmsS x.d x.a x.b x.c)
  | 0x13 => .ok (.fmaD x.d x.a x.b x.c)
  | 0x14 => .ok (.fmsD x.d x.a x.b x.c)
  | 0x15 => acceptFn (cvtPair (x.c.extractLsb' 0 3) (x.c.extractLsb' 3 3)) (x.b == 0)
      (fun q => .fcvt q.1 q.2 x.d x.a)
  | n => if 0x20 ≤ n ∧ n ≤ 0x2F then decodeV x else .error .opcRsv

/-- The instruction of a body of the given class (R46, R59, R61). -/
def decodeBody (cls : Bool) (x : Body) : Except DecodeError Instr :=
  if cls then decodeA x else decodeM x

/-- The instruction of a Glipel word; its top bit is L or S and no part of the instruction. -/
def decodeWord (w : BitVec 32) : Except DecodeError Instr :=
  decodeBody (wordClass w) (Body.ofWord w)

/-- The reserved bits [13:0] of a header word (R50). -/
def headerReserved (w : BitVec 32) : BitVec 14 := w.extractLsb' 0 14

/-- A word is a blk word: class M and major 0x3F (R50). -/
def isBlkWord (w : BitVec 32) : Bool := !wordClass w && (Body.ofWord w).op == 0x3F

/-- The last register of a range that a word names (R59): of send, recv, waitev, rjtake and reply. -/
def rangeEnd (cls : Bool) (x : Body) : Option Nat :=
  let d := x.d.toNat
  if cls then none
  else match x.op.toNat with
    | 0x19 | 0x31 => some (d + (x.c.extractLsb' 0 3).toNat)
    | 0x1A => some (d + 7)
    | 0x1E => some (d + 3)
    | 0x2D => some (d + 1)
    | _ => none

/-- The general registers that a word's fields name (R57, R59, R61), as numbers, but for those of a range, whose limit is that of
R59: within the mode's registers. -/
def namedG (cls : Bool) (x : Body) : List Nat :=
  let d := x.d.toNat
  let a := x.a.toNat
  let b := x.b.toNat
  let c := x.c.toNat
  if cls then
    match x.op.toNat with
    | 0x01 => [d, a, b]
    | 0x02 | 0x03 | 0x04 | 0x05 | 0x06 | 0x0A | 0x0B | 0x15 => [d, a]
    | 0x07 | 0x08 => [d]
    | 0x09 | 0x0F | 0x10 => [d, a, b]
    | 0x0C => [a, b]
    | 0x0D => [a]
    | 0x0E => match c with
        | 5 => [d]
        | 6 | 7 => [a]
        | _ => []
    | 0x11 | 0x12 | 0x13 | 0x14 => [d, a, b, c]
    | 0x2B => if x.vfn.getLsbD 6 then [a] else []
    | 0x2C | 0x2D => [a]
    | 0x2F => if 5 ≤ x.vfn.toNat then [a] else []
    | _ => []
  else
    match x.op.toNat with
    | 0x01 | 0x03 | 0x05 | 0x06 | 0x07 | 0x08 | 0x30 | 0x3E => [d, a]
    | 0x02 | 0x04 | 0x09 | 0x0A | 0x0F | 0x28 => [d, a, b]
    | 0x0B | 0x0C => [d, a, b, c]
    | 0x0E | 0x12 | 0x14 | 0x15 | 0x17 | 0x18 | 0x1B | 0x1C | 0x29 | 0x2A | 0x2B | 0x39 => [a]
    | 0x13 | 0x16 | 0x20 | 0x21 | 0x22 | 0x23 | 0x24 | 0x3D => [a, b]
    | 0x19 | 0x1A | 0x2D => [a]
    | 0x1D | 0x38 => [d]
    | 0x2C => [a, b, c]
    | _ => []

/-- The vector registers that a word's fields name (R59, R65). -/
def namedV (cls : Bool) (x : Body) : List Nat :=
  let vd := x.vd.toNat
  let va := x.va.toNat
  let vb := x.vb.toNat
  if cls then
    match x.op.toNat with
    | 0x20 | 0x21 | 0x23 | 0x25 | 0x29 | 0x2A => [vd, va, vb]
    | 0x22 => [va, vb]
    | 0x24 | 0x26 | 0x27 | 0x28 | 0x2E => [vd, va]
    | 0x2B => if x.vfn.getLsbD 6 then [vd] else [vd, va]
    | 0x2C | 0x2D => [vd]
    | _ => []
  else
    match x.op.toNat with
    | 0x14 | 0x15 | 0x16 => [(x.d.extractLsb' 0 4).toNat]
    | 0x17 | 0x18 => [(x.d.extractLsb' 0 4).toNat, (x.b.extractLsb' 0 4).toNat]
    | _ => []

/-- A range of registers passes g31 (R59): outside the limits of 32-context mode (R57). -/
def rangeBeyond32 (w : BitVec 32) : Bool :=
  match rangeEnd (wordClass w) (Body.ofWord w) with
  | some r => decide (32 ≤ r)
  | none => false

/-- A word names a register that 32-context mode lacks (R33, R65). -/
def outOfRange32 (w : BitVec 32) : Bool :=
  let x := Body.ofWord w
  (namedG (wordClass w) x).any (fun r => 32 ≤ r) || (namedV (wordClass w) x).any (fun r => 8 ≤ r)

-- Sequencer words (R70)

/-- The instruction of a sequencer word; none for the words that R71 refuses by their bits alone. -/
def decodeSeq (w : BitVec 32) : Option Instr :=
  let z (lo n : Nat) : Bool := w.extractLsb' lo n == 0
  let x2 (lo : Nat) : BitVec 2 := w.extractLsb' lo 2
  let ok (c : Bool) (i : Instr) : Option Instr := if c then some i else none
  match (w.extractLsb' 27 5).toNat with
  | 0x00 => ok (z 0 27) .seqNop
  | 0x01 => ok (z 16 9) (.seta (x2 25) (w.extractLsb' 0 16))
  | 0x02 => if w.getLsbD 24 then ok (z 22 2) (.addaImm (x2 25) (w.extractLsb' 0 22))
      else ok (z 0 22) (.addaReg (x2 25) (x2 22))
  | 0x03 => some (.sets (x2 25) (w.extractLsb' 0 25))
  | 0x04 => if w.getLsbD 24 then some (.loopArg (x2 25) (w.extractLsb' 0 24))
      else some (.loopImm (x2 25) (w.extractLsb' 0 24))
  | 0x05 => ok (z 0 19) (.endl (x2 25) (w.extractLsb' 19 6))
  | 0x06 => ok (z 16 4 && w.extractLsb' 20 3 != 7) (.emitLd (x2 25) (x2 23) (w.extractLsb' 20 3) (w.extractLsb' 0 16))
  | 0x07 => ok (z 16 4 && w.extractLsb' 20 3 != 7) (.emitSt (x2 25) (x2 23) (w.extractLsb' 20 3) (w.extractLsb' 0 16))
  | 0x08 => ok (z 0 15 && w.extractLsb' 20 3 != 7)
      (.emitGth (x2 25) (x2 23) (w.extractLsb' 20 3) (x2 18) (w.extractLsb' 15 3))
  | 0x09 => ok (z 0 15 && w.extractLsb' 20 3 != 7)
      (.emitSct (x2 25) (x2 23) (w.extractLsb' 20 3) (x2 18) (w.extractLsb' 15 3))
  | 0x0A => ok (z 25 2 && z 22 2 && z 0 16) (.brc (w.getLsbD 24) (w.extractLsb' 16 6))
  | 0x0B => ok (z 0 25) (.waitc (x2 25))
  | 0x0C => ok (z 0 24) (.signal (x2 25) (w.getLsbD 24))
  | 0x0D => ok (z 0 27) .seqFence
  | 0x0E => ok (z 0 23) (.eor (w.extractLsb' 23 4))
  | 0x0F => ok (z 0 23) (.seqSync (x2 25) (x2 23))
  | 0x10 => if w.getLsbD 19 then ok (z 0 19) (.setfIn (w.extractLsb' 22 5) (x2 20))
      else ok (z 0 19) (.setf (w.extractLsb' 22 5) (x2 20))
  | 0x11 => ok (z 0 27) .halt
  | _ => none

/-- The instruction that the decoder reads from a word of the opcode table. Only the sequencer rows of
the table carry bits (R70), so nbits = 32 is a sequencer word and every other width is refused. -/
def decodeTableWord (nbits w : Nat) : Option Instr :=
  if nbits = 32 then decodeSeq (BitVec.ofNat 32 w) else none

-- Operation codes of the planes (R284..R306, R320, R327)

/-- The firing that an element operation code names. -/
def decodeElement (op : Nat) : Option Instr :=
  match op with
  | 0x01 => some .feAdd | 0x02 => some .feSub | 0x03 => some .feMul | 0x04 => some .feFma
  | 0x05 => some .feFms | 0x06 => some .feMin | 0x07 => some .feMax | 0x08 => some .feAbs
  | 0x09 => some .feNeg | 0x0A => some .feDiv | 0x0B => some .feRcp | 0x0C => some .feRsq
  | 0x0D => some .feSqrt | 0x0E => some .feExp2 | 0x0F => some .feLog2 | 0x10 => some .feTanh
  | 0x11 => some .feAdds | 0x12 => some .feSubs | 0x13 => some .feAvg | 0x14 => some .feMulh
  | 0x20 => some .feCmpeq | 0x21 => some .feCmpne | 0x22 => some .feCmplt | 0x23 => some .feCmple
  | 0x24 => some .feAnd | 0x25 => some .feOr | 0x26 => some .feXor | 0x27 => some .feNot
  | 0x28 => some .feSel | 0x29 => some .feShl | 0x2A => some .feShr | 0x2B => some .feSar
  | 0x2C => some .fePopc | 0x2D => some .feClz
  | 0x30 => some .feCvt | 0x31 => some .feSround | 0x32 => some .feQmax | 0x33 => some .feQcvt
  | 0x34 => some .feDq
  | 0x40 => some .feRsum | 0x41 => some .feRmax | 0x42 => some .feRmin | 0x43 => some .feAcc
  | 0x44 => some .feScan
  | 0x50 => some .feBcast | 0x51 => some .feShuf | 0x52 => some .fePack | 0x53 => some .feUnpack
  | 0x54 => some .feDelay | 0x55 => some .feCturn | 0x56 => some .feRepl | 0x57 => some .feIota
  | 0x58 => some .feConst | 0x59 => some .feZip | 0x5A => some .feSplit
  | 0x60 => some .feEsc | 0x61 => some .feSync | 0x62 => some .feFence | 0x63 => some .feCmpk
  | 0x64 => some .feHash | 0x65 => some .feSrc | 0x66 => some .feSink
  | 0x85 => some .mtProbe
  | 0x90 => some .mxLoadb | 0x91 => some .mxMm | 0x92 => some .mxDrain | 0x93 => some .mxMsg
  | _ => none

/-- The router operator that a rop code names (R66). -/
def decodeRouter (rop : Nat) : Option Instr :=
  match rop with
  | 1 => some .steer | 2 => some .merge | 3 => some .carry | _ => none

-- The encoders, written from the same tables

/-- An M-class body (R46): the class bit and the fields. -/
def mBody (op d a b c : BitVec 6) : Option (Bool × Body) := some (false, ⟨op, d, a, b, c⟩)
/-- An A-class body (R46). -/
def aBody (op d a b c : BitVec 6) : Option (Bool × Body) := some (true, ⟨op, d, a, b, c⟩)
/-- The MEM format (R56): b carries off9[8:3], c carries off9[2:0] and f3. -/
def memBody (op d a : BitVec 6) (off : BitVec 9) (f3 : BitVec 3) : Option (Bool × Body) :=
  mBody op d a (off.extractLsb' 3 6) (off.extractLsb' 0 3 ++ f3)
/-- The RI format (R56). -/
def riBody (op d a : BitVec 6) (imm : BitVec 12) : Option (Bool × Body) :=
  aBody op d a (imm.extractLsb' 6 6) (imm.extractLsb' 0 6)
/-- The LI format (R56). -/
def liBody (op d : BitVec 6) (imm : BitVec 18) : Option (Bool × Body) :=
  aBody op d (imm.extractLsb' 12 6) (imm.extractLsb' 6 6) (imm.extractLsb' 0 6)
/-- The BR format (R56). -/
def brBody (op : BitVec 6) (p : PredNo) (n : Bool) (off : BitVec 20) : Option (Bool × Body) :=
  mBody op (p ++ BitVec.ofBool n ++ off.extractLsb' 18 2) (off.extractLsb' 12 6) (off.extractLsb' 6 6)
    (off.extractLsb' 0 6)
/-- The VRR format (R65). -/
def vrrBody (op : BitVec 6) (vd va vb : BitVec 4) (k : BitVec 2) (ty : BitVec 3) (fn : BitVec 7) :
    Option (Bool × Body) :=
  aBody op (vd ++ va.extractLsb' 2 2) (va.extractLsb' 0 2 ++ vb) (k ++ ty ++ fn.extractLsb' 6 1)
    (fn.extractLsb' 0 6)
/-- The VRR format with a general register in place of va[1:0] and vb (R65). -/
def vrgBody (op : BitVec 6) (vd : BitVec 4) (a : RegNo) (k : BitVec 2) (ty : BitVec 3) (fn : BitVec 7) :
    Option (Bool × Body) :=
  aBody op (vd ++ (0 : BitVec 2)) a (k ++ ty ++ fn.extractLsb' 6 1) (fn.extractLsb' 0 6)
/-- A predicate number as a 6-bit field (R57). -/
def predField (p : PredNo) : BitVec 6 := p.setWidth 6
/-- A 2-bit mask number as a 4-bit field (R65). -/
def maskField (k : BitVec 2) : BitVec 4 := k.setWidth 4
/-- The d field of vector memory words: k over vd (R59). -/
def vmField (k : BitVec 2) (vd : BitVec 4) : BitVec 6 := k ++ vd

/-- The class and body of a Glipel instruction; none for a step that is no Glipel word. -/
def encodeBody (i : Instr) : Option (Bool × Body) :=
  match i with
  | .nop => mBody 0 0 0 0 0
  | .nopA => aBody 0 0 0 0 0
  | .blk len x sv a16 a32 => mBody 0x3F len (BitVec.ofBool x ++ BitVec.ofBool sv ++ BitVec.ofBool a16 ++ BitVec.ofBool a32 ++ (0 : BitVec 2)) 0 0
  | .ld z d a off => memBody 0x01 d a off z.code
  | .ldx z d a b sh => mBody 0x02 d a b (sh ++ z.code)
  | .st z d a off => memBody 0x03 d a off z.code
  | .stx z d a b sh => mBody 0x04 d a b (sh ++ z.code)
  | .lda z sc d a off => memBody 0x05 d a off (sc.code ++ BitVec.ofBool z.bit)
  | .stl z sc d a off => memBody 0x06 d a off (sc.code ++ BitVec.ofBool z.bit)
  | .ldref o d a off => memBody 0x07 d a off (o.code.setWidth 3)
  | .stref o d a off => memBody 0x08 d a off (o.code.setWidth 3)
  | .amoW op o d a b => mBody 0x09 d a b (op.code ++ o.code)
  | .amoD op o d a b => mBody 0x0A d a b (op.code ++ o.code)
  | .casW d a b c => mBody 0x0B d a b c
  | .casD d a b c => mBody 0x0C d a b c
  | .fenceFull sc => mBody 0x0D 0 0 0 ((0 : BitVec 4) ++ sc.code)
  | .fenceRel sc => mBody 0x0D 0 0 0 ((1 : BitVec 4) ++ sc.code)
  | .fenceAcq sc => mBody 0x0D 0 0 0 ((2 : BitVec 4) ++ sc.code)
  | .fenceEng sc => mBody 0x0D 0 0 0 ((3 : BitVec 4) ++ sc.code)
  | .pub sc a => mBody 0x0E 0 a 0 (sc.code.setWidth 6)
  | .mkobj k d a b => mBody 0x0F d a b (k.code.setWidth 6)
  | .b p n off => brBody 0x10 p n off
  | .call off => brBody 0x11 0 false off
  | .jr a => mBody 0x12 0 a 0 0
  | .callr a => mBody 0x12 0 a 0 1
  | .ret => mBody 0x12 0 0 0 2
  | .cflush a b => mBody 0x13 0 a b 0
  | .cflushInv a b => mBody 0x13 0 a b 1
  | .vld z vd k a off => memBody 0x14 (vmField k vd) a off ((BitVec.ofBool z).setWidth 3)
  | .vst vd k a off => memBody 0x15 (vmField k vd) a off 0
  | .vlds z vd k a b => mBody 0x16 (vmField k vd) a b ((BitVec.ofBool z).setWidth 6)
  | .vgth z vd k a vb sh => mBody 0x17 (vmField k vd) a (vb.setWidth 6) ((BitVec.ofBool z ++ sh).setWidth 6)
  | .vsct vd k a vb sh => mBody 0x18 (vmField k vd) a (vb.setWidth 6) (sh.setWidth 6)
  | .send d a n1 pri => mBody 0x19 d a 0 ((0 : BitVec 1) ++ pri ++ n1)
  | .recv d a ring => mBody 0x1A d a 0 (ring.setWidth 6)
  | .recvNb d a ring p => mBody 0x1A d a (predField p) ((1 : BitVec 4) ++ ring)
  | .mbind a ring pri => mBody 0x1B 0 a 0 ((0 : BitVec 2) ++ pri ++ ring)
  | .rqput a pri p => mBody 0x1C 0 a (predField p) (pri.setWidth 6)
  | .rqtake d pri p => mBody 0x1D d 0 (predField p) (pri.setWidth 6)
  | .waitev d => mBody 0x1E d 0 0 0
  | .waitevNb d p => mBody 0x1E d 0 (predField p) 1
  | .sleep mask => mBody 0x1F 0 0 0 (mask.setWidth 6)
  | .cpy a b => mBody 0x20 0 a b 0
  | .gath a b => mBody 0x21 0 a b 0
  | .gathOwn a b => mBody 0x21 0 a b 1
  | .scat a b => mBody 0x22 0 a b 0
  | .scatAdd a b => mBody 0x22 0 a b 1
  | .xchg a b => mBody 0x23 0 a b 0
  | .mxc a b => mBody 0x24 0 a b 0
  | .join d a => mBody 0x28 d a 0 0
  | .joinNew pool bound d a b => mBody 0x28 d a b ((BitVec.ofBool bound ++ BitVec.ofBool pool ++ (1 : BitVec 1)).setWidth 6)
  | .leave a => mBody 0x29 0 a 0 0
  | .bar a => mBody 0x2A 0 a 0 0
  | .barArr a => mBody 0x2A 0 a 0 1
  | .barWait a => mBody 0x2A 0 a 0 2
  | .couple a => mBody 0x2B 0 a 0 0
  | .coupleRe a => mBody 0x2B 0 a 0 1
  | .rjput a b c => mBody 0x2C 0 a b c
  | .rjtake d a p => mBody 0x2D d a (predField p) 0
  | .spawn d a p => mBody 0x30 d a (predField p) 0
  | .reply d n1 => mBody 0x31 d 0 0 (n1.setWidth 6)
  | .exit => mBody 0x32 0 0 0 0
  | .srd d num => mBody 0x38 d 0 ((num.extractLsb' 6 4).setWidth 6) (num.extractLsb' 0 6)
  | .swr num a => mBody 0x39 0 a ((num.extractLsb' 6 4).setWidth 6) (num.extractLsb' 0 6)
  | .trap code => mBody 0x3A 0 0 (code.extractLsb' 6 6) (code.extractLsb' 0 6)
  | .eret => mBody 0x3B 0 0 0 0
  | .repart mode => mBody 0x3C 0 0 0 ((BitVec.ofBool mode).setWidth 6)
  | .tlbinvPage a b => mBody 0x3D 0 a b 0
  | .tlbinvAsid b => mBody 0x3D 0 0 b 1
  | .tlbinvAll => mBody 0x3D 0 0 0 2
  | .retag d a => mBody 0x3E d a 0 0
  | .add d a b => aBody 0x01 d a b 0x00
  | .sub d a b => aBody 0x01 d a b 0x01
  | .and d a b => aBody 0x01 d a b 0x02
  | .or d a b => aBody 0x01 d a b 0x03
  | .xor d a b => aBody 0x01 d a b 0x04
  | .andn d a b => aBody 0x01 d a b 0x05
  | .orn d a b => aBody 0x01 d a b 0x06
  | .sll d a b => aBody 0x01 d a b 0x07
  | .srl d a b => aBody 0x01 d a b 0x08
  | .sra d a b => aBody 0x01 d a b 0x09
  | .rol d a b => aBody 0x01 d a b 0x0A
  | .ror d a b => aBody 0x01 d a b 0x0B
  | .mul d a b => aBody 0x01 d a b 0x0C
  | .mulh d a b => aBody 0x01 d a b 0x0D
  | .mulhu d a b => aBody 0x01 d a b 0x0E
  | .div d a b => aBody 0x01 d a b 0x0F
  | .divu d a b => aBody 0x01 d a b 0x10
  | .rem d a b => aBody 0x01 d a b 0x11
  | .remu d a b => aBody 0x01 d a b 0x12
  | .min d a b => aBody 0x01 d a b 0x13
  | .max d a b => aBody 0x01 d a b 0x14
  | .minu d a b => aBody 0x01 d a b 0x15
  | .maxu d a b => aBody 0x01 d a b 0x16
  | .addw d a b => aBody 0x01 d a b 0x1B
  | .subw d a b => aBody 0x01 d a b 0x1C
  | .mulw d a b => aBody 0x01 d a b 0x1D
  | .sllw d a b => aBody 0x01 d a b 0x1E
  | .srlw d a b => aBody 0x01 d a b 0x1F
  | .sraw d a b => aBody 0x01 d a b 0x20
  | .hash64 d a b => aBody 0x01 d a b 0x22
  | .crc32c d a b => aBody 0x01 d a b 0x23
  | .clz d a => aBody 0x01 d a 0 0x17
  | .ctz d a => aBody 0x01 d a 0 0x18
  | .popc d a => aBody 0x01 d a 0 0x19
  | .bswap d a => aBody 0x01 d a 0 0x1A
  | .mov d a => aBody 0x01 d a 0 0x21
  | .faddS d a b => aBody 0x10 d a b 0x00
  | .fsubS d a b => aBody 0x10 d a b 0x01
  | .fmulS d a b => aBody 0x10 d a b 0x02
  | .fdivS d a b => aBody 0x10 d a b 0x03
  | .fminS d a b => aBody 0x10 d a b 0x05
  | .fmaxS d a b => aBody 0x10 d a b 0x06
  | .faddD d a b => aBody 0x10 d a b 0x10
  | .fsubD d a b => aBody 0x10 d a b 0x11
  | .fmulD d a b => aBody 0x10 d a b 0x12
  | .fdivD d a b => aBody 0x10 d a b 0x13
  | .fminD d a b => aBody 0x10 d a b 0x15
  | .fmaxD d a b => aBody 0x10 d a b 0x16
  | .fsqrtS d a => aBody 0x10 d a 0 0x04
  | .fabsS d a => aBody 0x10 d a 0 0x07
  | .fnegS d a => aBody 0x10 d a 0 0x08
  | .fsqrtD d a => aBody 0x10 d a 0 0x14
  | .fabsD d a => aBody 0x10 d a 0 0x17
  | .fnegD d a => aBody 0x10 d a 0 0x18
  | .addi d a imm => riBody 0x02 d a imm
  | .andi d a imm => riBody 0x03 d a imm
  | .ori d a imm => riBody 0x04 d a imm
  | .xori d a imm => riBody 0x05 d a imm
  | .slli d a n => aBody 0x06 d a 0 n
  | .srli d a n => aBody 0x06 d a 1 n
  | .srai d a n => aBody 0x06 d a 2 n
  | .roli d a n => aBody 0x06 d a 3 n
  | .rori d a n => aBody 0x06 d a 4 n
  | .sllwi d a n => aBody 0x06 d a 5 n
  | .srlwi d a n => aBody 0x06 d a 6 n
  | .srawi d a n => aBody 0x06 d a 7 n
  | .li d imm => liBody 0x07 d imm
  | .liu d imm => liBody 0x08 d imm
  | .scadd d a b sh => aBody 0x09 d a b (sh.setWidth 6)
  | .bfx d a lsb width1 => aBody 0x0A d a width1 lsb
  | .bfi d a lsb width1 => aBody 0x0B d a width1 lsb
  | .cmp c k pd a b => aBody 0x0C (k.code ++ pd) a b c.code
  | .cmpi c k pd a imm => aBody 0x0D (k.code ++ pd) a (imm.extractLsb' 3 6) (imm.extractLsb' 0 3 ++ BitVec.ofNat 3 c.code)
  | .pand pd pa pb => aBody 0x0E (predField pd) (predField pa) (predField pb) 0
  | .por pd pa pb => aBody 0x0E (predField pd) (predField pa) (predField pb) 1
  | .pxor pd pa pb => aBody 0x0E (predField pd) (predField pa) (predField pb) 2
  | .pandn pd pa pb => aBody 0x0E (predField pd) (predField pa) (predField pb) 3
  | .pnot pd pa => aBody 0x0E (predField pd) (predField pa) 0 4
  | .ppack d => aBody 0x0E d 0 0 5
  | .punpack a => aBody 0x0E 0 a 0 6
  | .isref pd a => aBody 0x0E (predField pd) a 0 7
  | .sel d a b pc => aBody 0x0F d a b (predField pc)
  | .fmaS d a b c => aBody 0x11 d a b c
  | .fmsS d a b c => aBody 0x12 d a b c
  | .fmaD d a b c => aBody 0x13 d a b c
  | .fmsD d a b c => aBody 0x14 d a b c
  | .fcvt dst src d a => aBody 0x15 d a 0 (src.code ++ dst.code)
  | .vadd t vd va vb k => vrrBody 0x20 vd va vb k t.code 0x00
  | .vsub t vd va vb k => vrrBody 0x20 vd va vb k t.code 0x01
  | .vmul t vd va vb k => vrrBody 0x20 vd va vb k t.code 0x02
  | .vmin t vd va vb k => vrrBody 0x20 vd va vb k t.code 0x03
  | .vmax t vd va vb k => vrrBody 0x20 vd va vb k t.code 0x04
  | .vminu t vd va vb k => vrrBody 0x20 vd va vb k t.code 0x05
  | .vmaxu t vd va vb k => vrrBody 0x20 vd va vb k t.code 0x06
  | .vadds t vd va vb k => vrrBody 0x20 vd va vb k t.code 0x07
  | .vsubs t vd va vb k => vrrBody 0x20 vd va vb k t.code 0x08
  | .vaddus t vd va vb k => vrrBody 0x20 vd va vb k t.code 0x09
  | .vsubus t vd va vb k => vrrBody 0x20 vd va vb k t.code 0x0A
  | .vavg t vd va vb k => vrrBody 0x20 vd va vb k t.code 0x0B
  | .vmulh t vd va vb k => vrrBody 0x20 vd va vb k t.code 0x0C
  | .vand t vd va vb k => vrrBody 0x20 vd va vb k t.code 0x0D
  | .vor t vd va vb k => vrrBody 0x20 vd va vb k t.code 0x0E
  | .vxor t vd va vb k => vrrBody 0x20 vd va vb k t.code 0x0F
  | .vandn t vd va vb k => vrrBody 0x20 vd va vb k t.code 0x10
  | .vshl t vd va vb k => vrrBody 0x20 vd va vb k t.code 0x11
  | .vshr t vd va vb k => vrrBody 0x20 vd va vb k t.code 0x12
  | .vsar t vd va vb k => vrrBody 0x20 vd va vb k t.code 0x13
  | .vdiv t vd va vb k => vrrBody 0x20 vd va vb k t.code 0x16
  | .vabs t vd va k => vrrBody 0x20 vd va 0 k t.code 0x14
  | .vneg t vd va k => vrrBody 0x20 vd va 0 k t.code 0x15
  | .vrcp t vd va k => vrrBody 0x20 vd va 0 k t.code 0x17
  | .vrsq t vd va k => vrrBody 0x20 vd va 0 k t.code 0x18
  | .vsqrt t vd va k => vrrBody 0x20 vd va 0 k t.code 0x19
  | .vexp2 t vd va k => vrrBody 0x20 vd va 0 k t.code 0x1A
  | .vlog2 t vd va k => vrrBody 0x20 vd va 0 k t.code 0x1B
  | .vtanh t vd va k => vrrBody 0x20 vd va 0 k t.code 0x1C
  | .vpopc t vd va k => vrrBody 0x20 vd va 0 k t.code 0x1D
  | .vclz t vd va k => vrrBody 0x20 vd va 0 k t.code 0x1E
  | .vfma f t vd va vb k => vrrBody 0x21 vd va vb k t.code f.code
  | .vcmp c any t kd va vb k => vrrBody 0x22 (maskField kd) va vb k t.code (BitVec.ofBool any ++ c.code)
  | .vsel vd va vb k => vrrBody 0x23 vd va vb k 0 0
  | .vcvt dst src vd va part k => vrrBody 0x24 vd va part k 0 ((0 : BitVec 1) ++ src.code ++ dst.code)
  | .vqnt f t vd va vb => vrrBody 0x25 vd va vb 0 t.code (f.code.setWidth 7)
  | .vdq f t part vd va k => vrrBody 0x26 vd va 0 k t.code ((BitVec.ofBool part ++ f.code).setWidth 7)
  | .vred f t vd va k => vrrBody 0x27 vd va 0 k t.code f.code
  | .vscan f t vd va k => vrrBody 0x28 vd va 0 k t.code f.code
  | .vperm t2 t vd va vb k => vrrBody 0x29 vd va vb k t.code ((BitVec.ofBool t2).setWidth 7)
  | .vshuf kind s t vd va vb k => vrrBody 0x2A vd va vb k t.code (s ++ kind.code)
  | .vbcast t vd va idx k => vrrBody 0x2B vd va 0 k t.code (idx.setWidth 7)
  | .vbcastG t vd a k => vrgBody 0x2B vd a k t.code 0x40
  | .vmovg t zext d va idx => vrgBody 0x2C va d 0 t.code (BitVec.ofBool zext ++ idx)
  | .vins t vd a idx => vrgBody 0x2D vd a 0 t.code (idx.setWidth 7)
  | .vcmprC t vd va k => vrrBody 0x2E vd va 0 k t.code 0
  | .vcmprE t vd va k => vrrBody 0x2E vd va 0 k t.code 1
  | .vmaskAnd kd ka kb => vrrBody 0x2F (maskField kd) (maskField ka) (maskField kb) 0 0 0
  | .vmaskOr kd ka kb => vrrBody 0x2F (maskField kd) (maskField ka) (maskField kb) 0 0 1
  | .vmaskXor kd ka kb => vrrBody 0x2F (maskField kd) (maskField ka) (maskField kb) 0 0 2
  | .vmaskAndn kd ka kb => vrrBody 0x2F (maskField kd) (maskField ka) (maskField kb) 0 0 3
  | .vmaskNot kd ka => vrrBody 0x2F (maskField kd) (maskField ka) 0 0 0 4
  | .vmaskFromg kd a => vrgBody 0x2F (maskField kd) a 0 0 5
  | .vmaskTog d ka => vrgBody 0x2F (maskField ka) d 0 0 6
  | .vmaskPop d ka => vrgBody 0x2F (maskField ka) d 0 0 7
  | .vmaskFirst d ka => vrgBody 0x2F (maskField ka) d 0 0 8
  | _ => none

/-- The 32-bit word of a Glipel instruction with its top bit (L or S) clear (R46). -/
def encodeWord (i : Instr) : Option (BitVec 32) := (encodeBody i).map (fun q => q.2.word false q.1)

/-- The word of a sequencer instruction (R70); none for a step that is no sequencer word. -/
def encodeSeq (i : Instr) : Option (BitVec 32) :=
  match i with
  | .seqNop => some 0
  | .seta b a => some ((0x01 : BitVec 5) ++ b ++ (0 : BitVec 9) ++ a)
  | .addaReg b t => some ((0x02 : BitVec 5) ++ b ++ (0 : BitVec 1) ++ t ++ (0 : BitVec 22))
  | .addaImm b i => some ((0x02 : BitVec 5) ++ b ++ (1 : BitVec 1) ++ (0 : BitVec 2) ++ i)
  | .sets t i => some ((0x03 : BitVec 5) ++ t ++ i)
  | .loopImm n c => some ((0x04 : BitVec 5) ++ n ++ (0 : BitVec 1) ++ c)
  | .loopArg n a => some ((0x04 : BitVec 5) ++ n ++ (1 : BitVec 1) ++ a)
  | .endl n top => some ((0x05 : BitVec 5) ++ n ++ top ++ (0 : BitVec 19))
  | .emitLd b q sz off => some ((0x06 : BitVec 5) ++ b ++ q ++ sz ++ (0 : BitVec 4) ++ off)
  | .emitSt b q sz off => some ((0x07 : BitVec 5) ++ b ++ q ++ sz ++ (0 : BitVec 4) ++ off)
  | .emitGth b iq sz oq sh => some ((0x08 : BitVec 5) ++ b ++ iq ++ sz ++ oq ++ sh ++ (0 : BitVec 15))
  | .emitSct b iq sz dq sh => some ((0x09 : BitVec 5) ++ b ++ iq ++ sz ++ dq ++ sh ++ (0 : BitVec 15))
  | .brc pol top => some ((0x0A : BitVec 5) ++ (0 : BitVec 2) ++ BitVec.ofBool pol ++ (0 : BitVec 2) ++ top ++ (0 : BitVec 16))
  | .waitc link => some ((0x0B : BitVec 5) ++ link ++ (0 : BitVec 25))
  | .signal link v => some ((0x0C : BitVec 5) ++ link ++ BitVec.ofBool v ++ (0 : BitVec 24))
  | .seqFence => some ((0x0D : BitVec 5) ++ (0 : BitVec 27))
  | .eor qmask => some ((0x0E : BitVec 5) ++ qmask ++ (0 : BitVec 23))
  | .seqSync level sc => some ((0x0F : BitVec 5) ++ level ++ sc ++ (0 : BitVec 23))
  | .setf fmt q => some ((0x10 : BitVec 5) ++ fmt ++ q ++ (0 : BitVec 20))
  | .setfIn fmt q => some ((0x10 : BitVec 5) ++ fmt ++ q ++ (1 : BitVec 1) ++ (0 : BitVec 19))
  | .halt => some ((0x11 : BitVec 5) ++ (0 : BitVec 27))
  | _ => none

/-- The element operation code of a firing (R284..R306, R320, R327). -/
def encodeElement (i : Instr) : Option Nat :=
  match i with
  | .feAdd => some 0x01
  | .feSub => some 0x02
  | .feMul => some 0x03
  | .feFma => some 0x04
  | .feFms => some 0x05
  | .feMin => some 0x06
  | .feMax => some 0x07
  | .feAbs => some 0x08
  | .feNeg => some 0x09
  | .feDiv => some 0x0A
  | .feRcp => some 0x0B
  | .feRsq => some 0x0C
  | .feSqrt => some 0x0D
  | .feExp2 => some 0x0E
  | .feLog2 => some 0x0F
  | .feTanh => some 0x10
  | .feAdds => some 0x11
  | .feSubs => some 0x12
  | .feAvg => some 0x13
  | .feMulh => some 0x14
  | .feCmpeq => some 0x20
  | .feCmpne => some 0x21
  | .feCmplt => some 0x22
  | .feCmple => some 0x23
  | .feAnd => some 0x24
  | .feOr => some 0x25
  | .feXor => some 0x26
  | .feNot => some 0x27
  | .feSel => some 0x28
  | .feShl => some 0x29
  | .feShr => some 0x2A
  | .feSar => some 0x2B
  | .fePopc => some 0x2C
  | .feClz => some 0x2D
  | .feCvt => some 0x30
  | .feSround => some 0x31
  | .feQmax => some 0x32
  | .feQcvt => some 0x33
  | .feDq => some 0x34
  | .feRsum => some 0x40
  | .feRmax => some 0x41
  | .feRmin => some 0x42
  | .feAcc => some 0x43
  | .feScan => some 0x44
  | .feBcast => some 0x50
  | .feShuf => some 0x51
  | .fePack => some 0x52
  | .feUnpack => some 0x53
  | .feDelay => some 0x54
  | .feCturn => some 0x55
  | .feRepl => some 0x56
  | .feIota => some 0x57
  | .feConst => some 0x58
  | .feZip => some 0x59
  | .feSplit => some 0x5A
  | .feEsc => some 0x60
  | .feSync => some 0x61
  | .feFence => some 0x62
  | .feCmpk => some 0x63
  | .feHash => some 0x64
  | .feSrc => some 0x65
  | .feSink => some 0x66
  | .mtProbe => some 0x85
  | .mxLoadb => some 0x90
  | .mxMm => some 0x91
  | .mxDrain => some 0x92
  | .mxMsg => some 0x93
  | _ => none

/-- The rop code of a router operator (R66). -/
def encodeRouter (i : Instr) : Option Nat :=
  match i with
  | .steer => some 1
  | .merge => some 2
  | .carry => some 3
  | _ => none

end Sys2Proof
end

