-- ==== Sys2Proof/Machine/State.lean ====
section
/-!
DEFINITION. The state of the part as plain data: contexts, cores, herds, the memory system, launches,
faults, the fabric, and the device's management. Sparse tables are lists of number and value pairs.
-/

namespace Sys2Proof.Machine

/-- A sparse table: number and value pairs, read by mget and written by mset. -/
abbrev Map (α : Type) : Type := List (Nat × α)

/-- Why the machine stops with a fault. -/
inductive Fault where
  /-- A sequencer met a word that the loader refuses (R71): no admitted configuration holds one.
  Raised by the fetch of a sequencer. Safe: the part never holds such a word. -/
  | seqWord (word : BitVec 32)
  /-- A context's block buffer holds a word that the fetch refuses (R54). Raised by the issue of a context.
  Safe: no fetched block holds one. -/
  | blockWord (word : BitVec 32)
  deriving DecidableEq, Repr

/-- Why the machine refuses an instruction. -/
inductive Refusal where
  /-- The instruction has no meaning yet. Raised by exec's arms. Safe: the model stops. -/
  | notModelled (mnemonic : String)
  deriving DecidableEq, Repr

-- Registers of a context (R34, R35)

/-- A 64-bit value with its tag (R34). -/
structure Tagged where
  val : Word := 0
  tag : Bool := false
  deriving DecidableEq, Repr

/-- The registers that a block writes and its commit publishes. A general register that is not listed
reads zero with its tag clear, a vector register zero, a mask 0xFFFF (R21). -/
structure Regs where
  g : Map Tagged := []
  p : BitVec 8 := 1
  v : Map Vec := []
  k : Map (BitVec 16) := []
  /-- s.fcsr (R138) -/
  fcsr : Word := 0
  deriving DecidableEq, Repr

/-- One register write of a result that has not returned yet. -/
inductive RegWrite where
  | g (r : Nat) (x : Tagged)
  | p (r : Nat) (b : Bool)
  | v (r : Nat) (x : Vec)
  | k (r : Nat) (x : BitVec 16)
  /-- sticky bits of s.fcsr ORed into it (R138) -/
  | flags (f : Nat)
  deriving DecidableEq, Repr

/-- What a trap writes into s.cause, s.tblk, s.tidx, s.tval and s.tval2 (R408). -/
structure TrapInfo where
  cause : Nat
  tblk : Word
  tidx : Nat
  tval : Word
  tval2 : Word
  deriving DecidableEq, Repr

/-- A write of bytes of one 8-byte word, by its physical word number: bit i of the mask writes byte i, and
the word takes the tag (R11, R155). -/
structure WordWrite where
  word : Nat
  mask : BitVec 8
  val : Word
  tag : Bool := false
  deriving DecidableEq, Repr

/-- A store in a context's store buffer (R25, R156). -/
structure StoreReq where
  writes : List WordWrite
  /-- the virtual address it was addressed by -/
  va : Nat
  /-- the address space it was made in -/
  asid : Nat := 0
  /-- the physical address of the header of the object that a reference store reaches -/
  obj : Option Nat := none
  /-- the scope of a releasing form, 0 for none -/
  rel : Nat := 0
  /-- the object and scope of an implicit publish (R164) -/
  pub : Option (Nat × Nat) := none
  /-- physical words whose tags mkobj clears after the write, from the word behind it on (R153) -/
  clear : List Nat := []
  /-- the physical words of the body of an object that mkobj creates: first word and count of each range (R175) -/
  body : List (Nat × Nat) := []
  /-- an exposed access (R178) -/
  exposed : Bool := false
  /-- its leaf is global, so that an entry of any address space may have served it (R216, R365) -/
  glob : Bool := false
  deriving DecidableEq, Repr

/-- A checked access: its address, page, and for a reference access the header's address, word and physical address. -/
structure Access where
  va : Word
  pa : Nat
  entry : Word
  hdr : Option (Word × Word) := none
  hpa : Nat := 0
  deriving DecidableEq, Repr

/-- What a waiting context waits for (R181, R420). -/
inductive Wait where
  /-- a phase of the set in table entry e (R188) -/
  | bar (e : Nat)
  /-- the couple gate of the set in table entry e (R191) -/
  | gate (e : Nat)
  /-- a message in a ring, with the destination registers of the recv (R200) -/
  | recv (ring d a : Nat)
  /-- an event record, with the first destination register (R206) -/
  | waitev (d : Nat)
  /-- a cause of a mask (R207) -/
  | sleep (mask : Nat)
  /-- step 3 of exit (R210) -/
  | exit
  /-- the resolution of a fault record (R408, R412, R413) -/
  | fault (index : Nat)
  deriving DecidableEq, Repr

/-- Where a context stands in its block (R23, R26). -/
inductive Phase where
  /-- the block at the resume address is to be fetched -/
  | fetch
  /-- a fetched block issues -/
  | body
  /-- the block has committed; its exposed instruction is to be performed -/
  | exposed (i : Instr)
  /-- a wait of R181 has begun -/
  | wait (w : Wait)
  deriving DecidableEq, Repr

/-- An entry of the membership table (R183). -/
structure Member where
  /-- virtual address of the set record -/
  record : Nat
  phase : Bool := false
  arrived : Bool := false
  deriving DecidableEq, Repr

/-- A mailbox ring's state (R198). -/
structure Ring where
  head : Nat := 0
  occ : Nat := 0
  deriving DecidableEq, Repr

/-- An mbind binding (R204). -/
structure Bind where
  task : Word
  pri : Nat
  armed : Bool
  deriving DecidableEq, Repr

/-- A pending state fault of a context (R184). -/
structure StateFault where
  cause : Nat
  tval : Word
  tval2 : Word
  /-- for causes that need a position (QNT_INF, R232): s.tidx -/
  tidx : Nat := 0
  deriving DecidableEq, Repr

/-- A context (R16, R32). -/
structure Context where
  /-- holds a thread -/
  live : Bool := false
  handle : Nat := 0xFFFFFFFF
  /-- committed registers -/
  arch : Regs := {}
  /-- registers as the current block has written them -/
  work : Regs := {}
  /-- the registers that the words of a pair read (R47) -/
  snap : Option Regs := none
  /-- state registers held per context, by number (R36), but for s.fcsr and s.timer -/
  sreg : Map Word := []
  /-- the cycle in which s.timer reaches zero (R38) -/
  timerAt : Option Nat := none
  timerEvent : Bool := false
  phase : Phase := .fetch
  /-- header address of the current block, or of the block to be fetched -/
  addr : Word := 0
  words : List (BitVec 32) := []
  /-- word position of the next word, and of the word that issues (R55) -/
  pos : Nat := 0
  cur : Nat := 0
  /-- the target of a taken transfer (R23) -/
  exit : Option Word := none
  /-- a switch marker was passed and results are outstanding (R42) -/
  parked : Bool := false
  /-- long results that have not returned (R43) -/
  outst : List (List RegWrite) := []
  stores : List StoreReq := []
  /-- counts discarded and committed blocks; names the block a vector instruction belongs to -/
  epoch : Nat := 0
  pendFault : Option StateFault := none
  /-- the QNT_INF of the current block, and the one that a commit leaves behind (R232) -/
  blockInf : Option StateFault := none
  qntInf : Option StateFault := none
  switchReq : Bool := false
  /-- window writes held until the current block ends (R145): offset and value -/
  heldWrites : List (Nat × Word) := []
  sets : Map Member := []
  /-- the set whose gang the context issues in (R192) -/
  gang : Option Nat := none
  rings : Map Ring := []
  binds : Map Bind := []
  /-- ring state locked by a switch-out (R422) -/
  locked : Bool := false
  /-- held mbind pushes, oldest first (R204) -/
  held : List (Nat × Word) := []
  /-- writes of other parties that the thread's loads returned (R339) -/
  seen : List Nat := []
  /-- the handle of an escape ticket's operator: site, ticket, and whether it was replied (R209) -/
  ticket : Option (Nat × Nat × Bool) := none
  /-- the launch of the ticket's payload (R209, R300) -/
  ticketLaunch : Nat := 0
  /-- cycle in which its last bundle issued (R41) -/
  lastIssue : Option Nat := none
  /-- word 0 of a lone bundle has issued, and word 1 follows before any other context issues (R41, R48) -/
  split : Bool := false
  /-- the A word of the pair at its position has issued; the M word has still to (R47) -/
  aDone : Bool := false
  /-- implicit publishes that the block's commit starts for its exposed instruction (R164): object, scope -/
  implicitPubs : List (Nat × Nat) := []
  /-- walks that the exposed instruction waits for (R164) -/
  awaitWalks : List Nat := []
  /-- the snapshot of a committed engine command that waits for the coprocessor queue (R244) -/
  snapCmd : Option (List Tagged × List Word) := none
  /-- the access of the exposed instruction, as its block's checks found it (R151, R178) -/
  acc : Option Access := none
  /-- the exposed instruction of a committed block that waits for the resolution of a record (R178); its operands stay
  in snap -/
  lost : Option Instr := none
  /-- the fault record whose resolution the context sleeps for because an access that it left at the port has failed
  (R178) -/
  stall : Option Nat := none
  deriving DecidableEq, Repr

/-- A copy of a word in an L1 or a herd slice (R371). -/
structure Copy where
  val : Word
  tag : Bool := false
  /-- held dirty: in an L1 for the owner of a PRIVATE object, with its owner field; in a herd slice for a
  HERD object (R372) -/
  dirty : Option Nat := none
  /-- in a herd slice: filled or written by a reference access to a HERD object, so that writes stay here (R159) -/
  obj : Bool := false
  /-- flipped bits of the copy that nothing has read yet (R361, R362) -/
  err : Word := 0
  deriving DecidableEq, Repr

/-- A PRIVATE object that a context of a core has created and that no walk has entered: its owner field, the physical
word of its header, and the ranges of its body. The owner's stores to them stay in the L1, by reference or raw (R175). -/
structure PrivObj where
  owner : Nat
  hdr : Nat
  body : List (Nat × Nat)
  deriving DecidableEq, Repr

/-- A write that a core's port holds, or that has left it and is not yet performed everywhere (R159, R336). -/
structure Flight where
  id : Nat
  /-- the writing context -/
  ctx : Nat
  write : WordWrite
  /-- held at the port: a release, a store behind one, or one that waits for a walk or an engine (R160, R162, R164,
  R176, R177) -/
  atPort : Bool := false
  /-- the herd slice has still to apply it, and the home slice -/
  atHerd : Bool := true
  atHome : Bool := true
  /-- sharers that have still to accept it: L1s of the herd by core number, slices by herd -/
  toL1 : List Nat := []
  toSlices : List Nat := []
  /-- a write that stays in the herd slice (R159) -/
  herdObj : Bool := false
  /-- the physical header address of the object that a reference store reaches -/
  obj : Option Nat := none
  /-- the virtual address and the address space of its word, for engine ownership (R177) -/
  va : Nat := 0
  asid : Nat := 0
  /-- scope of a release store, 0 for a relaxed one (R338), and the writes of others that it covers (R339) -/
  rel : Nat := 0
  needs : List Nat := []
  /-- an implicit walk that has still to complete (R164) -/
  walk : Option Nat := none
  /-- an atomic whose old value nothing takes: operation, bytes and operand (R165) -/
  amo : Option (AmoOp × Nat × Nat) := none
  /-- an exposed access of fewer than 8 bytes or an atomic, which fails on a word that has become uncorrectable (R178), and
  one that has failed and waits for the resolution of its record -/
  reads : Bool := false
  failed : Bool := false
  deriving DecidableEq, Repr

/-- An update on its way to a sharer: the write that it carries, the slice that sends it, and the word as it stands there
(R336). -/
structure Update where
  id : Nat
  src : Nat := 0
  write : WordWrite
  deriving DecidableEq, Repr

/-- A vector instruction in a core's VU queue (R224). -/
structure VuEntry where
  ctx : Nat
  epoch : Nat
  writes : List RegWrite
  trap : Option TrapInfo
  /-- the QNT_INF that is delivered after the commit (R232) -/
  inf : Option StateFault
  deriving DecidableEq, Repr

/-- A message (R197, R198). -/
structure Msg where
  src : Nat
  dst : Nat
  pri : Nat
  /-- payload words with tags -/
  words : List Tagged
  /-- sender's s.time -/
  time : Nat
  /-- the step in which it was sent: the order of a thread's messages (R199) -/
  seq : Nat := 0
  /-- sender's s.evq -/
  evq : Word
  /-- the sender's core, whose send buffer entry the message occupies until delivered -/
  core : Nat
  /-- held until a fault record is resolved, and in front of the messages behind it to the same ring until it is delivered
  (R422) -/
  blocked : Bool := false
  first : Bool := false
  deriving DecidableEq, Repr, Inhabited

/-- A segment on a fix-up list (R249, R415): destination entry or box, and the cause it met. -/
structure Fixup where
  start : Nat
  len : Nat
  cause : Nat
  retried : Bool := false
  deriving DecidableEq, Repr

/-- An engine command with its snapshot of descriptors (R242, R244). -/
structure Command where
  id : Nat
  /-- major opcode and fn of the instruction -/
  major : Nat
  fn : Nat
  /-- 64-byte descriptor words: source and destination, or the mxc message words -/
  descA : List Word
  descB : List Word
  /-- the issuing thread -/
  handle : Nat
  core : Nat
  ctx : Nat := 0
  asid : Nat
  ptb : Nat
  super : Bool
  /-- completion handle (R245) -/
  done : Word
  /-- boxes complete, and boxes whose segments are written or on the fix-up list (R247) -/
  landed : List Nat := []
  issued : List Nat := []
  /-- bytes that scat.add has added, in order -/
  prog : Nat := 0
  /-- positions whose index is out of range, and sticky flags of a converting copy (R246) -/
  oob : List Nat := []
  cflags : Nat := 0
  /-- cycle in which its message's injection was first refused (R269) -/
  heldAt : Option Nat := none
  boxes : Nat := 0
  /-- bytes still pending at a set record (R189) -/
  pend : Nat := 0
  fix : List Fixup := []
  /-- a segment has faulted while the fix-up list was full: the list is replayed before any other box is issued (R415) -/
  full : Bool := false
  /-- 0 running; the cause that ended it otherwise -/
  status : Nat := 0
  stopped : Bool := false
  /-- address named in records -/
  descAddr : Word := 0
  /-- descriptor fields decoded at issue, for engines that need more than the words -/
  aux : List Nat := []
  deriving DecidableEq, Repr

/-- A barrel slot (R391). -/
structure Slot where
  owner : Option Nat := none
  asg : Option Nat := none
  deriving DecidableEq, Repr

/-- A core (R15, R32). -/
structure Core where
  ctxs : Map Context := []
  /-- s.status.pmode: false 16 contexts, true 32 (R32) -/
  pmode : Bool := false
  escres : Nat := 0
  vshare : Nat := 64
  /-- the core's VU queue and its share tag (R401) -/
  vuq : List VuEntry := []
  vtag : Nat := 0
  copq : List Command := []
  engine : Option Command := none
  /-- send buffer entries by priority (R197) -/
  sendbuf : Map Msg := []
  /-- ready queue by priority (R202) -/
  readyq : Map (List Word) := []
  slots : Map Slot := []
  lastCtx : Nat := 0
  /-- the cycle in which a word last issued (R41) -/
  issuedAt : Option Nat := none
  l1 : Map Copy := []
  privs : List PrivObj := []
  /-- updates that the herd slice has sent, and those that the L1 has accepted (R336) -/
  net : List Update := []
  inq : List WordWrite := []
  /-- writes at this core's port and on their way from it, in the order in which they leave it -/
  wq : List Flight := []
  deriving DecidableEq, Repr

/-- A barrier unit of a herd (R22, R182). -/
structure BarUnit where
  /-- physical address of the bound set's record -/
  record : Option Nat := none
  cnt0 : Nat := 0
  cnt1 : Nat := 0
  phase : Bool := false
  broken : Bool := false
  pend : Nat := 0
  /-- the unit waits for pend before it is freed (R186) -/
  draining : Bool := false
  /-- the rejoin queue: first and end pairs (R194) -/
  ranges : List (Word × Word) := []
  deriving DecidableEq, Repr

/-- The watchdog and gate state of a set, by the physical address of its record (R190, R191). -/
structure SetAux where
  /-- cycle of the first arrival of each phase -/
  start0 : Option Nat := none
  start1 : Option Nat := none
  /-- members at the couple gate, by handle -/
  gate : List Nat := []
  /-- members by handle, with the core each runs on -/
  members : List (Nat × Nat) := []
  deriving DecidableEq, Repr

/-- A walk of a spoor walker (R170..R173). -/
structure Walk where
  id : Nat
  scope : Nat
  /-- the publishing thread and its core and context number -/
  handle : Nat
  core : Nat
  ctx : Nat
  asid : Nat
  ptb : Nat
  root : Nat
  /-- the publishing thread's rights, and for a sync node its site (R304) -/
  super : Bool := false
  site : Option Nat := none
  queue : List Nat
  /-- physical header addresses of the objects that the walk has set -/
  entered : List Nat := []
  /-- an object that shows WALKING under the walk's mark: physical header address and old state -/
  held : Option (Nat × Nat) := none
  /-- objects whose headers or bodies faulted: virtual address and cause -/
  fix : List (Nat × Nat) := []
  retrying : Bool := false
  /-- other walks that it skipped objects of: walk and object (R347) -/
  skipped : List (Nat × Nat) := []
  /-- objects to scan although they already hold the state (R347) -/
  takeover : List Nat := []
  /-- the walk waits for its fault record, at this object -/
  waits : Bool := false
  faultObj : Nat := 0
  /-- s.wspill at the pub, and the words spilled so far -/
  spill : Word := 0
  spilled : Nat := 0
  refilled : Nat := 0
  deriving DecidableEq, Repr

/-- An event record of 32 bytes (R205). -/
abbrev EventRec : Type := List Word

/-- A herd (R15). -/
structure Herd where
  units : Map BarUnit := []
  events : List EventRec := []
  /-- posts that wait for space, with the posting unit (R369) -/
  posts : List (Nat × EventRec) := []
  lastPoster : Nat := 0
  walks : List Walk := []
  /-- escape payloads in arrival order: site, ticket, launch, payload (R300) -/
  escq : List (Nat × Nat × Nat × List Tagged) := []
  copies : Map Copy := []
  /-- updates that home slices have sent, and those that the slice has accepted (R336) -/
  net : List Update := []
  inq : List WordWrite := []
  /-- writes that the slice has applied and the home slice has not, in order, by id (R337) -/
  pend : List (Nat × WordWrite) := []
  /-- the words that the herd's instruction cache holds (R53) -/
  icache : Map Word := []
  /-- the herd is in a quiescent window, or retired (R456) -/
  window : Bool := false
  retired : Bool := false
  deriving DecidableEq, Repr

-- Memory (R357..R377)

/-- The one memory, by physical byte address: canonical pairs. -/
abbrev Memory : Type := List Host.Cell

/-- A cached translation (R367). -/
structure TlbEntry where
  asid : Nat
  /-- virtual address of the page and its size in bits -/
  page : Nat
  bits : Nat
  entry : Word
  /-- the TLB slice that walked it: each slice that walks a page keeps its own entry -/
  slice : Nat := 0
  deriving DecidableEq, Repr

/-- A walk of a TLB slice (R367). -/
structure TlbWalk where
  slice : Nat
  asid : Nat
  va : Nat
  level : Nat
  table : Nat
  /-- its slice has failed; it waits for a resolution (R435) -/
  waits : Bool := false
  deriving DecidableEq, Repr

/-- Flipped bits of an 8-byte word of an array (R361): the INTEGRITY detail of the array, its unit number, and the word's
number in it. -/
structure ArrayErr where
  array : Nat
  unit : Nat
  word : Nat
  flips : Word
  deriving DecidableEq, Repr

/-- The memory system. -/
structure MemSys where
  bytes : Memory := []
  /-- numbers of the tagged words, ascending (R11) -/
  tags : List Nat := []
  /-- numbers of the poisoned words, ascending (R362) -/
  poison : List Nat := []
  /-- words with flipped bits that nothing has read yet: the flipped bits (R362) -/
  latent : Map Word := []
  /-- flipped bits that nothing has read yet in a register file, a block buffer, an instruction cache, a home slice or a
  TLB slice (R361) -/
  errs : List ArrayErr := []
  /-- the 64-byte line at which each home slice's next patrol read begins to look (R362) -/
  patrol : Map Nat := []
  /-- physical header addresses that a walk holds, with the walk (R150) -/
  marks : Map Nat := []
  /-- implicit walks that stopped without completing while stores wait for them (R164, R173): walk, thread, root and
  scope -/
  unpublished : List (Nat × Nat × Nat × Nat) := []
  /-- stored hallmarks of tiles whose data no longer agrees with them, by tile number: 16 row and 32 column
  sums; every other tile's hallmark is that of its data (R109) -/
  hallmarks : Map (List Nat) := []
  nextId : Nat := 0
  /-- entries of the TLB slices, and of each core's micro-TLB (R367) -/
  tlb : List TlbEntry := []
  micro : Map (List TlbEntry) := []
  tlbWalks : List TlbWalk := []
  /-- words that an engine command owns: virtual range and command, per address space (R177, R244) -/
  owned : List (Nat × Nat × Nat × Nat) := []
  /-- channels: logical to physical indirection, dead ones, granules under copy (R376, R377) -/
  chanMap : Map Nat := []
  deadChan : List Nat := []
  copying : List (Nat × Nat × Nat) := []
  /-- segments under conversion (R363): window address, and the cycle at which it is done -/
  converting : List (Nat × Nat × Bool) := []
  /-- segments of 65,536 bytes of the MT scratches that have been written since their MT was loaded, numbered through all
  MTs (R425) -/
  mtSegs : List Nat := []
  deriving DecidableEq, Repr

/-- What a byte of memory that nothing has written reads as: in a codebook RAM the default set (R91), elsewhere zero
(log entry 4). -/
def Memory.background (a : Nat) : Byte :=
  if 0x80200000000 ≤ a ∧ a < 0x80200000000 + 4194304 * 1536 ∧ a % 4194304 / 2048 = 1024 then
    (if (a % 2048 / 8).testBit (a % 8) then 3 else 1)
  else 0

/-- The canonical form: addresses strictly rising, and no entry that an unlisted address reads as. -/
def Memory.wf (m : Memory) : Bool :=
  m.Pairwise (fun x y => x.1 < y.1) && m.all (fun c => c.2 != Memory.background c.1)

-- Launches (R380..R400)

/-- A launch queue (R380). -/
structure LaunchQueue where
  base : Word := 0
  prio : Nat := 7
  weight : Nat := 0
  lsize : Nat := 1
  minshare : Nat := 0
  en : Bool := false
  tail : BitVec 32 := 0
  head : BitVec 32 := 0
  ptb : Word := 0
  asid : Word := 0
  ovf : Bool := false
  deriving DecidableEq, Repr

/-- A live launch (R385). -/
structure Launch where
  queue : Nat
  /-- the record's eight words (R382) -/
  record : List Word
  /-- the argument words 0..9 as read at admission -/
  args : List Word := []
  /-- unused child reservations -/
  reserve : Nat := 0
  started : Nat := 0
  retired : Nat := 0
  /-- next thread index to hand out -/
  next : Nat := 0
  lost : Nat := 0
  /-- for a spawned launch, its pool entry (R386) -/
  child : Option Nat := none
  mxes : List Nat := []
  /-- graph: admitted to fabric; status word (R417) -/
  status : Word := 0
  /-- outcome and cause when it ended early -/
  outcome : Nat := 0
  cause : Nat := 0
  done : Bool := false
  /-- age in admission order (R396) -/
  order : Nat := 0
  /-- waits for MXEs at the fabric arbiter (R388) -/
  mxeBid : Bool := false
  /-- a bid's bypass count and reservation (R397) -/
  byp : Nat := 0
  resv : Bool := false
  /-- a herd launch that has been placed -/
  placed : Bool := false
  /-- a placement transaction's herd and start cycle, and the contexts it claims (R395) -/
  trans : Option (Nat × Nat) := none
  claims : List (Nat × Nat) := []
  deriving DecidableEq, Repr

/-- A thread (R16): its save slot, and where it is. -/
structure Thread where
  slot : Nat
  /-- core and context when resident -/
  place : Option (Nat × Nat) := none
  /-- partition mode it was saved in -/
  pmode : Bool := false
  /-- core on which a GANG member must resume (R185) -/
  pin : Option Nat := none
  /-- ring state locked, or the save is in progress -/
  saving : Bool := false
  savedAt : Nat := 0
  /-- saved engine commands, oldest first (R248) -/
  cmds : List Command := []
  /-- the wait that its save recorded, with the registers that the ended wait writes (R420, R423) -/
  wait : Option Wait := none
  /-- the exposed instruction that waits for a resolution, with its operands (R178) -/
  lost : Option Instr := none
  view : Option Regs := none
  /-- writes of other parties that its loads returned and that were not performed at SYSTEM scope when it was saved (R339) -/
  seen : List Nat := []
  /-- a QNT_INF that its context has still to take (R232) -/
  inf : Option StateFault := none
  /-- the thread retires, with this cause, once it is placed (R412, R456) -/
  abort : Option Nat := none
  /-- the site of the escape operator whose ticket it holds (R209) -/
  ticketSite : Nat := 0
  ticketLaunch : Nat := 0
  deriving DecidableEq, Repr

/-- A pending-pool entry (R389). -/
structure PoolEntry where
  queue : Nat
  parent : Nat
  record : List Word
  /-- taken from the parent's reservation -/
  reserved : Bool
  order : Nat
  deriving DecidableEq, Repr

/-- Launches, threads and messages. -/
structure LaunchSys where
  queues : Map LaunchQueue := []
  live : Map Launch := []
  /-- freed live entries in the order in which they were freed -/
  freed : List Nat := []
  fresh : Nat := 0
  pool : Map PoolEntry := []
  nextOrder : Nat := 0
  threads : Map Thread := []
  /-- messages in flight or held -/
  msgs : List Msg := []
  /-- the level's round-robin position (R394) -/
  lastQueue : Map Nat := []
  /-- admissions stopped (R435, R455) -/
  stopped : Bool := false
  deriving DecidableEq, Repr

-- Faults (R410..R414)

/-- Who waits on a fault record (R412). -/
inductive Agent where
  | none
  /-- a trap forwarded or nested: core and context -/
  | trap (handle : Nat)
  /-- an exposed access (R178) -/
  | access (handle : Nat)
  | engine (core : Nat) (cmd : Nat)
  | mxe (mxe : Nat)
  | walk (herd : Nat) (walk : Nat)
  | fabric (launch : Nat) (site : Nat)
  /-- a configuration whose load met a fault (R442) -/
  | load (launch : Nat)
  | message (k : Nat)
  /-- a walk at a TLB slice that has failed (R435): slice and address -/
  | tlb (slice va : Nat)
  deriving DecidableEq, Repr

/-- A fault record before or after it is written (R411). -/
structure FaultRec where
  cause : Nat
  sev : Nat
  src : Nat
  handle : Nat := 0xFFFFFFFF
  launch : Option Nat := none
  loc : Nat := 0
  tval : Word := 0
  tval2 : Word := 0
  aux : Word := 0
  iter : Word := 0
  time : Nat := 0
  agent : Agent := .none
  deriving DecidableEq, Repr

/-- The device fault queue. -/
structure FaultSys where
  /-- records that wait for the ring (R410) -/
  waiting : List FaultRec := []
  /-- records written and not yet resolved, by ring index -/
  posted : Map FaultRec := []
  lastSrc : Nat := 0
  /-- corrected-error counters by detail (R414) -/
  counters : Map Nat := []
  deriving DecidableEq, Repr

-- The fabric (R274..R330)

/-- A token: payload and sideband (R274). -/
structure Token where
  payload : Vec := 0
  /-- 0 DATA, 1 SPARSE, 2 EOR, 3 BAR, 4 FENCE, 5 DRAIN, 6 POISON -/
  kind : Nat := 0
  last : Bool := false
  vcnt : Nat := 0
  deriving DecidableEq, Repr

/-- A token that has arrived on a link, and the consumers that have still to take it (R67, R278): 0..3 the outputs
N, E, S, W; 4 and 5 the router operator's inputs; 6 the element. -/
structure PortTok where
  tok : Token := {}
  todo : List Nat := []
  deriving DecidableEq, Repr

/-- A plane slot (R308): the plane word, and an MT's 64 sequencer words. -/
structure PlaneSlot where
  word : BitVec 256 := 0
  /-- the virtual address of the plane in its image -/
  addr : Word := 0
  seq : List (BitVec 32) := []
  loaded : Bool := false
  deriving DecidableEq, Repr

/-- The registers of a sequencer that a snapshot holds (R311, R315). -/
structure SeqRegs where
  pc : Nat := 0
  b : Map Word := []
  t : Map Word := []
  n : Map Nat := []
  lim : Map Nat := []
  ofmt : Map Nat := []
  ifmt : Map Nat := []
  deriving DecidableEq, Repr

/-- A held store of an invocation (R315): physical address and bytes; an addition of mt.acc carries its
element format (R324). -/
structure SeqStore where
  va : Nat
  pa : Nat
  bytes : List Byte
  add : Option Nat := none
  /-- its leaf is global (R216, R365) -/
  glob : Bool := false
  deriving DecidableEq, Repr

/-- What a sequencer does (R311, R317, R319). -/
inductive SeqMode where
  | run
  /-- an access faulted; a record waits for its resolution -/
  | faulted
  | idle
  deriving DecidableEq, Repr

/-- An access sequencer (R311). -/
structure Seq where
  mode : SeqMode := .idle
  r : SeqRegs := {}
  snap : SeqRegs := {}
  /-- partial tokens: bytes of each output queue -/
  oq : Map (List Byte) := []
  /-- mt.spack: nonzero entries of each queue's partial SPARSE token, and bytes of an element not yet whole -/
  pack : Map (List (Nat × Nat)) := []
  packPart : Map (List Byte) := []
  /-- mt.spack: an entry of the invocation has been found -/
  packed : Map Bool := []
  /-- mt.sunpack: the entries of the invocation's image by coordinate, the next dense byte, and whether its last token
  has been read -/
  image : Map (Map Nat) := []
  /-- the coordinates of the image's entries as they came, 0xFFFF aside (R322) -/
  coords : Map (List Nat) := []
  imagePos : Map Nat := []
  imageEnd : Map Bool := []
  /-- input queues: tokens, and bytes consumed from the head -/
  iq : Map (List Token) := []
  ipos : Map Nat := []
  /-- tokens consumed in the invocation, oldest first, and the bytes of the head consumed before it (R315) -/
  kept : Map (List Token) := []
  keptPos : Map Nat := []
  /-- bytes that the current emit has taken for its store, and whether a POISON token gave one of them (R312) -/
  got : List Byte := []
  gotPoison : Bool := false
  /-- the branch-outcome queue (R313), and the outcomes taken in the invocation -/
  brq : List Bool := []
  brKept : List Bool := []
  held : List SeqStore := []
  /-- bytes appended to each output queue in the invocation, and those that its delivered tokens cover (R317) -/
  fed : Map Nat := []
  skip : Map Nat := []
  skipNow : Map Nat := []
  /-- EOR words, and control words and sync words, completed in the invocation, and those that a replay passes over (R317) -/
  eors : Nat := 0
  skipEors : Nat := 0
  /-- the word at pc has begun and waits (R316) -/
  begun : Bool := false
  ctls : Nat := 0
  skipCtls : Nat := 0
  /-- an eor word has placed the round's EOR (R314) -/
  eored : Bool := false
  /-- halt has committed the round's last invocation -/
  counted : Bool := false
  /-- lanes of the index token of an emit.gth or emit.sct that have still to be served -/
  lanes : Option (List Nat) := none
  /-- a fence that has not retired: its scope, and whether a FENCE token is forwarded (R318) -/
  fence : Option (Nat × Bool) := none
  /-- the input queue that the fence's token came from -/
  fenceFrom : Nat := 0
  /-- a sync word has been reached, at this level; passed: the others have met it there (R319) -/
  atSync : Option Nat := none
  passed : Bool := false
  deriving DecidableEq, Repr

/-- An escape ticket that is not yet emitted (R299). -/
structure Ticket where
  num : Nat
  last : Bool
  /-- the token that takes its place, once known -/
  tok : Option Token := none
  /-- arrival order of the reply, for unordered mode -/
  arrival : Nat := 0
  /-- payload not yet dispatched, its herd queue being full (R300) -/
  waiting : Option (List Tagged) := none
  deriving DecidableEq, Repr

/-- The state of an element between firings (R287..R301). -/
structure Elem where
  /-- lane accumulators (R287) -/
  acc : List Nat := []
  /-- tokens read in the segment, group or square, or emitted by a source -/
  cnt : Nat := 0
  /-- invocations completed in the round -/
  inv : Nat := 0
  /-- delay contents, square, group, held token of split -/
  buf : List Token := []
  /-- a POISON was read in the segment -/
  poison : Option Token := none
  /-- valid words of the segment's tokens (R275) -/
  words : Nat := 0
  /-- argument words read at activation by src, esc, sync and mx.msg -/
  args : Map Word := []
  tickets : List Ticket := []
  nextTicket : Nat := 0
  arrivals : Nat := 0
  /-- sync: the publish walk that an EOR waits for (R304) -/
  walk : Option Nat := none
  /-- fence: tokens with last that have passed (R305) -/
  rounds : Nat := 0
  deriving DecidableEq, Repr

/-- A fabric site (R14, R66). -/
structure Site where
  slots : Map PlaneSlot := []
  active : Nat := 0
  /-- a change to this slot waits until it is loaded (R308) -/
  change : Option Nat := none
  rounds : Nat := 0
  /-- rounds whose invocations have all committed, or a sync node has completed, since the configuration began (R304) -/
  commits : Nat := 0
  running : Bool := false
  drained : Bool := false
  /-- its element met a fault and has stopped (R416) -/
  stopped : Bool := false
  /-- its router operator met a fault and has stopped (R292, R416) -/
  rstopped : Bool := false
  /-- an EOR has been fired; the round ends when it has been forwarded (R309) -/
  ending : Bool := false
  launch : Option Nat := none
  /-- incoming links N, E, S, W with the token that each holds (R277) -/
  ports : Map PortTok := []
  /-- tokens that the reads of the sequence have taken -/
  taken : List Token := []
  /-- tokens to be emitted after the output register frees -/
  outq : List Token := []
  /-- the output register and the router outputs that have not accepted it (R278) -/
  outreg : Option (Token × List Nat) := none
  /-- control tokens on the incoming links (R276), with the consumers that have still to take each: 0..3 the outgoing
  links, 4 the router operator, 6 the branch-outcome queue; none for a link that only waitc reads -/
  ctl : Map (Bool × List Nat) := []
  /-- control tokens of the element that no link has accepted yet, with the links awaited -/
  ctlOut : List (Bool × List Nat) := []
  elem : Elem := {}
  /-- carry waits on the entry (R293) -/
  atEntry : Bool := true
  /-- carry awaits a marker on the back edge -/
  awaitMarker : Bool := false
  /-- outputs op0 and op1 of the router operator: token and outputs not yet accepted -/
  op0 : Option (Token × List Nat) := none
  op1 : Option (Token × List Nat) := none
  /-- tokens at the router operator's two inputs -/
  rin0 : Option Token := none
  rin1 : Option Token := none
  seq : Seq := {}
  deriving DecidableEq, Repr

/-- An accumulator bank of an MXE (R102, R115). -/
structure Bank where
  /-- 0 none yet, 1 FP32, 2 INT32 (R102) -/
  cell : Nat := 0
  /-- shape of the last MM -/
  m : Nat := 0
  n : Nat := 0
  altered : Bool := false
  /-- the value hallmark: row and column sums as bits, and the rows and columns left unchecked (R115) -/
  rows : Map Nat := []
  cols : Map Nat := []
  rowsOff : List Nat := []
  colsOff : List Nat := []
  /-- the masked sums of R115 -/
  aux : Map Nat := []
  deriving DecidableEq, Repr

/-- A matrix element (R265, R269). -/
structure Mxe where
  owner : Option Nat := none
  /-- the fabric holds it -/
  fabric : Bool := false
  rights : Nat := 0
  nonce : BitVec 16 := 0
  queue : List Command := []
  /-- the command that waits for a resolution (R271) -/
  waiting : Option Nat := none
  /-- the command that has passed its checks and is being performed (R269) -/
  running : Option Nat := none
  bank0 : Bank := {}
  bank1 : Bank := {}
  /-- the weight buffer was written by the configuration (R425) -/
  wbuf : Bool := false
  deriving DecidableEq, Repr

/-- Where a configuration stands (R396, R424, R442). -/
inductive ConfigMode where
  /-- its rectangle is its own, and no site has been set up -/
  | placed
  | loading
  | running
  | draining
  | faulted
  deriving DecidableEq, Repr

/-- An admitted configuration (R436, R442). -/
structure Placed where
  mode : ConfigMode := .placed
  /-- rectangle: broad class, west column, first class row, width and height -/
  broad : Bool
  x0 : Nat
  r0 : Nat
  w : Nat
  h : Nat
  image : Nat
  /-- escape operators and the herds they are bound to (R438) -/
  bind : Map Nat := []
  saveBound : Nat := 0
  drainAt : Option Nat := none
  /-- cycle of the last firing in the region (R294) -/
  lastFire : Nat := 0
  /-- the image's planes by site and slot, and how many of them have been written (R442) -/
  planes : List (Nat × Nat × PlaneSlot) := []
  written : Nat := 0
  /-- it was restored from a save -/
  restored : Bool := false
  deriving DecidableEq, Repr

/-- The contents of an array at a site, by offset: bytes, hallmarks that no longer agree, poisoned words (R425). -/
structure SavedArray where
  /-- offset within the site's arrays, and size -/
  off : Nat
  size : Nat
  cells : List Host.Cell := []
  halls : Map (List Nat) := []
  poison : List Nat := []
  deriving DecidableEq, Repr

/-- A drained configuration (R425): its sites, their occupancy words, the arrays that these select, and its matrix elements,
by relative number, and its save region. -/
structure Saved where
  sites : Map Site
  occupancy : Map Nat := []
  arrays : Map (List SavedArray) := []
  mxes : Map Mxe := []
  region : Nat
  size : Nat
  deriving DecidableEq, Repr

/-- A token that crosses a seam (R439): the second flit is still on the way; or a control token, which crosses as one flit. -/
structure SeamToken where
  site : Nat
  port : Nat
  tok : Token := {}
  ctl : Option Bool := none
  deriving DecidableEq, Repr

/-- A reply on its way to an escape operator (R209, R301). -/
structure EscReply where
  /-- the replying thread and its s.evq -/
  handle : Nat
  evq : Word
  launch : Nat
  site : Nat
  ticket : Nat
  words : List Word
  /-- 0, or the cause of a POISON reply -/
  cause : Nat := 0
  deriving DecidableEq, Repr

/-- The fabric. -/
structure FabricSys where
  sites : Map Site := []
  mxes : Map Mxe := []
  placed : Map Placed := []
  saved : Map Saved := []
  seams : List SeamToken := []
  /-- seam links out of service: site and port -/
  deadSeams : List (Nat × Nat) := []
  /-- consecutive failed sends of a seam link, by the receiving site and four times its number plus the port (R440) -/
  seamFails : Map Nat := []
  /-- replies in flight to escape operators (R301) -/
  replies : List EscReply := []
  /-- sites excluded from placement of a launch (R428) -/
  excluded : Map (List Nat) := []
  deriving DecidableEq, Repr

-- The device (R431..R464, R497..R507)

/-- A flit that has been sent and not acknowledged (R459). -/
structure Flit where
  seq : Nat
  cls : Nat
  dest : Nat
  bytes : List Byte
  deriving DecidableEq, Repr

/-- A Colueso port (R458, R459). -/
structure LinkPort where
  up : Bool := false
  lanes : Nat := 0
  spare : Bool := false
  pdev : Nat := 0
  pgrp : Nat := 0
  pport : Nat := 0
  retry : Nat := 0
  /-- next sequence number expected, and flits sent and not acknowledged -/
  expect : Nat := 0
  nextSeq : Nat := 0
  unacked : List Flit := []
  fails : Nat := 0
  /-- the sequence number that the receiver has asked for again -/
  asked : Option Nat := none
  /-- payloads that have arrived, by class -/
  received : List (Nat × List Byte) := []
  deriving DecidableEq, Repr

/-- A live exchange of the collective engine (R263). -/
structure Xchg where
  id : Nat
  cmd : Command
  start : Nat
  /-- what it has still to do: 64 for its count words, and the peers to send to, in order -/
  todo : List Nat := []
  arrived : List Nat := []
  landed : Nat := 0
  trunc : Nat := 0
  shape : Bool := false
  deriving DecidableEq, Repr

/-- A command that is done and whose completion is held: its record waits for an event queue, an earlier command of its thread to
the same engine has not completed, or the page of its set record migrates (R244, R369, R375). -/
structure Finish where
  /-- the posting unit -/
  unit : Nat
  cmd : Command
  /-- the herd queue and the record that reports it -/
  post : Option (Nat × EventRec) := none
  /-- the record stands among those that wait for the queue -/
  queued : Bool := false
  deriving DecidableEq, Repr

/-- A change that waits for a quiescent window (R448, R450, R456): 1 core, 2 herd, 3 site, 4 power domain; the request
record that asked for it, and the cause of the failure. -/
structure Due where
  code : Nat
  unit : Nat
  req : Option Nat := none
  cause : Nat := 0
  deriving DecidableEq, Repr

/-- A firewall region (R455): a physical range and the accesses that it permits. -/
structure FwRegion where
  base : Nat
  size : Nat
  rd : Bool
  wr : Bool
  x : Bool
  deriving DecidableEq, Repr

/-- The device's management. -/
structure DevSys where
  powered : Bool := false
  /-- c.boot (R502) -/
  stage : Nat := 0
  done : Bool := false
  fail : Bool := false
  bootCause : Nat := 0
  /-- control registers that hold what is written to them, by control offset -/
  creg : Map Word := []
  /-- c.therm and the thermal demand (R500) -/
  tmax : Nat := 0
  sensor : Nat := 0
  demand : Nat := 0
  tripped : Bool := false
  alert : Bool := false
  /-- dead cores by core row and physical column, and the log since the last cold boot (R446) -/
  fuseCores : List (Nat × Nat) := []
  logCores : List (Nat × Nat) := []
  fuseSites : List Nat := []
  logSites : List Nat := []
  /-- herds whose slice has failed, ports by dead lane, and SRAM rows as array, unit and row (R446) -/
  fuseHerds : List Nat := []
  logHerds : List Nat := []
  fuseLanes : List Nat := []
  logLanes : List Nat := []
  fuseRows : List (Nat × Nat × Nat) := []
  /-- SRAM rows that this boot has repaired (R446, R503) -/
  repaired : List (Nat × Nat × Nat) := []
  /-- units bypassed on a chain at this boot (R451) -/
  bypassed : List (Nat × Nat) := []
  /-- channels in service and lost: tier, physical channel -/
  fuseChans : List (Bool × Nat) := []
  /-- c.cmap, c.fspare and c.fdom contents (R450, R433, R444) -/
  cmap : Map Nat := []
  fspare : Map Nat := []
  fdom : Map Nat := []
  retired : List Nat := []
  /-- lost regulator phases, by 2·(16·stripe + domain) + rail (R443) -/
  phases : Map Nat := []
  /-- TLB slices moved to a spare slot: slice, 8·stripe + slot (R435) -/
  tlbHome : Map Nat := []
  /-- the table port: staged entries, go, err and the shadow table (R493) -/
  stage_ : List (Nat × Nat × Bool) := []
  go : Bool := false
  err : Bool := false
  /-- routers and interfaces that have not acknowledged the broadcast -/
  acks : Nat := 0
  shadow : Map Nat := []
  /-- TLB slices that have failed and found no slot (R435) -/
  deadSlices : List Nat := []
  /-- power domains, 16·stripe + domain, around which the detour entries lead messages (R428, R449) -/
  detours : List Nat := []
  /-- table entries being fetched again (R449): a core's by its number, then sites from 2,048, herd slices from 8,192, home slices
  from 8,448 and TLB slices from 9,216 -/
  refetch : List Nat := []
  /-- a quiescent window of the whole device, or stripes in their window (R433, R450) -/
  window : Bool := false
  stripes : List Nat := []
  /-- failed control cores (R455) -/
  ccFailed : List Nat := []
  /-- the core that runs the Assayer since the boot: cc0, or cc4 in its place (R452, R455) -/
  assayerCore : Nat := 1536
  /-- the firewall regions that the Assayer has written, of which the first 16 count (R455) -/
  firewall : List FwRegion := []
  /-- the device's members, its ports and its paths: 4·destination + k to port (R461, R507) -/
  members : List Nat := []
  ports : Map LinkPort := []
  paths : Map Nat := []
  /-- the ring of request records, at an address fixed at boot (R454) -/
  reqRing : Option Nat := none
  /-- records that c.amdoor has announced and that are not yet answered, oldest first (R454) -/
  doors : List Nat := []
  /-- the Journeyman's image in the module's flash, with its two signatures (R453) -/
  image : List Byte := []
  ecdsa : List Byte := []
  mldsa : List Byte := []
  /-- the Assayer's ROM and SRAM, which no access of another party reaches (R452) -/
  rom : Memory := []
  sram : Memory := []
  /-- the test strap of the module (R451, R497) -/
  strap : Bool := false
  /-- changes that wait for a quiescent window (R448, R450, R456) -/
  due : List Due := []
  /-- herds and stripes whose change is broadcast and not yet acknowledged (R450): 256 and up for a stripe -/
  closing : List Nat := []
  xchgs : List Xchg := []
  /-- commands whose completion is held, oldest first (R369) -/
  finishing : List Finish := []
  /-- data handed to the collective-engine class of the links: peer, collective id and bytes (R263) -/
  sent : List (Nat × Nat × List Byte) := []
  /-- what the last host read returned (R463) -/
  hostData : Word := 0
  /-- MSI-X vector 0 messages raised (R462) -/
  msix : Nat := 0
  deriving DecidableEq, Repr

-- The whole machine

/-- Who acts in a step: core and context, or site; and the operands of a device event. -/
structure Acting where
  core : Nat := 0
  ctx : Nat := 0
  site : Nat := 0
  args : List Nat := []
  deriving DecidableEq, Repr

/-- A turn of an agent (the model's own schedule). -/
inductive Turn where
  /-- the next step of a context: fetch, issue, return of a result, commit, or the end of a wait -/
  | context (core ctx : Nat)
  | element (site : Nat)
  | router (site : Nat)
  | sequencer (site : Nat)
  /-- a device event with its acting core, context and site, and its operands -/
  | event (core ctx site : Nat) (args : List Nat) (i : Instr)
  deriving DecidableEq, Repr

/-- The state of the part. -/
structure State where
  act : Acting := {}
  /-- turns to come, each after a number of cycles: the model's own, standing for the outside world and
  for the device's choice of who acts next -/
  agenda : List (Nat × Turn) := []
  /-- s.time: cycles since reset (R36) -/
  time : Nat := 0
  /-- steps taken: the model's own counter, the argument of the free values of Config -/
  tick : Nat := 0
  cores : Map Core := []
  herds : Map Herd := []
  sets : Map SetAux := []
  mem : MemSys := {}
  launch : LaunchSys := {}
  fault : FaultSys := {}
  fabric : FabricSys := {}
  dev : DevSys := {}
  deriving DecidableEq, Repr

/-- The machine right after reset: no thread, no launch, empty tables, every register at the value that
its table gives, the boot not begun (R502, R503). -/
def State.reset : State := {}

end Sys2Proof.Machine
end

