-- ==== Sys2Proof/Machine/Causes.lean ====
section
/-!
DEFINITION. The cause codes of R404, R405 and R406, in the order of the tables.
-/

namespace Sys2Proof.Machine

/-- PAIR_CLASS -/
def Cause.pairClass : Nat := 0x000
/-- OPC_RSV -/
def Cause.opcRsv : Nat := 0x001
/-- FN_RSV -/
def Cause.fnRsv : Nat := 0x002
/-- ENC_RSV -/
def Cause.encRsv : Nat := 0x003
/-- REG_RANGE -/
def Cause.regRange : Nat := 0x004
/-- BLK_HDR -/
def Cause.blkHdr : Nat := 0x005
/-- BLK_TARGET -/
def Cause.blkTarget : Nat := 0x006
/-- BLK_EXPOSED -/
def Cause.blkExposed : Nat := 0x007
/-- BLK_LAST -/
def Cause.blkLast : Nat := 0x008
/-- BLK_MODE -/
def Cause.blkMode : Nat := 0x009
/-- BLK_STORES -/
def Cause.blkStores : Nat := 0x00A
/-- PRIV_BLOCK -/
def Cause.privBlock : Nat := 0x00B
/-- PRIV -/
def Cause.priv : Nat := 0x00C
/-- SREG_ACCESS -/
def Cause.sregAccess : Nat := 0x00D
/-- SREG_UNDEF -/
def Cause.sregUndef : Nat := 0x00E
/-- SREG_VALUE -/
def Cause.sregValue : Nat := 0x00F
/-- REPART_BUSY -/
def Cause.repartBusy : Nat := 0x010
/-- TRAP_CODE -/
def Cause.trapCode : Nat := 0x011
/-- NESTED_TRAP -/
def Cause.nestedTrap : Nat := 0x012
/-- INT_TIMER -/
def Cause.intTimer : Nat := 0x030
/-- FMT_RSV -/
def Cause.fmtRsv : Nat := 0x080
/-- FORMAT_PAIR -/
def Cause.formatPair : Nat := 0x081
/-- FMT_DIFFER -/
def Cause.fmtDiffer : Nat := 0x082
/-- SHAPE -/
def Cause.shape : Nat := 0x083
/-- CODEBOOK -/
def Cause.codebook : Nat := 0x084
/-- QNT_INF -/
def Cause.qntInf : Nat := 0x085
/-- QNT_SCALE -/
def Cause.qntScale : Nat := 0x086
/-- DIV_ZERO -/
def Cause.divZero : Nat := 0x090
/-- FP_SCALAR -/
def Cause.fpScalar : Nat := 0x091
/-- FP_VECTOR -/
def Cause.fpVector : Nat := 0x092
/-- REF_ESCAPE -/
def Cause.refEscape : Nat := 0x0C0
/-- FOREIGN_PRIVATE -/
def Cause.foreignPrivate : Nat := 0x0C1
/-- WALK_OVERFLOW -/
def Cause.walkOverflow : Nat := 0x0C2
/-- SET_NOTMEMBER -/
def Cause.setNotmember : Nat := 0x0C8
/-- SET_DUP -/
def Cause.setDup : Nat := 0x0C9
/-- SET_LIMIT -/
def Cause.setLimit : Nat := 0x0CA
/-- SET_COUNT -/
def Cause.setCount : Nat := 0x0CB
/-- SET_LIVE -/
def Cause.setLive : Nat := 0x0CC
/-- SET_DEAD -/
def Cause.setDead : Nat := 0x0CD
/-- SET_FULL -/
def Cause.setFull : Nat := 0x0CE
/-- SET_HERD -/
def Cause.setHerd : Nat := 0x0CF
/-- SET_GANG -/
def Cause.setGang : Nat := 0x0D0
/-- SET_RECORD -/
def Cause.setRecord : Nat := 0x0D1
/-- SET_MODE -/
def Cause.setMode : Nat := 0x0D2
/-- BAR_NOUNIT -/
def Cause.barNounit : Nat := 0x0D3
/-- BAR_OVERARRIVE -/
def Cause.barOverarrive : Nat := 0x0D4
/-- BAR_NOARRIVE -/
def Cause.barNoarrive : Nat := 0x0D5
/-- BAR_TIMEOUT -/
def Cause.barTimeout : Nat := 0x0D6
/-- COUPLE_STATE -/
def Cause.coupleState : Nat := 0x0D7
/-- RJ_FULL -/
def Cause.rjFull : Nat := 0x0D8
/-- MSG_HANDLE -/
def Cause.msgHandle : Nat := 0x0E0
/-- SLEEP_MASK -/
def Cause.sleepMask : Nat := 0x0E1
/-- SPAWN_RECORD -/
def Cause.spawnRecord : Nat := 0x0E2
/-- REPLY_NOESC -/
def Cause.replyNoesc : Nat := 0x0E3
/-- REPLY_TWICE -/
def Cause.replyTwice : Nat := 0x0E4
/-- REPLY_NONE -/
def Cause.replyNone : Nat := 0x0E5
/-- EVQ_NONE -/
def Cause.evqNone : Nat := 0x0E6
/-- ENG_HANDLE -/
def Cause.engHandle : Nat := 0x0E8
/-- ENG_DESC -/
def Cause.engDesc : Nat := 0x0E9
/-- CAP_STALE -/
def Cause.capStale : Nat := 0x0EA
/-- CAP_RIGHTS -/
def Cause.capRights : Nat := 0x0EB
/-- XCHG_TRUNC -/
def Cause.xchgTrunc : Nat := 0x0EC
/-- XCHG_SHAPE -/
def Cause.xchgShape : Nat := 0x0ED
/-- XCHG_DUP -/
def Cause.xchgDup : Nat := 0x0EE
/-- XCHG_TIMEOUT -/
def Cause.xchgTimeout : Nat := 0x0EF
/-- LAUNCH_QOVF -/
def Cause.launchQovf : Nat := 0x0F0
/-- LAUNCH_FIELD -/
def Cause.launchField : Nat := 0x0F1
/-- LAUNCH_ARGS -/
def Cause.launchArgs : Nat := 0x0F2
/-- LAUNCH_HERD -/
def Cause.launchHerd : Nat := 0x0F3
/-- LAUNCH_TILES -/
def Cause.launchTiles : Nat := 0x0F4
/-- CFG_CHECK -/
def Cause.cfgCheck : Nat := 0x100
/-- CFG_FIELD -/
def Cause.cfgField : Nat := 0x101
/-- CFG_PORTS -/
def Cause.cfgPorts : Nat := 0x102
/-- CFG_QNT -/
def Cause.cfgQnt : Nat := 0x103
/-- CFG_TWIN -/
def Cause.cfgTwin : Nat := 0x104
/-- SEQ_FIELD -/
def Cause.seqField : Nat := 0x105
/-- SEQ_ARG -/
def Cause.seqArg : Nat := 0x106
/-- PORT_ORDER -/
def Cause.portOrder : Nat := 0x110
/-- TOKEN_KIND -/
def Cause.tokenKind : Nat := 0x111
/-- CTURN_PARTIAL -/
def Cause.cturnPartial : Nat := 0x112
/-- STALL -/
def Cause.stall : Nat := 0x113
/-- CMPK_MISMATCH -/
def Cause.cmpkMismatch : Nat := 0x114
/-- POISON_SINK -/
def Cause.poisonSink : Nat := 0x115
/-- ESC_REF -/
def Cause.escRef : Nat := 0x116
/-- INVOC_STORES -/
def Cause.invocStores : Nat := 0x117
/-- INVOC_INPUT -/
def Cause.invocInput : Nat := 0x118
/-- QUEUE_SPLIT -/
def Cause.queueSplit : Nat := 0x119
/-- DRAIN_TIMEOUT -/
def Cause.drainTimeout : Nat := 0x120
/-- REGION_POWER -/
def Cause.regionPower : Nat := 0x128
/-- REGION_ROUTE -/
def Cause.regionRoute : Nat := 0x129
/-- HALLMARK_UNCORRECTABLE -/
def Cause.hallmarkUncorrectable : Nat := 0x140
/-- HALLMARK_MISMATCH -/
def Cause.hallmarkMismatch : Nat := 0x141
/-- ECC_REGFILE -/
def Cause.eccRegfile : Nat := 0x148
/-- ECC_L1 -/
def Cause.eccL1 : Nat := 0x149
/-- ECC_BLKBUF -/
def Cause.eccBlkbuf : Nat := 0x14A
/-- ECC_ICACHE -/
def Cause.eccIcache : Nat := 0x14B
/-- ECC_HERDSLICE -/
def Cause.eccHerdslice : Nat := 0x14C
/-- ECC_HOMESLICE -/
def Cause.eccHomeslice : Nat := 0x14D
/-- ECC_SCRATCH -/
def Cause.eccScratch : Nat := 0x14E
/-- ECC_MTSCRATCH -/
def Cause.eccMtscratch : Nat := 0x14F
/-- ECC_ACCUM -/
def Cause.eccAccum : Nat := 0x150
/-- ECC_SCALE -/
def Cause.eccScale : Nat := 0x151
/-- ECC_HBM -/
def Cause.eccHbm : Nat := 0x152
/-- ECC_LPDDR -/
def Cause.eccLpddr : Nat := 0x153
/-- ECC_TLB -/
def Cause.eccTlb : Nat := 0x154
/-- ECC_ROUTER -/
def Cause.eccRouter : Nat := 0x155
/-- ECC_WBUF -/
def Cause.eccWbuf : Nat := 0x156
/-- LINK_RETRY -/
def Cause.linkRetry : Nat := 0x160
/-- LINK_LANE -/
def Cause.linkLane : Nat := 0x161
/-- LINK_DOWN -/
def Cause.linkDown : Nat := 0x162
/-- NI_FAIL -/
def Cause.niFail : Nat := 0x163
/-- CXL_ERR -/
def Cause.cxlErr : Nat := 0x164
/-- SEAM_CRC -/
def Cause.seamCrc : Nat := 0x168
/-- SEAM_DOWN -/
def Cause.seamDown : Nat := 0x169
/-- REGULATOR_PHASE -/
def Cause.regulatorPhase : Nat := 0x170
/-- REGULATOR_RAIL -/
def Cause.regulatorRail : Nat := 0x171
/-- WATCHDOG -/
def Cause.watchdog : Nat := 0x178
/-- THERMAL_WARN -/
def Cause.thermalWarn : Nat := 0x179
/-- THERMAL_TRIP -/
def Cause.thermalTrip : Nat := 0x17A

/-- The kinds of the MEM class (R406). -/
inductive MemKind where
  | notMapped | protection | align | bounds | privateAccess | tag | poison | tier
  deriving DecidableEq, Repr

/-- The origins of the MEM class (R406). -/
inductive Origin where
  | load | store | atomic | fetch | copyEngine | gatherScatter | walker | fabric
  deriving DecidableEq, Repr

/-- The number of a kind (R406). -/
def MemKind.code : MemKind → Nat
  | .notMapped => 0 | .protection => 1 | .align => 2 | .bounds => 3 | .privateAccess => 4 | .tag => 5
  | .poison => 6 | .tier => 7

/-- The number of an origin (R406). -/
def Origin.code : Origin → Nat
  | .load => 0 | .store => 1 | .atomic => 2 | .fetch => 3 | .copyEngine => 4 | .gatherScatter => 5
  | .walker => 6 | .fabric => 7

/-- The cause code of a MEM fault: 64 + 8·kind + origin (R406). -/
def memCause (k : MemKind) (o : Origin) : Nat := 64 + 8 * k.code + o.code

end Sys2Proof.Machine
end

