-- ==== Sys2Proof/Machine/Ops.lean ====
section
/-!
DEFINITION. The named operations over sparse tables, registers, contexts, traps, fault records and event
records. Taking an exception (R408) and the return from one (R214) stand here.
-/

namespace Sys2Proof.Machine

-- Sparse tables

/-- The value of a number in a table, d when it is not listed. -/
def mget {α : Type} (d : α) : Map α → Nat → α
  | [], _ => d
  | (j, x) :: m, k => if j = k then x else mget d m k

/-- The table with the value of k set to x. -/
def mset {α : Type} : Map α → Nat → α → Map α
  | [], k, x => [(k, x)]
  | (j, y) :: m, k, x =>
    if j = k then (k, x) :: m else if k < j then (k, x) :: (j, y) :: m else (j, y) :: mset m k x

/-- The value of a number, if it is listed. -/
def mfind {α : Type} : Map α → Nat → Option α
  | [], _ => none
  | (j, x) :: m, k => if j = k then some x else mfind m k

/-- The table without k. -/
def mdel {α : Type} (m : Map α) (k : Nat) : Map α := m.filter (fun e => e.1 != k)

/-- The table with f applied to the value of k, where an unlisted number holds d. -/
def mupd {α : Type} (d : α) (m : Map α) (k : Nat) (f : α → α) : Map α := mset m k (f (mget d m k))

/-- A sorted list of numbers with k added. -/
def insertNum : List Nat → Nat → List Nat
  | [], k => [k]
  | j :: l, k => if j = k then j :: l else if k < j then k :: j :: l else j :: insertNum l k

/-- A list of numbers without k. -/
def eraseNum (l : List Nat) (k : Nat) : List Nat := l.filter (fun j => j != k)

/-- A list without its entry k. -/
def dropNth {α : Type} (l : List α) (k : Nat) : List α := l.take k ++ l.drop (k + 1)

-- Registers (R34, R35)

/-- A general register; g0 reads zero with a clear tag. -/
def Regs.getG (r : Regs) (n : Nat) : Tagged := if n = 0 then {} else mget {} r.g n
/-- A write of a general register; writes to g0 are discarded. -/
def Regs.setG (r : Regs) (n : Nat) (x : Tagged) : Regs :=
  if n = 0 then r else { r with g := mset r.g n x }
/-- A predicate; p0 reads 1. -/
def Regs.getP (r : Regs) (n : Nat) : Bool := if n = 0 then true else r.p.getLsbD n
/-- A write of a predicate; writes to p0 are discarded. -/
def Regs.setP (r : Regs) (n : Nat) (b : Bool) : Regs :=
  if n = 0 then r
  else { r with p := if b then r.p ||| BitVec.twoPow 8 n else r.p &&& ~~~(BitVec.twoPow 8 n) }
/-- A vector register. -/
def Regs.getV (r : Regs) (n : Nat) : Vec := mget 0 r.v n
/-- A write of a vector register. -/
def Regs.setV (r : Regs) (n : Nat) (x : Vec) : Regs := { r with v := mset r.v n x }
/-- A vector mask; k0 reads 0xFFFF. -/
def Regs.getK (r : Regs) (n : Nat) : BitVec 16 := if n = 0 then 0xFFFF else mget 0xFFFF r.k n
/-- A write of a mask; writes to k0 are discarded. -/
def Regs.setK (r : Regs) (n : Nat) (x : BitVec 16) : Regs :=
  if n = 0 then r else { r with k := mset r.k n x }

/-- The registers after one write of a result. -/
def Regs.apply (r : Regs) : RegWrite → Regs
  | .g n x => r.setG n x
  | .p n b => r.setP n b
  | .v n x => r.setV n x
  | .k n x => r.setK n x
  | .flags f => { r with fcsr := r.fcsr ||| BitVec.ofNat 64 f }

/-- The registers after the writes of a result, in order. -/
def Regs.applyAll (r : Regs) (ws : List RegWrite) : Regs := ws.foldl Regs.apply r

-- Cores and contexts

/-- Core n. -/
def State.core (s : State) (n : Nat) : Core := mget {} s.cores n
/-- Core n replaced. -/
def State.setCore (s : State) (n : Nat) (x : Core) : State := { s with cores := mset s.cores n x }
/-- Core n changed by f. -/
def State.onCore (s : State) (n : Nat) (f : Core → Core) : State := s.setCore n (f (s.core n))
/-- Context k of core n. -/
def State.ctxOf (s : State) (n k : Nat) : Context := mget {} (s.core n).ctxs k
/-- Context k of core n replaced. -/
def State.setCtx (s : State) (n k : Nat) (x : Context) : State :=
  s.onCore n (fun c => { c with ctxs := mset c.ctxs k x })
/-- Context k of core n changed by f. -/
def State.onCtx (s : State) (n k : Nat) (f : Context → Context) : State := s.setCtx n k (f (s.ctxOf n k))
/-- The acting context. -/
def State.me (s : State) : Context := s.ctxOf s.act.core s.act.ctx
/-- The acting context replaced. -/
def State.setMe (s : State) (x : Context) : State := s.setCtx s.act.core s.act.ctx x
/-- The acting context changed by f. -/
def State.onMe (s : State) (f : Context → Context) : State := s.setMe (f s.me)
/-- The acting core. -/
def State.myCore (s : State) : Core := s.core s.act.core
/-- Operand i of the device event that acts. -/
def State.arg (s : State) (i : Nat) : Nat := s.act.args.getD i 0
/-- Herd h. -/
def State.herd (s : State) (h : Nat) : Herd := mget {} s.herds h
/-- Herd h changed by f. -/
def State.onHerd (s : State) (h : Nat) (f : Herd → Herd) : State :=
  { s with herds := mset s.herds h (f (s.herd h)) }

/-- The herd of core n (R15). -/
def herdOfCore (n : Nat) : Nat := 24 * (n / 96 / 2) + (n % 96) / 4
/-- Core n's number within its herd (R15). -/
def coreInHerd (n : Nat) : Nat := 4 * (n / 96 % 2) + n % 96 % 4
/-- Core i of herd h (R15). -/
def coreOfHerd (h i : Nat) : Nat := 96 * (2 * (h / 24) + i / 4) + 4 * (h % 24) + i % 4
/-- The quad of core n (R15). -/
def quadOfCore (n : Nat) : Nat := 48 * (n / 96 / 2) + (n % 96) / 2
/-- The cores of a quad, in ascending core-in-quad order. -/
def coresOfQuad (q : Nat) : List Nat :=
  let x := 2 * (q % 48)
  let y := 2 * (q / 48)
  [96 * y + x, 96 * y + x + 1, 96 * (y + 1) + x, 96 * (y + 1) + x + 1]
/-- The cores of a herd. -/
def coresOfHerd (h : Nat) : List Nat := (List.range 8).map (coreOfHerd h)
/-- The field of core n (R7, R15). -/
def fieldOfCore (n : Nat) : Nat := 3 * (n / 96 / 8) + (n % 96) / 32
/-- The field of a herd. -/
def fieldOfHerd (h : Nat) : Nat := fieldOfCore (coreOfHerd h 0)

/-- Contexts of a core in its mode (R32). -/
def Core.nctx (c : Core) : Nat := if c.pmode then 32 else 16
/-- Context k of the core is reserved for escape threads (R39). -/
def Core.reservedCtx (c : Core) (k : Nat) : Bool := decide (c.nctx - c.escres ≤ k) && decide (k < c.nctx)
/-- General registers of a context in its core's mode (R32). -/
def Core.ngpr (c : Core) : Nat := if c.pmode then 32 else 64

/-- The barrel slot of a freed context is its owner's again (R393, R421). -/
def Core.freeBarrel (c : Core) (ctx : Nat) : Core :=
  let x : Slot := mget {} c.slots ctx
  { c with slots := mset c.slots ctx { x with asg := x.owner } }

/-- The registers that an issuing word reads: those from before its pair, else the block's (R43, R47). -/
def Context.view (c : Context) : Regs := c.snap.getD c.work
/-- The value of register r as the issuing word reads it. -/
def Context.rg (c : Context) (r : RegNo) : Word := (c.view.getG r.toNat).val
/-- Register r with its tag as the issuing word reads it. -/
def Context.rgt (c : Context) (r : RegNo) : Tagged := c.view.getG r.toNat
/-- Predicate r as the issuing word reads it. -/
def Context.rp (c : Context) (r : PredNo) : Bool := c.view.getP r.toNat
/-- Vector register r as the issuing word reads it. -/
def Context.rv (c : Context) (r : BitVec 4) : Vec := c.view.getV r.toNat
/-- Mask r as the issuing word reads it. -/
def Context.rk (c : Context) (r : BitVec 2) : BitVec 16 := c.view.getK r.toNat

/-- The acting context's block registers changed by f: a short result (R43). -/
def State.short (s : State) (f : Regs → Regs) : State := s.onMe (fun c => { c with work := f c.work })
/-- A short result into a general register, its tag clear. -/
def State.shortG (s : State) (d : RegNo) (x : Word) : State :=
  s.short (fun r => r.setG d.toNat { val := x, tag := false })
/-- A long result of the acting context: it returns later (R42, R43). -/
def State.long (s : State) (ws : List RegWrite) : State :=
  s.onMe (fun c => { c with outst := c.outst ++ [ws] })
/-- A long result into a general register, its tag clear. -/
def State.longG (s : State) (d : RegNo) (x : Word) : State :=
  s.long [.g d.toNat { val := x, tag := false }]

/-- Every outstanding result of a context returns. -/
def Context.settle (c : Context) : Context :=
  { c with work := c.outst.foldl Regs.applyAll c.work, outst := [] }

-- Fault records and event records (R205, R369, R410, R411)

/-- A fault record is made; it waits for the ring (R410). -/
def State.postFault (s : State) (r : FaultRec) : State :=
  { s with fault := { s.fault with waiting := s.fault.waiting ++ [{ r with time := s.time }] } }

/-- An event record is posted by a unit to a herd's queue; it waits when the queue holds 256 records (R369).
Units: 0 copy engine, 1 collective engine, 2 walker, 3 MXE, 4 message network, 5 launch unit (R402). -/
def State.postEvent (s : State) (unit herd : Nat) (e : EventRec) : State :=
  s.onHerd herd (fun h =>
    if h.events.length < 256 ∧ h.posts = [] then
      { h with events := h.events ++ [e], lastPoster := unit }
    else { h with posts := h.posts ++ [(unit, e)] })

/-- Word 0 of an event record: kind and handle (R205). -/
def eventWord0 (kind handle : Nat) : Word := BitVec.ofNat 64 (kind % 65536 + handle % 2 ^ 32 * 2 ^ 32)

/-- An event record directed to a launch's completion target: posted when it is a herd queue, else counted
as lost (R386). -/
def State.postToLaunch (s : State) (unit launch : Nat) (e : EventRec) : State :=
  match mfind s.launch.live launch with
  | none => s
  | some l =>
    let w7 := (l.record.getD 7 0).toNat
    if w7 % 4 = 2 then s.postEvent unit (field w7 12 5) e
    else { s with launch := { s.launch with live := mset s.launch.live launch { l with lost := l.lost + 1 } } }

/-- An event record to the queue that an s.evq value binds, or to the launch's target (R245, R369). -/
def State.postEvq (s : State) (unit : Nat) (evq : Word) (launch : Nat) (e : EventRec) : State :=
  if evq.getLsbD 8 then s.postEvent unit (evq.toNat % 256) e else s.postToLaunch unit launch e

/-- The launch index of a thread handle (R17). -/
def launchOfHandle (h : Nat) : Nat := h / 2 ^ 20 % 4096
/-- The thread index of a thread handle (R17). -/
def threadOfHandle (h : Nat) : Nat := h % 2 ^ 20
/-- The handle of a thread (R17). -/
def mkHandle (launch thread : Nat) : Nat := launch * 2 ^ 20 + thread

-- State registers of a context (R36, R37)

/-- The value of a per-context state register at reset: s.status with ie set, τ of s.vhtol 14, every other one zero (R37,
R117). -/
def srReset (n : Nat) : Word := if n = 0x020 then 4 else if n = 0x085 then 14 else 0
/-- A state register held per context. -/
def Context.sr (c : Context) (n : Nat) : Word := mget (srReset n) c.sreg n
/-- A state register held per context set. -/
def Context.setSr (c : Context) (n : Nat) (x : Word) : Context := { c with sreg := mset c.sreg n x }
/-- The privilege level of a context (R30, R37). -/
def Context.priv (c : Context) : Nat := (c.sr 0x020).toNat % 4
/-- s.status.ie (R37). -/
def Context.ie (c : Context) : Bool := (c.sr 0x020).getLsbD 2
/-- s.status.autopub (R37). -/
def Context.autopub (c : Context) : Bool := (c.sr 0x020).getLsbD 3
/-- The context has the rights of S (R31). -/
def Context.super (c : Context) : Bool := decide (1 ≤ c.priv) && decide (c.priv ≤ 2)

/-- s.status.esc (R37): set at the start of an escape thread; in a context without a thread, by s.escres. -/
def State.escBit (s : State) (n k : Nat) : Bool :=
  let c := s.ctxOf n k
  if c.live then (c.sr 0x020).getLsbD 5 else (s.core n).reservedCtx k

/-- s.status as it reads (R37). -/
def State.status (s : State) (n k : Nat) : Word :=
  BitVec.ofNat 64 ((s.ctxOf n k |>.sr 0x020).toNat % 16 + 16 * b2n (s.core n).pmode + 32 * b2n (s.escBit n k))

/-- s.status with privilege p, ie and autopub as given; esc is kept (R37). -/
def Context.setStatus (c : Context) (p : Nat) (ie autopub : Bool) : Context :=
  c.setSr 0x020 (BitVec.ofNat 64 (p % 4 + 4 * b2n ie + 8 * b2n autopub + 32 * b2n ((c.sr 0x020).getLsbD 5)))

-- Blocks (R23, R27)

/-- The first word position after the block. -/
def Context.blockEnd (c : Context) : Nat := c.words.length
/-- The fall-through address of the current block (R51, R180). -/
def Context.fallThrough (c : Context) : Word := c.addr + BitVec.ofNat 64 (4 * c.words.length)
/-- The address of the bundle that issues (R58). -/
def Context.bundleAddr (c : Context) : Word := c.addr + BitVec.ofNat 64 (8 * (c.cur / 2))

/-- A window write to an offset of a context's register region (R145, R360), state registers aside. -/
def Regs.windowWrite (r : Regs) (off : Nat) (v : Word) : Regs :=
  if off < 0x200 then r.setG (off / 8) { val := v, tag := false }
  else if off < 0x600 then
    let n := (off - 0x200) / 64
    let w := (off - 0x200) % 64 / 8
    let old := elemsOf 64 8 (r.getV n).toNat
    r.setV n (BitVec.ofNat 512 (packElems 64 (old.set w v.toNat)))
  else if off = 0x600 then { r with p := v.setWidth 8 ||| 1 }
  else if off = 0x608 then
    ((r.setK 1 (v.extractLsb' 16 16)).setK 2 (v.extractLsb' 32 16)).setK 3 (v.extractLsb' 48 16)
  else r

/-- Held window writes to registers take effect once the block has ended (R145); those to state registers stay until
State.applyWindow takes them. -/
def Context.applyHeld (c : Context) : Context :=
  let arch := c.heldWrites.foldl (fun r w => if w.1 < 0x800 then r.windowWrite w.1 w.2 else r) c.arch
  { c with arch := arch, work := arch, heldWrites := c.heldWrites.filter (fun w => decide (0x800 ≤ w.1)) }

/-- The block before its commit point is discarded (R27): nothing that it wrote remains. A gang member is uncoupled
(R193). -/
def Context.discard (c : Context) : Context :=
  Context.applyHeld
    { c with work := c.arch, snap := none, outst := [], stores := [], exit := none, parked := false, gang := none, blockInf := none,
             implicitPubs := [], epoch := c.epoch + 1, words := [], pos := 0, cur := 0, split := false, aDone := false }

/-- The next block is fetched from a. -/
def Context.fetchFrom (c : Context) (a : Word) : Context :=
  { c with phase := .fetch, addr := a, words := [], pos := 0, cur := 0, exit := none, parked := false,
           snap := none, split := false, aDone := false }

/-- A trap of context k of core n is taken (R408): the block is discarded, the trap registers are written,
the level becomes S with interrupts off, and the handler is fetched from s.tvec. A trap at S with ie = 0
that is no TRAP_CODE posts a NESTED_TRAP record instead, and the context sleeps until it is resolved. -/
def State.takeTrap (s : State) (n k : Nat) (t : TrapInfo) : State :=
  let c := (s.ctxOf n k).discard
  if t.cause ≠ Cause.trapCode ∧ c.priv = 1 ∧ c.ie = false then
    let s := s.setCtx n k { c.fetchFrom t.tblk with phase := .wait (.fault 0) }
    s.postFault { cause := Cause.nestedTrap, sev := 1, src := 0, handle := c.handle,
                  launch := some (launchOfHandle c.handle), loc := n, tval := t.tval, tval2 := t.tval2,
                  aux := t.tblk, iter := BitVec.ofNat 64 t.cause, agent := .trap c.handle }
  else
    let c' := ((((c.setSr 0x041 (BitVec.ofNat 64 (t.cause % 512))).setSr 0x042 t.tblk).setSr 0x043
      (BitVec.ofNat 64 (t.tidx % 128))).setSr 0x044 t.tval).setSr 0x045 t.tval2
    let c' := c'.setSr 0x046 (s.status n k)
    let c' := c'.setStatus 1 false c.autopub
    s.setCtx n k (c'.fetchFrom (c.sr 0x040))

/-- The acting context's block traps at its issuing word (R55, R151). -/
def State.trapMe (s : State) (cause : Nat) (tval tval2 : Word) : State :=
  let c := s.me
  s.takeTrap s.act.core s.act.ctx { cause := cause, tblk := c.addr, tidx := c.cur, tval := tval, tval2 := tval2 }

/-- The word that issues (R55). -/
def Context.curWord (c : Context) : Word := (c.words.getD c.cur 0).setWidth 64

/-- An INSTR-class trap of the issuing word: s.tval holds the word (R55). -/
def State.trapInstr (s : State) (cause : Nat) : State := s.trapMe cause s.me.curWord 0

/-- A return from a trap (R214, R412): s.status := s.tstat but for pmode and esc, and the next block is
fetched from s.tblk. -/
def Context.trapReturn (c : Context) : Context :=
  let t := c.sr 0x046
  (c.setStatus (t.toNat % 4) (t.getLsbD 2) (t.getLsbD 3)).fetchFrom (c.sr 0x042)

/-- A pending fault is noted; it is taken at the next block boundary (R184). DESIGN CHOICE (log entry 46): a second one takes
the place of one that is still pending (R173, R420). -/
def Context.stateFault (c : Context) (cause : Nat) (tval tval2 : Word) : Context :=
  { c with pendFault := some { cause := cause, tval := tval, tval2 := tval2 } }

/-- A timer that has reached zero raises its event (R38). -/
def Context.raise (c : Context) (now : Nat) : Context :=
  match c.timerAt with
  | some t => if t ≤ now then { c with timerAt := none, timerEvent := true } else c
  | none => c

/-- The context's block is discarded; it is fetched again after the boundary events (R27, R146). -/
def Context.interrupt (c : Context) (now : Nat) : Context :=
  let a := c.addr
  (c.raise now).discard.fetchFrom a

/-- Boundary events (R409): a pending state fault or QNT_INF, then a switch-out request, which the
SWITCH_OUT step serves, then the timer interrupt when ie = 1. True when the context may fetch its block. -/
def State.boundary (s : State) (n k : Nat) : State × Bool :=
  let s := s.onCtx n k (fun c => c.raise s.time)
  let c := s.ctxOf n k
  match c.pendFault with
  | some f =>
    let s := s.setCtx n k { c with pendFault := none }
    (s.takeTrap n k { cause := f.cause, tblk := c.addr, tidx := f.tidx, tval := f.tval, tval2 := f.tval2 }, false)
  | none =>
    match c.qntInf with
    | some f =>
      let s := s.setCtx n k { c with qntInf := none }
      (s.takeTrap n k { cause := f.cause, tblk := c.addr, tidx := f.tidx, tval := f.tval, tval2 := f.tval2 }, false)
    | none =>
      if c.switchReq then (s, false)
      else if c.timerEvent && c.ie then
        let s := s.setCtx n k { c with timerEvent := false }
        (s.takeTrap n k { cause := Cause.intTimer, tblk := c.addr, tidx := 0, tval := 0, tval2 := 0 }, false)
      else (s, true)

end Sys2Proof.Machine
end

