-- ==== Sys2Proof/Machine/Flags.lean ====
section
/-!
DEFINITION. Number formats, rounding and flags (R82..R86, R94..R100), exact arithmetic on decoded values,
float comparison (R135), and the delivery of a scalar float result with its flags (R138, R139).
-/

namespace Sys2Proof.Machine

-- Formats (R82)

/-- What the codes with the top exponent mean (R82). -/
inductive Specials where
  /-- IEEE 754 infinities and NaNs -/
  | ieee
  /-- S.1111.111 is NaN; no infinities -/
  | e4m3
  /-- all codes are finite -/
  | none
  deriving DecidableEq, Repr

/-- A float format: exponent width, mantissa width, bias, specials (R82). -/
structure Fmt where
  e : Nat
  m : Nat
  bias : Int
  sp : Specials
  deriving DecidableEq, Repr

def fp64 : Fmt := { e := 11, m := 52, bias := 1023, sp := .ieee }
def fp32 : Fmt := { e := 8, m := 23, bias := 127, sp := .ieee }
def bf16 : Fmt := { e := 8, m := 7, bias := 127, sp := .ieee }
def fp16 : Fmt := { e := 5, m := 10, bias := 15, sp := .ieee }
def e4m3 : Fmt := { e := 4, m := 3, bias := 7, sp := .e4m3 }
def e5m2 : Fmt := { e := 5, m := 2, bias := 15, sp := .ieee }
def e3m2 : Fmt := { e := 3, m := 2, bias := 3, sp := .none }
def e2m3 : Fmt := { e := 2, m := 3, bias := 1, sp := .none }
def e2m1 : Fmt := { e := 2, m := 1, bias := 1, sp := .none }

/-- Bits of a code. -/
def Fmt.width (f : Fmt) : Nat := 1 + f.e + f.m
/-- The sign bit as a number. -/
def Fmt.signBit (f : Fmt) (s : Bool) : Nat := if s then 2 ^ (f.e + f.m) else 0

/-- The code magnitude of the largest finite value (R82). -/
def Fmt.maxCode (f : Fmt) : Nat :=
  match f.sp with
  | .ieee => 2 ^ (f.e + f.m) - 2 ^ f.m - 1
  | .e4m3 => 2 ^ (f.e + f.m) - 2
  | .none => 2 ^ (f.e + f.m) - 1

/-- The code magnitude of infinity, for formats that have one. -/
def Fmt.infCode (f : Fmt) : Nat := (2 ^ f.e - 1) * 2 ^ f.m

/-- The canonical NaN (R96); +0 in a format without NaN. -/
def Fmt.nanCode (f : Fmt) : Nat :=
  match f.sp with
  | .ieee => f.infCode + 2 ^ (f.m - 1)
  | .e4m3 => 2 ^ (f.e + f.m) - 1
  | .none => 0

/-- A decoded value: NaN (signalling or not), infinity, or (−1)^s·m·2^e. -/
inductive FVal where
  | nan (sig : Bool)
  | inf (s : Bool)
  | fin (s : Bool) (m : Nat) (e : Int)
  deriving DecidableEq, Repr

/-- The value of a code (R82, R135). -/
def Fmt.decode (f : Fmt) (x : Nat) : FVal :=
  let s := x.testBit (f.e + f.m)
  let E := x / 2 ^ f.m % 2 ^ f.e
  let M := x % 2 ^ f.m
  if f.sp = .ieee ∧ E = 2 ^ f.e - 1 then
    if M = 0 then .inf s else .nan (!M.testBit (f.m - 1))
  else if f.sp = .e4m3 ∧ E = 2 ^ f.e - 1 ∧ M = 2 ^ f.m - 1 then .nan false
  else if E = 0 then .fin s M (1 - f.bias - f.m)
  else .fin s (2 ^ f.m + M) (E - f.bias - f.m)

/-- A code is a subnormal. -/
def Fmt.isSub (f : Fmt) (x : Nat) : Bool := x / 2 ^ f.m % 2 ^ f.e == 0 && x % 2 ^ f.m != 0

/-- The value of a code as an operand: under ftz a subnormal reads as zero of its sign (R98). -/
def Fmt.read (f : Fmt) (ftz : Bool) (x : Nat) : FVal :=
  if ftz && f.isSub x then .fin (x.testBit (f.e + f.m)) 0 0 else f.decode x

-- Rounding (R94..R98)

/-- How a unit rounds: mode (0 RNE, 1 RZ, 2 SR), ftz, sat, and the SR draw. -/
structure FEnv where
  rm : Nat := 0
  ftz : Bool := false
  sat : Bool := false
  draw : Nat := 0
  deriving DecidableEq, Repr

/-- A code and the flags raised: 1 nx, 2 uf, 4 of, 8 dz, 16 nv. -/
structure FRes where
  bits : Nat
  flags : Nat := 0
  deriving DecidableEq, Repr

/-- inexact -/
def nxFlag : Nat := 1
/-- underflow -/
def ufFlag : Nat := 2
/-- overflow -/
def ofFlag : Nat := 4
/-- divide by zero -/
def dzFlag : Nat := 8
/-- invalid -/
def nvFlag : Nat := 16

/-- Both flag sets. -/
def orFlags (a b : Nat) : Nat := a ||| b

/-- A magnitude m·2^e, or just above it when sticky, in units of 2^(e + sh): the rounded number of units and
whether it is inexact (R94, R95). -/
def roundUnits (rm draw m sh : Nat) (sticky : Bool) : Nat × Bool :=
  let q := m >>> sh
  let r := m % 2 ^ sh
  let inexact := r != 0 || sticky
  let up :=
    if rm = 0 then
      2 ^ sh < 2 * r || (2 * r == 2 ^ sh && sh != 0 && (sticky || q % 2 == 1))
    else if rm = 2 then inexact && decide (2 ^ 16 ≤ (r * 2 ^ 16) >>> sh + draw)
    else false
  (if up then q + 1 else q, inexact)

/-- As roundUnits with a signed shift: a negative one is exact. -/
def roundAt (rm draw m : Nat) (sh : Int) (sticky : Bool) : Nat × Bool :=
  match sh with
  | .ofNat n => roundUnits rm draw m n sticky
  | .negSucc n => (m <<< (n + 1), sticky)

/-- floor(log2 (m·2^e)) for m > 0. -/
def expOf (m : Nat) (e : Int) : Int := e + Nat.log2 m

/-- The nonzero magnitude m·2^e (just above it when sticky), with sign s, rounded once to a format (R94..R98). -/
def Fmt.round (f : Fmt) (v : FEnv) (s : Bool) (m : Nat) (e : Int) (sticky : Bool) : FRes :=
  let E := expOf m e
  let emin := 1 - f.bias
  let qe := max E emin - f.m
  let r := roundAt v.rm v.draw m (qe - e) sticky
  let code := r.1 + (qe + f.m + f.bias - 1).toNat * 2 ^ f.m
  if code > f.maxCode then
    -- overflow (R96)
    let fl := ofFlag + nxFlag
    match f.sp with
    | .ieee => { bits := f.signBit s + (if v.rm = 1 then f.maxCode else f.infCode), flags := fl }
    | .e4m3 => { bits := if v.rm = 1 ∨ v.sat then f.signBit s + f.maxCode else f.nanCode, flags := fl }
    | .none => { bits := f.signBit s + f.maxCode, flags := fl }
  else if v.ftz && code != 0 && decide (code < 2 ^ f.m) then
    { bits := f.signBit s, flags := ufFlag + nxFlag }
  else
    -- tiny after rounding as if the exponent were unbounded
    let t := roundAt v.rm v.draw m (E - f.m - e) sticky
    let tiny := decide (E < emin) && !(decide (E = emin - 1) && t.1 == 2 ^ (f.m + 1))
    let nx := if r.2 then nxFlag else 0
    let uf := if r.2 && tiny then ufFlag else 0
    { bits := f.signBit s + code, flags := nx + uf }

/-- A decoded value converted to a format (R96, R97): rounded when finite. The invalid flag of a signalling
NaN is raised by the reader of the operand. -/
def Fmt.convert (f : Fmt) (v : FEnv) : FVal → FRes
  | .nan _ => { bits := f.nanCode, flags := if f.sp = .none then nvFlag else 0 }
  | .inf s =>
    match f.sp with
    | .ieee => { bits := f.signBit s + f.infCode }
    | .e4m3 => { bits := if v.sat then f.signBit s + f.maxCode else f.nanCode, flags := nvFlag }
    | .none => { bits := f.signBit s + f.maxCode, flags := nvFlag }
  | .fin s m e => if m = 0 then { bits := f.signBit s } else f.round v s m e false

/-- The flag of reading a signalling NaN (R141). -/
def FVal.sigFlag : FVal → Nat
  | .nan true => nvFlag
  | _ => 0

/-- The value is a NaN. -/
def FVal.isNan : FVal → Bool
  | .nan _ => true
  | _ => false
/-- The value is an infinity. -/
def FVal.isInf : FVal → Bool
  | .inf _ => true
  | _ => false
/-- The value is a zero. -/
def FVal.isZero : FVal → Bool
  | .fin _ 0 _ => true
  | _ => false
/-- The sign of a value; false for a NaN. -/
def FVal.sign : FVal → Bool
  | .nan _ => false
  | .inf s => s
  | .fin s _ _ => s
/-- The value with the other sign. -/
def FVal.neg : FVal → FVal
  | .nan q => .nan q
  | .inf s => .inf (!s)
  | .fin s m e => .fin (!s) m e

/-- The signed mantissa of a finite value at exponent e0 ≤ e. -/
def scaled (s : Bool) (m : Nat) (e e0 : Int) : Int :=
  let x : Int := ((m <<< (e - e0).toNat : Nat) : Int)
  if s then -x else x

/-- The exact sum of two values; two infinities of unlike sign give a NaN that raises invalid (signalling).
A zero sum is +0 unless both operands are −0 (IEEE 754 under the three modes). -/
def FVal.add : FVal → FVal → FVal
  | .nan a, .nan b => .nan (a || b)
  | .nan a, _ => .nan a
  | _, .nan b => .nan b
  | .inf a, .inf b => if a = b then .inf a else .nan true
  | .inf a, _ => .inf a
  | _, .inf b => .inf b
  | .fin s m e, .fin t n g =>
    let e0 := min e g
    let x := scaled s m e e0 + scaled t n g e0
    if x = 0 then .fin (s && t) 0 0 else .fin (decide (x < 0)) x.natAbs e0

/-- The exact product of two values; 0·∞ gives a NaN that raises invalid. -/
def FVal.mul : FVal → FVal → FVal
  | .nan a, .nan b => .nan (a || b)
  | .nan a, _ => .nan a
  | _, .nan b => .nan b
  | .inf a, .inf b => .inf (a != b)
  | .inf a, .fin t n _ => if n = 0 then .nan true else .inf (a != t)
  | .fin s m _, .inf b => if m = 0 then .nan true else .inf (s != b)
  | .fin s m e, .fin t n g => .fin (s != t) (m * n) (e + g)

/-- A value rounded to a format, with the invalid flag where it is a NaN that raises it. -/
def Fmt.deliver (f : Fmt) (v : FEnv) (x : FVal) : FRes :=
  let r := f.convert v x
  { r with flags := r.flags ||| x.sigFlag }

/-- Addition (R142). -/
def Fmt.fadd (f : Fmt) (v : FEnv) (a b : FVal) : FRes := f.deliver v (a.add b)
/-- Multiplication (R142). -/
def Fmt.fmul (f : Fmt) (v : FEnv) (a b : FVal) : FRes := f.deliver v (a.mul b)

/-- Fused a·b + c, rounded once (R143). -/
def Fmt.ffma (f : Fmt) (v : FEnv) (a b c : FVal) : FRes :=
  let p := a.mul b
  let r := f.convert v (p.add c)
  { r with flags := r.flags ||| p.sigFlag ||| (p.add c).sigFlag ||| c.sigFlag }

/-- Division (R142, IEEE 754). -/
def Fmt.fdiv (f : Fmt) (v : FEnv) (a b : FVal) : FRes :=
  match a, b with
  | .nan x, .nan y => f.deliver v (.nan (x || y))
  | .nan x, _ => f.deliver v (.nan x)
  | _, .nan y => f.deliver v (.nan y)
  | .inf _, .inf _ => f.deliver v (.nan true)
  | .inf s, .fin t _ _ => f.deliver v (.inf (s != t))
  | .fin s _ _, .inf t => f.deliver v (.fin (s != t) 0 0)
  | .fin s m e, .fin t n g =>
    if n = 0 then
      if m = 0 then f.deliver v (.nan true)
      else { (f.convert v (.inf (s != t))) with flags := dzFlag }
    else if m = 0 then f.deliver v (.fin (s != t) 0 0)
    else f.round v (s != t) ((m <<< 160) / n) (e - g - 160) ((m <<< 160) % n != 0)

/-- Square root (R100, R142): correctly rounded; −0 gives −0. -/
def Fmt.fsqrt (f : Fmt) (v : FEnv) (a : FVal) : FRes :=
  match a with
  | .nan x => f.deliver v (.nan x)
  | .inf s => f.deliver v (if s then .nan true else .inf false)
  | .fin s m e =>
    if m = 0 then f.deliver v a
    else if s then f.deliver v (.nan true)
    else
      let k : Nat := 200 + (e % 2).toNat
      let x := m <<< k
      let r := Nat.sqrt x
      f.round v false r ((e - k) / 2) (r * r != x)

/-- The reciprocal (R100). -/
def Fmt.frcp (f : Fmt) (v : FEnv) (a : FVal) : FRes := f.fdiv v (.fin false 1 0) a

/-- The reciprocal square root (R100). -/
def Fmt.frsq (f : Fmt) (v : FEnv) (a : FVal) : FRes :=
  match a with
  | .nan x => f.deliver v (.nan x)
  | .inf s => f.deliver v (if s then .nan true else .fin false 0 0)
  | .fin s m e =>
    if m = 0 then { (f.convert v (.inf s)) with flags := dzFlag }
    else if s then f.deliver v (.nan true)
    else
      -- 1 / sqrt(m·2^e) = sqrt(2^(400 + odd) / m)·2^(−(e + 400 + odd)/2)
      let k : Nat := 400 + (e % 2).toNat
      let x := 2 ^ k / m
      let r := Nat.sqrt x
      f.round v false r (-((e + k) / 2)) (r * r != x || 2 ^ k % m != 0)

-- Fixed point for exp2, log2 and tanh (R100): 640 fraction bits

/-- Fraction bits of the fixed-point values. -/
def fixBits : Nat := 640
/-- One in fixed point. -/
def fixOne : Nat := 2 ^ 640

/-- The terms z^(2k+1)/(2k+1), n of them, of the inverse hyperbolic tangent; z2 is z². -/
def atanhSum : Nat → Nat → Nat → Nat → Nat
  | 0, _, _, _ => 0
  | n + 1, k, zp, z2 => zp / (2 * k + 1) + atanhSum n (k + 1) ((zp * z2) >>> fixBits) z2

/-- 2·atanh(z) in fixed point for z < 1/2. -/
def fixAtanh2 (z : Nat) : Nat := 2 * atanhSum 330 0 z ((z * z) >>> fixBits)
/-- The natural logarithm of 2 in fixed point. -/
def fixLn2 : Nat := fixAtanh2 (fixOne / 3)

/-- The terms y^k/k! from the k-th on, n of them. -/
def expSum : Nat → Nat → Nat → Nat → Nat
  | 0, _, _, _ => 0
  | n + 1, k, t, y => t + expSum n (k + 1) (((t * y) >>> fixBits) / (k + 1)) y

/-- e^y in fixed point for 0 ≤ y < 1. -/
def fixExp (y : Nat) : Nat := expSum 150 0 fixOne y

/-- The fixed-point floor of m·2^e. -/
def fixOf (m : Nat) (e : Int) : Nat :=
  match e + 640 with
  | .ofNat n => m <<< n
  | .negSucc n => m >>> (n + 1)

/-- 2^x (R100): an integer x is exact, any other is not. Beyond ±4096 every format overflows or vanishes. -/
def Fmt.fexp2 (f : Fmt) (v : FEnv) (a : FVal) : FRes :=
  match a with
  | .nan x => f.deliver v (.nan x)
  | .inf s => f.deliver v (if s then .fin false 0 0 else .inf false)
  | .fin s m e =>
    if m = 0 then f.round v false 1 0 false
    else if expOf m e ≥ 12 then f.round v false 1 (if s then -5000 else 5000) true
    else
      let x := fixOf m e
      let whole := x / fixOne
      let frac := x % fixOne
      let exact := frac == 0 && decide (-640 ≤ e)
      if exact then f.round v false 1 (if s then -(whole : Int) else whole) false
      else if s then
        -- 2^(−w−f) = 2^(−w−1)·2^(1−f)
        f.round v false (fixExp (((fixOne - frac) * fixLn2) >>> fixBits)) (-(whole : Int) - 1 - 640) true
      else f.round v false (fixExp ((frac * fixLn2) >>> fixBits)) ((whole : Int) - 640) true

/-- The base-2 logarithm (R100): exact for powers of 2. -/
def Fmt.flog2 (f : Fmt) (v : FEnv) (a : FVal) : FRes :=
  match a with
  | .nan x => f.deliver v (.nan x)
  | .inf s => f.deliver v (if s then .nan true else .inf false)
  | .fin s m e =>
    if m = 0 then { (f.convert v (.inf true)) with flags := dzFlag }
    else if s then f.deliver v (.nan true)
    else
      let E := expOf m e
      if m = 2 ^ Nat.log2 m then
        if E = 0 then { bits := 0 } else f.round v (decide (E < 0)) E.natAbs 0 false
      else
        let r := (m <<< fixBits) >>> Nat.log2 m
        let z := ((r - fixOne) <<< fixBits) / (r + fixOne)
        let frac := (fixAtanh2 z <<< fixBits) / fixLn2
        let x : Int := E * fixOne + frac
        f.round v (decide (x < 0)) x.natAbs (-640) true

/-- The hyperbolic tangent (R100): ±1 is never reached by a finite operand but rounds to it. -/
def Fmt.ftanh (f : Fmt) (v : FEnv) (a : FVal) : FRes :=
  match a with
  | .nan x => f.deliver v (.nan x)
  | .inf s => f.round v s 1 0 false
  | .fin s m e =>
    if m = 0 then f.deliver v a
    else if expOf m e ≥ 6 then f.round v s (fixOne - 1) (-640) true
    else
      let y := 2 * fixOf m e
      let k := y / fixLn2
      let E := fixExp (y - k * fixLn2) <<< k
      f.round v s (((E - fixOne) <<< fixBits) / (E + fixOne)) (-640) true

-- Comparison, minimum and maximum (R135, R142)

/-- The order of two values that are no NaN: −1, 0 or 1; −0 equals +0. -/
def FVal.order (a b : FVal) : Int :=
  match a, b with
  | .inf s, .inf t => if s = t then 0 else if s then -1 else 1
  | .inf s, _ => if s then -1 else 1
  | _, .inf t => if t then 1 else -1
  | .fin s m e, .fin t n g =>
    let e0 := min e g
    let x := scaled s m e e0 - scaled t n g e0
    if x < 0 then -1 else if x = 0 then 0 else 1
  | _, _ => 0

/-- A float condition and the invalid flag (R135). -/
def evalFloat (c : FloatCond) (a b : FVal) : Bool × Nat :=
  let nan := a.isNan || b.isNan
  let sig := a.sigFlag ||| b.sigFlag
  match c with
  | .feq => (!nan && a.order b == 0, sig)
  | .flt => (!nan && decide (a.order b < 0), if nan then nvFlag else 0)
  | .fle => (!nan && decide (a.order b ≤ 0), if nan then nvFlag else 0)
  | .fun_ => (nan, sig)

/-- The smaller of two values, −0 below +0. -/
def FVal.lesser (a b : FVal) : FVal :=
  if a.order b < 0 then a else if 0 < a.order b then b else if a.sign then a else b
/-- The larger of two values, −0 below +0. -/
def FVal.greater (a b : FVal) : FVal :=
  if a.order b < 0 then b else if 0 < a.order b then a else if a.sign then b else a

/-- minimumNumber or maximumNumber (R142): pick chooses between two numbers. -/
def Fmt.fpick (f : Fmt) (v : FEnv) (pick : FVal → FVal → FVal) (a b : FVal) : FRes :=
  let x := if a.isNan then (if b.isNan then .nan false else b) else if b.isNan then a else pick a b
  let r := f.convert v x
  { r with flags := r.flags ||| a.sigFlag ||| b.sigFlag }

-- Integers (R97)

/-- A decoded value rounded to an integer by the mode and clamped to lo..hi (R96, R97, R144). -/
def toInt (v : FEnv) (lo hi : Int) (x : FVal) : Int × Nat :=
  match x with
  | .nan _ => (0, nvFlag)
  | .inf s => (if s then lo else hi, nvFlag)
  | .fin s m e =>
    let r := roundAt v.rm v.draw m (-e) false
    let y : Int := if s then -(r.1 : Int) else r.1
    if y < lo then (lo, nvFlag) else if hi < y then (hi, nvFlag) else (y, if r.2 then nxFlag else 0)

/-- An integer rounded to a format (R97). -/
def Fmt.ofInt (f : Fmt) (v : FEnv) (x : Int) : FRes :=
  if x = 0 then { bits := 0 } else f.round v (decide (x < 0)) x.natAbs 0 false

/-- The sign bit cleared (R142). -/
def Fmt.fabs (f : Fmt) (x : Nat) : Nat := x % 2 ^ (f.e + f.m)
/-- The sign bit inverted (R142). -/
def Fmt.fneg (f : Fmt) (x : Nat) : Nat := x % 2 ^ f.width ^^^ 2 ^ (f.e + f.m)

-- Flags of a context (R138, R139)

/-- rm, ftz and sat as they stand at the start of the block (R139), with the draw of element k: one of its own for every
rounding of every context that issues in a step (R95). -/
def State.fenv (s : State) (k : Nat) : FEnv :=
  let x := s.me.arch.fcsr.toNat
  { rm := x % 4, ftz := x.testBit 2, sat := x.testBit 3
    draw := (Config.srDraw s.tick (k + 1024 * (32 * s.act.core + s.act.ctx))).toNat }

/-- The trap enables en at the start of the block, in flag order (R138). -/
def Context.enables (c : Context) : Nat := field c.arch.fcsr.toNat 13 9

/-- Raised flags as a write of s.fcsr: nx is bit 4 (R138). -/
def flagWrite (flags : Nat) : RegWrite := .flags (flags % 32 * 16)

/-- A scalar float result (R138, R139): an enabled flag traps with FP_SCALAR; else the long result and its flags
are written together. A write to g0 is discarded with its flags (R122). -/
def State.floatResult (s : State) (d : RegNo) (r : FRes) : State :=
  if r.flags &&& s.me.enables ≠ 0 then s.trapMe Cause.fpScalar (BitVec.ofNat 64 r.flags) 0
  else if d = 0 then s.long []
  else s.long [.g d.toNat { val := BitVec.ofNat 64 r.bits, tag := false }, flagWrite r.flags]

end Sys2Proof.Machine
end

