-- ==== Sys2Proof/Machine/Memory.lean ====
section
/-!
DEFINITION. Memory: bytes and words in canonical form, the physical map (R358, R359), storage hallmarks
(R109..R112), detected errors (R362), translation (R364..R368), and what a check answers.
-/

namespace Sys2Proof.Machine

-- Bytes and words

/-- The byte at an address. -/
def memGet : Memory → Nat → Byte
  | [], a => Memory.background a
  | (j, y) :: m, a => if j = a then y else memGet m a

/-- The memory with the byte at a set to b; the form stays canonical. -/
def memPut : Memory → Nat → Byte → Memory
  | [], a, b => if b = Memory.background a then [] else [(a, b)]
  | (j, y) :: m, a, b =>
    if j = a then (if b = Memory.background a then m else (a, b) :: m)
    else if a < j then (if b = Memory.background a then (j, y) :: m else (a, b) :: (j, y) :: m)
    else (j, y) :: memPut m a b

/-- The memory with a list of bytes written from a upward. -/
def memPutAll (m : Memory) (a : Nat) : List Byte → Memory
  | [] => m
  | b :: bs => memPutAll (memPut m a b) (a + 1) bs

/-- The bytes that a write leaves in a word: bit i of the mask takes byte i of the new value. -/
def mergeBytes (old new : Word) (mask : BitVec 8) : Word :=
  BitVec.ofNat 64 (valueLE ((List.range 8).map (fun i =>
    if mask.getLsbD i then new.extractLsb' (8 * i) 8 else old.extractLsb' (8 * i) 8)))

/-- hash64 of R127. -/
def hash64 (a b : Word) : Word :=
  let x := a + b * 0x9E3779B97F4A7C15
  let x := (x ^^^ (x >>> 31)) * 0xE7C15A934D2B86F1
  let x := (x ^^^ (x >>> 29)) * 0xB52F3E17C9A0D46B
  x ^^^ (x >>> 32)

-- Control registers that the memory system reads

/-- The reset value of a control register: c.ident (R4), lsize of c.fqctl (R410), else zero. -/
def cregReset (off : Nat) : Word :=
  if off = 0 then Config.ident else if off = 0x3008 then 6 else 0

/-- The stored value of a control register. -/
def State.creg (s : State) (off : Nat) : Word := (mfind s.dev.creg off).getD (cregReset off)

/-- c.fqctl.lsize, c.fqctl.en, c.fqtail and c.fqhead (R410). -/
def State.fqSize (s : State) : Nat := (s.creg 0x3008).toNat % 32
def State.fqOn (s : State) : Bool := (s.creg 0x3008).getLsbD 5
def State.fqTail (s : State) : Nat := (s.creg 0x3010).toNat % 2 ^ 32
def State.fqHead (s : State) : Nat := (s.creg 0x3018).toNat % 2 ^ 32
/-- The ring holds as many records as it can. -/
def State.fqFull (s : State) : Bool := decide (2 ^ s.fqSize ≤ (s.fqTail + 2 ^ 32 - s.fqHead) % 2 ^ 32)
/-- A record of severity 1 to 3 waits for room in the full ring, and its poster waits with it (R410): whose record p tells. The
retiring thread, the distributor and the matrix element go on only then; the other posters have stopped with their record, or do
nothing but post. -/
def State.posterHeld (s : State) (p : FaultRec → Bool) : Bool :=
  s.fqOn && s.fqFull && s.fault.waiting.any (fun r => r.sev != 0 && p r)
/-- The distributor waits for its own record. -/
def State.distributorHeld (s : State) : Bool := s.posterHeld (fun r => r.src == 7)
/-- A control register stored. -/
def State.setCreg (s : State) (off : Nat) (v : Word) : State :=
  { s with dev := { s.dev with creg := mset s.dev.creg off v } }

-- The physical map (R358, R359)

/-- What a physical address names. -/
inductive Region where
  | hbm
  | lpddr
  | scratch (core off : Nat)
  /-- the context-register region: core, context, offset (R360) -/
  | regs (core ctx off : Nat)
  | mt (m off : Nat)
  | weights (e off : Nat)
  | codebook (e off : Nat)
  /-- an accumulator bank: MXE, bank, offset -/
  | accum (e bank off : Nat)
  | control (off : Nat)
  | remote (dev off : Nat)
  | host (off : Nat)
  | hole
  deriving DecidableEq, Repr

/-- MXE e is fine (R431). -/
def mxeFine (e : Nat) : Bool := e / 48 % 16 / 4 != 2
/-- Bytes of an MXE's weight buffer (R359). -/
def weightBytes (e : Nat) : Nat := if mxeFine e then 1048576 else 2097152
/-- Bytes of an accumulator bank (R359). -/
def bankBytes (e : Nat) : Nat := if mxeFine e then 32768 else 8192
/-- Physical address of an MXE's slot (R359). -/
def mxeBase (e : Nat) : Nat := 0x80200000000 + 4194304 * e

/-- The physical address that serves another: the herd window names scratch, and the remote window of the
device's own id names local memory (R358, R359). -/
def State.localPa (s : State) (pa : Nat) : Nat :=
  let a :=
    if 0xC0000000000 ≤ pa ∧ pa < 0x10C0000000000 ∧
        (pa - 0xC0000000000) / 2 ^ 42 = (s.creg 0x7900).toNat % 64 then
      (pa - 0xC0000000000) % 2 ^ 42
    else pa
  if 0x80080000000 ≤ a ∧ a < 0x80080000000 + 4194304 * 192 then
    let h := (a - 0x80080000000) / 4194304
    let i := (a - 0x80080000000) % 4194304 / 524288
    0x80000000000 + 524288 * coreOfHerd h i + a % 524288
  else a

/-- Logical core n has no physical core (R447, R450). -/
def State.absent (s : State) (n : Nat) : Bool := (mget 0 s.dev.cmap n).testBit 7

/-- The granule's logical channel (R376): HBM with K = N, LPDDR-6 with K = M. -/
def channelOf (k off : Nat) : Nat :=
  let g := off / 4096
  let q := g / k
  (g + (hash64 (BitVec.ofNat 64 q) 0).toNat) % k

/-- What a local physical address names. -/
def State.region (s : State) (pa : Nat) : Region :=
  let n := (s.creg 0x1030).toNat % 2048
  let m := (s.creg 0x1038).toNat % 256
  if pa < n * 1073741824 then
    (if s.mem.deadChan.contains (2 * channelOf n pa) then .hole else .hbm)
  else if 0x10000000000 ≤ pa ∧ pa < 0x10000000000 + 17179869184 * m then
    (if s.mem.deadChan.contains (2 * channelOf m (pa - 0x10000000000) + 1) then .hole else .lpddr)
  else if 0x80000000000 ≤ pa ∧ pa < 0x80000000000 + 524288 * 1536 then
    let c := (pa - 0x80000000000) / 524288
    if s.absent c then .hole else .scratch c (pa % 524288)
  else if 0x80040000000 ≤ pa ∧ pa < 0x80040000000 + 131072 * 1536 then
    let c := (pa - 0x80040000000) / 131072
    let k := pa % 131072 / 4096
    if s.absent c || decide ((s.core c).nctx ≤ k) then .hole else .regs c k (pa % 4096)
  else if 0x80100000000 ≤ pa ∧ pa < 0x80100000000 + 2097152 * 768 then
    .mt ((pa - 0x80100000000) / 2097152) (pa % 2097152)
  else if 0x80200000000 ≤ pa ∧ pa < 0x80200000000 + 4194304 * 1536 then
    let e := (pa - 0x80200000000) / 4194304
    let off := pa % 4194304
    if off < weightBytes e then .weights e off
    else if 2097152 ≤ off ∧ off < 2097152 + 2048 then .codebook e (off - 2097152)
    else if 3145728 ≤ off ∧ off < 3145728 + 65536 ∧ (off - 3145728) % 32768 < bankBytes e then
      .accum e ((off - 3145728) / 32768) ((off - 3145728) % 32768)
    else .hole
  else if Config.controlBase ≤ pa ∧ pa < Config.controlBase + 4294967296 then .control (pa - Config.controlBase)
  else if 0xC0000000000 ≤ pa ∧ pa < 0x10C0000000000 then
    let d := (pa - 0xC0000000000) / 2 ^ 42
    if s.dev.members.contains d then .remote d ((pa - 0xC0000000000) % 2 ^ 42) else .hole
  else if 0x10C0000000000 ≤ pa ∧ pa < 2 ^ 52 then .host (pa - 0x10C0000000000)
  else .hole

/-- Cached in L1 (R357, R372). -/
def Region.cached : Region → Bool
  | .hbm => true
  | .lpddr => true
  | .remote _ _ => true
  | .host _ => true
  | _ => false

/-- Some path to a destination device is up (R461). -/
def State.reachable (s : State) (d : Nat) : Bool :=
  (List.range 4).any (fun k =>
    match mfind s.dev.paths (4 * d + k) with
    | some p => (mget {} s.dev.ports p).up
    | none => false)

-- Hallmarks (R109..R112, R363, R370)

/-- The shadow address of the tile of a physical address inside a hallmark range (R370). -/
def State.shadowOf (s : State) (pa : Nat) : Option Nat :=
  let inRange (b : Nat) : Option Nat :=
    let base := field (s.creg b).toNat 51 30 * 2 ^ 30
    let size := (s.creg (b + 8)).toNat % 65536 * 2 ^ 30
    if base ≤ pa ∧ pa < base + size then
      some (field (s.creg (b + 16)).toNat 51 5 * 32 + 96 * ((pa - base) / 1024)) else none
  match inRange 0x1000 with
  | some x => some x
  | none => inRange 0x1018

/-- The address lies in a tile: a tile area, a hallmark range or a weight buffer (R361, R363). -/
def State.inTile (s : State) (pa : Nat) : Bool :=
  match s.region pa with
  | .scratch n off => (s.creg (0x100000 + 8 * n)).getLsbD (off / 65536)
  | .mt m off => (s.creg (0x200000 + 8 * m)).getLsbD (off / 65536)
  | .weights _ _ => true
  | .hbm => (s.shadowOf pa).isSome
  | .lpddr => (s.shadowOf pa).isSome
  | _ => false

/-- The location keeps a tag per word (R361). -/
def State.hasTags (s : State) (pa : Nat) : Bool :=
  match s.region pa with
  | .scratch _ _ => !s.inTile pa
  | .mt _ _ => !s.inTile pa
  | .hbm => !s.inTile pa
  | .lpddr => !s.inTile pa
  | .remote _ _ => true
  | _ => false

/-- The 16-bit word (i, j) of tile t (R109). -/
def MemSys.tileWord (m : MemSys) (t i j : Nat) : Nat :=
  (memGet m.bytes (1024 * t + 64 * i + 2 * j)).toNat + 256 * (memGet m.bytes (1024 * t + 64 * i + 2 * j + 1)).toNat

/-- The sums of a tile's data: 16 rows, then 32 columns (R109). -/
def MemSys.tileSums (m : MemSys) (t : Nat) : List Nat :=
  (List.range 16).map (fun i => ((List.range 32).map (fun j => m.tileWord t i j)).sum % 65536) ++
  (List.range 32).map (fun j => ((List.range 16).map (fun i => m.tileWord t i j)).sum % 65536)

/-- The stored hallmark of a tile (R109). -/
def MemSys.hallmark (m : MemSys) (t : Nat) : List Nat := (mfind m.hallmarks t).getD (m.tileSums t)

/-- The array that holds an address: INTEGRITY detail and unit number (R411, R414). -/
def State.arrayOf (s : State) (pa : Nat) : Nat × Nat :=
  match s.region pa with
  | .scratch n _ => (0x0E, n)
  | .mt m _ => (0x0F, m)
  | .weights e _ => (0x16, e)
  | .codebook e _ => (0x11, e)
  | .accum e _ _ => (0x10, e)
  | .hbm => (0x12, channelOf ((s.creg 0x1030).toNat % 2048) pa)
  | .lpddr => (0x13, channelOf ((s.creg 0x1038).toNat % 256) (pa - 0x10000000000))
  | _ => (0x0D, 0)

/-- A corrected error is counted and posts its record (R414). -/
def State.corrected (s : State) (detail unit : Nat) (addr : Word) : State :=
  let n := mget 0 s.fault.counters detail
  let s := { s with fault := { s.fault with counters := mset s.fault.counters detail (min (n + 1) (2 ^ 32 - 1)) } }
  s.postFault { cause := 0x140 + detail, sev := 0, src := 6, loc := unit, tval := addr }

/-- A tile is checked whole (R110): true when it is good or was corrected. -/
def State.checkTile (s : State) (t : Nat) : State × Bool :=
  match mfind s.mem.hallmarks t with
  | none => (s, true)
  | some stored =>
    let d := (List.range 48).map (fun i => ((s.mem.tileSums t).getD i 0 + 65536 - stored.getD i 0) % 65536)
    let rows := (List.range 16).filter (fun i => d.getD i 0 != 0)
    let cols := (List.range 32).filter (fun j => d.getD (16 + j) 0 != 0)
    let s0 := { s with mem := { s.mem with hallmarks := mdel s.mem.hallmarks t } }
    let arr := s.arrayOf (1024 * t)
    let fixd (s : State) : State := s.corrected arr.1 arr.2 (BitVec.ofNat 64 (1024 * t))
    match rows, cols with
    | [], [] => (s0, true)
    | [i], [j] =>
      if d.getD i 0 = d.getD (16 + j) 0 then
        let v := (s.mem.tileWord t i j + 65536 - d.getD i 0) % 65536
        let m := memPutAll s0.mem.bytes (1024 * t + 64 * i + 2 * j) (bytesLE 2 v)
        (fixd { s0 with mem := { s0.mem with bytes := m } }, true)
      else (s, false)
    | [_], [] => (fixd s0, true)
    | [], [_] => (fixd s0, true)
    | _, _ => (s, false)

/-- A partial read of rows r0..r1 of a tile checks ρ of those rows, and the whole tile on a mismatch (R111). -/
def State.checkRows (s : State) (t r0 r1 : Nat) : State × Bool :=
  match mfind s.mem.hallmarks t with
  | none => (s, true)
  | some stored =>
    if (List.range 16).all (fun i => decide (i < r0) || decide (r1 < i) ||
        (s.mem.tileSums t).getD i 0 == stored.getD i 0) then (s, true)
    else s.checkTile t

/-- Flips of a weight buffer's words that nothing has read show in the tile that is read, under its hallmark (R88, R111). -/
def State.exposeFlips (s : State) (t : Nat) : State :=
  match s.mem.latent.filter (fun e => e.1 / 128 == t) with
  | [] => s
  | es =>
    let h := s.mem.hallmark t
    let s := { s with mem := { s.mem with hallmarks := mset s.mem.hallmarks t h } }
    es.foldl (fun s e => { s with mem := { s.mem with
      bytes := memPutAll s.mem.bytes (8 * e.1) ((List.range 8).map (fun i =>
        memGet s.mem.bytes (8 * e.1 + i) ^^^ BitVec.ofNat 8 (e.2.toNat >>> (8 * i))))
      latent := mdel s.mem.latent e.1 } }) s

/-- Flips of words that are written over are gone. -/
def State.dropFlips (s : State) (pa n : Nat) : State :=
  { s with mem := { s.mem with latent := s.mem.latent.filter (fun e => decide (8 * e.1 < pa) || decide (pa + n ≤ 8 * e.1)) } }

/-- The hallmark after the word (i, j) of tile t changes from o to n (R112). -/
def hallmarkDelta (h : List Nat) (i j o n : Nat) : List Nat :=
  let d := (n + 65536 - o) % 65536
  (h.set i ((h.getD i 0 + d) % 65536)).set (16 + j) ((h.getD (16 + j) 0 + d) % 65536)

/-- A byte of storage is written; a stored hallmark that disagrees with its data takes the exact delta (R112). -/
def State.putByte (s : State) (a : Nat) (b : Byte) : State :=
  let t := a / 1024
  let m := { s.mem with bytes := memPut s.mem.bytes a b }
  match mfind s.mem.hallmarks t with
  | none => { s with mem := m }
  | some h =>
    let i := a % 1024 / 64
    let j := a % 64 / 2
    { s with mem := { m with
        hallmarks := mset m.hallmarks t (hallmarkDelta h i j (s.mem.tileWord t i j) (m.tileWord t i j)) } }

/-- Bytes of storage are written from a upward. -/
def State.putBytes (s : State) (a : Nat) : List Byte → State
  | [] => s
  | b :: bs => (s.putByte a b).putBytes (a + 1) bs

/-- The byte of a hallmark shadow, when the address lies in one (R109, R370). -/
def State.shadowByte (s : State) (a : Nat) : Option Byte :=
  let look (b : Nat) : Option Byte :=
    let base := field (s.creg b).toNat 51 30 * 2 ^ 30
    let size := (s.creg (b + 8)).toNat % 65536 * 2 ^ 30
    let sh := field (s.creg (b + 16)).toNat 51 5 * 32
    if sh ≤ a ∧ a < sh + 96 * (size / 1024) then
      let t := base / 1024 + (a - sh) / 96
      let k := (a - sh) % 96
      some (BitVec.ofNat 8 ((s.mem.hallmark t).getD (k / 2) 0 >>> (8 * (k % 2))))
    else none
  match look 0x1000 with
  | some x => some x
  | none => look 0x1018

/-- The byte that storage holds at a local physical address. -/
def State.byteAt (s : State) (a : Nat) : Byte :=
  match s.shadowByte a with
  | some b => b
  | none => memGet s.mem.bytes a

/-- Bytes of storage from a upward. -/
def State.bytesAt (s : State) (a n : Nat) : List Byte := (List.range n).map (fun i => s.byteAt (a + i))
/-- The word of storage with number w, and its tag. -/
def State.homeWord (s : State) (w : Nat) : Tagged :=
  { val := BitVec.ofNat 64 (valueLE (s.bytesAt (8 * w) 8)), tag := s.mem.tags.contains w }

-- Errors (R361, R362)

/-- A logical HBM channel's physical channel (R376, R377): 64 and 4 spares in each stack. -/
def State.hbmPhysical (s : State) (ch : Nat) : Nat := (mfind s.mem.chanMap ch).getD (68 * (ch / 64) + ch % 64)
/-- A logical LPDDR-6 channel's physical channel (R376): its entries of the table stand behind those of HBM. -/
def State.lpPhysical (s : State) (ch : Nat) : Nat := (mfind s.mem.chanMap (4096 + ch)).getD ch

/-- The error in a word cannot be corrected: two or more flipped bits under SECDED; under the line code of
HBM and LPDDR-6, two or more 4-bit symbols of the 64-byte line. -/
def State.uncorrectable (s : State) (w : Nat) : Bool :=
  let err (x : Nat) : Nat := (mget 0 s.mem.latent x).toNat
  match s.region (8 * w) with
  | .hbm | .lpddr =>
    let line := (List.range 8).map (fun i => 8 * (w / 8) + i)
    decide (2 ≤ ((line.map (fun x => ((List.range 16).filter (fun k => err x >>> (4 * k) % 16 != 0)).length)).sum))
  | _ => decide (2 ≤ popCount 64 (err w))

/-- An error that an array finds and cannot correct, and that no agent stops for (R414). -/
def State.arrayLost (s : State) (array unit : Nat) (addr : Word) : State :=
  s.postFault { cause := 0x140 + array, sev := 3, src := 6, loc := unit, tval := addr }

/-- A word is marked poisoned, and stands as its flipped bits leave it (R362). -/
def State.poisonWord (s : State) (w : Nat) (err : Word) : State :=
  { s with mem := { s.mem with
      bytes := memPutAll s.mem.bytes (8 * w) (bytesLE 8 ((s.homeWord w).val ^^^ err).toNat)
      poison := insertNum s.mem.poison w } }

/-- The home slice of a word (R372); a remote device's or the bridge's slices count as one each. -/
def State.homeSlice (s : State) (w : Nat) : Nat :=
  let pa := 8 * w
  match s.region pa with
  | .hbm => 8 * (s.hbmPhysical (channelOf ((s.creg 0x1030).toNat % 2048) pa) / 68) + pa / 128 % 8
  | .lpddr => (hash64 (BitVec.ofNat 64 (pa / 128)) 1).toNat % 128
  | .remote d _ => 128 + d
  | _ => 192

/-- A word of an array has flipped bits that nothing has read yet (R361). -/
def MemSys.errOf (m : MemSys) (array unit word : Nat) : Option ArrayErr :=
  m.errs.find? (fun e => e.array == array && e.unit == unit && e.word == word)
/-- Flipped bits of a word of an array are gone: it was written over, or they were found. -/
def MemSys.dropErr (m : MemSys) (array unit word : Nat) : MemSys :=
  { m with errs := m.errs.filter (fun e => !(e.array == array && e.unit == unit && e.word == word)) }

/-- A word of an array under SECDED is read (R361, R362): one flipped bit is corrected and counted; with more, the record
names the array, and the flipped bits are answered. -/
def State.readArray (s : State) (array unit word : Nat) (addr : Word) : State × Option Word :=
  match s.mem.errOf array unit word with
  | none => (s, none)
  | some e =>
    let s := { s with mem := s.mem.dropErr array unit word }
    if popCount 64 e.flips.toNat < 2 then (s.corrected array unit addr, none) else (s.arrayLost array unit addr, some e.flips)

/-- The home slice's copy of a word is read: an uncorrectable error poisons the word (R361, R362). -/
def State.detectHome (s : State) (w : Nat) : State :=
  match s.mem.errs with
  | [] => s
  | _ =>
    let r := s.readArray 0x0D (s.homeSlice w) w (BitVec.ofNat 64 (8 * w))
    match r.2 with
    | some err => r.1.poisonWord w err
    | none => r.1

/-- A word of an array is read (R362): a correctable error is corrected and counted, another poisons the word and posts its
record. -/
def State.detectStored (s : State) (w : Nat) : State :=
  let addr := BitVec.ofNat 64 (8 * w)
  match mfind s.mem.latent w with
  | none => s
  | some err =>
    let arr := s.arrayOf (8 * w)
    let bad := s.uncorrectable w
    let s := { s with mem := { s.mem with latent := mdel s.mem.latent w } }
    if bad then (s.poisonWord w err).arrayLost arr.1 arr.2 addr
    else s.corrected arr.1 arr.2 addr

/-- A word that a party reads at its home slice or port is checked (R362). -/
def State.detect (s : State) (w : Nat) : State := (s.detectHome w).detectStored w

/-- Every word of a list is checked as it is read. -/
def State.detectAll (s : State) (ws : List Nat) : State := ws.foldl State.detect s

/-- The word is poisoned, or becomes so when it is read (R362). -/
def State.poisoned (s : State) (w : Nat) : Bool :=
  s.mem.poison.contains w || ((mfind s.mem.latent w).isSome && s.uncorrectable w) ||
  (!s.mem.errs.isEmpty && (match s.mem.errOf 0x0D (s.homeSlice w) w with
    | some e => decide (2 ≤ popCount 64 e.flips.toNat)
    | none => false))

/-- The written segments of the MT scratches, after a write at an address (R425). -/
def noteSegment (segs : List Nat) (pa : Nat) : List Nat :=
  if 0x80100000000 ≤ pa ∧ pa < 0x80100000000 + 2097152 * 768 then insertNum segs ((pa - 0x80100000000) / 65536) else segs

/-- A write of a word at its slice or port (R155, R361, R362): bytes, tag, poison and hallmark. A write of
part of a word reads it first. -/
def State.homeWrite (s : State) (x : WordWrite) : State :=
  let full := x.mask == 0xFF
  let s := if full then { s with mem := { s.mem with
      latent := mdel s.mem.latent x.word
      errs := s.mem.errs.filter (fun e => !(e.array == 0x0D && e.word == x.word)) } } else s.detect x.word
  let v := mergeBytes (s.homeWord x.word).val x.val x.mask
  let s := s.putBytes (8 * x.word) (bytesLE 8 v.toNat)
  let tagged := x.tag && s.hasTags (8 * x.word)
  { s with mem := { s.mem with
      mtSegs := noteSegment s.mem.mtSegs (8 * x.word)
      tags := if tagged then insertNum s.mem.tags x.word else eraseNum s.mem.tags x.word
      poison := if full then eraseNum s.mem.poison x.word else s.mem.poison } }

/-- The words of a span of physical bytes. -/
def wordsOf (pa n : Nat) : List Nat := (List.range ((pa + n - 1) / 8 - pa / 8 + 1)).map (fun i => pa / 8 + i)

/-- The word writes of a span of bytes from pa upward; every touched word takes the tag. -/
def wordWrites (pa : Nat) (bs : List Byte) (tag : Bool) : List WordWrite :=
  (wordsOf pa bs.length).map (fun w =>
    let lane (i : Nat) : Option Byte := if 8 * w + i < pa then none else bs[8 * w + i - pa]?
    { word := w
      mask := BitVec.ofNat 8 (((List.range 8).map (fun i => if (lane i).isSome then 2 ^ i else 0)).sum)
      val := BitVec.ofNat 64 (valueLE ((List.range 8).map (fun i => (lane i).getD 0)))
      tag := tag })

/-- Words written at their slice or port. -/
def State.homeWrites (s : State) (xs : List WordWrite) : State := xs.foldl State.homeWrite s

-- Translation (R364..R367)

/-- The outcome of a check: a value, a fault with its cause, s.tval and s.tval2, or a wait. -/
inductive Chk (α : Type) where
  | ok (s : State) (x : α)
  | fault (s : State) (cause : Nat) (tval tval2 : Word)
  | wait
  deriving DecidableEq, Repr

/-- What an access needs of a page (R366). -/
inductive Need where
  | read | write | both | fetch
  deriving DecidableEq, Repr

/-- The access may write. -/
def Need.writes : Need → Bool
  | .write => true
  | .both => true
  | _ => false

/-- A translated page: physical address of the byte, and the leaf. -/
structure Leaf where
  pa : Nat
  entry : Word
  deriving DecidableEq, Repr

/-- The address is canonical: bits [63:57] equal bit 56 (R147). -/
def canonical (va : Word) : Bool := va.extractLsb' 56 8 == 0 || va.extractLsb' 56 8 == 0xFF

/-- Bits of the page that a leaf at a level maps (R364). -/
def pageBits (level : Nat) : Nat := if level = 1 then 30 else if level = 2 then 21 else 16

/-- The table index of an address at a level (R364). -/
def tableIndex (va level : Nat) : Nat :=
  match level with
  | 0 => field va 56 39
  | 1 => field va 38 30
  | 2 => field va 29 21
  | _ => field va 20 16

/-- An entry is well formed at its level (R365, R366). -/
def State.entryOk (s : State) (e : Word) (level : Nat) : Bool :=
  let leaf := e.getLsbD 1
  let x := e.toNat
  e.getLsbD 0 && field x 63 52 == 0 &&
  (if leaf then level != 0 && !e.getLsbD 7 && field x 15 13 == 0 &&
      x % 2 ^ pageBits level / 65536 == 0 &&
      (!e.getLsbD 11 || (s.shadowOf (s.localPa (field x 51 16 * 65536))).isSome)
   else level != 3 && field x 7 2 == 0 && (level == 2 || field x 11 8 == 0))

/-- The word of a table that a walk of an address reads at a level. -/
def State.entryWord (s : State) (va table level : Nat) : Nat := s.localPa (table + 8 * tableIndex va level) / 8

/-- The walk of an address from a table at a level; none when a step meets an entry that is not valid. DESIGN CHOICE (log
entry 65): an entry in a poisoned word is not valid. -/
def State.walkFrom (s : State) (va : Nat) : Nat → Nat → Nat → Option (Word × Nat)
  | 0, _, _ => none
  | fuel + 1, table, level =>
    let w := s.entryWord va table level
    let e := (s.homeWord w).val
    if s.entryOk e level && !s.poisoned w then
      if e.getLsbD 1 then some (e, level)
      else s.walkFrom va fuel (field e.toNat 51 8 * 256) (level + 1)
    else none

/-- The words that the walk of an address reads. -/
def State.walkReads (s : State) (va : Nat) : Nat → Nat → Nat → List Nat
  | 0, _, _ => []
  | fuel + 1, table, level =>
    let w := s.entryWord va table level
    let e := (s.homeWord w).val
    w :: (if s.entryOk e level && !s.poisoned w && !e.getLsbD 1 then s.walkReads va fuel (field e.toNat 51 8 * 256) (level + 1) else [])

/-- A cached translation matches (R366, R367). -/
def TlbEntry.hit (t : TlbEntry) (asid va : Nat) : Bool :=
  (t.asid == asid || t.entry.getLsbD 6) && va / 2 ^ t.bits == t.page

/-- The entries that micro-TLBs and slices hold for an address, each once (R367). -/
def MemSys.cachedLeaves (m : MemSys) (asid va : Nat) : List TlbEntry :=
  ((m.tlb ++ m.micro.flatMap (fun e => e.2)).filter (fun t => t.hit asid va)).dedup

/-- The leaf that translates an address: a cached entry where one matches, else a walk. While an entry is
cached, the device chooses between it and the tables (R368). -/
def State.leafOf (s : State) (ptb asid va : Nat) : Option (Word × Nat) :=
  let walk := s.walkFrom va 4 ptb 0
  let held := s.mem.cachedLeaves asid va
  match held[Config.choose s.tick va % held.length]? with
  | some t => if Config.chooseBit s.tick va then some (t.entry, if t.bits = 30 then 1 else if t.bits = 21 then 2 else 3)
      else walk
  | none => walk

/-- The steps 1 and 2 of R366: the page that an address translates to, whether it migrates or not. -/
def State.leafFor (s : State) (ptb asid : Nat) (super : Bool) (need : Need) (va : Word) : Except MemKind Leaf :=
  if !canonical va then .error .notMapped
  else
    let v := va.toNat % 2 ^ 57
    match s.leafOf ptb asid v with
    | none => .error .notMapped
    | some (e, level) =>
      let rd := e.getLsbD 2
      let wr := e.getLsbD 3
      let ok := match need with
        | .read => rd
        | .write => wr
        | .both => rd && wr
        | .fetch => e.getLsbD 4
      if (!super && !e.getLsbD 5) || !ok then .error .protection
      else .ok { pa := s.localPa (field e.toNat 51 16 * 65536 + v % 2 ^ pageBits level), entry := e }

/-- The page migrates between tiers (R366, R375). -/
def Leaf.mig (l : Leaf) : Bool := l.entry.getLsbD 12

/-- Translation with its checks in the order of R366. -/
def State.translate (s : State) (ptb asid : Nat) (super : Bool) (need : Need) (va : Word) : Except MemKind Leaf :=
  match s.leafFor ptb asid super need va with
  | .error k => .error k
  | .ok l => if l.mig then .error .tier else .ok l

/-- The TLB slice that owns an address (R367). -/
def tlbSlice (va asid : Nat) : Nat :=
  (hash64 (BitVec.ofNat 64 (va / 2 ^ 21)) (BitVec.ofNat 64 asid)).toNat % 2 ^ 32 * 384 / 2 ^ 32

/-- The entry of a TLB slice that serves an address: the slice that owns the address keeps its own (R367). -/
def MemSys.sliceEntry (m : MemSys) (asid va : Nat) : Option TlbEntry :=
  m.tlb.find? (fun t => t.slice == tlbSlice va asid && t.hit asid va)

/-- A translation that no entry of its slice serves starts a walk there, of at most 8 (R367). -/
def State.startTlbWalk (s : State) (ptb asid va : Nat) : State :=
  let slice := tlbSlice va asid
  if (s.mem.sliceEntry asid va).isSome ||
      s.mem.tlbWalks.any (fun x => x.slice == slice && x.va == va) ||
      decide (8 ≤ (s.mem.tlbWalks.filter (fun x => x.slice == slice)).length) then s
  else { s with mem := { s.mem with
    tlbWalks := s.mem.tlbWalks ++ [{ slice := slice, asid := asid, va := va, level := 0, table := ptb }] } }

-- Who accesses

/-- The address space, level and place of a party that accesses memory. -/
structure Party where
  ptb : Nat
  asid : Nat
  super : Bool
  core : Nat
  ctx : Nat
  /-- engines, walkers and the fabric reach objects as raw memory -/
  isCtx : Bool := true
  /-- an engine's command: it translates through the issuing core's micro-TLB (R378) -/
  engine : Bool := false
  /-- a copy engine's: it reads through the issuing core's port (R349) -/
  viaPort : Bool := false
  deriving DecidableEq, Repr

/-- The entry maps a page of a range that an engine command owns (R244). -/
def TlbEntry.inOwned (t : TlbEntry) (o : Nat × Nat × Nat × Nat) : Bool :=
  (t.asid == o.1 || t.entry.getLsbD 6) && decide (o.2.1 < (t.page + 1) * 2 ^ t.bits) && decide (t.page * 2 ^ t.bits < o.2.1 + o.2.2.1)

/-- The micro-TLB of a core takes an entry; it holds 64, and a full one drops one of its own (R367). While a command owns a
range of the entry's page, no micro-TLB takes it (R244). -/
def State.fillMicro (s : State) (core : Nat) (t : TlbEntry) : State :=
  if s.mem.owned.any t.inOwned then s else
  let held := mget [] s.mem.micro core
  let kept := if held.length < 64 then held else held.eraseIdx (Config.choose s.tick t.page % 64)
  { s with mem := { s.mem with micro := mset s.mem.micro core (kept ++ [t]) } }

/-- The place of a TLB slice's entry among all entries is read (R361): an uncorrectable error drops the entry. DESIGN CHOICE
(log entry 65): no other use of it is stated. -/
def State.readTlb (s : State) (t : TlbEntry) : State :=
  match s.mem.errs with
  | [] => s
  | _ =>
    let r := s.readArray 0x14 t.slice (t.page * 2 ^ t.bits / 65536) 0
    match r.2 with
    | some _ => { r.1 with mem := { r.1.mem with tlb := r.1.mem.tlb.erase t } }
    | none => r.1

/-- What an access leaves in the TLBs (R367): the micro-TLB of a context's core, or of the core that issued an engine's
command (R378), takes the entry of the slice; an access that no entry serves starts a walk. The fabric goes to the slice. What
a walk reads is checked as it is read (R362). -/
def State.touchTlb (s : State) (p : Party) (va : Nat) : State :=
  let micro := p.isCtx || p.engine
  let own := if micro then (mget [] s.mem.micro p.core).find? (fun t => t.hit p.asid va) else none
  match own, s.mem.sliceEntry p.asid va with
  | some _, _ => s
  | none, some t =>
    let s := s.readTlb t
    if micro && s.mem.tlb.contains t then s.fillMicro p.core t else s
  | none, none => (s.detectAll (s.walkReads va 4 p.ptb 0)).startTlbWalk p.ptb p.asid va

/-- The acting context as a party. -/
def State.party (s : State) : Party :=
  let c := s.me
  { ptb := (c.sr 0x060).toNat, asid := (c.sr 0x061).toNat, super := c.super, core := s.act.core, ctx := s.act.ctx }

/-- The owner field of a context (R152). -/
def ownerOf (core ctx : Nat) : Nat := core * 32 + ctx

/-- The outcome of the object check of R150 for a header word. -/
inductive Admit where
  | ok | deny | badTag | wait
  deriving DecidableEq, Repr

/-- Whether an object's header admits an access of a context (R150). mark: the header's line is held by a
walk; isLoad: the access is a load. -/
def admits (h : Word) (core ctx : Nat) (isLoad mark : Bool) : Admit :=
  let x := h.toNat
  let kind := field x 29 28
  let st := field x 32 30
  let own := field x 48 33
  if kind = 3 ∨ 5 ≤ st then .badTag
  else if st = 4 then
    if !mark then .badTag
    else if isLoad && own == ownerOf core ctx then .ok else .wait
  else if st = 0 then (if own = ownerOf core ctx then .ok else .deny)
  else if st = 1 then (if herdOfCore (own / 32) = herdOfCore core then .ok else .deny)
  else .ok

/-- The leaf of a page that an access reaches: that of a control register shows a side-effect page whatever its mapping (R157,
R359). -/
def State.seLeaf (s : State) (l : Leaf) : Leaf :=
  match s.region l.pa with
  | .control _ => { l with entry := l.entry ||| 0x400 }
  | _ => l

/-- The page is a side-effect page (R157). -/
def Access.sideEffect (a : Access) : Bool := a.entry.getLsbD 10

end Sys2Proof.Machine
end

