-- ==== Sys2Proof/Machine/Port.lean ====
section
/-!
DEFINITION. What a core's port shows of registers: the counters of outstanding writes (R159), the state registers (R36,
R211), and the registers of the on-chip window and the control region (R359, R360).
-/

namespace Sys2Proof.Machine

/-- The step counts a request as one turn at the front of the agenda, behind others put there in this step. -/
def frontInsert (ag : List (Nat × Turn)) (t : Turn) : List (Nat × Turn) :=
  match ag with
  | (0, .event a b c l i) :: rest => (0, .event a b c l i) :: frontInsert rest t
  | l => (0, t) :: l

/-- A device event follows at once, with the acting context's place (its own step of the part). -/
def State.follow (s : State) (core ctx site : Nat) (args : List Nat) (i : Instr) : State :=
  { s with agenda := frontInsert s.agenda (.event core ctx site args i) }

-- Counters of outstanding writes (R159, R171)

/-- The walks of a thread that are not complete, at a scope or wider. -/
def State.walksOf (s : State) (handle scope : Nat) : Nat :=
  (s.herds.map (fun h => (h.2.walks.filter (fun w => w.handle == handle && decide (scope ≤ w.scope))).length)).sum

/-- A write is not yet performed at HERD scope. -/
def Flight.herdPending (f : Flight) : Bool := f.atPort || f.atHerd || !f.toL1.isEmpty
/-- A write is not yet performed at DEVICE scope; a write to a HERD object falls with its HERD counter. -/
def Flight.devPending (f : Flight) : Bool :=
  f.herdPending || (!f.herdObj && (f.atHome || !f.toSlices.isEmpty))
/-- A write is not yet performed at a scope. -/
def Flight.pendingAt (f : Flight) (scope : Nat) : Bool :=
  if scope = 0 then false else if scope = 1 then f.herdPending else f.devPending

/-- The counter of a context at a scope 1..3 (s.owch, s.owcd, s.owcs): a write counts once it has left the port. -/
def State.outstanding (s : State) (core ctx scope : Nat) : Nat :=
  ((s.core core).wq.filter (fun f => f.ctx == ctx && !f.atPort && f.pendingAt scope)).length
    + s.walksOf (s.ctxOf core ctx).handle scope

-- State registers (R36, R211)

/-- The numbers that R36 assigns. -/
def srAssigned (n : Nat) : Bool :=
  decide (n ≤ 0x010) || (decide (0x020 ≤ n) && decide (n ≤ 0x025)) || (decide (0x040 ≤ n) && decide (n ≤ 0x046)) ||
  (decide (0x048 ≤ n) && decide (n ≤ 0x04B)) || (decide (0x060 ≤ n) && decide (n ≤ 0x067)) ||
  (decide (0x080 ≤ n) && decide (n ≤ 0x085)) || n == 0x0A0

/-- Readable at U (R36). -/
def srReadU (n : Nat) : Bool := srAssigned n && !(decide (0x040 ≤ n) && decide (n ≤ 0x060))
/-- Writable at U (R36). -/
def srWriteU (n : Nat) : Bool := [0x020, 0x022, 0x023, 0x062, 0x080, 0x081, 0x082, 0x083, 0x084, 0x085].contains n
/-- Writable at S (R36). -/
def srWriteS (n : Nat) : Bool :=
  srWriteU n || [0x024, 0x025, 0x0A0].contains n || (decide (0x040 ≤ n) && decide (n ≤ 0x04B) && srAssigned n) ||
  [0x060, 0x061, 0x063, 0x064].contains n

/-- The oldest cpy, gath or scat of a thread that has not completed (R247): in the engine, in the queue, or saved. -/
def State.headCommand (s : State) (core handle : Nat) : Option Command :=
  let c := s.core core
  let mine (x : Command) : Bool := x.handle == handle && decide (x.major < 0x23)
  let saved := match mfind s.launch.threads handle with
    | some t => t.cmds
    | none => []
  (c.engine.toList ++ c.copq ++ saved).find? mine

/-- The first box of a command that is not complete. -/
def Command.base (x : Command) : Nat := ((List.range (x.boxes + 1)).find? (fun k => !x.landed.contains k)).getD 0

/-- s.cebox of a command (R247): base and the map of the 32 boxes from it. -/
def Command.cebox (x : Command) : Word :=
  let base := x.base
  BitVec.ofNat 64 (base % 2 ^ 28 + 2 ^ 28 *
    ((List.range 32).map (fun i => if x.landed.contains (base + i) then 2 ^ i else 0)).sum)

/-- The committed value of a state register, of the registers that are held per core or are counters their
current value (R36, R211). -/
def State.srRead (s : State) (core ctx n : Nat) : Word :=
  let c := s.ctxOf core ctx
  match n with
  | 0x002 => BitVec.ofNat 64 core
  | 0x003 => BitVec.ofNat 64 ctx
  | 0x004 => BitVec.ofNat 64 (herdOfCore core)
  | 0x020 => s.status core ctx
  | 0x021 => BitVec.ofNat 64 s.time
  | 0x022 => match c.timerAt with
    | some t => BitVec.ofNat 64 (t - s.time)
    | none => 0
  | 0x023 => c.arch.fcsr
  | 0x024 => BitVec.ofNat 64 (s.core core).escres
  | 0x025 => BitVec.ofNat 64 (s.core core).vshare
  | 0x065 => BitVec.ofNat 64 (s.outstanding core ctx 1)
  | 0x066 => BitVec.ofNat 64 (s.outstanding core ctx 2)
  | 0x067 => BitVec.ofNat 64 (s.outstanding core ctx 3)
  | 0x0A0 => match s.headCommand core c.handle with
    | some x => x.cebox
    | none => 0
  | _ => c.sr n

/-- A value that a swr of a register refuses with SREG_VALUE (R8, R39, R138, R369, R401, R407). -/
def State.srRefuses (s : State) (core n : Nat) (v : Word) : Bool :=
  let x := v.toNat
  match n with
  | 0x023 => x % 4 == 3
  | 0x024 => decide ((s.core core).nctx / 2 < x % 64)
  | 0x025 => x % 256 == 0 || x / 256 != 0
  | 0x040 => x % 8 != 0
  | 0x060 => x % 2 ^ 21 != 0 || x / 2 ^ 52 != 0
  | 0x061 => x / 65536 != 0
  | 0x062 => decide (20 < x % 32) || field x 11 5 != 0
  | 0x063 => decide (192 ≤ x % 256) || x / 512 != 0
  | 0x064 => x % 64 != 0
  | 0x085 => decide (31 < x)
  | _ => false

/-- The bits of a state register that a write sets (R8): reserved fields stay zero. s.mxcap keeps all 64 bits, those that
R264 reserves in a capability too: that is the model's choice (log entry 43). -/
def srMask (n : Nat) : Word :=
  match n with
  | 0x041 => 0x1FF
  | 0x043 => 0x7F
  | 0x046 => 0x3F
  | 0x080 => 0x1F
  | 0x081 => 0x1F
  | 0x085 => 0x1F
  | _ => 0xFFFFFFFFFFFFFFFF

/-- A timer write: the value counts from the next cycle, and a pending event is cancelled (R38). -/
def Context.setTimer (c : Context) (now : Nat) (v : Word) : Context :=
  { c with timerAt := if v = 0 then none else some (now + v.toNat), timerEvent := false }

/-- The boxes that a value of s.cebox marks complete (R247). -/
def ceboxLanded (v : Word) : List Nat :=
  let base := v.toNat % 2 ^ 28
  List.range base ++ ((List.range 32).filter (fun i => v.getLsbD (28 + i))).map (fun i => base + i)

/-- The suspended command with its completed boxes set: they are not written again, and a scat.add goes on behind them (R247,
R248). DESIGN CHOICE (log entry 66): one that a fault stopped within a box goes on where it stopped, so that no element is added
twice. -/
def Command.withBoxes (x : Command) (v : Word) : Command :=
  let done := (ceboxLanded v).filter (fun k => decide (k < x.boxes))
  let base := v.toNat % 2 ^ 28
  { x with landed := done, issued := done
           prog := if x.major = 0x22 ∧ x.fn.testBit 0 ∧ x.prog / 4096 ≠ base then 4096 * base else x.prog }

/-- A cpy, gath or scat of a thread is in the copy engine or the queue of its core: its head command is not suspended (R247,
R248). -/
def State.headRuns (s : State) (core handle : Nat) : Bool :=
  let c := s.core core
  (c.engine.toList ++ c.copq).any (fun x => x.handle == handle && decide (x.major < 0x23))

/-- The first cpy, gath or scat of a list of commands is changed. -/
def onHeadCommand (f : Command → Command) : List Command → List Command
  | [] => []
  | x :: xs => if x.major < 0x23 then f x :: xs else x :: onHeadCommand f xs

/-- A core reserves its n highest contexts for escape threads (R39): their slots carry no owner, and no assignment but that of an
ordinary thread that still stands there (R391). -/
def Core.reserve (c : Core) (n : Nat) : Core :=
  let d := { c with escres := n }
  { d with slots := c.slots.filterMap (fun x =>
      if !d.reservedCtx x.1 then some x
      else if (mget {} c.ctxs x.1).live && !((mget {} c.ctxs x.1).sr 0x020).getLsbD 5 then some (x.1, { x.2 with owner := none })
      else none) }

/-- The effect of a swr at a level (R36, R37, R212, R360); refused values have been turned away before. -/
def State.srWrite (s : State) (core ctx n : Nat) (v : Word) (super : Bool) : State :=
  let onC (f : Context → Context) : State := s.onCtx core ctx f
  match n with
  | 0x020 => onC (fun c =>
      if super then c.setStatus (v.toNat % 4) (v.getLsbD 2) (v.getLsbD 3)
      else c.setStatus c.priv c.ie (v.getLsbD 3))
  | 0x022 => onC (fun c => c.setTimer s.time v)
  | 0x023 => onC (fun c =>
      let x := v &&& 0x7FFFF
      { c with arch := { c.arch with fcsr := x }, work := { c.work with fcsr := x } })
  | 0x024 => s.onCore core (fun c => c.reserve (v.toNat % 64))
  | 0x025 => s.onCore core (fun c => { c with vshare := v.toNat % 256 })
  | 0x0A0 =>
    match (if s.headRuns core (s.ctxOf core ctx).handle then none else mfind s.launch.threads (s.ctxOf core ctx).handle) with
    | some t =>
      let cmds := onHeadCommand (fun x => x.withBoxes v) t.cmds
      { s with launch := { s.launch with threads := mset s.launch.threads (s.ctxOf core ctx).handle { t with cmds := cmds } } }
    | none => s
  | _ => onC (fun c => c.setSr n (v &&& srMask n))

-- The context-register region (R145, R360)

/-- A read of a context's register region: the committed values; none for a hole. -/
def State.windowRead (s : State) (core ctx off : Nat) : Option Word :=
  let c := s.ctxOf core ctx
  let m32 := (s.core core).pmode
  if off < 0x200 then (if m32 && decide (0x100 ≤ off) then none else some (c.arch.getG (off / 8)).val)
  else if off < 0x600 then
    if m32 && decide (0x400 ≤ off) then none
    else some (BitVec.ofNat 64 (elemOf 64 ((off - 0x200) % 64 / 8) (c.arch.getV ((off - 0x200) / 64)).toNat))
  else if off = 0x600 then some ((c.arch.p ||| 1).setWidth 64)
  else if off = 0x608 then some (c.arch.getK 3 ++ c.arch.getK 2 ++ c.arch.getK 1 ++ (0xFFFF : BitVec 16))
  else if off = 0x700 then
    some (BitVec.ofNat 64 (((List.range 64).map (fun k => if (c.arch.getG k).tag then 2 ^ k else 0)).sum))
  else if 0x800 ≤ off ∧ off < 0x800 + 8 * 0x0A1 ∧ srAssigned ((off - 0x800) / 8) then
    some (s.srRead core ctx ((off - 0x800) / 8))
  else none

/-- A general register of a context is read from its core's register file (R361, R362): an uncorrectable word keeps its flipped
bits. DESIGN CHOICE (log entry 65): the manual states no other use of it. -/
def State.readReg (s : State) (core ctx r : Nat) : State :=
  match s.mem.errs with
  | [] => s
  | _ =>
    let n := (if (s.core core).pmode then 32 else 64) * ctx + r
    let x := s.readArray 0x08 core n (BitVec.ofNat 64 (0x80040000000 + 131072 * core + 4096 * ctx + 8 * r))
    match x.2 with
    | none => x.1
    | some err =>
      let flip (g : Regs) : Regs := g.setG r { g.getG r with val := (g.getG r).val ^^^ err }
      x.1.onCtx core ctx (fun c => { c with arch := flip c.arch, work := flip c.work, snap := c.snap.map flip })

/-- Every general register of a context is read, for a save (R362). -/
def State.readAllRegs (s : State) (core ctx : Nat) : State :=
  match s.mem.errs with
  | [] => s
  | _ => (List.range 64).foldl (fun s r => s.readReg core ctx r) s

/-- Every word of a span of n bytes is checked as it is read (R362). -/
def State.detectSpan (s : State) (pa n : Nat) : State :=
  s.detectAll ((s.mem.latent.map (·.1) ++ s.mem.errs.map (·.word)).filter (fun w => decide (pa ≤ 8 * w) && decide (8 * w < pa + n)))

/-- The offset is a hole of the region (R360). -/
def State.windowHole (s : State) (core ctx off : Nat) : Bool := (s.windowRead core ctx off).isNone

/-- A state register is written through the window as by a swr at S; a value that swr refuses changes nothing. -/
def State.windowSr (s : State) (core ctx n : Nat) (v : Word) : State :=
  if !srWriteS n || s.srRefuses core n v || (n == 0x020 && decide (2 ≤ v.toNat % 4)) then s
  else s.srWrite core ctx n v true

/-- The held window writes of a context whose block has ended take effect (R145, R360). -/
def State.applyWindow (s : State) (core ctx : Nat) : State :=
  let c := s.ctxOf core ctx
  let s := s.onCtx core ctx (fun c => { c.applyHeld with heldWrites := [] })
  (c.heldWrites.filter (fun w => decide (0x800 ≤ w.1))).foldl (fun s w => s.windowSr core ctx ((w.1 - 0x800) / 8) w.2) s

-- Control registers (R359..R507)

/-- A launch queue's register (R380). -/
def LaunchQueue.read (q : LaunchQueue) (live off byp : Nat) (resv : Bool) : Word :=
  match off with
  | 0 => q.base
  | 8 => BitVec.ofNat 64 (q.prio + 8 * q.weight + 2048 * q.lsize + 65536 * q.minshare + 2 ^ 24 * b2n q.en)
  | 16 => q.tail.setWidth 64
  | 24 => q.head.setWidth 64
  | 32 => q.ptb
  | 40 => q.asid
  | 48 => BitVec.ofNat 64 (byp + 8 * b2n resv + 16 * b2n q.ovf + 65536 * live)
  | _ => 0

/-- The launch bids for fabric area: a graph that is not yet admitted, and has not ended (R396). -/
def Launch.bids (l : Launch) : Bool := (l.record.getD 0 0).toNat % 8 == 3 && !l.placed && !l.done && l.outcome == 0
/-- The launch waits for fabric area or for MXEs (R388, R396). -/
def Launch.waits (x : Launch) : Bool := x.bids || x.mxeBid
/-- The oldest bid of a queue: its head graph (R397). -/
def headBid (q : Nat) (live : Map Launch) : Option Launch :=
  live.foldl (fun b e =>
    if e.2.queue = q && e.2.bids then
      match b with
      | some x => if e.2.order < x.order then some e.2 else b
      | none => some e.2
    else b) none

/-- A barrel slot as it reads (R391). -/
def State.slotRead (s : State) (n k : Nat) : Word :=
  let c := s.core n
  if c.nctx ≤ k ∨ 1536 ≤ n then 0
  else
    let x := mget {} c.slots k
    BitVec.ofNat 64 (x.owner.getD 0 + 64 * b2n x.owner.isSome + 128 * x.asg.getD 0 + 8192 * b2n x.asg.isSome
      + 16384 * b2n (c.reservedCtx k))

/-- A port's state as it reads (R458). -/
def LinkPort.read (p : LinkPort) : Word :=
  BitVec.ofNat 64 (b2n p.up + 2 * p.lanes + 32 * b2n p.spare + 64 * p.pdev + 4096 * p.pgrp + 2 ^ 22 * p.pport
    + 2 ^ 27 * p.retry)

/-- The active clock step (R499): the larger of the request and the thermal demand. -/
def State.clockStep (s : State) : Nat := max ((s.creg 0x7000).toNat % 4) s.dev.demand

/-- Control registers that hold a stored value: c.ident, the hallmark ranges, the channel counts, the fault ring, the save
pools, c.tvdef, c.devid, and the segment masks (R4, R363, R370, R376, R407, R410, R419, R424, R507). -/
def storedCreg (off : Nat) : Bool :=
  ([0, 0x1000, 0x1008, 0x1010, 0x1018, 0x1020, 0x1028, 0x1030, 0x1038, 0x3000, 0x3008, 0x3010, 0x3018, 0x3040, 0x3048, 0x3060,
    0x3070, 0x3078, 0x7900] : List Nat).contains off ||
  (decide (0x100000 ≤ off) && decide (off < 0x100000 + 8 * 1536)) || (decide (0x200000 ≤ off) && decide (off < 0x200000 + 8 * 768))

/-- A read of a control register by a party of the device; an offset that nothing names, and a write-only register whose
read the manual does not describe, give a free value. -/
def State.controlRead (s : State) (off : Nat) : Word :=
  if 0x2000 ≤ off ∧ off < 0x3000 then
    let q := (off - 0x2000) / 64
    let live := (s.launch.live.filter (fun l => l.2.queue == q)).length
    let bid := headBid q s.launch.live
    (mget {} s.launch.queues q).read live (off % 64) (match bid with
      | some l => l.byp
      | none => 0) (match bid with
      | some l => l.resv
      | none => false)
  else if 0x3100 ≤ off ∧ off < 0x3300 then BitVec.ofNat 64 (mget 0 s.fault.counters ((off - 0x3100) / 8))
  else if off = 0x3020 then 0
  else if 0x6000 ≤ off ∧ off < 0x6600 then BitVec.ofNat 64 (mget 0 s.dev.fspare ((off - 0x6000) / 8))
  else if 0x6600 ≤ off ∧ off < 0x6600 + 192 then BitVec.ofNat 64 (mget 0 s.dev.fdom ((off - 0x6600) / 8))
  else if off = 0x7000 then BitVec.ofNat 64 ((s.creg 0x7000).toNat % 4 + 4 * s.clockStep)
  else if off = 0x7008 then BitVec.ofNat 64 (s.dev.tmax % 256 + 256 * (s.dev.sensor % 64))
  else if off = 0x7010 then
    BitVec.ofNat 64 (s.dev.stage + 16 * b2n s.dev.done + 32 * b2n s.dev.fail + 64 * s.dev.bootCause)
  else if 0x7800 ≤ off ∧ off < 0x7800 + 192 then (mget {} s.dev.ports ((off - 0x7800) / 8)).read
  else if off = 0x7E00 ∨ off = 0x7E08 then 0
  else if 0x8000 ≤ off ∧ off < 0xB000 then BitVec.ofNat 64 (mget 0 s.dev.cmap ((off - 0x8000) / 8))
  else if 0xC000 ≤ off ∧ off < 0x10000 then BitVec.ofNat 64 (mget 0 s.dev.shadow ((off - 0xC000) / 8))
  else if 0x400000 ≤ off ∧ off < 0x400000 + 8 * 32 * 1536 then
    s.slotRead ((off - 0x400000) / 256) (off % 256 / 8)
  else if 0x500000 ≤ off ∧ off < 0x500000 + 8 * 32 * 1536 then 0
  else if storedCreg off then s.creg off
  else Config.freeWord s.tick off

/-- The control core that runs the Assayer (R452). -/
def State.assayer (s : State) (core : Nat) : Bool := core == s.dev.assayerCore

/-- A control core's context at M, which reaches the table port (R30, R493). -/
def State.atM (s : State) (core ctx : Nat) : Bool := s.assayer core && decide ((s.ctxOf core ctx).priv = 2)

/-- A read of a control register by a context: c.itctl reads its go and err for one at M only (R493). -/
def State.controlReadBy (s : State) (core ctx off : Nat) : Word :=
  if off = 0x7E08 ∧ s.atM core ctx = true then BitVec.ofNat 64 (b2n s.dev.go + 2 * b2n s.dev.err)
  else if off = 0x7E00 ∧ s.atM core ctx = true then Config.freeWord s.tick off
  else s.controlRead off

end Sys2Proof.Machine
end

