-- ==== Sys2Proof/Machine/Coherence.lean ====
section
/-!
DEFINITION. Copies in caches and their updates (R336, R337, R371..R373), writes on their way (R159), loads, stores and
atomics at their points (R154, R168, R334), releases and acquires (R338..R340).
-/

namespace Sys2Proof.Machine

/-- f applied n times. -/
def iter {α : Type} (f : α → α) : Nat → α → α
  | 0, x => x
  | n + 1, x => iter f n (f x)

-- Words under writes on their way

/-- Writes laid over a word in order. -/
def overlay (x : Tagged) (w : Nat) (ws : List WordWrite) : Tagged :=
  ws.foldl (fun x y => if y.word = w then { val := mergeBytes x.val y.val y.mask, tag := y.tag } else x) x

/-- A whole word as an update carries it. -/
def wholeWord (w : Nat) (x : Tagged) : WordWrite := { word := w, mask := 0xFF, val := x.val, tag := x.tag }

/-- What a copy holds. -/
def Copy.tagged (c : Copy) : Tagged := { val := c.val, tag := c.tag }
/-- A copy with another value; flipped bits that nothing has read are written over. -/
def Copy.renew (c : Copy) (x : Tagged) : Copy := { c with val := x.val, tag := x.tag, err := 0 }

-- Errors in copies (R361, R362)

/-- A word that an L1 holds is read: one flipped bit is corrected and counted; with more, the word is poisoned and written
back with its mark, and the copy is dropped. -/
def State.readL1 (s : State) (core w : Nat) : State :=
  match mfind (s.core core).l1 w with
  | none => s
  | some c =>
    let addr := BitVec.ofNat 64 (8 * w)
    if c.err = 0 then s
    else if popCount 64 c.err.toNat < 2 then
      (s.onCore core (fun y => { y with l1 := mset y.l1 w { c with err := 0 } })).corrected 0x09 core addr
    else
      let h := herdOfCore core
      let s := s.onCore core (fun y => { y with l1 := mdel y.l1 w })
      let s := s.onHerd h (fun y => { y with copies := mdel y.copies w })
      (s.poisonWord w (c.val ^^^ c.err ^^^ (s.homeWord w).val)).arrayLost 0x09 core addr

/-- A word that a herd slice holds is read: as for an L1. -/
def State.readSlice (s : State) (h w : Nat) : State :=
  match mfind (s.herd h).copies w with
  | none => s
  | some c =>
    let addr := BitVec.ofNat 64 (8 * w)
    if c.err = 0 then s
    else if popCount 64 c.err.toNat < 2 then
      (s.onHerd h (fun y => { y with copies := mset y.copies w { c with err := 0 } })).corrected 0x0C h addr
    else
      let s := s.onHerd h (fun y => { y with copies := mdel y.copies w })
      (s.poisonWord w (c.val ^^^ c.err ^^^ (s.homeWord w).val)).arrayLost 0x0C h addr

/-- The copy of a word that a load of a core reads: its L1's, or its herd slice's where the L1 holds none. -/
def State.readCopy (s : State) (core w : Nat) : State :=
  if (mfind (s.core core).l1 w).isSome then s.readL1 core w else s.readSlice (herdOfCore core) w

/-- A word that the instruction cache of a herd holds is read: an uncorrectable one is dropped, and fetched again. DESIGN
CHOICE (log entry 65): the manual states no other use of it. -/
def State.readICache (s : State) (h w : Nat) : State :=
  match s.mem.errs with
  | [] => s
  | _ =>
    let r := s.readArray 0x0B h w (BitVec.ofNat 64 (8 * w))
    match r.2 with
    | some _ => r.1.onHerd h (fun y => { y with icache := mdel y.icache w })
    | none => r.1

/-- The writes of a core that have left its port and that its herd slice has not applied: its copies show them (R334). -/
def Core.ownWrites (c : Core) : List WordWrite := (c.wq.filter (fun f => f.atHerd && !f.atPort)).map (·.write)
/-- The writes of a context that its core's port holds: only its own loads show them (R337). -/
def Core.heldWrites (c : Core) (ctx : Nat) : List WordWrite := (c.wq.filter (fun f => f.atPort && f.ctx == ctx)).map (·.write)
/-- The writes that a herd slice has applied and the home slice has not (R337). -/
def Herd.pending (h : Herd) : List WordWrite := h.pend.map (·.2)

/-- A store of the core's own applied to its copy (R334, R372). -/
def portUpdate (m : Map Copy) (x : WordWrite) : Map Copy :=
  match mfind m x.word with
  | some c => mset m x.word (c.renew (overlay c.tagged x.word [x]))
  | none => m

/-- A word as a herd slice's copy shows it, or as a fill would (R336, R372). -/
def State.slicePeek (s : State) (h w : Nat) : Tagged :=
  match mfind (s.herd h).copies w with
  | some c => c.tagged
  | none => overlay (s.homeWord w) w (s.herd h).pending
/-- A word as an L1's copy shows it, or as a fill would (R334). -/
def State.portPeek (s : State) (core w : Nat) : Tagged :=
  match mfind (s.core core).l1 w with
  | some c => c.tagged
  | none => overlay (s.slicePeek (herdOfCore core) w) w (s.core core).ownWrites

-- Sharers and their queues (R336)

/-- The L1s of a herd that hold a word. -/
def State.l1Holders (s : State) (h word : Nat) : List Nat :=
  (coresOfHerd h).filter (fun c => (mfind (s.core c).l1 word).isSome)
/-- The L1s of a herd that hold a word, one core left out. -/
def State.l1Sharers (s : State) (h word skip : Nat) : List Nat := (s.l1Holders h word).filter (fun c => c != skip)
/-- The herd slices that hold a word, one left out. -/
def State.sliceSharers (s : State) (word skip : Nat) : List Nat :=
  (s.herds.filter (fun h => h.1 != skip && (mfind h.2.copies word).isSome)).map (·.1)

/-- A write has no more recipients. -/
def Flight.complete (f : Flight) : Bool := !f.devPending

/-- Writes with these ids change as sharers accept their updates; those that are performed everywhere leave (R159). -/
def State.accepted (s : State) (ids : List Nat) (f : Flight → Flight) : State :=
  if ids = [] then s
  else { s with cores := s.cores.map (fun c => (c.1, { c.2 with
    wq := (c.2.wq.map (fun g => if ids.contains g.id then f g else g)).filter (fun g => !(ids.contains g.id && g.complete)) })) }

/-- An L1 accepts the first n updates that its herd slice has sent it (R336). -/
def State.acceptL1 (s : State) (core n : Nat) : State :=
  let us := (s.core core).net.take n
  let s := s.onCore core (fun c => { c with net := c.net.drop n, inq := c.inq ++ us.map (·.write) })
  s.accepted (us.map (·.id)) (fun f => { f with toL1 := f.toL1.erase core })
/-- A herd slice accepts the updates that one home slice has sent it, among the first n on their way (R336). -/
def State.acceptSlice (s : State) (h src n : Nat) : State :=
  let us := ((s.herd h).net.take n).filter (fun u => u.src == src)
  let s := s.onHerd h (fun y => { y with net := (y.net.take n).filter (fun u => u.src != src) ++ y.net.drop n
                                         inq := y.inq ++ us.map (·.write) })
  s.accepted (us.map (·.id)) (fun f => { f with toSlices := f.toSlices.erase h })

/-- The place behind an id among updates on their way. -/
def placeOf (us : List Update) (id : Nat) : Nat := us.findIdx (fun u => u.id == id) + 1

/-- An L1 takes its herd slice's next update of a word at once, behind those that the slice sent before. -/
def State.forward (s : State) (x : WordWrite) (core : Nat) : State :=
  let s := s.acceptL1 core (s.core core).net.length
  s.onCore core (fun c => { c with inq := c.inq ++ [x] })
/-- A herd slice passes its copy of a word on to the L1s that hold it (R336, R372). -/
def State.forwardAll (s : State) (h : Nat) (x : WordWrite) : State := (s.l1Holders h x.word).foldl (fun s c => s.forward x c) s

/-- An L1 applies an update: not where the word is not held (R373) or is held dirty (R175); the core's own writes on their
way stand over it (R337). -/
def Core.applyUpdate (c : Core) (x : WordWrite) : Core :=
  match mfind c.l1 x.word with
  | none => c
  | some y =>
    if y.dirty.isSome then c
    else { c with l1 := mset c.l1 x.word (y.renew (overlay { val := x.val, tag := x.tag } x.word c.ownWrites)) }
/-- A herd slice applies an update, under the writes that it has still to send home, and passes the word on (R337, R348,
R372). -/
def State.sliceApplyUpdate (s : State) (h : Nat) (x : WordWrite) : State :=
  match mfind (s.herd h).copies x.word with
  | none => s
  | some y =>
    if y.dirty.isSome then s
    else
      let v := overlay { val := x.val, tag := x.tag } x.word (s.herd h).pending
      if v = y.tagged ∧ (s.l1Holders h x.word).any (fun c => (s.core c).net.any (fun u => u.write.word == x.word)) = false then s
      else (s.onHerd h (fun z => { z with copies := mset z.copies x.word (y.renew v) })).forwardAll h (wholeWord x.word v)

/-- An L1 drains its oldest update (R336). -/
def State.drainL1One (s : State) (core : Nat) : State :=
  s.onCore core (fun c =>
    match c.inq with
    | x :: xs => { c with inq := xs }.applyUpdate x
    | [] => c)
/-- A herd slice drains its oldest update (R336, R372). -/
def State.drainSliceOne (s : State) (h : Nat) : State :=
  match (s.herd h).inq with
  | x :: xs => (s.onHerd h (fun y => { y with inq := xs })).sliceApplyUpdate h x
  | [] => s

/-- An L1 drains its updates of one word. -/
def State.drainWordL1 (s : State) (core w : Nat) : State :=
  s.onCore core (fun c => (c.inq.filter (fun x => x.word == w)).foldl Core.applyUpdate { c with inq := c.inq.filter (fun x => x.word != w) })
/-- A herd slice drains its updates of one word. -/
def State.drainWordSlice (s : State) (h w : Nat) : State :=
  let xs := (s.herd h).inq.filter (fun x => x.word == w)
  xs.foldl (fun s x => s.sliceApplyUpdate h x) (s.onHerd h (fun y => { y with inq := y.inq.filter (fun x => x.word != w) }))

/-- The updates of a word that stand before a newer copy in an L1's queue: they are taken and have no effect (R373). -/
def State.passL1 (s : State) (core w : Nat) : State :=
  let us := (s.core core).net.filter (fun u => u.write.word == w)
  let s := s.onCore core (fun c => { c with net := c.net.filter (fun u => u.write.word != w)
                                            inq := c.inq.filter (fun x => x.word != w) })
  s.accepted (us.map (·.id)) (fun f => { f with toL1 := f.toL1.erase core })
/-- The same at a herd slice. -/
def State.passSlice (s : State) (h w : Nat) : State :=
  let us := (s.herd h).net.filter (fun u => u.write.word == w)
  let s := s.onHerd h (fun y => { y with net := y.net.filter (fun u => u.write.word != w)
                                         inq := y.inq.filter (fun x => x.word != w) })
  s.accepted (us.map (·.id)) (fun f => { f with toSlices := f.toSlices.erase h })

/-- An acquire at a scope by a context of a core (R340): the L1's queue drains, behind that of the herd slice from DEVICE
scope on. -/
def State.acquire (s : State) (core scope : Nat) : State :=
  let h := herdOfCore core
  let s := if 2 ≤ scope then iter (fun s => s.drainSliceOne h) (s.herd h).inq.length s else s
  iter (fun s => s.drainL1One core) (s.core core).inq.length s

-- Fills (R336, R371..R373)

/-- A word read at the home slice or at a port. -/
def State.homeRead (s : State) (w : Nat) : State × Tagged :=
  let s := s.detect w
  (s, s.homeWord w)

/-- A herd slice holds a word: a miss fills from the home slice, behind the updates sent before, under the writes that
the slice has still to send home (R337, R372, R373). -/
def State.fillSlice (s : State) (h w : Nat) : State :=
  if (mfind (s.herd h).copies w).isSome then s
  else
    let r := (s.passSlice h w).homeRead w
    let v := overlay r.2 w (r.1.herd h).pending
    r.1.onHerd h (fun y => { y with copies := mset y.copies w { val := v.val, tag := v.tag } })

/-- A word read from a herd slice. -/
def State.sliceRead (s : State) (h w : Nat) : State × Tagged :=
  let s := (s.readSlice h w).fillSlice h w
  (s, s.slicePeek h w)

/-- An L1 holds a word: a miss fills from the herd slice (R336, R373). obj: the access refers to a HERD object, so that
the slice keeps writes to the word (R159). -/
def State.fillL1 (s : State) (core w : Nat) (obj : Bool) : State :=
  if (mfind (s.core core).l1 w).isSome then s
  else
    let h := herdOfCore core
    let r := s.sliceRead h w
    let s := if obj then r.1.onHerd h (fun y => { y with copies := mset y.copies w { (mget { val := 0 } y.copies w) with obj := true } })
      else r.1
    let s := s.passL1 core w
    s.onCore core (fun c =>
      let v := overlay r.2 w c.ownWrites
      { c with l1 := mset c.l1 w { val := v.val, tag := v.tag } })

/-- The value that a load of a context binds for one word (R154, R334, R336, R337): the L1 copy, or the word at its port,
under the context's own writes that the port holds. A miss fills. -/
def State.loadWord (s : State) (core ctx w : Nat) (obj : Bool) : State × Tagged :=
  let held := (s.core core).heldWrites ctx
  if (s.region (8 * w)).cached then
    let s := s.fillL1 core w obj
    (s, overlay (s.portPeek core w) w held)
  else
    match s.region (8 * w) with
    | .regs n k off =>
      let s := if off < 0x200 then s.readReg n k (off / 8) else s
      (s, { val := (s.windowRead n k off).getD 0, tag := false })
    | .control off => (s, { val := s.controlReadBy core ctx off, tag := false })
    | _ =>
      let r := s.homeRead w
      (r.1, overlay r.2 w held)

/-- The writes of other parties whose value a load of a word may return: they count for a later release (R339). -/
def State.noteSeen (s : State) (core ctx w : Nat) : State :=
  let ids := (s.cores.map (fun c => (c.2.wq.filter (fun f =>
    f.write.word == w && !f.atPort && (c.1 == core || (herdOfCore c.1 == herdOfCore core && !f.atHerd) || !f.atHome))).map (·.id))).flatten
  if ids = [] then s
  else s.onCtx core ctx (fun c => { c with seen := c.seen ++ ids.filter (fun i => !c.seen.contains i) })

/-- The words of a span that a miss requests, by the leaf's span field (R371). -/
def spanWords (entry : Word) (w : Nat) : List Nat :=
  match field entry.toNat 9 8 with
  | 0 => []
  | 1 => (List.range 2).map (fun i => w / 2 * 2 + i)
  | 2 => (List.range 8).map (fun i => w / 8 * 8 + i)
  | _ => (List.range 16).map (fun i => w / 16 * 16 + i)

/-- The words of a span read by a load, with the core's fills. -/
def State.loadWords (s : State) (core ctx : Nat) (entry : Word) (obj : Bool) : List Nat → State × List Tagged
  | [] => (s, [])
  | w :: ws =>
    let miss := (s.region (8 * w)).cached && (mfind (s.core core).l1 w).isNone
    let r := s.loadWord core ctx w obj
    let s := r.1.noteSeen core ctx w
    let s := if miss then (spanWords entry w).foldl (fun s x => s.fillL1 core x obj) s else s
    let q := s.loadWords core ctx entry obj ws
    (q.1, r.2 :: q.2)

/-- The bytes at pa of words read. -/
def bytesOfWords (pa n : Nat) (ws : List Tagged) : List Byte :=
  let all := (ws.map (fun x => bytesLE 8 x.val.toNat)).flatten
  (all.drop (pa % 8)).take n

/-- The write that clears a word's tag (R153). -/
def tagClear (w : Nat) : WordWrite := { word := w, mask := 0, val := 0, tag := false }
/-- The buffered writes of a context's block (R25, R153). -/
def Context.buffered (c : Context) : List WordWrite := (c.stores.map (fun st => st.writes ++ st.clear.map tagClear)).flatten

/-- Words that a context reads with its block's own buffered stores over them (R25, R154). -/
def State.readWords (s : State) (core ctx : Nat) (entry : Word) (obj : Bool) (ws : List Nat) : State × List Tagged :=
  let r := s.loadWords core ctx entry obj ws
  let buf := (s.ctxOf core ctx).buffered
  (r.1, (ws.zip r.2).map (fun x => overlay x.2 x.1 buf))

/-- The object that an access reaches is a HERD object: its fills and writes keep its words in the herd slice (R159). -/
def Access.herdObj (a : Access) : Bool :=
  match a.hdr with
  | some (_, h) => field h.toNat 32 30 == 1
  | none => false

/-- A load of n bytes by a context. The tag is that of the first word, for ldref. -/
def State.loadSpan (s : State) (core ctx : Nat) (a : Access) (n : Nat) : State × List Byte × Bool :=
  let r := s.readWords core ctx a.entry a.herdObj (wordsOf a.pa n)
  (r.1, bytesOfWords a.pa n r.2, (r.2.getD 0 {}).tag)

-- Writes on their way (R159, R336..R338)

/-- The word number of a fence.rel that waits at the port among the context's writes (R169): no word of memory. -/
def fenceWord : Nat := 2 ^ 52

/-- The destination of a write takes no update: its device has no path up (R461). -/
def State.unreachable (s : State) (w : Nat) : Bool :=
  match s.region (8 * w) with
  | .remote d _ => !s.reachable d
  | _ => false

/-- A write is replaced in the core's list, or leaves it when complete; the counters fall with it (R159). -/
def State.putFlight (s : State) (core : Nat) (f : Flight) : State :=
  s.onCore core (fun c =>
    { c with wq := if f.complete then c.wq.filter (fun g => g.id != f.id)
                   else c.wq.map (fun g => if g.id = f.id then f else g) })

/-- A herd slice's copy of a word is sent to the L1s that hold it, but for one core's, as the update of a write: those
L1s. That core's own copy shows it under its later writes (R337). -/
def State.shareL1 (s : State) (core id w : Nat) : State × List Nat :=
  let h := herdOfCore core
  let v := s.slicePeek h w
  let cs := s.l1Sharers h w core
  let s := cs.foldl (fun s c => s.onCore c (fun y => { y with net := y.net ++ [{ id := id, write := wholeWord w v }] })) s
  let s := if (mfind (s.core core).l1 w).isSome then s.passL1 core w else s
  let mine := (s.core core).wq.filter (fun f => f.atHerd && !f.atPort && f.id != id)
  (s.onCore core (fun c => match mfind c.l1 w with
    | some y => if y.dirty.isSome then c else { c with l1 := mset c.l1 w (y.renew (overlay v w (mine.map (·.write)))) }
    | none => c), cs)

/-- The word as its home slice holds it is sent to the herd slices that hold it, but for one, as the update of a write:
those slices. -/
def State.shareSlices (s : State) (h id w : Nat) : State × List Nat :=
  let hs := s.sliceSharers w h
  let u : Update := { id := id, src := s.homeSlice w, write := wholeWord w (s.homeWord w) }
  (hs.foldl (fun s k => s.onHerd k (fun y => { y with net := y.net ++ [u] })) s, hs)

/-- The state of the object whose header stands at a physical address, as a herd slice shows it (R150). -/
def State.objState (s : State) (h hpa : Nat) : Nat := field (s.slicePeek h (hpa / 8)).val.toNat 32 30

/-- A herd slice applies a write of a core (R159, R336, R372): it holds the word, keeps it dirty for a HERD object, and
sends it to the L1s that hold it. -/
def State.herdApply (s : State) (core : Nat) (f : Flight) : State :=
  let h := herdOfCore core
  let x := f.write
  let s := (if x.mask = 0xFF then s else s.readSlice h x.word).fillSlice h x.word
  let old : Copy := mget { val := 0 } (s.herd h).copies x.word
  let ref := match f.obj with
    | some a => s.objState h a == 1
    | none => false
  let stay := ref || old.obj || old.dirty.isSome
  let v := overlay old.tagged x.word [x]
  let cp : Copy := { val := v.val, tag := v.tag, dirty := if stay then some 0 else none, obj := old.obj || ref }
  let s := s.onHerd h (fun y => { y with copies := mset y.copies x.word cp
                                         pend := if stay then y.pend else y.pend ++ [(f.id, x)] })
  let r := s.shareL1 core f.id x.word
  r.1.putFlight core { f with atHerd := false, herdObj := stay, atHome := f.atHome && !stay, toL1 := r.2 }

/-- A herd slice's copy follows its home slice, under the writes that it has still to send there (R337). -/
def State.renewSlice (s : State) (h w : Nat) : State :=
  if (mfind (s.herd h).copies w).isSome then (s.passSlice h w).sliceApplyUpdate h (wholeWord w (s.homeWord w)) else s

/-- The home slice applies a write that a herd slice sent it, and sends it to the other slices that hold the word (R336). -/
def State.homeApply (s : State) (core : Nat) (f : Flight) : State :=
  let h := herdOfCore core
  let w := f.write.word
  let s := s.homeWrite f.write
  let s := s.onHerd h (fun y => { y with pend := y.pend.filter (fun e => e.1 != f.id) })
  let r := s.shareSlices h f.id w
  (r.1.putFlight core { f with atHome := false, toSlices := r.2 }).renewSlice h w

/-- A word is written at its home slice by an agent or as a write-back; the herd slices that hold it take their updates
behind those sent before (R336, R372, R373). -/
def State.homeStore (s : State) (x : WordWrite) : State :=
  let s := s.homeWrite x
  let y := wholeWord x.word (s.homeWord x.word)
  let src := s.homeSlice x.word
  (s.sliceSharers x.word (2 ^ 16)).foldl (fun s h =>
    let s := s.acceptSlice h src (s.herd h).net.length
    s.onHerd h (fun z => { z with inq := z.inq ++ [y] })) s

/-- The next recipient of a write that has left the port takes it. -/
def State.flightStep (s : State) (core : Nat) (f : Flight) : State :=
  if f.atPort then s
  else if f.atHerd then s.herdApply core f
  else match f.toL1 with
    | c :: _ => (s.acceptL1 c (placeOf (s.core c).net f.id)).accepted [f.id] (fun g => { g with toL1 := g.toL1.erase c })
    | [] =>
      if f.atHome then s.homeApply core f
      else match f.toSlices with
        | g :: _ =>
          (s.acceptSlice g (s.homeSlice f.write.word) (placeOf (s.herd g).net f.id)).accepted [f.id]
            (fun y => { y with toSlices := y.toSlices.erase g })
        | [] => s

/-- A write of a core of a herd, with its core. -/
def State.flightOf (s : State) (h id : Nat) : Option (Nat × Flight) :=
  (coresOfHerd h).findSome? (fun c => ((s.core c).wq.find? (fun g => g.id == id)).map (fun g => (c, g)))

/-- The write whose step comes before the next one of this: an earlier one of the core to the same word, and at the home
slice an earlier one of the herd (R337). -/
def State.turnOf (s : State) (core : Nat) (f : Flight) : Nat × Flight :=
  if f.atHerd then
    match (s.core core).wq.find? (fun g => g.atHerd && !g.atPort && g.write.word == f.write.word) with
    | some g => (core, g)
    | none => (core, f)
  else if f.toL1.isEmpty && f.atHome then
    match (s.herd (herdOfCore core)).pend.find? (fun e => e.2.word == f.write.word) with
    | some e => (s.flightOf (herdOfCore core) e.1).getD (core, f)
    | none => (core, f)
  else (core, f)

/-- The next recipient of a write is its home slice, and no path leads there (R461). -/
def State.flightStuck (s : State) (f : Flight) : Bool := f.atHome && !f.atHerd && f.toL1.isEmpty && s.unreachable f.write.word

/-- A write that has left the port takes up to n steps, of its own or of those before it, toward being performed at a
scope. -/
def State.pushFlight (s : State) (core id scope : Nat) : Nat → State
  | 0 => s
  | n + 1 =>
    match (s.core core).wq.find? (fun g => g.id == id) with
    | none => s
    | some f =>
      let t := s.turnOf core f
      if f.pendingAt scope && !f.atPort && !s.flightStuck t.2 then (s.flightStep t.1 t.2).pushFlight core id scope n else s

/-- Steps that suffice for a write: its slices and every sharer, for each write of its herd to the word. -/
def State.flightFuel (s : State) (core w : Nat) : Nat :=
  208 * (1 + ((coresOfHerd (herdOfCore core)).map (fun c => ((s.core c).wq.filter (fun f => f.write.word == w)).length)).sum)

/-- A write that has left the port is performed at a scope, as far as its path allows. -/
def State.push (s : State) (core id scope : Nat) : State :=
  match (s.core core).wq.find? (fun g => g.id == id) with
  | some f => s.pushFlight core id scope (s.flightFuel core f.write.word)
  | none => s

/-- The writes of a core, and those that its herd slice has still to send home, to one word reach the home slice and the
word's sharers (R168). -/
def State.pushWord (s : State) (core w : Nat) : State :=
  let h := herdOfCore core
  let s := (((s.core core).wq.filter (fun f => f.write.word == w)).map (·.id)).foldl (fun s id => s.push core id 2) s
  (((s.herd h).pend.filter (fun e => e.2.word == w)).map (·.1)).foldl (fun s id =>
    match s.flightOf h id with
    | some (c, _) => s.push c id 2
    | none => s) s

-- Write-backs (R174, R372, R373)

/-- A dirty word of an L1 is written back to the herd slice, which holds it dirty and sends it to the other L1s of the
herd that hold it (R174, R372). It goes behind the core's writes of the word that left the port before it was dirty (R334,
R337). -/
def State.writeBack (s : State) (core w : Nat) : State :=
  let s := (s.readL1 core w).pushWord core w
  match mfind (s.core core).l1 w with
  | none => s
  | some c =>
    let h := herdOfCore core
    let s := s.onCore core (fun y => { y with l1 := mset y.l1 w { c with dirty := none } })
    let s := s.onHerd h (fun y => { y with copies := mset y.copies w { (mget { val := 0 } y.copies w) with val := c.val, tag := c.tag, dirty := some 0, err := 0 } })
    (s.l1Sharers h w core).foldl (fun s k => s.forward (wholeWord w c.tagged) k) s

/-- An L1 evicts a word, writing it back when dirty (R373). -/
def State.evictL1 (s : State) (core w : Nat) : State :=
  match mfind (s.core core).l1 w with
  | none => s
  | some c =>
    let s := if c.dirty.isSome then s.writeBack core w else s
    s.onCore core (fun y => { y with l1 := mdel y.l1 w })

/-- A herd slice evicts a word: it takes it back from its L1s first, and writes it back when dirty (R373). What it has
still to send home stands over its next fill. -/
def State.evictSlice (s : State) (h w : Nat) : State :=
  let s := (coresOfHerd h).foldl (fun s c => s.evictL1 c w) s
  let s := s.readSlice h w
  match mfind (s.herd h).copies w with
  | none => s
  | some c =>
    let s := s.onHerd h (fun y => { y with copies := mdel y.copies w, icache := mdel y.icache w })
    if c.dirty.isSome then s.homeStore (wholeWord w c.tagged) else s

/-- A core's L1 is emptied: dirty words are written back, and what it has been sent has no effect any more (R373). -/
def State.emptyL1 (s : State) (core : Nat) : State :=
  let s := (s.core core).l1.foldl (fun s e => s.evictL1 core e.1) s
  (s.acceptL1 core (s.core core).net.length).onCore core (fun c => { c with inq := [] })
/-- A herd slice is emptied. -/
def State.emptySlice (s : State) (h : Nat) : State :=
  let s := (s.herd h).copies.foldl (fun s e => s.evictSlice h e.1) s
  let s := ((s.herd h).net.map (·.src)).dedup.foldl (fun s k => s.acceptSlice h k (s.herd h).net.length) s
  s.onHerd h (fun y => { y with inq := [], icache := [] })

/-- Dirty copies of a word in the core's L1 and its herd's slice are written back before an atomic at the home slice. -/
def State.flushWord (s : State) (core w : Nat) : State :=
  let h := herdOfCore core
  let s := match mfind (s.core core).l1 w with
    | some c => if c.dirty.isSome then s.writeBack core w else s
    | none => s
  let s := s.readSlice h w
  match mfind (s.herd h).copies w with
  | some c =>
    if c.dirty.isSome then
      let s := s.onHerd h (fun y => { y with copies := mset y.copies w { c with dirty := none } })
      s.homeStore (wholeWord w c.tagged)
    else s
  | none => s

-- Objects at the port (R150, R175, R176)

/-- The PRIVATE object of a core's contexts that a word belongs to, header or body (R175). -/
def Core.privAt (c : Core) (w : Nat) : Option PrivObj :=
  c.privs.find? (fun o => w == o.hdr || o.body.any (fun r => decide (r.1 ≤ w) && decide (w < r.1 + r.2)))

/-- A store of a context to a word stays dirty in its core's L1: the word belongs to a PRIVATE object of its own, which it
reaches by reference or raw, or is held so already (R175, R372). -/
def State.keepsDirty (s : State) (core ctx w : Nat) (obj : Option Nat) : Bool :=
  let c := s.core core
  let own := ownerOf core ctx
  (match obj with
   | some a =>
     let h := (s.portPeek core (a / 8)).val.toNat
     field h 32 30 == 0 && field h 48 33 == own
   | none => false) ||
  (match c.privAt w with
   | some o => o.owner == own
   | none => false) ||
  (match mfind c.l1 w with
   | some y => y.dirty == some own
   | none => false)

/-- A store waits until a walk has set its object's state (R150, R176). -/
def State.walking (s : State) (core ctx w : Nat) (obj : Option Nat) : Bool :=
  (match obj with
   | some a => (mfind s.mem.marks a).isSome
   | none => false) ||
  (match (s.core core).privAt w with
   | some o => o.owner == ownerOf core ctx && (mfind s.mem.marks (8 * o.hdr)).isSome
   | none => false)

/-- A segment under conversion holds its accesses (R363). -/
def State.convertingAt (s : State) (pa : Nat) : Bool := s.mem.converting.any (fun c => decide (c.1 ≤ pa) && decide (pa < c.1 + 65536))

/-- A word of the range of an engine command's destination, not yet written (R177, R244). -/
def State.ownedByEngine (s : State) (asid va size : Nat) : Bool :=
  s.mem.owned.any (fun o => o.1 == asid && decide (o.2.1 < va + size) && decide (va < o.2.1 + o.2.2.1))

-- Atomics at the point of atomicity (R165, R166, R168)

/-- f(old, b) on n bits (R165, R166). -/
def amoValue (op : AmoOp) (n old b : Nat) : Nat :=
  let lane (f : Fmt) (x y : Nat) : Nat := (f.fadd {} (f.decode x) (f.decode y)).bits
  match op with
  | .add => (old + b) % 2 ^ n
  | .and => old &&& b
  | .or => old ||| b
  | .xor => old ^^^ b
  | .smin => if signedOf n old < signedOf n b then old else b
  | .smax => if signedOf n old < signedOf n b then b else old
  | .umin => min old b
  | .umax => max old b
  | .swap => b
  | .faddS => lane fp32 old b
  | .faddBf2 => lane bf16 (old % 65536) (b % 65536) + 65536 * lane bf16 (old / 65536) (b / 65536)

/-- The n bytes at offset o of a word. -/
def subWord (x : Word) (o n : Nat) : Nat := x.toNat / 2 ^ (8 * o) % 2 ^ (8 * n)
/-- n bytes placed at offset o of a word, and their mask. -/
def placeWord (v o n : Nat) : Word × BitVec 8 := (BitVec.ofNat 64 (v * 2 ^ (8 * o)), BitVec.ofNat 8 ((2 ^ n - 1) * 2 ^ o))

/-- An uncached word written at its port; a register by the step that its write is (R158, R359, R360). -/
def State.portPut (s : State) (core ctx : Nat) (x : WordWrite) : State :=
  match s.region (8 * x.word) with
  | .regs n k off => s.follow n k 0 [off, x.val.toNat] .contextWindowWrite
  | .control off => s.follow core ctx 0 [off, x.val.toNat] .controlRegisterWrite
  | _ => s.homeWrite x

/-- A write performed at its home slice in one step is sent to every copy; its counters fall with the acceptances
(R159, R168). -/
def State.shareWrite (s : State) (core ctx scope : Nat) (x : WordWrite) : State :=
  let id := s.mem.nextId
  let h := herdOfCore core
  let s := { s with mem := { s.mem with nextId := id + 1 } }
  let s := s.homeWrite x
  let r := s.shareSlices h id x.word
  let s := if (mfind (r.1.herd h).copies x.word).isSome then
      (r.1.passSlice h x.word).onHerd h (fun y =>
        let v := overlay (r.1.homeWord x.word) x.word y.pending
        { y with copies := mset y.copies x.word ((mget { val := 0 } y.copies x.word).renew v) })
    else r.1
  let q := s.shareL1 core id x.word
  let f : Flight := { id := id, ctx := ctx, write := x, atHerd := false, atHome := false, toL1 := q.2, toSlices := r.2 }
  let s := if f.complete then q.1 else q.1.onCore core (fun c => { c with wq := c.wq ++ [f] })
  if scope = 0 then s else s.push core id scope

/-- An atomic read-modify-write of a word by a context (R168): f answers the new bytes and their mask, or none for no
write. priv: the word belongs to a PRIVATE object of the issuer and is reached by reference. scope: that of a release
store, 0 for a relaxed write (R338). The old word. -/
def State.rmw (s : State) (core ctx w : Nat) (priv : Bool) (scope : Nat) (f : Word → Option (Word × BitVec 8)) : State × Word :=
  if (s.region (8 * w)).cached && !priv then
    let s := (s.pushWord core w).flushWord core w
    let r := s.homeRead w
    let s := r.1.noteSeen core ctx w
    match f r.2.val with
    | none => (s, r.2.val)
    | some (v, mask) => (s.shareWrite core ctx scope { word := w, mask := mask, val := v, tag := false }, r.2.val)
  else
    let r := s.loadWord core ctx w false
    match f r.2.val with
    | none => (r.1, r.2.val)
    | some (v, mask) =>
      let x : WordWrite := { word := w, mask := mask, val := v, tag := false }
      if priv && (s.region (8 * w)).cached then
        let y := overlay r.2 w [x]
        (r.1.onCore core (fun c => { c with l1 := mset c.l1 w { val := y.val, tag := y.tag, dirty := some (ownerOf core ctx) } }), r.2.val)
      else (r.1.portPut core ctx x, r.2.val)

-- The port (R159, R160, R333, R334, R339)

/-- A write that a core holds or has sent is not yet performed at a scope. -/
def State.idsPending (s : State) (ids : List Nat) (scope : Nat) : Bool :=
  s.cores.any (fun c => c.2.wq.any (fun f => ids.contains f.id && f.pendingAt scope))

/-- The write is the first of its context that the port holds. -/
def Core.firstHeld (c : Core) (f : Flight) : Bool :=
  match c.wq.find? (fun g => g.atPort && g.ctx == f.ctx) with
  | some g => g.id == f.id
  | none => false

/-- The walks of a thread that are not complete, at a scope or wider, and that began before a write. -/
def State.walksBefore (s : State) (handle scope id : Nat) : Bool :=
  s.herds.any (fun h => h.2.walks.any (fun w => w.handle == handle && decide (scope ≤ w.scope) && decide (w.id < id)))

/-- Whether a write that the port holds may leave it (R160, R162, R164, R169, R176, R177, R339): it is the first of its
context, no walk, no engine and no record holds it back, and for a release every write that it covers, and every earlier walk
that counts, is performed at its scope. -/
def State.mayLeave (s : State) (core : Nat) (f : Flight) : Bool :=
  (s.core core).firstHeld f && !f.failed && f.walk.isNone && !s.walking core f.ctx f.write.word f.obj &&
  (f.write.word == fenceWord || (!s.ownedByEngine f.asid (f.va / 8 * 8) 8 && !s.convertingAt (8 * f.write.word))) &&
  (f.rel == 0 ||
    (!s.walksBefore (s.ctxOf core f.ctx).handle f.rel f.id && !s.unreachable f.write.word && !s.idsPending f.needs f.rel &&
     !((s.core core).wq.any (fun g => g.ctx == f.ctx && !g.atPort && g.pendingAt f.rel))))

/-- A write leaves the port: it is performed there, or is on its way to its slices (R159, R165, R175, R372). -/
def State.leavePort (s : State) (core : Nat) (f : Flight) : State :=
  let x := f.write
  let s := s.onCore core (fun c => { c with wq := c.wq.filter (fun g => g.id != f.id) })
  if x.word = fenceWord then s
  else match f.amo with
    | some (op, n, b) =>
      let o := f.va % 8
      (s.rmw core f.ctx x.word (f.obj.isSome && s.keepsDirty core f.ctx x.word f.obj) 0
        (fun old => some (placeWord (amoValue op (8 * n) (subWord old o n) b) o n))).1
    | none =>
      if (s.region (8 * x.word)).cached then
        let s := if x.mask = 0xFF then s else s.readL1 core x.word
        if s.keepsDirty core f.ctx x.word f.obj && x.mask != 0 then
          let s := s.fillL1 core x.word false
          let v := overlay (s.portPeek core x.word) x.word [x]
          s.onCore core (fun c => { c with l1 := mset c.l1 x.word { val := v.val, tag := v.tag, dirty := some (ownerOf core f.ctx) } })
        else s.onCore core (fun c => { c with l1 := portUpdate c.l1 x, wq := c.wq ++ [{ f with atPort := false }] })
      else s.portPut core f.ctx x

/-- The record of an exposed access that has failed after its commit point (R178): its cause, the core, and the thread. -/
def State.postLost (s : State) (core ctx cause : Nat) (va : Word) : State :=
  let c := s.ctxOf core ctx
  s.postFault { cause := cause, sev := 1, src := 0, handle := c.handle, launch := some (launchOfHandle c.handle)
                loc := core, tval := va, aux := c.sr 0x042, agent := .access c.handle }

/-- The cause of the failure of an access that reads a word as it leaves the port: the word is poisoned, or its tile does not
agree with its hallmark (R178, R414). The context's own full writes of the word before it clear a mark (R155). -/
def State.lostCause (s : State) (core : Nat) (f : Flight) : State × Option Nat :=
  let w := f.write.word
  let s := s.detect w
  let mine := (s.core core).wq.any (fun g => decide (g.id < f.id) && g.write.word == w && g.write.mask == 0xFF) ||
    (mget { val := 0 } (s.core core).l1 w).dirty.isSome
  if s.mem.poison.contains w && !mine then (s, some (0x140 + (s.arrayOf (8 * w)).1))
  else if s.inTile (8 * w) then
    let c := s.checkRows (8 * w / 1024) (8 * w % 1024 / 64) (8 * w % 1024 / 64)
    (c.1, if c.2 then none else some Cause.hallmarkUncorrectable)
  else (s, none)

/-- A write that the port holds leaves it when it may; a release is performed at its scope in one step, so that every sharer in
its reach has accepted it (R338). DEDUCED (log entry 64): a sharer that has accepted it may drain it later, as R355's row of
plain reads allows. An exposed access that fails as it leaves stays at the port, its record is posted, and its context sleeps
until the record is resolved (R178). -/
def State.tryLeave (s : State) (core : Nat) (f : Flight) : State :=
  if s.mayLeave core f then
    let r := if f.reads then s.lostCause core f else (s, none)
    match r.2 with
    | some cause =>
      let s := r.1.putFlight core { f with failed := true }
      (s.onCtx core f.ctx (fun c => { c with stall := some 0 })).postLost core f.ctx cause (BitVec.ofNat 64 f.va)
    | none =>
      let s := r.1.leavePort core f
      if f.rel = 0 then s else s.push core f.id f.rel
  else s

/-- The writes that a release at the port waits for are performed as far as their paths allow. -/
def State.pushNeeds (s : State) (core : Nat) (f : Flight) : State :=
  if f.rel = 0 then s
  else
    let s := (((s.core core).wq.filter (fun g => g.ctx == f.ctx && !g.atPort)).map (·.id)).foldl (fun s id => s.push core id f.rel) s
    s.cores.foldl (fun s c => ((c.2.wq.filter (fun g => f.needs.contains g.id)).map (·.id)).foldl (fun s id => s.push c.1 id f.rel) s) s

/-- The writes of a context, in order, leave the port and are performed at a scope where nothing holds them back. -/
def State.pushWrites (s : State) (core ctx scope : Nat) : State :=
  (((s.core core).wq.filter (fun f => f.ctx == ctx)).map (·.id)).foldl (fun s id =>
    let s := match (s.core core).wq.find? (fun g => g.id == id) with
      | some f => if f.atPort then (s.pushNeeds core f).tryLeave core f else s
      | none => s
    s.push core id scope) s

/-- Writes of other contexts that the port holds to these words, or atomics without a result, leave it as far as they may
(R334): whether a load of the words may bind now. -/
def State.openWords (s : State) (core ctx : Nat) (ws : List Nat) : State × Bool :=
  let bars (f : Flight) : Bool := f.atPort && ws.contains f.write.word && (f.ctx != ctx || f.amo.isSome)
  let ks := (((s.core core).wq.filter bars).map (·.ctx)).dedup
  let s := ks.foldl (fun s k => s.pushWrites core k 0) s
  (s, !(s.core core).wq.any bars)

/-- A release at a scope by a context (R159, R339): its writes, and those that its loads returned, are performed
at the scope; false while one is not, or a walk that counts is not complete. -/
def State.release (s : State) (core ctx scope : Nat) : State × Bool :=
  if scope = 0 then (s, true)
  else
    let s := s.pushWrites core ctx scope
    let seen := (s.ctxOf core ctx).seen
    let s := s.cores.foldl (fun s c => ((c.2.wq.filter (fun f => seen.contains f.id)).map (·.id)).foldl (fun s id => s.push c.1 id scope) s) s
    let own := (s.core core).wq.any (fun f => f.ctx == ctx && f.pendingAt scope)
    if s.walksOf (s.ctxOf core ctx).handle scope = 0 ∧ own = false ∧ s.idsPending seen scope = false then
      (s.onCtx core ctx (fun c => if 2 ≤ scope then { c with seen := [] } else c), true)
    else (s, false)

/-- A write of a context comes to the port (R333): it leaves at once, or the port holds it. A release always stays until
its condition is tested. -/
def State.portEnter (s : State) (core : Nat) (f : Flight) : State :=
  let f := { f with id := s.mem.nextId, atPort := true, needs := if f.rel = 0 then [] else (s.ctxOf core f.ctx).seen }
  let s := { s with mem := { s.mem with nextId := s.mem.nextId + 1 } }
  let s := s.onCore core (fun c => { c with wq := c.wq ++ [f] })
  if f.rel = 0 then s.tryLeave core f else s

/-- A word has its tag set somewhere that a clearing has still to reach (R153). -/
def State.tagSomewhere (s : State) (w : Nat) : Bool :=
  s.mem.tags.contains w ||
  s.cores.any (fun c => (mget { val := 0 } c.2.l1 w).tag || c.2.wq.any (fun f => f.write.word == w && f.write.tag)) ||
  s.herds.any (fun h => (mget { val := 0 } h.2.copies w).tag)

/-- A store leaves the store buffer, word by word, with the tag clearing of a mkobj behind it (R153). -/
def State.portStore (s : State) (core ctx : Nat) (st : StoreReq) (walk : Option Nat) : State :=
  let base := st.va / 8 * 8
  let f (x : WordWrite) (va rel : Nat) (obj walk : Option Nat) : Flight :=
    { id := 0, ctx := ctx, write := x, obj := obj, va := va, asid := st.asid, rel := rel, walk := walk
      reads := st.exposed && x.mask != 0xFF }
  let w0 := ((st.writes.map (·.word)).head?).getD 0
  let s := st.writes.foldl (fun s x => s.portEnter core (f x (base + 8 * (x.word - w0)) st.rel st.obj walk)) s
  let s := match st.body, st.writes with
    | [], _ => s
    | body, x :: _ =>
      let o : PrivObj := { owner := ownerOf core ctx, hdr := x.word, body := body }
      s.onCore core (fun c => { c with privs := o :: c.privs.filter (fun y => y.hdr != x.word) })
    | _, [] => s
  (st.clear.zipIdx.filter (fun w => s.tagSomewhere w.1)).foldl (fun s w =>
    s.portEnter core (f (tagClear w.1) (base + 8 + 8 * w.2) 0 none none)) s

/-- The tag of a word as an access of a core's context finds it. -/
def State.tagAt (s : State) (core ctx w : Nat) : Bool :=
  let dirty (m : Map Copy) : Option Tagged :=
    match mfind m w with
    | some c => if c.dirty.isSome then some c.tagged else none
    | none => none
  let base : Tagged :=
    match dirty (s.core core).l1 with
    | some x => x
    | none =>
      match dirty (s.herd (herdOfCore core)).copies with
      | some x => x
      | none => overlay (s.homeWord w) w (s.herd (herdOfCore core)).pending
  (overlay base w ((s.core core).ownWrites ++ (s.core core).heldWrites ctx ++ (s.ctxOf core ctx).buffered)).tag

end Sys2Proof.Machine
end

