-- ==== Sys2Proof/Machine/Checks.lean ====
section
/-!
DEFINITION. The checks of an access (R147..R151, R157, R158): what an instruction needs of it, the header of a reference,
its page, engine ownership, poison and hallmarks.
-/

namespace Sys2Proof.Machine

-- Checked accesses (R147..R151, R157, R158)

/-- What an instruction needs of its access. -/
structure AccessReq where
  va : Word
  size : Nat
  need : Need
  origin : Origin
  /-- the base register: a tagged one makes a reference access -/
  base : Tagged
  /-- the access may not be made to a side-effect page (R157) -/
  noSe : Bool := false
  /-- check 9 applies (R151) -/
  reads : Bool
  /-- check 7 for an atomic: a tagged target word (R168) -/
  noTag : Bool := false
  align : Nat
  deriving DecidableEq, Repr

/-- An object's body covers the bytes (R149). -/
def inBody (h hdr va : Word) (size : Nat) : Bool :=
  let len := hdr.toNat % 2 ^ 28
  decide (h.toNat + 8 ≤ va.toNat) && decide (va.toNat + size ≤ h.toNat + 8 + 8 * len)

/-- A context's own full-word store stands before it on the word: buffered, on its way from the core's port, or dirty in
the core's L1. What it reads is that store's data (R154), which clears the poison mark (R155). -/
def State.covered (s : State) (core ctx w : Nat) : Bool :=
  (s.ctxOf core ctx).buffered.any (fun x => x.word == w && x.mask == 0xFF) ||
  (s.core core).wq.any (fun f => f.write.word == w && f.write.mask == 0xFF) ||
  (match mfind (s.core core).l1 w with
   | some c => c.dirty.isSome
   | none => false)

/-- The word is poisoned as an access of the party finds it. -/
def State.poisonedFor (s : State) (p : Party) (w : Nat) : Bool := s.poisoned w && !(p.isCtx && s.covered p.core p.ctx w)

/-- A window access that R158, R325 and R329 do not permit: to a held matrix element's arrays, a store. -/
def State.windowDenied (s : State) (pa size : Nat) (super : Bool) (need : Need) : Bool :=
  match s.region pa with
  | .regs _ _ _ => !super || size != 8
  | .control _ => !super
  | .weights e _ => need.writes && ((mget {} s.fabric.mxes e).owner.isSome || (mget {} s.fabric.mxes e).fabric)
  | .accum e _ _ => need.writes && ((mget {} s.fabric.mxes e).owner.isSome || (mget {} s.fabric.mxes e).fabric)
  | _ => false

/-- A firewall region permits an access of size bytes at a physical address (R455). -/
def FwRegion.permits (f : FwRegion) (pa size : Nat) (need : Need) : Bool :=
  decide (f.base ≤ pa) && decide (pa + size ≤ f.base + f.size) &&
  (match need with
   | .read => f.rd
   | .write => f.wr
   | .both => f.rd && f.wr
   | .fetch => f.x)

/-- The access of a control core below M lies outside every firewall region that permits it (R455). -/
def State.firewallDenies (s : State) (p : Party) (pa size : Nat) (need : Need) : Bool :=
  Config.controlCore p.core && decide ((s.ctxOf p.core p.ctx).priv ≠ 2) &&
  !(s.dev.firewall.take 16).any (fun f => f.permits pa size need)

/-- Nothing answers at a physical address: a hole, a hole of a register region (R358, R360), or for a read a device that no
path reaches (R461). -/
def State.absentAt (s : State) (pa : Nat) (need : Need) : Bool :=
  match s.region pa with
  | .hole => true
  | .remote d _ => need != .write && !s.reachable d
  | .regs n k off => s.windowHole n k off
  | _ => false

/-- The words of a read are checked as they are read (R151 check 9): poison, then the hallmark of the rows that it touches.
Only a context's own stores stand before it. -/
def State.checkData (s : State) (p : Party) (pa size : Nat) : State × Option Nat :=
  let ws := wordsOf pa size
  let s := match s.region pa with
    | .weights _ _ => s.exposeFlips (pa / 1024)
    | _ => if (s.region pa).cached && (p.isCtx || p.viaPort) then ws.foldl (fun s w => s.readCopy p.core w) s else s
  if ws.any (s.poisonedFor p) then (s.detectAll ws, some 0)
  else
    let s := s.detectAll ws
    if s.inTile pa then
      let c := s.checkRows (pa / 1024) (pa % 1024 / 64) ((pa % 1024 + size - 1) / 64)
      (c.1, if c.2 then none else some 1)
    else (s, none)

/-- The checks 5 to 9 of R151 on one naturally aligned span that lies in one page. -/
def State.checkSpan (s : State) (p : Party) (q : AccessReq) (tval2 : Word) : Chk Leaf :=
  let s := s.touchTlb p (q.va.toNat % 2 ^ 57)
  let flt (k : MemKind) : Chk Leaf := .fault s (memCause k q.origin) q.va tval2
  match s.leafFor p.ptb p.asid p.super q.need q.va with
  | .error k => flt k
  | .ok l =>
    let l := s.seLeaf l
    if s.absentAt l.pa q.need then flt .notMapped
    else if (q.noSe && l.entry.getLsbD 10) || s.windowDenied l.pa q.size p.super q.need ||
        s.firewallDenies p l.pa q.size q.need then flt .protection
    else if l.mig then flt .tier
    else if s.ownedByEngine p.asid (q.va.toNat % 2 ^ 57) q.size || s.convertingAt l.pa then .wait
    else if q.noTag && s.tagAt p.core p.ctx (l.pa / 8) then flt .tag
    else if q.need == .write then .ok s l
    else
      let o := if p.isCtx || p.viaPort then s.openWords p.core p.ctx (wordsOf l.pa q.size) else (s, true)
      if !o.2 then .wait
      else if q.reads then
        let c := o.1.checkData p l.pa q.size
        match c.2 with
        | none => .ok c.1 l
        | some 0 => .fault c.1 (memCause .poison q.origin) q.va tval2
        | some _ => .fault c.1 Cause.hallmarkUncorrectable q.va tval2
      else .ok o.1 l

/-- A header as a context reads it (R150, R346): a copy that still shows WALKING although its walk has set the new state
takes its updates first. -/
def State.headerWord (s : State) (core ctx : Nat) (entry : Word) (w : Nat) : State × Word :=
  let r := s.readWords core ctx entry false [w]
  let v := (r.2.getD 0 {}).val
  let h := herdOfCore core
  let raw : Bool := (mget { val := 0 } (r.1.core core).l1 w).dirty.isSome ||
    ((r.1.core core).ownWrites ++ (r.1.core core).heldWrites ctx ++ (r.1.herd h).pending ++ (r.1.ctxOf core ctx).buffered).any (fun x => x.word == w)
  if field v.toNat 32 30 = 4 ∧ (mfind s.mem.marks (8 * w)).isSome = false ∧ raw = false then
    let s := r.1.acceptSlice h (r.1.homeSlice w) (r.1.herd h).net.length
    let s := s.drainWordSlice h w
    let s := (s.acceptL1 core (s.core core).net.length).drainWordL1 core w
    (s, (s.portPeek core w).val)
  else (r.1, v)

/-- The header of a reference, read by a context (checks 2 and 3 of R151): its word and physical address. -/
def State.readHeader (s : State) (p : Party) (h : Word) (origin : Origin) : Chk (Word × Nat) :=
  let flt (s : State) (k : MemKind) : Chk (Word × Nat) := .fault s (memCause k origin) h h
  let s := s.touchTlb p (h.toNat % 2 ^ 57)
  match s.leafFor p.ptb p.asid p.super .read h with
  | .error k => flt s k
  | .ok l =>
    if s.absentAt l.pa .read then flt s .notMapped
    else if s.windowDenied l.pa 8 p.super .read || s.firewallDenies p l.pa 8 .read then flt s .protection
    else if l.mig then flt s .tier
    else if s.ownedByEngine p.asid (h.toNat % 2 ^ 57) 8 || s.convertingAt l.pa then .wait
    else
      let o := s.openWords p.core p.ctx [l.pa / 8]
      if !o.2 then .wait
      else
        let r := o.1.headerWord p.core p.ctx l.entry (l.pa / 8)
        .ok r.1 (r.2, l.pa)

/-- The checks of an access in the order of R151. -/
def State.checkAccess (s : State) (p : Party) (q : AccessReq) : Chk Access :=
  let h := q.base.val
  if !canonical q.va then .fault s (memCause .notMapped q.origin) q.va (if q.base.tag then h else 0)
  else if q.va.toNat % q.align != 0 then .fault s (memCause .align q.origin) q.va (if q.base.tag then h else 0)
  else if q.base.tag then
    match s.readHeader p h q.origin with
    | .wait => .wait
    | .fault s c a b => .fault s c a b
    | .ok s (hdr, hpa) =>
      match admits hdr p.core p.ctx (q.need == .read) (mfind s.mem.marks hpa).isSome with
      | .badTag => .fault s (memCause .tag q.origin) q.va h
      | .deny => .fault s (memCause .privateAccess q.origin) q.va h
      | .wait => .wait
      | .ok =>
        if !inBody h hdr q.va q.size then .fault s (memCause .bounds q.origin) q.va h
        else match s.checkSpan p q h with
          | .wait => .wait
          | .fault s c a b => .fault s c a b
          | .ok s l => .ok s { va := q.va, pa := l.pa, entry := l.entry, hdr := some (h, hdr), hpa := hpa }
  else
    match s.checkSpan p q 0 with
    | .wait => .wait
    | .fault s c a b => .fault s c a b
    | .ok s l => .ok s { va := q.va, pa := l.pa, entry := l.entry }

/-- The header of the object that an access reaches, for its stores. -/
def Access.obj (a : Access) : Option Nat := a.hdr.map (fun _ => a.hpa)

end Sys2Proof.Machine
end

