-- ==== Sys2Proof/Machine/Commit.lean ====
section
/-!
DEFINITION. The commit point of a block (R26), the start of walks (R164, R170), the escape rule (R163), and the
shared course of an exposed instruction: its checks, its block's commit, its performance.
-/

namespace Sys2Proof.Machine

/-- The position of the last instruction of a block's words (R49). -/
def lastPos (ws : List (BitVec 32)) : Nat :=
  if wordTop (ws.getD (ws.length - 2) 0) then ws.length - 1 else ws.length - 2

/-- The issuing word did nothing yet: it issues again. -/
def State.retryMe (s : State) : State := s.onMe (fun c => { c with pos := c.cur })

/-- A memory instruction goes on with k when its checks pass; a fault traps, a wait issues again. -/
def State.checked {α : Type} (s : State) (c : Chk α) (k : State → α → State) : State :=
  match c with
  | .ok s' x => k s' x
  | .fault s' cause a b => s'.trapMe cause a b
  | .wait => s.retryMe

/-- A check after another. -/
def Chk.andThen {α β : Type} (c : Chk α) (k : State → α → Chk β) : Chk β :=
  match c with
  | .ok s x => k s x
  | .fault s cause a b => .fault s cause a b
  | .wait => .wait

/-- A check whose fault names another address in s.tval. -/
def Chk.atAddr {α : Type} (c : Chk α) (va : Word) : Chk α :=
  match c with
  | .ok s x => .ok s x
  | .fault s cause _ b => .fault s cause va b
  | .wait => .wait

/-- A walk of a herd's walker is queued for a context's publish (R170, R171): its number. -/
def State.startWalk (s : State) (core ctx scope root : Nat) : State × Nat :=
  let c := s.ctxOf core ctx
  let id := s.mem.nextId
  let w : Walk := { id := id, scope := scope, handle := c.handle, core := core, ctx := ctx,
                    asid := (c.sr 0x061).toNat, ptb := (c.sr 0x060).toNat, root := root, queue := [root], super := c.super,
                    spill := c.sr 0x062 }
  let s := { s with mem := { s.mem with nextId := id + 1 } }
  (s.onHerd (herdOfCore core) (fun h => { h with walks := h.walks ++ [w] }), id)

/-- A walk is not complete. -/
def State.walkLive (s : State) (id : Nat) : Bool := s.herds.any (fun h => h.2.walks.any (fun w => w.id == id))

/-- Vector instructions of a context's current block are in its core's queue (R222). -/
def State.vuPending (s : State) (core ctx : Nat) : Bool :=
  (s.core core).vuq.any (fun e => e.ctx == ctx && e.epoch == (s.ctxOf core ctx).epoch)

/-- Results of a context are outstanding (R42). -/
def State.resultsPending (s : State) (core ctx : Nat) : Bool :=
  !(s.ctxOf core ctx).outst.isEmpty || s.vuPending core ctx

/-- A buffered store is released at the commit point (R26), with its implicit publish (R164). -/
def State.releaseStore (s : State) (core ctx : Nat) (st : StoreReq) : State :=
  match st.pub with
  | some (p, sc) =>
    let r := s.startWalk core ctx sc p
    r.1.portStore core ctx st (some r.2)
  | none => s.portStore core ctx st none

/-- The commit point (R26): register writes commit, then the stores leave in program order, then implicit publishes of the
exposed instruction start. The next block is at a. Window writes that are held for the block take effect once its exposed
instruction has been performed (R145). -/
def State.commitBlock (s : State) (core ctx : Nat) (a : Word) : State :=
  let c := (s.ctxOf core ctx).settle
  let stores := c.stores
  let pubs := c.implicitPubs
  let c1 : Context := { c with arch := c.work, qntInf := c.blockInf, blockInf := none, stores := [], implicitPubs := [], epoch := c.epoch + 1 }
  let s := s.setCtx core ctx (c1.fetchFrom a)
  let s := stores.foldl (fun s st => s.releaseStore core ctx st) s
  pubs.foldl (fun s p =>
    let r := s.startWalk core ctx p.2 p.1
    r.1.onCtx core ctx (fun c => { c with awaitWalks := c.awaitWalks ++ [r.2] })) s

/-- The block's last word is a swr of s.timer, which cancels an event that is raised while the block runs (R38): not where a
taken transfer has left the block before it. -/
def Context.setsTimer (c : Context) : Bool :=
  let w := c.words.getD (lastPos c.words) 0
  c.exit.isNone && (c.words.getD 0 0).getLsbD 17 && (match decodeWord w with
    | .ok (.swr n _) => n == 0x022
    | _ => false)

/-- A pre-emption request or an interrupt has arrived before the commit point of the context's block (R27). -/
def Context.interrupted (c : Context) (now : Nat) : Bool :=
  c.switchReq || ((c.raise now).timerEvent && c.ie && !c.setsTimer)

/-- The outcome of performing an exposed instruction: done, or not yet. -/
inductive Perf where
  | done (s : State)
  | later (s : State)
  deriving DecidableEq, Repr

/-- The state of an outcome. -/
def Perf.state : Perf → State
  | .done s => s
  | .later s => s

/-- Window writes to the context are held (R145): a block runs, or its last instruction has registers still to write. -/
def Context.holdsWindow (c : Context) : Bool :=
  c.live && (c.lost.isSome || (match c.phase with
    | .body => true
    | .exposed _ => true
    | .wait (.recv _ _ _) => true
    | .wait (.waitev _) => true
    | _ => false))

/-- Held window writes of a context take effect where nothing holds them any more (R145). -/
def State.settleWindow (s : State) (core ctx : Nat) : State :=
  if (s.ctxOf core ctx).holdsWindow then s else s.applyWindow core ctx

/-- The course of an exposed instruction i (R24, R26): unless its block has committed already, every result of
the block returns, its checks are made, and the block commits; then it is performed, or the context stalls with
its block committed, and its operands kept. The implicit publishes it needs complete first (R164, R197). -/
def State.exposed (s : State) (i : Instr) (checks : State → Chk Unit) (perform : State → Perf) : State :=
  let view := s.me.view
  let run (s : State) : State :=
    let s := s.onMe (fun c => { c with phase := .fetch, snap := some view })
    if !s.me.awaitWalks.isEmpty then s.onMe (fun c => { c with phase := .exposed i })
    else match perform s with
      | .done s => (s.onMe (fun c => match c.phase with
        | .wait (.fault _) => if c.lost.isSome then { c with lost := some i, acc := none } else { c with snap := none, acc := none }
        | _ => { c with snap := none, acc := none })).settleWindow s.act.core s.act.ctx
      | .later s => s.onMe (fun c => { c with phase := .exposed i })
  if s.me.phase = .exposed i then run s
  else if s.me.interrupted s.time then s.onMe (fun c => c.interrupt s.time)
  else if s.vuPending s.act.core s.act.ctx then s.retryMe
  else
    let s0 := s.onMe Context.settle
    match checks s0 with
    | .wait => s.retryMe
    | .fault s' c a b => s'.trapMe c a b
    | .ok s' _ => run (s'.commitBlock s.act.core s.act.ctx s'.me.fallThrough)

/-- The registers of the committed context, for an exposed instruction that is performed. -/
def Context.cg (c : Context) (r : RegNo) : Tagged := c.arch.getG r.toNat

/-- An exposed instruction's result: it is written before the next block issues (R26). -/
def State.result (s : State) (ws : List RegWrite) : State :=
  s.onMe (fun c => { c with arch := c.arch.applyAll ws, work := c.arch.applyAll ws })

/-- An exposed instruction's result in a general register, its tag clear. -/
def State.resultG (s : State) (d : RegNo) (x : Word) : State := s.result [.g d.toNat { val := x, tag := false }]

/-- Where a reference goes, for the escape rule (R163). -/
inductive Dest where
  /-- a PRIVATE object with this owner field -/
  | privateOf (owner : Nat)
  /-- a scope -/
  | scope (sc : Nat)
  deriving DecidableEq, Repr

/-- The scope of an implicit publish toward a destination (R164). DESIGN CHOICE (log entry 46): toward a PRIVATE object of
another owner, whose scope names no publication, it is HERD. -/
def Dest.pubScope : Dest → Nat
  | .privateOf _ => 1
  | .scope n => max 1 n

/-- The escape rule (R163) for a tagged value bound for a destination: whether it escapes. A header that does not
read raises its MEM fault with origin store. DESIGN CHOICE (log entry 46): a value whose header has kind 3, a reserved state
or an unmarked WALKING does not escape, since it is not PRIVATE. -/
def State.escapes (s : State) (p : Party) (ref : Word) (d : Dest) : Chk Bool :=
  (s.readHeader p ref .store).andThen (fun s q =>
    let h := q.1.toNat
    let st := field h 32 30
    if st = 4 ∧ (mfind s.mem.marks q.2).isSome then .wait
    else .ok s (st == 0 && (match d with
      | .privateOf o => o != field h 48 33
      | .scope _ => true)))

/-- The escape rule on the tagged words of a reply (R209): no implicit publish takes the place of REF_ESCAPE. -/
def State.noEscape (s : State) (p : Party) (d : Dest) (tval : Word) : List Tagged → Chk Unit
  | [] => .ok s ()
  | x :: xs =>
    if x.tag then
      (s.escapes p x.val d).andThen (fun s esc => if esc then .fault s Cause.refEscape tval x.val else s.noEscape p d tval xs)
    else s.noEscape p d tval xs

/-- The escape rule on tagged words that an exposed instruction carries (R164, R197, R243): an escaping one
raises REF_ESCAPE, or is published first under autopub. -/
def State.escapeAll (s : State) (p : Party) (d : Dest) (tval : Word) : List Tagged → Chk Unit
  | [] => .ok s ()
  | x :: xs =>
    if x.tag then
      (s.escapes p x.val d).andThen (fun s esc =>
        if esc then
          if s.me.autopub then
            (s.onMe (fun c => { c with implicitPubs := c.implicitPubs ++ [(x.val.toNat, d.pubScope)] })).escapeAll p d tval xs
          else .fault s Cause.refEscape tval x.val
        else s.escapeAll p d tval xs)
    else s.escapeAll p d tval xs

end Sys2Proof.Machine
end

