-- ==== Sys2Proof/Machine/Operands.lean ====
section
/-!
DEFINITION. Operand forms: immediates, the register forms of the scalar families, effective addresses of
the memory forms (R56, R59, R147), and register ranges.
-/

namespace Sys2Proof.Machine

/-- What an instruction's meaning answers. -/
abbrev Out : Type := Host.Outcome State Fault Refusal

-- Scalar register forms (R121, R122)

/-- A short result from two registers. -/
def State.shortRR (s : State) (d a b : RegNo) (f : Word → Word → Word) : Out :=
  .next (s.shortG d (f (s.me.rg a) (s.me.rg b)))
/-- A long result from two registers. -/
def State.longRR (s : State) (d a b : RegNo) (f : Word → Word → Word) : Out :=
  .next (s.longG d (f (s.me.rg a) (s.me.rg b)))
/-- A short result from one register. -/
def State.shortR (s : State) (d a : RegNo) (f : Word → Word) : Out := .next (s.shortG d (f (s.me.rg a)))

/-- A short predicate result; a float comparison's flags are part of it (R139), and a write to p0 is discarded
with them (R122). -/
def State.shortP (s : State) (d : PredNo) (b : Bool) (flags : Nat) : State :=
  if d = 0 then s else s.short (fun r => (r.setP d.toNat b).apply (flagWrite flags))

/-- How a compare combines its outcome with the predicate as it stands at issue (R134). -/
def combine (k : Combine) (old t : Bool) : Bool :=
  match k with
  | .set => t
  | .and => old && t
  | .or => old || t

/-- An integer condition (R134). -/
def evalInt (c : IntCond) (a b : Word) : Bool :=
  match c with
  | .eq => a == b
  | .ne => a != b
  | .lt => decide (a.toInt < b.toInt)
  | .ge => decide (b.toInt ≤ a.toInt)
  | .ltu => decide (a.toNat < b.toNat)
  | .geu => decide (b.toNat ≤ a.toNat)

/-- The sign extension of the low 32 bits (R125). -/
def sx32 (x : Word) : Word := (x.setWidth 32).signExtend 64

-- Scalar float forms (R140)

/-- A .s operand: bits [31:0] as FP32, subnormals read as zero under ftz. -/
def State.opS (s : State) (r : RegNo) : FVal := fp32.read (s.fenv 0).ftz ((s.me.rg r).toNat % 2 ^ 32)
/-- A .d operand: all 64 bits as FP64. -/
def State.opD (s : State) (r : RegNo) : FVal := fp64.read (s.fenv 0).ftz (s.me.rg r).toNat

-- Addresses

/-- The effective address of a MEM form: base plus the scaled signed 9-bit offset (R147). -/
def effAddr (base : Word) (off : BitVec 9) (scale : Nat) : Word :=
  base + off.signExtend 64 * BitVec.ofNat 64 scale

/-- The registers r, r+1, …, n of them. -/
def regRange (r : RegNo) (n : Nat) : List Nat := (List.range n).map (fun i => r.toNat + i)

end Sys2Proof.Machine
end

