-- ==== Sys2Proof/Machine/Mem.lean ====
section
/-!
DEFINITION. Loads, stores, references, ordered accesses and mkobj (R147..R162), atomics (R165..R168), fences and
publishing (R169, R170), and cflush (R174).
-/

namespace Sys2Proof.Machine

-- Loads (R154, R157)

/-- The issuing word is its block's last instruction (R49). -/
def Context.atLast (c : Context) : Bool :=
  let n := c.words.length
  if wordTop (c.words.getD (n - 2) 0) then c.cur + 1 == n else c.cur + 2 == n
/-- The exposed-last flag of the current block (R50). -/
def Context.headerX (c : Context) : Bool := (c.words.getD 0 0).getLsbD 17

/-- An exposed access finds after its commit point that its word can no longer be read: a record is posted, and
the context sleeps until it is resolved (R178). The record of a poisoned word names its array (R414). -/
def State.accessLost (s : State) (cause pa : Nat) (va : Word) : State :=
  let cause := if cause / 64 = 1 ∧ cause % 64 / 8 = 6 then 0x140 + (s.arrayOf pa).1 else cause
  (s.onMe (fun c => { c with phase := .wait (.fault 0), lost := some .exit })).postLost s.act.core s.act.ctx cause va

/-- The access of an exposed instruction as it is performed: the one that its block's checks found, which waits for an engine
that owns its words since and for writes that the port holds (R177, R334), and fails only when a word that it reads has
become uncorrectable (R178); checked anew where the instruction comes back from a resolution (R412). -/
def State.heldAccess (s : State) (q : AccessReq) : Chk Access :=
  match s.me.acc with
  | none => s.checkAccess s.party q
  | some a =>
    if s.ownedByEngine s.party.asid (a.va.toNat % 2 ^ 57) q.size || s.convertingAt a.pa then .wait
    else if q.need == .write then .ok s a
    else
      let o := s.openWords s.act.core s.act.ctx (wordsOf a.pa q.size)
      if !o.2 then .wait
      else if q.reads then
        let c := o.1.checkData s.party a.pa q.size
        match c.2 with
        | none => .ok c.1 a
        | some 0 => .fault c.1 (memCause .poison q.origin) q.va 0
        | some _ => .fault c.1 Cause.hallmarkUncorrectable q.va 0
      else .ok o.1 a

/-- An exposed access is performed; a fault that was not there before the commit point is that of R178. -/
def State.performAccess (s : State) (q : AccessReq) (k : State → Access → Perf) : Perf :=
  match s.heldAccess q with
  | .ok s' a => k s' a
  | .fault s' cause va _ =>
    match s.me.acc, s'.translate s.party.ptb s.party.asid s.party.super q.need q.va with
    | some a, _ => .done (s'.accessLost cause a.pa va)
    | none, .ok l => .done (s'.accessLost cause l.pa va)
    | none, .error _ => .done (s'.accessLost cause 0 va)
  | .wait => .later s

/-- The checks of an exposed access: it is kept for its performance. -/
def State.accessOk (s : State) (q : AccessReq) : Chk Unit :=
  (s.checkAccess s.party q).andThen (fun s a => .ok (s.onMe (fun c => { c with acc := some a })) ())

/-- A load (R154): its value is a long result. A load from a side-effect page is exposed (R52, R157): it is
performed once, after its block's commit point, and stands last in a block with x set; a load from another page that stands
there is no exposed instruction (R24). fin makes the writes of the result from bytes and tag. -/
def State.loadInstr (s : State) (i : Instr) (q : AccessReq) (fin : Access → List Byte → Bool → List RegWrite) : State :=
  let now (s : State) : Perf := s.performAccess q (fun s a =>
    let r := s.loadSpan s.act.core s.act.ctx a q.size
    .done (r.1.result (fin a r.2.1 r.2.2)))
  if s.me.phase = .exposed i then s.exposed i (fun s => .ok s ()) now
  else s.checked (s.checkAccess s.party q) (fun s a =>
    if a.sideEffect != (s.me.atLast && s.me.headerX) then s.trapInstr Cause.blkExposed
    else if a.sideEffect then s.exposed i (fun s => .ok (s.onMe (fun c => { c with acc := some a })) ()) now
    else
      let r := s.loadSpan s.act.core s.act.ctx a q.size
      r.1.long (fin a r.2.1 r.2.2))

/-- Bytes of a load kind (R154). -/
def loadSize : LoadKind → Nat
  | .b => 1 | .bz => 1 | .h => 2 | .hz => 2 | .w => 4 | .wz => 4 | .d => 8
/-- The value that a load kind writes (R154). -/
def loadValue (z : LoadKind) (bs : List Byte) : Word :=
  let x := BitVec.ofNat 64 (valueLE bs)
  match z with
  | .b => sextLow 8 x
  | .h => sextLow 16 x
  | .w => sextLow 32 x
  | _ => x

/-- A load's request. -/
def loadReq (base : Tagged) (va : Word) (size : Nat) : AccessReq :=
  { va := va, size := size, need := .read, origin := .load, base := base, reads := true, align := size }

/-- ld (R154). -/
def execLd (z : LoadKind) (d a : RegNo) (off : BitVec 9) (s : State) : Out :=
  let n := loadSize z
  let base := s.me.rgt a
  .next (s.loadInstr (.ld z d a off) (loadReq base (effAddr base.val off n) n)
    (fun _ bs _ => [.g d.toNat { val := loadValue z bs, tag := false }]))
/-- ldx (R154). -/
def execLdx (z : LoadKind) (d a b : RegNo) (sh : BitVec 3) (s : State) : Out :=
  let n := loadSize z
  let base := s.me.rgt a
  .next (s.loadInstr (.ldx z d a b sh) (loadReq base (base.val + (s.me.rg b <<< sh.toNat)) n)
    (fun _ bs _ => [.g d.toNat { val := loadValue z bs, tag := false }]))

-- Stores (R155, R156)

/-- A narrow store into a poisoned word raises POISON/store (R155). -/
def State.narrowOk (s : State) (q : AccessReq) (pa : Nat) : Chk Unit :=
  if q.size < 8 ∧ (wordsOf pa q.size).any (s.poisonedFor s.party) = true then
    .fault (s.detectAll (wordsOf pa q.size)) (memCause .poison .store) q.va (if q.base.tag then q.base.val else 0)
  else .ok s ()

/-- A store into the store buffer: a narrow store into a poisoned word raises POISON/store (R155); a 33rd entry
traps with BLK_STORES (R156). more completes the request. -/
def State.storeInstr (s : State) (q : AccessReq) (bs : List Byte) (tag : Bool) (more : State → StoreReq → StoreReq) :
    State :=
  s.checked (s.checkAccess s.party q) (fun s a =>
    s.checked (if bs.length < 8 then s.narrowOk q a.pa else .ok s ()) (fun s _ =>
    if 32 ≤ s.me.stores.length then s.trapInstr Cause.blkStores
    else
      let st : StoreReq := { writes := wordWrites a.pa bs tag, va := q.va.toNat % 2 ^ 57, asid := s.party.asid, obj := a.obj
                             glob := a.entry.getLsbD 6 }
      s.onMe (fun c => { c with stores := c.stores ++ [more s st] })))

/-- A store's request. -/
def storeReq (base : Tagged) (va : Word) (size : Nat) : AccessReq :=
  { va := va, size := size, need := .write, origin := .store, base := base, reads := false, align := size }

/-- Bytes of a store kind (R155). -/
def storeSize : StoreKind → Nat
  | .b => 1 | .h => 2 | .w => 4 | .d => 8

/-- st (R155): the low bytes of d. -/
def execSt (z : StoreKind) (d a : RegNo) (off : BitVec 9) (s : State) : Out :=
  let n := storeSize z
  let base := s.me.rgt a
  .next (s.storeInstr (storeReq base (effAddr base.val off n) n) (bytesLE n (s.me.rg d).toNat) false (fun _ st => st))
/-- stx (R155). -/
def execStx (z : StoreKind) (d a b : RegNo) (sh : BitVec 3) (s : State) : Out :=
  let n := storeSize z
  let base := s.me.rgt a
  .next (s.storeInstr (storeReq base (base.val + (s.me.rg b <<< sh.toNat)) n) (bytesLE n (s.me.rg d).toNat) false
    (fun _ st => st))

-- Ordered accesses (R160)

/-- The number of a scope (R9). -/
def scopeNo : Scope → Nat
  | .core => 0 | .herd => 1 | .device => 2 | .system => 3
/-- The scope of an ordering field, 0 for relaxed (R161, R162, R165). -/
def ordNo : Ord → Nat
  | .rlx => 0 | .herd => 1 | .dev => 2 | .sys => 3
/-- Bytes of lda and stl. -/
def wordSize : WordKind → Nat
  | .w => 4 | .d => 8

/-- lda (R160): binds its value, then acquires. -/
def execLda (z : WordKind) (sc : Scope) (d a : RegNo) (off : BitVec 9) (s : State) : Out :=
  let n := wordSize z
  let base := s.me.rgt a
  let q := loadReq base (effAddr base.val off n) n
  .next (s.exposed (.lda z sc d a off) (fun s => s.accessOk q) (fun s => s.performAccess q (fun s acc =>
    let r := s.loadSpan s.act.core s.act.ctx acc n
    let x := BitVec.ofNat 64 (valueLE r.2.1)
    .done ((r.1.acquire s.act.core (scopeNo sc)).resultG d (if z = .w then sextLow 32 x else x)))))

/-- stl (R160): a release store; it waits at the port for the writes before it, and later stores wait behind it. -/
def execStl (z : WordKind) (sc : Scope) (d a : RegNo) (off : BitVec 9) (s : State) : Out :=
  let n := wordSize z
  let base := s.me.rgt a
  let q := storeReq base (effAddr base.val off n) n
  .next (s.exposed (.stl z sc d a off)
    (fun s => (s.checkAccess s.party q).andThen (fun s acc => (s.narrowOk q acc.pa).andThen (fun s _ =>
      .ok (s.onMe (fun c => { c with acc := some acc })) ())))
    (fun s => s.performAccess q (fun s acc =>
      let bs := bytesLE n (s.me.rg d).toNat
      .done (s.portStore s.act.core s.act.ctx
        { writes := wordWrites acc.pa bs false, va := q.va.toNat % 2 ^ 57, asid := s.party.asid, obj := acc.obj, rel := scopeNo sc
          exposed := true } none))))

-- References (R161..R164)

/-- ldref (R161): the word with its tag; a FLAT or TENSOR object's words come with a clear tag (R153). The acquiring
forms park the context until the value has returned. -/
def execLdref (o : Ord) (d a : RegNo) (off : BitVec 9) (s : State) : Out :=
  let base := s.me.rgt a
  let q : AccessReq := { loadReq base (effAddr base.val off 8) 8 with noSe := true }
  .next (s.checked (s.checkAccess s.party q) (fun s acc =>
    let r := s.loadSpan s.act.core s.act.ctx acc 8
    let mixed : Bool := match acc.hdr with
      | some h => field h.2.toNat 29 28 == 1
      | none => true
    let s := (if o = .rlx then r.1 else r.1.acquire s.act.core (ordNo o)).long
      [.g d.toNat { val := BitVec.ofNat 64 (valueLE r.2.1), tag := r.2.2 && mixed }]
    if o = .rlx then s else s.onMe (fun c => { c with parked := true })))

/-- Where a checked access stores, for the escape rule (R163). -/
def State.destOf (s : State) (acc : Access) : Dest :=
  match acc.hdr with
  | some h =>
    let st := field h.2.toNat 32 30
    if st = 0 then .privateOf (field h.2.toNat 48 33) else .scope st
  | none =>
    match s.region acc.pa with
    | .remote _ _ => .scope 3
    | .host _ => .scope 3
    | _ => .scope 2

/-- stref (R162..R164); a tagged value to a place without tag storage raises TAG/store (R361). -/
def execStref (o : Ord) (d a : RegNo) (off : BitVec 9) (s : State) : Out :=
  let base := s.me.rgt a
  let x := s.me.rgt d
  let va := effAddr base.val off 8
  let q : AccessReq := { storeReq base va 8 with noSe := true }
  let put (s : State) (pub : Option (Nat × Nat)) : State :=
    s.storeInstr q (bytesLE 8 x.val.toNat) x.tag (fun _ st => { st with rel := ordNo o, pub := pub })
  let h : Word := if base.tag then base.val else 0
  .next (s.checked (s.checkAccess s.party q) (fun s acc =>
    let flat : Bool := match acc.hdr with
      | some w => field w.2.toNat 29 28 != 1 || !s.hasTags acc.pa
      | none => !s.hasTags acc.pa
    if !x.tag then put s none
    else if flat then s.trapMe (memCause .tag .store) va h
    else s.checked (s.escapes s.party x.val (s.destOf acc)) (fun s esc =>
      if !esc then put s none
      else if s.me.autopub then put s (some (x.val.toNat, (s.destOf acc).pubScope))
      else s.trapMe Cause.refEscape va x.val)))

-- mkobj (R153)

/-- The pages of a virtual span, by their first bytes within the span. -/
def pagesOf (va n : Nat) : List Nat :=
  if n = 0 then []
  else va :: (List.range ((va + n - 1) / 65536 - va / 65536)).map (fun i => 65536 * (va / 65536 + 1 + i))

/-- The checks of every page of a span that an access needs. DESIGN CHOICE (log entry 46): a fault names the first byte of
the span on the page that fails, on later pages too. -/
def State.checkPages (s : State) (q : AccessReq) : List Nat → Chk Unit
  | [] => .ok s ()
  | va :: rest =>
    (s.checkSpan s.party { q with va := BitVec.ofNat 64 va, size := 8 } 0).andThen (fun s _ => s.checkPages q rest)

/-- The physical words of n words from a virtual address. -/
def State.wordsAt (s : State) (va n : Nat) : List Nat :=
  ((pagesOf va (8 * n)).map (fun p =>
    match s.translate s.party.ptb s.party.asid s.party.super .write (BitVec.ofNat 64 p) with
    | .ok l => (List.range ((min (va + 8 * n) ((p / 65536 + 1) * 65536) - p) / 8)).map (fun i => l.pa / 8 + i)
    | .error _ => [])).flatten

/-- The ranges of n physical words from a virtual address, page by page: first word and count. -/
def State.rangesAt (s : State) (va n : Nat) : List (Nat × Nat) :=
  (pagesOf va (8 * n)).filterMap (fun p =>
    match s.translate s.party.ptb s.party.asid s.party.super .write (BitVec.ofNat 64 p) with
    | .ok l => some (l.pa / 8, (min (va + 8 * n) ((p / 65536 + 1) * 65536) - p) / 8)
    | .error _ => none)

/-- The number of an object kind (R152). -/
def objKindNo : ObjKind → Nat
  | .flat => 0 | .mixed => 1 | .tensor => 2

/-- mkobj (R153): the header takes one store-buffer entry; a MIXED body's tags are cleared behind it. -/
def execMkobj (k : ObjKind) (d a b : RegNo) (s : State) : Out :=
  let x := s.me.rgt a
  let n := (s.me.rg b).toNat
  let q := storeReq { val := x.val, tag := false } x.val 8
  .next (
    if x.tag then s.trapMe (memCause .tag .store) x.val x.val
    else if x.val.toNat % 8 ≠ 0 then s.trapMe (memCause .align .store) x.val 0
    else if n = 0 ∨ 2 ^ 28 ≤ n then s.trapMe (memCause .bounds .store) x.val 0
    else s.checked (s.checkPages q (pagesOf x.val.toNat (8 * (n + 1)))) (fun s _ =>
      let hdr := n + 2 ^ 28 * objKindNo k + 2 ^ 33 * ownerOf s.act.core s.act.ctx
      let clear := if k = .mixed then s.wordsAt (x.val.toNat + 8) n else []
      let s := s.storeInstr q (bytesLE 8 hdr) false
        (fun s st => { st with clear := clear, body := s.rangesAt (x.val.toNat + 8) n })
      if s.me.phase = .body then s.long [.g d.toNat { val := x.val, tag := true }] else s))

-- Atomics (R165..R168)

/-- An atomic's request (R168). -/
def atomicReq (base : Tagged) (size : Nat) : AccessReq :=
  { va := base.val, size := size, need := .both, origin := .atomic, base := base, noSe := true, reads := true
    noTag := true, align := size }

/-- The word of a reference access is one of a PRIVATE object of the issuer as the atomic is performed (R168). -/
def State.atomicPriv (s : State) (acc : Access) : Bool :=
  match acc.hdr with
  | some _ =>
    let h := (s.portPeek s.act.core (acc.hpa / 8)).val.toNat
    field h 32 30 == 0 && field h 48 33 == ownerOf s.act.core s.act.ctx
  | none => false

/-- The port holds writes of a context: its flushes and atomics come behind them (R333). -/
def State.heldAny (s : State) (core ctx : Nat) : Bool := (s.core core).wq.any (fun g => g.atPort && g.ctx == ctx)

/-- A read-modify-write of n bytes at the point of atomicity, with release and acquire at a scope: f answers the new
value or none; fin the result (R165, R167, R168). The context's writes that the port holds go first. -/
def State.atomic (s : State) (i : Instr) (d : RegNo) (q : AccessReq) (sc : Nat) (f : Nat → Option Nat)
    (fin : Nat → Word) : State :=
  s.exposed i (fun s => s.accessOk q) (fun s =>
    let core := s.act.core
    let s0 := s.pushWrites core s.act.ctx 0
    let r := s0.release core s.act.ctx sc
    if !r.2 || r.1.heldAny core s.act.ctx then .later r.1
    else r.1.performAccess q (fun s acc =>
      let o := acc.pa % 8
      let m := s.rmw core s.act.ctx (acc.pa / 8) (s.atomicPriv acc) sc
        (fun old => (f (subWord old o q.size)).map (fun v => placeWord v o q.size))
      let s := if sc = 0 then m.1 else m.1.acquire core sc
      .done (s.resultG d (fin (subWord m.2 o q.size)))))

/-- An amo with d = g0 and ordering .rlx (R165): it goes to the port, and the context continues. -/
def State.amoPost (s : State) (i : Instr) (op : AmoOp) (q : AccessReq) (b : Nat) : State :=
  s.exposed i (fun s => s.accessOk q) (fun s =>
    match s.me.acc with
    | none => s.performAccess q (fun s acc => .done (post s acc))
    | some acc => .done (post s acc))
where
  post (s : State) (acc : Access) : State :=
    let o := acc.pa % 8
    s.portEnter s.act.core
      { id := 0, ctx := s.act.ctx, write := { word := acc.pa / 8, mask := (placeWord 0 o q.size).2, val := 0 }, obj := acc.obj
        va := acc.va.toNat % 2 ^ 57, asid := s.party.asid, amo := some (op, q.size, b), reads := true }

/-- amo.w (R165): 32 bits; the old value sign-extended, zero-extended for the float operations. -/
def execAmoW (op : AmoOp) (o : Ord) (d a b : RegNo) (s : State) : Out :=
  let y := (s.me.rg b).toNat % 2 ^ 32
  .next (if d = 0 ∧ o = .rlx then s.amoPost (.amoW op o d a b) op (atomicReq (s.me.rgt a) 4) y
    else s.atomic (.amoW op o d a b) d (atomicReq (s.me.rgt a) 4) (ordNo o) (fun old => some (amoValue op 32 old y))
    (fun old => if op = .faddS ∨ op = .faddBf2 then BitVec.ofNat 64 old else sextLow 32 (BitVec.ofNat 64 old)))
/-- amo.d (R165): 64 bits. -/
def execAmoD (op : AmoOp) (o : Ord) (d a b : RegNo) (s : State) : Out :=
  let y := (s.me.rg b).toNat
  .next (if d = 0 ∧ o = .rlx then s.amoPost (.amoD op o d a b) op (atomicReq (s.me.rgt a) 8) y
    else s.atomic (.amoD op o d a b) d (atomicReq (s.me.rgt a) 8) (ordNo o) (fun old => some (amoValue op 64 old y))
    (fun old => BitVec.ofNat 64 old))
/-- cas.w (R167): acquires and releases at DEVICE. -/
def execCasW (d a b c : RegNo) (s : State) : Out :=
  let x := (s.me.rg b).toNat % 2 ^ 32
  let y := (s.me.rg c).toNat % 2 ^ 32
  .next (s.atomic (.casW d a b c) d (atomicReq (s.me.rgt a) 4) 2 (fun old => if old = x then some y else none)
    (fun old => sextLow 32 (BitVec.ofNat 64 old)))
/-- cas.d (R167). -/
def execCasD (d a b c : RegNo) (s : State) : Out :=
  let x := (s.me.rg b).toNat
  let y := (s.me.rg c).toNat
  .next (s.atomic (.casD d a b c) d (atomicReq (s.me.rgt a) 8) 2 (fun old => if old = x then some y else none)
    (fun old => BitVec.ofNat 64 old))

-- Fences and publishing (R169..R171)

/-- An exposed instruction without checks. -/
def noChecks (s : State) : Chk Unit := .ok s ()

/-- fence.full (R169): release, then acquire, at the scope. -/
def execFenceFull (sc : Scope) (s : State) : Out :=
  .next (s.exposed (.fenceFull sc) noChecks (fun s =>
    let r := s.release s.act.core s.act.ctx (scopeNo sc)
    if r.2 then .done (r.1.acquire s.act.core (scopeNo sc)) else .later r.1))
/-- fence.rel (R169): later stores leave the port only after it; the context continues. -/
def execFenceRel (sc : Scope) (s : State) : Out :=
  .next (s.exposed (.fenceRel sc) noChecks (fun s =>
    if sc = .core then .done s
    else .done (s.portEnter s.act.core { id := 0, ctx := s.act.ctx, write := { word := fenceWord, mask := 0, val := 0 }, rel := scopeNo sc })))
/-- fence.acq (R169): acquire at the scope. -/
def execFenceAcq (sc : Scope) (s : State) : Out :=
  .next (s.exposed (.fenceAcq sc) noChecks (fun s => .done (s.acquire s.act.core (scopeNo sc))))

/-- An engine command of a thread has not completed (R169, R210). -/
def State.commandsOf (s : State) (handle : Nat) : Bool :=
  let mine (x : Command) : Bool := x.handle == handle
  s.cores.any (fun c => c.2.copq.any mine || c.2.engine.any mine) ||
  (match mfind s.launch.threads handle with
   | some t => !t.cmds.isEmpty
   | none => false) ||
  s.fabric.mxes.any (fun m => m.2.queue.any mine) || s.dev.xchgs.any (fun x => mine x.cmd) || s.dev.finishing.any (fun f => mine f.cmd)
/-- fence.eng (R169): every command that the context issued has completed. -/
def execFenceEng (sc : Scope) (s : State) : Out :=
  .next (s.exposed (.fenceEng sc) noChecks (fun s => if s.commandsOf s.me.handle then .later s else .done s))

/-- pub (R170): performed when the walk is queued; 16 queued walks stall the context (R379). -/
def execPub (sc : Scope) (a : RegNo) (s : State) : Out :=
  let x := s.me.rgt a
  .next (s.exposed (.pub sc a)
    (fun s => if x.tag then .ok s () else .fault s (memCause .tag .walker) x.val 0)
    (fun s =>
      if 16 ≤ (s.herd (herdOfCore s.act.core)).walks.length then .later s
      else .done (s.startWalk s.act.core s.act.ctx (scopeNo sc) x.val.toNat).1))

-- cflush (R174)

/-- The span of a cflush: its first byte, and the base register for the checks. -/
def flushStart (x : Tagged) : Word := if x.tag then x.val + 8 else x.val

/-- The leaf of a page of a flushed range, whatever it permits; none where the page is not mapped (R174). -/
def State.flushLeaf (s : State) (va : Nat) : Option (Word × Nat) :=
  if canonical (BitVec.ofNat 64 va) then s.leafOf s.party.ptb s.party.asid (va % 2 ^ 57) else none

/-- Checks 5 and 6 of the pages of a flushed range (R151): mapped ones are the issuer's and do not migrate. A flush neither
reads nor writes through a page, and needs neither permission. -/
def State.flushPages (s : State) (h : Word) : List Nat → Chk Unit
  | [] => .ok s ()
  | p :: ps =>
    match s.flushLeaf p with
    | none => s.flushPages h ps
    | some (e, _) =>
      if !s.party.super && !e.getLsbD 5 then .fault s (memCause .protection .store) (BitVec.ofNat 64 p) h
      else if e.getLsbD 12 then .fault s (memCause .tier .store) (BitVec.ofNat 64 p) h
      else s.flushPages h ps

/-- The checks of a cflush (R147, R174). -/
def State.flushOk (s : State) (x : Tagged) (n : Nat) : Chk Unit :=
  let va := flushStart x
  let h : Word := if x.tag then x.val else 0
  if n = 0 then .ok s ()
  else if !canonical va then .fault s (memCause .notMapped .store) va h
  else if 2 ^ 32 < n then .fault s (memCause .bounds .store) va h
  else
    let pages (s : State) : Chk Unit := s.flushPages h (pagesOf va.toNat n)
    if x.tag then
      (s.readHeader s.party x.val .store).andThen (fun s q =>
        match admits q.1 s.act.core s.act.ctx false (mfind s.mem.marks q.2).isSome with
        | .badTag => .fault s (memCause .tag .store) va h
        | .deny => .fault s (memCause .privateAccess .store) va h
        | .wait => .wait
        | .ok => if inBody x.val q.1 va n then pages s else .fault s (memCause .bounds .store) va h)
    else pages s

/-- The physical byte ranges of a virtual span; pages that are not mapped are skipped (R174). -/
def State.rangesOf (s : State) (va n : Nat) : List (Nat × Nat) :=
  (pagesOf va n).filterMap (fun p => (s.flushLeaf p).map (fun l =>
    (s.localPa (field l.1.toNat 51 16 * 65536 + p % 2 ^ pageBits l.2), min (va + n) ((p / 65536 + 1) * 65536) - p)))

/-- A word touches one of the ranges. DESIGN CHOICE (log entry 62): a word that lies only partly in the byte range of a cflush or
cflush.inv is taken whole. -/
def inRanges (rs : List (Nat × Nat)) (w : Nat) : Bool :=
  rs.any (fun r => decide (r.1 < 8 * w + 8) && decide (8 * w < r.1 + r.2))

/-- cflush (R174). -/
def execCflush (a b : RegNo) (s : State) : Out :=
  let x := s.me.rgt a
  let n := (s.me.rg b).toNat
  .next (s.exposed (.cflush a b) (fun s => s.flushOk x n) (fun s =>
    let s := s.pushWrites s.act.core s.act.ctx 0
    if s.heldAny s.act.core s.act.ctx then .later s
    else
      let rs := s.rangesOf (flushStart x).toNat n
      let own := ownerOf s.act.core s.act.ctx
      let ws := (s.core s.act.core).l1.filter (fun e => e.2.dirty == some own && inRanges rs e.1)
      .done (ws.foldl (fun s e => s.writeBack s.act.core e.1) s)))
/-- cflush.inv (R174): cached copies in the range are discarded, dirty ones of the context's private objects too. -/
def execCflushInv (a b : RegNo) (s : State) : Out :=
  let x := s.me.rgt a
  let n := (s.me.rg b).toNat
  .next (s.exposed (.cflushInv a b) (fun s => s.flushOk x n) (fun s =>
    let s := s.pushWrites s.act.core s.act.ctx 0
    if s.heldAny s.act.core s.act.ctx then .later s
    else
      let rs := s.rangesOf (flushStart x).toNat n
      let own := ownerOf s.act.core s.act.ctx
      .done (s.onCore s.act.core (fun c => { c with
        l1 := c.l1.filter (fun e => !(inRanges rs e.1 && (e.2.dirty.isNone || e.2.dirty == some own))) }))))

end Sys2Proof.Machine
end

