-- ==== Sys2Proof/Machine/Schedule.lean ====
section
/-!
DEFINITION. What an agent does in its next turn: which step of the part a context, an element, a router or a
sequencer takes (R23, R40..R47, R277, R280, R311), and the turn that is taken when the agenda names none.
-/

namespace Sys2Proof.Machine

/-- What a context does in its turn. -/
inductive CtxAct where
  | idle
  /-- a step of the part other than the issue of a word, with its operands -/
  | run (args : List Nat) (i : Instr)
  /-- the end of a wait is tested -/
  | retest
  /-- a lone word issues (R48) -/
  | word (i : Instr)
  /-- a pair issues: its M word and its A word (R47) -/
  | pair (m a : Instr)
  /-- the block buffer holds a word that no fetch passes -/
  | bad (w : BitVec 32)
  deriving DecidableEq, Repr

/-- The instruction is a vector word of A class: it enters the VU queue (R45). -/
def isVector (w : BitVec 32) : Bool := wordClass w && (decide (0x20 ≤ (Body.ofWord w).op.toNat) && decide ((Body.ofWord w).op.toNat ≤ 0x2F))

/-- A result that a context waits for returns: a load's, or a vector instruction's (R42, R222). -/
def Context.returnAct (c : Context) : CtxAct := if c.outst.isEmpty then .run [] .vuIssue else .run [0] .loadReturn

/-- The next act of a context (R23, R26, R42, R47, R48): none while its ring state is locked for a save (R421), and no
fetch while a saved command has not entered the coprocessor queue (R248). A context that waits for the record of an access which
it left at its port sleeps (R178). -/
def State.ctxAct (s : State) (core ctx : Nat) : CtxAct :=
  let c := s.ctxOf core ctx
  let entering := match mfind s.launch.threads c.handle with
    | some t => !t.cmds.isEmpty
    | none => false
  if !c.live || c.locked || c.stall.isSome then .idle
  else match c.phase with
    | .exposed i => .run [] i
    | .wait _ => .retest
    | .fetch => if c.switchReq && c.pendFault.isNone && c.qntInf.isNone then .run [] .switchOut
      else if entering then .idle else .run [] .blockFetch
    | .body =>
      let pending := s.resultsPending core ctx
      if (s.mem.errOf 0x0A core (64 * ctx + c.pos / 2)).isSome then .retest
      else if c.switchReq then .run [] .switchOut
      else if c.interrupted s.time then .run [] .timerExpiry
      else if c.exit.isSome || decide (c.words.length ≤ c.pos) then
        if pending then c.returnAct else .run [] .blockCommit
      else if (c.parked || c.aDone) && pending then c.returnAct
      else
        let w0 := c.words.getD c.pos 0
        let w1 := c.words.getD (c.pos + 1) 0
        let paired := c.pos % 2 == 0 && !wordTop w0
        let full := decide (8 ≤ (s.core core).vuq.length) && !c.aDone
        if full && (isVector w0 || (c.pos % 2 == 0 && isVector w1)) then .run [] .vuIssue
        else if paired then
          match decodeWord w0, decodeWord w1 with
          | .ok m, .ok a => .pair m a
          | .error _, _ => .bad w0
          | _, .error _ => .bad w1
        else match decodeWord w0 with
          | .ok i => .word i
          | .error _ => .bad w0

/-- The context as its word, or pair of words, issues: the position moves past it, a switch marker or the end of
the block parks it (R42), and the words of a pair read the registers from before it (R47). -/
def Context.issue (c : Context) (now : Nat) (paired : Bool) : Context :=
  let last := if paired then c.pos + 1 else c.pos
  let ends := last % 2 == 1 && (wordTop (c.words.getD last 0) || decide (c.words.length ≤ last + 1))
  { c with cur := c.pos, pos := last + 1, parked := ends
           lastIssue := if c.split && c.pos % 2 == 1 then c.lastIssue else some now
           split := !paired && c.pos % 2 == 0, aDone := false
           snap := if paired then some (if c.aDone then c.view else c.work) else none }

/-- The state as a party acts. -/
def State.actAs (s : State) (core ctx site : Nat) (args : List Nat) : State :=
  { s with act := { core := core, ctx := ctx, site := site, args := args } }

/-- The registers that the words of a bundle name are read as they issue (R362). -/
def State.readNamed (s : State) (core ctx : Nat) (paired : Bool) : State :=
  match s.mem.errs with
  | [] => s
  | _ =>
    let c := s.ctxOf core ctx
    let ws := c.words.getD c.pos 0 :: (if paired then [c.words.getD (c.pos + 1) 0] else [])
    (ws.flatMap (fun w => namedG (wordClass w) (Body.ofWord w))).foldl (fun s r => s.readReg core ctx r) s

/-- A bundle with flipped bits is read from the block buffer (R361, R362): an uncorrectable one discards the block, which is fetched
again. DESIGN CHOICE (log entry 65): the manual states no other use of it. -/
def State.readBuffer (s : State) (core ctx : Nat) : State :=
  let c := s.ctxOf core ctx
  let r := s.readArray 0x0A core (64 * ctx + c.pos / 2) 0
  match r.2 with
  | some _ => r.1.onCtx core ctx (fun c => c.discard.fetchFrom c.addr)
  | none => r.1

/-- The state as a context's word issues. -/
def State.issueAt (s : State) (core ctx : Nat) (paired : Bool) : State :=
  let s := s.readNamed core ctx paired
  let s := (s.actAs core ctx 0 []).onCtx core ctx (fun c => c.issue s.time paired)
  s.onCore core (fun c => { c with lastCtx := ctx, issuedAt := some s.time })

/-- The pair's A word has issued, and its M word has to wait: the M word alone issues again, with the registers from before
the pair (R47). -/
def State.waitPair (s s0 : State) : State := s.onMe (fun c => { c with aDone := true, snap := s0.me.snap, parked := false })

/-- The A word of a pair is the last word position of the bundle (R55). -/
def State.onAWord (s : State) : State := s.onMe (fun c => { c with cur := c.cur + 1 })
/-- Back at the M word of the pair. -/
def State.onMWord (s : State) : State := s.onMe (fun c => { c with cur := c.cur - 1 })

/-- Members of the gang that a context issues in, by core and context; itself alone when it is in none (R192). -/
def State.gangOf (s : State) (core ctx : Nat) : List (Nat × Nat) :=
  match (s.ctxOf core ctx).gang with
  | none => [(core, ctx)]
  | some r =>
    (s.cores.map (fun c => (c.2.ctxs.filter (fun k => k.2.live && k.2.gang == some r)).map (fun k => (c.1, k.1)))).flatten

/-- The members that take part in a turn of a coupled context (R192). Results return, blocks commit and exposed instructions
are performed member by member; members that stand at words issue the same bundle together, and one whose bundle had to wait
issues it again before the others go on; the next block is fetched when every member has committed, and members at unlike
addresses are uncoupled. -/
def State.gangMembers (s : State) (core ctx : Nat) : State × List (Nat × Nat) :=
  match s.gangOf core ctx with
  | [] => (s, [(core, ctx)])
  | [m] => (s, [m])
  | m0 :: ms =>
    let all := m0 :: ms
    let issuing := all.filter (fun m => match s.ctxAct m.1 m.2 with
      | .word _ => true
      | .pair _ _ => true
      | _ => false)
    let waiting := all.filter (fun m => (s.ctxOf m.1 m.2).phase == .fetch)
    match all.find? (fun m => !issuing.contains m && !waiting.contains m) with
    | some m => (s, [if issuing.contains (core, ctx) || waiting.contains (core, ctx) then m else (core, ctx)])
    | none =>
      if !issuing.isEmpty then
        let behind := (issuing.map (fun m => (s.ctxOf m.1 m.2).pos)).foldl min (s.ctxOf (issuing.headD m0).1 (issuing.headD m0).2).pos
        (s, issuing.filter (fun m => (s.ctxOf m.1 m.2).pos == behind))
      else if all.all (fun m => (s.ctxOf m.1 m.2).addr == (s.ctxOf m0.1 m0.2).addr) then (s, all)
      else (all.foldl (fun s m => s.onCtx m.1 m.2 (fun c => { c with gang := none })) s, [(core, ctx)])

/-- The slot of a context is assigned to its thread's queue; reserved escape contexts always issue, and so do control
cores (R40, R391, R452). -/
def State.slotOk (s : State) (core ctx : Nat) : Bool :=
  let c := s.core core
  let x := s.ctxOf core ctx
  Config.controlCore core || (x.sr 0x020).getLsbD 5 ||
  match mfind s.launch.live (launchOfHandle x.handle) with
  | some l => (mget {} c.slots ctx).asg == some l.queue
  | none => false

/-- The four-cycle spacing of issue (R41). -/
def Context.eligible (c : Context) (now : Nat) : Bool :=
  match c.lastIssue with
  | some t => decide (t + 4 ≤ now)
  | none => true

/-- The context stands at a word or a pair. -/
def CtxAct.issues : CtxAct → Bool
  | .word _ => true
  | .pair _ _ => true
  | _ => false

/-- Word 1 of a lone bundle is the context's next word (R41, R48). -/
def State.secondWord (s : State) (core k : Nat) : Bool :=
  let c := s.ctxOf core k
  c.split && c.pos % 2 == 1 && (s.ctxAct core k).issues

/-- The contexts of a core in the order of its scan (R41). -/
def Core.rotation (c : Core) : List Nat := (List.range c.nctx).map (fun i => (c.lastCtx + 1 + i) % c.nctx)

/-- The members of a context's gang that stand at its word (R192). -/
def State.mates (s : State) (core k : Nat) : List (Nat × Nat) :=
  (s.gangOf core k).filter (fun m => (s.ctxAct m.1 m.2).issues && (s.ctxOf m.1 m.2).pos == (s.ctxOf core k).pos)

/-- A core may issue a bundle of its context k in this cycle: it has issued none yet, and has no word 1 of another one to issue
(R41, R48). -/
def State.coreFree (s : State) (core k : Nat) : Bool :=
  (s.core core).issuedAt != some s.time && (s.core core).rotation.all (fun j => j == k || !s.secondWord core j)

/-- The context is ready and eligible (R40, R41); in a gang, every member stands at a word that is not before its own or has
ended its block, and those at its own word are eligible on their cores too (R192). -/
def State.ready (s : State) (core k : Nat) : Bool :=
  (s.ctxAct core k).issues &&
  (s.gangOf core k).all (fun m => (s.ctxOf m.1 m.2).phase == .fetch ||
    ((s.ctxAct m.1 m.2).issues && decide ((s.ctxOf core k).pos ≤ (s.ctxOf m.1 m.2).pos))) &&
  (s.mates core k).all (fun m => s.slotOk m.1 m.2 && (s.ctxOf m.1 m.2).eligible s.time && s.coreFree m.1 m.2)

/-- The context at which the scan of a core stands: the first that is ready (R41). -/
def State.stand (s : State) (core : Nat) : Option Nat := (s.core core).rotation.find? (s.ready core)

/-- The scan of a core lets its context k issue: it stands there, or, for a member of a gang, at a gang of a higher record
address. DESIGN CHOICE (log entry 72): which of two gangs goes first whose cores wait for each other. -/
def State.scanAt (s : State) (core k : Nat) : Bool :=
  match s.stand core with
  | none => false
  | some j => j == k || (match (s.ctxOf core k).gang, (s.ctxOf core j).gang with
    | some r, some q => decide (r < q)
    | _, _ => false)

/-- The context may issue in this cycle: it is ready, and the scan of its core, and of each core of a gang's members, has come
to it (R41, R44, R192). -/
def State.issuable (s : State) (core k : Nat) : Bool :=
  s.ready core k && (s.mates core k).all (fun m => s.scanAt m.1 m.2)

/-- The context of a core that issues in this cycle (R41, R44, R48): the one whose lone bundle has its word 1 to issue, else the
one that its scan has come to; none when the core has issued already. -/
def State.issuer (s : State) (core : Nat) : Option Nat :=
  let c := s.core core
  if c.issuedAt = some s.time then none
  else match c.rotation.find? (s.secondWord core) with
    | some k => some k
    | none => c.rotation.find? (s.issuable core)

/-- A turn of a context (R40..R44, R192): the members that take part; none when the turn would issue and the core's scan has
another context issue, or none, or the context is ahead of a member that issues first. -/
def State.gangTurn (s : State) (core ctx : Nat) : State × List (Nat × Nat) :=
  let g := s.gangMembers core ctx
  if g.2.any (fun m => (g.1.ctxAct m.1 m.2).issues) && (s.issuer core != some ctx || !g.2.contains (core, ctx)) then (g.1, []) else g

/-- Every member issues from its leader's block buffer (R192). -/
def State.shareBlock (s : State) : List (Nat × Nat) → State
  | [] => s
  | m0 :: ms =>
    let x := s.ctxOf m0.1 m0.2
    ms.foldl (fun s m => s.onCtx m.1 m.2 (fun c =>
      if x.phase = .body ∧ c.phase = .body ∧ c.addr = x.addr ∧ c.gang = x.gang ∧ c.gang ≠ none then { c with words := x.words } else c)) s

-- The fabric

/-- The active plane of a site. -/
def Site.plane (x : Site) : PlaneSlot := mget {} x.slots x.active
/-- Bits [hi:lo] of a plane (R66). -/
def PlaneSlot.bits (p : PlaneSlot) (hi lo : Nat) : Nat := field p.word.toNat hi lo
/-- The operation of a site's active plane (R66). -/
def Site.op (x : Site) : Nat := x.plane.bits 7 0
/-- Sites by number. -/
def State.site (s : State) (n : Nat) : Site := mget {} s.fabric.sites n
/-- A site changed by f. -/
def State.onSite (s : State) (n : Nat) (f : Site → Site) : State :=
  { s with fabric := { s.fabric with sites := mset s.fabric.sites n (f (s.site n)) } }

/-- A plane of an operation that reads no port (R67); an idle element reads none (R66). -/
def readsNothing (op : Nat) : Bool := [0x00, 0x57, 0x58, 0x65, 0x92, 0x80, 0x82].contains op
/-- The ports that the reads of a plane name, in order (R66, R67). -/
def PlaneSlot.reads (p : PlaneSlot) : List Nat :=
  if readsNothing (p.bits 7 0) then []
  else (List.range (p.bits 58 56 + 1)).map (fun k => p.bits (60 + 2 * k) (59 + 2 * k))

/-- Markers: EOR, BAR, FENCE and DRAIN (R275). -/
def Token.marker (t : Token) : Bool := decide (2 ≤ t.kind) && decide (t.kind ≤ 5)

/-- The step that an element takes (R277, R280, R308): a waiting plane change, the grant of an mx.msg plane, a marker firing when read 0 finds a
marker, else the firing that its operation names. esc with tickets outstanding and mx.mm inside a tile deal with the marker
themselves (R301, R328). -/
def State.elementInstr (s : State) (n : Nat) : Option Instr :=
  let x := s.site n
  if !x.running then none
  else if x.change.isSome then some .planeChange
  else if decodeElement x.op = some .mxMsg ∧ x.elem.words = 0 then some .mxMsg
  else
    let mark := x.taken.isEmpty && (match x.plane.reads with
      | p :: _ => (match mfind x.ports p with
        | some t => t.todo.contains 6 && t.tok.marker
        | none => false)
      | [] => false)
    let own := (x.op == 0x60 && !x.elem.tickets.isEmpty) || (x.op == 0x91 && !x.elem.buf.isEmpty)
    if mark && !own && !(decide (0x80 ≤ x.op) && decide (x.op ≤ 0x86) && x.op != 0x85) then some .markerFiring
    else decodeElement x.op

/-- The step that a site's router operator takes (R66). -/
def State.routerInstr (s : State) (n : Nat) : Option Instr :=
  let x := s.site n
  if x.running then decodeRouter (x.plane.bits 91 90) else none

/-- The step that a sequencer takes (R311, R318, R506: of an MT site each plane has its own words): the retirement of a fence, or its next word; a word that no loader
admits is handed back. -/
def State.seqInstr (s : State) (n : Nat) : Except (BitVec 32) (Option Instr) :=
  let x := s.site n
  if !x.running then .ok none
  else if x.seq.fence.isSome then .ok (some .fenceRetire)
  else if x.seq.mode == .run then
    let w := x.plane.seq.getD (x.seq.r.pc % 64) 0
    match decodeSeq w with
    | some i => .ok (some i)
    | none => .error w
  else .ok none

-- The turn that is taken when the agenda names none

/-- A context that can act, in the rotation of its core (R41). -/
def State.barrel (s : State) (core : Nat) : Option (Nat × Nat) :=
  let who := s.issuer core
  ((s.core core).rotation.find? (fun k => match s.ctxAct core k with
    | .idle => false
    | .retest => (s.ctxOf core k).phase == .body
    | .word _ | .pair _ _ => who == some k
    | _ => true)).map (fun k => (core, k))

/-- A timer that has reached zero (R38). -/
def State.dueTimer (s : State) : Option (Nat × Nat) :=
  (s.cores.map (fun c => (c.2.ctxs.filter (fun k => k.2.live && !k.2.timerEvent && (match k.2.timerAt with
    | some t => decide (t ≤ s.time)
    | none => false))).map (fun k => (c.1, k.1)))).flatten.head?

/-- A place among n that varies from step to step, for the default order of turns. -/
def State.spread (s : State) (n : Nat) : Nat := s.tick * 2654435761 / 65536 % n

/-- The turns in which the contexts, caches and engines of a core can go on. -/
def State.coreTurns (s : State) (n : Nat) : List Turn :=
  let c := s.core n
  let ev (ctx : Nat) (args : List Nat) (i : Instr) : Turn := .event n ctx 0 args i
  let live := c.ctxs.filter (fun k => k.2.live)
  let waits := live.filter (fun k => match k.2.phase with
    | .wait _ => true
    | _ => false)
  ((s.barrel n).map (fun x => Turn.context x.1 x.2)).toList ++ waits.map (fun k => Turn.context n k.1) ++
  (live.filter (fun k => k.2.locked)).map (fun k => ev k.1 [] .saveComplete) ++
  (if c.wq.isEmpty then [] else [ev 0 [s.spread c.wq.length] .updateAccept]) ++
  (if c.inq.isEmpty then [] else [ev 0 [0] .updateDrain]) ++
  c.sendbuf.map (fun m => ev 0 [m.1] .sendInject) ++
  (match c.engine with
   | none => if c.copq.isEmpty then [] else [ev 0 [] .engineTake, ev 0 [] .mxcInject]
   | some e =>
     let k := ((List.range (e.boxes + 1)).find? (fun k => !e.issued.contains k)).getD 0
     [ev 0 [k] .boxLand, ev 0 [k] .engineSegmentFault, ev 0 [] .fixupReplay, ev 0 [] .engineComplete])

/-- The turns in which a herd's slice, walker and queues can go on. -/
def State.herdTurns (s : State) (h : Nat) : List Turn :=
  let y := s.herd h
  let n := coreOfHerd h 0
  (if y.inq.isEmpty then [] else [.event n 0 0 [1] .updateDrain]) ++
  (if y.walks.any (fun w => !w.waits) then [.event n 0 0 [] .walkStep] else []) ++
  (if y.posts.isEmpty then [] else [.event n 0 0 [h] .eventPost]) ++
  (if y.escq.isEmpty then [] else (coresOfHerd h).flatMap (fun c => ((List.range (s.core c).nctx).filter (fun k => (s.core c).reservedCtx k)).map
    (fun k => .event c k 0 [] .escDispatch))) ++
  (if s.dev.due.any (fun d => (d.code == 1 && herdOfCore d.unit == h) || (d.code == 2 && d.unit == h)) then [.event n 0 0 [h] .herdQuiescentWindow] else [])

/-- The turns of launches, threads and messages. -/
def State.launchTurns (s : State) : List Turn :=
  let ev (args : List Nat) (i : Instr) : Turn := .event 0 0 0 args i
  (s.launch.queues.filter (fun q => q.2.en)).flatMap (fun q => [ev [q.1, s.spread 6] .launchAdmission]) ++
  s.launch.live.flatMap (fun l =>
    let r := l.2.record.getD 0 0
    if r.toNat % 8 = 3 then
      [ev [0] .fabricAdmission, ev [1] .fabricAdmission, ev [l.1] .configLoad, ev [l.1] .drainRequest, ev [l.1] .drained, ev [l.1] .graphCompletion]
    else (if l.2.mxeBid then [ev [0] .fabricAdmission, ev [1] .fabricAdmission] else []) ++ ev [l.1] .launchDone :: (([0, 1, 2, 3] ++ s.cores.map (fun (c : Nat × Core) => c.1)).flatMap (fun c =>
      ((List.range (s.core c).nctx).filter (fun k => !(s.ctxOf c k).live)).map (fun k => .event c k 0 [l.1] .threadPlacement)) ++
      (if r.toNat % 8 = 2 then [ev [l.1, (match l.2.trans with
        | some t => t.1
        | none => s.spread 192)] .herdPlacement] else []))) ++
  (List.range s.launch.msgs.length).flatMap (fun k => [ev [k] .messageArrival, ev [k] .savedRingDelivery]) ++
  (if s.fault.waiting.isEmpty then [] else [ev [] .faultRecordPost]) ++
  (List.range s.fabric.replies.length).map (fun k => ev [k] .escReplyArrival) ++
  (List.range s.fabric.seams.length).map (fun k => ev [k] .seamFlitReceive) ++
  (if s.mem.converting.isEmpty then [] else [ev [] .segmentConversionDone]) ++
  (if s.dev.acks = 0 then [] else [ev [] .tableBroadcastAck])

/-- The turns of the sites that run, of planes that are being written, and of matrix elements. -/
def State.fabricTurns (s : State) : List Turn :=
  (s.fabric.sites.filter (fun x => x.2.running)).flatMap (fun x => [.element x.1, .router x.1, .sequencer x.1]) ++
  s.fabric.placed.flatMap (fun c => match c.2.planes[c.2.written]? with
    | some (n, k, _) => [.event 0 0 n [k] .planeSlotWritten]
    | none => []) ++
  (s.fabric.mxes.filter (fun m => !m.2.queue.isEmpty)).flatMap (fun m => [Instr.loadw, .mm, .drain, .clear].map (fun i => .event 0 0 0 [m.1] i))

/-- The default turn: the boot, a timer that is due, or, one after another by the step counter, the turns in which some
agent may go on; none when no agent can. -/
def State.defaultTurn (s : State) : Option Turn :=
  if !s.dev.powered && !s.dev.fail then some (.event 0 0 0 [] .coldBoot)
  else match s.dueTimer with
    | some x => some (.event x.1 x.2 0 [] .timerExpiry)
    | none =>
      let all := (s.cores.map (·.1)).flatMap s.coreTurns ++ (s.herds.map (·.1)).flatMap s.herdTurns ++ s.launchTurns ++ s.fabricTurns
      all[s.tick % all.length]?

end Sys2Proof.Machine
end

