-- ==== Sys2Proof/Machine/Blocks.lean ====
section
/-!
DEFINITION. The steps of a context between its words: the fetch of a block with its checks (R51..R55), the return of
a long result (R42), the commit of a block (R26), and the timer (R38).
-/

namespace Sys2Proof.Machine

-- Fetch (R53, R54)

/-- Every store to a word is performed at DEVICE scope (R159). -/
def State.storesDone (s : State) (w : Nat) : Bool := !s.cores.any (fun c => c.2.wq.any (fun f => f.write.word == w && f.devPending))

/-- The two words of a bundle, from the herd's instruction cache (R53). A fetch returns the words of every store performed at
DEVICE scope; while one is on its way, the device chooses between the words that the cache holds and the new ones. -/
def State.fetchBundle (s : State) (core pa : Nat) : State × BitVec 32 × BitVec 32 :=
  let w := pa / 8
  let h := herdOfCore core
  let words (v : Word) : BitVec 32 × BitVec 32 := (v.setWidth 32, (v >>> 32).setWidth 32)
  if (s.region pa).cached then
    let s := s.readICache h w
    match mfind (s.herd h).icache w, !s.storesDone w && Config.chooseBit s.tick w with
    | some v, true => (s, words v)
    | _, _ =>
      let r := s.sliceRead h w
      let v := (overlay r.2 w (r.1.herd h).inq).val
      (r.1.onHerd h (fun y => { y with icache := mset y.icache w v }), words v)
  else
    let r := s.homeRead w
    (r.1, words r.2.val)

/-- A bundle fetched, a fetch fault, or a wait for an engine's write (R350). -/
inductive Fetched where
  | words (s : State) (w0 w1 : BitVec 32)
  | fault (k : MemKind)
  | wait
  deriving DecidableEq, Repr

/-- The bundle at an address (checks 2 and 5 of R54, R158). -/
def State.fetchAt (s : State) (p : Party) (va : Word) : Fetched :=
  let s := s.touchTlb p (va.toNat % 2 ^ 57)
  match s.leafFor p.ptb p.asid p.super .fetch va with
  | .error k => .fault k
  | .ok l =>
    if s.absentAt l.pa .fetch then .fault .notMapped
    else if s.windowDenied l.pa 8 p.super .fetch || s.firewallDenies p l.pa 8 .fetch then .fault .protection
    else if l.mig then .fault .tier
    else if s.ownedByEngine p.asid (va.toNat % 2 ^ 57) 8 || s.convertingAt l.pa then .wait
    else
      let r := s.fetchBundle p.core l.pa
      .words r.1 r.2.1 r.2.2

/-- What the fetch of further bundles of a block finds: their words, the first that fails with its index, or a wait. -/
inductive More where
  | words (ws : List (BitVec 32))
  | fault (k : MemKind) (n : Nat)
  | wait
  deriving DecidableEq, Repr

/-- The words of n bundles from an address on, from bundle k. -/
def State.fetchMore (s : State) (p : Party) (va : Word) : Nat → Nat → State × More
  | 0, _ => (s, .words [])
  | n + 1, k =>
    match s.fetchAt p (va + BitVec.ofNat 64 (8 * k)) with
    | .fault e => (s, .fault e k)
    | .wait => (s, .wait)
    | .words s w0 w1 =>
      let r := s.fetchMore p va n (k + 1)
      (r.1, match r.2 with
        | .words ws => .words (w0 :: w1 :: ws)
        | x => x)

/-- The major opcodes of exposed instructions (R24, R59). -/
def exposedMajors : List Nat :=
  [0x05, 0x06, 0x09, 0x0A, 0x0B, 0x0C, 0x0D, 0x0E, 0x13, 0x19, 0x1A, 0x1B, 0x1C, 0x1D, 0x1E, 0x1F, 0x20, 0x21, 0x22,
   0x23, 0x24, 0x28, 0x29, 0x2A, 0x2B, 0x2C, 0x2D, 0x30, 0x31, 0x32, 0x39, 0x3A, 0x3B, 0x3C, 0x3D, 0x3E]
/-- A word is exposed by its opcode (R24). -/
def isExposed (w : BitVec 32) : Bool := !wordClass w && exposedMajors.contains (Body.ofWord w).op.toNat
/-- A word is a plain load, which a side-effect page makes exposed (R52). -/
def isPlainLoad (w : BitVec 32) : Bool :=
  !wordClass w && ((Body.ofWord w).op == 0x01 || (Body.ofWord w).op == 0x02)
/-- A word is a last-only transfer (R52). -/
def isTransfer (w : BitVec 32) : Bool := !wordClass w && ((Body.ofWord w).op == 0x11 || (Body.ofWord w).op == 0x12)

/-- The cause of check 8 for the word at a position (R54). -/
def wordCause (ws : List (BitVec 32)) (m32 : Bool) (pos : Nat) : Option Nat :=
  let w := ws.getD pos 0
  let paired := !wordTop (ws.getD (pos - pos % 2) 0)
  if paired && (wordClass w != (pos % 2 == 1)) then some Cause.pairClass
  else match decodeWord w with
    | .error .opcRsv => some Cause.opcRsv
    | .error .fnRsv => some Cause.fnRsv
    | .error .encRsv => some Cause.encRsv
    | .ok _ =>
      if m32 && rangeBeyond32 w then some Cause.encRsv
      else if m32 && outOfRange32 w then some Cause.regRange
      else if isBlkWord w then some Cause.blkHdr
      else none

/-- The first position of a list for which f answers, with its answer. -/
def firstCause (f : Nat → Option Nat) : List Nat → Option (Nat × Nat)
  | [] => none
  | p :: ps => match f p with
    | some c => some (c, p)
    | none => firstCause f ps

/-- Checks 8 to 10 of R54 on a block's words: the cause and the position. -/
def blockCheck (ws : List (BitVec 32)) (m32 : Bool) : Option (Nat × Nat) :=
  let x := (ws.getD 0 0).getLsbD 17
  let last := lastPos ws
  let body := (List.range ws.length).drop 1
  match firstCause (wordCause ws m32) body with
  | some c => some c
  | none =>
    let exposedBad (p : Nat) : Option Nat :=
      let w := ws.getD p 0
      if isExposed w && (p != last || !x) then some Cause.blkExposed
      else if p == last && x && !isExposed w && !isPlainLoad w then some Cause.blkExposed
      else none
    match firstCause exposedBad body with
    | some c => some c
    | none => firstCause (fun p => if isTransfer (ws.getD p 0) && p != last then some Cause.blkLast else none) body

/-- A fetch trap of a context: s.tblk the named address (R51, R55). -/
def State.fetchTrap (s : State) (core ctx cause tidx : Nat) (tval : Word) : State :=
  s.takeTrap core ctx { cause := cause, tblk := (s.ctxOf core ctx).addr, tidx := tidx, tval := tval, tval2 := 0 }

/-- A context starts the block with these words, its registers the committed ones. -/
def Context.startBlock (c : Context) (ws : List (BitVec 32)) : Context :=
  { c with phase := .body, words := ws, pos := 0, cur := 0, exit := none, parked := false, work := c.arch, snap := none
           split := false, aDone := false }

/-- Checks 4 and 6 to 10 of R54 on the words of a block of a context; it starts, or traps. -/
def State.admitBlock (s : State) (core ctx : Nat) (ws : List (BitVec 32)) : State :=
  let w := ws.getD 0 0
  let c := s.ctxOf core ctx
  let m32 := (s.core core).pmode
  if w.getLsbD 16 && !c.super then s.fetchTrap core ctx Cause.privBlock 0 (w.setWidth 64)
  else if !(if m32 then w.getLsbD 14 else w.getLsbD 15) then s.fetchTrap core ctx Cause.blkMode 0 (w.setWidth 64)
  else match blockCheck ws m32 with
    | some (cause, pos) => s.fetchTrap core ctx cause pos ((ws.getD pos 0).setWidth 64)
    | none => s.setCtx core ctx (c.startBlock ws)

/-- The block at the context's resume address is fetched and checked in the order of R54. At an address that is not a multiple
of 8 no word is fetched, and s.tval holds a free one. -/
def State.fetchBlock (s : State) (core ctx : Nat) : State :=
  let c := s.ctxOf core ctx
  let p : Party := { ptb := (c.sr 0x060).toNat, asid := (c.sr 0x061).toNat, super := c.super, core := core, ctx := ctx }
  if c.addr.toNat % 8 ≠ 0 then s.fetchTrap core ctx Cause.blkTarget 0 (((Config.freeWord s.tick 0).setWidth 32).setWidth 64)
  else match s.fetchAt p c.addr with
    | .wait => s
    | .fault k => s.fetchTrap core ctx (memCause k .fetch) 0 c.addr
    | .words s w0 w1 =>
      if !(isBlkWord w0 && wordTop w0) then s.fetchTrap core ctx Cause.blkTarget 0 (w0.setWidth 64)
      else if headerReserved w0 ≠ 0 then s.fetchTrap core ctx Cause.blkHdr 0 (w0.setWidth 64)
      else
        let r := s.fetchMore p c.addr (field w0.toNat 23 18) 1
        match r.2 with
        | .wait => r.1
        | .fault k n =>
          r.1.fetchTrap core ctx (memCause k .fetch) (2 * n) (c.addr + BitVec.ofNat 64 (8 * n))
        | .words ws => r.1.admitBlock core ctx (w0 :: w1 :: ws)

/-- The leader of a gang: the member on the lowest core (R191). -/
def State.leaderOf (s : State) (core ctx : Nat) : Nat × Nat := (s.gangOf core ctx).headD (core, ctx)

/-- BLOCK_FETCH (R54): boundary events come first (R409). A gang member other than its leader takes the words from
the leader's block buffer (R192). -/
def execBlockFetch (s : State) : Out :=
  let core := s.act.core
  let ctx := s.act.ctx
  if !s.me.live || s.me.phase != .fetch then .next s
  else
    let b := (s.applyWindow core ctx).boundary core ctx
    if !b.2 then .next b.1
    else
      let s := b.1
      let l := s.leaderOf core ctx
      let lead := s.ctxOf l.1 l.2
      if l ≠ (core, ctx) ∧ lead.phase = .body ∧ lead.pos = 0 ∧ lead.addr = s.me.addr then
        .next (s.admitBlock core ctx lead.words)
      else .next (s.fetchBlock core ctx)

-- Returns, evictions and commit

/-- Long result k of a context reaches its registers. -/
def Context.returnOne (c : Context) (k : Nat) : Context :=
  match c.outst[k]? with
  | some ws => { c with work := c.work.applyAll ws, outst := dropNth c.outst k }
  | none => c

/-- LOAD_RETURN: long result k of the context reaches its registers (R42, R43); a cache may evict a word (R373). -/
def execLoadReturn (s : State) : Out :=
  let s := s.onMe (fun c => c.returnOne (s.arg 0))
  match s.act.args with
  | [_, 0, w] => .next (s.evictL1 s.act.core w)
  | [_, 1, w] => .next (s.evictSlice (herdOfCore s.act.core) w)
  | [_, 2, w] => .next (s.onHerd (herdOfCore s.act.core) (fun y => { y with icache := mdel y.icache w }))
  | _ => .next s

/-- BLOCK_COMMIT: a block that has exited and whose results have returned commits (R23, R26), unless an interrupt or a
pre-emption request has arrived before (R27). -/
def execBlockCommit (s : State) : Out :=
  let c := s.me
  if c.live && c.phase == .body && (c.exit.isSome || decide (c.words.length ≤ c.pos)) &&
      !s.resultsPending s.act.core s.act.ctx then
    if c.interrupted s.time then .next (s.onMe (fun c => c.interrupt s.time))
    else .next ((s.commitBlock s.act.core s.act.ctx (c.exit.getD c.fallThrough)).settleWindow s.act.core s.act.ctx)
  else .next s

/-- TIMER_EXPIRY: a timer that has reached zero raises its event, which stays pending (R38); with s.status.ie set it discards
a block before its commit point, and the interrupt is taken at the block's header (R27, R146). -/
def execTimerExpiry (s : State) : Out :=
  .next (s.onMe (fun c =>
    if c.live ∧ c.phase = .body ∧ c.switchReq = false ∧ c.interrupted s.time = true then c.interrupt s.time else c.raise s.time))

-- The vector queue (R224, R401)

/-- A vector instruction enters its core's queue; a queue that was empty takes the larger of its tag and the lowest
tag of the quad's queues that hold instructions (R401). -/
def State.vuPush (s : State) (core : Nat) (e : VuEntry) : State :=
  let others := (coresOfQuad (quadOfCore core)).filter (fun k => k != core && !(s.core k).vuq.isEmpty)
  let low := (others.map (fun k => (s.core k).vtag)).min?
  s.onCore core (fun c =>
    let tag := if c.vuq.isEmpty then max c.vtag (low.getD 0) else c.vtag
    { c with vuq := c.vuq ++ [e], vtag := tag })

/-- The queue of the quad that a free lane group serves: the lowest tag, ties to the lower core (R401). -/
def State.vuNext (s : State) (core : Nat) : Option Nat :=
  let ks := (coresOfQuad (quadOfCore core)).filter (fun k => !(s.core k).vuq.isEmpty)
  ks.foldl (fun b k => match b with
    | none => some k
    | some j => if (s.core k).vtag < (s.core j).vtag then some k else some j) none

/-- VU_ISSUE (R224): a queue head is performed. Its results and flags are written when its block still stands; its
trap discards the block. -/
def execVuIssue (s : State) : Out :=
  match s.vuNext s.act.core with
  | none => .next s
  | some k =>
    match (s.core k).vuq with
    | [] => .next s
    | e :: rest =>
      let s := s.onCore k (fun c => { c with vuq := rest, vtag := (c.vtag + 65536 / max c.vshare 1) % 2 ^ 32 })
      let c := s.ctxOf k e.ctx
      if c.epoch ≠ e.epoch ∨ c.live = false then .next s
      else match e.trap with
        | some t => .next (s.takeTrap k e.ctx t)
        | none =>
          let inf := match c.blockInf with
            | some f => some f
            | none => e.inf
          .next (s.setCtx k e.ctx { c with work := c.work.applyAll e.writes, blockInf := inf })

end Sys2Proof.Machine
end

