-- ==== Sys2Proof/Machine/Control.lean ====
section
/-!
DEFINITION. The block header word and the transfers of control (R50, R179, R180).
-/

namespace Sys2Proof.Machine

/-- The header word issues as a nop (R50). -/
def execBlk (_len : BitVec 6) (_x _sv _a16 _a32 : Bool) (s : State) : Out := .next s

/-- The block exits to a target (R23). -/
def State.exitTo (s : State) (t : Word) : State := s.onMe (fun c => { c with exit := some t })

/-- The target of b and call: the bundle's address plus 8·off20 (R58). -/
def Context.branchTarget (c : Context) (off : BitVec 20) : Word := c.bundleAddr + off.signExtend 64 * 8

/-- b: taken when the predicate differs from n (R179). -/
def execB (p : PredNo) (n : Bool) (off : BitVec 20) (s : State) : Out :=
  .next (if s.me.rp p != n then s.exitTo (s.me.branchTarget off) else s)
/-- call: g31 takes the fall-through address (R180). -/
def execCall (off : BitVec 20) (s : State) : Out :=
  .next ((s.exitTo (s.me.branchTarget off)).shortG 31 s.me.fallThrough)
/-- jr (R180). -/
def execJr (a : RegNo) (s : State) : Out := .next (s.exitTo (s.me.rg a))
/-- callr: the target is read before the link is written (R180). -/
def execCallr (a : RegNo) (s : State) : Out := .next ((s.exitTo (s.me.rg a)).shortG 31 s.me.fallThrough)
/-- ret: to the address in g31 (R180). -/
def execRet (s : State) : Out := .next (s.exitTo (s.me.rg 31))

end Sys2Proof.Machine
end

