-- ==== Sys2Proof/Machine/Sets.lean ====
section
/-!
DEFINITION. Sets, barriers, coupling and rejoin queues (R182..R196).
-/

namespace Sys2Proof.Machine

-- Threads, placed and switched out (R419, R420)

/-- Where a thread runs: core and context. -/
def State.placeOf (s : State) (handle : Nat) : Option (Nat × Nat) :=
  (s.cores.map (fun c => (c.2.ctxs.filter (fun k => k.2.live && k.2.handle == handle)).map (fun k => (c.1, k.1)))).flatten.head?

/-- A thread's entry. -/
def State.thread (s : State) (h : Nat) : Option Thread := mfind s.launch.threads h
/-- A thread's entry changed. -/
def State.onThread (s : State) (h : Nat) (f : Thread → Thread) : State :=
  match s.thread h with
  | some t => { s with launch := { s.launch with threads := mset s.launch.threads h (f t) } }
  | none => s

/-- A word written by an agent of the device at its slice or port, with updates to every copy (R336). -/
def State.agentWrite (s : State) (pa : Nat) (x : Tagged) : State :=
  s.homeStore { word := pa / 8, mask := 0xFF, val := x.val, tag := x.tag }

/-- The physical address of a thread's save slot (R419). -/
def State.saveSlot (s : State) (handle : Nat) : Nat :=
  let base := field (s.creg 0x3040).toNat 51 13 * 8192
  match mfind s.launch.threads handle with
  | some t => base + 8192 * t.slot
  | none => base

/-- A word of a save slot. -/
def State.slotWord (s : State) (handle off : Nat) : Word := (s.homeWord (s.localPa (s.saveSlot handle + off) / 8)).val
/-- A word of a save slot written. -/
def State.putSlotWord (s : State) (handle off : Nat) (x : Word) : State :=
  s.agentWrite (s.localPa (s.saveSlot handle + off)) { val := x, tag := false }

/-- A pending fault is put into the save slot of a thread that is switched out (R173, R420). -/
def State.savedFault (s : State) (handle cause : Nat) (tval tval2 : Word) : State :=
  let s := s.putSlotWord handle 0xE18 (s.slotWord handle 0xE18 ||| 0x80000)
  let s := s.putSlotWord handle 0xEE8 (BitVec.ofNat 64 cause)
  (s.putSlotWord handle 0xEF0 tval).putSlotWord handle 0xEF8 tval2

/-- A saved thread's wait has ended (R420). -/
def State.endSavedWait (s : State) (h : Nat) : State :=
  ((s.onThread h (fun t => { t with wait := none })).putSlotWord h 0xE08 0).putSlotWord h 0xE10 0

/-- The physical address of the record in table entry e of a placed context. -/
def State.setPa (s : State) (core ctx e : Nat) : Option Nat :=
  let c := s.ctxOf core ctx
  (mfind c.sets e).bind (fun m =>
    (s.translate (c.sr 0x060).toNat (c.sr 0x061).toNat c.super .read (BitVec.ofNat 64 m.record)).toOption.map (·.pa))
/-- The address of the record in table entry e of a switched-out thread. -/
def State.savedRecord (s : State) (h e : Nat) : Word := BitVec.ofNat 64 ((s.slotWord h (0xEC0 + 8 * e)).toNat / 64 * 64)
/-- Its physical address. -/
def State.savedSetPa (s : State) (h e : Nat) : Option Nat :=
  let sreg (n : Nat) : Word := s.slotWord h (0x800 + 8 * n)
  let pr := (sreg 0x020).toNat % 4
  (s.translate (sreg 0x060).toNat (sreg 0x061).toNat (pr == 1 || pr == 2) .read (s.savedRecord h e)).toOption.map (·.pa)

-- The set record and its barrier (R182)

/-- A set record, with the fields of the barrier unit in place of the record's when it is herd-bound (R182). -/
structure SetRec where
  /-- word 0 as it stands -/
  w0 : Word
  cnt0 : Nat
  cnt1 : Nat
  phase : Bool
  broken : Bool
  pend : Nat
  deriving DecidableEq, Repr

/-- w0 [15:0] -/
def SetRec.count (r : SetRec) : Nat := field r.w0.toNat 15 0
/-- w0 [31:16] -/
def SetRec.joined (r : SetRec) : Nat := field r.w0.toNat 31 16
/-- POOL, by w0 [32] -/
def SetRec.pool (r : SetRec) : Bool := r.w0.getLsbD 32
/-- herd-bound, by w0 [33] -/
def SetRec.bound (r : SetRec) : Bool := r.w0.getLsbD 33
/-- w0 [41:34] -/
def SetRec.herd (r : SetRec) : Nat := field r.w0.toNat 41 34
/-- w0 [43:42] -/
def SetRec.unit (r : SetRec) : Nat := field r.w0.toNat 43 42
/-- w0 [50:46] -/
def SetRec.wdog (r : SetRec) : Nat := field r.w0.toNat 50 46
/-- The barrier scope: HERD for a bound set, else DEVICE (R188). -/
def SetRec.scope (r : SetRec) : Nat := if r.bound then 1 else 2
/-- Arrivals in a phase. -/
def SetRec.cnt (r : SetRec) (ph : Bool) : Nat := if ph then r.cnt1 else r.cnt0
/-- Arrivals in a phase changed. -/
def SetRec.setCnt (r : SetRec) (ph : Bool) (n : Nat) : SetRec :=
  if ph then { r with cnt1 := n } else { r with cnt0 := n }
/-- w0 of the given fields. -/
def setWord0 (count joined : Nat) (pool bound : Bool) (herd unit : Nat) (phase broken : Bool) (wdog : Nat) : Word :=
  BitVec.ofNat 64 (count % 65536 + 65536 * (joined % 65536) + 2 ^ 32 * b2n pool + 2 ^ 33 * b2n bound +
    2 ^ 34 * (herd % 256) + 2 ^ 42 * (unit % 4) + 2 ^ 44 * b2n phase + 2 ^ 45 * b2n broken + 2 ^ 46 * (wdog % 32))
/-- The record with new counts of members. -/
def SetRec.withCounts (r : SetRec) (count joined : Nat) : SetRec :=
  { r with w0 := BitVec.ofNat 64 (r.w0.toNat / 2 ^ 32 * 2 ^ 32 + count % 65536 + 65536 * (joined % 65536)) }

/-- A word of the record read at its point of atomicity. -/
def State.readAt (s : State) (core ctx w : Nat) : State × Word := s.rmw core ctx w false 0 (fun _ => none)
/-- A word of the record written at its point of atomicity. -/
def State.writeAt (s : State) (core ctx w : Nat) (v : Word) : State :=
  (s.rmw core ctx w false 0 (fun old => if old = v then none else some (v, 0xFF))).1

/-- A barrier unit of a herd. -/
def Herd.unit (h : Herd) (u : Nat) : BarUnit := mget {} h.units u
/-- A barrier unit changed. -/
def State.onUnit (s : State) (h u : Nat) (f : BarUnit → BarUnit) : State :=
  s.onHerd h (fun y => { y with units := mset y.units u (f (y.unit u)) })

/-- The record at physical address pa, read for a context. -/
def State.readRec (s : State) (core ctx pa : Nat) : State × SetRec :=
  let a := s.readAt core ctx (pa / 8)
  let b := a.1.readAt core ctx (pa / 8 + 1)
  let c := b.1.readAt core ctx (pa / 8 + 2)
  let r : SetRec := { w0 := a.2, cnt0 := field b.2.toNat 15 0, cnt1 := field b.2.toNat 31 16, phase := a.2.getLsbD 44
                      broken := a.2.getLsbD 45, pend := c.2.toNat }
  if r.bound then
    let u := (c.1.herd r.herd).unit r.unit
    (c.1, { r with cnt0 := u.cnt0, cnt1 := u.cnt1, phase := u.phase, broken := u.broken, pend := u.pend })
  else (c.1, r)

/-- The record written back: the bound set's barrier into its unit, the unbound set's into the record. -/
def State.writeRec (s : State) (core ctx pa : Nat) (r : SetRec) : State :=
  if r.bound then
    let s := s.writeAt core ctx (pa / 8) r.w0
    s.onUnit r.herd r.unit (fun u =>
      { u with cnt0 := r.cnt0, cnt1 := r.cnt1, phase := r.phase, broken := r.broken, pend := r.pend })
  else
    let w0 := setWord0 r.count r.joined r.pool false r.herd r.unit r.phase r.broken r.wdog
    let s := s.writeAt core ctx (pa / 8) w0
    let s := s.writeAt core ctx (pa / 8 + 1) (BitVec.ofNat 64 (r.cnt0 % 65536 + 65536 * (r.cnt1 % 65536)))
    s.writeAt core ctx (pa / 8 + 2) (BitVec.ofNat 64 r.pend)

/-- The watchdog and gate state of the set at pa. -/
def State.aux (s : State) (pa : Nat) : SetAux := mget {} s.sets pa
/-- That state changed. -/
def State.onAux (s : State) (pa : Nat) (f : SetAux → SetAux) : State :=
  { s with sets := mset s.sets pa (f (s.aux pa)) }

/-- The completion test of R188 and R189: cnt[phase] = count with pend 0 completes the phase. -/
def SetRec.complete (r : SetRec) : SetRec × Bool :=
  if r.count ≠ 0 ∧ r.cnt r.phase = r.count ∧ r.pend = 0 then
    ((r.setCnt r.phase 0 |> fun x => { x with phase := !r.phase }), true)
  else (r, false)

/-- The completion test applied to the set at pa; the watchdog of a completed phase stops (R190). -/
def State.testRec (s : State) (pa : Nat) (r : SetRec) : State × SetRec :=
  let c := r.complete
  if c.2 then
    (s.onAux pa (fun a => if r.phase then { a with start1 := none } else { a with start0 := none }), c.1)
  else (s, r)

/-- A rejoin queue that still holds ranges is emptied with an RJ_DISCARD record (R186, R205); the unit is freed when
nothing is pending, else it is held until then. DESIGN CHOICE (log entry 74): the record goes to the queue of the last leaver's
s.evq, with its handle in word 0. -/
def State.freeUnit (s : State) (h u : Nat) (record : Word) (handle : Nat) (evq : Word) : State :=
  let x := (s.herd h).unit u
  let s :=
    if x.ranges = [] then s
    else s.postEvq 5 evq (launchOfHandle handle)
      [eventWord0 0x0011 handle, record, BitVec.ofNat 64 x.ranges.length, 0]
  if x.pend = 0 then s.onUnit h u (fun _ => {})
  else s.onUnit h u (fun y => { y with ranges := [], draining := true })

-- The membership table (R183)

/-- The entry of a context that holds a record address. -/
def Context.entryOf (c : Context) (r : Nat) : Option (Nat × Member) := c.sets.find? (fun e => e.2.record == r)
/-- The lowest free entry. -/
def Context.freeEntry (c : Context) : Nat := ((List.range 4).find? (fun k => (mfind c.sets k).isNone)).getD 0

/-- A state fault of the acting context (R184). -/
def State.deliver (s : State) (cause : Nat) (tval tval2 : Word) : State :=
  s.onMe (fun c => c.stateFault cause tval tval2)

/-- The request for a set record (R185): 64 bytes, origin atomic. -/
def recordReq (base : Tagged) : AccessReq :=
  { va := base.val, size := 64, need := .both, origin := .atomic, base := base, noSe := true, reads := true, align := 64 }

/-- An instruction on a set of the membership table (R183): NOTMEMBER before the commit point, then the record's
checks; k is performed with the table entry, the record's physical address and its content. -/
def State.setInstr (s : State) (i : Instr) (a : RegNo) (k : State → Nat → Member → Nat → SetRec → Perf) : State :=
  let x := s.me.rgt a
  s.exposed i
    (fun s => match s.me.entryOf x.val.toNat with
      | none => .fault s Cause.setNotmember x.val 0
      | some _ => s.accessOk (recordReq x))
    (fun s => match s.me.entryOf x.val.toNat with
      | none => .done s
      | some e => s.performAccess (recordReq x) (fun s acc =>
        let r := s.readRec s.act.core s.act.ctx acc.pa
        k r.1 e.1 e.2 acc.pa r.2))

-- join and leave (R185, R186)

/-- The checks of join and join.new before the commit point, in order (R185). -/
def State.joinOk (s : State) (x : Tagged) : Chk Unit :=
  if x.val.toNat % 64 ≠ 0 then .fault s (memCause .align .atomic) x.val (if x.tag then x.val else 0)
  else if (s.me.entryOf x.val.toNat).isSome then .fault s Cause.setDup x.val 0
  else if 4 ≤ s.me.sets.length then .fault s Cause.setLimit x.val 0
  else s.accessOk (recordReq x)

/-- The context becomes a member with a phase bit (R185). -/
def State.enter (s : State) (pa : Nat) (record : Word) (phase : Bool) : State :=
  let s := s.onMe (fun c => { c with sets := mset c.sets c.freeEntry { record := record.toNat, phase := phase } })
  s.onAux pa (fun a => { a with members := a.members ++ [(s.me.handle, s.act.core)] })

/-- A record field is out of range (R182): SET_RECORD. DESIGN CHOICE (log entry 75): beside a herd number from 192 on, a count below
joined is, and the mode GANG of an unbound set. -/
def SetRec.bad (r : SetRec) : Bool :=
  r.bound && decide (192 ≤ r.herd) || (!r.pool && !r.bound) || decide (r.count < r.joined)

/-- join (R185). -/
def execJoin (d a : RegNo) (s : State) : Out :=
  let x := s.me.rgt a
  .next (s.exposed (.join d a) (fun s => s.joinOk x) (fun s => s.performAccess (recordReq x) (fun s acc =>
    let q := s.readRec s.act.core s.act.ctx acc.pa
    let s := q.1
    let r := q.2
    if r.count = 0 then .done (s.deliver Cause.setDead x.val r.w0)
    else if r.bad then .done (s.deliver Cause.setRecord x.val r.w0)
    else if r.joined = r.count then .done (s.deliver Cause.setFull x.val r.w0)
    else if r.bound ∧ herdOfCore s.act.core ≠ r.herd then .done (s.deliver Cause.setHerd x.val r.w0)
    else if r.pool = false ∧ (s.aux acc.pa).members.any (fun m => m.2 == s.act.core) = true then
      .done (s.deliver Cause.setGang x.val r.w0)
    else
      let s := s.writeRec s.act.core s.act.ctx acc.pa (r.withCounts r.count (r.joined + 1))
      .done ((s.enter acc.pa x.val r.phase).resultG d (BitVec.ofNat 64 r.joined)))))

/-- join.new (R185). -/
def execJoinNew (pool bound : Bool) (d a b : RegNo) (s : State) : Out :=
  let x := s.me.rgt a
  let n := (s.me.rg b).toNat
  .next (s.exposed (.joinNew pool bound d a b) (fun s => s.joinOk x) (fun s => s.performAccess (recordReq x) (fun s acc =>
    let q := s.readRec s.act.core s.act.ctx acc.pa
    let s := q.1
    let r := q.2
    let h := herdOfCore s.act.core
    let waits := s.herds.any (fun y => y.2.units.any (fun u => u.2.draining && u.2.record == some acc.pa))
    let free := (List.range 4).find? (fun u => ((s.herd h).unit u).record.isNone)
    if n = 0 ∨ 65535 < n ∨ (pool = false ∧ 8 < n) then .done (s.deliver Cause.setCount x.val r.w0)
    else if r.joined ≠ 0 ∨ waits = true ∨ (r.bound = false ∧ r.pend ≠ 0) then .done (s.deliver Cause.setLive x.val r.w0)
    else if bound = true ∧ free = none then .done (s.deliver Cause.barNounit x.val r.w0)
    else
      let u := free.getD 0
      let wdog := if r.wdog = 0 then 30 else r.wdog
      let w0 := setWord0 n 1 pool bound h (if bound then u else 0) false false wdog
      let s := { s with sets := mset s.sets acc.pa {} }
      let s := if bound then s.onUnit h u (fun _ => { record := some acc.pa }) else s
      let s := s.writeRec s.act.core s.act.ctx acc.pa
        { w0 := w0, cnt0 := 0, cnt1 := 0, phase := false, broken := false, pend := 0 }
      .done ((s.enter acc.pa x.val false).resultG d 0))))

/-- The context waits at a couple gate. -/
def Context.atGate (c : Context) : Bool :=
  match c.phase with
  | .wait (.gate _) => true
  | _ => false

/-- The arrival of a thread at the couple gate of the set at pa counts (R191): it waits there, placed or switched out, or
it is coupled, and has passed a couple.re. -/
def State.gateCounts (s : State) (pa h : Nat) : Bool :=
  match s.placeOf h with
  | some (c, k) => (s.ctxOf c k).atGate || (s.ctxOf c k).gang == some pa
  | none => match s.thread h with
    | some t => (match t.wait with
      | some (.gate _) => true
      | _ => false)
    | none => false

/-- Where a thread goes on: the fall-through address of the block that it runs, else of its last one (R191). -/
def State.nextAddr (s : State) (h : Nat) : Word :=
  match s.placeOf h with
  | some (c, k) => if (s.ctxOf c k).phase = .body then (s.ctxOf c k).fallThrough else (s.ctxOf c k).addr
  | none => s.slotWord h 0xE00

/-- The partition mode of a thread's core. -/
def State.modeOf (s : State) (h : Nat) : Bool :=
  match s.placeOf h with
  | some (c, _) => (s.core c).pmode
  | none => match s.thread h with
    | some t => t.pmode
    | none => false

/-- A state fault of a thread whose wait ends with it, placed or switched out (R184). -/
def State.faultWait (s : State) (h cause : Nat) (tval tval2 : Word) : State :=
  match s.placeOf h with
  | some (c, k) => s.onCtx c k (fun x => { (x.stateFault cause tval tval2) with phase := (match x.phase with
      | .wait _ => .fetch
      | p => p) })
  | none => if (s.thread h).isSome then (s.savedFault h cause tval tval2).endSavedWait h else s

/-- A thread whose gate has opened goes on at the gang's address (R191): a placed one that waits there in the gang, a switched-out
one alone. One that is coupled goes on as it does. -/
def State.passGate (s : State) (pa : Nat) (addr : Word) (h : Nat) : State :=
  match s.placeOf h with
  | some (c, k) => s.onCtx c k (fun x =>
      if x.atGate then { x.fetchFrom addr with gang := if x.locked then none else some pa } else x)
  | none => (s.putSlotWord h 0xE00 addr).endSavedWait h

/-- The couple gate opens when every current member has arrived (R191): in unlike modes each takes COUPLE_STATE;
else the gang forms and resumes at the fall-through address of its leader, the member on the lowest core number. -/
def State.testGate (s : State) (pa : Nat) (record : Word) (joined : Nat) (w0 : Word) : State :=
  let a := s.aux pa
  let g := a.gate.filter (s.gateCounts pa)
  let coreOf (h : Nat) : Nat := ((a.members.find? (fun m => m.1 == h)).map (·.2)).getD 0
  match g with
  | [] => s
  | h0 :: hs =>
    if g.length < joined then s
    else
      let lead := hs.foldl (fun b h => if coreOf h < coreOf b then h else b) h0
      let addr := s.nextAddr lead
      let modes := g.map s.modeOf
      let s := s.onAux pa (fun a => { a with gate := [] })
      if modes.contains true && modes.contains false then g.foldl (fun s h => s.faultWait h Cause.coupleState record w0) s
      else g.foldl (fun s h => s.passGate pa addr h) s

/-- A member leaves the set at pa (R186): in one step its arrival is withdrawn, the counts fall, it is uncoupled, the
completion test is applied, and an empty set dissolves. -/
def State.leaveSet (s : State) (core ctx e : Nat) (m : Member) (pa : Nat) (r : SetRec) : State :=
  let c := s.ctxOf core ctx
  let r1 := if m.arrived && m.phase == r.phase then r.setCnt m.phase (r.cnt m.phase - 1) else r
  let count := r.count - 1
  let joined := r.joined - 1
  let r2 := r1.withCounts (if joined = 0 then 0 else count) joined
  let s := s.onCtx core ctx (fun c => { c with sets := mdel c.sets e, gang := if c.gang = some pa then none else c.gang })
  let s := s.onAux pa (fun a => { a with members := a.members.filter (fun x => x.1 != c.handle)
                                         gate := a.gate.filter (fun h => h != c.handle) })
  let q := s.testRec pa r2
  let r3 : SetRec := if joined = 0 then { q.2 with broken := false } else q.2
  let s := q.1.writeRec core ctx pa r3
  let s := if joined = 0 then s else s.testGate pa (BitVec.ofNat 64 m.record) joined r3.w0
  if joined = 0 ∧ r.bound then s.freeUnit r.herd r.unit (BitVec.ofNat 64 m.record) c.handle (c.sr 0x063) else s

/-- leave (R186). -/
def execLeave (a : RegNo) (s : State) : Out :=
  .next (s.setInstr (.leave a) a (fun s e m pa r =>
    if r.bad ∨ r.joined = 0 then .done (s.deliver Cause.setRecord (BitVec.ofNat 64 m.record) r.w0)
    else .done (s.leaveSet s.act.core s.act.ctx e m pa r)))

-- Barriers (R188..R190)

/-- The member's entry changed. -/
def Context.onMember (c : Context) (e : Nat) (f : Member → Member) : Context :=
  match mfind c.sets e with
  | some m => { c with sets := mset c.sets e (f m) }
  | none => c

/-- An arrival (R188): it is counted after a release at the barrier scope. DESIGN CHOICE (log entry 73): a watchdog whose first
arrival a leave withdraws goes on, and the next arrival that finds the count at 0 starts it anew (R190). -/
def State.arrive (s : State) (e : Nat) (m : Member) (pa : Nat) (r : SetRec) : State × SetRec :=
  let s := s.onMe (fun c => c.onMember e (fun m => { m with arrived := true }))
  let n := r.cnt m.phase
  let s := if n = 0 then
      s.onAux pa (fun a => if m.phase then { a with start1 := some s.time } else { a with start0 := some s.time })
    else s
  let q := s.testRec pa (r.setCnt m.phase (n + 1))
  (q.1.writeRec s.act.core s.act.ctx pa q.2, q.2)

/-- The wait of a member ends once its phase has completed (R188): acquire, and the phase bit turns. -/
def State.passBar (s : State) (core ctx e : Nat) (scope : Nat) : State :=
  let s := s.acquire core scope
  s.onCtx core ctx (fun c =>
    { (c.onMember e (fun m => { m with phase := !m.phase, arrived := false })) with phase := .fetch })

/-- The wait part of bar (R188): at once when the phase has completed, else the context waits. -/
def State.barWait (s : State) (e : Nat) (m : Member) (r : SetRec) : State :=
  if r.phase ≠ m.phase then s.passBar s.act.core s.act.ctx e r.scope
  else s.onMe (fun c => { c with phase := .wait (.bar e) })

/-- The three forms of bar (R188). -/
def State.barrier (s : State) (i : Instr) (a : RegNo) (arrives waits : Bool) : State :=
  s.setInstr i a (fun s e m pa r =>
    let va : Word := BitVec.ofNat 64 m.record
    let ph : Word := BitVec.ofNat 64 (b2n m.phase)
    if r.bad ∨ r.count = 0 then .done (s.deliver Cause.setRecord va r.w0)
    else if r.broken then .done (s.deliver Cause.barTimeout va (BitVec.ofNat 64 (r.cnt r.phase)))
    else if arrives && m.arrived then .done (s.deliver Cause.barOverarrive va ph)
    else if !arrives && !m.arrived then .done (s.deliver Cause.barNoarrive va ph)
    else if arrives then
      let q := s.release s.act.core s.act.ctx r.scope
      if !q.2 then .later q.1
      else
        let t := q.1.arrive e m pa r
        .done (if waits then t.1.barWait e { m with arrived := true } t.2 else t.1)
    else .done (s.barWait e m r))

/-- bar: arrive and wait (R188). -/
def execBar (a : RegNo) (s : State) : Out := .next (s.barrier (.bar a) a true true)
/-- bar.arr (R188). -/
def execBarArr (a : RegNo) (s : State) : Out := .next (s.barrier (.barArr a) a true false)
/-- bar.wait (R188). -/
def execBarWait (a : RegNo) (s : State) : Out := .next (s.barrier (.barWait a) a false true)

/-- A member that waits for phase ph at the barrier of the set at pa, placed or switched out, takes BAR_TIMEOUT (R190); one whose
own phase has completed does not, and its wait ends (R181). -/
def State.timeOut (s : State) (pa : Nat) (ph : Bool) (n : Word) (h : Nat) : State :=
  match s.placeOf h with
  | some (c, k) => (match (s.ctxOf c k).phase with
    | .wait (.bar e) =>
      if s.setPa c k e = some pa ∧ ((mfind (s.ctxOf c k).sets e).map (·.phase)) = some ph then
        s.faultWait h Cause.barTimeout (BitVec.ofNat 64 (((mfind (s.ctxOf c k).sets e).map (·.record)).getD 0)) n
      else s
    | _ => s)
  | none => match s.thread h with
    | some t => (match t.wait with
      | some (.bar e) => if s.savedSetPa h e = some pa ∧ (s.slotWord h (0xEC0 + 8 * e)).getLsbD 0 = ph then s.faultWait h Cause.barTimeout (s.savedRecord h e) n else s
      | _ => s)
    | none => s

/-- BAR_WATCHDOG for the set whose record is at physical address rec (R190): a phase that has not completed
2^wdog cycles after its first arrival breaks the barrier, and every waiting member takes BAR_TIMEOUT. -/
def execBarWatchdog (s : State) : Out :=
  let pa := s.arg 0
  let q := s.readRec s.act.core s.act.ctx pa
  let r := q.2
  let start := if r.phase then (s.aux pa).start1 else (s.aux pa).start0
  match start with
  | none => .next s
  | some t =>
    if t + 2 ^ r.wdog ≤ s.time ∧ r.broken = false ∧ r.joined ≠ 0 then
      let n : Word := BitVec.ofNat 64 (r.cnt r.phase)
      let s := q.1.writeRec s.act.core s.act.ctx pa { r with broken := true }
      .next ((s.aux pa).members.foldl (fun s m => s.timeOut pa r.phase n m.1) s)
    else .next s

-- Coupling (R191)

/-- couple and couple.re (R191): an arrival at the set's gate; a member that is coupled already passes a couple.re at once. -/
def State.coupleAt (s : State) (i : Instr) (a : RegNo) (again : Bool) : State :=
  s.setInstr i a (fun s e m pa r =>
    let va : Word := BitVec.ofNat 64 m.record
    if r.bad ∨ r.count = 0 then .done (s.deliver Cause.setRecord va r.w0)
    else if r.pool then .done (s.deliver Cause.setMode va r.w0)
    else if s.me.gang = some pa ∧ again = false then .done (s.deliver Cause.coupleState va r.w0)
    else
      let s := s.onMe (fun c => if c.gang = some pa then c else { c with phase := .wait (.gate e) })
      let h := s.me.handle
      let s := s.onAux pa (fun x => { x with gate := if x.gate.contains h then x.gate else x.gate ++ [h] })
      .done (s.testGate pa va r.joined r.w0))

/-- couple (R191). -/
def execCouple (a : RegNo) (s : State) : Out := .next (s.coupleAt (.couple a) a false)
/-- couple.re: a coupled member passes at once (R191). -/
def execCoupleRe (a : RegNo) (s : State) : Out := .next (s.coupleAt (.coupleRe a) a true)

-- Rejoin queues (R194..R196)

/-- rjput (R195): after a release at HERD scope the range is deposited; an empty range is not. -/
def execRjput (a b c : RegNo) (s : State) : Out :=
  let first := s.me.rg b
  let last := s.me.rg c
  .next (s.setInstr (.rjput a b c) a (fun s _ m _ r =>
    let va : Word := BitVec.ofNat 64 m.record
    if r.bad then .done (s.deliver Cause.setRecord va r.w0)
    else if !(r.pool && r.bound) then .done (s.deliver Cause.setMode va r.w0)
    else
      let q := s.release s.act.core s.act.ctx 1
      if !q.2 then .later q.1
      else
        let s := q.1
        if last.toNat ≤ first.toNat then .done s
        else if 32 ≤ ((s.herd r.herd).unit r.unit).ranges.length then .done (s.deliver Cause.rjFull first last)
        else .done (s.onUnit r.herd r.unit (fun u => { u with ranges := u.ranges ++ [(first, last)] }))))

/-- rjtake (R196): the oldest range, then an acquire at HERD scope; zeros when the queue is empty. -/
def execRjtake (d a : RegNo) (p : PredNo) (s : State) : Out :=
  .next (s.setInstr (.rjtake d a p) a (fun s _ m _ r =>
    let va : Word := BitVec.ofNat 64 m.record
    let put (x y : Word) (b : Bool) : List RegWrite :=
      [.g d.toNat { val := x, tag := false }, .g (d.toNat + 1) { val := y, tag := false }, .p p.toNat b]
    if r.bad then .done (s.deliver Cause.setRecord va r.w0)
    else if !(r.pool && r.bound) then .done (s.deliver Cause.setMode va r.w0)
    else match ((s.herd r.herd).unit r.unit).ranges with
      | [] => .done (s.result (put 0 0 false))
      | x :: rest =>
        let s := s.onUnit r.herd r.unit (fun u => { u with ranges := rest })
        .done ((s.acquire s.act.core 1).result (put x.1 x.2 true))))

end Sys2Proof.Machine
end

