-- ==== Sys2Proof/Machine/Messages.lean ====
section
/-!
DEFINITION. Messages, the ready queue, events and sleep (R197..R207), escape payloads at the contexts (R300), and the
arrival of messages, saved rings among them (R199, R201, R422).
-/

namespace Sys2Proof.Machine

-- Words read and written at virtual addresses

/-- Words of a virtual span read as loads of a context, each translated on its own. -/
def State.loadTagged (s : State) (p : Party) (va : Nat) : Nat → Chk (List Tagged)
  | 0 => .ok s []
  | n + 1 =>
    (s.checkSpan p (loadReq {} (BitVec.ofNat 64 va) 8) 0).andThen (fun s l =>
      let r := s.readWords p.core p.ctx l.entry false [l.pa / 8]
      (r.1.loadTagged p (va + 8) n).andThen (fun s ws => .ok s (r.2 ++ ws)))

/-- The physical words of n words at a virtual address that may be written; the address of the first that may not. -/
def State.writable (s : State) (ptb asid : Nat) (super : Bool) (va : Nat) : Nat → Except (MemKind × Nat) (List Nat)
  | 0 => .ok []
  | n + 1 =>
    match s.translate ptb asid super .write (BitVec.ofNat 64 va) with
    | .error k => .error (k, va)
    | .ok l =>
      match s.region l.pa with
      | .hole => .error (.notMapped, va)
      | _ =>
        match s.writable ptb asid super (va + 8) n with
        | .error e => .error e
        | .ok ws => .ok (l.pa / 8 :: ws)

/-- A write of n words at a virtual address by a device unit has to wait: some word lies in a range that an engine owns (R177, R350,
R374), or in a segment under conversion (R363). -/
def State.writeWaits (s : State) (ptb asid : Nat) (super : Bool) (va n : Nat) : Bool :=
  s.ownedByEngine asid (va % 2 ^ 57) (8 * n) ||
  (match s.writable ptb asid super va n with
   | .ok ws => ws.any (fun w => s.convertingAt (8 * w))
   | .error _ => false)

-- The ready queue (R202, R203)

/-- Handles of a priority. -/
def Core.ready (c : Core) (pri : Nat) : List Word := mget [] c.readyq pri
/-- A handle appended at a priority. -/
def Core.readyPut (c : Core) (pri : Nat) (h : Word) : Core := { c with readyq := mset c.readyq pri (c.ready pri ++ [h]) }

/-- The oldest held push of a context is made as long as its priority has space (R204). -/
def pushHeld (c : Core) (k : Nat) : Nat → Core
  | 0 => c
  | n + 1 =>
    let x : Context := mget {} c.ctxs k
    match x.held with
    | [] => c
    | (pri, h) :: rest =>
      if (c.ready pri).length < 16 then
        let y : Context := { x with held := rest }
        pushHeld { c.readyPut pri h with ctxs := mset c.ctxs k y } k n
      else c

/-- Held pushes of every context of a core are made as space frees (R204). -/
def State.flushHeld (s : State) (core : Nat) : State :=
  s.onCore core (fun c => (c.ctxs.map (·.1)).foldl (fun c k => pushHeld c k 4) c)

/-- rqput (R203). -/
def execRqput (a : RegNo) (pri : BitVec 2) (p : PredNo) (s : State) : Out :=
  let x := s.me.rg a
  .next (s.exposed (.rqput a pri p) noChecks (fun s =>
    if 16 ≤ (s.myCore.ready pri.toNat).length then .done (s.result [.p p.toNat false])
    else .done ((s.onCore s.act.core (fun c => c.readyPut pri.toNat x)).result [.p p.toNat true])))

/-- rqtake: the oldest handle of the highest non-empty priority up to pri (R203); held pushes follow (R204). -/
def execRqtake (d : RegNo) (pri : BitVec 2) (p : PredNo) (s : State) : Out :=
  .next (s.exposed (.rqtake d pri p) noChecks (fun s =>
    match (List.range (pri.toNat + 1)).find? (fun k => !(s.myCore.ready k).isEmpty) with
    | none => .done (s.result [.g d.toNat {}, .p p.toNat false])
    | some k =>
      let h := (s.myCore.ready k).headD 0
      let s := s.onCore s.act.core (fun c => { c with readyq := mset c.readyq k ((c.ready k).drop 1) })
      .done ((s.flushHeld s.act.core).result [.g d.toNat { val := h, tag := false }, .p p.toNat true])))

/-- An armed binding of a ring pushes its handle into the core's ready queue and is disarmed; a push that finds its
priority full, or others held before it, is held (R204). -/
def State.bindPush (s : State) (core ctx ring : Nat) : State :=
  let c := s.ctxOf core ctx
  match mfind c.binds ring with
  | some b =>
    if b.armed then
      let s := s.onCtx core ctx (fun c => { c with binds := mset c.binds ring { b with armed := false }
                                                   held := c.held ++ [(b.pri, b.task)] })
      s.flushHeld core
    else s
  | none => s

/-- mbind (R204): a ring that is not empty pushes at once. -/
def execMbind (a : RegNo) (ring pri : BitVec 2) (s : State) : Out :=
  let x := s.me.rg a
  .next (s.exposed (.mbind a ring pri) noChecks (fun s =>
    let s := s.onMe (fun c => { c with binds := mset c.binds ring.toNat { task := x, pri := pri.toNat, armed := true } })
    if (mget {} s.me.rings ring.toNat).occ = 0 then .done s else .done (s.bindPush s.act.core s.act.ctx ring.toNat)))

-- send and recv (R197..R200)

/-- The payload registers of send and reply with their tags. -/
def Context.payload (c : Context) (d : RegNo) (n1 : BitVec 3) : List Tagged :=
  (regRange d (n1.toNat + 1)).map (fun r => c.view.getG r)

/-- send (R197): the escape rule on its payload, then the copy into the send-buffer entry of its priority; an
occupied entry stalls the context. -/
def execSend (d a : RegNo) (n1 : BitVec 3) (pri : BitVec 2) (s : State) : Out :=
  let x := s.me.rg a
  let words := s.me.payload d n1
  .next (s.exposed (.send d a n1 pri)
    (fun s =>
      if x.toNat % 2 ^ 32 = 0xFFFFFFFF then .fault s Cause.msgHandle x 0
      else s.escapeAll s.party (.scope 2) x words)
    (fun s =>
      if (mfind s.myCore.sendbuf pri.toNat).isSome then .later s
      else
        let m : Msg := { src := s.me.handle, dst := x.toNat % 2 ^ 32, pri := pri.toNat, words := words, time := s.time, seq := s.tick
                         evq := s.me.sr 0x063, core := s.act.core }
        .done (s.onCore s.act.core (fun c => { c with sendbuf := mset c.sendbuf pri.toNat m }))))

/-- The header of a message (R198). -/
def Msg.header (m : Msg) : Word :=
  BitVec.ofNat 64 (m.src % 2 ^ 32 + 2 ^ 32 * ((m.words.length + 7) % 8) + 2 ^ 35 * (m.pri % 4) +
    2 ^ 40 * (((List.range 8).map (fun k => if (m.words.getD k {}).tag then 2 ^ k else 0)).sum))

/-- The slot of a ring (R198). -/
def slotAddr (mbx : Word) (ring i : Nat) : Nat := mbx.toNat + 1280 * ring + 80 * i

/-- Registers that a taken message writes (R200). -/
def recvWrites (d a : Nat) (ws : List Tagged) : List RegWrite :=
  let h := (ws.getD 0 {}).val
  let n := field h.toNat 34 32
  (List.range 8).map (fun k =>
    RegWrite.g (d + k) (if k ≤ n then { val := (ws.getD (2 + k) {}).val, tag := h.getLsbD (40 + k) } else {})) ++
  [.g a { val := h, tag := false }]

/-- The oldest message of a ring is taken (R200), later when its slot has to wait as a load does; a slot that cannot be
read leaves everything and delivers its fault at the next block boundary. ws: further writes on success. -/
def State.takeMsg (s : State) (core ctx ring d a : Nat) (ws : List RegWrite) : Perf :=
  let c := s.ctxOf core ctx
  let r := mget {} c.rings ring
  let va := slotAddr (c.sr 0x064) ring r.head
  let p : Party := { ptb := (c.sr 0x060).toNat, asid := (c.sr 0x061).toNat, super := c.super, core := core, ctx := ctx }
  match s.loadTagged p va 10 with
  | .wait => .later s
  | .fault s cause _ _ => .done (s.onCtx core ctx (fun c => { (c.stateFault cause (BitVec.ofNat 64 va) 0) with phase := .fetch }))
  | .ok s msg =>
    .done (s.onCtx core ctx (fun c =>
      let arch := c.arch.applyAll (recvWrites d a msg ++ ws)
      { c with arch := arch, work := arch, phase := .fetch
               rings := mset c.rings ring { head := (r.head + 1) % 16, occ := r.occ - 1 } }))

/-- recv (R200): it waits for a message. -/
def execRecv (d a : RegNo) (ring : BitVec 2) (s : State) : Out :=
  .next (s.exposed (.recv d a ring) noChecks (fun s =>
    if (mget {} s.me.rings ring.toNat).occ = 0 then
      .done (s.onMe (fun c => { c with phase := .wait (.recv ring.toNat d.toNat a.toNat) }))
    else s.takeMsg s.act.core s.act.ctx ring.toNat d.toNat a.toNat []))
/-- recv.nb: pP tells whether there was one (R200). -/
def execRecvNb (d a : RegNo) (ring : BitVec 2) (p : PredNo) (s : State) : Out :=
  .next (s.exposed (.recvNb d a ring p) noChecks (fun s =>
    if (mget {} s.me.rings ring.toNat).occ = 0 then .done (s.result [.p p.toNat false])
    else s.takeMsg s.act.core s.act.ctx ring.toNat d.toNat a.toNat [.p p.toNat true]))

-- Delivery (R199, R201, R422)

/-- Two messages come from one send-buffer entry. -/
def Msg.same (m x : Msg) : Bool := x.core == m.core && x.pri == m.pri
/-- A message leaves the network and stays in its sender's entry: it was refused (R199). -/
def State.refuseMsg (s : State) (m : Msg) : State :=
  { s with launch := { s.launch with msgs := s.launch.msgs.filter (fun x => !m.same x) } }
/-- The message in flight is gone, and the sender's entry is free. -/
def State.dropMsg (s : State) (m : Msg) : State :=
  (s.refuseMsg m).onCore m.core (fun c => { c with sendbuf := mdel c.sendbuf m.pri })

/-- A message to a handle that names no live thread is discarded, with an MSG_DEAD record (R201, R205). -/
def State.deadMsg (s : State) (m : Msg) : State :=
  (s.dropMsg m).postEvq 4 m.evq (launchOfHandle m.src)
    [eventWord0 0x0010 m.src, BitVec.ofNat 64 m.dst, BitVec.ofNat 64 m.pri, 0]

/-- A handle names a live thread that has rings: an escape thread of a launch whose record gives no mailbox area has
none (R201, R383). -/
def State.hasRings (s : State) (handle : Nat) : Bool :=
  (mfind s.launch.threads handle).isSome &&
  !(decide (2 ^ 19 ≤ threadOfHandle handle) && (match mfind s.launch.live (launchOfHandle handle) with
    | some l => l.record.getD 3 0 == 0
    | none => true))

/-- A handle names a thread of a live launch that has still to start: a message to it is held (R201). -/
def State.unstarted (s : State) (handle : Nat) : Bool :=
  match mfind s.launch.live (launchOfHandle handle) with
  | some l => decide (threadOfHandle handle < field (l.record.getD 0 0).toNat 27 8) && decide (l.next ≤ threadOfHandle handle)
  | none => false

/-- An earlier message of the same thread to the same handle at the same priority is still in a send buffer (R199). -/
def State.msgFollows (s : State) (m : Msg) : Bool :=
  s.cores.any (fun c => c.2.sendbuf.any (fun x => x.2.src == m.src && x.2.dst == m.dst && x.2.pri == m.pri && decide (x.2.seq < m.seq)))

/-- The words of a message in its ring slot (R198). -/
def Msg.slot (m : Msg) : List Tagged :=
  [{ val := m.header, tag := false }, { val := BitVec.ofNat 64 m.time, tag := false }] ++
  (List.range 8).map (fun k => { val := (m.words.getD k {}).val, tag := false })

/-- Words written by an agent at physical words. -/
def State.agentWrites (s : State) : List Nat → List Tagged → State
  | w :: ws, x :: xs => (s.agentWrite (8 * w) x).agentWrites ws xs
  | _, _ => s

/-- A ring slot cannot be written: a record is posted and the message is held until its resolution (R422). DESIGN CHOICE (log
entry 63): where the thread is switched out, the record names the core of the sender, whose buffer holds the message. -/
def State.holdMsg (s : State) (m : Msg) (k : MemKind) (va : Nat) (where_ : Nat) : State :=
  let mark (x : Msg) : Msg := if m.same x then { x with blocked := true, first := true } else x
  let s := { s with launch := { s.launch with msgs := s.launch.msgs.map mark } }
  let tblk := match s.placeOf m.dst with
    | some (c, k) => (s.ctxOf c k).sr 0x042
    | none => s.slotWord m.dst (0x800 + 8 * 0x042)
  s.postFault { cause := memCause k .store, sev := 1, src := 0, handle := m.dst
                launch := some (launchOfHandle m.dst), loc := where_, tval := BitVec.ofNat 64 va, aux := tblk
                agent := .message (4 * m.core + m.pri) }

/-- A held message to the same ring stands in front, one that is tried again after its resolution too (R422). -/
def State.msgBehind (s : State) (m : Msg) : Bool :=
  m.blocked || s.launch.msgs.any (fun x => x.first && !m.same x && x.dst == m.dst && x.pri == m.pri)

/-- SEND_INJECT (R197): the entry's message enters the network; the entry stays filled until it is delivered. -/
def execSendInject (s : State) : Out :=
  match mfind s.myCore.sendbuf (s.arg 0) with
  | none => .next s
  | some m =>
    if s.launch.msgs.any m.same then .next s
    else .next { s with launch := { s.launch with msgs := s.launch.msgs ++ [m] } }

/-- The routers fetch the entry of a core again, and messages to it wait (R449). -/
def State.routeWaits (s : State) (core : Nat) : Bool := s.dev.refetch.contains core

/-- A message is written into a resident ring (R199), and its binding pushes (R204). -/
def State.writeRing (s : State) (core ctx : Nat) (m : Msg) : State :=
  let c := s.ctxOf core ctx
  let r := mget {} c.rings m.pri
  if 16 ≤ r.occ then s.refuseMsg m
  else
    let va := slotAddr (c.sr 0x064) m.pri ((r.head + r.occ) % 16)
    if s.writeWaits (c.sr 0x060).toNat (c.sr 0x061).toNat c.super va 10 then s
    else match s.writable (c.sr 0x060).toNat (c.sr 0x061).toNat c.super va 10 with
    | .error (k, a) => s.holdMsg m k a core
    | .ok ws =>
      let s := s.agentWrites ws m.slot
      let s := s.onCtx core ctx (fun c => { c with rings := mset c.rings m.pri { r with occ := r.occ + 1 } })
      (s.dropMsg m).bindPush core ctx m.pri

/-- MESSAGE_ARRIVAL of message k in flight (R199, R201): it is written, refused, discarded as dead, or held while its
thread has still to start, is switched out, or its rings are locked (R422). -/
def execMessageArrival (s : State) : Out :=
  match s.launch.msgs[s.arg 0]? with
  | none => .next s
  | some m =>
    if s.msgBehind m || s.msgFollows m || s.unstarted m.dst then .next s
    else if !s.hasRings m.dst then .next (s.deadMsg m)
    else match s.placeOf m.dst with
      | none => .next s
      | some (core, ctx) => if (s.ctxOf core ctx).locked || s.routeWaits core then .next s else .next (s.writeRing core ctx m)

/-- SAVED_RING_DELIVERY of message k for a thread whose rings stand in its save slot (R422): the ring slot is written
through the thread's translation, the occupancy rises, and an armed binding leaves a held push. -/
def execSavedRingDelivery (s : State) : Out :=
  match s.launch.msgs[s.arg 0]? with
  | none => .next s
  | some m =>
    let saved := match mfind s.launch.threads m.dst with
      | some t => t.place.isNone && !t.saving
      | none => false
    if !saved || s.msgBehind m || s.msgFollows m then .next s
    else if !s.hasRings m.dst then .next (s.deadMsg m)
    else
      let ring := s.slotWord m.dst (0xE20 + 8 * m.pri)
      let head := field ring.toNat 3 0
      let occ := field ring.toNat 8 4
      if 16 ≤ occ then .next (s.refuseMsg m)
      else
        let sreg (n : Nat) : Word := s.slotWord m.dst (0x800 + 8 * n)
        let va := slotAddr (sreg 0x064) m.pri ((head + occ) % 16)
        let pr := (sreg 0x020).toNat % 4
        let super := pr == 1 || pr == 2
        if s.writeWaits (sreg 0x060).toNat (sreg 0x061).toNat super va 10 then .next s
        else match s.writable (sreg 0x060).toNat (sreg 0x061).toNat super va 10 with
        | .error (k, a) => .next (s.holdMsg m k a m.core)
        | .ok ws =>
          let s := s.agentWrites ws m.slot
          let s := s.putSlotWord m.dst (0xE20 + 8 * m.pri) (BitVec.ofNat 64 (head + 16 * (occ + 1)))
          let b := s.slotWord m.dst (0xE48 + 16 * m.pri)
          let s :=
            if b.getLsbD 2 then
              let task := s.slotWord m.dst (0xE40 + 16 * m.pri)
              let k := ((List.range 4).find? (fun k => !(s.slotWord m.dst (0xE88 + 16 * k)).getLsbD 2)).getD 3
              let s := s.putSlotWord m.dst (0xE80 + 16 * k) task
              let s := s.putSlotWord m.dst (0xE88 + 16 * k) (BitVec.ofNat 64 (b.toNat % 4 + 4))
              s.putSlotWord m.dst (0xE48 + 16 * m.pri) (BitVec.ofNat 64 (b.toNat % 4))
            else s
          .next (s.dropMsg m)

-- Event records (R205, R206, R369)

/-- The herd whose event queue a context waits on (R206). -/
def State.evqHerd (s : State) (core ctx : Nat) : Option Nat :=
  let c := s.ctxOf core ctx
  let e := c.sr 0x063
  if e.getLsbD 8 then some (e.toNat % 256)
  else match mfind s.launch.live (launchOfHandle c.handle) with
    | some l => if (l.record.getD 7 0).toNat % 4 = 2 then some (field (l.record.getD 7 0).toNat 12 5) else none
    | none => none

/-- The oldest record of a herd's queue is taken into d..d+3. -/
def State.takeEvent (s : State) (core ctx d : Nat) (ws : List RegWrite) (h : Nat) : Option State :=
  match (s.herd h).events with
  | [] => none
  | e :: rest =>
    let s := s.onHerd h (fun y => { y with events := rest })
    let ws' := (List.range 4).map (fun k => RegWrite.g (d + k) { val := e.getD k 0, tag := false }) ++ ws
    some (s.onCtx core ctx (fun c =>
      let arch := c.arch.applyAll ws'
      { c with arch := arch, work := arch, phase := .fetch }))

/-- waitev (R206): EVQ_NONE without a queue; it waits on an empty one. -/
def execWaitev (d : RegNo) (s : State) : Out :=
  .next (s.exposed (.waitev d)
    (fun s => if (s.evqHerd s.act.core s.act.ctx).isNone then .fault s Cause.evqNone (s.me.sr 0x063) 0 else .ok s ())
    (fun s =>
      match (s.evqHerd s.act.core s.act.ctx).bind (s.takeEvent s.act.core s.act.ctx d.toNat []) with
      | some s => .done s
      | none => .done (s.onMe (fun c => { c with phase := .wait (.waitev d.toNat) }))))
/-- waitev.nb (R206). -/
def execWaitevNb (d : RegNo) (p : PredNo) (s : State) : Out :=
  .next (s.exposed (.waitevNb d p) noChecks (fun s =>
    match (s.evqHerd s.act.core s.act.ctx).bind (s.takeEvent s.act.core s.act.ctx d.toNat [.p p.toNat true]) with
    | some s => .done s
    | none => .done (s.result [.p p.toNat false])))

-- Escape payloads at a context (R207, R300)

/-- The registers of an escape thread: the payload in g1..g8 (R21). -/
def payloadWrites (ws : List Tagged) : List RegWrite := (List.range 8).map (fun k => .g (k + 1) (ws.getD k {}))

/-- A sleeping escape context takes the head payload of its herd's queue (R207). -/
def State.takePayload (s : State) (core ctx : Nat) : Option State :=
  let c := s.ctxOf core ctx
  let free := match c.ticket with
    | some t => t.2.2
    | none => true
  match (s.herd (herdOfCore core)).escq with
  | [] => none
  | x :: rest =>
    if !free then none
    else
      let s := s.onHerd (herdOfCore core) (fun y => { y with escq := rest })
      some (s.onCtx core ctx (fun c =>
        let arch := c.arch.applyAll (payloadWrites x.2.2.2)
        { (c.setSr 0x00F (BitVec.ofNat 64 x.2.1)) with
            arch := arch, work := arch, phase := .fetch, ticket := some (x.1, x.2.1, false)
            ticketLaunch := x.2.2.1 }))

/-- A sleep whose mask holds a cause that holds ends (R207): escape first; a timer cause clears its event. DESIGN CHOICE (log entry
70): where a message or an event record is there too, the timer ends the sleep, so that no interrupt follows for its event. -/
def State.wakeSleep (s : State) (core ctx mask : Nat) : Option State :=
  let s := s.onCtx core ctx (fun c => c.raise s.time)
  let c := s.ctxOf core ctx
  let woken (f : Context → Context) : Option State := some (s.onCtx core ctx (fun c => { (f c) with phase := .fetch }))
  let esc := if mask.testBit 3 then s.takePayload core ctx else none
  match esc with
  | some s => some s
  | none =>
    if mask.testBit 2 && c.timerEvent then woken (fun c => { c with timerEvent := false })
    else if mask.testBit 0 && c.rings.any (fun r => r.2.occ != 0) then woken id
    else if mask.testBit 1 && (match s.evqHerd core ctx with
        | some h => !(s.herd h).events.isEmpty
        | none => false) then woken id
    else none

/-- sleep (R207). -/
def execSleep (mask : BitVec 4) (s : State) : Out :=
  .next (s.exposed (.sleep mask)
    (fun s => if mask.getLsbD 3 && !s.escBit s.act.core s.act.ctx then
        .fault s Cause.sleepMask (mask.setWidth 64) 0 else .ok s ())
    (fun s => match s.wakeSleep s.act.core s.act.ctx mask.toNat with
      | some s => .done s
      | none => .done (s.onMe (fun c => { c with phase := .wait (.sleep mask.toNat) }))))

end Sys2Proof.Machine
end

