-- ==== Sys2Proof/Machine/Agents.lean ====
section
/-!
DEFINITION. Memory accesses of the device's agents: engines, matrix elements and the fabric (R177, R349, R350, R351,
R374). Spans are taken apart at tile boundaries; every piece is checked before a value moves.
-/

namespace Sys2Proof.Machine

-- Spans

/-- The pieces of a span that do not cross a 1,024-byte boundary: address and length. -/
def spanPieces : Nat → Nat → Nat → List (Nat × Nat)
  | 0, _, _ => []
  | f + 1, va, n =>
    if n = 0 then []
    else
      let k := min n (1024 - va % 1024)
      (va, k) :: spanPieces f (va + k) (n - k)
/-- The pieces of a span of n bytes at va. -/
def piecesOf (va n : Nat) : List (Nat × Nat) := spanPieces (n / 1024 + 2) va n

/-- The request of an agent for a piece. -/
def agentReq (need : Need) (origin : Origin) (va size : Nat) : AccessReq :=
  { va := BitVec.ofNat 64 va, size := size, need := need, origin := origin, base := {}
    reads := need != .write, align := 1 }

/-- The ranges that commands own, replaced. -/
def State.withOwned (s : State) (o : List (Nat × Nat × Nat × Nat)) : State := { s with mem := { s.mem with owned := o } }

/-- A piece is checked for an agent (R151). A command is held by the ranges of commands performed before it, an agent
that is no command by every range (R350). -/
def State.agentSpan (s : State) (p : Party) (need : Need) (origin : Origin) (cmd : Nat) (x : Nat × Nat) : Chk Leaf :=
  let owned := s.mem.owned
  match (s.withOwned (owned.filter (fun o => cmd == 0 || decide (o.2.2.2 < cmd)))).checkSpan p (agentReq need origin x.1 x.2) 0 with
  | .ok s l => .ok (s.withOwned owned) l
  | .fault s c a b => .fault (s.withOwned owned) c a b
  | .wait => .wait

/-- The physical pieces of a list of pieces. -/
def State.agentPieces (s : State) (p : Party) (need : Need) (origin : Origin) (cmd : Nat) :
    List (Nat × Nat) → Chk (List (Nat × Nat))
  | [] => .ok s []
  | x :: xs =>
    (s.agentSpan p need origin cmd x).andThen (fun s l =>
      (s.agentPieces p need origin cmd xs).andThen (fun s ys => .ok s ((l.pa, x.2) :: ys)))

/-- The physical pieces of a span of n bytes at va. -/
def State.agentCheck (s : State) (p : Party) (need : Need) (origin : Origin) (cmd va n : Nat) : Chk (List (Nat × Nat)) :=
  s.agentPieces p need origin cmd (piecesOf va n)

-- Reads

/-- A word as its slice or port holds it: registers of the window as they read (R359, R360). -/
def State.portWord (s : State) (w : Nat) : Tagged :=
  match s.region (8 * w) with
  | .regs n k off => { val := (s.windowRead n k off).getD 0 }
  | .control off => { val := s.controlRead off }
  | _ => s.homeWord w

/-- Bytes at the coherence points: home slices, scratch and array ports (R351). -/
def State.homeBytes (s : State) (ps : List (Nat × Nat)) : List Byte :=
  (ps.map (fun x => bytesOfWords x.1 x.2 ((wordsOf x.1 x.2).map s.portWord))).flatten

/-- A word as the port of a core shows it to a context, without filling its caches (R349). -/
def State.peekWord (s : State) (core ctx w : Nat) : Tagged :=
  if (s.region (8 * w)).cached then (s.loadWord core ctx w false).2 else s.portWord w

/-- Bytes as the issuing core's port shows them (R349). -/
def State.issuerBytes (s : State) (core ctx : Nat) (ps : List (Nat × Nat)) : List Byte :=
  (ps.map (fun x => bytesOfWords x.1 x.2 ((wordsOf x.1 x.2).map (s.peekWord core ctx)))).flatten

-- Writes

/-- A word written by an agent at its slice or port (R351, R359). -/
def State.agentPut (s : State) (x : WordWrite) : State :=
  match s.region (8 * x.word) with
  | .regs n k off => s.follow n k 0 [off, x.val.toNat] .contextWindowWrite
  | .control off => s.follow 0 0 0 [off, x.val.toNat] .controlRegisterWrite
  | _ => s.homeStore x

/-- Bytes written by an agent over physical pieces; tags of the touched words clear. -/
def State.agentBytes (s : State) : List (Nat × Nat) → List Byte → State
  | [], _ => s
  | x :: xs, bs => ((wordWrites x.1 (bs.take x.2) false).foldl State.agentPut s).agentBytes xs (bs.drop x.2)

/-- Every cached copy of a word is recalled, behind the writes to it that have left their ports (R177, R374): what is dirty
is written back. -/
def State.recall (s : State) (w : Nat) : State :=
  let s := s.cores.foldl (fun s c => s.pushWord c.1 w) s
  s.herds.foldl (fun s h => (s.evictSlice h.1 w).passSlice h.1 w) s

/-- A word written by an engine, its copies recalled first (R177, R374). -/
def State.enginePut (s : State) (x : WordWrite) : State :=
  match s.region (8 * x.word) with
  | .regs _ _ _ => s.agentPut x
  | .control _ => s.agentPut x
  | _ => (s.recall x.word).homeWrite x

/-- Bytes written by an engine over physical pieces; tags clear (R251). -/
def State.engineBytes (s : State) : List (Nat × Nat) → List Byte → State
  | [], _ => s
  | x :: xs, bs => ((wordWrites x.1 (bs.take x.2) false).foldl (State.enginePut) s).engineBytes xs (bs.drop x.2)

end Sys2Proof.Machine
end

