-- ==== Sys2Proof/Machine/Graph.lean ====
section
/-!
DEFINITION. The fabric between its elements: sites and their numbers (R13, R14, R431), routing of tokens and control
tokens (R66, R67, R276..R278, R439), graph faults and status (R416, R417), activation and rounds (R308, R309).
-/

namespace Sys2Proof.Machine

-- Numbers (R13, R14, R431)

/-- Logical column and row of a site. -/
def siteX (n : Nat) : Nat := n / 32
def siteY (n : Nat) : Nat := n % 32
/-- The site stands in a fine stripe (R13). -/
def siteFine (n : Nat) : Bool := siteY n % 16 / 4 != 2
/-- Class row of a site (R431). -/
def classRow (n : Nat) : Nat :=
  let y := siteY n
  if siteFine n then 12 * (y / 16) + 4 * (if y % 16 / 4 = 3 then 2 else y % 16 / 4) + y % 4 else 4 * (y / 16) + y % 4
/-- The logical row of a class row. -/
def rowY (broad : Bool) (r : Nat) : Nat :=
  if broad then 16 * (r / 4) + 8 + r % 4
  else
    let j := r % 12 / 4
    16 * (r / 12) + 4 * (if j = 2 then 3 else j) + r % 4
/-- The site at a column and a class row. -/
def siteAt (broad : Bool) (x r : Nat) : Nat := 32 * x + rowY broad r
/-- Field of a site. -/
def fieldOfSite (n : Nat) : Nat := 3 * (siteY n / 16) + siteX n / 64
/-- Device stripe number of a site (R13). -/
def stripeOfSite (n : Nat) : Nat := 4 * fieldOfSite n + siteY n % 16 / 4
/-- The element is an MXE, a memory tile (R14). -/
def siteMxe (n : Nat) : Bool := siteX n % 4 == 0
def siteMt (n : Nat) : Bool := siteX n % 8 == 2
/-- MXE and MT numbers (R431). -/
def mxeOfSite (n : Nat) : Nat := 48 * siteY n + siteX n / 4
def mtOfSite (n : Nat) : Nat := 24 * siteY n + siteX n / 8
/-- The site of an MXE and of an MT. -/
def siteOfMxe (e : Nat) : Nat := 32 * (4 * (e % 48)) + e / 48
def siteOfMt (m : Nat) : Nat := 32 * (8 * (m % 24) + 2) + m / 24
/-- Base of an MT's scratch (R359). -/
def mtBase (n : Nat) : Nat := 0x80100000000 + 2097152 * mtOfSite n

/-- The link on the other side. -/
def opposite (d : Nat) : Nat := (d + 2) % 4
/-- The neighbour over link N, E, S or W: the next column, or the next row of the class. -/
def neighbour (n d : Nat) : Option Nat :=
  let b := !siteFine n
  let rows := if b then 8 else 24
  let r := classRow n
  match d with
  | 0 => if r = 0 then none else some (siteAt b (siteX n) (r - 1))
  | 1 => if siteX n = 191 then none else some (siteAt b (siteX n + 1) r)
  | 2 => if r + 1 = rows then none else some (siteAt b (siteX n) (r + 1))
  | _ => if siteX n = 0 then none else some (siteAt b (siteX n - 1) r)
/-- The link crosses a reticle seam (R439). -/
def crossesSeam (n d : Nat) : Bool :=
  match neighbour n d with
  | some m => fieldOfSite m != fieldOfSite n
  | none => false

-- The launch of a site

/-- A live launch. -/
def State.liveLaunch (s : State) (l : Nat) : Launch := mget { queue := 0, record := [] } s.launch.live l
/-- A live launch changed. -/
def State.onLaunch (s : State) (l : Nat) (f : Launch → Launch) : State :=
  match mfind s.launch.live l with
  | some x => { s with launch := { s.launch with live := mset s.launch.live l (f x) } }
  | none => s
/-- A graph launch as a party: its accesses are those of U (R351). -/
def State.graphParty (s : State) (l : Nat) : Party :=
  let q := mget {} s.launch.queues (s.liveLaunch l).queue
  { ptb := q.ptb.toNat, asid := q.asid.toNat, super := false, core := 0, ctx := 0, isCtx := false }
/-- The launch that holds a site. -/
def State.launchOf (s : State) (n : Nat) : Nat := (s.site n).launch.getD 0

/-- Sticky flags of a graph launch: nx, uf, of, dz, nv, QNT_NAN, QNT_INF (R417). -/
def State.graphFlags (s : State) (n f : Nat) : State :=
  s.onLaunch (s.launchOf n) (fun l => { l with status := l.status ||| BitVec.ofNat 64 (f % 512) })
/-- The poison count of a graph launch, saturating (R417). -/
def State.addPoison (s : State) (n k : Nat) : State :=
  s.onLaunch (s.launchOf n) (fun l =>
    let x := l.status.toNat
    { l with status := BitVec.ofNat 64 (x - 65536 * field x 31 16 + 65536 * min (field x 31 16 + k) 65535) })
/-- The count of tokens that sinks consumed, saturating (R417). -/
def State.addSunk (s : State) (n : Nat) : State :=
  s.onLaunch (s.launchOf n) (fun l =>
    let x := l.status.toNat
    { l with status := BitVec.ofNat 64 (x % 2 ^ 32 + 2 ^ 32 * min (x / 2 ^ 32 + 1) (2 ^ 32 - 1)) })

/-- A runtime fault of a configuration (R416): the agent that met it stops, and posts a record. -/
def State.graphFault (s : State) (n cause sev : Nat) (tval tval2 iter : Word) : State :=
  let x := s.site n
  let s := s.onSite n (fun x => { x with stopped := true, seq := { x.seq with mode := if x.seq.mode = .idle then .idle else .faulted } })
  s.postFault { cause := cause, sev := sev, src := if siteMxe n then 5 else 4, launch := x.launch, loc := n
                tval := tval, tval2 := tval2, aux := x.plane.addr, iter := iter, agent := .fabric (x.launch.getD 0) n }

/-- The sites that a launch's configuration holds. -/
def State.sitesOf (s : State) (l : Nat) : List Nat := (s.fabric.sites.filter (fun e => e.2.launch == some l)).map (·.1)
/-- An admitted configuration changed. -/
def State.onPlaced (s : State) (l : Nat) (f : Placed → Placed) : State :=
  match mfind s.fabric.placed l with
  | some c => { s with fabric := { s.fabric with placed := mset s.fabric.placed l (f c) } }
  | none => s
/-- Every site of a configuration stops. -/
def State.stopSites (s : State) (l : Nat) : State :=
  ((s.sitesOf l).foldl (fun s n => s.onSite n (fun x => { x with stopped := true, rstopped := true })) s).onPlaced l
    (fun c => { c with mode := .faulted })
/-- A fault of a load after its first step stops the configuration (R68, R442). -/
def State.loadFault (s : State) (n cause : Nat) (tval tval2 : Word) : State :=
  let l := s.launchOf n
  (s.stopSites l).postFault { cause := cause, sev := 1, src := 4, launch := some l, loc := n, tval := tval, tval2 := tval2
                              aux := (s.site n).plane.addr, agent := .load l }

/-- An argument word of a launch, read as a load of the fabric (R290, R314, R383). -/
def State.argWord (s : State) (l k : Nat) : Chk Word :=
  let va := ((s.liveLaunch l).record.getD 6 0).toNat + 8 * k
  (s.agentCheck (s.graphParty l) .read .fabric 0 va 8).andThen (fun s ps =>
    .ok s (BitVec.ofNat 64 (valueLE (s.homeBytes ps))))

-- Routing (R66, R67)

/-- Source code of output N, E, S, W, or of the router operator's first input. -/
def PlaneSlot.src (p : PlaneSlot) (o : Nat) : Nat := p.bits (77 + 3 * o) (75 + 3 * o)
/-- Who takes a token of a source code: outputs 0..3, operator inputs 4 and 5. DEDUCED (log entry 43): rsel names the second
input of carry as it does of merge (R293, R294), though R66 gives it to merge alone. -/
def PlaneSlot.takers (p : PlaneSlot) (code : Nat) : List Nat :=
  ((List.range 4).filter (fun o => p.src o == code)) ++
  (if p.bits 91 90 != 0 && p.src 4 == code then [4] else []) ++
  (if 2 ≤ p.bits 91 90 ∧ p.bits 94 92 = code then [5] else [])
/-- Who takes a token that arrives on a link: the router's takers and the element. -/
def PlaneSlot.portTakers (p : PlaneSlot) (l : Nat) : List Nat :=
  p.takers (l + 1) ++ (if p.reads.contains l then [6] else [])
/-- An operation that a sequencer runs (R320). -/
def seqOp (op : Nat) : Bool := decide (0x80 ≤ op) && decide (op ≤ 0x86) && op != 0x85
/-- Outgoing control links of a source code. -/
def PlaneSlot.ctlLinks (p : PlaneSlot) (code : Nat) : List Nat :=
  (List.range 4).filter (fun o => p.bits (101 + 4 * o) (98 + 4 * o) == code)
/-- Who takes a control token that arrives on a link: outgoing links, the router operator, the branch-outcome queue. -/
def PlaneSlot.ctlTakers (p : PlaneSlot) (l : Nat) : List Nat :=
  let rop := p.bits 91 90
  p.ctlLinks (l + 1) ++
  (if (rop == 1 || rop == 2) && p.bits 97 96 == l then [4] else []) ++
  (if seqOp (p.bits 7 0) && p.bits 97 96 == l then [6] else [])

/-- A token is put on an incoming link of a site; none while the link is full or the site is not active (R277, R442).
Where the active plane gives it no taker it waits for a plane that does. -/
def State.arrivePort (s : State) (m p : Nat) (t : Token) : Option State :=
  let x := s.site m
  if !x.running || x.change.isSome || (mfind x.ports p).isSome then none
  else some (s.onSite m (fun x => { x with ports := mset x.ports p { tok := t, todo := x.plane.portTakers p } }))

/-- A token leaves a site over link o: none while it is not accepted. Beyond the configuration it is gone; over a seam
it takes a place in the seam buffer (R439). -/
def State.sendData (s : State) (n o : Nat) (t : Token) : Option State :=
  match neighbour n o with
  | none => some s
  | some m =>
    if (s.site m).launch != (s.site n).launch then some s
    else if crossesSeam n o then
      let p := opposite o
      if s.fabric.deadSeams.contains (n, o) ||
          decide (4 ≤ (s.fabric.seams.filter (fun x => x.site == m && x.port == p && x.ctl.isNone)).length) then none
      else some { s with fabric := { s.fabric with seams := s.fabric.seams ++ [{ site := m, port := p, tok := t }] } }
    else s.arrivePort m (opposite o) t

/-- A control token is put on an incoming link of a site; none while the link is full or the site is not active. -/
def State.arriveCtl (s : State) (m p : Nat) (v : Bool) : Option State :=
  let x := s.site m
  if !x.running || x.change.isSome || (mfind x.ctl p).isSome then none
  else some (s.onSite m (fun x => { x with ctl := mset x.ctl p (v, x.plane.ctlTakers p) }))

/-- A control token leaves a site over link o (R276); over a seam it crosses as one flit (R439). -/
def State.sendCtl (s : State) (n o : Nat) (v : Bool) : Option State :=
  match neighbour n o with
  | none => some s
  | some m =>
    if (s.site m).launch != (s.site n).launch then some s
    else if crossesSeam n o then
      let p := opposite o
      if s.fabric.deadSeams.contains (n, o) || s.fabric.seams.any (fun x => x.site == m && x.port == p && x.ctl.isSome) then none
      else some { s with fabric := { s.fabric with seams := s.fabric.seams ++ [{ site := m, port := p, ctl := some v }] } }
    else s.arriveCtl m (opposite o) v

/-- The taker c has the token of port p: the link frees when no other waits. -/
def Site.took (x : Site) (p c : Nat) : Site :=
  match mfind x.ports p with
  | none => x
  | some t =>
    let todo := t.todo.filter (fun k => k != c)
    { x with ports := if todo.isEmpty then mdel x.ports p else mset x.ports p { t with todo := todo } }
/-- The taker c has the control token of link p. -/
def Site.tookCtl (x : Site) (p c : Nat) : Site :=
  match mfind x.ctl p with
  | none => x
  | some t =>
    let todo := t.2.filter (fun k => k != c)
    { x with ctl := if todo.isEmpty then mdel x.ctl p else mset x.ctl p (t.1, todo) }

/-- A taker 0..5 of a token of a site: an output, or an input of the router operator. -/
def State.give (s : State) (n c : Nat) (t : Token) : Option State :=
  let x := s.site n
  match c with
  | 4 => if x.rin0.isSome then none else some (s.onSite n (fun x => { x with rin0 := some t }))
  | 5 => if x.rin1.isSome then none else some (s.onSite n (fun x => { x with rin1 := some t }))
  | 6 =>
    none
  | o => s.sendData n o t

/-- A token at port p of a memory tile enters input queue p (R311). A token behind the EOR of a round waits on its link until
the round has ended (R309). -/
def State.enqueue (s : State) (n p : Nat) (t : Token) : Option State :=
  let x := s.site n
  let q := mget [] x.seq.iq p
  if seqOp x.op && !x.ending && x.change.isNone && decide (q.length < 4) && !q.any (fun t => t.kind == 2) then
    some (s.onSite n (fun x => { x with seq := { x.seq with iq := mset x.seq.iq p (mget [] x.seq.iq p ++ [t]) } }))
  else none

/-- The takers of the token at a port take it as far as they can. -/
def State.flowPort (s : State) (n p : Nat) : State :=
  match mfind (s.site n).ports p with
  | none => s
  | some t => t.todo.foldl (fun s c =>
      match if c = 6 then s.enqueue n p t.tok else s.give n c t.tok with
      | some s => s.onSite n (fun x => x.took p c)
      | none => s) s

/-- The takers that have not taken a token, and the state after those that could. -/
def State.giveAll (s : State) (n : Nat) (t : Token) : List Nat → State × List Nat
  | [] => (s, [])
  | c :: cs =>
    match s.give n c t with
    | some s => s.giveAll n t cs
    | none =>
      let r := s.giveAll n t cs
      (r.1, c :: r.2)

/-- A register that holds a token until its takers have it: the token leaves with its last taker. -/
def heldReg (t : Token) (cs : List Nat) : Option (Token × List Nat) := if cs.isEmpty then none else some (t, cs)

/-- The next token to be emitted moves into the free output register (R278); an output that nothing routes is lost. -/
def Site.refill (x : Site) : Site :=
  match x.outreg, x.outq with
  | none, t :: ts =>
    let cs := x.plane.takers 5
    if cs.isEmpty then { x with outq := [] } else { x with outreg := some (t, cs), outq := ts }
  | _, _ => x

/-- Tokens emitted by the element (R278). -/
def Site.emit (x : Site) (ts : List Token) : Site := Site.refill { x with outq := x.outq ++ ts }
/-- A control token emitted by the element (R276): discarded where no link routes it. -/
def Site.emitCtl (x : Site) (v : Bool) : Site :=
  let ls := x.plane.ctlLinks 5
  if ls.isEmpty then x else { x with ctlOut := x.ctlOut ++ [(v, ls)] }

/-- The output registers of the element and the router operator move as far as they can. -/
def State.flowOut (s : State) (n : Nat) : State :=
  let s := match (s.site n).outreg with
    | some (t, cs) =>
      let r := s.giveAll n t cs
      r.1.onSite n (fun x => Site.refill { x with outreg := heldReg t r.2 })
    | none => s.onSite n Site.refill
  let s := match (s.site n).op0 with
    | some (t, cs) =>
      let r := s.giveAll n t cs
      r.1.onSite n (fun x => { x with op0 := heldReg t r.2 })
    | none => s
  match (s.site n).op1 with
  | some (t, cs) =>
    let r := s.giveAll n t cs
    r.1.onSite n (fun x => { x with op1 := heldReg t r.2 })
  | none => s

/-- Control tokens on the incoming links and from the element move as far as they can (R276, R313); one behind the end of a round waits
on its link until the round has ended (R309). -/
def State.flowCtl (s : State) (n : Nat) : State :=
  let s := (s.site n).ctl.foldl (fun s e =>
    e.2.2.foldl (fun s c =>
      if c = 6 then
        if (s.site n).seq.brq.length < 8 ∧ (s.site n).ending = false ∧ (s.site n).change = none then
          s.onSite n (fun x => Site.tookCtl { x with seq := { x.seq with brq := x.seq.brq ++ [e.2.1] } } e.1 6)
        else s
      else if c = 4 then s
      else match s.sendCtl n c e.2.1 with
        | some s => s.onSite n (fun x => x.tookCtl e.1 c)
        | none => s) s) s
  match (s.site n).ctlOut with
  | [] => s
  | (v, ls) :: rest =>
    let r := ls.foldl (fun (r : State × List Nat) o =>
      match r.1.sendCtl n o v with
      | some s => (s, r.2)
      | none => (r.1, r.2 ++ [o])) (s, [])
    r.1.onSite n (fun x => { x with ctlOut := if r.2.isEmpty then rest else (v, r.2) :: rest })

-- Activation and rounds (R308, R309, R311)

/-- CRC-8 of a list of bytes, polynomial x^8 + x^2 + x + 1 (R68). -/
def crc8 (bs : List Nat) : Nat :=
  let bit (c : Nat) : Nat := if 128 ≤ c then ((2 * c) % 256) ^^^ 7 else 2 * c
  bs.foldl (fun c b => iter bit 8 ((c ^^^ b) % 256)) 0
/-- The check byte of a plane word is right (R68). -/
def planeOk (w : BitVec 256) : Bool :=
  crc8 ((List.range 31).map (fun i => elemOf 8 i w.toNat)) == w.toNat / 2 ^ 248

/-- The argument words that a plane reads at its activation: src, and a sequencer's seta and loop (R290, R314). -/
def PlaneSlot.argIndexes (p : PlaneSlot) : List Nat :=
  let imm := p.bits 55 24
  match p.bits 7 0 with
  | 0x65 => (List.range (8 * p.bits 127 114)).map (fun k => imm % 65536 + k)
  | op =>
    if seqOp op then
      (p.seq.map (fun w =>
        let x := w.toNat
        if x / 2 ^ 27 = 1 then [x % 65536]
        else if x / 2 ^ 27 = 4 ∧ x.testBit 24 then [x % 2 ^ 24]
        else [])).flatten
    else []

/-- The argument words of the active plane that are not yet read; a fault is posted and the site stops (R290, R314). -/
def State.readArgs (s : State) (n : Nat) : List Nat → State
  | [] => s
  | k :: ks =>
    let x := s.site n
    if (mfind x.elem.args k).isSome then s.readArgs n ks
    else match s.argWord (s.launchOf n) k with
      | .ok s v => (s.onSite n (fun x => { x with elem := { x.elem with args := mset x.elem.args k v } })).readArgs n ks
      | .fault s c a _ => s.graphFault n c 1 a 0 0
      | .wait => s

/-- A sequencer at the start of a plane: everything zero but pc and the queue formats (R311). -/
def PlaneSlot.seqStart (p : PlaneSlot) : Seq :=
  let pc := p.bits 197 192
  let fmts (c : Nat) : Map Nat := (List.range 4).map (fun q => (q, c))
  let r : SeqRegs := { pc := pc, ofmt := fmts (p.bits 17 13), ifmt := fmts (p.bits 12 8) }
  { mode := if seqOp (p.bits 7 0) then .run else .idle, r := r, snap := r }

/-- The tokens waiting at the ports take the takers of the new plane, less those that have them already. -/
def Site.reroute (x : Site) (old new : PlaneSlot) : Site :=
  let one (e : Nat × PortTok) : Option (Nat × PortTok) :=
    let had := (old.portTakers e.1).filter (fun c => !e.2.todo.contains c)
    let todo := (new.portTakers e.1).filter (fun c => !had.contains c)
    if todo.isEmpty && !had.isEmpty then none else some (e.1, { e.2 with todo := todo })
  { x with ports := x.ports.filterMap one }

/-- A plane slot becomes the active plane (R308, R311): its check byte is computed again; a wrong one waits for the
plane to be fetched once more (R68). -/
def State.activate (s : State) (n slot : Nat) : State :=
  let x := s.site n
  let p : PlaneSlot := mget {} x.slots slot
  if !p.loaded || !planeOk p.word then s.onSite n (fun x => { x with change := some slot })
  else
    let s := s.onSite n (fun x => (Site.reroute
      { x with active := slot, change := none, rounds := 0, elem := {}, seq := p.seqStart, taken := [], atEntry := true
               awaitMarker := false, ending := false } x.plane p))
    s.readArgs n p.argIndexes

/-- A sequencer at the start of a round of the same plane (R311, R506): the word that mode [197:192] names follows, and its invocation's
snapshot. -/
def Seq.restart (y : Seq) (pc : Nat) : Seq :=
  let r := { y.r with pc := pc }
  { y with mode := .run, r := r, snap := r, counted := false, eored := false, begun := false }

/-- A round of the active plane has ended (R309). -/
def State.endRound (s : State) (n : Nat) : State :=
  let x := s.site n
  let p := x.plane
  let r := x.rounds + 1
  if p.bits 155 144 ≠ 0 ∧ p.bits 155 144 ≤ r then
    (s.onSite n (fun x => { x with rounds := 0, ending := false })).activate n (p.bits 157 156)
  else
    s.onSite n (fun x =>
      { x with rounds := r, ending := false, elem := { x.elem with inv := 0, cnt := 0 }
               seq := if seqOp x.op then x.seq.restart (p.bits 197 192) else x.seq })

/-- A round whose EOR has been forwarded ends (R309). -/
def State.closeRound (s : State) (n : Nat) : State :=
  let x := s.site n
  if x.ending && x.outreg.isNone && x.outq.isEmpty && x.ctlOut.isEmpty then s.endRound n else s

/-- One site: its ports, its registers, its control links, the end of its round. -/
def State.flowSite (s : State) (n : Nat) : State :=
  if !(s.site n).running then s
  else
    let s := (List.range 4).foldl (fun s p => s.flowPort n p) s
    ((s.flowOut n).flowCtl n).closeRound n

/-- Tokens move over the links of the fabric: every site, a few times over (how far is the device's choice of timing). -/
def State.flowAll (s : State) : State := iter (fun s => (s.fabric.sites.map (·.1)).foldl State.flowSite s) 4 s

end Sys2Proof.Machine
end

