-- ==== Sys2Proof/Machine/Quant.lean ====
section
/-!
DEFINITION. Block formats (R84..R90) and quantisation (R106..R108), shared by the vector unit, the fabric, the
copy engine and the matrix elements.
-/

namespace Sys2Proof.Machine

-- Format codes (R80)

/-- Bits of an element of a format code (R80). -/
def codeBits (c : Nat) : Nat :=
  [32, 16, 16, 8, 8, 6, 6, 4, 8, 8, 4, 4, 2, 16, 8, 8, 6, 6, 4, 8, 4, 1, 2, 4].getD c 0

/-- The float format of an element of a format code (R80, R90). -/
def codeFloat (c : Nat) : Option Fmt :=
  match c with
  | 0x00 => some fp32
  | 0x01 => some bf16
  | 0x02 => some fp16
  | 0x03 => some e4m3
  | 0x04 => some e5m2
  | 0x05 => some e3m2
  | 0x06 => some e2m3
  | 0x07 => some e2m1
  | 0x0E => some e4m3
  | 0x0F => some e5m2
  | 0x10 => some e3m2
  | 0x11 => some e2m3
  | 0x12 => some e2m1
  | 0x14 => some e2m1
  | _ => none

/-- An integer format code: its width and whether it is signed (R84). -/
def codeInt (c : Nat) : Option (Nat × Bool) :=
  match c with
  | 0x08 => some (8, true)
  | 0x09 => some (8, false)
  | 0x0A => some (4, true)
  | 0x0B => some (4, false)
  | 0x0C => some (2, true)
  | 0x0D => some (16, true)
  | 0x13 => some (8, true)
  | _ => none

/-- The least and greatest value of an integer format. -/
def intLo (f : Nat × Bool) : Int := if f.2 then -(2 ^ (f.1 - 1)) else 0
def intHi (f : Nat × Bool) : Int := if f.2 then 2 ^ (f.1 - 1) - 1 else 2 ^ f.1 - 1

/-- An integer as a value. -/
def FVal.ofInt (x : Int) : FVal := .fin (decide (x < 0)) x.natAbs 0

/-- The element value of a code, its block's scale aside (R82..R84). -/
def elemValue (c x : Nat) : FVal :=
  match codeFloat c with
  | some f => f.decode (x % 2 ^ f.width)
  | none =>
    match codeInt c with
    | some (w, sg) => .ofInt (if sg then signedOf w x else ((x % 2 ^ w : Nat) : Int))
    | none => .fin false 0 0

/-- A value multiplied by 2^k. -/
def FVal.shift (x : FVal) (k : Int) : FVal :=
  match x with
  | .fin s m e => .fin s m (e + k)
  | y => y

/-- A NaN made quiet. -/
def FVal.quiet : FVal → FVal
  | .nan _ => .nan false
  | y => y

/-- A value converted to the code of an element format (R96, R97): floats round, integers clamp. -/
def toCode (c : Nat) (v : FEnv) (x : FVal) : FRes :=
  match codeFloat c with
  | some f => f.deliver v x
  | none =>
    match codeInt c with
    | some i =>
      let r := toInt v (intLo i) (intHi i) x
      { bits := bitsOf i.1 r.1, flags := r.2 ||| x.sigFlag }
    | none => { bits := 0 }

-- Scales (R85, R86)

/-- An E8M0 scale (R85). -/
def e8m0 (c : Nat) : FVal := if c = 255 then .nan false else .fin false 1 ((c : Int) - 127)
/-- The U4M4 micro-scale as a format: no sign, 0xFF is NaN (R86). -/
def u4m4 : Fmt := { e := 4, m := 4, bias := 7, sp := .e4m3 }

/-- The value of an element of a BX block (R89); a BXI8 element i means i·2^−6. DESIGN CHOICE (log entry 85): vdq of an E5M2 element
that is a signalling NaN makes it quiet and raises nothing (R233). -/
def bxValue (c scale x : Nat) : FVal :=
  let el := (elemValue c x).quiet
  ((e8m0 scale).mul (if c = 0x13 then el.shift (-6) else el)).quiet

/-- The value of an SX4 element under a tensor scale and a micro-scale (R89). -/
def sx4Value (t : FVal) (mu x : Nat) : FVal := ((t.mul (u4m4.decode mu)).mul (elemValue 0x14 x)).quiet

-- Quantisation (R106..R108)

/-- A quantised block. -/
structure Quant where
  scale : Nat
  codes : List Nat
  nan : Bool := false
  inf : Bool := false
  deriving DecidableEq, Repr

/-- emax of a BX target (R106). -/
def bxEmax (c : Nat) : Int :=
  match c with
  | 0x0E => 8 | 0x0F => 15 | 0x10 => 4 | 0x11 => 2 | 0x12 => 2 | _ => 0

/-- The signed largest element code of a BX or SX4 target (R107). -/
def largestCode (c : Nat) (s : Bool) : Nat :=
  match codeFloat c with
  | some f => f.signBit s + f.maxCode
  | none => if s then 0x80 else 0x7F

/-- The greater of two magnitudes. -/
def maxMag (a b : FVal) : FVal :=
  match a, b with
  | .fin _ m e, .fin _ n g => if (FVal.fin false m e).order (.fin false n g) < 0 then .fin false n g else .fin false m e
  | .fin _ m e, _ => .fin false m e
  | _, y => y

/-- The largest finite magnitude of a block. -/
def finiteMax (xs : List FVal) : FVal :=
  xs.foldl (fun b x => match x with
    | .fin _ m e => maxMag b (.fin false m e)
    | _ => b) (.fin false 0 0)

/-- A finite value as an element code, saturated (R106). DESIGN CHOICE (log entry 44): ftz flushes no element that is
written, only what is read (R98). -/
def satCode (c : Nat) (v : FEnv) (x : FVal) : Nat :=
  match codeFloat c with
  | some f =>
    let r := (f.convert { v with ftz := false, sat := true } x).bits
    if f.maxCode < r % 2 ^ (f.e + f.m) then f.signBit x.sign + f.maxCode else r
  | none => bitsOf 8 (toInt { v with ftz := false } (-128) 127 (x.shift 6)).1

/-- What decides a block's scale (R106, R107): it holds a NaN, it holds an infinity, its largest finite magnitude. -/
structure BlockStats where
  nan : Bool
  inf : Bool
  top : FVal
  deriving DecidableEq, Repr
/-- The scale data of a block's own elements. -/
def blockStats (xs : List FVal) : BlockStats := { nan := xs.any FVal.isNan, inf := xs.any FVal.isInf, top := finiteMax xs }

/-- A block quantised to a BX target (R106, R107) under given scale data; env gives the rounding of each element. DESIGN
CHOICE (log entry 44): a zero element keeps its sign. -/
def bxWith (c : Nat) (env : Nat → FEnv) (b : BlockStats) (xs : List FVal) : Quant :=
  if b.nan then { scale := 255, codes := xs.map (fun _ => 0), nan := true }
  else
    let x : Int := match b.top with
      | .fin _ m e => if m = 0 then -127 else clampInt (-127) 127 (expOf m e - bxEmax c)
      | _ => -127
    let code (y : FVal × Nat) : Nat := match y.1 with
      | .inf s => largestCode c s
      | z => satCode c (env y.2) (z.shift (-x))
    { scale := (x + 127).toNat, codes := xs.zipIdx.map code, inf := b.inf }
/-- A block quantised to a BX target by its own maximum (R106, R107). -/
def bxQuantise (c : Nat) (env : Nat → FEnv) (xs : List FVal) : Quant := bxWith c env (blockStats xs) xs

/-- A tensor scale that an SX4 quantisation accepts (R108). -/
def tensorScaleOk : FVal → Bool
  | .fin s m _ => !s && m != 0
  | _ => false

/-- An 8-element block quantised to SX4 under a tensor scale and given scale data (R108). DESIGN CHOICE (log entry 44):
under a micro-scale of zero every finite element is written as +0. -/
def sx4With (t : FVal) (env : Nat → FEnv) (b : BlockStats) (xs : List FVal) : Quant :=
  if b.nan then { scale := 255, codes := xs.map (fun _ => 0), nan := true }
  else
    let six : FVal := .fin false 6 0
    let mu := (u4m4.fdiv { sat := true } b.top (six.mul t)).bits
    let code (y : FVal × Nat) : Nat := match y.1 with
      | .inf s => largestCode 0x14 s
      | z => if mu = 0 then 0
        else (e2m1.fdiv { (env y.2) with ftz := false, sat := true } z (t.mul (u4m4.decode mu))).bits
    { scale := mu, codes := xs.zipIdx.map code, inf := b.inf }
/-- An 8-element block quantised to SX4 by its own maximum (R108). -/
def sx4Quantise (t : FVal) (env : Nat → FEnv) (xs : List FVal) : Quant := sx4With t env (blockStats xs) xs

end Sys2Proof.Machine
end

