-- ==== Sys2Proof/Machine/Vector.lean ====
section
/-!
DEFINITION. The vector instructions (R219..R241): their results enter the core's VU queue with their flags and traps;
the vector memory forms act at the memory port.
-/

namespace Sys2Proof.Machine

-- Elements and masks (R219, R220)

/-- Bits of an element. -/
def vBits : VType → Nat
  | .i8 => 8 | .i16 => 16 | .i32 => 32 | .f32 => 32 | .bf16 => 16 | .f16 => 16
/-- Elements of a register. -/
def vCount (t : VType) : Nat := 512 / vBits t
/-- The float format of a type. -/
def vFloat : VType → Option Fmt
  | .f32 => some fp32 | .bf16 => some bf16 | .f16 => some fp16 | _ => none
/-- The lane of an element. -/
def vLane (w e : Nat) : Nat := w * e / 32
/-- Elements of a vector register as numbers. -/
def velems (w : Nat) (x : Vec) : List Nat := elemsOf w (512 / w) x.toNat
/-- A register of elements. -/
def vpack (w : Nat) (xs : List Nat) : Vec := BitVec.ofNat 512 (packElems w xs)
/-- Element e of register r. -/
def State.vel (s : State) (w : Nat) (r : BitVec 4) (e : Nat) : Nat := elemOf w e (s.me.rv r).toNat
/-- The lane of element e is active under mask k. -/
def State.vAct (s : State) (k : BitVec 2) (w e : Nat) : Bool := (s.me.rk k).getLsbD (vLane w e)
/-- The active elements, ascending. -/
def State.vActs (s : State) (k : BitVec 2) (w : Nat) : List Nat := (List.range (512 / w)).filter (s.vAct k w)
/-- Element e of register r as a float operand (R223). -/
def State.velF (s : State) (f : Fmt) (r : BitVec 4) (e : Nat) : FVal := f.read (s.fenv e).ftz (s.vel f.width r e)

-- Completion (R222, R223)

/-- The lanes of a list of flags whose flags meet the enables, as a map. -/
def laneMap (en : Nat) (fl : List (Nat × Nat)) : Nat :=
  ((List.range 16).map (fun l => if fl.any (fun x => x.1 == l && (x.2 &&& en) != 0) then 2 ^ l else 0)).sum
/-- All flags of a list. -/
def allFlags (fl : List (Nat × Nat)) : Nat := fl.foldl (fun a x => a ||| x.2) 0

/-- A vector instruction enters the VU queue with its result and its flags by lane, or its trap FP_VECTOR (R223). -/
def State.vecDone (s : State) (ws : List RegWrite) (fl : List (Nat × Nat)) : State :=
  let c := s.me
  let all := allFlags fl
  let trap : Option TrapInfo :=
    if all &&& c.enables = 0 then none
    else some { cause := Cause.fpVector, tblk := c.addr, tidx := c.cur, tval := BitVec.ofNat 64 all
                tval2 := BitVec.ofNat 64 (laneMap c.enables fl) }
  s.vuPush s.act.core { ctx := s.act.ctx, epoch := c.epoch, writes := ws ++ [flagWrite all], trap := trap, inf := none }

/-- A result for each element of vd: active ones take f's, the others keep their value (R220). -/
def State.vEach (s : State) (w : Nat) (vd : BitVec 4) (k : BitVec 2) (f : Nat → FRes) : Out :=
  let rs := (List.range (512 / w)).map (fun e =>
    (vLane w e, if s.vAct k w e then f e else { bits := s.vel w vd e }))
  .next (s.vecDone [.v vd.toNat (vpack w (rs.map (fun r => r.2.bits)))] (rs.map (fun r => (r.1, r.2.flags))))

/-- An integer function of two elements. -/
def State.vInt (s : State) (t : VType) (vd va vb : BitVec 4) (k : BitVec 2) (g : Nat → Nat → Nat → Nat) : Out :=
  let w := vBits t
  s.vEach w vd k (fun e => { bits := g w (s.vel w va e) (s.vel w vb e) % 2 ^ w })

/-- A float function of two elements; an integer type takes the integer function. -/
def State.vArith (s : State) (t : VType) (vd va vb : BitVec 4) (k : BitVec 2) (g : Nat → Nat → Nat → Nat)
    (f : Fmt → FEnv → FVal → FVal → FRes) : Out :=
  match vFloat t with
  | none => s.vInt t vd va vb k g
  | some m => s.vEach m.width vd k (fun e => f m (s.fenv e) (s.velF m va e) (s.velF m vb e))

/-- A float function of one element; an integer type, which no fetch admits, keeps the element. -/
def State.vFlt (s : State) (t : VType) (vd va : BitVec 4) (k : BitVec 2) (f : Fmt → FEnv → FVal → FRes) : Out :=
  s.vArith t vd va va k (fun _ x _ => x) (fun m v x _ => f m v x)

-- Integer functions of w bits (R227)

/-- Signed minimum and maximum. -/
def imin (w x y : Nat) : Nat := if signedOf w x < signedOf w y then x else y
def imax (w x y : Nat) : Nat := if signedOf w x < signedOf w y then y else x
/-- A signed result clamped to w bits (R99). -/
def iclamp (w : Nat) (x : Int) : Nat := bitsOf w (clampInt (-(2 ^ (w - 1))) (2 ^ (w - 1) - 1) x)

/-- valu.add (R227). -/
def execVadd (t : VType) (vd va vb : BitVec 4) (k : BitVec 2) (s : State) : Out :=
  s.vArith t vd va vb k (fun _ x y => x + y) Fmt.fadd
/-- valu.sub. -/
def execVsub (t : VType) (vd va vb : BitVec 4) (k : BitVec 2) (s : State) : Out :=
  s.vArith t vd va vb k (fun w x y => x + 2 ^ w - y) (fun f v x y => f.fadd v x y.neg)
/-- valu.mul. -/
def execVmul (t : VType) (vd va vb : BitVec 4) (k : BitVec 2) (s : State) : Out :=
  s.vArith t vd va vb k (fun _ x y => x * y) Fmt.fmul
/-- valu.min. -/
def execVmin (t : VType) (vd va vb : BitVec 4) (k : BitVec 2) (s : State) : Out :=
  s.vArith t vd va vb k imin (fun f v => f.fpick v FVal.lesser)
/-- valu.max. -/
def execVmax (t : VType) (vd va vb : BitVec 4) (k : BitVec 2) (s : State) : Out :=
  s.vArith t vd va vb k imax (fun f v => f.fpick v FVal.greater)
/-- valu.minu. -/
def execVminu (t : VType) (vd va vb : BitVec 4) (k : BitVec 2) (s : State) : Out := s.vInt t vd va vb k (fun _ => Nat.min)
/-- valu.maxu. -/
def execVmaxu (t : VType) (vd va vb : BitVec 4) (k : BitVec 2) (s : State) : Out := s.vInt t vd va vb k (fun _ => Nat.max)
/-- valu.adds: signed, clamped. -/
def execVadds (t : VType) (vd va vb : BitVec 4) (k : BitVec 2) (s : State) : Out :=
  s.vInt t vd va vb k (fun w x y => iclamp w (signedOf w x + signedOf w y))
/-- valu.subs. -/
def execVsubs (t : VType) (vd va vb : BitVec 4) (k : BitVec 2) (s : State) : Out :=
  s.vInt t vd va vb k (fun w x y => iclamp w (signedOf w x - signedOf w y))
/-- valu.addus: unsigned, clamped. -/
def execVaddus (t : VType) (vd va vb : BitVec 4) (k : BitVec 2) (s : State) : Out :=
  s.vInt t vd va vb k (fun w x y => min (x + y) (2 ^ w - 1))
/-- valu.subus. -/
def execVsubus (t : VType) (vd va vb : BitVec 4) (k : BitVec 2) (s : State) : Out := s.vInt t vd va vb k (fun _ x y => x - y)
/-- floor((a + b + 1)/2) of the exact signed sum (R99). -/
def iavg (w x y : Nat) : Nat := bitsOf w ((signedOf w x + signedOf w y + 1) / 2)
/-- The high w bits of the signed product (R99). -/
def imulh (w x y : Nat) : Nat := bitsOf w (signedOf w x * signedOf w y / 2 ^ w)
/-- valu.avg. -/
def execVavg (t : VType) (vd va vb : BitVec 4) (k : BitVec 2) (s : State) : Out := s.vInt t vd va vb k iavg
/-- valu.mulh. -/
def execVmulh (t : VType) (vd va vb : BitVec 4) (k : BitVec 2) (s : State) : Out := s.vInt t vd va vb k imulh
/-- valu.and. -/
def execVand (t : VType) (vd va vb : BitVec 4) (k : BitVec 2) (s : State) : Out :=
  s.vInt t vd va vb k (fun _ x y => x &&& y)
/-- valu.or. -/
def execVor (t : VType) (vd va vb : BitVec 4) (k : BitVec 2) (s : State) : Out :=
  s.vInt t vd va vb k (fun _ x y => x ||| y)
/-- valu.xor. -/
def execVxor (t : VType) (vd va vb : BitVec 4) (k : BitVec 2) (s : State) : Out :=
  s.vInt t vd va vb k (fun _ x y => x ^^^ y)
/-- valu.andn: a and not b. -/
def execVandn (t : VType) (vd va vb : BitVec 4) (k : BitVec 2) (s : State) : Out :=
  s.vInt t vd va vb k (fun w x y => x &&& (2 ^ w - 1 - y))
/-- valu.shl: by the low log2(w) bits of b. -/
def execVshl (t : VType) (vd va vb : BitVec 4) (k : BitVec 2) (s : State) : Out :=
  s.vInt t vd va vb k (fun w x y => x <<< (y % w))
/-- valu.shr: logical. -/
def execVshr (t : VType) (vd va vb : BitVec 4) (k : BitVec 2) (s : State) : Out :=
  s.vInt t vd va vb k (fun w x y => x >>> (y % w))
/-- An arithmetic right shift of w bits. -/
def isar (w x n : Nat) : Nat := bitsOf w (signedOf w x / 2 ^ n)
/-- valu.sar: arithmetic. -/
def execVsar (t : VType) (vd va vb : BitVec 4) (k : BitVec 2) (s : State) : Out :=
  s.vInt t vd va vb k (fun w x y => isar w x (y % w))
/-- A sign operation: a float element changes its sign bit only (R98). -/
def State.vSign (s : State) (t : VType) (vd va : BitVec 4) (k : BitVec 2) (g : Nat → Nat → Nat) (f : Fmt → Nat → Nat) : Out :=
  let w := vBits t
  s.vEach w vd k (fun e =>
    { bits := match vFloat t with
        | some m => f m (s.vel w va e)
        | none => g w (s.vel w va e) % 2 ^ w })
/-- valu.abs. -/
def execVabs (t : VType) (vd va : BitVec 4) (k : BitVec 2) (s : State) : Out :=
  s.vSign t vd va k (fun w x => bitsOf w (signedOf w x).natAbs) Fmt.fabs
/-- valu.neg. -/
def execVneg (t : VType) (vd va : BitVec 4) (k : BitVec 2) (s : State) : Out :=
  s.vSign t vd va k (fun w x => bitsOf w (-(signedOf w x))) Fmt.fneg
/-- valu.div. -/
def execVdiv (t : VType) (vd va vb : BitVec 4) (k : BitVec 2) (s : State) : Out :=
  s.vArith t vd va vb k (fun _ x _ => x) Fmt.fdiv
/-- valu.rcp (R100). -/
def execVrcp (t : VType) (vd va : BitVec 4) (k : BitVec 2) (s : State) : Out := s.vFlt t vd va k Fmt.frcp
/-- valu.rsq (R100). -/
def execVrsq (t : VType) (vd va : BitVec 4) (k : BitVec 2) (s : State) : Out := s.vFlt t vd va k Fmt.frsq
/-- valu.sqrt (R100). -/
def execVsqrt (t : VType) (vd va : BitVec 4) (k : BitVec 2) (s : State) : Out := s.vFlt t vd va k Fmt.fsqrt
/-- valu.exp2 (R100). -/
def execVexp2 (t : VType) (vd va : BitVec 4) (k : BitVec 2) (s : State) : Out := s.vFlt t vd va k Fmt.fexp2
/-- valu.log2 (R100). -/
def execVlog2 (t : VType) (vd va : BitVec 4) (k : BitVec 2) (s : State) : Out := s.vFlt t vd va k Fmt.flog2
/-- valu.tanh (R100). -/
def execVtanh (t : VType) (vd va : BitVec 4) (k : BitVec 2) (s : State) : Out := s.vFlt t vd va k Fmt.ftanh
/-- valu.popc. -/
def execVpopc (t : VType) (vd va : BitVec 4) (k : BitVec 2) (s : State) : Out :=
  s.vInt t vd va va k (fun w x _ => popCount w x)
/-- valu.clz: w for 0. -/
def execVclz (t : VType) (vd va : BitVec 4) (k : BitVec 2) (s : State) : Out :=
  s.vInt t vd va va k (fun w x _ => leadingZeros w x)

-- vfma (R228)

/-- The exact sum of a list of values onto another. -/
def exactSum (x : FVal) (xs : List FVal) : FVal := xs.foldl FVal.add x

/-- Signals of a list of values: invalid products and signalling NaNs. -/
def sigFlags (xs : List FVal) : Nat := xs.foldl (fun a x => a ||| x.sigFlag) 0

/-- A float sum of products rounded once to FP32. -/
def dotFloat (v : FEnv) (d : FVal) (ps : List FVal) : FRes :=
  let x := exactSum d ps
  let r := fp32.convert v x
  { r with flags := r.flags ||| sigFlags (x :: d :: ps) }

/-- vfma.dot: each 32-bit lane takes the products of its elements. -/
def State.vDot (s : State) (t : VType) (vd va vb : BitVec 4) (k : BitVec 2) : Out :=
  let w := vBits t
  let r := 32 / w
  s.vEach 32 vd k (fun l =>
    let es := (List.range r).map (fun i => r * l + i)
    match vFloat t with
    | some m => dotFloat (s.fenv l) (s.velF fp32 vd l) (es.map (fun e => (s.velF m va e).mul (s.velF m vb e)))
    | none =>
      { bits := bitsOf 32 (signedOf 32 (s.vel 32 vd l) +
          (es.map (fun e => signedOf w (s.vel w va e) * signedOf w (s.vel w vb e))).sum) })

/-- vfma (R228). -/
def execVfma (f : VFmaOp) (t : VType) (vd va vb : BitVec 4) (k : BitVec 2) (s : State) : Out :=
  let w := vBits t
  let mulAdd (p d : Bool) : Out :=
    match vFloat t with
    | some m => s.vEach w vd k (fun e =>
        let a := s.velF m va e
        let c := s.velF m vd e
        m.ffma (s.fenv e) (if p then a.neg else a) (s.velF m vb e) (if d then c.neg else c))
    | none => s.vEach w vd k (fun e =>
        let x : Int := s.vel w va e * s.vel w vb e
        let c : Int := s.vel w vd e
        { bits := bitsOf w ((if p then -x else x) + (if d then -c else c)) })
  match f with
  | .fma => mulAdd false false
  | .fms => mulAdd false true
  | .fnma => mulAdd true false
  | .dot => s.vDot t vd va vb k

-- vcmp, vsel (R229, R230)

/-- A condition on two elements, with its flags. -/
def State.vCond (s : State) (c : VCond) (t : VType) (va vb : BitVec 4) (e : Nat) : Bool × Nat :=
  let w := vBits t
  let x := s.vel w va e
  let y := s.vel w vb e
  let flt (q : FloatCond) : Bool × Nat :=
    match vFloat t with
    | some m => evalFloat q (s.velF m va e) (s.velF m vb e)
    | none => (false, 0)
  match c with
  | .eq => (x == y, 0)
  | .ne => (x != y, 0)
  | .lt => (decide (signedOf w x < signedOf w y), 0)
  | .le => (decide (signedOf w x ≤ signedOf w y), 0)
  | .ltu => (decide (x < y), 0)
  | .leu => (decide (x ≤ y), 0)
  | .feq => flt .feq
  | .flt => flt .flt
  | .fle => flt .fle
  | .fun_ => flt .fun_

/-- vcmp (R229): inactive lanes write 0; a narrow type's lane is the AND or the OR of its elements. -/
def execVcmp (c : VCond) (any : Bool) (t : VType) (kd : BitVec 2) (va vb : BitVec 4) (k : BitVec 2) (s : State) : Out :=
  let w := vBits t
  let es := s.vActs k w
  let rs := es.map (fun e => (vLane w e, s.vCond c t va vb e))
  let bit (l : Nat) : Bool :=
    let mine := (rs.filter (fun r => r.1 == l)).map (fun r => r.2.1)
    !mine.isEmpty && (if any then mine.any id else mine.all id)
  let m := ((List.range 16).map (fun l => if bit l then 2 ^ l else 0)).sum
  .next (s.vecDone [.k kd.toNat (BitVec.ofNat 16 m)] (rs.map (fun r => (r.1, r.2.2))))

/-- vsel (R230): every lane is written. -/
def execVsel (vd va vb : BitVec 4) (k : BitVec 2) (s : State) : Out :=
  s.vEach 32 vd 0 (fun l => { bits := if s.vAct k 32 l then s.vel 32 va l else s.vel 32 vb l })

-- vcvt (R231)

/-- Bits of a conversion format. -/
def vfBits : VFmt → Nat
  | .i8 => 8 | .i16 => 16 | .i32 => 32 | .f32 => 32 | .bf16 => 16 | .f16 => 16 | .e4m3 => 8 | .e5m2 => 8
/-- The float format of a conversion format. -/
def vfFloat : VFmt → Option Fmt
  | .f32 => some fp32 | .bf16 => some bf16 | .f16 => some fp16 | .e4m3 => some e4m3 | .e5m2 => some e5m2 | _ => none

/-- cvt (R96, R97, R231). -/
def cvtVec (v : FEnv) (dst src : VFmt) (x : Nat) : FRes :=
  let w := vfBits dst
  let lo : Int := -(2 ^ (w - 1))
  let hi : Int := 2 ^ (w - 1) - 1
  match vfFloat src, vfFloat dst with
  | some f, some g => g.deliver v (f.read v.ftz x)
  | some f, none =>
    let y := f.read v.ftz x
    let r := toInt v lo hi y
    { bits := bitsOf w r.1, flags := r.2 }
  | none, some g => g.ofInt v (signedOf (vfBits src) x)
  | none, none => { bits := bitsOf w (clampInt lo hi (signedOf (vfBits src) x)) }

/-- vcvt (R231). -/
def execVcvt (dst src : VFmt) (vd va part : BitVec 4) (k : BitVec 2) (s : State) : Out :=
  let wt := vfBits dst
  let wf := vfBits src
  let nf := 512 / wf
  let p := part.toNat
  if wf ≤ wt then s.vEach wt vd k (fun e => cvtVec (s.fenv e) dst src (s.vel wf va (e + p * (512 / wt))))
  else s.vEach wt vd k (fun e =>
    if p * nf ≤ e ∧ e < (p + 1) * nf then cvtVec (s.fenv e) dst src (s.vel wf va (e - p * nf))
    else { bits := s.vel wt vd e })

-- vqnt, vdq (R232, R233)

/-- The format code of a block format (R80). -/
def bxCode : BxFmt → Nat
  | .bx8e4 => 0x0E | .bx8e5 => 0x0F | .bx6e3 => 0x10 | .bx6e2 => 0x11 | .bx4 => 0x12 | .bxi8 => 0x13

/-- vqnt (R232): no IEEE flag; QNT_INF is taken after the commit when it is enabled. -/
def execVqnt (f : BxFmt) (t : VType) (vd va vb : BitVec 4) (s : State) : Out :=
  let c := bxCode f
  let xs := match vFloat t with
    | some m =>
      if m.width = 32 then (List.range 16).map (s.velF m va) ++ (List.range 16).map (s.velF m vb)
      else (List.range 32).map (s.velF m va)
    | none => []
  let q := bxQuantise c s.fenv xs
  let x := packElems (codeBits c) q.codes + q.scale * 2 ^ 384
  let me := s.me
  let inf : Option StateFault :=
    if q.inf && me.arch.fcsr.getLsbD 18 then some { cause := Cause.qntInf, tval := 0, tval2 := 0, tidx := me.cur } else none
  .next (s.vuPush s.act.core
    { ctx := s.act.ctx, epoch := me.epoch, trap := none, inf := inf
      writes := [.v vd.toNat (BitVec.ofNat 512 x), .flags (b2n q.nan * 2 ^ 16 + b2n q.inf * 2 ^ 17)] })

/-- vdq (R233). -/
def execVdq (f : BxFmt) (t : VType) (part : Bool) (vd va : BitVec 4) (k : BitVec 2) (s : State) : Out :=
  let c := bxCode f
  let x := (s.me.rv va).toNat
  let scale := x / 2 ^ 384 % 256
  match vFloat t with
  | none => s.vEach (vBits t) vd k (fun e => { bits := s.vel (vBits t) vd e })
  | some m => s.vEach m.width vd k (fun e =>
      let i := if m.width = 32 then e + 16 * b2n part else e
      m.convert (s.fenv e) (bxValue c scale (elemOf (codeBits c) i x)))

-- Reductions and scans (R234, R235)

/-- Functions of vred and vscan on integers. -/
def redInt (f : VRedOp) (w x y : Nat) : Nat :=
  match f with
  | .add => (x + y) % 2 ^ w
  | .min => imin w x y
  | .max => imax w x y
  | .minu => Nat.min x y
  | .maxu => Nat.max x y
  | .and => x &&& y
  | .or => x ||| y
  | .xor => x ^^^ y
  | _ => x

/-- The integer result of no element. -/
def redEmpty (f : VRedOp) (w : Nat) : Nat :=
  match f with
  | .min => 2 ^ (w - 1) - 1
  | .max => 2 ^ (w - 1)
  | .minu => 2 ^ w - 1
  | .and => 2 ^ w - 1
  | _ => 0

/-- A node of a reduction tree: its value and the lanes of its subtree. -/
structure RedNode where
  val : FVal
  lanes : List Nat
  deriving DecidableEq, Repr

/-- A level of the tree: each pair of nodes is added with one rne32 (R116, R234); flags go to the pair's lanes. -/
def redLevel (v : FEnv) : List RedNode → List RedNode × List (Nat × Nat)
  | a :: b :: rest =>
    let r := fp32.fadd v a.val b.val
    let ls := a.lanes ++ b.lanes
    let q := redLevel v rest
    ({ val := fp32.decode r.bits, lanes := ls } :: q.1, ls.map (fun l => (l, r.flags)) ++ q.2)
  | xs => (xs, [])

/-- n levels of the tree. -/
def redTree (v : FEnv) : Nat → List RedNode → List RedNode × List (Nat × Nat)
  | 0, xs => (xs, [])
  | n + 1, xs =>
    let a := redLevel v xs
    let b := redTree v n a.1
    (b.1, a.2 ++ b.2)

/-- Negative zero. -/
def negZero : FVal := .fin true 0 0

/-- vred.fadd. -/
def State.vredAdd (s : State) (m : Fmt) (va : BitVec 4) (k : BitVec 2) : FRes × List (Nat × Nat) :=
  let w := m.width
  let v := s.fenv 0
  let leaf (e : Nat) : RedNode :=
    { val := if s.vAct k w e then s.velF m va e else negZero, lanes := [vLane w e] }
  let t := redTree { rm := 0, ftz := v.ftz } 5 ((List.range (512 / w)).map leaf)
  let r := m.deliver v (t.1.head?.map (·.val) |>.getD negZero)
  (r, t.2 ++ (List.range 16).map (fun l => (l, r.flags)))

/-- Minima or maxima of a run of elements with their lanes: the value after each, and its flag. -/
def runPick (pick : FVal → FVal → FVal) : Option FVal → List FVal → List (FVal × Nat)
  | _, [] => []
  | none, x :: xs => (x.quiet, x.sigFlag) :: runPick pick (some x.quiet) xs
  | some a, x :: xs =>
    let y := if a.isNan then x.quiet else if x.isNan then a else pick a x
    (y, x.sigFlag) :: runPick pick (some y) xs

/-- The lanes under the first node above an element (R116, R223): its own and its neighbour's. -/
def nodeLanes (w e : Nat) : List Nat := [vLane w e, vLane w (if e % 2 = 0 then e + 1 else e - 1)]

/-- vred.fmin and vred.fmax: a signalling NaN raises its flag at the node above it, in the tree of vred.fadd. -/
def State.vredPick (s : State) (m : Fmt) (va : BitVec 4) (k : BitVec 2) (pick : FVal → FVal → FVal) (empty : FVal) :
    FRes × List (Nat × Nat) :=
  let es := s.vActs k m.width
  let run := runPick pick none (es.map (s.velF m va))
  (m.convert {} ((run.getLast?.map (·.1)).getD empty), (es.zip run).flatMap (fun x => (nodeLanes m.width x.1).map (fun l => (l, x.2.2))))

/-- vred (R234): element 0 takes the result, every other bit is zero. -/
def execVred (f : VRedOp) (t : VType) (vd va : BitVec 4) (k : BitVec 2) (s : State) : Out :=
  let w := vBits t
  let r : FRes × List (Nat × Nat) :=
    match f, vFloat t with
    | .fadd, some m => s.vredAdd m va k
    | .fmin, some m => s.vredPick m va k FVal.lesser (.inf false)
    | .fmax, some m => s.vredPick m va k FVal.greater (.inf true)
    | _, _ => ({ bits := (s.vActs k w).foldl (fun a e => redInt f w a (s.vel w va e)) (redEmpty f w) }, [])
  .next (s.vecDone [.v vd.toNat (BitVec.ofNat 512 (r.1.bits % 2 ^ w))] r.2)

/-- The values of vscan.fadd from the n-th element on: the accumulator after each element, rounded with a draw of its own
(R95), and the flags of its step (R235). -/
def runAdd (m : Fmt) (env : Nat → FEnv) : Nat → FVal → List FVal → List FRes
  | _, _, [] => []
  | n, acc, x :: xs =>
    let a := fp32.fadd { rm := 0, ftz := (env n).ftz } acc x
    let y := fp32.decode a.bits
    let r := m.deliver (env n) y
    { bits := r.bits, flags := a.flags ||| r.flags } :: runAdd m env (n + 1) y xs

/-- The running values of an integer scan. -/
def runInt (g : Nat → Nat → Nat) : Option Nat → List Nat → List Nat
  | _, [] => []
  | none, x :: xs => x :: runInt g (some x) xs
  | some a, x :: xs => g a x :: runInt g (some (g a x)) xs

/-- The reduction of the same name. -/
def scanOp : VScanOp → VRedOp
  | .add => .add | .max => .max | .min => .min | .maxu => .maxu | .minu => .minu
  | .fadd => .fadd | .fmax => .fmax | .fmin => .fmin

/-- vscan (R235): each active element takes the reduction of the active elements up to it. -/
def execVscan (f : VScanOp) (t : VType) (vd va : BitVec 4) (k : BitVec 2) (s : State) : Out :=
  let w := vBits t
  let es := s.vActs k w
  let picks (m : Fmt) (p : FVal → FVal → FVal) : List FRes :=
    (runPick p none (es.map (s.velF m va))).map (fun x => { bits := (m.convert {} x.1).bits, flags := x.2 })
  let rs : List FRes :=
    match f, vFloat t with
    | .fadd, some m => runAdd m s.fenv 0 negZero (es.map (s.velF m va))
    | .fmin, some m => picks m FVal.lesser
    | .fmax, some m => picks m FVal.greater
    | _, _ => (runInt (redInt (scanOp f) w) none (es.map (s.vel w va))).map (fun x => { bits := x })
  let at_ (e : Nat) : FRes := ((es.zip rs).find? (fun x => x.1 == e)).elim { bits := 0 } (·.2)
  s.vEach w vd k at_

-- Data movement (R236..R239)

/-- vperm (R236). -/
def execVperm (t2 : Bool) (t : VType) (vd va vb : BitVec 4) (k : BitVec 2) (s : State) : Out :=
  let w := vBits t
  let n := vCount t
  s.vEach w vd k (fun e =>
    let x := s.vel w vb e
    { bits := if t2 then (if x % (2 * n) < n then s.vel w va (x % (2 * n)) else s.vel w vd (x % (2 * n) - n))
              else s.vel w va (x % n) })

/-- vshuf (R237). -/
def execVshuf (kind : VShufKind) (sh : BitVec 4) (t : VType) (vd va vb : BitVec 4) (k : BitVec 2) (s : State) : Out :=
  let w := vBits t
  let n := vCount t
  let h := n / 2
  let a := s.vel w va
  let b := s.vel w vb
  match kind with
  | .zlo => s.vEach w vd k (fun e => { bits := if e % 2 = 0 then a (e / 2) else b (e / 2) })
  | .zhi => s.vEach w vd k (fun e => { bits := if e % 2 = 0 then a (e / 2 + h) else b (e / 2 + h) })
  | .uev => s.vEach w vd k (fun e => { bits := if e < h then a (2 * e) else b (2 * (e - h)) })
  | .uod => s.vEach w vd k (fun e => { bits := if e < h then a (2 * e + 1) else b (2 * (e - h) + 1) })
  | .rev => s.vEach w vd k (fun e => { bits := a (n - 1 - e) })
  | .rotl => s.vEach 32 vd k (fun l => { bits := s.vel 32 va ((l + 16 - sh.toNat) % 16) })

/-- vbcast (R238). -/
def execVbcast (t : VType) (vd va : BitVec 4) (idx : BitVec 6) (k : BitVec 2) (s : State) : Out :=
  let w := vBits t
  s.vEach w vd k (fun _ => { bits := s.vel w va idx.toNat })
/-- vbcast.g (R238). -/
def execVbcastG (t : VType) (vd : BitVec 4) (a : RegNo) (k : BitVec 2) (s : State) : Out :=
  let w := vBits t
  s.vEach w vd k (fun _ => { bits := (s.me.rg a).toNat % 2 ^ w })
/-- vmovg (R238): float elements are placed with zeros above. -/
def execVmovg (t : VType) (zext : Bool) (d : RegNo) (va : BitVec 4) (idx : BitVec 6) (s : State) : Out :=
  let w := vBits t
  let x : Word := BitVec.ofNat 64 (s.vel w va idx.toNat)
  let y := if (vFloat t).isSome || zext then x else sextLow w x
  .next (s.vecDone [.g d.toNat { val := y, tag := false }] [])
/-- vins (R238). -/
def execVins (t : VType) (vd : BitVec 4) (a : RegNo) (idx : BitVec 6) (s : State) : Out :=
  let w := vBits t
  s.vEach w vd 0 (fun e => { bits := if e = idx.toNat then (s.me.rg a).toNat % 2 ^ w else s.vel w vd e })
/-- vcmpr.c: compresses; the rest is zero (R239). -/
def execVcmprC (t : VType) (vd va : BitVec 4) (k : BitVec 2) (s : State) : Out :=
  let w := vBits t
  let xs := (s.vActs k w).map (s.vel w va)
  s.vEach w vd 0 (fun e => { bits := xs.getD e 0 })
/-- vcmpr.e: expands into the active elements (R239). -/
def execVcmprE (t : VType) (vd va : BitVec 4) (k : BitVec 2) (s : State) : Out :=
  let w := vBits t
  let es := s.vActs k w
  s.vEach w vd k (fun e => { bits := s.vel w va (es.idxOf e) })

-- vmask (R240)

/-- A mask result. -/
def State.vMask (s : State) (kd : BitVec 2) (x : BitVec 16) : Out := .next (s.vecDone [.k kd.toNat x] [])
/-- A general result of a mask. -/
def State.vMaskG (s : State) (d : RegNo) (x : Nat) : Out :=
  .next (s.vecDone [.g d.toNat { val := BitVec.ofNat 64 x, tag := false }] [])

/-- vmask.and. -/
def execVmaskAnd (kd ka kb : BitVec 2) (s : State) : Out := s.vMask kd (s.me.rk ka &&& s.me.rk kb)
/-- vmask.or. -/
def execVmaskOr (kd ka kb : BitVec 2) (s : State) : Out := s.vMask kd (s.me.rk ka ||| s.me.rk kb)
/-- vmask.xor. -/
def execVmaskXor (kd ka kb : BitVec 2) (s : State) : Out := s.vMask kd (s.me.rk ka ^^^ s.me.rk kb)
/-- vmask.andn: kA and not kB. -/
def execVmaskAndn (kd ka kb : BitVec 2) (s : State) : Out := s.vMask kd (s.me.rk ka &&& ~~~(s.me.rk kb))
/-- vmask.not. -/
def execVmaskNot (kd ka : BitVec 2) (s : State) : Out := s.vMask kd (~~~(s.me.rk ka))
/-- vmask.fromg. -/
def execVmaskFromg (kd : BitVec 2) (a : RegNo) (s : State) : Out := s.vMask kd ((s.me.rg a).setWidth 16)
/-- vmask.tog. -/
def execVmaskTog (d : RegNo) (ka : BitVec 2) (s : State) : Out := s.vMaskG d (s.me.rk ka).toNat
/-- vmask.pop. -/
def execVmaskPop (d : RegNo) (ka : BitVec 2) (s : State) : Out := s.vMaskG d (popCount 16 (s.me.rk ka).toNat)
/-- vmask.first: 16 if none. -/
def execVmaskFirst (d : RegNo) (ka : BitVec 2) (s : State) : Out := s.vMaskG d (trailingZeros 16 (s.me.rk ka).toNat)

-- Vector memory (R225, R226)

/-- The request of one lane. -/
def laneReq (base : Tagged) (va : Word) (store : Bool) : AccessReq :=
  { va := va, size := 4, need := if store then .write else .read, origin := if store then .store else .load
    base := base, noSe := true, reads := !store, align := 4 }

/-- The active lanes with their addresses, ascending. -/
def State.laneAddrs (s : State) (k : BitVec 2) (addr : Nat → Word) : List (Nat × Word) :=
  (s.vActs k 32).map (fun l => (l, addr l))

/-- The checks of a lane; a fault names the lane's address, a header's fault too (R225). -/
def State.laneCheck (s : State) (base : Tagged) (va : Word) (store : Bool) : Chk Access :=
  (s.checkAccess s.party (laneReq base va store)).atAddr va

/-- The lanes checked for a load in ascending order; the first that fails raises its fault. No lane is read before every lane has
been checked, and has let the writes before it into memory (R226). -/
def State.checkLanes (s : State) (base : Tagged) : List (Nat × Word) → Chk (List (Nat × Access))
  | [] => .ok s []
  | x :: xs =>
    (s.laneCheck base x.2 false).andThen (fun s a =>
      (s.checkLanes base xs).andThen (fun s as => .ok s ((x.1, a) :: as)))

/-- An access that requests the aligned 64 bytes of a whole register, or more where its leaf says so (R371). -/
def Access.wholeReg (a : Access) : Access :=
  if 2 ≤ field a.entry.toNat 9 8 then a else { a with entry := a.entry &&& ~~~(0x300 : Word) ||| 0x200 }

/-- The checked lanes read: lanes that read the same bytes take the same value (R226). -/
def State.readLanes (s : State) : List (Nat × Access) → State × List (Nat × Nat)
  | [] => (s, [])
  | x :: xs =>
    let r := s.loadSpan s.act.core s.act.ctx x.2 4
    let q := r.1.readLanes xs
    (q.1, (x.1, valueLE r.2.1) :: q.2)

/-- A vector load (R225): inactive lanes merge or are written zero. whole: the access is that of a whole register (R371). -/
def State.vecLoad (s : State) (base : Tagged) (z whole : Bool) (vd : BitVec 4) (lanes : List (Nat × Word)) : State :=
  let old := s.me.rv vd
  s.checked (s.checkLanes base lanes) (fun s as =>
    let r := s.readLanes (if whole then as.map (fun x => (x.1, x.2.wholeReg)) else as)
    let s := r.1
    let xs := r.2
    let lane (l : Nat) : Nat := match mfind xs l with
      | some x => x
      | none => if z then 0 else elemOf 32 l old.toNat
    s.long [.v vd.toNat (vpack 32 ((List.range 16).map lane))])

/-- The lanes checked for a store in ascending order: the writes of each. -/
def State.storeLanes (s : State) (base : Tagged) (data : Vec) : List (Nat × Word) → Chk (List StoreReq)
  | [] => .ok s []
  | x :: xs =>
    (s.laneCheck base x.2 true).andThen (fun s a =>
      if (wordsOf a.pa 4).any (s.poisonedFor s.party) then
        .fault (s.detectAll (wordsOf a.pa 4)) (memCause .poison .store) x.2 (if base.tag then base.val else 0)
      else
        let st : StoreReq := { writes := wordWrites a.pa (bytesLE 4 (elemOf 32 x.1 data.toNat)) false
                               va := x.2.toNat % 2 ^ 57, asid := s.party.asid, obj := a.obj, glob := a.entry.getLsbD 6 }
        (s.storeLanes base data xs).andThen (fun s ys => .ok s (st :: ys)))

/-- A vector store (R225): its entries join the store buffer, one for vst, whatever its mask holds, one for each active lane
of vsct (R156). -/
def State.vecStore (s : State) (base : Tagged) (vd : BitVec 4) (lanes : List (Nat × Word)) (one : Bool) : State :=
  s.checked (s.storeLanes base (s.me.rv vd) lanes) (fun s sts =>
    let sts := match sts with
      | [] => if one then [{ writes := [], va := 0 }] else []
      | x :: xs => if one then [{ x with writes := ((x :: xs).map (·.writes)).flatten }] else x :: xs
    if 32 < s.me.stores.length + sts.length then s.trapInstr Cause.blkStores
    else s.onMe (fun c => { c with stores := c.stores ++ sts }))

/-- vld and vst need an effective address that is a multiple of 64, whatever the mask holds (R225). -/
def State.vecAligned (s : State) (base : Tagged) (ea : Word) (o : Origin) (k : State) : State :=
  if ea.toNat % 64 ≠ 0 then s.trapMe (memCause .align o) ea (if base.tag then base.val else 0) else k

/-- Lane l of an index register, sign-extended and scaled. -/
def State.laneIndex (s : State) (vb : BitVec 4) (sh : BitVec 3) (l : Nat) : Word :=
  sextLow 32 (BitVec.ofNat 64 (s.vel 32 vb l)) <<< sh.toNat

/-- vld (R225). -/
def execVld (z : Bool) (vd : BitVec 4) (k : BitVec 2) (a : RegNo) (off : BitVec 9) (s : State) : Out :=
  let base := s.me.rgt a
  let ea := effAddr base.val off 64
  .next (s.vecAligned base ea .load
    (s.vecLoad base z true vd (s.laneAddrs k (fun l => ea + BitVec.ofNat 64 (4 * l)))))
/-- vst (R225). -/
def execVst (vd : BitVec 4) (k : BitVec 2) (a : RegNo) (off : BitVec 9) (s : State) : Out :=
  let base := s.me.rgt a
  let ea := effAddr base.val off 64
  .next (s.vecAligned base ea .store
    (s.vecStore base vd (s.laneAddrs k (fun l => ea + BitVec.ofNat 64 (4 * l))) true))
/-- vlds (R225). -/
def execVlds (z : Bool) (vd : BitVec 4) (k : BitVec 2) (a b : RegNo) (s : State) : Out :=
  let base := s.me.rgt a
  let step := s.me.rg b
  .next (s.vecLoad base z false vd (s.laneAddrs k (fun l => base.val + BitVec.ofNat 64 l * step)))
/-- vgth (R225). -/
def execVgth (z : Bool) (vd : BitVec 4) (k : BitVec 2) (a : RegNo) (vb : BitVec 4) (sh : BitVec 3) (s : State) : Out :=
  let base := s.me.rgt a
  .next (s.vecLoad base z false vd (s.laneAddrs k (fun l => base.val + s.laneIndex vb sh l)))
/-- vsct (R225, R226): lanes in ascending order. -/
def execVsct (vd : BitVec 4) (k : BitVec 2) (a : RegNo) (vb : BitVec 4) (sh : BitVec 3) (s : State) : Out :=
  let base := s.me.rgt a
  .next (s.vecStore base vd (s.laneAddrs k (fun l => base.val + s.laneIndex vb sh l)) false)

end Sys2Proof.Machine
end

