-- ==== Sys2Proof/Machine/Elements.lean ====
section
/-!
DEFINITION. Element firings (R277..R290, R295..R297): the read sequence, lanes, the operations of codes 0x01..0x5A,
0x64, 0x65, 0x66, marker firings and plane changes.
-/

namespace Sys2Proof.Machine

-- The read sequence (R277, R280)

/-- The element of a site may act. -/
def Site.acts (x : Site) : Bool := x.running && !x.stopped && !x.drained && !x.ending && x.change.isNone
/-- The output register is free, and so are the control links (R276, R278). -/
def Site.outFree (x : Site) : Bool := x.outreg.isNone && x.outq.isEmpty && x.ctlOut.isEmpty
/-- Tokens that wait at the element output. -/
def Site.outCount (x : Site) : Nat := x.outq.length + b2n x.outreg.isSome

/-- s.tval2 of PORT_ORDER (R280): read index, port, kind found. -/
def portOrder (k p kind : Nat) : Word := BitVec.ofNat 64 (k % 8 + 8 * p + 32 * kind)
/-- A site number as s.tval (R307). -/
def siteVal (n : Nat) : Word := BitVec.ofNat 64 n

/-- qmax and qcvt, whose groups a marker ends (R298). -/
def groupOp (op : Nat) : Bool := op == 0x32 || op == 0x33

/-- The reads of the sequence that can be made are made, from read k on, whose ports are given (R277). A marker at read
0 is left for a marker firing; a later one faults with PORT_ORDER (R280), ends the group of a quantiser (R298), or differs
from what the comparator has read (R306). -/
def State.takeReads (s : State) (n : Nat) : List Nat → Nat → State
  | [], _ => s
  | p :: ps, k =>
    match mfind (s.site n).ports p with
    | none => s
    | some t =>
      if !t.todo.contains 6 then s
      else if t.tok.kind = 7 then s.graphFault n Cause.tokenKind 2 (siteVal n) 7 0
      else if t.tok.marker then
        if k = 0 || groupOp (s.site n).op || (s.site n).op = 0x63 then s
        else if (s.site n).op = 0x55 then
          s.graphFault n Cause.cturnPartial 2 (siteVal n) (BitVec.ofNat 64 ((s.site n).elem.buf.length + k)) 0
        else s.graphFault n Cause.portOrder 2 (siteVal n) (portOrder k p t.tok.kind) 0
      else (s.onSite n (fun x => { (x.took p 6) with taken := x.taken ++ [t.tok] })).takeReads n ps (k + 1)

/-- The next read finds a marker: the group of a quantiser ends (R298), the comparator's reads differ (R306). -/
def Site.groupEnds (x : Site) : Bool :=
  (groupOp x.op || x.op == 0x63) && !x.taken.isEmpty &&
  (match (x.plane.reads.drop x.taken.length).head? with
   | some p => (match mfind x.ports p with
     | some t => t.todo.contains 6 && t.tok.marker
     | none => false)
   | none => false)

/-- A firing of a configuration's region is noted for the stall test (R294). -/
def State.noteFire (s : State) (n : Nat) : State :=
  match (s.site n).launch with
  | some l =>
    match mfind s.fabric.placed l with
    | some p => { s with fabric := { s.fabric with placed := mset s.fabric.placed l { p with lastFire := s.time } } }
    | none => s
  | none => s

/-- A value firing (R277, R278): the reads go on; when all have been made and there is room, k has the tokens. sparse:
the operation accepts SPARSE tokens (R275). -/
def State.firing (s : State) (room : Site → Bool) (sparse : Bool) (k : State → Nat → List Token → State) : Out :=
  let n := s.act.site
  if !(s.site n).acts then .next s
  else
    let x0 := s.site n
    let s := s.takeReads n (x0.plane.reads.drop x0.taken.length) x0.taken.length
    let x := s.site n
    let full := decide (x.plane.reads.length ≤ x.taken.length) || x.groupEnds
    if x.stopped || !full || !room x then .next s
    else
      match x.taken.find? (fun t => t.kind == 1 && !sparse) with
      | some _ => .next (s.graphFault n Cause.tokenKind 2 (siteVal n) 1 0)
      | none => .next (k ((s.onSite n (fun x => { x with taken := [] })).noteFire n) n x.taken)

/-- Tokens are emitted by the element of a site. -/
def State.emit (s : State) (n : Nat) (ts : List Token) : State := s.onSite n (fun x => x.emit ts)

/-- The OR of the last bits (R278). -/
def anyLast (ts : List Token) : Bool := ts.any (fun t => t.last)
/-- The POISON token at the lowest read (R282). -/
def poisonOf (ts : List Token) : Option Token := ts.find? (fun t => t.kind == 6)
/-- A POISON token with the payload of another. -/
def poisonTok (p : Token) (last : Bool) : Token := { payload := p.payload, kind := 6, last := last }
/-- A POISON payload (R275): cause, ticket and site. -/
def poisonPayload (cause ticket site : Nat) : Vec := BitVec.ofNat 512 (cause % 512 + 65536 * (ticket % 65536) + 2 ^ 32 * site)

/-- A value firing that computes: a POISON among the tokens makes outs POISON tokens, and control output 0 (R282). -/
def State.value (s : State) (n : Nat) (ts : List Token) (outs : Nat) (ctl : Bool) (k : State) : State :=
  match poisonOf ts with
  | some p =>
    let s := s.emit n (List.replicate outs (poisonTok p (anyLast ts)))
    if ctl then s.onSite n (fun x => x.emitCtl false) else s
  | none => k

-- Lanes (R283)

/-- A lane: a float format, or an integer with its width and whether it is signed. -/
inductive Lane where
  | flt (f : Fmt)
  | int (w : Nat) (sg : Bool)
  deriving DecidableEq, Repr

/-- The lane of a format code; code 0x00 is I32 for an operation marked int (R283). -/
def laneOf (isInt : Bool) (c : Nat) : Lane :=
  if isInt && c == 0 then .int 32 true
  else match codeFloat c with
    | some f => .flt f
    | none => match codeInt c with
      | some i => .int i.1 i.2
      | none => .int 32 true
/-- Bits of a lane. -/
def Lane.width : Lane → Nat
  | .flt f => f.width
  | .int w _ => w

/-- Valid words of a token (R274). -/
def Token.words (t : Token) : Nat := if t.vcnt = 0 then 16 else t.vcnt
/-- A DATA token of n valid words; words above are zero (R275). -/
def dataTok (x : Nat) (words : Nat) (last : Bool) : Token :=
  { payload := BitVec.ofNat 512 (x % 2 ^ (32 * words)), last := last, vcnt := words % 16 }
/-- The valid words of a result: a word is valid when it is so in some operand. -/
def maxWords (ts : List Token) : Nat := ts.foldl (fun a t => max a t.words) 0

/-- Rounding of a plane, with the draw of lane e (R95, R283). -/
def State.penv (s : State) (p : PlaneSlot) (e : Nat) : FEnv :=
  { rm := p.bits 19 18, ftz := p.bits 20 20 == 1, sat := p.bits 21 21 == 1, draw := (Config.srDraw s.tick e).toNat }
/-- Format codes of a plane. -/
def PlaneSlot.fin (p : PlaneSlot) : Nat := p.bits 12 8
def PlaneSlot.fout (p : PlaneSlot) : Nat := p.bits 17 13
/-- The constant of a plane. -/
def PlaneSlot.imm (p : PlaneSlot) : Nat := p.bits 55 24
/-- The depth of a plane. -/
def PlaneSlot.depth (p : PlaneSlot) : Nat := p.bits 127 114
/-- The poison flag of a plane. -/
def PlaneSlot.poison (p : PlaneSlot) : Bool := p.bits 23 23 == 1

/-- All flags of results. -/
def resFlags (rs : List FRes) : Nat := rs.foldl (fun a r => a ||| r.flags) 0

/-- A firing that makes one token lane by lane: r operands, the last of them the immediate where a read is missing
(R279). g has the lane and its operands. ctl: the condition of lane 0 goes to the control output (R285). -/
def State.lanes (s : State) (r : Nat) (isInt ctl : Bool) (g : Lane → FEnv → List Nat → FRes) : Out :=
  s.firing Site.outFree false (fun s n ts =>
    s.value n ts 1 ctl (
      let p := (s.site n).plane
      let l := laneOf isInt p.fin
      let w := l.width
      let ops := ts.map (fun t => elemsOf w (512 / w) t.payload.toNat)
      let ops := if ops.length < r then ops ++ [List.replicate (512 / w) (p.imm % 2 ^ w)] else ops
      let rs := (List.range (512 / w)).map (fun e => g l (s.penv p e) (ops.map (fun o => o.getD e 0)))
      let tok := dataTok (packElems w (rs.map (·.bits))) (maxWords ts) (anyLast ts)
      let s := (s.graphFlags n (resFlags rs)).emit n [tok]
      if ctl then s.onSite n (fun x => x.emitCtl ((rs.getD 0 { bits := 0 }).bits != 0)) else s))

/-- An operand of a lane. -/
def opN (xs : List Nat) (k : Nat) : Nat := xs.getD k 0
/-- A float operand of a lane. -/
def opF (f : Fmt) (v : FEnv) (xs : List Nat) (k : Nat) : FVal := f.read v.ftz (xs.getD k 0)

/-- A function of two lanes: float, and integer on w bits. -/
def lane2 (fl : Fmt → FEnv → FVal → FVal → FRes) (it : Nat → Bool → Nat → Nat → Nat) (l : Lane) (v : FEnv) (xs : List Nat) : FRes :=
  match l with
  | .flt f => fl f v (opF f v xs 0) (opF f v xs 1)
  | .int w sg => { bits := it w sg (opN xs 0) (opN xs 1) % 2 ^ w }
/-- A float function of one lane. -/
def laneF (fl : Fmt → FEnv → FVal → FRes) (l : Lane) (v : FEnv) (xs : List Nat) : FRes :=
  match l with
  | .flt f => fl f v (opF f v xs 0)
  | .int _ _ => { bits := opN xs 0 }
/-- An integer function of two lanes. -/
def laneI (it : Nat → Bool → Nat → Nat → Nat) (l : Lane) (_v : FEnv) (xs : List Nat) : FRes :=
  match l with
  | .flt f => { bits := it f.width true (opN xs 0) (opN xs 1) % 2 ^ f.width }
  | .int w sg => { bits := it w sg (opN xs 0) (opN xs 1) % 2 ^ w }

/-- The integer value of a lane. -/
def laneInt (w : Nat) (sg : Bool) (x : Nat) : Int := if sg then signedOf w x else ((x % 2 ^ w : Nat) : Int)
/-- An integer clamped to a lane's range. -/
def laneClamp (w : Nat) (sg : Bool) (x : Int) : Nat := bitsOf w (clampInt (intLo (w, sg)) (intHi (w, sg)) x)

-- Arithmetic (R284)

/-- FE_ADD -/
def execFeAdd (s : State) : Out := s.lanes 2 false false (lane2 Fmt.fadd (fun _ _ x y => x + y))
/-- FE_SUB -/
def execFeSub (s : State) : Out :=
  s.lanes 2 false false (lane2 (fun f v x y => f.fadd v x y.neg) (fun w _ x y => x + 2 ^ w - y))
/-- FE_MUL -/
def execFeMul (s : State) : Out := s.lanes 2 false false (lane2 Fmt.fmul (fun _ _ x y => x * y))
/-- FE_FMA -/
def execFeFma (s : State) : Out :=
  s.lanes 3 false false (fun l v xs => match l with
    | .flt f => f.ffma v (opF f v xs 0) (opF f v xs 1) (opF f v xs 2)
    | .int w _ => { bits := (opN xs 0 * opN xs 1 + opN xs 2) % 2 ^ w })
/-- FE_FMS -/
def execFeFms (s : State) : Out :=
  s.lanes 3 false false (fun l v xs => match l with
    | .flt f => f.ffma v (opF f v xs 0) (opF f v xs 1) (opF f v xs 2).neg
    | .int w _ => { bits := (opN xs 0 * opN xs 1 + 2 ^ w - opN xs 2 % 2 ^ w) % 2 ^ w })
/-- The smaller of two integer lanes, signed or not. -/
def laneMin (w : Nat) (sg : Bool) (x y : Nat) : Nat := if laneInt w sg x ≤ laneInt w sg y then x else y
/-- The larger of two integer lanes. -/
def laneMax (w : Nat) (sg : Bool) (x y : Nat) : Nat := if laneInt w sg x ≤ laneInt w sg y then y else x
/-- FE_MIN -/
def execFeMin (s : State) : Out := s.lanes 2 false false (lane2 (fun f v => f.fpick v FVal.lesser) laneMin)
/-- FE_MAX -/
def execFeMax (s : State) : Out := s.lanes 2 false false (lane2 (fun f v => f.fpick v FVal.greater) laneMax)

/-- Entries of a SPARSE token and its strides (R275): value bits, entry bits, entries. -/
def sparseForm (w : Nat) : Nat × Nat × Nat := if w = 32 then (32, 48, 10) else (16, 32, 16)
/-- Valid entries of a SPARSE token (R274). -/
def Token.entries (t : Token) (w : Nat) : Nat := min t.words (sparseForm w).2.2
/-- A SPARSE token whose values go through g, its coordinates kept. -/
def sparseMap (w : Nat) (g : Nat → Nat → FRes) (t : Token) : Token × Nat :=
  let f := sparseForm w
  let x := t.payload.toNat
  let rs := (List.range (t.entries w)).map (fun e => g e (x >>> (f.2.1 * e) % 2 ^ f.1))
  let cs := (List.range (t.entries w)).map (fun e => x >>> (f.2.1 * e + f.1) % 65536)
  let y := packElems f.2.1 ((rs.zip cs).map (fun r => r.1.bits % 2 ^ f.1 + 2 ^ f.1 * r.2))
  ({ t with payload := BitVec.ofNat 512 y }, resFlags rs)

/-- A firing of one token, dense or SPARSE. g has the lane, the draw's number and the value. -/
def State.lanesSparse (s : State) (isInt : Bool) (g : Lane → FEnv → Nat → FRes) : Out :=
  s.firing Site.outFree true (fun s n ts =>
    s.value n ts 1 false (
      let p := (s.site n).plane
      let l := laneOf isInt p.fin
      let w := l.width
      let t := ts.getD 0 {}
      if t.kind = 1 then
        let r := sparseMap w (fun e x => g l (s.penv p e) x) t
        (s.graphFlags n r.2).emit n [r.1]
      else
        let rs := (elemsOf w (512 / w) t.payload.toNat).zipIdx.map (fun x => g l (s.penv p x.2) x.1)
        (s.graphFlags n (resFlags rs)).emit n [dataTok (packElems w (rs.map (·.bits))) t.words t.last]))

/-- FE_ABS -/
def execFeAbs (s : State) : Out :=
  s.lanesSparse false (fun l _ x => match l with
    | .flt f => { bits := f.fabs x }
    | .int w sg => { bits := bitsOf w (laneInt w sg x).natAbs })
/-- FE_NEG -/
def execFeNeg (s : State) : Out :=
  s.lanesSparse false (fun l _ x => match l with
    | .flt f => { bits := f.fneg x }
    | .int w _ => { bits := (2 ^ w - x % 2 ^ w) % 2 ^ w })
/-- FE_DIV -/
def execFeDiv (s : State) : Out := s.lanes 2 false false (lane2 Fmt.fdiv (fun _ _ x _ => x))
/-- FE_RCP -/
def execFeRcp (s : State) : Out := s.lanes 1 false false (laneF Fmt.frcp)
/-- FE_RSQ -/
def execFeRsq (s : State) : Out := s.lanes 1 false false (laneF Fmt.frsq)
/-- FE_SQRT -/
def execFeSqrt (s : State) : Out := s.lanes 1 false false (laneF Fmt.fsqrt)
/-- FE_EXP2 -/
def execFeExp2 (s : State) : Out := s.lanes 1 false false (laneF Fmt.fexp2)
/-- FE_LOG2 -/
def execFeLog2 (s : State) : Out := s.lanes 1 false false (laneF Fmt.flog2)
/-- FE_TANH -/
def execFeTanh (s : State) : Out := s.lanes 1 false false (laneF Fmt.ftanh)
/-- FE_ADDS -/
def execFeAdds (s : State) : Out :=
  s.lanes 2 true false (laneI (fun w sg x y => laneClamp w sg (laneInt w sg x + laneInt w sg y)))
/-- FE_SUBS -/
def execFeSubs (s : State) : Out :=
  s.lanes 2 true false (laneI (fun w sg x y => laneClamp w sg (laneInt w sg x - laneInt w sg y)))
/-- FE_AVG -/
def execFeAvg (s : State) : Out :=
  s.lanes 2 true false (laneI (fun w sg x y => bitsOf w ((laneInt w sg x + laneInt w sg y + 1) / 2)))
/-- FE_MULH -/
def execFeMulh (s : State) : Out :=
  s.lanes 2 true false (laneI (fun w sg x y => bitsOf w (laneInt w sg x * laneInt w sg y / 2 ^ w)))

-- Compare, logic, shift, count (R285)

/-- A comparison of lanes: all ones when it holds. -/
def laneCmp (fl : FVal → FVal → Bool × Nat) (it : Int → Int → Bool) (l : Lane) (v : FEnv) (xs : List Nat) : FRes :=
  match l with
  | .flt f =>
    let r := fl (opF f v xs 0) (opF f v xs 1)
    { bits := if r.1 then 2 ^ f.width - 1 else 0, flags := r.2 }
  | .int w sg => { bits := if it (laneInt w sg (opN xs 0)) (laneInt w sg (opN xs 1)) then 2 ^ w - 1 else 0 }

/-- FE_CMPEQ -/
def execFeCmpeq (s : State) : Out := s.lanes 2 true true (laneCmp (evalFloat .feq) (fun x y => decide (x = y)))
/-- FE_CMPNE: the negation of feq. -/
def execFeCmpne (s : State) : Out :=
  s.lanes 2 true true (laneCmp (fun x y => (!(evalFloat .feq x y).1, (evalFloat .feq x y).2)) (fun x y => decide (x ≠ y)))
/-- FE_CMPLT -/
def execFeCmplt (s : State) : Out := s.lanes 2 true true (laneCmp (evalFloat .flt) (fun x y => decide (x < y)))
/-- FE_CMPLE -/
def execFeCmple (s : State) : Out := s.lanes 2 true true (laneCmp (evalFloat .fle) (fun x y => decide (x ≤ y)))
/-- FE_AND -/
def execFeAnd (s : State) : Out := s.lanes 2 true false (laneI (fun _ _ x y => x &&& y))
/-- FE_OR -/
def execFeOr (s : State) : Out := s.lanes 2 true false (laneI (fun _ _ x y => x ||| y))
/-- FE_XOR -/
def execFeXor (s : State) : Out := s.lanes 2 true false (laneI (fun _ _ x y => x ^^^ y))
/-- FE_NOT -/
def execFeNot (s : State) : Out := s.lanes 1 true false (laneI (fun w _ x _ => 2 ^ w - 1 - x % 2 ^ w))
/-- FE_SEL: on raw bits. -/
def execFeSel (s : State) : Out :=
  s.lanes 3 true false (fun _ _ xs => { bits := if opN xs 0 = 0 then opN xs 2 else opN xs 1 })
/-- FE_SHL -/
def execFeShl (s : State) : Out := s.lanes 2 true false (laneI (fun w _ x y => x <<< (y % w)))
/-- FE_SHR -/
def execFeShr (s : State) : Out := s.lanes 2 true false (laneI (fun w _ x y => (x % 2 ^ w) >>> (y % w)))
/-- FE_SAR -/
def execFeSar (s : State) : Out := s.lanes 2 true false (laneI (fun w _ x y => isar w x (y % w)))
/-- FE_POPC -/
def execFePopc (s : State) : Out := s.lanes 1 true false (laneI (fun w _ x _ => popCount w x))
/-- FE_CLZ -/
def execFeClz (s : State) : Out := s.lanes 1 true false (laneI (fun w _ x _ => leadingZeros w x))

-- Conversions (R286)

/-- A lane converted from one format to another (R94..R98). -/
def cvtLane (v : FEnv) (src dst : Lane) (x : Nat) : FRes :=
  match src, dst with
  | .flt f, .flt g => g.deliver v (f.read v.ftz x)
  | .flt f, .int w sg =>
    let r := toInt v (intLo (w, sg)) (intHi (w, sg)) (f.read v.ftz x)
    { bits := bitsOf w r.1, flags := r.2 }
  | .int w sg, .flt g => g.ofInt v (laneInt w sg x)
  | .int w sg, .int u sh => { bits := laneClamp u sh (laneInt w sg x) }

/-- Chunks of n entries. -/
def chunks (n : Nat) (xs : List Nat) : Nat → List (List Nat)
  | 0 => []
  | k + 1 => xs.take n :: chunks n (xs.drop n) k

/-- FE_CVT: widening emits several tokens, narrowing reads several from one port. -/
def execFeCvt (s : State) : Out :=
  s.firing Site.outFree true (fun s n ts =>
    let p := (s.site n).plane
    let a := laneOf false p.fin
    let b := laneOf false p.fout
    let wide := max 1 (b.width / a.width)
    s.value n ts wide false (
      match ts.find? (fun t => t.kind == 1) with
      | some t =>
        if a.width = b.width then
          let r := sparseMap a.width (fun e x => cvtLane (s.penv p e) a b x) t
          (s.graphFlags n r.2).emit n [r.1]
        else s.graphFault n Cause.tokenKind 2 (siteVal n) 1 0
      | none =>
        let xs := (ts.map (fun t => elemsOf a.width (512 / a.width) t.payload.toNat)).flatten
        let rs := xs.zipIdx.map (fun x => cvtLane (s.penv p x.2) a b x.1)
        let words := if a.width = b.width then maxWords ts else 16
        let out := (chunks (512 / b.width) (rs.map (·.bits)) wide).map (fun c => dataTok (packElems b.width c) words (anyLast ts))
        (s.graphFlags n (resFlags rs)).emit n out))

/-- FE_SROUND: each lane takes a value of fout, written in fin. -/
def execFeSround (s : State) : Out :=
  s.firing Site.outFree false (fun s n ts =>
    s.value n ts 1 false (
      let p := (s.site n).plane
      let t := ts.getD 0 {}
      match laneOf false p.fin, laneOf false p.fout with
      | .flt f, .flt g =>
        let one (x : Nat × Nat) : FRes :=
          let r := g.deliver (s.penv p x.2) (f.read (s.penv p x.2).ftz x.1)
          { bits := (f.convert {} (g.decode r.bits)).bits, flags := r.flags }
        let rs := (elemsOf f.width (512 / f.width) t.payload.toNat).zipIdx.map one
        (s.graphFlags n (resFlags rs)).emit n [dataTok (packElems f.width (rs.map (·.bits))) t.words t.last]
      | _, _ => s.emit n [t]))

/-- Blocks of a group and elements of a block (R295). -/
def groupShape (fin fout : Nat) : Nat × Nat :=
  if fout = 0x14 then (if fin = 0 then (2, 8) else (4, 8)) else (1, 32)

/-- The elements of a group's tokens, missing ones zero, by block (R295, R298). -/
def State.groupBlocks (_s : State) (p : PlaneSlot) (ts : List Token) : List (List FVal) :=
  let sh := groupShape p.fin p.fout
  match codeFloat p.fin with
  | some f =>
    let xs := (ts.map (fun t => elemsOf f.width (512 / f.width) t.payload.toNat)).flatten
    (List.range sh.1).map (fun b => (List.range sh.2).map (fun e => f.read (p.bits 20 20 == 1) (xs.getD (sh.2 * b + e) 0)))
  | none => []

/-- FE_QMAX (R296). -/
def execFeQmax (s : State) : Out :=
  s.firing Site.outFree false (fun s n ts =>
    s.value n ts 1 false (
      let p := (s.site n).plane
      let one (xs : List FVal) : Nat :=
        if xs.any FVal.isNan then fp32.nanCode
        else (fp32.convert {} (finiteMax xs)).bits + (if xs.any FVal.isInf then 2 ^ 31 else 0)
      let bs := s.groupBlocks p ts
      s.emit n [dataTok (packElems 32 (bs.map one)) bs.length (anyLast ts)]))

/-- What a qmax lane says of its block: whether it holds a NaN or an infinity, and the largest finite magnitude (R296,
R297). -/
def laneStats (lane : Nat) : BlockStats :=
  { nan := (fp32.decode lane).isNan, inf := lane.testBit 31, top := fp32.decode (lane % 2 ^ 31) }

/-- A block quantised with the scale data of its qmax lane alone (R106..R108, R297). A NaN among the elements under a lane
that names none has no stated code: a free value (log entry 44). -/
def State.quantBlock (s : State) (p : PlaneSlot) (lane b : Nat) (xs : List FVal) : Quant :=
  let v (k : Nat) : FEnv := { (s.penv p (64 * b + k)) with ftz := false }
  let q := if p.fout = 0x14 then sx4With (fp32.decode p.imm) v (laneStats lane) xs else bxWith p.fout v (laneStats lane) xs
  { q with codes := (q.codes.zip xs).zipIdx.map (fun y =>
      if y.1.2.isNan && !q.nan then (Config.freeWord s.tick (64 * b + y.2)).toNat % 2 ^ codeBits p.fout else y.1.1) }

/-- FE_QCVT (R297): a tensor scale that is not admitted faults before any token is emitted, whatever the firing reads. -/
def execFeQcvt (s : State) : Out :=
  s.firing Site.outFree false (fun s n ts =>
    let p := (s.site n).plane
    if p.fout = 0x14 ∧ tensorScaleOk (fp32.decode p.imm) = false then s.graphFault n Cause.qntScale 2 (siteVal n) 0 0
    else
      s.value n ts 1 false (
        let mx := (ts.getD 0 {}).payload.toNat
        let bs := s.groupBlocks p (ts.drop 1)
        let qs := bs.zipIdx.map (fun x => s.quantBlock p (elemOf 32 x.2 mx) x.2 x.1)
        let w := codeBits p.fout
        let codes := (qs.map (·.codes)).flatten
        let scales := (qs.zipIdx.map (fun q => q.1.scale * 2 ^ (504 - 8 * q.2))).sum
        let words := ceilDiv (codes.length * w) 32
        let t : Token := { payload := BitVec.ofNat 512 (packElems w codes + scales), last := anyLast ts, vcnt := words % 16 }
        let inf := qs.any (fun q => q.inf)
        let s := (s.graphFlags n (32 * b2n (qs.any (fun q => q.nan)) + 64 * b2n inf)).emit n [t]
        if inf && p.depth % 2 == 1 then s.graphFault n Cause.qntInf 2 (siteVal n) 0 0 else s))

/-- Elements of a quantised token (R295): 32 of a BX format; of SX4 as many as its valid words hold, 16 or 32. -/
def quantCount (fin words : Nat) : Nat := if fin = 0x14 then min 32 (8 * words) else 32

/-- FE_DQ: the elements of one group, in one or two tokens of fout (R286). A POISON token counts no words: as many tokens as
a group of fout's own shape gives take its place. -/
def execFeDq (s : State) : Out :=
  s.firing Site.outFree false (fun s n ts =>
    let p := (s.site n).plane
    let sx := p.fin == 0x14
    let f := (codeFloat p.fout).getD fp32
    let t := ts.getD 0 {}
    let sh := groupShape p.fout p.fin
    let total := if t.kind = 6 then sh.1 * sh.2 else quantCount p.fin t.words
    let outs := max 1 (ceilDiv total (512 / f.width))
    s.value n ts outs false (
      let x := t.payload.toNat
      let w := codeBits p.fin
      let scale (b : Nat) : Nat := x >>> (504 - 8 * b) % 256
      let val (e : Nat) : FVal :=
        if sx then sx4Value (fp32.decode p.imm) (scale (e / 8)) (elemOf w e x) else bxValue p.fin (scale 0) (elemOf w e x)
      let rs := (List.range total).map (fun e => f.deliver (s.penv p e) (val e))
      let out := (chunks (512 / f.width) (rs.map (·.bits)) outs).map (fun c =>
        dataTok (packElems f.width c) (ceilDiv (c.length * f.width) 32) (anyLast ts))
      (s.graphFlags n (resFlags rs)).emit n out))

-- Reductions (R287)

/-- One step of an accumulator: float lanes hold FP32. -/
def accStep (fl : FEnv → FVal → FVal → FRes) (it : Nat → Nat → Nat → Nat) (l : Lane) (v : FEnv) (a x : Nat) : FRes :=
  match l with
  | .flt _ => fl v (fp32.decode a) (fp32.decode x)
  | .int w _ => { bits := it w a x % 2 ^ w }
/-- A lane as its accumulator holds it: float lanes widened to FP32. -/
def accOf (l : Lane) (v : FEnv) (x : Nat) : FRes :=
  match l with
  | .flt f => fp32.deliver { v with rm := 0 } (f.read v.ftz x)
  | .int _ _ => { bits := x }
/-- An accumulator rounded to the lane format. -/
def accOut (l : Lane) (v : FEnv) (a : Nat) : FRes :=
  match l with
  | .flt f => f.deliver v (fp32.decode a)
  | .int _ _ => { bits := a }

/-- A reduction's operation. -/
structure RedOp where
  fl : FEnv → FVal → FVal → FRes
  it : Nat → Nat → Nat → Nat

/-- Sums, and signed maxima and minima. -/
def redSum : RedOp := { fl := fun v x y => fp32.fadd v x y, it := fun _ x y => x + y }
def redMax : RedOp := { fl := fun v => fp32.fpick v FVal.greater, it := imax }
def redMin : RedOp := { fl := fun v => fp32.fpick v FVal.lesser, it := imin }

/-- One level of the pairwise tree of R116. -/
def foldLevel (r : RedOp) (l : Lane) (v : FEnv) : List Nat → List FRes
  | a :: b :: xs => accStep r.fl r.it l v a b :: foldLevel r l v xs
  | [a] => [{ bits := a }]
  | [] => []
/-- The tree over a list of accumulators: result and flags. -/
def foldTree (r : RedOp) (l : Lane) (v : FEnv) : Nat → List Nat × Nat → List Nat × Nat
  | 0, x => x
  | k + 1, x =>
    let y := foldLevel r l v x.1
    foldTree r l v k (y.map (·.bits), x.2 ||| resFlags y)

/-- Rounding of the accumulators: one rne32 per token. -/
def State.aenv (s : State) (p : PlaneSlot) : FEnv := { (s.penv p 0) with rm := 0 }

/-- The result token of a segment. -/
def State.segmentTok (s : State) (n : Nat) (r : RedOp) (fold last : Bool) : State × Token :=
  let x := s.site n
  let p := x.plane
  let l := laneOf false p.fin
  match x.elem.poison with
  | some t => (s, poisonTok t last)
  | none =>
    let f := if fold then foldTree r l (s.aenv p) 7 (x.elem.acc, 0) else (x.elem.acc, 0)
    let rs := (f.1.take (if fold then 1 else 64)).zipIdx.map (fun a => accOut l (s.penv p a.2) a.1)
    let words := if fold then 16 else x.elem.words
    (s.graphFlags n (f.2 ||| resFlags rs), dataTok (packElems l.width (rs.map (·.bits))) words last)

/-- A token enters the segment's accumulators. DESIGN CHOICE (log entry 86): the FP32 accumulator of rsum and acc starts from the first
token's value, so that a sum of −0 stays −0 (R287). -/
def State.accumulate (s : State) (n : Nat) (r : RedOp) (t : Token) : State :=
  let x := s.site n
  let p := x.plane
  let l := laneOf false p.fin
  if t.kind = 6 then
    s.onSite n (fun x => { x with elem := { x.elem with cnt := x.elem.cnt + 1, poison := some (x.elem.poison.getD t) } })
  else
    let xs := (elemsOf l.width (512 / l.width) t.payload.toNat).map (accOf l (s.aenv p))
    let rs := if x.elem.acc.isEmpty then xs
      else (x.elem.acc.zip xs).map (fun a => accStep r.fl r.it l (s.aenv p) a.1 a.2.bits)
    (s.graphFlags n (resFlags xs ||| resFlags rs)).onSite n (fun x =>
      { x with elem := { x.elem with acc := rs.map (·.bits), cnt := x.elem.cnt + 1, words := max x.elem.words t.words } })

/-- The segment is over. -/
def State.clearSegment (s : State) (n : Nat) : State :=
  s.onSite n (fun x => { x with elem := { x.elem with acc := [], cnt := 0, poison := none, words := 0 } })

/-- A reduction over a segment: every token (acc) or its end emits. -/
def State.reduce (s : State) (r : RedOp) (always : Bool) : Out :=
  s.firing Site.outFree false (fun s n ts =>
    let t := ts.getD 0 {}
    let s := s.accumulate n r t
    let x := s.site n
    let p := x.plane
    let ends := t.last || (p.depth != 0 && decide (p.depth ≤ x.elem.cnt))
    let fold := !always && p.imm % 2 == 1
    let s := if always || ends then
        let q := s.segmentTok n r fold t.last
        q.1.emit n [q.2]
      else s
    if ends then s.clearSegment n else s)

/-- FE_RSUM -/
def execFeRsum (s : State) : Out := s.reduce redSum false
/-- FE_RMAX -/
def execFeRmax (s : State) : Out := s.reduce redMax false
/-- FE_RMIN -/
def execFeRmin (s : State) : Out := s.reduce redMin false
/-- FE_ACC -/
def execFeAcc (s : State) : Out := s.reduce redSum true

/-- Running sums of lanes, one rne32 each (R235). -/
def runSums (l : Lane) (v : FEnv) : Nat → List Nat → List FRes
  | _, [] => []
  | a, x :: xs =>
    let r := accStep redSum.fl redSum.it l v a x
    r :: runSums l v r.bits xs

/-- FE_SCAN -/
def execFeScan (s : State) : Out :=
  s.firing Site.outFree false (fun s n ts =>
    s.value n ts 1 false (
      let p := (s.site n).plane
      let l := laneOf false p.fin
      let t := ts.getD 0 {}
      let xs := (elemsOf l.width (512 / l.width) t.payload.toNat).map (accOf l (s.aenv p))
      let sums := match xs with
        | [] => []
        | y :: ys => y :: runSums l (s.aenv p) y.bits (ys.map (·.bits))
      let rs := sums.zipIdx.map (fun a => accOut l (s.penv p a.2) a.1.bits)
      (s.graphFlags n (resFlags xs ||| resFlags sums ||| resFlags rs)).emit n
        [dataTok (packElems l.width (rs.map (·.bits))) t.words t.last]))

-- Structure operations (R288, R289)

/-- FE_BCAST -/
def execFeBcast (s : State) : Out :=
  s.firing Site.outFree false (fun s n ts =>
    s.value n ts 1 false (
      let p := (s.site n).plane
      let w := (laneOf false p.fin).width
      let x := elemOf w (p.imm % 64) (ts.getD 0 {}).payload.toNat
      s.emit n [dataTok (packElems w (List.replicate (512 / w) x)) 16 (anyLast ts)]))

/-- FE_SHUF: the kinds of vshuf (R237). -/
def execFeShuf (s : State) : Out :=
  s.firing Site.outFree false (fun s n ts =>
    s.value n ts 1 false (
      let p := (s.site n).plane
      let w := (laneOf false p.fin).width
      let k := 512 / w
      let h := k / 2
      let a := fun e => elemOf w e (ts.getD 0 {}).payload.toNat
      let b := fun e => elemOf w e (ts.getD 1 {}).payload.toNat
      let g (e : Nat) : Nat :=
        match p.imm % 8 with
        | 0 => if e % 2 = 0 then a (e / 2) else b (e / 2)
        | 1 => if e % 2 = 0 then a (e / 2 + h) else b (e / 2 + h)
        | 2 => if e < h then a (2 * e) else b (2 * (e - h))
        | 3 => if e < h then a (2 * e + 1) else b (2 * (e - h) + 1)
        | _ => a (k - 1 - e)
      let x := if p.imm % 8 = 5 then
          packElems 32 ((List.range 16).map (fun l => elemOf 32 ((l + 16 - p.imm / 8 % 16) % 16) (ts.getD 0 {}).payload.toNat))
        else packElems w ((List.range k).map g)
      s.emit n [dataTok x 16 (anyLast ts)]))

/-- Width of an integer lane of pack and unpack: I32 is code 0x00. -/
def packWidth (c : Nat) : Nat := (laneOf true c).width

/-- FE_PACK. DESIGN CHOICE (log entry 87): the result's vcnt is 16, as that of unpack, bcast, shuf, cturn and of a cvt that changes
the width, whatever the operands' (R288). -/
def execFePack (s : State) : Out :=
  s.firing Site.outFree false (fun s n ts =>
    s.value n ts 1 false (
      let p := (s.site n).plane
      let a := packWidth p.fin
      let b := packWidth p.fout
      let xs := (ts.map (fun t => elemsOf a (512 / a) t.payload.toNat)).flatten
      s.emit n [dataTok (packElems b (xs.map (fun x => x % 2 ^ b))) 16 (anyLast ts)]))

/-- FE_UNPACK -/
def execFeUnpack (s : State) : Out :=
  s.firing Site.outFree false (fun s n ts =>
    let p := (s.site n).plane
    let a := packWidth p.fin
    let b := packWidth p.fout
    let r := max 1 (b / a)
    s.value n ts r false (
      let xs := elemsOf a (512 / a) (ts.getD 0 {}).payload.toNat
      let ys := xs.map (fun x => if p.fin = 0x09 then x else bitsOf b (signedOf a x))
      s.emit n ((chunks (512 / b) ys r).map (fun c => dataTok (packElems b c) 16 (anyLast ts)))))

/-- FE_DELAY: a first-in first-out buffer of depth tokens at the output. -/
def execFeDelay (s : State) : Out :=
  s.firing (fun x => decide (x.outCount < max 1 x.plane.depth)) true (fun s n ts => s.emit n ts)

/-- The bits of a square's element. -/
def squareElem (w : Nat) (ts : List Token) (r c : Nat) : Nat :=
  let q := 32 / w
  elemOf w (16 * (r % q) + c) (ts.getD (r / q) {}).payload.toNat

/-- FE_CTURN (R289): rows and columns of a 16 × 16 square exchanged; nothing is read while a square is emitted. -/
def execFeCturn (s : State) : Out :=
  if !(s.site s.act.site).outFree then .next s
  else s.firing Site.outFree false (fun s n ts =>
    let p := (s.site n).plane
    let w := (laneOf true p.fin).width
    let t := w / 2
    let q := 32 / w
    let buf := (s.site n).elem.buf ++ ts
    if buf.length < t then s.onSite n (fun x => { x with elem := { x.elem with buf := buf } })
    else
      let s := s.onSite n (fun x => { x with elem := { x.elem with buf := [] } })
      s.value n buf t false (
        let row (r : Nat) : List Nat := (List.range 16).map (fun c => squareElem w buf c r)
        let out := (List.range t).map (fun k => dataTok (packElems w ((List.range q).map (fun i => row (q * k + i))).flatten) 16 (anyLast buf))
        s.emit n out))

/-- FE_REPL: depth copies, last only on the final one. -/
def execFeRepl (s : State) : Out :=
  s.firing Site.outFree true (fun s n ts =>
    let t := ts.getD 0 {}
    let d := (s.site n).plane.depth
    s.emit n (List.replicate (d - 1) { t with last := false } ++ [t]))

/-- FE_ZIP: a, then b. -/
def execFeZip (s : State) : Out :=
  s.firing Site.outFree true (fun s n ts =>
    s.value n ts 2 false (s.emit n (ts.map (fun t => { t with last := anyLast ts }))))

/-- FE_SPLIT: every other token of an invocation; a passed token waits for the next input token (R288). A POISON token that
does not pass is emitted too (R282). -/
def execFeSplit (s : State) : Out :=
  s.firing Site.outFree true (fun s n ts =>
    let t := ts.getD 0 {}
    let x := s.site n
    let out := x.elem.buf.map (fun h => { h with last := h.last || t.last })
    let pass := x.elem.cnt % 2 == x.plane.imm % 2
    let s := s.onSite n (fun x =>
      { x with elem := { x.elem with cnt := if t.last then 0 else x.elem.cnt + 1, buf := if pass && !t.last then [t] else [] } })
    s.emit n (out ++ (if (pass && t.last) || (!pass && t.kind == 6) then [t] else [])))

-- Sources, sink, hash (R288, R290)

/-- The configuration of a site drains (R424). -/
def State.draining (s : State) (n : Nat) : Bool :=
  match (s.site n).launch with
  | some l => (match mfind s.fabric.placed l with
    | some p => p.mode == .draining
    | none => false)
  | none => false

/-- A source: depth tokens per invocation, EOR after ninv invocations (R288); at an invocation end it stops for a drain
(R424). g makes token k of invocation j. -/
def State.source (s : State) (g : State → PlaneSlot → Nat → Nat → State × Option Nat) : Out :=
  let n := s.act.site
  let x := s.site n
  let p := x.plane
  if !x.acts || !x.outFree then .next s
  else if p.bits 143 128 ≤ x.elem.inv then
    .next ((s.emit n [{ kind := 2 }]).onSite n (fun x => { x with ending := true }))
  else if s.draining n && x.elem.cnt == 0 then
    .next ((s.emit n [{ kind := 5 }]).onSite n (fun x => { x with drained := true }))
  else match g s p x.elem.inv x.elem.cnt with
    | (s, none) => .next s
    | (s, some v) =>
      let last := x.elem.cnt + 1 == p.depth
      let s := (s.noteFire n).onSite n (fun x => { x with elem := { x.elem with
        cnt := if last then 0 else x.elem.cnt + 1, inv := if last then x.elem.inv + 1 else x.elem.inv } })
      .next (s.emit n [dataTok v 16 last])

/-- FE_IOTA -/
def execFeIota (s : State) : Out :=
  s.source (fun s p j k =>
    let w := packWidth p.fout
    let n := 512 / w
    (s, some (packElems w ((List.range n).map (fun i => (p.imm + (j * p.depth + k) * n + i) % 2 ^ w)))))
/-- FE_CONST -/
def execFeConst (s : State) : Out :=
  s.source (fun s p _ _ =>
    let w := codeBits p.fout
    (s, some (packElems w (List.replicate (512 / w) (p.imm % 2 ^ w)))))
/-- FE_SRC: argument words read at activation; one that faulted is read again. -/
def execFeSrc (s : State) : Out :=
  s.source (fun s p _ k =>
    let n := s.act.site
    let s := s.readArgs n p.argIndexes
    if (s.site n).stopped then (s, none)
    else (s, some (packElems 64 ((List.range 8).map (fun i =>
      (mget 0 (s.site n).elem.args (p.imm % 65536 + 8 * k + i)).toNat)))))

/-- The 32-bit hash of R290. -/
def hash32 (seed key : Nat) : Nat :=
  let x := BitVec.ofNat 32 key ^^^ BitVec.ofNat 32 seed
  let x := (x ^^^ (x >>> 16)) * 0x7FEB352D
  let x := (x ^^^ (x >>> 15)) * 0x846CA68B
  (x ^^^ (x >>> 16)).toNat
/-- FE_HASH -/
def execFeHash (s : State) : Out :=
  s.firing Site.outFree false (fun s n ts =>
    s.value n ts 1 false (
      let p := (s.site n).plane
      let t := ts.getD 0 {}
      s.emit n [dataTok (packElems 32 ((elemsOf 32 16 t.payload.toNat).map (hash32 p.imm))) t.words t.last]))

/-- A POISON token reaches a sink (R290): a fault, or counted under the poison flag. -/
def State.poisonSink (s : State) (n : Nat) (t : Token) : State :=
  if (s.site n).plane.poison then s.addPoison n 1
  else s.graphFault n Cause.poisonSink 2 (siteVal n) (BitVec.ofNat 64 t.payload.toNat) 0

/-- FE_SINK -/
def execFeSink (s : State) : Out :=
  s.firing (fun _ => true) true (fun s n ts =>
    ts.foldl (fun s t => if t.kind = 6 then s.poisonSink n t else s.addSunk n) s)

end Sys2Proof.Machine
end

