-- ==== Sys2Proof/Machine/System.lean ====
section
/-!
DEFINITION. Launching, replying, retiring, and the system instructions (R208..R217), and the ends of waits (R181).
-/

namespace Sys2Proof.Machine

/-- A context as a party. -/
def State.partyOf (s : State) (core ctx : Nat) : Party :=
  let c := s.ctxOf core ctx
  { ptb := (c.sr 0x060).toNat, asid := (c.sr 0x061).toNat, super := c.super, core := core, ctx := ctx }

-- spawn (R208, R389)

/-- Unused child reservations of every live launch. -/
def State.reservedEntries (s : State) : Nat := (s.launch.live.map (fun l => l.2.reserve)).sum

/-- A pending-pool entry for a child of a launch: one of its reservations, else a free unreserved entry (R389). -/
def State.poolEntry (s : State) (parent : Nat) : Option (Nat × Bool) :=
  let reserved := match mfind s.launch.live parent with
    | some l => decide (0 < l.reserve)
    | none => false
  let free := ((List.range 4096).find? (fun k => (mfind s.launch.pool k).isNone)).getD 0
  if reserved then some (free, true)
  else if s.launch.pool.length + s.reservedEntries < 4096 then some (free, false)
  else none

/-- The record of a spawn with its argument words, as its checks read them (R208): the record's words are kept. -/
def State.spawnOk (s : State) (x : Tagged) : Chk Unit :=
  let rec64 : AccessReq := { loadReq x x.val 64 with align := 64 }
  (s.checkAccess s.party rec64).andThen (fun s a =>
    let r := s.readWords s.act.core s.act.ctx a.entry a.herdObj (wordsOf a.pa 64)
    let s := r.1
    let w (k : Nat) : Word := (r.2.getD k {}).val
    let s := s.onMe (fun c => { c with snapCmd := some ([], r.2.map (·.val)) })
    if ¬ ((w 0).toNat % 8 = 1 ∨ (w 0).toNat % 8 = 2 ∨ (w 0).toNat % 8 = 3) then .fault s Cause.spawnRecord x.val (w 0)
    else if w 6 = 0 then .ok s ()
    else if !canonical (w 6) then .fault s (memCause .notMapped .load) (w 6) 0
    else if (w 6).toNat % 8 ≠ 0 then .fault s (memCause .align .load) (w 6) 0
    else (s.loadTagged s.party (w 6).toNat 8).andThen (fun s ws => s.escapeAll s.party (.scope 2) (w 6) ws))

/-- spawn (R208): a release at DEVICE scope, then a pending-pool entry for the child; it never waits for one. -/
def execSpawn (d a : RegNo) (p : PredNo) (s : State) : Out :=
  let x := s.me.rgt a
  .next (s.exposed (.spawn d a p) (fun s => s.spawnOk x) (fun s =>
    let r := s.release s.act.core s.act.ctx 2
    if !r.2 then .later r.1
    else
      let record := match r.1.me.snapCmd with
        | some x => x.2
        | none => []
      let s := r.1.onMe (fun c => { c with snapCmd := none })
      let parent := launchOfHandle s.me.handle
      match s.poolEntry parent with
      | none => .done (s.result [.g d.toNat { val := 0xFFFFFFFF, tag := false }, .p p.toNat false])
      | some (k, reserved) =>
        let queue := match mfind s.launch.live parent with
          | some l => l.queue
          | none => 0
        let e : PoolEntry := { queue := queue, parent := parent, record := record, reserved := reserved
                               order := s.launch.nextOrder }
        let drop (l : Launch) : Launch := if reserved then { l with reserve := l.reserve - 1 } else l
        let live := match mfind s.launch.live parent with
          | some l => mset s.launch.live parent (drop l)
          | none => s.launch.live
        let s := { s with launch := { s.launch with
          pool := mset s.launch.pool k e, nextOrder := s.launch.nextOrder + 1, live := live } }
        .done (s.result [.g d.toNat { val := BitVec.ofNat 64 k, tag := false }, .p p.toNat true])))

-- reply (R209)

/-- A reply of a thread is on its way to the escape operator of its ticket, under the launch of the ticket's payload (R209,
R301). -/
def State.sendReply (s : State) (c : Context) (site ticket : Nat) (words : List Word) (cause : Nat) : State :=
  let r : EscReply := { handle := c.handle, evq := c.sr 0x063, launch := c.ticketLaunch, site := site
                        ticket := ticket, words := words, cause := cause }
  { s with fabric := { s.fabric with replies := s.fabric.replies ++ [r] } }

/-- reply (R209). -/
def execReply (d : RegNo) (n1 : BitVec 3) (s : State) : Out :=
  let words := s.me.payload d n1
  .next (s.exposed (.reply d n1)
    (fun s =>
      let tk := s.me.sr 0x00F
      if !s.escBit s.act.core s.act.ctx then .fault s Cause.replyNoesc tk 0
      else match s.me.ticket with
        | none => .fault s Cause.replyNoesc tk 0
        | some (_, _, true) => .fault s Cause.replyTwice tk 0
        | some (_, _, false) => s.noEscape s.party (.scope 2) tk words)
    (fun s =>
      let r := s.release s.act.core s.act.ctx 2
      if !r.2 then .later r.1
      else match r.1.me.ticket with
        | none => .done r.1
        | some (site, ticket, _) =>
          let s := r.1.sendReply r.1.me site ticket (words.map (·.val)) 0
          .done (s.onMe (fun c => { c with ticket := some (site, ticket, true) }))))

-- exit (R210)

/-- A thread leaves every set of its table, in entry order; a leave that meets a state fault posts a record (R210). -/
def State.leaveAll (s : State) (core ctx : Nat) : State :=
  (s.ctxOf core ctx).sets.foldl (fun s e =>
    let p := s.partyOf core ctx
    let va : Word := BitVec.ofNat 64 e.2.record
    let note (s : State) (cause : Nat) (tval2 : Word) : State :=
      let c := s.ctxOf core ctx
      s.postFault { cause := cause, sev := 3, src := 0, handle := c.handle, launch := some (launchOfHandle c.handle)
                    loc := core, tval := va, tval2 := tval2, aux := c.sr 0x042 }
    match s.translate p.ptb p.asid p.super .both va with
    | .error k => note s (memCause k .atomic) 0
    | .ok l =>
      let r := s.readRec core ctx l.pa
      if r.2.bad ∨ r.2.joined = 0 then note r.1 Cause.setRecord r.2.w0
      else r.1.leaveSet core ctx e.1 e.2 l.pa r.2) s

/-- The context is freed: its rings and held pushes are gone, what is left of discarded blocks in the vector queue is dropped
(R241), and the handle is dead (R210). -/
def State.freeThread (s : State) (core ctx : Nat) : State :=
  let h := (s.ctxOf core ctx).handle
  let l := launchOfHandle h
  let live := match mfind s.launch.live l with
    | some x => mset s.launch.live l { x with retired := x.retired + 1 }
    | none => s.launch.live
  let s := { s with launch := { s.launch with threads := mdel s.launch.threads h, live := live } }
  s.onCore core (fun c => { (if (s.escBit core ctx) then c else c.freeBarrel ctx) with
                              ctxs := mdel c.ctxs ctx, vuq := c.vuq.filter (fun e => e.ctx != ctx) })

/-- Steps 3 to 5 of exit (R210): no command and no walk of the thread is left, and a release at SYSTEM; a record that its exit has
posted is written first (R410). -/
def State.tryRetire (s : State) (core ctx : Nat) : Option State :=
  let h := (s.ctxOf core ctx).handle
  if s.commandsOf h || s.walksOf h 1 != 0 || s.posterHeld (fun r => r.src == 0 && r.handle == h) then none
  else
    let r := s.release core ctx 3
    if r.2 then some (r.1.freeThread core ctx) else none

/-- Steps 1 and 2 of exit, and the beginning of step 3, with the cause of a POISON reply (R210, R412). -/
def State.retire (s : State) (core ctx cause : Nat) : State :=
  let s := s.leaveAll core ctx
  let c := s.ctxOf core ctx
  let s := match c.ticket with
    | some (site, ticket, false) => s.sendReply c site ticket [] cause
    | _ => s
  let s := s.onCtx core ctx (fun c => { c with phase := .wait .exit, ticket := none })
  (s.tryRetire core ctx).getD s

/-- exit (R210). -/
def execExit (s : State) : Out :=
  .next (s.exposed .exit noChecks (fun s => .done (s.retire s.act.core s.act.ctx Cause.replyNone)))

-- State registers (R211, R212)

/-- srd (R211): s.fcsr with the flags of the block so far; counters at their current value; others committed. -/
def execSrd (d : RegNo) (num : BitVec 10) (s : State) : Out :=
  let n := num.toNat
  if !srAssigned n then .next (s.trapInstr Cause.sregUndef)
  else if !(s.me.super || srReadU n) then .next (s.trapInstr Cause.sregAccess)
  else .next (s.shortG d (if n = 0x023 then s.me.view.fcsr else s.srRead s.act.core s.act.ctx n))

/-- The highest privilege level of the acting core: S on a Markhor core, M on a control core (R30, R31). -/
def State.topLevel (s : State) : Nat := if s.assayer s.act.core then 2 else 1

/-- The checks of swr before the commit point (R31, R36, R37, R212). -/
def State.swrOk (s : State) (n : Nat) (v : Word) : Chk Unit :=
  let w := s.me.curWord
  if !srAssigned n then .fault s Cause.sregUndef w 0
  else if !(if s.me.super then srWriteS n else srWriteU n) then .fault s Cause.sregAccess w 0
  else if n = 0x020 ∧ s.me.super = true ∧ s.topLevel < v.toNat % 4 then .fault s Cause.priv w 0
  else if s.srRefuses s.act.core n v then .fault s Cause.sregValue w 0
  else .ok s ()

/-- swr (R212). -/
def execSwr (num : BitVec 10) (a : RegNo) (s : State) : Out :=
  let v := s.me.rg a
  .next (s.exposed (.swr num a) (fun s => s.swrOk num.toNat v)
    (fun s => .done (s.srWrite s.act.core s.act.ctx num.toNat v s.me.super)))

-- trap, eret (R213, R214)

/-- trap (R213): the block commits, then the handler is entered; a gang stays coupled as long as its members go on at one
address (R192). -/
def execTrap (code : BitVec 12) (s : State) : Out :=
  let pos := s.me.cur
  .next (s.exposed (.trap code) noChecks (fun s =>
    let gang := s.me.gang
    .done ((s.takeTrap s.act.core s.act.ctx
      { cause := Cause.trapCode, tblk := s.me.addr, tidx := pos, tval := code.setWidth 64, tval2 := 0 }).onMe (fun c => { c with gang := gang }))))

/-- A privileged instruction traps with PRIV at U (R31). -/
def State.privOk (s : State) : Chk Unit := if s.me.super then .ok s () else .fault s Cause.priv s.me.curWord 0

/-- eret (R214). -/
def execEret (s : State) : Out :=
  .next (s.exposed .eret
    (fun s => s.privOk.andThen (fun s _ =>
      if s.topLevel < (s.me.sr 0x046).toNat % 4 then .fault s Cause.priv s.me.curWord 0 else .ok s ()))
    (fun s => .done (s.onMe Context.trapReturn)))

-- repart (R215)

/-- The registers that a mode change keeps: g0–g31 and v0–v7 with their tags, and every predicate and mask. -/
def Regs.lower (r : Regs) : Regs :=
  { r with g := r.g.filter (fun e => decide (e.1 < 32)), v := r.v.filter (fun e => decide (e.1 < 8)) }

/-- The core is not quiescent for repart (R215). -/
def State.repartBusy (s : State) (core ctx : Nat) : Bool :=
  let c := s.core core
  c.ctxs.any (fun k => k.1 != ctx && k.2.live) || !c.vuq.isEmpty || !c.copq.isEmpty || !c.sendbuf.isEmpty

/-- The issuer continues as context 0 of the other mode (R215); its slot's assignment and its writes on their way go with
it. -/
def State.repartTo (s : State) (core ctx : Nat) (mode : Bool) : State :=
  let x := s.ctxOf core ctx
  let y : Context := { x with arch := x.arch.lower, work := x.arch.lower, snap := none }
  let s := s.onCore core (fun c =>
    { c with ctxs := [(0, y)], pmode := mode, escres := min c.escres (if mode then 16 else 8), lastCtx := 0
             slots := [(0, mget {} c.slots ctx)]
             wq := c.wq.map (fun (f : Flight) => if f.ctx = ctx then { f with ctx := 0 } else f) })
  let threads := match mfind s.launch.threads x.handle with
    | some t => mset s.launch.threads x.handle { t with place := some (core, 0), pmode := mode }
    | none => s.launch.threads
  { s with launch := { s.launch with threads := threads }, act := { s.act with ctx := 0 } }

/-- repart (R215). -/
def execRepart (mode : Bool) (s : State) : Out :=
  .next (s.exposed (.repart mode)
    (fun s => s.privOk.andThen (fun s _ =>
      if s.repartBusy s.act.core s.act.ctx then .fault s Cause.repartBusy s.me.curWord 0 else .ok s ()))
    (fun s => if s.myCore.pmode = mode then .done s else .done (s.repartTo s.act.core s.act.ctx mode)))

-- tlbinv (R216)

/-- Every context's writes on their way are pushed to DEVICE scope: accesses that used a dropped entry are performed
(R216). -/
def State.pushAll (s : State) : State :=
  s.cores.foldl (fun s c => ((c.2.wq.map (·.ctx)).dedup).foldl (fun s k => (s.release c.1 k 2).1) s) s

/-- A translated access that a dropped entry of an address space may have served is in flight outside the ports (R216): a buffered
store or a checked access of another context, a store that a sequencer holds, or an object that a walk holds. A global leaf
serves every address space (R365). -/
def State.inFlight (s : State) (here : Nat → Bool) : Bool :=
  s.cores.any (fun c => c.2.ctxs.any (fun k => (k.2.live && !(c.1 == s.act.core && k.1 == s.act.ctx)) &&
    (k.2.stores.any (fun st => st.glob || here st.asid) || (match k.2.acc with
      | some a => a.entry.getLsbD 6 || here (k.2.sr 0x061).toNat
      | none => false)))) ||
  s.fabric.sites.any (fun x => x.2.seq.held.any (fun st => st.glob || here (match mfind s.launch.live (x.2.launch.getD 0) with
    | some l => (mget {} s.launch.queues l.queue).asid.toNat
    | none => 0))) ||
  s.herds.any (fun h => h.2.walks.any (fun w => w.held.isSome))

/-- tlbinv (R216): a release at DEVICE scope, the matching entries dropped, and a wait for accesses in flight. -/
def State.tlbInvalidate (s : State) (i : Instr) (f : TlbEntry → Bool) (g : Nat → Bool) : State :=
  s.exposed i State.privOk (fun s =>
    let r := s.release s.act.core s.act.ctx 2
    if !r.2 then .later r.1
    else
      let s := { r.1 with mem := { r.1.mem with tlb := r.1.mem.tlb.filter (fun t => !f t)
                                                micro := r.1.mem.micro.map (fun (e : Nat × List TlbEntry) => (e.1, e.2.filter (fun t => !f t)))
                                                tlbWalks := r.1.mem.tlbWalks.filter (fun t => !g t.asid) } }
      let s := s.pushAll
      if s.cores.any (fun c => c.2.wq.any (fun f => f.devPending)) || s.inFlight g then .later s else .done s)

/-- tlbinv.page (R216). -/
def execTlbinvPage (a b : RegNo) (s : State) : Out :=
  let va := (s.me.rg a).toNat % 2 ^ 57
  let asid := (s.me.rg b).toNat % 65536
  .next (s.tlbInvalidate (.tlbinvPage a b) (fun t => t.hit asid va) (fun a => a == asid))
/-- tlbinv.asid (R216). -/
def execTlbinvAsid (b : RegNo) (s : State) : Out :=
  let asid := (s.me.rg b).toNat % 65536
  .next (s.tlbInvalidate (.tlbinvAsid b) (fun t => t.asid == asid) (fun a => a == asid))
/-- tlbinv.all (R216). -/
def execTlbinvAll (s : State) : Out := .next (s.tlbInvalidate .tlbinvAll (fun _ => true) (fun _ => true))

-- retag (R217)

/-- retag (R217). -/
def execRetag (d a : RegNo) (s : State) : Out :=
  let x := s.me.rg a
  .next (s.exposed (.retag d a)
    (fun s => s.privOk.andThen (fun s _ =>
      if !canonical x then .fault s (memCause .notMapped .load) x 0
      else if x.toNat % 8 ≠ 0 then .fault s (memCause .align .load) x 0
      else match s.readHeader s.party x .load with
        | .wait => .wait
        | .fault s c _ _ => .fault s c x 0
        | .ok s h =>
          if admits h.1 s.act.core s.act.ctx true (mfind s.mem.marks h.2).isSome = .badTag then
            .fault s (memCause .tag .load) x 0
          else .ok s ()))
    (fun s => .done (s.result [.g d.toNat { val := x, tag := true }])))

end Sys2Proof.Machine
end

