-- ==== Sys2Proof/Machine/Engines.lean ====
section
/-!
DEFINITION. The copy engine and the collective engine (R242..R263, R415): checks of a command, the coprocessor queue,
boxes, the fix-up list, completion, and exchanges.
-/

namespace Sys2Proof.Machine

-- Descriptors (R250..R254, R260, R262)

/-- A descriptor word as a number. -/
def wordN (ws : List Word) (k : Nat) : Nat := (ws.getD k 0).toNat
/-- Word k of a command's descriptor. -/
def Command.w (c : Command) (k : Nat) : Nat := wordN c.descA k

/-- Bytes of an element of the codes that a cpy takes (R252). -/
def copyBytes (code : Nat) : Option Nat :=
  match code with
  | 0x00 => some 4
  | 0x01 => some 2
  | 0x02 => some 2
  | 0x03 => some 1
  | 0x04 => some 1
  | 0x08 => some 1
  | 0x09 => some 1
  | 0x0D => some 2
  | _ => none

/-- Destination bytes of a row of a cpy of rowb source bytes. -/
def copyRow (w0 rowb : Nat) : Nat :=
  let a := (copyBytes (field w0 8 4)).getD 1
  let b := (copyBytes (field w0 13 9)).getD 1
  if field w0 8 4 = field w0 13 9 then rowb else rowb / a * b

/-- The byte offset of the first offending word of a cpy descriptor (R250..R252). -/
def cpyError (ws : List Word) : Option Nat :=
  let w0 := wordN ws 0
  let sf := field w0 8 4
  let df := field w0 13 9
  let rnd := field w0 15 14
  let sat := w0.testBit 16
  let ftz := w0.testBit 17
  let rowb := wordN ws 3
  let rows := wordN ws 4
  if w0 % 16 ≠ 1 ∨ 2 ^ 18 ≤ w0 ∨ rnd = 3 ∨ copyBytes sf = none ∨ copyBytes df = none then some 0
  else if sf = df ∧ (rnd ≠ 0 ∨ sat = true ∨ ftz = true) then some 0
  else if sf ≠ df ∧ sat = true ∧ df ≠ 0x03 then some 0
  else if rowb = 0 ∨ 2 ^ 32 < rowb ∨ (sf ≠ df ∧ rowb % (copyBytes sf).getD 1 ≠ 0) then some 24
  else if 1 ≤ rows ∧ rows ≤ 2 ^ 24 ∧ 2 ^ 40 < copyRow w0 rowb * rows then some 24
  else if rows = 0 ∨ 2 ^ 24 < rows then some 32
  else if wordN ws 7 ≠ 0 then some 56
  else none

/-- The byte offset of the first offending word of a gath or scat descriptor (R254, R260). -/
def gathError (kind : Nat) (own : Bool) (ws : List Word) : Option Nat :=
  let w3 := wordN ws 3
  let n := w3 % 2 ^ 25
  let iw := if w3.testBit 32 then 8 else 4
  if wordN ws 0 ≠ kind then some 0
  else if wordN ws 2 % iw ≠ 0 then some 16
  else if n = 0 ∨ 2 ^ 24 < n ∨ w3 ≠ n + 2 ^ 32 * b2n (w3.testBit 32) then some 24
  else if own then
    (if wordN ws 4 ≠ 0 then some 32
     else if wordN ws 5 % 64 ≠ 0 then some 40
     else if wordN ws 7 ≠ 0 then some 56 else none)
  else if wordN ws 4 % 8 ≠ 0 ∨ wordN ws 4 < 8 ∨ 65536 < wordN ws 4 then some 32
  else if wordN ws 5 = 0 ∨ 2 ^ 40 < wordN ws 5 then some 40
  else if wordN ws 7 ≠ 0 then some 56
  else none

/-- The byte offset of the first offending word of an xchg descriptor on device me (R262). -/
def xchgError (me : Nat) (ws : List Word) : Option Nat :=
  let esize := field (wordN ws 3) 47 16
  let cap := wordN ws 5
  if wordN ws 0 ≠ 4 then some 0
  else if wordN ws 2 % 64 ≠ 0 then some 16
  else if 2 ^ 48 ≤ wordN ws 3 ∨ esize % 8 ≠ 0 ∨ esize < 8 ∨ 65536 < esize then some 24
  else if (wordN ws 4).testBit me = false then some 32
  else if cap = 0 ∨ 2 ^ 24 < cap then some 40
  else if wordN ws 6 ≠ 0 then some 48
  else if wordN ws 7 ≠ 0 then some 56
  else none

/-- This device's id in its group. -/
def State.deviceId (s : State) : Nat := (s.creg 0x7900).toNat % 64

/-- The descriptor check of an engine command (R243 order 3). -/
def State.descError (s : State) (major fn : Nat) (ws : List Word) : Option Nat :=
  match major with
  | 0x20 => cpyError ws
  | 0x21 => gathError 2 (fn.testBit 0) ws
  | 0x22 => gathError 3 false ws
  | _ => xchgError s.deviceId ws

-- Issue (R243, R244)

/-- The access to a descriptor or message. -/
def descReq (x : Tagged) : AccessReq := { loadReq x x.val 64 with align := 64 }

/-- The checks of R243 in order; more makes order 4 for an mxc. A fault of order 1 or 2 names gA and gB. -/
def State.engineChecks (s : State) (x : Tagged) (gb : Word) (err : State → List Word → Option Nat)
    (more : State → List Word → Chk Unit) (dest : Dest) : Chk Unit :=
  match s.checkAccess s.party (descReq x) with
  | .wait => .wait
  | .fault s c _ _ => .fault s c x.val gb
  | .ok s a =>
    if gb ≠ 0 ∧ gb ≠ 1 ∧ gb.toNat % 64 ≠ 0 then .fault s Cause.engHandle x.val gb
    else if 64 ≤ gb.toNat ∧ (s.me.entryOf gb.toNat).isNone = true then .fault s Cause.setNotmember x.val gb
    else
      let r := s.readWords s.act.core s.act.ctx a.entry a.herdObj (wordsOf a.pa 64)
      let ws := r.2
      let s := r.1
      match err s (ws.map (·.val)) with
      | some off => .fault s Cause.engDesc x.val (BitVec.ofNat 64 off)
      | none => (more s (ws.map (·.val))).andThen (fun s _ => s.escapeAll s.party dest x.val ws)

-- Ownership and pend (R177, R189, R244, R245)

/-- An address that may lie below zero or above 2^64, as 57 bits of it name it. -/
def addrOf (x : Int) : Nat := (BitVec.ofInt 64 x).toNat
/-- A signed pitch. -/
def pitchOf (w : Nat) : Int := signedOf 64 w

/-- The destination of a row of a cpy. -/
def Command.cpyDst (c : Command) (r : Nat) : Nat := addrOf (c.w 2 + r * pitchOf (c.w 6))
/-- The source of a row of a cpy. -/
def Command.cpySrc (c : Command) (r : Nat) : Nat := addrOf (c.w 1 + r * pitchOf (c.w 5))

/-- The command is a gath.own. -/
def Command.own (c : Command) : Bool := c.major == 0x21 && c.fn.testBit 0
/-- The command is a scat.add. -/
def Command.adds (c : Command) : Bool := c.major == 0x22 && c.fn.testBit 0
/-- Rows of a cpy, gath or scat. -/
def Command.rows (c : Command) : Nat := if c.major = 0x20 then c.w 4 else c.w 3 % 2 ^ 25
/-- Bytes of a row of the numbered bytes (R247). For gath.own the table descriptor's rowb. -/
def Command.rowBytes (c : Command) : Nat :=
  if c.major = 0x20 then copyRow (c.w 0) (c.w 3) else if c.own then c.aux.getD 1 0 else c.w 4
/-- The numbered bytes of a command (R247). -/
def Command.total (c : Command) : Nat := c.rows * c.rowBytes
/-- Rows of the table. -/
def Command.nrows (c : Command) : Nat := if c.own then c.aux.getD 0 0 else c.w 5
/-- The origin of the command's faults (R249). -/
def Command.origin (c : Command) : Origin := if c.major = 0x21 ∨ c.major = 0x22 then .gatherScatter else .copyEngine
/-- A command as a party. -/
def Command.party (c : Command) : Party :=
  { ptb := c.ptb, asid := c.asid, super := c.super, core := c.core, ctx := c.ctx, isCtx := false, engine := true
    viaPort := decide (c.major < 0x23) }

/-- The command is a cpy that this one's thread gave before it and that has not completed. -/
def State.earlierCopy (s : State) (c : Command) (id : Nat) : Bool :=
  let it (x : Command) : Bool := x.id == id && x.handle == c.handle && x.major == 0x20 && decide (id < c.id)
  s.cores.any (fun k => (k.2.engine.toList ++ k.2.copq).any it) || s.launch.threads.any (fun t => t.2.cmds.any it)

/-- The ranges that hold an access of a command: those of the commands performed before it (R350). An MM reads the destination of
an earlier cpy of its own context as it stands, or behind that cpy: the device chooses (R273). -/
def State.holding (s : State) (c : Command) (need : Need) (va : Nat) : List (Nat × Nat × Nat × Nat) :=
  let free := c.major == 0x24 && c.w 1 % 16 == 2 && need == .read && Config.chooseBit s.tick va
  s.mem.owned.filter (fun o => !(free && s.earlierCopy c o.2.2.2))

/-- The fault of a tile that cannot be corrected (R110, R414): for a cpy one of kind POISON at the span's address (R253). -/
def State.tileFault {α : Type} (s : State) (c : Command) (va : Word) (t : Nat) : Chk α :=
  if c.major = 0x20 then .fault s (memCause .poison c.origin) va 0
  else .fault s Cause.hallmarkUncorrectable (BitVec.ofNat 64 (1024 * t)) 0

/-- The outcome of the checks of an engine's span, with the tiles that it reads whole checked whole (R111). -/
def State.engTiles (c : Command) (need : Need) (va : Nat) : Chk (List (Nat × Nat)) → Chk (List (Nat × Nat))
  | .ok s ps =>
    let whole := if need = .read then (ps.filter (fun p => p.1 % 1024 == 0 && p.2 == 1024 && s.inTile p.1)).map (·.1 / 1024) else []
    let r := whole.foldl (fun (r : State × Option Nat) t =>
      let q := r.1.checkTile t
      (q.1, if q.2 then r.2 else some (r.2.getD t))) (s, none)
    match r.2 with
    | none => .ok r.1 ps
    | some t => r.1.tileFault c (BitVec.ofNat 64 va) t
  | .fault s cause a b =>
    if cause = Cause.hallmarkUncorrectable then
      s.tileFault c a (match s.leafFor c.ptb c.asid c.super .read a with
        | .ok l => l.pa / 1024
        | .error _ => 0)
    else .fault s cause a b
  | .wait => .wait

/-- An engine's check of a span, behind the ranges that hold it. -/
def State.engCheck (s : State) (c : Command) (need : Need) (va n : Nat) : Chk (List (Nat × Nat)) :=
  let owned := s.mem.owned
  match State.engTiles c need va ((s.withOwned (s.holding c need va)).agentCheck c.party need c.origin c.id va n) with
  | .ok s ps => .ok (s.withOwned owned) ps
  | .fault s cause a b => .fault (s.withOwned owned) cause a b
  | .wait => .wait

/-- Bytes that an engine reads: through the issuing core's port (R349), or at the coherence points for an exchange. -/
def State.engRead (s : State) (c : Command) (va n : Nat) : Chk (List Byte) :=
  (s.engCheck c .read va n).andThen (fun s ps =>
    .ok s (if c.major < 0x23 then s.issuerBytes c.core c.ctx ps else s.homeBytes ps))

/-- Bytes that an engine writes; a tile written whole takes the hallmark of its data (R253). -/
def State.engWrite (s : State) (c : Command) (va : Nat) (bs : List Byte) : Chk Unit :=
  (s.engCheck c .write va bs.length).andThen (fun s ps =>
    let s := s.engineBytes ps bs
    let whole := (ps.filter (fun p => p.1 % 1024 == 0 && p.2 == 1024)).map (fun p => p.1 / 1024)
    .ok { s with mem := { s.mem with hallmarks := whole.foldl mdel s.mem.hallmarks } } ())

/-- Index i of a gath or scat. -/
def State.indexAt (s : State) (c : Command) (i : Nat) : Chk Nat :=
  let iw := if (c.w 3).testBit 32 then 8 else 4
  (s.engRead c (c.w 2 + iw * i) iw).andThen (fun s bs => .ok s (valueLE bs))

/-- The indices of a command from i on, n of them. -/
def State.indicesFrom (s : State) (c : Command) (i : Nat) : Nat → Chk (List Nat)
  | 0 => .ok s []
  | n + 1 => (s.indexAt c i).andThen (fun s x => (s.indicesFrom c (i + 1) n).andThen (fun s xs => .ok s (x :: xs)))

/-- The destination spans of a command (R177): address and length. For a DRAIN, whose shape is known only when it settles, the
largest that a bank gives: 64 rows of 128 cells; for a gath.own whose table has not been sampled yet, rows of the largest size. -/
def State.destSpans (s : State) (c : Command) : List (Nat × Nat) :=
  match c.major with
  | 0x20 =>
    if pitchOf (c.w 6) = c.rowBytes then [(c.w 2, c.total)]
    else (List.range c.rows).map (fun r => (c.cpyDst r, c.rowBytes))
  | 0x21 => (c.w 6, if c.own && c.aux.isEmpty then 65536 * c.rows else c.total) :: (if c.own then [(c.w 5, 512 + 12 * c.rows)] else [])
  | 0x22 =>
    match s.indicesFrom c 0 c.rows with
    | .ok _ xs => (xs.filter (fun x => decide (x < c.nrows))).map (fun x => (c.w 1 + x * c.rowBytes, c.rowBytes))
    | _ => [(c.w 1, c.nrows * c.rowBytes)]
  | 0x23 => [(c.w 2, 512 + 64 * (c.w 5 % 2 ^ 25) * field (c.w 3) 47 16)]
  | _ =>
    if c.w 1 % 16 = 3 then (List.range 64).map (fun i => (addrOf (c.w 4 + i * pitchOf (c.w 5)), 512)) else []

/-- Ownership of the destination is taken (R177, R244), in place of what the command owned before: micro-TLBs drop the entries of
its pages. -/
def State.takeOwned (s : State) (c : Command) : State :=
  let spans := (s.destSpans c).map (fun d => (c.asid, d.1 % 2 ^ 57, d.2, c.id))
  let s := s.withOwned (s.mem.owned.filter (fun o => o.2.2.2 != c.id) ++ spans)
  { s with mem := { s.mem with
    micro := s.mem.micro.map (fun (e : Nat × List TlbEntry) => (e.1, e.2.filter (fun t => !spans.any t.inOwned))) } }

/-- A range without the bytes from va on, n of them. -/
def cutOwned (id va n : Nat) (o : Nat × Nat × Nat × Nat) : List (Nat × Nat × Nat × Nat) :=
  if o.2.2.2 ≠ id ∨ o.2.1 + o.2.2.1 ≤ va ∨ va + n ≤ o.2.1 then [o]
  else
    (if o.2.1 < va then [(o.1, o.2.1, va - o.2.1, id)] else []) ++
    (if va + n < o.2.1 + o.2.2.1 then [(o.1, va + n, o.2.1 + o.2.2.1 - (va + n), id)] else [])

/-- Accesses to bytes that a command has written wait no longer (R177). -/
def State.freeOwned (s : State) (id va n : Nat) : State :=
  s.withOwned ((s.mem.owned.map (cutOwned id (va % 2 ^ 57) n)).flatten)

/-- pend of a set changes (R189), with the completion test of R188; a unit that waited for it is freed (R186). -/
def State.changePend (s : State) (core ctx pa : Nat) (f : Nat → Nat) : State :=
  let q := s.readRec core ctx pa
  let t := q.1.testRec pa { q.2 with pend := f q.2.pend }
  let s := t.1.writeRec core ctx pa t.2
  if t.2.bound && t.2.pend == 0 && ((s.herd t.2.herd).unit t.2.unit).draining then s.onUnit t.2.herd t.2.unit (fun _ => {})
  else s

/-- The command's completion handle names a set (R245). -/
def Command.usesSet (c : Command) : Bool := decide (64 ≤ c.done.toNat)
/-- The physical address of the set record that a command's handle names, as its page maps it now (R375). -/
def State.setOf (s : State) (c : Command) : Option Nat :=
  if c.usesSet then (s.translate c.ptb c.asid c.super .both c.done).toOption.map (·.pa) else none
/-- The page of the command's set record migrates: pend is changed behind the move (R375). -/
def State.setMoves (s : State) (c : Command) : Bool :=
  c.usesSet && (match s.translate c.ptb c.asid c.super .both c.done with
    | .error .tier => true
    | _ => false)

/-- n of a command's bytes have landed. While the set's page migrates they stay in pend, until the command completes at the
latest. -/
def State.lowerPend (s : State) (c : Command) (n : Nat) : State × Command :=
  let k := min n c.pend
  if s.setMoves c then (s, c)
  else match s.setOf c with
  | some pa => (if k = 0 then s else s.changePend c.core c.ctx pa (fun p => p - k), { c with pend := c.pend - k })
  | none => (s, { c with pend := c.pend - k })

/-- The byte count of a command (R245), known when it is performed. For xchg, the most that its receive area takes. -/
def Command.byteCount (c : Command) : Nat :=
  match c.major with
  | 0x23 =>
    let n := popCount 64 (c.w 4)
    8 * n + n * (c.w 5 % 2 ^ 25) * field (c.w 3) 47 16
  | 0x24 => if c.w 1 % 16 = 1 then c.w 4 else 1
  | _ => c.total

/-- pend rises to n bytes for a command (R245). -/
def State.raisePend (s : State) (c : Command) (n : Nat) : State × Command :=
  match s.setOf c with
  | some pa => (s.changePend c.core c.ctx pa (fun p => p + n - c.pend), { c with pend := n })
  | none => (s, { c with pend := n })

/-- pend and ownership are taken for a command that is performed (R244, R245). -/
def State.charge (s : State) (c : Command) : State × Command := (s.takeOwned c).raisePend c c.byteCount

-- The embedding-table snapshot (R258..R260)

/-- The fields of the table descriptor and of the current version record: nrows, rowb, dev0, nown, rows per owner,
replica map, shard base. Empty when the descriptor breaks a rule of R258. DESIGN CHOICE (log entry 67): reserved bits that are
set, and nrows, rowb or nown out of range, break one too. -/
def tableFields (b : List Nat) (cur : List Nat) : List Nat :=
  let nrows := b.getD 1 0
  let rowb := b.getD 2 0
  let dev0 := b.getD 3 0 % 64
  let nown := field (b.getD 3 0) 12 6
  let rpo := b.getD 4 0
  if 64 < dev0 + nown ∨ nown * rpo < nrows ∨ nown = 0 ∨ 2 ^ 13 ≤ b.getD 3 0 ∨ nrows = 0 ∨ 2 ^ 40 < nrows ∨
      rowb % 8 ≠ 0 ∨ rowb < 8 ∨ 65536 < rowb then []
  else [nrows, rowb, dev0, nown, rpo, cur.getD 2 0, cur.getD 1 0]

/-- A gath.own samples its table descriptor and the current version record, once (R260); a descriptor that breaks a rule
ends the command with ENG_DESC. -/
def State.sample (s : State) (c : Command) : Chk Command :=
  if !c.own || !c.aux.isEmpty || c.status != 0 then .ok s c
  else
    (s.engRead c (c.w 1 + 8) 40).andThen (fun s bs =>
      let b := elemsOf 64 5 (valueLE bs)
      (s.engRead c (b.getD 0 0) 32).andThen (fun s vs =>
        let a := tableFields b (elemsOf 64 4 (valueLE vs))
        if a.isEmpty then .ok s { c with status := Cause.engDesc }
        else
          let c := { c with aux := a }
          let c := { c with boxes := ceilDiv c.total 4096 }
          let r := s.charge c
          .ok r.1 r.2))

-- Segments (R247, R249)

/-- A span of numbered bytes cut at row ends: position and length. -/
def cutRows (wr : Nat) : Nat → Nat → Nat → List (Nat × Nat)
  | 0, _, _ => []
  | f + 1, pos, stop =>
    if stop ≤ pos then []
    else
      let e := min stop ((pos / wr + 1) * wr)
      (pos, e - pos) :: cutRows wr f e stop

/-- The first numbered byte after box k. -/
def Command.boxEnd (c : Command) (k : Nat) : Nat := min c.total (4096 * (k + 1))
/-- The segments of box k: its bytes cut at row ends. -/
def Command.boxSegs (c : Command) (k : Nat) : List (Nat × Nat) := cutRows (max 1 c.rowBytes) 4097 (4096 * k) (c.boxEnd k)

/-- The rounding of a converting copy (R250, R252). -/
def State.cpyEnv (s : State) (c : Command) (e : Nat) : FEnv :=
  { rm := field (c.w 0) 15 14, ftz := (c.w 0).testBit 17, sat := (c.w 0).testBit 16, draw := (Config.srDraw s.tick e).toNat }

/-- A segment of a cpy (R251, R252). -/
def State.cpySeg (s : State) (c : Command) (pos len : Nat) : Chk Command :=
  let r := pos / c.rowBytes
  let col := pos % c.rowBytes
  let sf := field (c.w 0) 8 4
  let df := field (c.w 0) 13 9
  let dst := c.cpyDst r + col
  if sf = df then
    (s.engRead c (c.cpySrc r + col) len).andThen (fun s bs => (s.engWrite c dst bs).andThen (fun s _ => .ok s c))
  else
    let ws := (copyBytes sf).getD 1
    let wd := (copyBytes df).getD 1
    (s.engRead c (c.cpySrc r + col / wd * ws) (len / wd * ws)).andThen (fun s bs =>
      let xs := elemsOf (8 * ws) (len / wd) (valueLE bs)
      let rs := xs.zipIdx.map (fun x => cvtLane (s.cpyEnv c (pos + x.2)) (laneOf false sf) (laneOf false df) x.1)
      let out := (rs.map (fun r => bytesLE wd r.bits)).flatten
      (s.engWrite c dst out).andThen (fun s _ => .ok s { c with cflags := c.cflags ||| resFlags rs }))

/-- Where a gather finds row x: nothing for an index out of range, an address, or another device (R255, R260). -/
inductive RowAt where
  | zero
  | addr (va : Nat)
  | remote (owner row : Nat)
  deriving DecidableEq, Repr

/-- The source of index x (R255, R260). -/
def State.rowAt (s : State) (c : Command) (x : Nat) : Chk RowAt :=
  if c.nrows ≤ x then .ok s .zero
  else if !c.own then .ok s (.addr (c.w 1 + x * c.rowBytes))
  else
    let map := c.aux.getD 5 0
    let rpo := max 1 (c.aux.getD 4 0)
    let k := x / rpo
    let shard : RowAt :=
      if c.aux.getD 2 0 + k = s.deviceId then .addr (c.aux.getD 6 0 + (x - k * rpo) * c.rowBytes) else .remote k (x - k * rpo)
    if map = 0 then .ok s shard
    else (s.engRead c (map + 16 * (x % 4096)) 16).andThen (fun s bs =>
      let e := elemsOf 64 2 (valueLE bs)
      .ok s (if e.getD 0 0 = x ∧ x ≠ 2 ^ 64 - 1 then .addr (e.getD 1 0) else shard))

/-- A segment of a gath (R255, R260). -/
def State.gathSeg (s : State) (c : Command) (pos len : Nat) : Chk Command :=
  let i := pos / c.rowBytes
  let col := pos % c.rowBytes
  (s.indexAt c i).andThen (fun s x => (s.rowAt c x).andThen (fun s r =>
    match r with
    | .zero =>
      (s.engWrite c (c.w 6 + pos) (List.replicate len 0)).andThen (fun s _ => .ok s { c with oob := insertNum c.oob i })
    | .addr va => (s.engRead c (va + col) len).andThen (fun s bs => (s.engWrite c (c.w 6 + pos) bs).andThen (fun s _ => .ok s c))
    | .remote _ _ => .ok s c))

/-- The byte at a position has been written: its box is issued and no segment on the fix-up list holds it. -/
def Command.wrote (c : Command) (pos : Nat) : Bool :=
  c.issued.contains (pos / 4096) && !c.fix.any (fun f => decide (f.start ≤ pos) && decide (pos < f.start + f.len))

/-- A later row of a plain scat with the same index has written the 8 bytes at a column already (R256). -/
def State.overwritten (s : State) (c : Command) (i x col : Nat) : Bool :=
  ((List.range (c.rows - (i + 1))).map (fun d => i + 1 + d)).any (fun j =>
    c.wrote (j * c.rowBytes + col) && (match s.indexAt c j with
      | .ok _ y => y == x
      | _ => false))

/-- The 8-byte pieces of a row segment are written, but for those that a later row has written (R256). -/
def State.scatPieces (s : State) (c : Command) (i x col : Nat) : List Byte → Nat → Chk Unit
  | _, 0 => .ok s ()
  | bs, n + 1 =>
    if bs.isEmpty then .ok s ()
    else
      let rest (s : State) : Chk Unit := s.scatPieces c i x (col + 8) (bs.drop 8) n
      if s.overwritten c i x col then rest s
      else (s.engWrite c (c.w 1 + x * c.rowBytes + col) (bs.take 8)).andThen (fun s _ => rest s)

/-- A segment of a plain scat (R256): its whole target is checked before any of it is written. -/
def State.scatSeg (s : State) (c : Command) (pos len : Nat) : Chk Command :=
  let i := pos / c.rowBytes
  let col := pos % c.rowBytes
  (s.indexAt c i).andThen (fun s x =>
    if c.nrows ≤ x then .ok s { c with oob := insertNum c.oob i }
    else (s.engRead c (c.w 6 + pos) len).andThen (fun s bs =>
      (s.engCheck c .write (c.w 1 + x * c.rowBytes + col) len).andThen (fun s _ =>
        (s.scatPieces c i x col bs (len / 8 + 1)).andThen (fun s _ => .ok s c))))

/-- The sum of two FP32 codes, rounded to nearest (R166, R256). -/
def addFp32 (x y : Nat) : Nat := (fp32.fadd {} (fp32.read false x) (fp32.read false y)).bits

/-- The 4-byte elements of a row are added at the point of atomicity, in ascending order (R256). -/
def State.addElems (s : State) (c : Command) (va : Nat) : List Nat → Chk Unit
  | [] => .ok s ()
  | y :: ys =>
    (s.engCheck c .both va 4).andThen (fun s ps =>
      let pa := (ps.getD 0 (0, 0)).1
      let s := s.pushWord c.core (pa / 8)
      let s := s.flushWord c.core (pa / 8)
      if (s.portWord (pa / 8)).tag then .fault s (memCause .tag c.origin) (BitVec.ofNat 64 va) 0
      else
        let old := valueLE (s.homeBytes [(pa, 4)])
        (s.engineBytes [(pa, 4)] (bytesLE 4 (addFp32 old y))).addElems c (va + 4) ys)

/-- A segment of a scat.add (R256): the target's words are checked, tags among them, before the first addition. -/
def State.scatAddSeg (s : State) (c : Command) (pos len : Nat) : Chk Command :=
  let i := pos / c.rowBytes
  let col := pos % c.rowBytes
  (s.indexAt c i).andThen (fun s x =>
    if c.nrows ≤ x then .ok s { c with oob := insertNum c.oob i }
    else
      let va := c.w 1 + x * c.rowBytes + col
      (s.engRead c (c.w 6 + pos) len).andThen (fun s bs =>
        (s.engCheck c .both va len).andThen (fun s ps =>
          if ps.any (fun p => (wordsOf p.1 p.2).any (fun w => s.tagAt c.core c.ctx w)) then
            .fault s (memCause .tag c.origin) (BitVec.ofNat 64 va) 0
          else (s.addElems c va (elemsOf 32 (len / 4) (valueLE bs))).andThen (fun s _ => .ok s c))))

/-- Virtual address of the destination of a segment, when the segment has one that is known. -/
def State.segDest (s : State) (c : Command) (pos : Nat) : Option Nat :=
  match c.major with
  | 0x20 => some (c.cpyDst (pos / c.rowBytes) + pos % c.rowBytes)
  | 0x21 => some (c.w 6 + pos)
  | _ =>
    match s.indexAt c (pos / c.rowBytes) with
    | .ok _ x => if x < c.nrows then some (c.w 1 + x * c.rowBytes + pos % c.rowBytes) else none
    | _ => none

/-- One segment reads its source and writes its destination; accesses that waited for it go on (R177). -/
def State.segment (s : State) (c : Command) (pos len : Nat) : Chk Command :=
  let r : Chk Command := match c.major with
    | 0x20 => s.cpySeg c pos len
    | 0x21 => s.gathSeg c pos len
    | _ => if c.adds then s.scatAddSeg c pos len else s.scatSeg c pos len
  r.andThen (fun s c =>
    let again := c.major == 0x22 && ((List.range (c.rows - (pos / c.rowBytes + 1))).any (fun d =>
      match s.indexAt c (pos / c.rowBytes + 1 + d), s.indexAt c (pos / c.rowBytes) with
      | .ok _ x, .ok _ y => x == y
      | _, _ => true))
    match s.segDest c pos with
    | some va => .ok (if again then s else s.freeOwned c.id va len) c
    | none => .ok s c)

-- The bucket area of gath.own (R260)

/-- Positions of remote rows: owner, owner-local row, position. -/
def State.remoteRows (s : State) (c : Command) : List Nat → Chk (List (Nat × Nat × Nat))
  | [] => .ok s []
  | i :: is =>
    (s.indexAt c i).andThen (fun s x => (s.rowAt c x).andThen (fun s r => (s.remoteRows c is).andThen (fun s rest =>
      match r with
      | .remote k y => .ok s ((k, y, i) :: rest)
      | _ => .ok s rest)))

/-- The entries of an owner and of those below it. -/
def bucketWord (es : List (Nat × Nat × Nat)) (k : Nat) : Nat :=
  (es.filter (fun e => decide (e.1 < k))).length + 2 ^ 32 * (es.filter (fun e => e.1 == k)).length

/-- The bucket area is written: counts, rows and positions, grouped by owner (R260). -/
def State.bucketArea (s : State) (c : Command) : Chk Command :=
  (s.remoteRows c (List.range c.rows)).andThen (fun s es =>
    let sorted := ((List.range 64).map (fun k => es.filter (fun e => e.1 == k))).flatten
    let head := ((List.range 64).map (fun k => bytesLE 8 (bucketWord es k))).flatten
    let rows := (sorted.map (fun e => bytesLE 8 e.2.1)).flatten
    let poss := (sorted.map (fun e => bytesLE 4 e.2.2)).flatten
    (s.engWrite c (c.w 5) (head ++ rows)).andThen (fun s _ =>
      (s.engWrite c (c.w 5 + 512 + 8 * c.rows) poss).andThen (fun s _ => .ok s c)))

-- Boxes (R247), the fix-up list (R249, R415)

/-- The segments of box k that are not on the fix-up list. -/
def Command.todo (c : Command) (k : Nat) : List (Nat × Nat) :=
  (c.boxSegs k).filter (fun g => !c.fix.any (fun f => f.start == g.1))

/-- Segments in order. -/
def State.segments (s : State) (c : Command) : List (Nat × Nat) → Chk Command
  | [] => .ok s c
  | g :: gs => (s.segment c g.1 g.2).andThen (fun s c => s.segments c gs)

/-- The segments of a scat.add as far as they can be performed; what is done stays done (R256). -/
def State.addSegments (s : State) (c : Command) : List (Nat × Nat) → State × Command
  | [] => (s, c)
  | g :: gs =>
    if g.1 < c.prog then s.addSegments c gs
    else match s.segment c g.1 g.2 with
      | .ok s c => s.addSegments { c with prog := g.1 + g.2 } gs
      | _ => (s, c)

/-- Box k is complete when it is issued and none of its segments waits on the fix-up list (R247). -/
def State.settleBox (s : State) (c : Command) (k : Nat) : State × Command :=
  if c.issued.contains k && !c.landed.contains k && decide (k < c.boxes) &&
      !c.fix.any (fun f => f.start / 4096 == k) then
    s.lowerPend { c with landed := insertNum c.landed k } (c.boxEnd k - 4096 * k)
  else (s, c)

/-- The running command of a core's copy engine replaced. -/
def State.putEngine (s : State) (core : Nat) (c : Command) : State := s.onCore core (fun k => { k with engine := some c })

/-- The command may issue a box: one of the 32 from the first that is not complete (R247), for a scat.add the first that it has
not issued (R256), and none while a full fix-up list is to be replayed (R415). -/
def Command.issues (c : Command) (k : Nat) : Bool :=
  c.status == 0 && !c.stopped && !c.full && !c.issued.contains k && decide (k < c.base + 32) &&
  (decide (k < c.boxes) || (c.own && k == c.boxes)) && (!c.adds || (List.range k).all (fun j => c.issued.contains j))

/-- The work of one box: its segments, or the bucket area of a gath.own behind its last box. -/
def State.box (s : State) (c : Command) (k : Nat) : Chk Command :=
  (s.sample c).andThen (fun s c =>
    if c.status ≠ 0 then .ok s c
    else if k = c.boxes then s.bucketArea c
    else s.segments c (c.todo k))

/-- BOX_LAND of box k of the acting core's running command (R247): nothing happens while one of its segments faults and
is not on the fix-up list. -/
def execBoxLand (s : State) : Out :=
  let core := s.act.core
  let k := s.arg 0
  match (s.core core).engine with
  | none => .next s
  | some c =>
    if c.own && c.aux.isEmpty && c.status == 0 && !c.stopped then
      match s.sample c with
      | .ok s c => .next (s.putEngine core c)
      | _ => .next s
    else if !c.issues k then .next s
    else if c.adds then
      let r := s.addSegments { c with prog := max c.prog (4096 * k) } (c.todo k)
      let c := if c.boxEnd k ≤ r.2.prog then { r.2 with issued := insertNum r.2.issued k } else r.2
      let q := r.1.settleBox c k
      .next (q.1.putEngine core q.2)
    else match s.box c k with
      | .ok s c =>
        let q := s.settleBox { c with issued := insertNum c.issued k } k
        .next (q.1.putEngine core q.2)
      | _ => .next s

/-- A record is posted for a command, which waits for its resolution (R249). -/
def State.engineRecord (s : State) (c : Command) (src cause : Nat) (va : Word) : State × Command :=
  (s.postFault { cause := cause, sev := 1, src := src, handle := c.handle, launch := some (launchOfHandle c.handle)
                 loc := if src = 2 then 0 else c.core, tval := va, aux := c.descAddr, agent := .engine c.core c.id },
   { c with stopped := true })

/-- ENGINE_SEGMENT_FAULT for box k of the running command (R249, R415): its first segment that faults goes on the
fix-up list, and a 17th stops the issue of boxes until the list has been replayed; a fault of a scat.add or of an area's reads posts a record and the command waits. -/
def execEngineSegmentFault (s : State) : Out :=
  let core := s.act.core
  let k := s.arg 0
  match (s.core core).engine with
  | none => .next s
  | some c =>
    let record (s : State) (cause : Nat) (va : Word) : State :=
      let r := s.engineRecord c 1 cause va
      r.1.putEngine core r.2
    if c.own && c.aux.isEmpty && c.status == 0 && !c.stopped then
      match s.sample c with
      | .fault s cause va _ => .next (record s cause va)
      | _ => .next s
    else if !c.issues k then .next s
    else if k = c.boxes then
      match s.bucketArea c with
      | .fault s cause va _ => .next (record s cause va)
      | _ => .next s
    else
      let todo := (c.todo k).filter (fun g => !c.adds || decide (c.prog ≤ g.1))
      let first := if c.adds then todo.head? else todo.find? (fun g => match s.segment c g.1 g.2 with
        | .fault _ _ _ _ => true
        | _ => false)
      match first with
      | none => .next s
      | some g =>
        match s.segment c g.1 g.2 with
        | .fault s cause va _ =>
          if c.adds then .next (record s cause va)
          else if c.fix.length < 16 then
            .next (s.putEngine core { c with fix := c.fix ++ [{ start := g.1, len := g.2, cause := cause }] })
          else .next (s.putEngine core { c with full := true })
        | _ => .next s

/-- The fix-up entries in recorded order: each that lands leaves the list; one that faults again posts a record (R249). -/
def State.replayFix (s : State) (c : Command) : Nat → State × Command
  | 0 => (s, c)
  | n + 1 =>
    match c.fix with
    | [] => (s, c)
    | f :: fs =>
      match s.segment c f.start f.len with
      | .ok s c' =>
        let q := s.settleBox { c' with fix := fs } (f.start / 4096)
        q.1.replayFix q.2 n
      | .fault s cause va _ => s.engineRecord { c with fix := { f with retried := true, cause := cause } :: fs } 1 cause va
      | .wait => (s, c)

/-- Every box of a command has been issued. -/
def Command.allIssued (c : Command) : Bool := (List.range (c.boxes + b2n c.own)).all (fun k => c.issued.contains k)

/-- No further box of the command may be issued: all are, or those from the first that is not complete on (R247), or a full
fix-up list is to be replayed (R415). -/
def Command.noBox (c : Command) : Bool :=
  (List.range (min 33 (c.boxes + b2n c.own - c.base))).all (fun i => !c.issues (c.base + i))

/-- FIXUP_REPLAY (R249, R415): before completion, when no box can be issued, or once a 17th segment has faulted. -/
def execFixupReplay (s : State) : Out :=
  let core := s.act.core
  match (s.core core).engine with
  | none => .next s
  | some c =>
    if c.fix.isEmpty || c.stopped || c.status != 0 || !c.noBox then .next s
    else
      let r := s.replayFix c c.fix.length
      .next (r.1.putEngine core { r.2 with full := r.2.full && !r.2.fix.isEmpty })

-- Completion (R245, R246)

/-- s.evq of a thread, wherever it is; nothing is bound for one that has retired. -/
def State.evqOf (s : State) (handle : Nat) : Word :=
  match s.placeOf handle with
  | some (c, k) => (s.ctxOf c k).sr 0x063
  | none => if (mfind s.launch.threads handle).isSome then s.slotWord handle (0x800 + 8 * 0x063) else 0

/-- The herd queue that a record goes to: the one that an s.evq value binds, or the launch's target. -/
def State.eventHerd (s : State) (evq : Word) (launch : Nat) : Option Nat :=
  if evq.getLsbD 8 then some (evq.toNat % 256)
  else (mfind s.launch.live launch).bind (fun l =>
    let w7 := (l.record.getD 7 0).toNat
    if w7 % 4 = 2 then some (field w7 12 5) else none)

/-- The command came before another of its thread to the same engine, or to the same MXE: they complete in that order (R244). -/
def Finish.before (f : Finish) (unit : Nat) (c : Command) : Bool :=
  f.unit == unit && f.cmd.handle == c.handle && (unit != 3 || f.cmd.w 0 % 2048 == c.w 0 % 2048)

/-- A command is complete: ownership ends and what remains of pend falls (R177, R245). -/
def State.closeCommand (s : State) (c : Command) : State :=
  ((s.withOwned (s.mem.owned.filter (fun o => o.2.2.2 != c.id))).lowerPend c c.pend).1

/-- A completion is held. -/
def State.holdFinish (s : State) (f : Finish) : State := { s with dev := { s.dev with finishing := s.dev.finishing ++ [f] } }

/-- A command completes, its record posted, where no earlier one stands before it, its record finds the queue free, and the page
of its set record does not migrate; otherwise its completion is held (R244, R369, R375). -/
def State.finish (s : State) (f : Finish) : State :=
  if s.dev.finishing.any (fun g => g.before f.unit f.cmd) || (s.setMoves f.cmd && f.cmd.pend != 0) then s.holdFinish f
  else match f.post with
    | none => s.closeCommand f.cmd
    | some (h, e) =>
      let waits := decide (256 ≤ (s.herd h).events.length) || !(s.herd h).posts.isEmpty
      let s := s.postEvent f.unit h e
      if waits then s.holdFinish { f with queued := true } else s.closeCommand f.cmd

/-- Completions that are held, and whose records do not wait, go on where they may. -/
def State.pumpFinish (s : State) : State :=
  s.dev.finishing.foldl (fun s f => if f.queued then s.holdFinish f else s.finish f) { s with dev := { s.dev with finishing := [] } }

/-- A record of a command that waits for its queue before the command completes (R272, R369). -/
def State.waitingRec (s : State) (unit : Nat) (c : Command) (herd : Option Nat) : Option (Nat × EventRec) :=
  herd.bind (fun h => ((s.herd h).posts.find? (fun x => x.1 == unit && x.2.getD 0 0 == eventWord0 0x0021 c.handle && x.2.getD 1 0 == c.descAddr)).map
    (fun x => (h, x.2)))

/-- A command completes (R245, R246): what remains of pend falls, ownership ends, and its record is posted for an event
handle, for a status that is not OK, and for a converting copy with a flag. Its completion is held while that record waits
(R369). -/
def State.completeCommand (s : State) (unit : Nat) (c : Command) (status landed extra : Nat) : State :=
  let launch := launchOfHandle c.handle
  let herd := s.eventHerd (s.evqOf c.handle) launch
  let e := [eventWord0 0x0020 c.handle, c.descAddr, BitVec.ofNat 64 landed, BitVec.ofNat 64 (status % 512 + 65536 * (extra % 2 ^ 32))]
  if c.done = 1 ∨ status ≠ 0 ∨ (c.major = 0x20 ∧ extra ≠ 0) then
    match herd with
    | some h => s.finish { unit := unit, cmd := c, post := some (h, e) }
    | none => (s.postToLaunch unit launch e).finish { unit := unit, cmd := c }
  else match s.waitingRec unit c herd with
    | some r => s.holdFinish { unit := unit, cmd := c, post := some r, queued := true }
    | none => s.finish { unit := unit, cmd := c }

/-- The waiting post that is served next: the first unit after the one served last, in the order of R402. -/
def nextPost (posts : List (Nat × EventRec)) (last : Nat) : Option (Nat × EventRec) :=
  ((List.range 6).map (fun i => (last + 1 + i) % 6)).findSome? (fun u => posts.find? (fun x => x.1 == u))

/-- The record that a completion waits for has been posted (R369). -/
def State.posted (s : State) (h unit : Nat) (e : EventRec) : State :=
  let it (f : Finish) : Bool := f.queued && f.unit == unit && f.post == some (h, e)
  match s.dev.finishing.findIdx? it with
  | none => s
  | some i =>
    State.pumpFinish { s with dev := { s.dev with
      finishing := s.dev.finishing.zipIdx.map (fun f => if f.2 = i then { f.1 with post := none, queued := false } else f.1) } }

/-- EVENT_POST (R369): a waiting record of a herd is written once its queue has space, one of each unit in turn, and the
completion that it reports goes on. Operand: herd; the round-robin order of R369 names the record. -/
def execEventPost (s : State) : Out :=
  let h := s.arg 0
  if 256 ≤ (s.herd h).events.length then .next s
  else match nextPost (s.herd h).posts (s.herd h).lastPoster with
    | none => .next s
    | some x => .next ((s.onHerd h (fun y =>
        { y with events := y.events ++ [x.2], posts := y.posts.erase x, lastPoster := x.1 })).posted h x.1 x.2)

/-- Bytes that have landed for a copy-engine command: those of its issued boxes but for segments that wait on the fix-up list.
DESIGN CHOICE (log entry 68): numbered bytes of rows that are out of range or another owner's count as landed. -/
def Command.landedBytes (c : Command) : Nat :=
  if c.adds then min c.prog c.total
  else ((c.issued.filter (fun k => decide (k < c.boxes))).map (fun k => c.boxEnd k - 4096 * k)).sum -
    ((c.fix.filter (fun f => c.issued.contains (f.start / 4096))).map (·.len)).sum

/-- Bits [47:16] of word 3 of a copy-engine command's record (R246). -/
def Command.extra (c : Command) : Nat := if c.major = 0x20 then c.cflags % 32 else c.oob.length

/-- The status of a live exchange (R263); where both outcomes met, the manual names no order. -/
def State.xchgStatus (s : State) (x : Xchg) : Nat :=
  let short := x.trunc != 0
  if x.shape && short then (if Config.chooseBit s.tick 0 then Cause.xchgShape else Cause.xchgTrunc)
  else if x.shape then Cause.xchgShape
  else if short then Cause.xchgTrunc
  else 0

/-- A live exchange ends. -/
def State.endXchg (s : State) (x : Xchg) (status : Nat) : State :=
  let s := { s with dev := { s.dev with xchgs := s.dev.xchgs.filter (fun y => y.id != x.id) } }
  s.completeCommand 1 x.cmd status x.landed x.trunc

/-- Exchanges that no engine has accepted yet: in a coprocessor queue, or saved with their thread. -/
def State.queuedXchgs (s : State) : List Command :=
  (s.cores.flatMap (fun k => k.2.copq) ++ s.launch.threads.flatMap (fun t => t.2.cmds)).filter (fun c => c.major == 0x23)

/-- An earlier exchange of the same thread is live: exchanges of one context complete in issue order (R244). -/
def State.xchgBehind (s : State) (c : Command) : Bool :=
  (s.dev.xchgs.map (·.cmd) ++ s.queuedXchgs).any (fun y => y.handle == c.handle && decide (y.id < c.id))

/-- A live exchange of the device has this id (R263). -/
def State.xchgLive (s : State) (id : Nat) : Bool :=
  s.dev.xchgs.any (fun x => x.id == id) || s.queuedXchgs.any (fun c => c.w 3 % 65536 == id) ||
  s.dev.finishing.any (fun f => f.cmd.major == 0x23 && f.cmd.w 3 % 65536 == id)

/-- ENGINE_COMPLETE (R245): of the acting core's copy engine, or with operands 1 and an id of a live exchange. -/
def execEngineComplete (s : State) : Out :=
  if s.arg 0 = 1 then
    match s.dev.xchgs.find? (fun x => x.id == s.arg 1) with
    | none => .next s
    | some x =>
      if s.xchgBehind x.cmd then .next s
      else if x.cmd.status ≠ 0 then .next (s.endXchg x x.cmd.status)
      else if !x.cmd.stopped && x.todo.isEmpty && (List.range 64).all (fun k => !(x.cmd.w 4).testBit k || x.arrived.contains k) then
        .next (s.endXchg x (s.xchgStatus x))
      else .next s
  else
    let core := s.act.core
    match (s.core core).engine with
    | none => .next s
    | some c =>
      let sampled := !c.own || !c.aux.isEmpty
      if c.status = 0 ∧ !(sampled && c.allIssued && c.fix.isEmpty && !c.stopped) then .next s
      else
        let s := s.onCore core (fun k => { k with engine := none })
        .next (s.completeCommand 0 c c.status c.landedBytes c.extra)

-- Exchanges (R263)

/-- The count word of a source in the receive area. -/
def State.putCount (s : State) (c : Command) (k : Nat) (v : Nat) : Chk Unit := s.engWrite c (c.w 2 + 8 * k) (bytesLE 8 v)

/-- All-ones count words for every source in peers; the words can be read from then on. -/
def State.clearCounts (s : State) (c : Command) : List Nat → Chk Unit
  | [] => .ok s ()
  | k :: ks =>
    if (c.w 4).testBit k then (s.putCount c k (2 ^ 64 - 1)).andThen (fun s _ => s.clearCounts c ks) else s.clearCounts c ks

/-- A source's entries are placed in its slot, then its count word is written (R263). -/
def State.place (s : State) (x : Xchg) (k count : Nat) (bs : List Byte) : Chk Xchg :=
  let c := x.cmd
  let esize := field (c.w 3) 47 16
  let cap := c.w 5 % 2 ^ 32
  let n := min count cap
  (s.engWrite c (c.w 2 + 512 + k * cap * esize) (bs.take (n * esize))).andThen (fun s _ =>
    (s.putCount c k count).andThen (fun s _ =>
      let s := s.freeOwned c.id (c.w 2 + 512 + k * cap * esize) (n * esize)
      let r := s.lowerPend c (8 + n * esize)
      .ok r.1 { x with cmd := r.2, arrived := insertNum x.arrived k, landed := x.landed + 8 + n * esize
                       trunc := x.trunc + b2n (decide (cap < count)) }))

/-- One thing that an exchange does (R263): with 64, all-ones count words; with a peer, its entries are read from the send area
and handed to the links, the issuer's own placed. -/
def State.sendOne (s : State) (x : Xchg) (k : Nat) : Chk Xchg :=
  let c := x.cmd
  if k = 64 then (s.clearCounts c (List.range 64)).andThen (fun s _ => .ok (s.freeOwned c.id (c.w 2) 512) x)
  else (s.engRead c (c.w 1 + 8 * k) 8).andThen (fun s bs =>
    let v := valueLE bs
    let first := v % 2 ^ 32
    let count := v / 2 ^ 32
    let esize := field (c.w 3) 47 16
    (s.engRead c (c.w 1 + 512 + first * esize) (count * esize)).andThen (fun s data =>
      if k = s.deviceId then s.place x k count data
      else .ok { s with dev := { s.dev with sent := s.dev.sent ++ [(k, c.w 3 % 65536, data)] } } x))

/-- What an exchange has still to do, in order, as far as it goes: at a fault a record is posted, the exchange waits, and what
is done stays done (R249, R263). -/
def State.sendAll (s : State) (x : Xchg) : List Nat → State × Xchg
  | [] => (s, { x with todo := [] })
  | k :: ks => match s.sendOne x k with
    | .ok s x => s.sendAll x ks
    | .fault s cause va _ =>
      let q := s.engineRecord x.cmd 2 cause va
      (q.1, { x with cmd := q.2, todo := k :: ks })
    | .wait => (s, { x with todo := k :: ks })

/-- A live exchange replaced. -/
def State.putXchg (s : State) (y : Xchg) : State :=
  { s with dev := { s.dev with xchgs := s.dev.xchgs.map (fun z => if z.id = y.id then y else z) } }

/-- Live exchanges that wait for nothing go on with what they have still to do. -/
def State.pumpXchgs (s : State) : State :=
  (s.dev.xchgs.filter (fun x => !x.todo.isEmpty && !x.cmd.stopped && x.cmd.status == 0)).foldl (fun s x =>
    let r := s.sendAll x x.todo
    r.1.putXchg r.2) s

/-- The collective engine accepts an exchange (R263). -/
def State.acceptXchg (s : State) (c : Command) : State :=
  let x : Xchg := { id := c.w 3 % 65536, cmd := c, start := c.aux.getD 0 s.time
                    todo := (if c.aux.getD 1 0 = 1 then [] else [64]) ++ (List.range 64).filter (fun k => (c.w 4).testBit k) }
  State.pumpXchgs { s with dev := { s.dev with xchgs := s.dev.xchgs ++ [x] } }

/-- XCHG_RECEIVE (R263): entries of a source arrive for a live exchange; data for no live exchange is discarded.
Operands: id, source, count, entry bytes, and the bytes. -/
def execXchgReceive (s : State) : Out :=
  let k := s.arg 1
  match s.dev.xchgs.find? (fun x => x.id == s.arg 0) with
  | none => .next s
  | some x =>
    if x.arrived.contains k || !(x.cmd.w 4).testBit k || x.todo.contains 64 || x.cmd.stopped || x.cmd.status != 0 || k == s.deviceId then .next s
    else
      let r : Chk Xchg :=
        if s.arg 3 ≠ field (x.cmd.w 3) 47 16 then
          (s.putCount x.cmd k 0).andThen (fun s _ =>
            .ok s { x with arrived := insertNum x.arrived k, shape := true, landed := x.landed + 8 })
        else s.place x k (s.arg 2) ((s.act.args.drop 4).map (fun b => BitVec.ofNat 8 b))
      match r with
      | .ok s y => .next (s.putXchg y)
      | .fault s cause va _ =>
        let q := s.engineRecord x.cmd 2 cause va
        .next (q.1.putXchg { x with cmd := q.2 })
      | .wait => .next s

/-- A queued command leaves wherever it stands: in a coprocessor queue, or saved with its thread. -/
def State.dropCommand (s : State) (id : Nat) : State :=
  let cores : Map Core := s.cores.map (fun (x : Nat × Core) => (x.1, { x.2 with copq := x.2.copq.filter (fun c => c.id != id) }))
  let threads : Map Thread := s.launch.threads.map (fun (x : Nat × Thread) => (x.1, { x.2 with cmds := x.2.cmds.filter (fun c => c.id != id) }))
  { s with cores := cores, launch := { s.launch with threads := threads } }

/-- The count words that an exchange has still to write stand at all ones before it ends (R263); one that they wait for waits
too, and one whose words fault ends without them. -/
def State.onesLeft (s : State) (c : Command) (left : Bool) : Option State :=
  if !left then some s
  else match s.clearCounts c (List.range 64) with
    | .ok s _ => some s
    | .fault s _ _ _ => some s
    | .wait => none

/-- XCHG_TIMEOUT (R263): 2^32 cycles after it was performed, a live exchange ends, or one that no engine has accepted yet; an
earlier exchange of its thread ends first (R244). Operand: id. -/
def execXchgTimeout (s : State) : Out :=
  let late (c : Command) (t : Nat) : Bool := decide (t + 2 ^ 32 ≤ s.time) && !s.xchgBehind c
  match s.dev.xchgs.find? (fun x => x.id == s.arg 0 && late x.cmd x.start) with
  | some x => .next (match s.onesLeft x.cmd (x.todo.contains 64) with
    | some s => s.endXchg x Cause.xchgTimeout
    | none => s)
  | none =>
    match s.queuedXchgs.find? (fun c => c.w 3 % 65536 == s.arg 0 && late c (c.aux.getD 0 s.time)) with
    | some c => .next (match s.onesLeft c (c.aux.getD 1 0 != 1) with
      | some s => (s.dropCommand c.id).completeCommand 1 c Cause.xchgTimeout 0 0
      | none => s)
    | none => .next s

-- The coprocessor queue (R244)

/-- A command of the acting context with its snapshot; an exchange notes the cycle in which it is performed (R263). -/
def State.mkCommand (s : State) (major fn : Nat) (x : Tagged) (gb : Word) (ws samples : List Word) : Command :=
  let p := s.party
  let c : Command := { id := s.mem.nextId + 1, major := major, fn := fn, descA := ws, descB := samples, handle := s.me.handle
                       core := s.act.core, ctx := s.act.ctx, asid := p.asid, ptb := p.ptb, super := p.super, done := gb
                       descAddr := x.val, aux := if major = 0x23 then [s.time] else [] }
  { c with boxes := if major < 0x23 ∧ c.own = false then ceilDiv c.total 4096 else 0 }

/-- An exchange that is performed writes its count words (R263); where they cannot be written yet, it does once it is
accepted. -/
def State.startXchg (s : State) (c : Command) : State × Command :=
  let r := s.charge c
  match r.1.clearCounts r.2 (List.range 64) with
  | .ok s _ => (s.freeOwned c.id (c.w 2) 512, { r.2 with aux := r.2.aux ++ [1] })
  | _ => r

/-- A command enters the tail of its core's queue: it is performed (R244). A gath.own whose table cannot be sampled yet counts
as one byte until it is, and owns what its largest table would let it write. An exchange whose id is live completes at once
(R263). -/
def State.enterQueue (s : State) (c : Command) : State :=
  let s := { s with mem := { s.mem with nextId := c.id } }
  if c.major = 0x23 ∧ s.xchgLive (c.w 3 % 65536) = true then s.completeCommand 1 c Cause.xchgDup 0 0
  else
    let r : State × Command :=
      if c.own then
        match s.sample c with
        | .ok s c => (s, c)
        | _ => (s.takeOwned c).raisePend c 1
      else if c.major = 0x23 then s.startXchg c
      else s.charge c
    r.1.onCore c.core (fun k => { k with copq := k.copq ++ [r.2] })

/-- The performance of an engine command: its snapshot is taken at the commit point. It waits while the queue holds two (R244),
while its core's port holds earlier writes of the context (R26, R177), and while the page of its set record migrates (R375).
samples: the state registers that an mxc samples. -/
def State.performEngine (s : State) (major fn : Nat) (x : Tagged) (gb : Word) (samples : List Word) : Perf :=
  let go (s : State) (ws : List Tagged) (samples : List Word) : Perf :=
    let s := s.pushWrites s.act.core s.act.ctx 0
    let c := s.mkCommand major fn x gb (ws.map (·.val)) samples
    if decide (2 ≤ s.myCore.copq.length) || s.heldAny s.act.core s.act.ctx || s.setMoves c then
      .later (s.onMe (fun c => { c with snapCmd := some (ws, samples) }))
    else .done ((s.onMe (fun c => { c with snapCmd := none })).enterQueue c)
  match s.me.snapCmd with
  | some e => go s e.1 e.2
  | none => s.performAccess (descReq x) (fun s a =>
      let r := s.readWords s.act.core s.act.ctx a.entry a.herdObj (wordsOf a.pa 64)
      go r.1 r.2 samples)

/-- The course of cpy, gath, scat and xchg. -/
def State.engineInstr (s : State) (i : Instr) (major fn : Nat) (a b : RegNo) (dest : Dest) : Out :=
  let x := s.me.rgt a
  let gb := s.me.rg b
  .next (s.exposed i
    (fun s => s.engineChecks x gb (fun s ws => s.descError major fn ws) (fun s _ => .ok s ()) dest)
    (fun s => s.performEngine major fn x gb []))

/-- cpy (R251) -/
def execCpy (a b : RegNo) (s : State) : Out := s.engineInstr (.cpy a b) 0x20 0 a b (.scope 2)
/-- gath (R255) -/
def execGath (a b : RegNo) (s : State) : Out := s.engineInstr (.gath a b) 0x21 0 a b (.scope 2)
/-- gath.own (R260) -/
def execGathOwn (a b : RegNo) (s : State) : Out := s.engineInstr (.gathOwn a b) 0x21 1 a b (.scope 2)
/-- scat (R256) -/
def execScat (a b : RegNo) (s : State) : Out := s.engineInstr (.scat a b) 0x22 0 a b (.scope 2)
/-- scat.add (R256) -/
def execScatAdd (a b : RegNo) (s : State) : Out := s.engineInstr (.scatAdd a b) 0x22 1 a b (.scope 2)
/-- xchg (R263) -/
def execXchg (a b : RegNo) (s : State) : Out := s.engineInstr (.xchg a b) 0x23 0 a b (.scope 3)

-- The head of the queue (R244, R269)

/-- The message at the head of a core's queue goes to its MXE (R269): one for a retired MXE is refused. -/
def State.injectMxc (s : State) (core : Nat) (c : Command) : State :=
  let e := c.w 0 % 2048
  let s := s.onCore core (fun k => { k with copq := k.copq.drop 1 })
  if s.dev.retired.contains (siteOfMxe e) then s.completeCommand 3 c Cause.capStale 0 0
  else { s with fabric := { s.fabric with
    mxes := mupd {} s.fabric.mxes e (fun m => { m with queue := m.queue ++ [{ c with heldAt := none }] }) } }

/-- An MXE has a place for an arriving command: 16 wait, besides the one that it performs (R269). -/
def State.mxeRoom (s : State) (e : Nat) : Bool :=
  let m : Mxe := mget {} s.fabric.mxes e
  decide (m.queue.length < 17)

/-- Messages to an MXE whose injection was refused: the cycle, and the core. -/
def State.heldFor (s : State) (e : Nat) : List (Nat × Nat) :=
  s.cores.filterMap (fun k => match k.2.copq with
    | c :: _ => if c.major = 0x24 ∧ c.w 0 % 2048 = e then c.heldAt.map (fun t => (t, k.1)) else none
    | [] => none)

/-- The core whose message is injected next (R269). -/
def State.firstHeld (s : State) (e : Nat) : Option Nat :=
  ((s.heldFor e).foldl (fun b x => match b with
    | none => some x
    | some y => if x.1 < y.1 ∨ (x.1 = y.1 ∧ x.2 < y.2) then some x else some y) (none : Option (Nat × Nat))).map (·.2)

/-- Saved commands of a core's resumed threads enter its queue as entries free (R248). -/
def State.refill (s : State) (core : Nat) : Nat → State
  | 0 => s
  | n + 1 =>
    if 2 ≤ (s.core core).copq.length then s
    else
      let waiting := (s.core core).ctxs.find? (fun k => k.2.live && (match mfind s.launch.threads k.2.handle with
        | some t => !t.cmds.isEmpty
        | none => false))
      match waiting with
      | none => s
      | some k =>
        match mfind s.launch.threads k.2.handle with
        | some t =>
          match t.cmds with
          | c :: cs =>
            let s := { s with launch := { s.launch with threads := mset s.launch.threads k.2.handle { t with cmds := cs } } }
            let s := s.onCore core (fun y => { y with copq := y.copq ++ [{ c with core := core, ctx := k.1 }] })
            s.refill core n
          | [] => s
        | none => s

/-- The head command leaves the acting core's queue (R244, R349): to the copy engine when it is free, to the collective
engine, which holds 16 live exchanges (R378), and to an MXE once the issuer's earlier writes are performed. -/
def State.takeHead (s : State) (core : Nat) : State :=
  match (s.core core).copq with
  | [] => s
  | c :: rest =>
    if c.major < 0x23 then
      if (s.core core).engine.isSome then s else s.onCore core (fun k => { k with engine := some c, copq := rest })
    else
      let r := s.release c.core c.ctx 2
      if !r.2 || c.stopped then r.1
      else
        let s := r.1
        if c.major = 0x24 then
          if s.mxeRoom (c.w 0 % 2048) && !s.dev.refetch.contains (2048 + siteOfMxe (c.w 0 % 2048)) && (s.heldFor (c.w 0 % 2048)).isEmpty then s.injectMxc core c
          else if c.heldAt.isSome then s
          else s.onCore core (fun k => { k with copq := { c with heldAt := some s.time } :: rest })
        else
          let drop (s : State) : State := s.onCore core (fun k => { k with copq := rest })
          if c.status ≠ 0 then (drop s).completeCommand 1 c c.status 0 0
          else if 16 ≤ s.dev.xchgs.length then s
          else (drop s).acceptXchg c

/-- ENGINE_TAKE (R244); exchanges and completions that had to wait go on (R263, R375). -/
def execEngineTake (s : State) : Out := .next ((s.pumpFinish.pumpXchgs.takeHead s.act.core).refill s.act.core 3)

/-- MXC_INJECT (R269): the acting core's held message, when it is the one whose injection was refused first. -/
def execMxcInject (s : State) : Out :=
  let core := s.act.core
  match (s.core core).copq with
  | [] => .next s
  | c :: _ =>
    let e := c.w 0 % 2048
    if c.major = 0x24 ∧ c.heldAt.isSome = true ∧ s.mxeRoom e = true ∧ s.dev.refetch.contains (2048 + siteOfMxe e) = false ∧ s.firstHeld e = some core then
      .next ((s.injectMxc core c).refill core 3)
    else .next s

end Sys2Proof.Machine
end

