-- ==== Sys2Proof/Machine/Markers.lean ====
section
/-!
DEFINITION. Marker firings and plane changes (R280, R281, R308, R68), the escape operator (R299..R302), the synchronising
nodes (R303..R305) and the comparator of duplicated pipelines (R306).
-/

namespace Sys2Proof.Machine

-- Level subgraphs (R303)

/-- The level that a plane gives its site. -/
def PlaneSlot.level (p : PlaneSlot) : Nat := p.bits 161 160
/-- The scope field of a plane. -/
def PlaneSlot.scope (p : PlaneSlot) : Nat := p.bits 163 162

/-- The planes that a site has in its configuration's image. -/
def Placed.planesOf (c : Placed) (n : Nat) : List PlaneSlot := (c.planes.filter (fun e => e.1 == n)).map (fun e => e.2.2)
/-- The sites of a configuration's image, each once. -/
def Placed.siteList (c : Placed) : List Nat := c.planes.foldl (fun l e => insertNum l e.1) []

/-- A data link runs from site a over its link o. -/
def Placed.linked (c : Placed) (a o : Nat) : Option Nat :=
  match neighbour a o with
  | none => none
  | some b =>
    if (c.planesOf a).any (fun p => p.src o != 0) && (c.planesOf b).any (fun p => !(p.portTakers (opposite o)).isEmpty) then some b
    else none

/-- Two sites are joined by a data link. -/
def Placed.joined (c : Placed) (a b : Nat) : Bool :=
  (List.range 4).any (fun o => c.linked a o == some b || c.linked b o == some a)

/-- The sites reached from a list of sites. -/
def Placed.reach (c : Placed) (ok : List Nat) : Nat → List Nat → List Nat
  | 0, seen => seen
  | f + 1, seen =>
    let more := ok.filter (fun b => !seen.contains b && seen.any (fun a => c.joined a b))
    if more.isEmpty then seen else c.reach ok f (seen ++ more)

/-- The level-L subgraph of a site (R303). -/
def State.subgraph (s : State) (n level : Nat) : List Nat :=
  match mfind s.fabric.placed (s.launchOf n) with
  | none => [n]
  | some c =>
    let ok := c.siteList.filter (fun a => (c.planesOf a).all (fun p => decide (level ≤ p.level)))
    c.reach ok ok.length [n]

/-- Codes of the memory tile's write modes (R304). -/
def writeMode (op : Nat) : Bool := op == 0x81 || op == 0x83 || op == 0x86

/-- Every write mode of the node's subgraph has committed the round that the node is about to complete (R304). -/
def State.settled (s : State) (n : Nat) : Bool :=
  let x := s.site n
  (s.subgraph n x.plane.level).all (fun m =>
    let writes := match mfind s.fabric.placed (s.launchOf n) with
      | some c => (c.planesOf m).any (fun p => writeMode (p.bits 7 0))
      | none => writeMode (s.site m).op
    !writes || decide (x.commits + 1 ≤ (s.site m).commits))

/-- The herd whose slice stands beside a site (R438). -/
def herdBeside (n : Nat) : Nat := 24 * (4 * (siteY n / 16) + siteY n % 16 / 4) + siteX n / 8

/-- A sync node's walk is queued at the walker of the herd beside it (R170, R304). -/
def State.syncWalk (s : State) (n scope root : Nat) : State × Nat :=
  let p := s.graphParty (s.launchOf n)
  let id := s.mem.nextId
  let h := herdBeside n
  let w : Walk := { id := id, scope := scope, handle := 0xFFFFFFFF, core := coreOfHerd h 0, ctx := 0, asid := p.asid, ptb := p.ptb
                    root := root, queue := [root], super := false, site := some n }
  let s := { s with mem := { s.mem with nextId := id + 1 } }
  (s.onHerd h (fun h => { h with walks := h.walks ++ [w] }), id)

/-- The round count is stored with a release at the node's scope (R304). -/
def State.syncStore (s : State) (n : Nat) : Option State :=
  let x := s.site n
  let va := ((s.liveLaunch (s.launchOf n)).record.getD 6 0).toNat + 8 * (x.plane.imm / 65536)
  match s.agentCheck (s.graphParty (s.launchOf n)) .write .fabric 0 va 8 with
  | .ok s ps =>
    some (s.agentBytes ps (bytesLE 8 (x.commits + 1)))
  | .fault s c a _ => some (s.graphFault n c 1 a 0 0)
  | .wait => none

/-- The steps of an EOR at a sync node (R304): true when it may be forwarded. -/
def State.syncEor (s : State) (n : Nat) : State × Bool :=
  let x := s.site n
  match x.elem.walk with
  | none =>
    if !s.settled n then (s, false)
    else match s.argWord (s.launchOf n) (x.plane.imm % 65536) with
      | .ok s root =>
        let r := s.syncWalk n x.plane.scope root.toNat
        (r.1.onSite n (fun x => { x with elem := { x.elem with walk := some r.2 } }), false)
      | .fault s c a _ => (s.graphFault n c 1 a 0 0, false)
      | .wait => (s, false)
  | some id =>
    if s.walkLive id then (s, false)
    else match s.syncStore n with
      | none => (s, false)
      | some s =>
        if (s.site n).stopped then (s, false)
        else (s.onSite n (fun x => { x with commits := x.commits + 1, elem := { x.elem with walk := none } }), true)

-- Marker firings (R280, R281)

/-- Ports of a read sequence, each once. -/
def distinct : List Nat → List Nat
  | [] => []
  | p :: ps => p :: (distinct ps).filter (fun q => q != p)

/-- The token at a port that the element has not taken. -/
def Site.head (x : Site) (p : Nat) : Option Token :=
  match mfind x.ports p with
  | some t => if t.todo.contains 6 then some t.tok else none
  | none => none

/-- Partial results before an EOR or BAR (R281, R287): the open segment of rsum, rmax and rmin, and the token that split
holds; the count of split goes on within its invocation (R288). -/
def State.pendingOut (s : State) (n : Nat) : State :=
  let x := s.site n
  match x.op with
  | 0x40 | 0x41 | 0x42 =>
    if x.elem.cnt = 0 then s
    else
      let r := if x.op = 0x40 then redSum else if x.op = 0x41 then redMax else redMin
      let q := s.segmentTok n r (x.plane.imm % 2 == 1) false
      (q.1.emit n [q.2]).clearSegment n
  | 0x43 => s.clearSegment n
  | 0x5A => (s.emit n x.elem.buf).onSite n (fun x => { x with elem := { x.elem with buf := [] } })
  | _ => s

/-- The comparator's inputs differ (R306). -/
def State.mismatch (s : State) (n : Nat) (last : Bool) : State :=
  if (s.site n).plane.poison then
    s.emit n [{ payload := poisonPayload Cause.cmpkMismatch 0 n, kind := 6, last := last }]
  else s.graphFault n Cause.cmpkMismatch 2 (siteVal n) 0 0

/-- An MX_MM invocation has read some of its tokens (R328). -/
def Site.midTile (x : Site) : Bool := x.op == 0x91 && !x.elem.buf.isEmpty

/-- A marker of one kind stands at every port and may be forwarded: it is taken from each, and one goes on. -/
def State.forwardMarker (s : State) (n kind : Nat) (ports : List Nat) (heads : List Token) : State :=
  let s := (ports.foldl (fun s p => s.onSite n (fun x => x.took p 6)) s).noteFire n
  let s := if kind = 2 ∨ kind = 3 then s.pendingOut n else s
  let scope := heads.foldl (fun a t => max a (t.payload.toNat % 4)) 0
  let s := s.emit n [{ payload := if kind = 4 then BitVec.ofNat 512 scope else 0, kind := kind }]
  match kind with
  | 2 =>
    let s := if (s.site n).op = 0x61 then s.onSite n (fun x => x.emitCtl true) else s
    let s := if (s.site n).op = 0x93 then
        { s with fabric := { s.fabric with mxes := mupd {} s.fabric.mxes (mxeOfSite n) (fun m => { m with nonce := m.nonce + 1 }) } }
      else s
    s.onSite n (fun x => { x with ending := true })
  | 5 => s.onSite n (fun x => { x with drained := true })
  | _ => s

/-- MARKER_FIRING (R280, R281): esc forwards a marker once every ticket is emitted (R301); sync acts on an EOR (R304);
mx.msg waits for the running command (R328); a comparator compares the markers as it does tokens (R306). A marker inside a
tile is mx.mm's own to report (R328). -/
def execMarkerFiring (s : State) : Out :=
  let n := s.act.site
  let x := s.site n
  let reads := x.plane.reads
  let ports := distinct reads
  let heads := ports.map x.head
  match heads with
  | some h0 :: _ =>
    if !x.acts || !x.outFree || !h0.marker || !x.taken.isEmpty || heads.any Option.isNone then .next s
    else
      let toks := heads.filterMap id
      match (ports.zip toks).find? (fun e => e.2.kind != h0.kind) with
      | some e =>
        if e.2.kind = 7 then .next (s.graphFault n Cause.tokenKind 2 (siteVal n) 7 0)
        else if x.op = 0x63 then
          .next ((ports.foldl (fun s p => s.onSite n (fun x => x.took p 6)) s).mismatch n (anyLast toks))
        else .next (s.graphFault n Cause.portOrder 2 (siteVal n)
          (portOrder ((reads.findIdx? (fun p => p == e.1)).getD 0) e.1 e.2.kind) 0)
      | none =>
        if x.op = 0x55 ∧ !x.elem.buf.isEmpty then
          .next (s.graphFault n Cause.cturnPartial 2 (siteVal n) (BitVec.ofNat 64 x.elem.buf.length) 0)
        else if x.midTile then .next s
        else if x.op = 0x63 ∧ toks.any (fun t => t != h0) then
          .next ((ports.foldl (fun s p => s.onSite n (fun x => x.took p 6)) s).mismatch n false)
        else if x.op = 0x60 ∧ !x.elem.tickets.isEmpty then .next s
        else if x.op = 0x93 ∧ h0.kind = 2 ∧ (mget {} s.fabric.mxes (mxeOfSite n)).running.isSome then .next s
        else if x.op = 0x61 ∧ h0.kind = 2 then
          let r := s.syncEor n
          if r.2 then .next (r.1.forwardMarker n 2 ports toks) else .next r.1
        else .next (s.forwardMarker n h0.kind ports toks)
  | _ => .next s

-- Plane changes (R68, R308)

/-- PLANE_CHANGE: the change takes effect once its slot is loaded (R308); a plane whose check byte is wrong waits to be
fetched again (R68). -/
def execPlaneChange (s : State) : Out :=
  let n := s.act.site
  match (s.site n).change with
  | some k => if (s.site n).stopped then .next s else .next (s.activate n k)
  | none => .next s

/-- PLANE_REFETCH (R68): the plane that a site could not activate is fetched once more; a second failure faults the
configuration with CFG_CHECK. -/
def execPlaneRefetch (s : State) : Out :=
  let n := s.act.site
  let x := s.site n
  match x.change with
  | none => .next s
  | some k =>
    let p : PlaneSlot := mget {} x.slots k
    if x.stopped || !p.loaded || planeOk p.word then .next s
    else match s.agentCheck (s.graphParty (s.launchOf n)) .read .fabric 0 p.addr.toNat 32 with
      | .ok s ps =>
        let w : BitVec 256 := BitVec.ofNat 256 (valueLE (s.homeBytes ps))
        if planeOk w then .next ((s.onSite n (fun x => { x with slots := mset x.slots k { p with word := w } })).activate n k)
        else .next (s.loadFault n Cause.cfgCheck p.addr (siteVal n))
      | .fault s c a _ => .next (s.loadFault n c a 0)
      | .wait => .next s

-- The escape operator (R299..R302)

/-- The herd pool that an escape operator is bound to (R300, R400). -/
def State.escHerd (s : State) (n : Nat) : Nat :=
  match mfind s.fabric.placed (s.launchOf n) with
  | some c => mget (herdBeside n) c.bind n
  | none => herdBeside n

/-- A payload enters the herd's escape queue when it holds fewer than 256 (R300). -/
def State.pushPayload (s : State) (n ticket : Nat) (ws : List Tagged) : Option State :=
  let h := s.escHerd n
  if 256 ≤ (s.herd h).escq.length then none
  else some (s.onHerd h (fun y => { y with escq := y.escq ++ [(n, ticket % 65536, s.launchOf n, ws)] }))

/-- The tickets of a site changed. -/
def State.onTickets (s : State) (n : Nat) (f : List Ticket → List Ticket) : State :=
  s.onSite n (fun x => { x with elem := { x.elem with tickets := f x.elem.tickets } })

/-- Payloads that wait for the queue are dispatched in ticket order (R300). -/
def State.dispatchWaiting (s : State) (n : Nat) : List Ticket → State
  | [] => s
  | t :: ts =>
    match t.waiting with
    | none => s.dispatchWaiting n ts
    | some ws =>
      match s.pushPayload n t.num ws with
      | none => s
      | some s => (s.onTickets n (fun l => l.map (fun u => if u.num = t.num then { u with waiting := none } else u))).dispatchWaiting n ts

/-- The ticket whose token is emitted next: the oldest in ordered mode, the first to arrive in unordered mode (R301). -/
def Site.eligibleTicket (x : Site) : Option Ticket :=
  if x.plane.bits 164 164 = 0 then
    match x.elem.tickets with
    | t :: _ => if t.tok.isSome then some t else none
    | [] => none
  else
    x.elem.tickets.foldl (fun b t =>
      if t.tok.isNone then b
      else match b with
        | none => some t
        | some u => if t.arrival < u.arrival then some t else some u) none

/-- An eligible ticket's token is emitted. -/
def State.emitTicket (s : State) (n : Nat) : State :=
  let x := s.site n
  if !x.outFree then s
  else match x.eligibleTicket with
    | none => s
    | some t =>
      match t.tok with
      | none => s
      | some tok => (s.onTickets n (fun l => l.filter (fun u => u.num != t.num))).emit n [tok]

/-- The header that a tagged payload word names: whether it may be dispatched (R300), or not yet known. -/
def State.escRef (s : State) (n : Nat) (v : Nat) : Option (State × Bool) :=
  if v % 8 ≠ 0 then some (s, false)
  else match s.agentCheck (s.graphParty (s.launchOf n)) .read .fabric 0 v 8 with
    | .ok s ps =>
      let h := valueLE (s.homeBytes ps)
      let st := field h 32 30
      let own := field h 48 33
      some (s, field h 29 28 != 3 && (st == 2 || st == 3 || (st == 1 && herdOfCore (own / 32) == s.escHerd n)))
    | .fault s _ _ _ => some (s, false)
    | .wait => none

/-- All tagged words of a payload may be dispatched. -/
def State.escRefs (s : State) (n : Nat) : List Tagged → Option (State × Bool)
  | [] => some (s, true)
  | w :: ws =>
    if w.tag then
      match s.escRef n w.val.toNat with
      | none => none
      | some (s, false) => some (s, false)
      | some (s, true) => s.escRefs n ws
    else s.escRefs n ws

/-- The token that the operator has read takes the next ticket (R299..R301). -/
def State.takeTicket (s : State) (n : Nat) (t : Token) : State :=
  let x := s.site n
  let p := x.plane
  let num := x.elem.nextTicket
  let put (s : State) (k : Ticket) : State :=
    s.onSite n (fun x => { x with
      taken := []
      elem := { x.elem with tickets := x.elem.tickets ++ [k], nextTicket := num + 1, arrivals := x.elem.arrivals + 1 } })
  let known (s : State) (tok : Token) : State := put s { num := num, last := t.last, tok := some tok, arrival := x.elem.arrivals }
  if t.kind = 6 then known s t
  else if t.kind = 1 then s.graphFault n Cause.tokenKind 2 (siteVal n) 1 0
  else
    let s := s.readArgs n [p.imm / 65536]
    if (s.site n).stopped then s
    else
      let ws := (List.range (p.bits 167 165 + 1)).map (fun k =>
        ({ val := BitVec.ofNat 64 (elemOf 64 k t.payload.toNat), tag := p.imm.testBit k } : Tagged))
      match s.escRefs n ws with
      | none => s
      | some (s, false) => known s { payload := poisonPayload Cause.escRef num n, kind := 6, last := t.last }
      | some (s, true) =>
        match s.pushPayload n num ws with
        | some s => put s { num := num, last := t.last }
        | none => put s { num := num, last := t.last, waiting := some ws }

/-- FE_ESC (R299..R301): payloads that wait are dispatched, an eligible ticket's token is emitted, and a token is read
while fewer than 64 tickets are outstanding. -/
def execFeEsc (s : State) : Out :=
  let n := s.act.site
  if !(s.site n).acts then .next s
  else
    let s := (s.dispatchWaiting n (s.site n).elem.tickets).emitTicket n
    let e := (s.site n).elem
    let oldest := match e.tickets with
      | t :: _ => t.num
      | [] => e.nextTicket
    if oldest + 64 ≤ e.nextTicket then .next s
    else
      let x := s.site n
      let s := s.takeReads n (x.plane.reads.drop x.taken.length) x.taken.length
      let x := s.site n
      if x.stopped then .next s
      else match x.taken with
        | t :: _ => .next ((s.noteFire n).takeTicket n t)
        | [] => .next s

/-- ESC_REPLY_ARRIVAL of a reply in flight (R301, R302): it takes its ticket's place; one for a stale ticket posts
ESC_STALE to the replier's queue. Operand: the reply's place among those in flight. -/
def execEscReplyArrival (s : State) : Out :=
  match s.fabric.replies[s.arg 0]? with
  | none => .next s
  | some r =>
    let s := { s with fabric := { s.fabric with replies := dropNth s.fabric.replies (s.arg 0) } }
    let x := s.site r.site
    match (if x.launch = some r.launch then x.elem.tickets.find? (fun t => t.num % 65536 == r.ticket && t.tok.isNone) else none) with
    | none => .next (s.postEvq 4 r.evq (launchOfHandle r.handle) [eventWord0 0x0030 r.handle, BitVec.ofNat 64 r.ticket, 0, 0])
    | some t =>
      let tok : Token :=
        if r.cause ≠ 0 then { payload := poisonPayload r.cause r.ticket r.site, kind := 6, last := t.last }
        else { payload := BitVec.ofNat 512 (packElems 64 (r.words.map (·.toNat))), last := t.last, vcnt := 2 * r.words.length % 16 }
      .next (s.onSite r.site (fun x => { x with elem := { x.elem with
        tickets := x.elem.tickets.map (fun u => if u.num = t.num then { u with tok := some tok, arrival := x.elem.arrivals } else u)
        arrivals := x.elem.arrivals + 1 } }))

-- Sync, fence, comparator (R304..R306)

/-- FE_SYNC: a DATA, SPARSE or POISON token passes at once (R304). -/
def execFeSync (s : State) : Out := s.firing Site.outFree true (fun s n ts => s.emit n ts)

/-- FE_FENCE (R305): after every k-th token with last, a FENCE of the plane's scope. -/
def execFeFence (s : State) : Out :=
  s.firing Site.outFree false (fun s n ts =>
    let x := s.site n
    let k := max 1 (x.plane.imm % 65536)
    let c := x.elem.rounds + b2n (anyLast ts)
    let hit := anyLast ts && c % k == 0
    let s := s.onSite n (fun x => { x with elem := { x.elem with rounds := c } })
    s.emit n (ts ++ (if hit then [{ payload := BitVec.ofNat 512 x.plane.scope, kind := 4 }] else [])))

/-- FE_CMPK (R306): payload and sideband are compared; a marker against a token differs, and both are taken. -/
def execFeCmpk (s : State) : Out :=
  s.firing Site.outFree false (fun s n ts =>
    let a := ts.getD 0 {}
    match ts.drop 1 with
    | [] => (s.onSite n (fun x => x.took (x.plane.reads.getD 1 0) 6)).mismatch n (anyLast ts)
    | _ => if ts.all (fun t => t == a) then s.emit n [a] else s.mismatch n (anyLast ts))

end Sys2Proof.Machine
end

