-- ==== Sys2Proof/Machine/Matrix.lean ====
section
/-!
DEFINITION. Matrix elements: accumulation (R101..R105), the value hallmark (R115..R120), operands (R326), mxc and its
commands (R264..R273), and the fabric's matrix modes (R327, R328).
-/

namespace Sys2Proof.Machine

-- Formats (R80, R101, R102)

/-- An unscaled integer format (R102). -/
def intCode (c : Nat) : Bool := decide (8 ≤ c) && decide (c ≤ 13)
/-- The pair is accepted by a fine or a broad MXE (R80). -/
def pairOk (fine : Bool) (fa fb : Nat) : Bool :=
  if fine then
    [0x03, 0x04, 0x08, 0x09, 0x0E, 0x0F, 0x13].contains fa &&
    [0x03, 0x04, 0x07, 0x08, 0x09, 0x0A, 0x0B, 0x0C, 0x0E, 0x0F, 0x12, 0x13, 0x14, 0x15, 0x16, 0x17].contains fb
  else decide (fa ≤ 0x14) && decide (fb ≤ 0x17)
/-- Scale-block length of a format, 0 for none (R80). -/
def blockLen (c : Nat) : Nat :=
  if 0x0E ≤ c ∧ c ≤ 0x13 then 32 else if c = 0x14 then 8 else if 0x15 ≤ c ∧ c ≤ 0x17 then 64 else 0
/-- A BX format. -/
def isBx (c : Nat) : Bool := decide (0x0E ≤ c) && decide (c ≤ 0x13)
/-- Elements of a 64-byte row (R87). -/
def rowElems (c : Nat) : Nat := if codeBits c = 6 then 80 else 512 / codeBits c
/-- K-block length (R101). -/
def kLen (fine : Bool) (fa fb : Nat) : Nat :=
  if !fine then 16
  else match [blockLen fa, blockLen fb].filter (fun n => n != 0) with
    | [] => 32
    | l => l.foldl min 64

/-- Rows and columns of a bank. -/
def bankRows (e : Nat) : Nat := if mxeFine e then 64 else 32
def bankCols (e : Nat) : Nat := if mxeFine e then 128 else 64

-- Operand elements (R89, R93, R101)

/-- A term of an element: its unscaled value and its scale. -/
structure MTerm where
  val : FVal
  scale : FVal
  deriving DecidableEq, Repr
/-- An element: one term, or the two stages of VC4. -/
abbrev MElem : Type := List MTerm

/-- The number one. -/
def one : FVal := .fin false 1 0
/-- An element of a format other than VC, under a scale byte and a tensor scale. -/
def mElem (c x scale : Nat) (t : FVal) : MElem :=
  match blockLen c with
  | 32 => [{ val := if c = 0x13 then (elemValue c x).shift (-6) else elemValue c x, scale := e8m0 scale }]
  | 8 => [{ val := elemValue 0x14 x, scale := t.mul (u4m4.decode scale) }]
  | _ => [{ val := elemValue c x, scale := one }]

/-- Element k of a run of 64-byte rows (R87). -/
def rowElem (c bits k : Nat) : Nat :=
  let w := codeBits c
  (bits >>> (512 * (k / rowElems c) + w * (k % rowElems c))) % 2 ^ w

/-- Half-unit coordinate i of codebook entry e (R91, R93). -/
def cbUnit (cb : Nat → Nat) (e i : Nat) : Int := signedOf 4 (cb (8 * e + i) % 16)
/-- The half-units of a VC1 group. -/
def vc1Group (cb : Nat → Nat) (idx : Nat) : List Int := (List.range 8).map (cbUnit cb idx)
/-- The half-units of a VC2 group (R93). -/
def vc2Group (cb : Nat → Nat) (idx : Nat) : List Int :=
  let par := (List.range 7).foldl (fun p i => p != idx.testBit (1 + i)) false
  (List.range 8).map (fun i =>
    let x := cbUnit cb (idx / 256) i
    if (if i = 7 then par else idx.testBit (1 + i)) then -x else x)
/-- σ/2 of a BF16 scale (R101). -/
def halfScale (x : Nat) : FVal := ((bf16.decode (x % 65536)).shift (-1))
/-- The 64 elements of a VC block (R92, R93). -/
def vcElems (c : Nat) (cb : Nat → Nat) (raw : Nat) : List MElem :=
  let term (s : FVal) (h : Int) : MTerm := { val := .ofInt h, scale := s }
  match c with
  | 0x15 => (((List.range 8).map (fun g => vc1Group cb (elemOf 8 g raw))).flatten).map (fun h => [term (halfScale (raw >>> 64)) h])
  | 0x16 => (((List.range 8).map (fun g => vc2Group cb (elemOf 16 g raw))).flatten).map (fun h => [term (halfScale (raw >>> 128)) h])
  | _ =>
    let h1 := ((List.range 8).map (fun g => vc2Group cb (elemOf 16 g raw))).flatten
    let h2 := ((List.range 8).map (fun g => vc2Group cb (elemOf 16 (8 + g) raw))).flatten
    (h1.zip h2).map (fun h => [term (halfScale (raw >>> 256)) h.1, term (halfScale (raw >>> 272)) h.2])
/-- Bytes of a VC block, and blocks of a tile (R92). -/
def vcBytes (c : Nat) : Nat := if c = 0x15 then 10 else if c = 0x16 then 18 else 36
def vcPer (c : Nat) : Nat := if c = 0x15 then 102 else if c = 0x16 then 56 else 28

-- Exact sums (R101, R103)

/-- The exact sum of values; NaN where one is NaN or infinities are opposite. -/
def sumExact (xs : List FVal) : FVal := (xs.foldl FVal.add (.fin false 0 0)).quiet
/-- A value is finite. -/
def FVal.isFin (x : FVal) : Bool := !x.isNan && !x.isInf
/-- The magnitude. -/
def FVal.mag : FVal → FVal
  | .fin _ m e => .fin false m e
  | .inf _ => .inf false
  | x => x
/-- A value rounded to FP32 (rne32). -/
def rne32 (x : FVal) : FVal := fp32.decode (fp32.convert {} x).bits

/-- A value rounded toward zero to BF16. -/
def rzPart (x : FVal) : FVal := bf16.decode (bf16.convert { rm := 1 } x).bits
/-- The three parts of a finite FP32 value (R103). -/
def parts3 (x : FVal) : List FVal :=
  let a := rzPart x
  let r := x.add a.neg
  let b := rzPart r
  [a, b, rzPart (r.add b.neg)]
/-- The products that the multipliers form for one pair (R103): sa and sb: the operand is FP32 on a broad MXE. -/
def mulParts (sa sb : Bool) (a b : FVal) : FVal :=
  if !a.isFin || !b.isFin || (!sa && !sb) then a.mul b
  else
    let xs := if sa then parts3 a else [a]
    let ys := if sb then parts3 b else [b]
    sumExact ((xs.zipIdx.map (fun x => (ys.zipIdx.filter (fun y => !(sa && sb) || decide (x.2 + y.2 ≤ 2))).map
      (fun y => x.1.mul y.1))).flatten)

/-- All scales of a list are one. -/
def uniform : List MTerm → Bool
  | [] => true
  | t :: ts => ts.all (fun u => u.scale == t.scale)

/-- A K-block's contribution (R101): the exact sum of unscaled products under the scales that govern the block. DESIGN CHOICE
(log entry 44): where several scales govern one block, each product is scaled by its own. -/
def contribution (sa sb : Bool) (a b : List MElem) : FVal :=
  let stages := (b.map List.length).foldl max 1
  let xs := a.map (fun x => x.getD 0 { val := .fin false 0 0, scale := one })
  (sumExact ((List.range stages).map (fun t =>
    let ys := b.map (fun y => y.getD t { val := .fin false 0 0, scale := one })
    let prods := (xs.zip ys).map (fun p => (p, mulParts sa sb p.1.val p.2.val))
    if uniform xs && uniform ys then
      ((sumExact (prods.map (·.2))).mul ((xs.map (·.scale)).headD one)).mul ((ys.map (·.scale)).headD one)
    else sumExact (prods.map (fun p => (p.2.mul p.1.1.scale).mul p.1.2.scale))))).quiet

/-- A list cut into runs of n. -/
def runsOf {α : Type} (n : Nat) (xs : List α) : List (List α) :=
  (List.range (ceilDiv xs.length (max 1 n))).map (fun k => (xs.drop (max 1 n * k)).take (max 1 n))

/-- A cell after its K-blocks, and the flags of its additions (R99, R101). -/
def accumCell (cell : Nat) (cs : List FVal) : FRes :=
  cs.foldl (fun r c =>
    let q := fp32.fadd {} (fp32.decode r.bits) c
    { bits := q.bits, flags := r.flags ||| (q.flags &&& (nvFlag + ofFlag)) }) { bits := cell }

/-- A finite value as an integer. -/
def FVal.toInteger : FVal → Int
  | .fin s m e => scaled s m e 0
  | _ => 0

/-- The value of an element after scaling (R115). -/
def scaledElem (x : MElem) : FVal := sumExact (x.map (fun t => (t.val.mul t.scale).quiet))

-- Banks (R102, R115, R265, R359)

/-- Window address of cell (i, j) of a bank. -/
def cellAddr (e bank i j : Nat) : Nat := mxeBase e + 3145728 + 32768 * bank + 4 * (bankCols e * i + j)
/-- An MXE. -/
def State.mxe (s : State) (e : Nat) : Mxe := mget {} s.fabric.mxes e
/-- An MXE changed. -/
def State.onMxe (s : State) (e : Nat) (f : Mxe → Mxe) : State :=
  { s with fabric := { s.fabric with mxes := mset s.fabric.mxes e (f (s.mxe e)) } }
/-- Bank 0 or 1. -/
def Mxe.bank (m : Mxe) (b : Nat) : Bank := if b = 0 then m.bank0 else m.bank1
/-- A bank replaced. -/
def Mxe.setBank (m : Mxe) (b : Nat) (x : Bank) : Mxe := if b = 0 then { m with bank0 := x } else { m with bank1 := x }
/-- A cell's bits. -/
def State.cell (s : State) (e bank i j : Nat) : Nat := valueLE (s.bytesAt (cellAddr e bank i j) 4)
/-- A cell written. -/
def State.putCell (s : State) (e bank i j v : Nat) : State := s.putBytes (cellAddr e bank i j) (bytesLE 4 v)

/-- A bank's cells and its value hallmark are reset (R120, R272). -/
def State.clearBank (s : State) (e bank : Nat) : State :=
  let a := mxeBase e + 3145728 + 32768 * bank
  let out (w : Nat) : Bool := decide (8 * w < a) || decide (a + bankBytes e ≤ 8 * w)
  let s := { s with mem := { s.mem with
    bytes := s.mem.bytes.filter (fun c => decide (c.1 < a) || decide (a + bankBytes e ≤ c.1))
    poison := s.mem.poison.filter out, latent := s.mem.latent.filter (fun x => out x.1) } }
  s.onMxe e (fun m => m.setBank bank {})

/-- An MXE is assigned to a launch, released, or taken by the fabric: its nonce moves on, and an assignment clears both
banks (R265). DESIGN CHOICE (log entry 69): it does not wait for a command of the former owner that the MXE performs, or that
stands stopped on a record; such an MM goes on on the new owner's banks. -/
def State.assignMxe (s : State) (e : Nat) (owner : Option Nat) (rights : Nat) (fabric : Bool) : State :=
  let s := s.onMxe e (fun m => { m with owner := owner, rights := rights, nonce := m.nonce + 1, fabric := fabric })
  if owner.isSome then (s.clearBank e 0).clearBank e 1 else s

/-- The capability that an MXE grants its owner (R264). -/
def State.capability (s : State) (e : Nat) : Nat :=
  let m := s.mxe e
  e + 2 ^ 11 * (m.owner.getD 0 % 4096) + 2 ^ 23 * (m.rights % 16) + 2 ^ 48 * m.nonce.toNat

/-- A tile operation (R101, R102, R115): A by rows, B by columns. -/
structure TileOp where
  fa : Nat
  fb : Nat
  rows : List (List MElem)
  cols : List (List MElem)
  deriving DecidableEq, Repr

/-- Both operands are unscaled integers: the cells are INT32 (R102). -/
def TileOp.ints (o : TileOp) : Bool := intCode o.fa && intCode o.fb
/-- The cell type that a tile operation implies. -/
def TileOp.cell (o : TileOp) : Nat := if o.ints then 2 else 1
/-- Sum over a list of rows of entry k. -/
def sumsOver (n : Nat) (xs : List (List FVal)) : List FVal :=
  (List.range n).map (fun k => rne32 (sumExact (xs.map (fun r => r.getD k (.fin false 0 0)))))
/-- A check value accumCells products under K-blocks with scale 1 (R115). -/
def checkAcc (l : Nat) (old : Nat) (xs ys : List FVal) : Nat :=
  (runsOf l (xs.zip ys)).foldl (fun c r =>
    (fp32.convert {} ((fp32.decode c).add (sumExact (r.map (fun p => (p.1.mul p.2).quiet))))).bits) old

/-- The value hallmark of a bank after a tile operation (R115). -/
def Bank.hallmark (k : Bank) (l : Nat) (o : TileOp) : Bank :=
  let a := o.rows.map (fun r => r.map scaledElem)
  let b := o.cols.map (fun r => r.map scaledElem)
  let n := (a.headD []).length
  if o.ints then
    let ai := a.map (fun r => r.map FVal.toInteger)
    let bi := b.map (fun r => r.map FVal.toInteger)
    let alpha := (List.range n).map (fun q => (ai.map (fun r => r.getD q 0)).sum)
    let beta := (List.range n).map (fun q => (bi.map (fun r => r.getD q 0)).sum)
    let dot (x y : List Int) : Int := ((x.zip y).map (fun p => p.1 * p.2)).sum
    let up (m : Map Nat) (xs : List (List Int)) (w : List Int) : Map Nat :=
      xs.zipIdx.foldl (fun m r => mset m r.2 (bitsOf 32 (mget 0 m r.2 + dot r.1 w))) m
    { k with rows := up k.rows ai beta, cols := up k.cols bi alpha }
  else
    let mags (x : List (List FVal)) : List (List FVal) := x.map (fun r => r.map FVal.mag)
    let up (off : Nat) (m : Map Nat) (xs : List (List FVal)) (w : List FVal) : Map Nat :=
      xs.zipIdx.foldl (fun m r => mset m (off + r.2) (checkAcc l (mget 0 m (off + r.2)) r.1 w)) m
    { k with rows := up 0 k.rows a (sumsOver n b)
             cols := up 0 k.cols b (sumsOver n a)
             aux := up 256 (up 0 k.aux (mags a) (sumsOver n (mags b))) (mags b) (sumsOver n (mags a)) }

/-- C[bank] += A·B (R101): the state, and the flags of the additions. -/
def State.tileOp (s : State) (e bank : Nat) (o : TileOp) : State × Nat :=
  let l := kLen (mxeFine e) o.fa o.fb
  let sa := !mxeFine e && o.fa == 0
  let sb := !mxeFine e && o.fb == 0
  let cellOf (r : State × Nat) (i j : Nat) (a b : List MElem) : State × Nat :=
    let old := r.1.cell e bank i j
    let cs := ((runsOf l a).zip (runsOf l b)).map (fun p => contribution sa sb p.1 p.2)
    if o.ints then (r.1.putCell e bank i j (bitsOf 32 (old + (cs.map FVal.toInteger).sum)), r.2)
    else
      let q := accumCell old cs
      (r.1.putCell e bank i j q.bits, r.2 ||| q.flags)
  let r := o.rows.zipIdx.foldl (fun r a => o.cols.zipIdx.foldl (fun r b => cellOf r a.2 b.2 a.1 b.1) r) (s, 0)
  let mark (k : Bank) : Bank := { k.hallmark l o with cell := o.cell, m := o.rows.length, n := o.cols.length, altered := true }
  (r.1.onMxe e (fun m => m.setBank bank (mark (m.bank bank))), r.2)

-- Settlement (R116..R119)

/-- How a drain settles: whether a row or column was left unchecked (R119), and a rebuilt cell with its old and new bits. -/
inductive Settled where
  | ok (unchecked : Bool)
  | rebuilt (unchecked : Bool) (i j old new : Nat)
  | mismatch (unchecked : Bool)
  deriving DecidableEq, Repr

/-- A row or column was left unchecked (R119). -/
def Settled.unchecked : Settled → Bool
  | .ok u => u
  | .rebuilt u _ _ _ _ => u
  | .mismatch u => u

/-- A level of the pairwise tree. -/
def treeLevel : List FVal → List FVal
  | a :: b :: l => rne32 (a.add b) :: treeLevel l
  | l => l
/-- The tree sum of up to 128 cells (R116). -/
def treeSum (xs : List FVal) : FVal := (iter treeLevel 7 xs).headD (.fin false 0 0)

/-- A row or column that is compared: its delta and its tolerance, both exact (R116); none when it is unchecked (R119). -/
def compareLine (tau check abs : Nat) (cells : List Nat) : Option (FVal × FVal) :=
  let c := fp32.decode check
  let a := fp32.decode abs
  let t := treeSum (cells.map fp32.decode)
  if !c.isFin || !a.isFin || !t.isFin then none
  else some (c.add t.neg, (a.shift (-(tau : Int))).add (.fin false 1 (-149)))

/-- |a| ≤ b, exactly. -/
def within (a b : FVal) : Bool := decide (a.mag.order b ≤ 0)

/-- The settlement of a bank whose cells are given by rows (R116..R119). -/
def Bank.settle (k : Bank) (tau : Nat) (cells : List (List Nat)) : Settled :=
  let cols := (List.range (cells.headD []).length).map (fun j => cells.map (fun r => r.getD j 0))
  if k.cell = 2 then
    let delta (m : Map Nat) (x : List Nat × Nat) : Nat := bitsOf 32 (((mget 0 m x.2 : Nat) : Int) - ((x.1.sum : Nat) : Int))
    let rs := (cells.zipIdx.map (fun x => (x.2, delta k.rows x))).filter (fun d => d.2 != 0)
    let cs := (cols.zipIdx.map (fun x => (x.2, delta k.cols x))).filter (fun d => d.2 != 0)
    match rs, cs with
    | [], [] => .ok false
    | [(i, dr)], [(j, dc)] =>
      let old := (cells.getD i []).getD j 0
      if dr = dc then .rebuilt false i j old ((old + dr) % 2 ^ 32) else .mismatch false
    | _, _ => .mismatch false
  else
    let rows := cells.zipIdx.map (fun x => (x.2, compareLine tau (mget 0 k.rows x.2) (mget 0 k.aux x.2) x.1))
    let lines := cols.zipIdx.map (fun x => (x.2, compareLine tau (mget 0 k.cols x.2) (mget 0 k.aux (256 + x.2)) x.1))
    let unchecked := (rows ++ lines).any (fun x => x.2.isNone)
    let bad (l : List (Nat × Option (FVal × FVal))) : List (Nat × FVal × FVal) :=
      l.filterMap (fun x => match x.2 with
        | some d => if within d.1 d.2 then none else some (x.1, d)
        | none => none)
    match bad rows, bad lines with
    | [], [] => .ok unchecked
    | [(i, dr, tr)], [(j, dc, tc)] =>
      if within (dr.add dc.neg) (tr.add tc) then
        let row := cells.getD i []
        let rest := treeSum ((row.set j 0).map fp32.decode)
        .rebuilt unchecked i j (row.getD j 0) (fp32.convert {} ((fp32.decode (mget 0 k.rows i)).add rest.neg)).bits
      else .mismatch unchecked
    | _, _ => .mismatch unchecked

/-- The cells of a bank by rows. -/
def State.bankCells (s : State) (e bank : Nat) : List (List Nat) :=
  (List.range (bankRows e)).map (fun i => (List.range (bankCols e)).map (fun j => s.cell e bank i j))

/-- A bank settles: a rebuilt cell is written and counted (R118, R414). -/
def State.settleBank (s : State) (e bank tau : Nat) : State × Settled :=
  let r := ((s.mxe e).bank bank).settle tau (s.bankCells e bank)
  match r with
  | .rebuilt _ i j _ new => ((s.putCell e bank i j new).corrected 0x10 e (BitVec.ofNat 64 (cellAddr e bank i j)), r)
  | _ => (s, r)

/-- A cell converted for a drain, with its flags (R99, R266, R272): an INT32 bank takes code 0x00 as INT32. -/
def drainCode (cell fmt rnd : Nat) (sat : Bool) (draw : Nat) (x : Nat) : FRes :=
  if cell = 2 ∧ fmt = 0 then { bits := x }
  else
    let v : FVal := if cell = 2 then .ofInt (signedOf 32 x) else fp32.decode x
    toCode fmt { rm := rnd, sat := sat, draw := draw } v

/-- Row i of a drain: n cells converted. -/
def State.drainRow (s : State) (e bank i n fmt rnd : Nat) (sat : Bool) : List FRes :=
  (List.range n).map (fun j =>
    drainCode ((s.mxe e).bank bank).cell fmt rnd sat (Config.srDraw s.tick (128 * i + j)).toNat (s.cell e bank i j))

-- Operands (R326)

/-- A row of an A operand in memory: nb bytes of elements and the scale bytes. -/
def State.fetchRow (s : State) (c : Command) (fa k base scl : Nat) (t : FVal) : Chk (List MElem) :=
  let nb := 64 * ceilDiv k (rowElems fa)
  let l := blockLen fa
  (s.engRead c base nb).andThen (fun s bs =>
    let bits := valueLE bs
    let elems (sc : Nat) : List MElem := (List.range k).map (fun q => mElem fa (rowElem fa bits q) (if l = 0 then 0 else elemOf 8 (q / l) sc) t)
    if l = 0 then .ok s (elems 0)
    else (s.engRead c scl (ceilDiv k l)).andThen (fun s sc => .ok s (elems (valueLE sc))))

/-- Rows i, i + 1, … of an A operand, n of them. -/
def State.fetchRows (s : State) (c : Command) (fa k base pitch scl : Nat) (t : FVal) (i : Nat) : Nat → Chk (List (List MElem))
  | 0 => .ok s []
  | n + 1 =>
    let l := blockLen fa
    let sb := if l = 0 then 0 else scl + (if fa = 0x14 then 64 else 0) + i * 64 * ceilDiv (ceilDiv k l) 64
    (s.fetchRow c fa k (addrOf (base + i * pitchOf pitch)) sb t).andThen (fun s r =>
      (s.fetchRows c fa k base pitch scl t (i + 1) n).andThen (fun s rs => .ok s (r :: rs)))

/-- How far spans cover the bytes from p on. -/
def reach (spans : List (Nat × Nat)) : Nat → Nat → Nat
  | 0, p => p
  | f + 1, p =>
    let q := spans.foldl (fun m x => if x.1 ≤ p ∧ m < x.1 + x.2 then x.1 + x.2 else m) p
    if q = p then p else reach spans f q

/-- Tiles that spans cover whole. -/
def wholeTiles (spans : List (Nat × Nat)) : List Nat :=
  ((spans.map (fun x => (x.1 + x.2 - 1) / 1024)).dedup).filter (fun t => decide (1024 * (t + 1) ≤ reach spans spans.length (1024 * t)))

/-- Tiles at virtual addresses are checked whole as they are read whole (R111). -/
def State.checkWhole (s : State) (c : Command) : List Nat → Chk Unit
  | [] => .ok s ()
  | t :: ts => (s.engCheck c .read (1024 * t) 1024).andThen (fun s _ => s.checkWhole c ts)

/-- The A operand of a tile operation (R268, R326): tiles that it holds whole are checked whole (R111). -/
def State.fetchA (s : State) (c : Command) (fa m k base pitch scl : Nat) : Chk (List (List MElem)) :=
  let spans := (List.range m).map (fun i => (addrOf (base + i * pitchOf pitch), 64 * ceilDiv k (rowElems fa)))
  (s.checkWhole c (wholeTiles spans)).andThen fun s _ =>
  if fa = 0x14 then
    (s.engRead c scl 4).andThen (fun s bs => s.fetchRows c fa k base pitch scl (fp32.decode (valueLE bs)) 0 m)
  else s.fetchRows c fa k base pitch scl one 0 m

/-- A byte of the weight buffer; beyond it the manual states no value. -/
def State.wbufByte (s : State) (e off : Nat) : Nat :=
  if off < weightBytes e then (s.byteAt (mxeBase e + off)).toNat else (Config.freeWord s.tick off).toNat % 256
/-- n bytes of the weight buffer as a number. -/
def State.wbuf (s : State) (e off n : Nat) : Nat := packElems 8 ((List.range n).map (fun i => s.wbufByte e (off + i)))

/-- Words of an array of an MXE, as the scale region of B, are under SECDED (R88, R361): one that cannot be corrected is poisoned, and a fault of the fetch. -/
def State.checkScales (s : State) (o : Origin) (used : Nat → Bool) : Chk Unit :=
  let s := s.detectAll ((s.mem.latent.map (·.1)).filter used)
  match s.mem.poison.find? used with
  | some w => .fault s (memCause .poison o) (BitVec.ofNat 64 (8 * w)) 0
  | none => .ok s ()

/-- The tiles of B are checked as they are fetched for decompression (R111). -/
def State.checkWeights (s : State) (e off nt : Nat) : Chk Unit :=
  let r := (List.range nt).foldl (fun (r : State × Option Nat) t =>
    match r.2 with
    | some _ => r
    | none =>
      let a := mxeBase e + off + 1024 * t
      if weightBytes e ≤ off + 1024 * t then r
      else
        let q := (r.1.exposeFlips (a / 1024)).checkTile (a / 1024)
        (q.1, if q.2 then none else some a)) (s, none)
  match r.2 with
  | none => .ok r.1 ()
  | some a => .fault r.1 Cause.hallmarkUncorrectable (BitVec.ofNat 64 a) 0

/-- The B operand, by columns (R326). scl: where the scale region stands; for a configured MXE it follows the tiles. -/
def State.fetchB (s : State) (e fb k n off : Nat) (scl : Option Nat) : Chk (List (List MElem)) :=
  if 0x15 ≤ fb then
    let nb := ceilDiv k 64
    (s.checkWeights e off (ceilDiv (n * nb) (vcPer fb))).andThen (fun s _ =>
      let cb (i : Nat) : Nat := (s.byteAt (mxeBase e + 2097152 + i)).toNat
      let block (q : Nat) : List MElem :=
        vcElems fb cb (s.wbuf e (off + 1024 * (q / vcPer fb) + vcBytes fb * (q % vcPer fb)) (vcBytes fb))
      .ok s ((List.range n).map (fun j => (((List.range nb).map (fun q => block (j * nb + q))).flatten).take k)))
  else
    let epr := rowElems fb
    let rc := ceilDiv k epr
    let nt := ceilDiv (n * rc) 16
    let l := blockLen fb
    (s.checkWeights e off nt).andThen (fun s _ =>
      let reg := scl.getD (off + 1024 * nt)
      let t := if fb = 0x14 then fp32.decode (s.wbuf e reg 4) else one
      let planes := if fb = 0x14 then reg + 64 else reg
      let size := if fb = 0x14 then 256 else 64
      let scaleAt (j q : Nat) : Nat :=
        let r := j * rc + q / epr
        planes + size * (r / 16) + (r % 16 * epr + q % epr) / l
      let used (w : Nat) : Bool := l != 0 && ((fb == 0x14 && (mxeBase e + reg) / 8 == w) ||
        (List.range n).any (fun j => (List.range k).any (fun q => (mxeBase e + scaleAt j q) / 8 == w)))
      (s.checkScales (if scl.isSome then .copyEngine else .fabric) used).andThen (fun s _ =>
        .ok s ((List.range n).map (fun j =>
          let bits := s.wbuf e (off + 64 * j * rc) (64 * rc)
          (List.range k).map (fun q =>
            mElem fb (rowElem fb bits q) (if l = 0 then 0 else s.wbufByte e (scaleAt j q)) t)))))

/-- The accumulators of the first m rows and n columns of a bank are read: their words are under SECDED (R361), and one that
cannot be corrected is poisoned, and a fault of the command that reads it. -/
def State.checkBank (s : State) (o : Origin) (e b m n : Nat) : Chk Unit :=
  let used (w : Nat) : Bool :=
    let off := 8 * w - cellAddr e b 0 0
    decide (cellAddr e b 0 0 ≤ 8 * w) && decide (off < bankBytes e) && decide (off / (4 * bankCols e) < m) && decide (off % (4 * bankCols e) < 4 * n)
  s.checkScales o used

-- mxc (R264, R266..R268)

/-- The byte offset of the first offending word of an mxc message (R264, R266). -/
def msgError (ws : List Word) : Option Nat :=
  let w0 := wordN ws 0
  let w1 := wordN ws 1
  let op := w1 % 16
  let mask := if op = 1 then 0xF else if op = 3 then 0x3FFF else 0x1F
  let ofmt := field w1 10 6
  let used := if op = 1 then [2, 3, 4, 5] else if op = 2 then [2, 3] else if op = 3 then [4, 5] else []
  if 1536 ≤ w0 % 2048 ∨ field w0 47 27 ≠ 0 then some 0
  else if op = 0 ∨ 4 < op ∨ w1 &&& mask ≠ w1 then some 8
  else if op = 3 ∧ (field w1 12 11 = 3 ∨ 4 < ofmt ∨ (w1.testBit 13 ∧ ofmt ≠ 3)) then some 8
  else ([2, 3, 4, 5, 6, 7].find? (fun i =>
    (wordN ws i != 0 && !used.contains i) || (op == 1 && (i == 3 || i == 4) && wordN ws i % 1024 != 0))).map (fun i => 8 * i)

/-- A shape record (R267): rows, columns, format, base, pitch. -/
structure ShapeRec where
  rows : Nat
  cols : Nat
  fmt : Nat
  base : Nat
  pitch : Nat
  deriving DecidableEq, Repr

/-- A shape record from its bytes. DESIGN CHOICE (log entry 67): reserved bits are not looked at. -/
def shapeOf (bs : List Byte) : ShapeRec :=
  let x := valueLE bs
  { rows := x % 65536, cols := field x 31 16, fmt := field x 36 32, base := elemOf 64 1 x, pitch := elemOf 64 2 x }

/-- A shape record is read for the checks of an MM (R268): its fault names word k of the message. -/
def State.readShape (s : State) (x : Tagged) (va : Word) (k : Nat) : Chk ShapeRec :=
  match s.checkAccess s.party { (descReq x) with va := va, size := 32, align := 32, base := {} } with
  | .wait => .wait
  | .fault s c _ _ => .fault s c x.val (BitVec.ofNat 64 (8 * k))
  | .ok s a =>
    let r := s.readWords s.act.core s.act.ctx a.entry a.herdObj (wordsOf a.pa 32)
    .ok r.1 (shapeOf (r.2.map (fun w => bytesLE 8 w.val.toNat)).flatten)

/-- The checks of an MM in their order (R268). -/
def State.mmChecks (s : State) (x : Tagged) (fa fb : Nat) (ws : List Word) : Chk Unit :=
  if wordN ws 1 % 16 ≠ 2 then .ok s ()
  else (s.readShape x (ws.getD 2 0) 2).andThen (fun s a => (s.readShape x (ws.getD 3 0) 3).andThen (fun s b =>
    let fine := mxeFine (wordN ws 0 % 2048)
    let stop (c k : Nat) : Chk Unit := .fault s c x.val (BitVec.ofNat 64 (8 * k))
    if 0x17 < fa ∨ 0x17 < a.fmt then stop Cause.fmtRsv 2
    else if 0x17 < fb ∨ 0x17 < b.fmt then stop Cause.fmtRsv 3
    else if a.fmt ≠ fa then stop Cause.fmtDiffer 2
    else if b.fmt ≠ fb then stop Cause.fmtDiffer 3
    else if !pairOk fine fa fb then stop Cause.formatPair 2
    else if a.cols ≠ b.rows ∨ a.cols = 0 ∨ a.rows = 0 ∨ (if fine then 64 else 32) < a.rows then stop Cause.shape 2
    else if b.cols = 0 ∨ (if fine then 128 else 64) < b.cols then stop Cause.shape 3
    else .ok s ()))

/-- mxc (R242, R243, R268) -/
def execMxc (a b : RegNo) (s : State) : Out :=
  let x := s.me.rgt a
  let gb := s.me.rg b
  let samples := [0x080, 0x081, 0x082, 0x083, 0x085].map s.me.sr
  let fmt (s : State) (n : Nat) : Nat := (s.me.sr n).toNat % 32
  .next (s.exposed (.mxc a b)
    (fun s => s.engineChecks x gb (fun _ ws => msgError ws) (fun s ws => s.mmChecks x (fmt s 0x080) (fmt s 0x081) ws) (.scope 2))
    (fun s => s.performEngine 0x24 0 x gb samples))

-- Commands at the MXE (R269..R272)

/-- The status with which an MXE refuses a command (R269). -/
def State.mxeRefuses (s : State) (e : Nat) (c : Command) : Option Nat :=
  let m := s.mxe e
  let op := c.w 1 % 16
  let bank := m.bank ((c.w 1) / 16 % 2)
  let ints := intCode (wordN c.descB 0 % 32) && intCode (wordN c.descB 1 % 32)
  if m.owner ≠ some (field (c.w 0) 22 11) ∨ m.nonce.toNat ≠ field (c.w 0) 63 48 then some Cause.capStale
  else if !(field (c.w 0) 26 23 &&& m.rights).testBit (op - 1) then some Cause.capRights
  else if op = 2 ∧ bank.cell ≠ 0 ∧ bank.cell ≠ (if ints then 2 else 1) then some Cause.formatPair
  else if op = 1 ∧ weightBytes e < c.w 3 + c.w 4 then some Cause.shape
  else none

/-- The head command of an MXE ends with a status. -/
def State.mxeDone (s : State) (e : Nat) (c : Command) (status : Nat) : State :=
  let s := s.onMxe e (fun m => { m with queue := m.queue.drop 1, waiting := none, running := none })
  s.completeCommand 3 c status (if status = 0 ∨ status = Cause.codebook then c.byteCount else 0) 0

/-- A fault of a fetch or of a drain's write: a record, and the command waits (R249, R271). -/
def State.mxeRecord (s : State) (e : Nat) (c : Command) (cause : Nat) (va : Word) : State :=
  (s.onMxe e (fun m => { m with waiting := some c.id })).postFault
    { cause := cause, sev := 1, src := 5, handle := c.handle, launch := some (launchOfHandle c.handle), loc := siteOfMxe e
      tval := va, aux := c.descAddr, agent := .mxe e }

/-- The head command of the MXE that operand 0 names is performed when its op is the given one: refused (R269), ended by
an abort, or run. One that has passed its checks is checked no more. -/
def State.mxeCommand (s : State) (op : Nat) (run : State → Nat → Command → Chk Nat) : Out :=
  let e := s.arg 0
  match (s.mxe e).queue with
  | [] => .next s
  | c :: _ =>
    if c.w 1 % 16 ≠ op ∨ ((s.mxe e).waiting.isSome || s.posterHeld (fun r => r.src == 5 && r.loc == siteOfMxe e)) = true then .next s
    else if s.dev.retired.contains (siteOfMxe e) then .next (s.mxeDone e c Cause.capStale)
    else if c.status ≠ 0 then .next (s.mxeDone e c c.status)
    else match (if (s.mxe e).running = some c.id then none else s.mxeRefuses e c) with
      | some st => .next (s.mxeDone e c st)
      | none =>
        let s := s.onMxe e (fun m => { m with running := some c.id })
        match run s e c with
        | .ok s st => .next (s.mxeDone e c st)
        | .fault _ cause va _ => .next (s.mxeRecord e c cause va)
        | .wait => .next s

/-- Tiles copied into the weight buffer with their hallmarks (R114, R270). -/
def State.loadTiles (s : State) (c : Command) (e : Nat) (i : Nat) : Nat → Chk Unit
  | 0 => .ok s ()
  | n + 1 =>
    (s.engRead c (c.w 2 + 1024 * i) 1024).andThen (fun s bs =>
      let a := mxeBase e + c.w 3 + 1024 * i
      let s := (s.dropFlips a 1024).putBytes a bs
      State.loadTiles { s with mem := { s.mem with hallmarks := mdel s.mem.hallmarks (a / 1024) } } c e (i + 1) n)

/-- A codebook that may be loaded (R91). -/
def codebookOk (bs : List Byte) : Bool := bs.all (fun b => decide (b.toNat < 16) && b != 8)
/-- The default set (R91). -/
def defaultSet : List Byte := (List.range 2048).map (fun a => if (a / 8).testBit (a % 8) then 3 else 1)
/-- A codebook is loaded, or the previous one kept: the status (R91, R270). -/
def State.loadCodebook (s : State) (e : Nat) (bs : List Byte) : State × Nat :=
  if codebookOk bs then (s.putBytes (mxeBase e + 2097152) bs, 0) else (s, Cause.codebook)

/-- LOADW (R270). Operand: the MXE. -/
def execLoadw (s : State) : Out :=
  s.mxeCommand 1 (fun s e c =>
    (s.loadTiles c e 0 (c.w 4 / 1024)).andThen (fun s _ =>
      if c.w 5 = 0 then
        let r := s.loadCodebook e defaultSet
        .ok r.1 r.2
      else (s.engRead c (c.w 5) 2048).andThen (fun s bs =>
        let r := s.loadCodebook e bs
        .ok r.1 r.2)))

/-- Flags of an MXE that a graph launch holds are sticky in its status (R99, R417); a thread's tile operation has no place
for them in its record (R246). -/
def State.mxeFlags (s : State) (e flags : Nat) : State :=
  if (s.mxe e).fabric then s.graphFlags (siteOfMxe e) flags else s

/-- MM (R271). Operand: the MXE. -/
def execMm (s : State) : Out :=
  s.mxeCommand 2 (fun s e c =>
    let fa := wordN c.descB 0 % 32
    let fb := wordN c.descB 1 % 32
    (s.engRead c (c.w 2) 32).andThen (fun s ra => (s.engRead c (c.w 3) 32).andThen (fun s rb =>
      let a := shapeOf ra
      let b := shapeOf rb
      (s.fetchA c fa a.rows a.cols a.base a.pitch (wordN c.descB 2)).andThen (fun s rows =>
        (s.fetchB e fb a.cols b.cols b.base (some (wordN c.descB 3))).andThen (fun s cols =>
        (s.checkBank .copyEngine e (c.w 1 / 16 % 2) a.rows b.cols).andThen (fun s _ =>
          let r := s.tileOp e (c.w 1 / 16 % 2) { fa := fa, fb := fb, rows := rows, cols := cols }
          .ok (r.1.mxeFlags e r.2) 0))))))

/-- The rows of a drain are written, row i at c + i·e (R272). -/
def State.writeRows (s : State) (c : Command) (bank e n i : Nat) : Nat → Chk Unit
  | 0 => .ok s ()
  | m + 1 =>
    let fmt := field (c.w 1) 10 6
    let rs := s.drainRow e bank i n fmt (field (c.w 1) 12 11) ((c.w 1).testBit 13)
    let bs := (rs.map (fun r => bytesLE (codeBits fmt / 8) r.bits)).flatten
    (s.engWrite c (addrOf (c.w 4 + i * pitchOf (c.w 5))) bs).andThen (fun s _ =>
      (s.mxeFlags e (resFlags rs)).writeRows c bank e n (i + 1) m)

/-- DRAIN (R272). Operand: the MXE. -/
def execDrain (s : State) : Out :=
  s.mxeCommand 3 (fun s e c =>
    let b := c.w 1 / 16 % 2
    let k := (s.mxe e).bank b
    if k.m = 0 then .ok s Cause.shape
    else (s.checkBank .copyEngine e b (bankRows e) (bankCols e)).andThen (fun s _ =>
      let r := s.settleBank e b (wordN c.descB 4 % 32)
      let r := if r.2.unchecked then (r.1.mxeFlags e 256, r.2) else r
      match r.2 with
      | .mismatch _ =>
        .ok (r.1.postFault { cause := Cause.hallmarkMismatch, sev := 3, src := 5, handle := c.handle
                             launch := some (launchOfHandle c.handle), loc := siteOfMxe e, aux := c.descAddr }) Cause.hallmarkMismatch
      | t =>
        let s := match t with
          | .rebuilt _ i j old new =>
            (r.1.mxeFlags e 128).postEvq 3 (r.1.evqOf c.handle) (launchOfHandle c.handle)
              [eventWord0 0x0021 c.handle, c.descAddr, BitVec.ofNat 64 (i + 65536 * j), BitVec.ofNat 64 (old + 2 ^ 32 * new)]
          | _ => r.1
        (s.writeRows c b e k.n 0 k.m).andThen (fun s _ =>
          .ok (if (c.w 1).testBit 5 then s.clearBank e b else s) 0)))

/-- CLEAR (R272). Operand: the MXE. -/
def execClear (s : State) : Out :=
  s.mxeCommand 4 (fun s e c => .ok (s.clearBank e (c.w 1 / 16 % 2)) 0)

-- Matrix modes of the fabric (R327, R328)

/-- The mode field of an MXE's plane (R66). -/
def PlaneSlot.aFmt (p : PlaneSlot) : Nat := p.bits 196 192
def PlaneSlot.bFmt (p : PlaneSlot) : Nat := p.bits 201 197
def PlaneSlot.tau (p : PlaneSlot) : Nat := p.bits 206 202
def PlaneSlot.bank (p : PlaneSlot) : Nat := p.bits 207 207

/-- A POISON token at a matrix input is a sink's, and counts as zero data under the poison flag (R290). -/
def State.mxToken (s : State) (n : Nat) (t : Token) : State × Token :=
  if t.kind = 6 then (s.poisonSink n t, { last := t.last }) else (s, t)

/-- The site's element state changed. -/
def State.onElem (s : State) (n : Nat) (f : Elem → Elem) : State := s.onSite n (fun x => { x with elem := f x.elem })

/-- mx.loadb (R328): tokens beyond the buffer are not written, and the last of them faults. -/
def execMxLoadb (s : State) : Out :=
  s.firing (fun _ => true) false (fun s n ts =>
    let q := s.mxToken n (ts.getD 0 {})
    if (q.1.site n).stopped then q.1
    else
      let s := q.1
      let t := q.2
      let e := mxeOfSite n
      let imm := (s.site n).plane.imm
      let book := if imm.testBit 12 then 32 else 0
      let buf := (s.site n).elem.buf ++ (if (s.site n).elem.cnt < book then [t] else [])
      let cnt := (s.site n).elem.cnt + 1
      let shape (s : State) : State := s.graphFault n Cause.shape 2 (siteVal n) (BitVec.ofNat 64 cnt) 0
      let s := s.onElem n (fun y => { y with cnt := cnt, buf := buf })
      let off := imm % 4096 * 1024 + 64 * (cnt - 1 - book)
      let beyond := decide (book < cnt) && decide (weightBytes e < off + 64)
      if beyond && t.last then shape s
      else
        let s := if cnt ≤ book || beyond then s
          else
            let s := s.onMxe e (fun m => { m with wbuf := true })
            let s := (s.dropFlips (mxeBase e + off) 64).putBytes (mxeBase e + off) (bytesLE 64 t.payload.toNat)
            if off % 1024 = 960 then { s with mem := { s.mem with hallmarks := mdel s.mem.hallmarks ((mxeBase e + off) / 1024) } } else s
        if !t.last then s
        else if cnt ≤ book ∨ (cnt - book) % 16 ≠ 0 then shape s
        else
          let set := if book = 0 then defaultSet else (buf.map (fun t => bytesLE 64 t.payload.toNat)).flatten
          let r := s.loadCodebook e set
          let s := r.1.onElem n (fun y => { y with cnt := 0, buf := [] })
          if r.2 = 0 then s else s.graphFault n Cause.codebook 2 (siteVal n) (BitVec.ofNat 64 cnt) 0)

/-- A row of A from the tokens of an invocation (R295, R328). -/
def tokenRow (fa k : Nat) (ts : List Token) : List MElem :=
  if isBx fa then
    (List.range k).map (fun q =>
      let x := (ts.getD (q / 32) {}).payload.toNat
      mElem fa (elemOf (codeBits fa) (q % 32) x) (field x 511 504) one)
  else
    let bits := packElems 512 (ts.map (fun t => t.payload.toNat))
    (List.range k).map (fun q => mElem fa (rowElem fa bits q) 0 one)

/-- Tokens of a row of A (R328). -/
def PlaneSlot.aTokens (p : PlaneSlot) : Nat :=
  if isBx p.aFmt then ceilDiv p.depth 32 else ceilDiv (p.depth * codeBits p.aFmt) 512

/-- An invocation of mx.mm ends after the tokens buf (R328): its whole rows are accumulated as one tile operation, and cause,
unless it is 0, is raised; the cells accumulated remain with their value hallmark. DESIGN CHOICE (log entry 45): the rows
that have been accumulated when SHAPE is met are those that are whole. -/
def State.mmEnd (s : State) (n : Nat) (buf : List Token) (cause : Nat) : Chk Unit :=
  let p := (s.site n).plane
  let e := mxeOfSite n
  let m := min (field p.imm 17 12 + 1) (buf.length / max 1 p.aTokens)
  let stop (s : State) (c : Nat) : Chk Unit :=
    .ok ((s.onElem n (fun y => { y with buf := buf })).graphFault n c 2 (siteVal n) (BitVec.ofNat 64 buf.length) 0) ()
  let rows := (List.range m).map (fun i => tokenRow p.aFmt p.depth ((buf.drop (i * p.aTokens)).take p.aTokens))
  let o : TileOp := { fa := p.aFmt, fb := p.bFmt, rows := rows, cols := [] }
  let cell := ((s.mxe e).bank p.bank).cell
  if m = 0 then stop s cause
  else if cell ≠ 0 ∧ cell ≠ o.cell then stop s Cause.formatPair
  else (s.fetchB e p.bFmt p.depth (field p.imm 24 18 + 1) (p.imm % 4096 * 1024) none).andThen (fun s b =>
    (s.checkBank .fabric e p.bank m (field p.imm 24 18 + 1)).andThen (fun s _ =>
    let r := s.tileOp e p.bank { o with cols := b }
    let s := r.1.graphFlags n r.2
    if cause ≠ 0 then stop s cause else .ok (s.onElem n (fun y => { y with buf := [], inv := y.inv + 1 })) ()))

/-- The outcome of an invocation's end; a fault or a wait leaves the state before it. The iteration vector of a fault is zero: a
matrix element has no sequencer (R330). -/
def State.mmResult (s0 : State) (n : Nat) : Chk Unit → State
  | .ok s _ => s
  | .fault _ c a _ => s0.graphFault n c 1 a 0 0
  | .wait => s0

/-- The round of a plane has made its ninv invocations (R310); none where ninv is 0. DEDUCED (log entry 45): the element then
takes only markers until the round ends (R309). -/
def Site.spent (x : Site) : Bool := x.plane.bits 143 128 != 0 && decide (x.plane.bits 143 128 ≤ x.elem.inv)

/-- mx.mm (R328): a last before the M-th row is whole or missing at its end faults with SHAPE, and so does a marker inside an
invocation. -/
def execMxMm (s : State) : Out :=
  let n := s.act.site
  let x := s.site n
  if x.acts && x.midTile && x.taken.isEmpty && ((x.head (x.plane.reads.headD 0)).map Token.marker).getD false then
    .next (s.mmResult n (s.mmEnd n x.elem.buf Cause.shape))
  else if x.spent then .next s
  else s.firing (fun _ => true) false (fun s0 n ts =>
    let q := s0.mxToken n (ts.getD 0 {})
    if (q.1.site n).stopped then q.1
    else
      let s := q.1
      let p := (s.site n).plane
      let buf := (s.site n).elem.buf ++ [q.2]
      let held := s0.onSite n (fun x => { x with taken := ts })
      if decide (buf.length < (field p.imm 17 12 + 1) * p.aTokens) && !q.2.last then s.onElem n (fun y => { y with buf := buf })
      else
        let whole := decide ((field p.imm 17 12 + 1) * p.aTokens ≤ buf.length) && q.2.last
        held.mmResult n (s.mmEnd n buf (if whole then 0 else Cause.shape)))

/-- The tokens of a drained row: those of n cells in ascending column order. -/
def rowTokens (w : Nat) (codes : List Nat) : List Token :=
  (runsOf (512 / w) codes).map (fun c => dataTok (packElems w c) (ceilDiv (c.length * w) 32) false)

/-- The last token of a list carries last. -/
def closeLast : List Token → List Token
  | [] => []
  | [t] => [{ t with last := true }]
  | t :: ts => t :: closeLast ts

/-- An invocation of mx.drain (R328). -/
def State.mxDrainOnce (s : State) (n : Nat) : State :=
  let p := (s.site n).plane
  let e := mxeOfSite n
  match s.checkBank .fabric e p.bank (bankRows e) (bankCols e) with
  | .wait => s
  | .fault s c a _ => s.graphFault n c 1 a 0 0
  | .ok s _ =>
  let m := p.imm % 64 + 1
  let k := field p.imm 12 6 + 1
  let w := codeBits p.fout
  let cells (s : State) : List (List FRes) :=
    (List.range m).map (fun i => s.drainRow e p.bank i k p.fout (p.bits 19 18) (p.bits 21 21 == 1))
  let rows (s : State) : List Token := closeLast (((cells s).map (fun r => rowTokens w (r.map (·.bits)))).flatten)
  let r := s.settleBank e p.bank p.tau
  let s := if r.2.unchecked then r.1.graphFlags n 256 else r.1
  match r.2 with
  | .mismatch _ =>
    if p.poison then
      s.emit n (closeLast ((rows s).map (fun _ => { payload := poisonPayload Cause.hallmarkMismatch 0 n, kind := 6 })))
    else s.graphFault n Cause.hallmarkMismatch 2 (siteVal n) 0 0
  | t =>
    let s := match t with
      | .rebuilt _ i j old new =>
        (s.graphFlags n 128).postToLaunch 3 (s.launchOf n)
          [eventWord0 0x0021 0xFFFFFFFF, 0, BitVec.ofNat 64 (i + 65536 * j), BitVec.ofNat 64 (old + 2 ^ 32 * new)]
      | _ => s
    let s := (s.graphFlags n (resFlags (cells s).flatten)).emit n (rows s)
    if p.imm.testBit 13 then s.clearBank e p.bank else s

/-- mx.drain (R328): EOR after ninv invocations; at an invocation's end it stops for a drain (R424). -/
def execMxDrain (s : State) : Out :=
  let n := s.act.site
  let x := s.site n
  let p := x.plane
  if !x.acts || !x.outFree then .next s
  else if p.bits 143 128 ≠ 0 ∧ p.bits 143 128 ≤ x.elem.inv then
    .next ((s.emit n [{ kind := 2 }]).onSite n (fun x => { x with ending := true }))
  else if s.draining n then .next ((s.emit n [{ kind := 5 }]).onSite n (fun x => { x with drained := true }))
  else
    let s := (s.noteFire n).mxDrainOnce n
    if (s.site n).stopped then .next s
    else .next (s.onElem n (fun y => { y with inv := y.inv + 1 }))

/-- The grant of mx.msg at its activation (R328): the capability is stored with a release. A restored element (words 2) has
its rights and its banks, under a nonce that has moved on (R265, R426): its new capability is stored alone (log entry 79). -/
def State.mxGrant (s : State) (n : Nat) : State :=
  let p := (s.site n).plane
  let e := mxeOfSite n
  let l := s.launchOf n
  let s1 := if (s.site n).elem.words = 2 then s else s.assignMxe e (some l) (p.imm % 16) true
  let va := ((s.liveLaunch l).record.getD 6 0).toNat + 8 * (p.imm / 65536)
  match s1.agentCheck (s1.graphParty l) .write .fabric 0 va 8 with
  | .ok s2 ps =>
    let s2 := s2.agentBytes ps (bytesLE 8 (s2.capability e))
    s2.onElem n (fun y => { y with words := 1 })
  | .fault _ c a _ => s.graphFault n c 1 a 0 0
  | .wait => s

/-- mx.msg (R328): the MXE serves mxc; a DATA token at its input faults. -/
def execMxMsg (s : State) : Out :=
  let n := s.act.site
  let x := s.site n
  if !x.acts then .next s
  else if x.elem.words ≠ 1 then .next (s.mxGrant n)
  else s.firing (fun _ => true) true (fun s n ts =>
    let t := ts.getD 0 {}
    if t.kind = 6 then s.poisonSink n t
    else s.graphFault n Cause.tokenKind 2 (siteVal n) (BitVec.ofNat 64 t.kind) 0)

end Sys2Proof.Machine
end

