-- ==== Sys2Proof/Machine/Router.lean ====
section
/-!
DEFINITION. The router operators steer, merge and carry (R291..R293).
-/

namespace Sys2Proof.Machine

/-- The control token at the cin link that the router operator has not taken (R276). -/
def Site.ctlHead (x : Site) : Option Bool :=
  match mfind x.ctl (x.plane.bits 97 96) with
  | some t => if t.2.contains 4 then some t.1 else none
  | none => none
/-- The router operator takes the control token. -/
def Site.takeCtl (x : Site) : Site := x.tookCtl (x.plane.bits 97 96) 4
/-- The operator may act. -/
def Site.routes (x : Site) : Bool := x.running && !x.rstopped && x.change.isNone

/-- A token on the operator's first output. -/
def Site.putOp0 (x : Site) (t : Token) : Site := { x with op0 := heldReg t (x.plane.takers 6) }
/-- A token on the operator's second output. -/
def Site.putOp1 (x : Site) (t : Token) : Site := { x with op1 := heldReg t (x.plane.takers 7) }

/-- STEER (R291). -/
def execSteer (s : State) : Out :=
  let n := s.act.site
  let x := s.site n
  match x.rin0 with
  | none => .next s
  | some t =>
    if !x.routes then .next s
    else if t.marker then
      if x.op0.isSome || x.op1.isSome then .next s
      else .next (s.onSite n (fun x => ({ x with rin0 := none }.putOp0 t).putOp1 t))
    else match x.ctlHead with
      | none => .next s
      | some c =>
        let second := c != (x.plane.bits 95 95 == 1)
        if (if second then x.op1.isSome else x.op0.isSome) then .next s
        else .next (s.onSite n (fun x =>
          let y := { x.takeCtl with rin0 := none }
          if second then y.putOp1 t else y.putOp0 t))

/-- A fault of the router operator (R292): s.tval2 names the input, its source and the kind found. -/
def State.routerFault (s : State) (n input kind : Nat) : State :=
  let x := s.site n
  let code := if input = 0 then x.plane.src 4 else x.plane.bits 94 92
  let s := s.onSite n (fun x => { x with rstopped := true })
  s.postFault { cause := Cause.portOrder, sev := 2, src := if siteMxe n then 5 else 4, launch := x.launch, loc := n
                tval := siteVal n, tval2 := portOrder input ((code + 3) % 4) kind, aux := x.plane.addr
                agent := .fabric (x.launch.getD 0) n }

/-- MERGE (R292). -/
def execMerge (s : State) : Out :=
  let n := s.act.site
  let x := s.site n
  let mark (t : Option Token) : Bool := (t.map Token.marker).getD false
  if !x.routes || x.op0.isSome then .next s
  else
    match x.rin0, x.rin1 with
    | some a, some b =>
      if a.marker && b.marker then
        if a.kind = b.kind then
          let p := if a.payload.toNat < b.payload.toNat then b.payload else a.payload
          .next (s.onSite n (fun x => { x with rin0 := none, rin1 := none }.putOp0 { a with payload := p }))
        else .next (s.routerFault n 1 b.kind)
      else match x.ctlHead with
        | none => .next s
        | some c =>
          let t := if c then b else a
          if t.marker then .next (s.routerFault n (b2n c) t.kind)
          else .next (s.onSite n (fun x =>
            { x.takeCtl with rin0 := if c then x.rin0 else none, rin1 := if c then none else x.rin1 }.putOp0 t))
    | _, _ =>
      match x.ctlHead with
      | none => .next s
      | some c =>
        match (if c then x.rin1 else x.rin0) with
        | none => .next s
        | some t =>
          if mark (some t) then .next s
          else .next (s.onSite n (fun x =>
            { x.takeCtl with rin0 := if c then x.rin0 else none, rin1 := if c then none else x.rin1 }.putOp0 t))

/-- CARRY (R293). -/
def execCarry (s : State) : Out :=
  let n := s.act.site
  let x := s.site n
  if !x.routes then .next s
  else if x.awaitMarker then
    match x.rin0 with
    | some t => if t.marker then .next (s.onSite n (fun x => { x with rin0 := none, awaitMarker := false })) else .next s
    | none => .next s
  else if x.op0.isSome then .next s
  else if x.atEntry then
    match x.rin1 with
    | some t =>
      if t.marker then .next (s.onSite n (fun x => { x with rin1 := none, awaitMarker := true }.putOp0 t))
      else .next (s.onSite n (fun x => { x with rin1 := none, atEntry := t.last }.putOp0 t))
    | none => .next s
  else
    match x.rin0 with
    | some t =>
      if t.marker then .next (s.onSite n (fun x => { x with rin0 := none }))
      else .next (s.onSite n (fun x => { x with rin0 := none, atEntry := t.last }.putOp0 t))
    | none => .next s

end Sys2Proof.Machine
end

