-- ==== Sys2Proof/Machine/Sequencer.lean ====
section
/-!
DEFINITION. Access sequencers (R311..R324): their words, the input and output queues, invocations with their commit and
replay, fences, drains and the round's end.
-/

namespace Sys2Proof.Machine

-- Plain access

/-- A site's sequencer changed. -/
def State.onSeq (s : State) (n : Nat) (f : Seq → Seq) : State := s.onSite n (fun x => { x with seq := f x.seq })
/-- A sequencer's registers changed. -/
def Seq.onR (q : Seq) (f : SeqRegs → SeqRegs) : Seq := { q with r := f q.r }
/-- The next word. -/
def Seq.step (q : Seq) : Seq := q.onR (fun r => { r with pc := (r.pc + 1) % 64 })
/-- The word at pc 'to' follows. -/
def Seq.jump (q : Seq) (dest : Nat) : Seq := q.onR (fun r => { r with pc := dest % 64 })
/-- Base register, stride, counter and limit. -/
def SeqRegs.base (r : SeqRegs) (k : Nat) : Word := mget 0 r.b k
def SeqRegs.stride (r : SeqRegs) (k : Nat) : Word := mget 0 r.t k
def SeqRegs.count (r : SeqRegs) (k : Nat) : Nat := mget 0 r.n k
def SeqRegs.limit (r : SeqRegs) (k : Nat) : Nat := mget 0 r.lim k
/-- The iteration vector (R330). -/
def SeqRegs.vector (r : SeqRegs) : Word :=
  BitVec.ofNat 64 (((List.range 4).map (fun k => r.count k % 65536 * 65536 ^ k)).sum)

/-- Words 0..63 of a plane's program: its own 64 words, which targets number (R506). -/
def PlaneSlot.progWord (p : PlaneSlot) (k : Nat) : BitVec 32 := p.seq.getD (k % 64) 0
/-- The operation of a program word (R70). -/
def seqOpOf (w : BitVec 32) : Nat := w.toNat / 2 ^ 27
/-- The loop word of an endl, by its number (R71). -/
def PlaneSlot.endlOf (p : PlaneSlot) (k : Nat) : Nat :=
  ((List.range 64).find? (fun j => seqOpOf (p.progWord j) == 5 && field (p.progWord j).toNat 24 19 == k)).getD k
/-- The loop word of the outermost loop (R316). -/
def PlaneSlot.outermost (p : PlaneSlot) : Option Nat := (List.range 64).find? (fun j => seqOpOf (p.progWord j) == 4)
/-- The program holds a sync of a level. -/
def PlaneSlot.syncs (p : PlaneSlot) (level : Nat) : Bool :=
  (List.range 64).any (fun j => seqOpOf (p.progWord j) == 15 && field (p.progWord j).toNat 26 25 == level)

-- Faults (R317, R330)

/-- An access of the invocation has faulted: the sequencer stops and its held stores are discarded (R317). -/
def State.seqFault (s : State) (n cause sev : Nat) (tval tval2 : Word) : State :=
  let v := (s.site n).seq.r.vector
  (s.graphFault n cause sev tval tval2 v).onSeq n (fun q => { q with held := [] })
/-- A fault of an access: its address and the iteration vector (R330). -/
def State.accessFault (s : State) (n cause : Nat) (tval : Word) : State :=
  s.seqFault n cause 1 tval (s.site n).seq.r.vector
/-- A fault of the site, with the iteration vector in s.tval2 (R330). -/
def State.siteFault (s : State) (n cause : Nat) : State := s.seqFault n cause 2 (siteVal n) (s.site n).seq.r.vector

/-- The causes of a generator's access: a MEM kind with origin fabric generator, or a hallmark (R404, R406, R418). -/
def generatorCause (c : Nat) : Bool := (decide (64 ≤ c) && decide (c < 128) && c % 8 == 7) || c == Cause.hallmarkUncorrectable

/-- GENERATOR_FAULT (R317): an access faults at its TLB slice; the sequencer stops and reports. Operands: cause, address. -/
def execGeneratorFault (s : State) : Out :=
  let n := s.act.site
  if (s.site n).running && (s.site n).seq.mode == .run && generatorCause (s.arg 0) then
    .next (s.accessFault n (s.arg 0) (BitVec.ofNat 64 (s.arg 1)))
  else .next s

/-- A fault of an emit's access: the report is a step of its own. -/
def State.genFault (s : State) (n cause : Nat) (a : Word) : State := s.follow 0 0 n [cause, a.toNat] .generatorFault

-- Addresses (R314, R478)

/-- The first byte of the own-tile window (R478). -/
def ownTile : Nat := 0xFF00000000000000

/-- The checks of an access of a memory tile's own scratch, which needs no mapping (R478). -/
def State.ownCheck (s : State) (pa size : Nat) (reads : Bool) (va : Word) : Chk Nat :=
  let ws := wordsOf pa size
  if s.mem.converting.any (fun c => decide (c.1 ≤ pa) && decide (pa < c.1 + 65536)) then .wait
  else if !reads then .ok s pa
  else if ws.any s.poisoned then .fault (s.detectAll ws) (memCause .poison .fabric) va 0
  else
    let s := s.detectAll ws
    if s.inTile pa then
      let c := s.checkRows (pa / 1024) (pa % 1024 / 64) ((pa % 1024 + size - 1) / 64)
      if c.2 then .ok c.1 pa else .fault c.1 Cause.hallmarkUncorrectable va 0
    else .ok s pa

/-- The physical address of an access of 2^sz bytes, checked (R314). A store of part of a poisoned word faults (R155). -/
def State.seqAddr (s : State) (n : Nat) (write : Bool) (ea : Word) (size : Nat) : Chk Nat :=
  let va := ea.toNat
  if va % size ≠ 0 then .fault s (memCause .align .fabric) ea 0
  else if ownTile ≤ va ∧ va < ownTile + 2097152 then s.ownCheck (mtBase n + (va - ownTile)) size (!write || decide (size < 8)) ea
  else if ownTile ≤ va ∧ va < ownTile + 4294967296 then .fault s (memCause .notMapped .fabric) ea 0
  else
    let l := s.agentSpan (s.graphParty (s.launchOf n)) (if write then .write else .read) .fabric 0 (va, size)
    l.andThen (fun s l =>
      let narrow : Bool := write && decide (size < 8)
      if narrow && (wordsOf l.pa size).any s.poisoned then
        .fault (s.detectAll (wordsOf l.pa size)) (memCause .poison .fabric) ea 0
      else .ok s l.pa)

-- Output queues (R312, R321)

/-- The 32-bit form of SPARSE entries is a queue's: FP32, or I32 by imm32[0] (R321). -/
def wideEntries (fmt : Nat) : Bool := fmt == 0
/-- Bytes of an element of a queue format. -/
def entryBytes (fmt : Nat) : Nat := if wideEntries fmt then 4 else 2
/-- A SPARSE token of entries: value and coordinate (R275). -/
def sparseTok (fmt : Nat) (es : List (Nat × Nat)) (last : Bool) : Token :=
  let f := sparseForm (8 * entryBytes fmt)
  { payload := BitVec.ofNat 512 (packElems f.2.1 (es.map (fun e => e.1 % 2 ^ f.1 + 2 ^ f.1 * (e.2 % 65536))))
    kind := 1, last := last, vcnt := es.length % 16 }
/-- A DATA token of bytes (R312). -/
def byteTok (bs : List Byte) (last : Bool) : Token :=
  { payload := BitVec.ofNat 512 (valueLE bs), last := last, vcnt := ceilDiv bs.length 4 % 16 }

/-- The partial token of an output queue closes; its bytes, and all before them, are covered (R317). -/
def State.closeQueue (s : State) (n q : Nat) (last : Bool) : State :=
  let x := s.site n
  let covered (y : Seq) : Seq := { y with skip := mset y.skip q (max (mget 0 y.skip q) (mget 0 y.fed q)) }
  if x.op = 0x82 then
    let es := mget [] x.seq.pack q
    let fmt := mget 0 x.seq.r.ofmt q
    if es.isEmpty then s
    else (s.emit n [sparseTok fmt es last]).onSeq n (fun y => covered { y with pack := mset y.pack q [] })
  else
    let bs := mget [] x.seq.oq q
    if bs.isEmpty then s
    else (s.emit n [byteTok bs last]).onSeq n (fun y => covered { y with oq := mset y.oq q [] })

/-- Bytes are appended to an output queue: a full token closes when a further byte comes (R312). -/
def State.appendDense (s : State) (n q : Nat) (bs : List Byte) : State :=
  let cur := mget [] (s.site n).seq.oq q
  let room := 64 - cur.length
  let put (s : State) (xs : List Byte) : State :=
    s.onSeq n (fun y => { y with oq := mset y.oq q (mget [] y.oq q ++ xs), fed := mset y.fed q (mget 0 y.fed q + xs.length) })
  if bs.length ≤ room then put s bs
  else put ((put s (bs.take room)).closeQueue n q false) (bs.drop room)

/-- An element of the value zero: both zeros of a float (R321). -/
def zeroElem (isInt : Bool) (fmt x : Nat) : Bool :=
  if isInt && wideEntries fmt then x == 0
  else if fmt = 0x0D then x == 0
  else x % 2 ^ (8 * entryBytes fmt - 1) == 0

/-- One element of mt.spack: a nonzero one becomes an entry (R321). -/
def State.packElem (s : State) (n q : Nat) (bs : List Byte) : State :=
  let x := s.site n
  let fmt := mget 0 x.seq.r.ofmt q
  let v := valueLE bs
  let idx := mget 0 x.seq.fed q / entryBytes fmt
  let s :=
    if zeroElem (x.plane.imm % 2 == 1) fmt v then s
    else
      let full := (sparseForm (8 * entryBytes fmt)).2.2
      let s := if full ≤ (mget [] x.seq.pack q).length then s.closeQueue n q false else s
      s.onSeq n (fun y => { y with pack := mset y.pack q (mget [] y.pack q ++ [(v, idx % 65536)]), packed := mset y.packed q true })
  s.onSeq n (fun y => { y with fed := mset y.fed q (mget 0 y.fed q + bs.length) })

/-- Bytes of mt.spack, element by element. -/
def State.appendPack (s : State) (n q : Nat) (w : Nat) : Nat → List Byte → State
  | 0, bs => s.onSeq n (fun y => { y with packPart := mset y.packPart q bs })
  | f + 1, bs =>
    if bs.length < w then s.onSeq n (fun y => { y with packPart := mset y.packPart q bs })
    else (s.packElem n q (bs.take w)).appendPack n q w f (bs.drop w)

/-- Loaded bytes go to an output queue, less those that delivered tokens cover (R317). -/
def State.append (s : State) (n q : Nat) (bs : List Byte) : State :=
  let x := s.site n
  let d := min (mget 0 x.seq.skipNow q) bs.length
  let s := s.onSeq n (fun y => { y with skipNow := mset y.skipNow q (mget 0 y.skipNow q - d), fed := mset y.fed q (mget 0 y.fed q + d) })
  let rest := bs.drop d
  if rest.isEmpty then s
  else if x.op = 0x82 then
    let all := mget [] x.seq.packPart q ++ rest
    s.appendPack n q (entryBytes (mget 0 x.seq.r.ofmt q)) all.length all
  else s.appendDense n q rest

/-- Bytes at a physical address as the held stores of the invocation leave them, in emit order (R314). -/
def heldBytes (held : List SeqStore) (pa : Nat) (bs : List Byte) : List Byte :=
  held.foldl (fun bs st => bs.zipIdx.map (fun b =>
    if st.pa ≤ pa + b.2 ∧ pa + b.2 < st.pa + st.bytes.length then st.bytes.getD (pa + b.2 - st.pa) 0 else b.1)) bs

/-- Bytes are read and appended: none while the access waits (R314); a load sees the stores that its invocation has emitted
before it; a load behind delivered tokens is not repeated (R317). -/
def State.seqLoad (s : State) (n q : Nat) (ea : Word) (size : Nat) : Option State :=
  if size ≤ mget 0 (s.site n).seq.skipNow q then some (s.append n q (List.replicate size 0))
  else match s.seqAddr n false ea size with
    | .ok s pa => some (s.append n q (heldBytes (s.site n).seq.held pa (s.homeBytes [(pa, size)])))
    | .fault s c a _ => some (s.genFault n c a)
    | .wait => none

-- Input queues (R312, R315, R318, R319)

/-- What the head of an input queue holds for an emit that wants data. -/
inductive Head where
  | data (t : Token)
  | none
  /-- the emit cannot go on: it faulted, or a fence was taken -/
  | stop (s : State)
  deriving DecidableEq, Repr

/-- The read index of a port (R280). -/
def PlaneSlot.readIndex (p : PlaneSlot) (q : Nat) : Nat := (p.reads.findIdx? (fun k => k == q)).getD 0

/-- The head of an input queue (R318, R319, R290). -/
def State.inHead (s : State) (n q : Nat) : Head :=
  let x := s.site n
  match mget [] x.seq.iq q with
  | [] => .none
  | t :: ts =>
    if t.kind = 4 then
      .stop (s.onSeq n (fun y => { y with iq := mset y.iq q ts, fence := some (t.payload.toNat % 4, true), fenceFrom := q }))
    else if t.marker then .stop (s.seqFault n Cause.portOrder 2 (siteVal n) (portOrder (x.plane.readIndex q) q t.kind))
    else if t.kind = 7 then .stop (s.seqFault n Cause.tokenKind 2 (siteVal n) 7)
    else if t.kind = 6 then
      if x.plane.poison then .data t
      else .stop (s.seqFault n Cause.poisonSink 2 (siteVal n) (BitVec.ofNat 64 t.payload.toNat))
    else if (t.kind == 1) != (x.op == 0x83) then
      .stop (s.seqFault n Cause.tokenKind 2 (siteVal n) (BitVec.ofNat 64 t.kind))
    else .data t

/-- Tokens kept for the invocation (R315). -/
def Seq.keptCount (q : Seq) : Nat := (q.kept.map (fun e => e.2.length)).sum
/-- The head token is released and kept for replay; the 65th kept token faults (R315). -/
def State.releaseTok (s : State) (n q : Nat) : State :=
  let y := (s.site n).seq
  match mget [] y.iq q with
  | [] => s
  | t :: ts =>
    if 64 ≤ y.keptCount then s.siteFault n Cause.invocInput
    else s.onSeq n (fun y => { y with iq := mset y.iq q ts, ipos := mset y.ipos q 0, kept := mset y.kept q (mget [] y.kept q ++ [t]) })

/-- Bytes taken from an input queue: the bytes, whether a POISON token gave one of them, and the state. -/
structure Taken where
  s : State
  bytes : List Byte
  poison : Bool
  /-- all bytes were there -/
  whole : Bool
  deriving DecidableEq, Repr

/-- The next 'need' bytes of an input queue as far as they are there (R312): a token whose bytes are all consumed is
released. -/
def State.takeBytes (s : State) (n q : Nat) : Nat → Nat → Taken
  | 0, _ => { s := s, bytes := [], poison := false, whole := false }
  | f + 1, need =>
    if need = 0 then { s := s, bytes := [], poison := false, whole := true }
    else match s.inHead n q with
      | .none => { s := s, bytes := [], poison := false, whole := false }
      | .stop s => { s := s, bytes := [], poison := false, whole := false }
      | .data t =>
        let pos := mget 0 (s.site n).seq.ipos q
        let size := 4 * t.words
        let k := min need (size - pos)
        let s := s.onSeq n (fun y => { y with ipos := mset y.ipos q (pos + k) })
        let s := if size ≤ pos + k then s.releaseTok n q else s
        if (s.site n).stopped then { s := s, bytes := [], poison := false, whole := false }
        else
          let r := s.takeBytes n q f (need - k)
          { r with bytes := ((bytesLE 64 t.payload.toNat).drop pos).take k ++ r.bytes, poison := r.poison || t.kind == 6 }

/-- The next bytes of an input queue for a store (R312): those that are there are consumed; while some are missing the emit
holds them and waits. -/
def State.takeFor (s : State) (n q size : Nat) : Taken :=
  let y := (s.site n).seq
  let r := s.takeBytes n q 20 (size - y.got.length)
  let bytes := y.got ++ r.bytes
  let poison := y.gotPoison || r.poison
  if r.whole then { s := r.s.onSeq n (fun y => { y with got := [], gotPoison := false }), bytes := bytes, poison := poison, whole := true }
  else { s := r.s.onSeq n (fun y => { y with got := bytes, gotPoison := poison }), bytes := [], poison := false, whole := false }

-- mt.sunpack (R322)

/-- SPARSE tokens of the invocation are read into its image until one with last (R322). -/
def State.fillImage (s : State) (n q : Nat) : Nat → State
  | 0 => s
  | f + 1 =>
    if mget false (s.site n).seq.imageEnd q || (s.site n).stopped || (s.site n).seq.fence.isSome then s
    else match s.inHead n q with
      | .none => s
      | .stop s => s
      | .data t =>
        let fm := sparseForm (8 * entryBytes (mget 0 (s.site n).seq.r.ifmt q))
        let x := t.payload.toNat
        let es := if t.kind = 6 then [] else (List.range (t.entries fm.1)).map (fun e =>
          (x >>> (fm.2.1 * e + fm.1) % 65536, x >>> (fm.2.1 * e) % 2 ^ fm.1))
        let img := es.foldl (fun m e => if e.1 = 65535 then m else mset m e.1 e.2) (mget [] (s.site n).seq.image q)
        let cs := (es.filter (fun e => e.1 != 65535)).map (·.1)
        let s := s.onSeq n (fun y => { y with image := mset y.image q img, coords := mset y.coords q (mget [] y.coords q ++ cs), imageEnd := if t.last then mset y.imageEnd q true else y.imageEnd })
        (s.releaseTok n q).fillImage n q f

/-- Dense bytes of the image. -/
def State.takeImage (s : State) (n q size : Nat) : Taken :=
  let s := s.fillImage n q 8
  let y := (s.site n).seq
  if (s.site n).stopped || y.fence.isSome || !mget false y.imageEnd q then { s := s, bytes := [], poison := false, whole := false }
  else
    let w := entryBytes (mget 0 y.r.ifmt q)
    let pos := mget 0 y.imagePos q
    let img := mget [] y.image q
    let bs := (List.range size).map (fun i =>
      BitVec.ofNat 8 (mget 0 img ((pos + i) / w) >>> (8 * ((pos + i) % w))))
    { s := s.onSeq n (fun y => { y with imagePos := mset y.imagePos q (pos + size) }), bytes := bs, poison := false, whole := true }

/-- The next bytes of an input queue, in the way of the plane's mode. -/
def State.takeData (s : State) (n q size : Nat) : Taken :=
  if (s.site n).op = 0x83 then s.takeImage n q size else s.takeFor n q size

-- Stores (R315, R324)

/-- A store is held at the port; the 257th of an invocation faults (R315). None while the access waits. -/
def State.holdStore (s : State) (n q : Nat) (ea : Word) (bs : List Byte) : Option State :=
  match s.seqAddr n true ea bs.length with
  | .wait => none
  | .fault s c a _ => some (s.genFault n c a)
  | .ok s pa =>
    if 256 ≤ (s.site n).seq.held.length then some (s.siteFault n Cause.invocStores)
    else
      let p := s.graphParty (s.launchOf n)
      let glob := match s.leafFor p.ptb p.asid p.super .write ea with
        | .ok l => l.entry.getLsbD 6 && decide (ea.toNat < ownTile)
        | .error _ => false
      let st : SeqStore := { va := ea.toNat, pa := pa, bytes := bs, glob := glob
                             add := if (s.site n).op = 0x86 then some (mget 0 (s.site n).seq.r.ifmt q) else none }
      some (s.onSeq n (fun y => { y with held := y.held ++ [st] }))

/-- One element added to memory at its point of atomicity (R324): exact and rounded once, or wrapping. -/
def State.addElem (s : State) (isInt : Bool) (fmt pa w : Nat) (bs : List Byte) : State :=
  let old := valueLE (s.homeBytes [(pa, w)])
  let x := valueLE bs
  let new :=
    match (if isInt && fmt = 0 then none else codeFloat fmt) with
    | some f => (f.fadd {} (f.decode old) (f.decode x)).bits
    | none => (old + x) % 2 ^ (8 * w)
  s.agentBytes [(pa, w)] (bytesLE w new)

/-- A held addition, element by element; a store narrower than an element leaves bytes that no rule gives. -/
def State.addStore (s : State) (isInt : Bool) (fmt : Nat) (st : SeqStore) : State :=
  let w := max 1 (codeBits fmt / 8)
  if st.bytes.length < w then s.agentBytes [(st.pa, st.bytes.length)] (bytesLE st.bytes.length (Config.freeWord s.tick st.pa).toNat)
  else (List.range (st.bytes.length / w)).foldl (fun s k =>
    s.addElem isInt fmt (st.pa + w * k) w ((st.bytes.drop (w * k)).take w)) s

/-- A held store is performed. -/
def State.performStore (s : State) (n : Nat) (st : SeqStore) : State :=
  match st.add with
  | some fmt => s.addStore ((s.site n).plane.imm % 2 == 1) fmt st
  | none => s.agentBytes [(st.pa, st.bytes.length)] st.bytes

-- Invocations (R315, R317)

/-- POISON tokens that the invocation consumed (R290). -/
def Seq.poisoned (y : Seq) : Nat := (y.kept.map (fun e => (e.2.filter (fun t => t.kind == 6)).length)).sum
/-- Entries at or beyond the dense element count, each one counted (R322). -/
def Seq.dropped (y : Seq) : Nat :=
  (y.coords.map (fun e =>
    let count := mget 0 y.imagePos e.1 / entryBytes (mget 0 y.r.ifmt e.1)
    (e.2.filter (fun c => decide (count ≤ c))).length)).sum

/-- An output queue at the end of an invocation: its partial token closes with last; an mt.spack queue without an entry
closes a token that says so (R312, R321). -/
def State.endQueue (s : State) (n q : Nat) : State :=
  let x := s.site n
  if x.op = 0x82 ∧ 0 < mget 0 x.seq.fed q ∧ mget false x.seq.packed q = false then
    s.emit n [sparseTok (mget 0 x.seq.r.ofmt q) [(0, 65535)] true]
  else s.closeQueue n q true

/-- A held store lies in a segment that is being converted, so the invocation cannot commit (R363). -/
def State.heldWaits (s : State) (n : Nat) : Bool := (s.site n).seq.held.any (fun st => s.convertingAt st.pa)

/-- The invocation commits (R315): its stores are performed in emit order, its tokens close, and the next one starts with
a snapshot. -/
def State.commitInvocation (s : State) (n : Nat) : State :=
  let y := (s.site n).seq
  let s := y.held.foldl (fun s st => s.performStore n st) s
  let s := (List.range 4).foldl (fun s q => s.endQueue n q) s
  let s := if y.poisoned + y.dropped = 0 then s else s.addPoison n (y.poisoned + y.dropped)
  s.onSeq n (fun y => { y with
    held := [], kept := [], keptPos := y.ipos, brKept := [], fed := [], skip := [], skipNow := [], eors := 0, skipEors := 0
    ctls := 0, skipCtls := 0, image := [], coords := [], imagePos := [], imageEnd := [], pack := [], packPart := [], packed := []
    snap := y.r })

/-- A FENCE token that the invocation has taken and that has not retired, as it stood behind the kept tokens of a queue
(R318). -/
def Seq.fenceBack (y : Seq) (q : Nat) : List Token :=
  match y.fence with
  | some (scope, true) => if y.counted || y.fenceFrom != q then [] else [{ payload := BitVec.ofNat 512 scope, kind := 4 }]
  | _ => []

/-- The invocation is replayed (R317): registers, pc and formats from the snapshot; kept tokens and outcomes consumed
again; what was delivered is passed over, and so is a sync that it has passed (R319). A fence of the invocation that has not retired is met again behind the accesses
before it (R318). -/
def State.replaySeq (s : State) (n : Nat) : State :=
  s.onSite n (fun x => { x with
    stopped := false
    seq := { x.seq with
      mode := if x.seq.mode = .faulted then .run else x.seq.mode
      r := x.seq.snap
      iq := (List.range 4).map (fun q => (q, mget [] x.seq.kept q ++ x.seq.fenceBack q ++ mget [] x.seq.iq q))
      fence := if x.seq.counted then x.seq.fence else none
      got := [], gotPoison := false, coords := []
      ipos := x.seq.keptPos, kept := [], brq := x.seq.brKept ++ x.seq.brq, brKept := []
      held := [], oq := [], pack := [], packPart := [], packed := x.seq.skip.map (fun e => (e.1, decide (0 < e.2)))
      image := [], imagePos := [], imageEnd := [], fed := [], skipNow := x.seq.skip
      skipEors := max x.seq.skipEors x.seq.eors, eors := 0
      skipCtls := max x.seq.skipCtls x.seq.ctls, ctls := 0, lanes := none, begun := false } })

-- Drains (R316, R319)

/-- The sequencer stands at a tile-task boundary (R316): at halt, or before an iteration of the outermost loop, none of whose words
has begun. -/
def Site.atBoundary (x : Site) : Bool :=
  let pc := x.seq.r.pc
  seqOpOf (x.plane.progWord pc) == 17 ||
  (match x.plane.outermost with
   | some l => pc == l || (pc == l + 1 && !x.seq.begun)
   | none => false)

/-- A drain reaches the sequencer: a DRAIN at the head of an input queue, or a request where the plane names no input. -/
def State.seqDrains (s : State) (n : Nat) : Bool :=
  let x := s.site n
  x.seq.iq.any (fun e => match e.2 with
    | t :: _ => t.kind == 5
    | [] => false) ||
  (x.plane.reads.isEmpty && s.draining n)

/-- The sequencer stops for a drain: DRAIN is forwarded and its state kept. -/
def State.drainSeq (s : State) (n : Nat) : State :=
  (s.emit n [{ kind := 5 }]).onSite n (fun x => { x with drained := true })

/-- A sequencer may execute a word: no closed token beyond the fourth waits at the element output. -/
def Site.seqActs (x : Site) : Bool :=
  x.acts && x.seq.mode == .run && x.seq.fence.isNone && decide (x.outCount < 4)

/-- An argument word of the active plane has not been read: its read waits, or has faulted and is retried (R314). -/
def Site.argsMissing (x : Site) : Bool := x.plane.argIndexes.any (fun k => (mfind x.elem.args k).isNone)

/-- The sequencer after a step: whether its word has begun and waits (R316). -/
def Seq.noteBegun (y z : Seq) : Seq := { z with begun := z.r == y.r && (y.begun || decide (z ≠ y)) }

/-- The course of every word: argument words that are still to be read come first (R314), then a drain at a boundary. A word that
goes on counts as a firing of its site (R294). -/
def State.seqWordStep (s : State) (k : State → Nat → State) : Out :=
  let n := s.act.site
  if !(s.site n).seqActs then .next s
  else if (s.site n).argsMissing then .next (s.readArgs n (s.site n).plane.argIndexes)
  else if (s.site n).atBoundary && s.seqDrains n then .next (s.drainSeq n)
  else
    let t := k s n
    .next (if (t.site n).seq = (s.site n).seq then t else (t.onSeq n (s.site n).seq.noteBegun).noteFire n)

/-- A word that changes registers only. -/
def State.seqRegs (s : State) (f : Site → SeqRegs → SeqRegs) : Out :=
  s.seqWordStep (fun s n => s.onSite n (fun x => { x with seq := (x.seq.onR (f x)).step }))

-- Words (R314)

/-- SEQ_NOP -/
def execSeqNop (s : State) : Out := s.seqRegs (fun _ r => r)
/-- SETA: the argument word read at activation. -/
def execSeta (b : BitVec 2) (a : BitVec 16) (s : State) : Out :=
  s.seqRegs (fun x r => { r with b := mset r.b b.toNat (mget 0 x.elem.args a.toNat) })
/-- ADDA_REG -/
def execAddaReg (b t : BitVec 2) (s : State) : Out :=
  s.seqRegs (fun _ r => { r with b := mset r.b b.toNat (r.base b.toNat + r.stride t.toNat) })
/-- ADDA_IMM -/
def execAddaImm (b : BitVec 2) (imm : BitVec 22) (s : State) : Out :=
  s.seqRegs (fun _ r => { r with b := mset r.b b.toNat (r.base b.toNat + imm.signExtend 64) })
/-- SETS -/
def execSets (t : BitVec 2) (imm : BitVec 25) (s : State) : Out :=
  s.seqRegs (fun _ r => { r with t := mset r.t t.toNat (imm.signExtend 64) })

/-- A loop word (R314): a loop on n0 ends the invocation before it (R315). -/
def State.seqLoop (s : State) (n k count : Nat) : State :=
  if k = 0 ∧ s.heldWaits n = true then s else
  let x := s.site n
  let pc := x.seq.r.pc
  let dest := if count = 0 then x.plane.endlOf pc + 1 else pc + 1
  let s := s.onSeq n (fun q => (q.onR (fun r => { r with lim := mset r.lim k count, n := mset r.n k 0 })).jump dest)
  if k = 0 then s.commitInvocation n else s

/-- LOOP_IMM -/
def execLoopImm (n : BitVec 2) (c : BitVec 24) (s : State) : Out := s.seqWordStep (fun s m => s.seqLoop m n.toNat c.toNat)
/-- LOOP_ARG: a count above 2^32 − 1 faults with SEQ_ARG. -/
def execLoopArg (n : BitVec 2) (a : BitVec 24) (s : State) : Out :=
  s.seqWordStep (fun s m =>
    let v := (mget 0 (s.site m).elem.args a.toNat).toNat
    if 2 ^ 32 ≤ v then s.seqFault m Cause.seqArg 2 (siteVal m) (a.setWidth 64) else s.seqLoop m n.toNat v)
/-- ENDL: an endl on n0 ends the invocation. -/
def execEndl (n : BitVec 2) (top : BitVec 6) (s : State) : Out :=
  s.seqWordStep (fun s m =>
    if n = 0 ∧ s.heldWaits m = true then s else
    let r := (s.site m).seq.r
    let c := (r.count n.toNat + 1) % 2 ^ 32
    let dest := if c < r.limit n.toNat then top.toNat + 1 else r.pc + 1
    let s := s.onSeq m (fun q => (q.onR (fun r => { r with n := mset r.n n.toNat c })).jump dest)
    if n = 0 then s.commitInvocation m else s)

/-- The effective address of an emit (R314). -/
def SeqRegs.ea (r : SeqRegs) (b : BitVec 2) (sz : BitVec 3) (off : BitVec 16) : Word :=
  r.base b.toNat + (off.signExtend 64 <<< sz.toNat)

/-- The sequencer goes on unless it has stopped, or a fault is about to be reported. -/
def State.stepUnless (s t : State) (n : Nat) : State :=
  if (t.site n).stopped || t.agenda != s.agenda then t else t.onSeq n Seq.step

/-- EMIT_LD -/
def execEmitLd (b q : BitVec 2) (sz : BitVec 3) (off : BitVec 16) (s : State) : Out :=
  s.seqWordStep (fun s n =>
    match s.seqLoad n q.toNat ((s.site n).seq.r.ea b sz off) (2 ^ sz.toNat) with
    | some t => s.stepUnless t n
    | none => s)
/-- EMIT_ST: nothing is written for bytes of a POISON token (R290). -/
def execEmitSt (b q : BitVec 2) (sz : BitVec 3) (off : BitVec 16) (s : State) : Out :=
  s.seqWordStep (fun s n =>
    let ea := (s.site n).seq.r.ea b sz off
    let t := s.takeData n q.toNat (2 ^ sz.toNat)
    if !t.whole then t.s
    else if t.poison then t.s.onSeq n Seq.step
    else match t.s.holdStore n q.toNat ea t.bytes with
      | some u => s.stepUnless u n
      | none => s)

/-- The index token of an emit.gth or emit.sct is taken: its valid words not yet consumed become the lanes to serve; a
head consumed to a byte position that is no multiple of 4 faults with QUEUE_SPLIT (R314). -/
def State.takeLanes (s : State) (n q : Nat) : State :=
  if (s.site n).seq.lanes.isSome then s
  else match s.inHead n q with
    | .none => s
    | .stop s => s
    | .data t =>
      let pos := mget 0 (s.site n).seq.ipos q
      if pos % 4 ≠ 0 then s.siteFault n Cause.queueSplit
      else
        let ls := if t.kind = 6 then [] else ((elemsOf 32 t.words t.payload.toNat).drop (pos / 4))
        let s := s.releaseTok n q
        if (s.site n).stopped then s else s.onSeq n (fun y => { y with lanes := some ls })

/-- The address of a lane (R314). -/
def SeqRegs.laneAddr (r : SeqRegs) (b : BitVec 2) (lane : Nat) (sh : BitVec 3) : Word :=
  r.base b.toNat + ((BitVec.ofNat 32 lane).signExtend 64 <<< sh.toNat)

/-- Lanes are served one after another while f can serve one: its state, and whether the lane is served. A lane that waits
for bytes, or that meets a FENCE token (R318), is tried again. -/
def State.serveLanes (s : State) (n : Nat) (f : State → Nat → State × Bool) : List Nat → State
  | [] => s.onSeq n (fun y => { y with lanes := none })
  | l :: ls =>
    let r := f s l
    if (r.1.site n).stopped || r.1.agenda != s.agenda then r.1
    else if r.2 then r.1.serveLanes n f ls
    else r.1.onSeq n (fun y => { y with lanes := some (l :: ls) })

/-- The course of emit.gth and emit.sct. -/
def State.indexed (s : State) (n q : Nat) (f : State → Nat → State × Bool) : State :=
  let t := s.takeLanes n q
  if (t.site n).stopped then t
  else match (t.site n).seq.lanes with
    | none => t
    | some ls =>
      let u := t.serveLanes n f ls
      if (u.site n).seq.lanes.isNone then s.stepUnless u n else u

/-- EMIT_GTH -/
def execEmitGth (b iq : BitVec 2) (sz : BitVec 3) (oq : BitVec 2) (sh : BitVec 3) (s : State) : Out :=
  s.seqWordStep (fun s n => s.indexed n iq.toNat (fun s l =>
    match s.seqLoad n oq.toNat ((s.site n).seq.r.laneAddr b l sh) (2 ^ sz.toNat) with
    | some t => (t, true)
    | none => (s, false)))
/-- EMIT_SCT: later lanes are held later, so the higher lane's data remains. -/
def execEmitSct (b iq : BitVec 2) (sz : BitVec 3) (dq : BitVec 2) (sh : BitVec 3) (s : State) : Out :=
  s.seqWordStep (fun s n => s.indexed n iq.toNat (fun s l =>
    let t := s.takeData n dq.toNat (2 ^ sz.toNat)
    if !t.whole then (t.s, false)
    else if t.poison then (t.s, true)
    else match t.s.holdStore n dq.toNat ((s.site n).seq.r.laneAddr b l sh) t.bytes with
      | some u => (u, true)
      | none => (s, false)))

/-- BRC: the next branch outcome is taken (R313). -/
def execBrc (pol : Bool) (top : BitVec 6) (s : State) : Out :=
  s.seqWordStep (fun s n =>
    s.onSeq n (fun y => match y.brq with
      | [] => y
      | v :: vs =>
        let y := { y with brq := vs, brKept := y.brKept ++ [v] }
        if v = pol then y.jump top.toNat else y.step))

/-- A control word: passed over when a replay has it behind it (R317). -/
def State.ctlWord (s : State) (n : Nat) (f : State → Option State) : State :=
  let y := (s.site n).seq
  let next (s : State) : State := s.onSeq n (fun y => { y.step with ctls := y.ctls + 1 })
  if y.ctls < y.skipCtls then next s
  else match f s with
    | some s => next s
    | none => s

/-- WAITC: a control token is taken directly from the named link. -/
def execWaitc (link : BitVec 2) (s : State) : Out :=
  s.seqWordStep (fun s n => s.ctlWord n (fun s =>
    if (mfind (s.site n).ctl link.toNat).isSome then some (s.onSite n (fun x => { x with ctl := mdel x.ctl link.toNat }))
    else none))
/-- SIGNAL: a control token leaves on the named link, once it is free. -/
def execSignal (link : BitVec 2) (v : Bool) (s : State) : Out :=
  s.seqWordStep (fun s n => s.ctlWord n (fun s => s.sendCtl n link.toNat v))

/-- SEQ_FENCE: later words wait until it retires (R318). -/
def execSeqFence (s : State) : Out :=
  s.seqWordStep (fun s n => s.onSeq n (fun y => { y.step with fence := some (2, false) }))

/-- Updates on their way are accepted by every sharer within the reach of a scope (R159, R336). -/
def State.acceptAll (s : State) (scope : Nat) : State :=
  if scope = 0 then s else s.herds.foldl (fun s h => iter (fun s => s.drainSliceOne h.1) (s.herd h.1).inq.length s) s

/-- FENCE_RETIRE (R318): every earlier access has been performed at the fence's scope; a FENCE token is forwarded. -/
def execFenceRetire (s : State) : Out :=
  let n := s.act.site
  let x := s.site n
  match x.seq.fence with
  | none => .next s
  | some (scope, token) =>
    if x.stopped || (token && !x.outFree) then .next s
    else
      let s := (s.acceptAll scope).onSeq n (fun y => { y with fence := none })
      .next (if token then s.emit n [{ payload := BitVec.ofNat 512 scope, kind := 4 }] else s)

/-- EOR: the partial tokens of the named queues close, without last, which the end of an invocation gives (R312, R321), and one EOR
follows (R314). -/
def execEor (qmask : BitVec 4) (s : State) : Out :=
  s.seqWordStep (fun s n =>
    let s := (List.range 4).foldl (fun s q => if qmask.getLsbD q then s.closeQueue n q false else s) s
    let y := (s.site n).seq
    let s := if y.eors < y.skipEors then s else s.emit n [{ kind := 2 }]
    s.onSeq n (fun y => { y.step with eors := y.eors + 1, eored := true }))

/-- The sequencers of a level subgraph whose planes hold a sync of the level (R319). -/
def State.syncGroup (s : State) (n level : Nat) : List Nat :=
  (s.subgraph n level).filter (fun m => seqOp (s.site m).op && (s.site m).plane.syncs level)

/-- SEQ_SYNC (R319): it waits until every sequencer of its group has reached a sync of the level; then a release at the
scope covers the committed stores. One that a replay has behind it is passed over (R317). -/
def execSeqSync (level sc : BitVec 2) (s : State) : Out :=
  s.seqWordStep (fun s n =>
    let go (s : State) : State := (s.acceptAll sc.toNat).onSeq n (fun y => { y.step with atSync := none, passed := false, ctls := y.ctls + 1 })
    if (s.site n).seq.passed || decide ((s.site n).seq.ctls < (s.site n).seq.skipCtls) then go s
    else
      let s := s.onSeq n (fun y => { y with atSync := some level.toNat })
      let group := s.syncGroup n level.toNat
      if group.all (fun m => (s.site m).seq.atSync == some level.toNat && !(s.site m).seq.passed) then
        go (group.foldl (fun s m => s.onSeq m (fun y => { y with passed := true })) s)
      else s)

/-- SETF -/
def execSetf (fmt : BitVec 5) (q : BitVec 2) (s : State) : Out :=
  s.seqRegs (fun _ r => { r with ofmt := mset r.ofmt q.toNat fmt.toNat })
/-- SETF_IN -/
def execSetfIn (fmt : BitVec 5) (q : BitVec 2) (s : State) : Out :=
  s.seqRegs (fun _ r => { r with ifmt := mset r.ifmt q.toNat fmt.toNat })

/-- The markers at the heads of the named ports are taken. -/
def State.takeMarkers (s : State) (n : Nat) (ports : List Nat) : State :=
  ports.foldl (fun s q => s.onSeq n (fun y => { y with iq := mset y.iq q ((mget [] y.iq q).drop 1) })) s

/-- HALT (R309, R315, R319): the last invocation commits; the markers at the named ports are then taken, and the round
ends with its EOR. -/
def execHalt (s : State) : Out :=
  s.seqWordStep (fun s n =>
    if (s.site n).seq.counted = false ∧ s.heldWaits n = true then s else
    let s := if (s.site n).seq.counted then s
      else (s.commitInvocation n).onSite n (fun x => { x with commits := x.commits + 1, seq := { x.seq with counted := true } })
    let x := s.site n
    let ports := distinct x.plane.reads
    let finish (s : State) : State := s.onSite n (fun x => { x with ending := true, seq := { x.seq with counted := false, eored := false } })
    let heads := ports.map (fun q => (mget [] x.seq.iq q).head?)
    match heads with
    | [] => finish s
    | none :: _ => s
    | some h0 :: _ =>
      if heads.any Option.isNone then s
      else match (ports.zip (heads.filterMap id)).find? (fun e => e.2.kind != h0.kind || !e.2.marker) with
        | some e => s.seqFault n Cause.portOrder 2 (siteVal n) (portOrder (x.plane.readIndex e.1) e.1 e.2.kind)
        | none =>
          let scope := (heads.filterMap id).foldl (fun a t => max a (t.payload.toNat % 4)) 0
          let s := s.takeMarkers n ports
          match h0.kind with
          | 2 => finish (if x.seq.eored then s else s.emit n [{ kind := 2 }])
          | 3 => (s.emit n [{ kind := 3 }]).onSite n (fun x => { x with
              commits := x.commits - 1
              seq := Seq.restart x.seq (x.plane.bits 197 192) })
          | 4 => s.onSeq n (fun y => { y with fence := some (scope, true) })
          | _ => s.drainSeq n)

end Sys2Proof.Machine
end

