-- ==== Sys2Proof/Machine/Tiles.lean ====
section
/-!
DEFINITION. The probe of a memory tile, which fires as an element does (R323).
-/

namespace Sys2Proof.Machine

/-- Physical address of the bucket that an index names (R323). -/
def PlaneSlot.bucket (p : PlaneSlot) (n index : Nat) : Nat :=
  mtBase n + 64 * field p.imm 20 6 + 64 * (index % 2 ^ (p.imm % 32))

/-- The value of the first entry of a bucket whose key is equal (R323). -/
def bucketFind (key : Nat) (es : List Nat) : Option Nat :=
  (es.find? (fun e => e % 2 ^ 32 == key)).map (fun e => e / 2 ^ 32)

/-- The buckets of a list of keys and indexes are read, each checked (R111, R323): key and what was found. -/
def State.probeAll (s : State) (n : Nat) : List (Nat × Nat) → Chk (List (Nat × Option Nat))
  | [] => .ok s []
  | x :: xs =>
    let pa := (s.site n).plane.bucket n x.2
    (s.ownCheck pa 64 true (BitVec.ofNat 64 (ownTile + (pa - mtBase n)))).andThen (fun s pa =>
      let es := (wordsOf pa 64).map (fun w => (s.homeWord w).val.toNat)
      (s.probeAll n xs).andThen (fun s ys => .ok s ((x.1, bucketFind x.1 es) :: ys)))

/-- The tokens of the probed lanes; last stands on the final one (R323). -/
def probeToks (last : Bool) : List (Nat × Option Nat) → List Token
  | [] => []
  | x :: xs =>
    dataTok (packElems 32 [x.1, x.2.getD 0, b2n x.2.isSome]) 3 (last && xs.isEmpty) :: probeToks last xs

/-- MT_PROBE (R323): one DATA token and one control token for each valid key lane. A bucket that cannot be read faults
with the tokens of the firing still held. An invocation ends with a key token that carries last; after ninv of them the
element takes only markers until the round ends (R310, log entry 45). -/
def execMtProbe (s : State) : Out :=
  let x := s.site s.act.site
  if x.plane.bits 143 128 ≠ 0 ∧ x.plane.bits 143 128 ≤ x.elem.inv then .next s
  else s.firing Site.outFree false (fun s n ts =>
    let keep (s : State) : State := s.onSite n (fun x => { x with taken := ts })
    let key := ts.getD 0 {}
    let t := s.value n ts 1 true (
      let idx := ts.getD 1 {}
      let lanes := (List.range key.words).map (fun l => (elemOf 32 l key.payload.toNat, elemOf 32 l idx.payload.toNat))
      match s.probeAll n lanes with
      | .wait => keep s
      | .fault s c a _ => (keep s).graphFault n c 1 a 0 0
      | .ok s found =>
        found.foldl (fun s x => s.onSite n (fun y => y.emitCtl x.2.isSome)) (s.emit n (probeToks key.last found)))
    if key.last && (t.site n).taken.isEmpty then t.onSite n (fun x => { x with elem := { x.elem with inv := x.elem.inv + 1 } }) else t)

end Sys2Proof.Machine
end

