-- ==== Sys2Proof/Machine/Loader.lean ====
section
/-!
DEFINITION. The configuration image and the loader's checks (R68, R69, R71, R279, R294, R298, R306, R308, R313, R320, R327,
R384, R441). Feeding is taken over the union of a site's planes (log entry 29).
-/

namespace Sys2Proof.Machine

-- The image (R441)

/-- A site of an image: its relative place and its planes by slot. -/
structure ImgSite where
  x : Nat
  y : Nat
  planes : List (Nat × PlaneSlot)
  deriving DecidableEq, Repr

/-- A configuration image. -/
structure Image where
  broad : Bool
  w : Nat
  h : Nat
  sites : List ImgSite
  deriving DecidableEq, Repr

/-- The planes of a relative site. -/
def Image.planesAt (g : Image) (a : Nat × Nat) : List PlaneSlot :=
  match g.sites.find? (fun t => t.x == a.1 && t.y == a.2) with
  | some t => t.planes.map (·.2)
  | none => []

/-- The relative neighbour over link N, E, S or W, within the rectangle. -/
def Image.beside (g : Image) (a : Nat × Nat) (d : Nat) : Option (Nat × Nat) :=
  match d with
  | 0 => if a.2 = 0 then none else some (a.1, a.2 - 1)
  | 1 => if a.1 + 1 < g.w then some (a.1 + 1, a.2) else none
  | 2 => if a.2 + 1 < g.h then some (a.1, a.2 + 1) else none
  | _ => if a.1 = 0 then none else some (a.1 - 1, a.2)

-- One plane (R69, R279, R283..R290, R295..R306, R320..R328)

/-- The element of a relative column: 0 FE, 1 MT, 2 MXE (R14, R79). -/
def elementKind (x : Nat) : Nat := if x % 4 = 0 then 2 else if x % 8 = 2 then 1 else 0

/-- The operation belongs to the element; an idle plane belongs to each. -/
def opBelongs (kind op : Nat) : Bool :=
  op == 0 ||
  (match kind with
   | 2 => decide (0x90 ≤ op) && decide (op ≤ 0x93)
   | 1 => decide (0x80 ≤ op) && decide (op ≤ 0x86)
   | _ => decide (op < 0x80) && (decodeElement op).isSome)

/-- Float lane codes, integer lane codes, integer codes with I32, and all lane codes of the FE (R283). -/
def laneFlt : List Nat := [0x00, 0x01, 0x02]
def laneInts : List Nat := [0x08, 0x09, 0x0D]
def laneI32 : List Nat := [0x00, 0x08, 0x09, 0x0D]
def laneFe : List Nat := [0x00, 0x01, 0x02, 0x08, 0x09, 0x0D]

/-- An operation whose last operand may be the immediate, with its operand reads (R284, R285). -/
def immReads (op : Nat) : Option Nat :=
  if [0x01, 0x02, 0x03, 0x06, 0x07, 0x0A, 0x11, 0x12, 0x13, 0x14, 0x20, 0x21, 0x22, 0x23, 0x24, 0x25, 0x26, 0x29, 0x2A, 0x2B].contains op
  then some 2
  else if [0x04, 0x05, 0x28].contains op then some 3
  else none

/-- Lane bits of a code; code 0x00 has 32. -/
def laneBits (c : Nat) : Nat := max 1 (codeBits c)

/-- Tokens of a quantiser group (R295). -/
def groupTokens (fin fout : Nat) : Nat := if fin = 0 ∧ fout ≠ 0x14 then 2 else 1

/-- The read counts that an operation accepts; none where any number is (R279, R284..R290, R320, R327). A square of 16
tokens is read eight, four, two or one at a time, since no plane names sixteen reads. -/
def readCounts (p : PlaneSlot) : Option (List Nat) :=
  let op := p.bits 7 0
  match immReads op with
  | some r => some [r - 1, r]
  | none =>
    match op with
    | 0x30 => some [max 1 (laneBits p.fin / laneBits p.fout)]
    | 0x32 => some [groupTokens p.fin p.fout]
    | 0x33 => some [1 + groupTokens p.fin p.fout]
    | 0x51 => some [if p.imm % 8 = 4 ∨ p.imm % 8 = 5 then 1 else 2]
    | 0x52 => some [max 1 (laneBits p.fin / laneBits p.fout)]
    | 0x55 => if laneBits p.fin = 32 then some [1, 2, 4, 8] else some [laneBits p.fin / 2]
    | 0x59 => some [2]
    | 0x63 => some [2]
    | 0x66 => none
    | 0x85 => some [2]
    | _ => if decide (0x80 ≤ op) && decide (op ≤ 0x86) then none else some [1]

/-- Operations that read all their tokens from one port (R286, R289, R296). -/
def onePort (op : Nat) : Bool := [0x30, 0x32, 0x55].contains op

/-- The reads of a plane are as many as its operation takes (R279). -/
def PlaneSlot.countOk (p : PlaneSlot) : Bool :=
  if readsNothing (p.bits 7 0) then true
  else
    let r := p.reads
    (match readCounts p with
     | some l => l.contains r.length
     | none => true) && (!onePort (p.bits 7 0) || r.all (fun q => q == r.headD 0))

/-- The bits of imm32 that an operation uses (R69). -/
def immMask (p : PlaneSlot) : Nat :=
  let op := p.bits 7 0
  let all := 2 ^ 32 - 1
  match immReads op with
  | some r => if p.reads.length + 1 = r then all else 0
  | none =>
    match op with
    | 0x33 => if p.fout = 0x14 then all else 0
    | 0x34 => if p.fin = 0x14 then all else 0
    | 0x40 => 1
    | 0x41 => 1
    | 0x42 => 1
    | 0x50 => 0x3F
    | 0x51 => if p.imm % 8 = 5 then 0x7F else 7
    | 0x57 => all
    | 0x58 => all
    | 0x5A => 1
    | 0x60 => 0xFFFF00FF
    | 0x61 => all
    | 0x62 => 0xFFFF
    | 0x64 => all
    | 0x65 => 0xFFFF
    | 0x82 => 1
    | 0x85 => 0x1FFFDF
    | 0x86 => 1
    | 0x90 => 0x1FFF
    | 0x91 => 0x1FFFFFF
    | 0x92 => 0x3FFF
    | 0x93 => 0xFFFF000F
    | _ => 0

/-- The formats of a plane are among those that its operation accepts (R283..R290, R296, R297, R299, R304, R321, R323,
R324). -/
def formatsOk (op fin fout : Nat) : Bool :=
  let same (l : List Nat) : Bool := l.contains fin && fout == fin
  if [0x01, 0x02, 0x03, 0x06, 0x07, 0x08, 0x09, 0x20, 0x21, 0x22, 0x23, 0x28, 0x40, 0x41, 0x42, 0x43, 0x44, 0x50, 0x51, 0x54, 0x55,
      0x56, 0x59, 0x5A, 0x62, 0x63, 0x65, 0x66].contains op
  then same laneFe
  else if [0x04, 0x05, 0x0A, 0x0B, 0x0C, 0x0D, 0x0E, 0x0F, 0x10].contains op then same laneFlt
  else if [0x11, 0x12, 0x13, 0x14, 0x24, 0x25, 0x26, 0x27, 0x29, 0x2A, 0x2B, 0x2C, 0x2D].contains op then same laneI32
  else if [0x60, 0x61, 0x64].contains op then fin == 0 && fout == 0
  else match op with
    | 0x00 => fin == 0 && fout == 0
    | 0x30 => (3 :: 4 :: laneFe).contains fin && (3 :: 4 :: laneFe).contains fout
    | 0x31 => laneFlt.contains fin && [1, 2, 3, 4].contains fout && decide (codeBits fout < codeBits fin)
    | 0x32 => laneFlt.contains fin && decide (0x0E ≤ fout) && decide (fout ≤ 0x14)
    | 0x33 => laneFlt.contains fin && decide (0x0E ≤ fout) && decide (fout ≤ 0x14)
    | 0x34 => laneFlt.contains fout && decide (0x0E ≤ fin) && decide (fin ≤ 0x14)
    | 0x52 => laneI32.contains fin && laneI32.contains fout && decide (laneBits fout ≤ laneBits fin)
    | 0x53 => laneI32.contains fin && laneI32.contains fout && decide (laneBits fin ≤ laneBits fout)
    | 0x57 => laneI32.contains fout && (fin == 0 || fin == fout)
    | 0x58 => laneFe.contains fout && (fin == 0 || fin == fout)
    | 0x82 => [0, 1, 2, 0x0D].contains fout
    | 0x86 => [0, 1, 2, 8, 0x0D].contains fin
    | 0x85 => fin == 0 && fout == 0
    | 0x93 => fin == 0 && fout == 0
    | _ => true

/-- ftz is used: float arithmetic, conversions from or to a float, float reductions (R283, R286, R287). -/
def flushesOk (op fin fout : Nat) : Bool :=
  if decide (0x01 ≤ op) && decide (op ≤ 0x23) then
    !(decide (0x11 ≤ op) && decide (op ≤ 0x14)) && !laneInts.contains fin && !(decide (0x20 ≤ op) && fin == 0)
  else if op = 0x30 then !(laneInts.contains fin && laneInts.contains fout)
  else if decide (0x31 ≤ op) && decide (op ≤ 0x34) then true
  else if decide (0x40 ≤ op) && decide (op ≤ 0x44) then !laneInts.contains fin
  else false
/-- rnd is used: where ftz is, but for qmax, which rounds nothing (R296), and by a drain of a bank (R327). -/
def roundsOk (op fin fout : Nat) : Bool := op == 0x92 || (op != 0x32 && flushesOk op fin fout)

/-- Fields of a plane that its operation does not use are zero, and those it uses lie in range (R69, R288, R290, R304,
R310, R323, R327); broad: the class of the rectangle. -/
def PlaneSlot.usesOk (p : PlaneSlot) (broad : Bool) : Bool :=
  let op := p.bits 7 0
  let imm := p.imm
  let rnd := p.bits 19 18
  let ftz := p.bits 20 20
  let sat := p.bits 21 21
  let ninv := p.bits 143 128
  let unused (b : Bool) (x : Nat) : Bool := b || x == 0
  let source := [0x57, 0x58, 0x65].contains op
  imm &&& immMask p == imm &&
  formatsOk op p.fin p.fout &&
  unused (roundsOk op p.fin p.fout) rnd &&
  unused (flushesOk op p.fin p.fout) ftz &&
  unused ([0x30, 0x31, 0x92].contains op && [3, 5, 6, 7].contains p.fout) sat &&
  unused (op == 0x63 || op == 0x66 || decide (0x80 ≤ op)) (p.bits 23 23) &&
  unused (op != 0) (p.bits 22 22) &&
  unused (op != 0) (p.bits 155 144) && unused (op != 0) (p.bits 157 156) &&
  unused ([0x33, 0x40, 0x41, 0x42, 0x43, 0x54, 0x56, 0x57, 0x58, 0x65, 0x91].contains op) p.depth &&
  unused (source || [0x85, 0x91, 0x92].contains op) ninv &&
  unused (op != 0x90) (p.bits 206 202) && unused (op != 0x90) (p.bits 207 207) &&
  unused (op == 0x61 || op == 0x62) (p.bits 163 162) &&
  unused (op == 0x60) (p.bits 164 164) && unused (op == 0x60) (p.bits 167 165) &&
  (!source || (ninv != 0 && p.depth != 0)) &&
  (op != 0x65 || decide (p.depth ≤ 8)) &&
  (op != 0x33 || decide (p.depth ≤ 1)) &&
  (op != 0x54 || (p.depth != 0 && decide (p.depth ≤ 16))) &&
  (op != 0x56 || p.depth != 0) &&
  (op != 0x61 || p.bits 163 162 != 0) &&
  (op != 0x50 || decide (imm % 64 < 512 / laneBits p.fin)) &&
  (op != 0x51 || decide (imm % 8 ≤ 5)) &&
  (op != 0x85 || (decide (imm % 32 ≤ 15) && decide (64 * field imm 20 6 + 64 * 2 ^ (imm % 32) ≤ 2097152))) &&
  (if op = 0x90 ∨ op = 0x91 ∨ op = 0x92 then
     let fa := p.bits 196 192
     let fb := p.bits 201 197
     let rows := if op = 0x91 then field imm 17 12 else imm % 64
     let cols := if op = 0x91 then field imm 24 18 else field imm 12 6
     pairOk (!broad) fa fb &&
     (op != 0x90 || (p.fin == fb && p.fout == 0)) &&
     (op != 0x91 || (p.fin == fa && p.fout == 0 && p.depth != 0 && ([0, 1, 2, 3, 4, 8, 9, 0x0D].contains fa || isBx fa))) &&
     (op != 0x92 || (p.fin == 0 && decide (p.fout ≤ 4))) &&
     (!broad || op == 0x90 || (decide (rows < 32) && decide (cols < 64))) &&
     (op == 0x92 || decide (1024 * (imm % 4096) < (if broad then 2097152 else 1048576)))
   else true)

/-- The bits of the mode field that an operation uses (R66). -/
def modeBits (op : Nat) : Nat := if seqOp op then 6 else if [0x90, 0x91, 0x92].contains op then 16 else 0

/-- The fields of a plane are admitted (R66, R67, R69, R308). slots: the plane slots that the image holds at the site. -/
def PlaneSlot.fieldOk (p : PlaneSlot) (broad : Bool) (kind : Nat) (slots : List Nat) : Bool :=
  let op := p.bits 7 0
  let order := p.bits 74 59
  let none := readsNothing op
  p.bits 159 158 == 0 && p.bits 191 168 == 0 && p.bits 247 224 == 0 &&
  p.bits 223 192 / 2 ^ modeBits op == 0 &&
  opBelongs kind op &&
  p.bits 19 18 != 3 &&
  (p.bits 91 90 != 0 || p.src 4 == 0) &&
  (p.bits 91 90 == 1 || p.bits 91 90 == 2 || seqOp op || p.bits 97 96 == 0) &&
  (List.range 4).all (fun o => decide (p.bits (101 + 4 * o) (98 + 4 * o) ≤ 5)) &&
  decide (p.fin ≤ 0x17) && decide (p.fout ≤ 0x17) &&
  (if none then p.bits 58 56 == 0 && order == 0 else order / 4 ^ (p.bits 58 56 + 1) == 0) &&
  (p.bits 94 92 == 0 || decide (2 ≤ p.bits 91 90)) &&
  (p.bits 95 95 == 0 || p.bits 91 90 == 1) &&
  slots.contains (p.bits 157 156) &&
  p.usesOk broad

-- Sequencer words (R71, R313, R319..R324)

/-- Emit kinds of a mode, by operation of the word (R320). -/
def emitKinds (op : Nat) : List Nat :=
  match op with
  | 0x80 => [6]
  | 0x81 => [6, 7, 8, 9]
  | 0x82 => [6]
  | 0x83 => [7]
  | 0x84 => [6, 8]
  | 0x86 => [7, 9]
  | _ => []

/-- A format that a setf may name in a mode (R321, R324). -/
def setfOk (op fmt : Nat) : Bool :=
  if op = 0x86 then [0, 1, 2, 8, 0x0D].contains fmt
  else if op = 0x82 then [0, 1, 2, 0x0D].contains fmt
  else decide (fmt ≤ 0x17)

/-- One word of a plane, its loops aside (R71, R313, R319, R320). -/
def PlaneSlot.wordOk (p : PlaneSlot) (w : BitVec 32) : Bool :=
  let op := p.bits 7 0
  match decodeSeq w with
  | none => false
  | some i =>
    match i with
    | .emitLd _ _ _ _ => (emitKinds op).contains 6
    | .emitSt _ _ _ _ => (emitKinds op).contains 7
    | .emitGth _ _ _ _ _ => (emitKinds op).contains 8
    | .emitSct _ _ _ _ _ => (emitKinds op).contains 9
    | .waitc l => l.toNat != p.bits 97 96 && (p.ctlLinks (l.toNat + 1)).isEmpty
    | .signal l _ => p.bits (101 + 4 * l.toNat) (98 + 4 * l.toNat) == 5
    | .seqSync _ sc => sc.toNat != 0
    | .setf f _ => setfOk op f.toNat
    | .setfIn f _ => setfOk op f.toNat
    | _ => true

/-- Loops and their endl words nest, each endl naming the loop it closes, and no loop uses a counter of an enclosing one
(R71, R313): the first word that breaks this. The stack holds the open loops: word number and counter. -/
def loopBad : List (BitVec 32 × Nat) → List (Nat × Nat) → Option Nat
  | [], st => (st.head?).map (·.1)
  | (w, k) :: ws, st =>
    let opens (n : Nat) : Option Nat := if st.any (fun e => e.2 == n) then some k else loopBad ws ((k, n) :: st)
    match decodeSeq w with
    | some (.loopImm n _) => opens n.toNat
    | some (.loopArg n _) => opens n.toNat
    | some (.endl n top) =>
      (match st with
       | e :: st' => if e = (top.toNat, n.toNat) then loopBad ws st' else some k
       | [] => some k)
    | _ => loopBad ws st

/-- The first sequencer word of a plane that is not admitted (SEQ_FIELD). Every word of every plane is checked, those of
planes that no sequencer runs among them (R71, R313, R320). -/
def PlaneSlot.seqBad (p : PlaneSlot) : Option Nat :=
  match p.seq.zipIdx.find? (fun w => !p.wordOk w.1) with
  | some w => some w.2
  | none => loopBad p.seq.zipIdx []

/-- What the loader refuses a configuration with (R307, R330): the cause, the plane's address, and s.tval2. A bid has no
place yet, so its sites are numbered within the rectangle. -/
structure CfgFault where
  cause : Nat
  tval : Word
  tval2 : Word
  deriving DecidableEq, Repr

/-- The site number of a relative place. -/
def relSite (a : Nat × Nat) : Nat := 32 * a.1 + a.2

/-- The checks of one plane in order (R68, R69, R279, R71). -/
def PlaneSlot.check (p : PlaneSlot) (broad : Bool) (a : Nat × Nat) (slots : List Nat) : Option CfgFault :=
  let stop (c : Nat) : Option CfgFault := some { cause := c, tval := p.addr, tval2 := BitVec.ofNat 64 (relSite a) }
  if !planeOk p.word then stop Cause.cfgCheck
  else if !p.fieldOk broad (elementKind a.1) slots then stop Cause.cfgField
  else if !p.countOk then stop Cause.cfgPorts
  else match p.seqBad with
    | some k => some { cause := Cause.seqField, tval := p.addr, tval2 := BitVec.ofNat 64 (relSite a + 65536 * k) }
    | none => none

-- Ports (R294)

/-- A link of some plane's output, operator input or second input takes the token of an incoming link. -/
def PlaneSlot.routes (p : PlaneSlot) (l : Nat) : Bool := !(p.takers (l + 1)).isEmpty
/-- The data link into port d of a site is driven. -/
def Image.fed (g : Image) (a : Nat × Nat) (d : Nat) : Bool :=
  match g.beside a d with
  | some b => (g.planesAt b).any (fun p => p.src (opposite d) != 0)
  | none => false
/-- The control link into side d of a site is driven. -/
def Image.ctlFed (g : Image) (a : Nat × Nat) (d : Nat) : Bool :=
  match g.beside a d with
  | some b => (g.planesAt b).any (fun p => p.bits (101 + 4 * opposite d) (98 + 4 * opposite d) != 0)
  | none => false

/-- Incoming links on which a source code of a plane depends; a carry ends a cycle. -/
def PlaneSlot.inputsOf (p : PlaneSlot) (code : Nat) : List Nat :=
  let plain (c : Nat) : List Nat := if c = 0 then [] else if c ≤ 4 then [c - 1] else if c = 5 then p.reads else []
  if code ≤ 5 then plain code
  else if p.bits 91 90 = 3 then []
  else plain (p.src 4) ++ (if p.bits 91 90 = 2 then plain (p.bits 94 92) else [])

/-- A directed data link, by the site it leaves and its side. -/
abbrev ImgLink : Type := (Nat × Nat) × Nat
/-- The links that feed a link. -/
def Image.before (g : Image) (l : ImgLink) : List ImgLink :=
  ((g.planesAt l.1).map (fun p => (p.inputsOf (p.src l.2)).filterMap (fun d =>
    (g.beside l.1 d).map (fun b => (b, opposite d))))).flatten
/-- Links without a driven predecessor fall away, n times over. -/
def Image.peel (g : Image) : Nat → List ImgLink → List ImgLink
  | 0, ls => ls
  | n + 1, ls =>
    let rest := ls.filter (fun l => (g.before l).any ls.contains)
    if rest.length = ls.length then ls else g.peel n rest
/-- Driven data links of the image. -/
def Image.links (g : Image) : List ImgLink :=
  (g.sites.map (fun t => ((List.range 4).filter (fun o => t.planes.any (fun p => p.2.src o != 0))).map (fun o => ((t.x, t.y), o)))).flatten

/-- The port rules of R294 hold at a site. -/
def Image.sitePortsOk (g : Image) (t : ImgSite) : Bool :=
  let a := (t.x, t.y)
  (List.range 4).all (fun d =>
    let named := t.planes.any (fun p => p.2.reads.contains d)
    let routed := t.planes.any (fun p => p.2.routes d)
    (!g.fed a d || named || routed) && (!named || g.fed a d)) &&
  t.planes.all (fun p =>
    let rop := p.2.bits 91 90
    (!(rop == 1 || rop == 2) || g.ctlFed a (p.2.bits 97 96)) && (rop != 3 || p.2.bits 94 92 != 0))

/-- The first site whose ports break R294; else the site of a link that stands on a cycle without a carry. -/
def Image.portsBad (g : Image) : Option ImgSite :=
  match g.sites.find? (fun t => !g.sitePortsOk t) with
  | some t => some t
  | none =>
    match g.peel (g.links.length + 1) g.links with
    | [] => none
    | l :: _ => g.sites.find? (fun t => (t.x, t.y) == l.1)

-- Producers

/-- The producer of the data link into port d of a site, followed through routers: its site and source code 5..7. -/
def Image.producer (g : Image) (a : Nat × Nat) (d : Nat) : Nat → Option ((Nat × Nat) × Nat)
  | 0 => none
  | f + 1 =>
    match g.beside a d with
    | none => none
    | some b =>
      match ((g.planesAt b).map (fun p => p.src (opposite d))).find? (fun c => c != 0) with
      | none => none
      | some c => if 5 ≤ c then some (b, c) else g.producer b (c - 1) f
/-- Steps that follow any path of a rectangle. -/
def Image.fuel (g : Image) : Nat := g.w * g.h * 4 + 1
/-- The elements that feed port d of a site, operators followed to their inputs. -/
def Image.feeders (g : Image) (a : Nat × Nat) (d : Nat) : Nat → List (Nat × Nat)
  | 0 => []
  | f + 1 =>
    match g.producer a d g.fuel with
    | none => []
    | some (b, c) =>
      if c = 5 then [b]
      else ((g.planesAt b).map (fun p =>
        ([p.src 4] ++ (if 2 ≤ p.bits 91 90 then [p.bits 94 92] else [])).flatMap (fun c =>
          if c = 5 then [b] else if 1 ≤ c ∧ c ≤ 4 then g.feeders b (c - 1) f else []))).flatten

-- The quantiser triple (R298)

/-- The plane of a site with an operation. -/
def Image.planeOf (g : Image) (a : Nat × Nat) (op : Nat) : Option PlaneSlot := (g.planesAt a).find? (fun p => p.bits 7 0 == op)

/-- One qcvt stands with its qmax and its delay as R298 asks. -/
def Image.qcvtOk (g : Image) (a : Nat × Nat) (p : PlaneSlot) : Bool :=
  let n := groupTokens p.fin p.fout
  let r := p.reads
  let d := r.getD 1 0
  match g.producer a (r.headD 0) g.fuel, g.producer a d g.fuel with
  | some (m, 5), some (e, 5) =>
    match g.planeOf m 0x32, g.planeOf e 0x54 with
    | some q, some y =>
      r.length == n + 1 && (r.drop 1).all (fun k => k == d) && r.headD 0 != d &&
      y.depth == n && q.fin == p.fin && q.fout == p.fout &&
      (match g.producer m (q.reads.headD 0) g.fuel, g.producer e (y.reads.headD 0) g.fuel with
       | some u, some v => u == v
       | _, _ => false)
    | _, _ => false
  | _, _ => false
/-- A site with a qcvt that is not admitted (CFG_QNT). -/
def Image.qntBad (g : Image) : Option ImgSite :=
  g.sites.find? (fun t => t.planes.any (fun p => p.2.bits 7 0 == 0x33 && !g.qcvtOk (t.x, t.y) p.2))

-- Duplicated pipelines (R306)

/-- A plane with its routing fields cleared. -/
def PlaneSlot.unrouted (p : PlaneSlot) : Nat × List (BitVec 32) :=
  let x := p.word.toNat % 2 ^ 248
  (x % 2 ^ 59 + 2 ^ 114 * (x / 2 ^ 114), p.seq)
/-- The element of a site carries the twin flag. -/
def Image.twin (g : Image) (a : Nat × Nat) : Bool := (g.planesAt a).any (fun p => p.bits 22 22 == 1)
/-- The site holds a comparator. -/
def Image.isCmpk (g : Image) (a : Nat × Nat) : Bool := (g.planeOf a 0x63).isSome
/-- Elements that feed a site, read by read. -/
def Image.inputs (g : Image) (a : Nat × Nat) : List (List (Nat × Nat)) :=
  ((g.planesAt a).map (fun p => p.reads.map (fun d => g.feeders a d g.fuel))).flatten
/-- Two cones are equal back to their common origins. -/
def Image.conesEq (g : Image) : Nat → Nat × Nat → Nat × Nat → Bool
  | 0, _, _ => true
  | f + 1, a, b =>
    a == b ||
    ((g.planesAt a).map PlaneSlot.unrouted == (g.planesAt b).map PlaneSlot.unrouted &&
     (g.inputs a).length == (g.inputs b).length &&
     ((g.inputs a).zip (g.inputs b)).all (fun e =>
       e.1.length == e.2.length && (e.1.zip e.2).all (fun h => g.conesEq f h.1 h.2)))
/-- Comparators that an element reaches through twin elements only. -/
def Image.cmpksOf (g : Image) : Nat → List (Nat × Nat) → List (Nat × Nat) → List (Nat × Nat)
  | 0, _, found => found
  | _, [], found => found
  | f + 1, front, found =>
    let next := ((g.sites.map (fun t => (t.x, t.y))).filter (fun b => (g.inputs b).any (fun l => l.any front.contains)))
    g.cmpksOf f (next.filter (fun b => !g.isCmpk b && g.twin b)) (found ++ (next.filter (fun b => g.isCmpk b && !found.contains b)))
/-- The twin rules of R306 hold at a site. -/
def Image.siteTwinOk (g : Image) (a : Nat × Nat) : Bool :=
  (!g.twin a || g.isCmpk a || (g.cmpksOf (g.sites.length + 1) [a] []).length == 1) &&
  (!g.isCmpk a ||
    (match g.inputs a with
     | [u, v] => u.all g.twin && v.all g.twin && u.length == v.length && !u.isEmpty &&
         (u.zip v).all (fun h => g.conesEq g.sites.length h.1 h.2)
     | _ => false))
/-- A site that breaks the twin rules (CFG_TWIN). -/
def Image.twinBad (g : Image) : Option ImgSite := g.sites.find? (fun t => !g.siteTwinOk (t.x, t.y))

/-- The first of a list of choices. -/
def firstSome {α : Type} : List (Option α) → Option α
  | [] => none
  | some x :: _ => some x
  | none :: l => firstSome l

/-- A refusal of a site: it names the first of its planes (R307). -/
def ImgSite.refuse (t : ImgSite) (cause : Nat) : CfgFault :=
  { cause := cause, tval := ((t.planes.head?).map (fun p => p.2.addr)).getD 0, tval2 := BitVec.ofNat 64 (relSite (t.x, t.y)) }

/-- The checks of a whole image: the first plane that fails, then the rules over all of them (R69, R71, R294, R298, R306). -/
def Image.check (g : Image) : Option CfgFault :=
  let one (t : ImgSite) : Option CfgFault :=
    firstSome (t.planes.map (fun p => p.2.check g.broad (t.x, t.y) (t.planes.map (·.1))))
  firstSome (g.sites.map one ++
    [g.portsBad.map (fun t => t.refuse Cause.cfgPorts), g.qntBad.map (fun t => t.refuse Cause.cfgQnt),
     g.twinBad.map (fun t => t.refuse Cause.cfgTwin)])

-- Reading an image (R441, R442)

/-- Bytes of a virtual span, read as a load of the loader (R442). -/
def State.imageBytes (s : State) (p : Party) (va n : Nat) : Chk (List Byte) :=
  (s.agentCheck p .read .fabric 0 va n).andThen (fun s ps => .ok s (s.homeBytes ps))

/-- Bits of a byte string. -/
def bitsAt (bs : List Byte) (off n : Nat) : Nat := valueLE ((bs.drop off).take n)

/-- The present planes of a site, in ascending slots (R441); each plane of an MT site has 64 sequencer words of its own (R506). -/
def State.readPlanes (s : State) (p : Party) (base poff soff : Nat) (mt : Bool) : List Nat → Nat → Chk (List (Nat × PlaneSlot))
  | [], _ => .ok s []
  | k :: ks, i =>
    (s.imageBytes p (base + poff + 32 * i) 32).andThen (fun s bs =>
      (if mt then s.imageBytes p (base + soff + 256 * i) 256 else .ok s []).andThen (fun s ws =>
        let x : PlaneSlot :=
          { word := BitVec.ofNat 256 (valueLE bs), addr := BitVec.ofNat 64 (base + poff + 32 * i)
            seq := if mt then (List.range 64).map (fun j => BitVec.ofNat 32 (bitsAt ws (4 * j) 4)) else [] }
        (s.readPlanes p base poff soff mt ks (i + 1)).andThen (fun s rest => .ok s ((k, x) :: rest))))

/-- The entries of the site table from number i on; an entry that breaks a rule of the table faults with CFG_FIELD. -/
def State.readSites (s : State) (p : Party) (base w h : Nat) (last : Option Nat) : Nat → Nat → Chk (List ImgSite)
  | 0, _ => .ok s []
  | n + 1, i =>
    (s.imageBytes p (base + 64 + 16 * i) 16).andThen (fun s bs =>
      let w0 := bitsAt bs 0 8
      let w1 := bitsAt bs 8 8
      let x := w0 % 256
      let y := field w0 12 8
      let mt := elementKind x == 1
      let poff := w1 % 2 ^ 32
      let soff := w1 / 2 ^ 32
      let rising := match last with
        | some k => decide (k < 32 * x + y)
        | none => true
      if w0 / 2 ^ 17 ≠ 0 ∨ w ≤ x ∨ h ≤ y ∨ poff % 32 ≠ 0 ∨ (if mt then soff % 4 else soff) ≠ 0 ∨ rising = false then
        .fault s Cause.cfgField (BitVec.ofNat 64 (base + 64 + 16 * i)) 0
      else
        let slots := (List.range 4).filter (fun k => (field w0 16 13).testBit k)
        (s.readPlanes p base poff soff mt slots 0).andThen (fun s ps =>
          (s.readSites p base w h (some (32 * x + y)) n (i + 1)).andThen (fun s rest =>
            .ok s ({ x := x, y := y, planes := ps } :: rest))))

/-- An image is fetched and checked (R442, step 1): it faults with the loader's cause or the cause of a load. -/
def State.readImage (s : State) (p : Party) (base : Nat) : Chk Image :=
  if base % 64 ≠ 0 then .fault s Cause.cfgField (BitVec.ofNat 64 base) 0
  else
    (s.imageBytes p base 64).andThen (fun s bs =>
      let w0 := bitsAt bs 0 8
      let w1 := bitsAt bs 8 8
      let broad := w0 % 2 == 1
      let w := field w0 8 1
      let h := field w0 13 9
      if w0 / 2 ^ 14 ≠ 0 ∨ w1 / 2 ^ 13 ≠ 0 ∨ bitsAt bs 16 48 ≠ 0 ∨ w = 0 ∨ 192 < w ∨ h = 0 ∨ (if broad then 8 else 24) < h ∨
          w1 = 0 ∨ w * h < w1 then .fault s Cause.cfgField (BitVec.ofNat 64 base) 0
      else
        (s.readSites p base w h none w1 0).andThen (fun s sites =>
          let g : Image := { broad := broad, w := w, h := h, sites := sites }
          match g.check with
          | some f => .fault s f.cause f.tval f.tval2
          | none => .ok s g))

end Sys2Proof.Machine
end

