-- ==== Sys2Proof/Machine/Waits.lean ====
section
/-!
DEFINITION. Waits after a block's commit point (R181) and how they end.
-/

namespace Sys2Proof.Machine

/-- A waiting member of a barrier tests its phase (R188). -/
def State.testBar (s : State) (core ctx e : Nat) : State :=
  match mfind (s.ctxOf core ctx).sets e with
  | none => s.onCtx core ctx (fun c => { c with phase := .fetch })
  | some m =>
    let p := s.partyOf core ctx
    match s.translate p.ptb p.asid p.super .both (BitVec.ofNat 64 m.record) with
    | .error _ => s
    | .ok l =>
      if s.ownedByEngine p.asid (m.record % 2 ^ 57) 64 || s.convertingAt l.pa then s
      else
      let r := s.readRec core ctx l.pa
      if r.2.phase ≠ m.phase then r.1.passBar core ctx e r.2.scope else r.1

/-- The wait of a context is tested; it ends when its condition holds (R181). A fault wait
ends by a resolution, a gate wait when the gate opens. A context in a block reads a bundle of its buffer that holds flipped bits
(R362). -/
def State.retestWait (s : State) (core ctx : Nat) : State :=
  match (s.ctxOf core ctx).phase with
  | .wait (.bar e) => s.testBar core ctx e
  | .wait (.recv ring d a) =>
    if (mget {} (s.ctxOf core ctx).rings ring).occ = 0 then s else (s.takeMsg core ctx ring d a []).state
  | .wait (.waitev d) => ((s.evqHerd core ctx).bind (s.takeEvent core ctx d [])).getD s
  | .wait (.sleep mask) => (s.wakeSleep core ctx mask).getD s
  | .wait .exit => (s.tryRetire core ctx).getD s
  | .body => s.readBuffer core ctx
  | _ => s

end Sys2Proof.Machine
end

