-- ==== Sys2Proof/Machine/Switch.lean ====
section
/-!
DEFINITION. Switch-out, save and resume of a thread (R248, R335, R419..R423).
-/

namespace Sys2Proof.Machine

-- Save slots (R419)

/-- The save slots that no thread holds: the lowest (R419). -/
def State.freeSlot (s : State) : Option Nat :=
  let used := s.launch.threads.map (fun t => t.2.slot)
  let n := (s.creg 0x3048).toNat % 2 ^ 20
  let rec go : Nat → Nat → Option Nat
    | 0, _ => none
    | f + 1, k => if n ≤ k then none else if used.contains k then go f (k + 1) else some k
  go (used.length + 1) 0

/-- A state register held per context (R36). -/
def srPerContext (n : Nat) : Bool := srAssigned n && !([0x002, 0x004, 0x021, 0x024, 0x025] : List Nat).contains n

-- Suspension of commands (R248)

/-- A scat.add is in the middle of a box: the box is finished first (R248). -/
def Command.midBox (c : Command) : Bool :=
  c.adds && !c.stopped && c.status == 0 && c.prog % 4096 != 0 && decide (c.prog < c.total)

/-- A command as it is saved: boxes that are not complete are written again whole (R248). -/
def Command.suspend (c : Command) : Command := { c with issued := c.landed }

/-- The commands of a context leave its core's engine and queue and are saved, oldest first (R248). -/
def State.suspendCommands (s : State) (core handle : Nat) : State :=
  let k := s.core core
  let mine (c : Command) : Bool := c.handle == handle
  let running := match k.engine with
    | some c => if mine c then [c.suspend] else []
    | none => []
  let saved := running ++ (k.copq.filter mine).map Command.suspend
  let s := s.onCore core (fun k =>
    { k with engine := (match k.engine with
               | some c => if mine c then none else some c
               | none => none)
             copq := k.copq.filter (fun c => !mine c) })
  s.onThread handle (fun t => { t with cmds := saved ++ t.cmds })

-- SWITCH_OUT (R421)

/-- The block in progress is discarded and the context is uncoupled (R27, R193). -/
def Context.stopBlock (c : Context) : Context :=
  let a := c.addr
  let c := if c.phase = .body then c.discard.fetchFrom a else c
  { c with gang := none }

/-- SWITCH_OUT of the acting context (R409, R421): a pending trap enters first, at the header of a block that it discards; an
exposed instruction is performed first. Its commands are suspended and its ring state is locked. -/
def execSwitchOut (s : State) : Out :=
  let core := s.act.core
  let ctx := s.act.ctx
  let c := s.ctxOf core ctx
  let running := match (s.core core).engine with
    | some e => e.handle == c.handle && e.midBox
    | none => false
  let early := (c.phase == .fetch || c.phase == .body) && (c.pendFault.isSome || c.qntInf.isSome)
  match c.phase with
  | .exposed _ => .next s
  | _ =>
    if !c.live || !c.switchReq || c.locked then .next s
    else if early then .next (if c.phase == .body then s.onCtx core ctx Context.stopBlock else s)
    else if running then .next s
    else
      let s := (s.onCtx core ctx Context.stopBlock).applyWindow core ctx
      let s := s.suspendCommands core c.handle
      let s := s.onCtx core ctx (fun c => { c with locked := true })
      .next (s.onThread c.handle (fun t => { t with saving := true }))

-- SAVE_COMPLETE (R420, R421)

/-- Code of a wait, and the ring or mask (R420). -/
def waitWord : Option Wait → Nat
  | none => 0
  | some (.bar _) => 1
  | some (.gate _) => 2
  | some (.recv r _ _) => 3 + 16 * r
  | some (.waitev _) => 4
  | some (.sleep m) => 5 + 16 * m
  | some .exit => 6
  | some (.fault _) => 7

/-- The wait of a context. -/
def Context.waiting (c : Context) : Option Wait :=
  match c.phase with
  | .wait w => some w
  | _ => none

/-- Operand of a wait: the record's address, or the fault-record index (R420). -/
def Context.waitOperand (c : Context) : Nat :=
  match c.waiting with
  | some (.bar e) => ((mfind c.sets e).map (·.record)).getD 0
  | some (.gate e) => ((mfind c.sets e).map (·.record)).getD 0
  | some (.fault i) => i
  | _ => 0

/-- The escape word of a save slot (R420). -/
def Context.escapeWord (c : Context) : Nat :=
  (c.sr 0x00F).toNat % 65536 + 65536 * b2n c.ticket.isSome +
  2 ^ 17 * b2n (match c.ticket with
    | some (_, _, r) => r
    | none => false) +
  2 ^ 18 * b2n c.timerEvent + 2 ^ 19 * b2n c.pendFault.isSome + 2 ^ 20 * b2n (c.timerEvent && c.ie)

/-- The reserved words of a save slot from one offset up to another: zero (R420). -/
def zeroWords (a b : Nat) : List (Nat × Word) := (List.range ((b - a) / 8)).map (fun i => (a + 8 * i, 0))

/-- Words of a save slot by offset, the register region aside (R420). -/
def State.slotTail (s : State) (c : Context) : List (Nat × Word) :=
  let w (n : Nat) : Word := BitVec.ofNat 64 n
  let f := c.pendFault.getD { cause := 0, tval := 0, tval2 := 0 }
  let held (k : Nat) : Option (Nat × Word) := c.held[k]?
  let cmds := match s.thread c.handle with
    | some t => t.cmds
    | none => []
  [(0xE00, c.addr), (0xE08, w (waitWord c.waiting)), (0xE10, w c.waitOperand), (0xE18, w c.escapeWord)] ++
  (List.range 4).map (fun r =>
    let x : Ring := mget {} c.rings r
    (0xE20 + 8 * r, w (x.head + 16 * x.occ))) ++
  ((List.range 4).map (fun r => match mfind c.binds r with
    | some b => [(0xE40 + 16 * r, b.task), (0xE48 + 16 * r, w (b.pri + 4 * b2n b.armed))]
    | none => [(0xE40 + 16 * r, 0), (0xE48 + 16 * r, 0)])).flatten ++
  ((List.range 4).map (fun k => match held k with
    | some h => [(0xE80 + 16 * k, h.2), (0xE88 + 16 * k, w (h.1 + 4))]
    | none => [(0xE80 + 16 * k, 0), (0xE88 + 16 * k, 0)])).flatten ++
  (List.range 4).map (fun k => (0xEC0 + 8 * k, match mfind c.sets k with
    | some m => w (m.record + b2n m.phase + 2 * b2n m.arrived + 4)
    | none => 0)) ++
  [(0xEE0, w (s.walksOf c.handle 1 % 256)), (0xEE8, w f.cause), (0xEF0, f.tval), (0xEF8, f.tval2)] ++
  ((cmds.zipIdx.map (fun x =>
    let o := 0x1000 + 512 * x.2
    (List.range 8).map (fun i => (o + 8 * i, x.1.descA.getD i 0)) ++
    [(o + 64, x.1.done), (o + 72, w (x.1.major + 64 * x.1.fn + 4096)),
     (o + 80, if x.1.major < 0x23 then x.1.cebox else 0)] ++
    (List.range 16).flatMap (fun i => match x.1.fix[i]? with
      | some g => [(o + 96 + 16 * i, w g.start), (o + 104 + 16 * i, w (g.len % 2 ^ 40 + 2 ^ 40 * g.cause))]
      | none => [(o + 96 + 16 * i, 0), (o + 104 + 16 * i, 0)]))).flatten) ++
  zeroWords 0xD08 0xE00 ++ zeroWords 0xF00 0x1000 ++
  (List.range 3).flatMap (fun m =>
    if m < cmds.length then zeroWords (0x1000 + 512 * m + 88) (0x1000 + 512 * m + 96) ++ zeroWords (0x1000 + 512 * m + 352) (0x1000 + 512 * m + 512)
    else zeroWords (0x1000 + 512 * m) (0x1000 + 512 * m + 512)) ++
  zeroWords 0x1600 0x2000

/-- The register region of a save slot (R360, R420): registers held per core are written zero. -/
def State.slotHead (s : State) (core ctx : Nat) : List (Nat × Word) :=
  (List.range 0x1A1).map (fun i =>
    let off := 8 * i
    (off, if 0x800 ≤ off ∧ srPerContext ((off - 0x800) / 8) = false then 0 else (s.windowRead core ctx off).getD 0))

/-- A gang member is to resume on the core that it left (R185). -/
def State.gangPin (s : State) (core ctx : Nat) : Option Nat :=
  let c := s.ctxOf core ctx
  let p := s.partyOf core ctx
  if c.sets.any (fun m => match s.translate p.ptb p.asid p.super .read (BitVec.ofNat 64 m.2.record) with
    | .ok l => !(s.readRec core ctx l.pa).2.pool
    | .error _ => false) then some core else none

/-- The exposed instruction that a context has still to perform: one that waits for a resolution, or that a resolution has freed
while the save was in progress (R412). -/
def Context.pendingAccess (c : Context) : Option Instr :=
  match c.phase with
  | .exposed i => some i
  | _ => c.lost

/-- SAVE_COMPLETE of the acting context (R421): the slot is written, and the context and its barrel slot are freed. The
writes that have left its port are performed at DEVICE scope first (R335). -/
def execSaveComplete (s : State) : Out :=
  let core := s.act.core
  let ctx := s.act.ctx
  let c0 := s.ctxOf core ctx
  if !c0.live || !c0.locked then .next s
  else
    let s := s.pushWrites core ctx 2
    if (s.core core).wq.any (fun f => f.ctx == ctx && (f.atPort || f.pendingAt 2)) then .next s
    else
      let s := (s.readAllRegs core ctx).onCtx core ctx (fun c => c.raise s.time)
      let c := s.ctxOf core ctx
      let pin := s.gangPin core ctx
      let mode := (s.core core).pmode
      let words := s.slotHead core ctx ++ s.slotTail c
      let s := words.foldl (fun s x => s.putSlotWord c.handle x.1 x.2) s
      let s := s.onThread c.handle (fun t =>
        { t with place := none, saving := false, savedAt := s.time, pmode := mode, pin := pin, wait := c.waiting
                 ticketSite := (c.ticket.map (·.1)).getD 0, ticketLaunch := c.ticketLaunch
                 lost := c.pendingAccess, view := if c.pendingAccess.isSome then c.snap else none
                 seen := c.seen.filter (fun i => s.idsPending [i] 3), inf := c.qntInf })
      .next (s.onCore core (fun k => { (k.freeBarrel ctx) with ctxs := mdel k.ctxs ctx, vuq := k.vuq.filter (fun e => e.ctx != ctx) }))

-- RESUME (R423)

/-- A state register as a slot's word gives it: reserved bits are dropped (R8). -/
def slotField (n : Nat) (x : Word) : Word :=
  match n with
  | 0x00F => x &&& 0xFFFF
  | 0x020 => x &&& 0x2F
  | 0x023 => x &&& 0x7FFFF
  | 0x040 => x &&& 0xFFFFFFFFFFFFFFF8
  | 0x060 => x &&& 0xFFFFFFFE00000
  | 0x061 => x &&& 0xFFFF
  | 0x062 => x &&& 0xFFFFFFFFFFFFF01F
  | 0x063 => x &&& 0x1FF
  | 0x064 => x &&& 0xFFFFFFFFFFFFFFC0
  | n => x &&& srMask n

/-- The registers that a save slot holds. -/
def State.slotRegs (s : State) (h : Nat) : Regs :=
  let tags := (s.slotWord h 0x700).toNat
  let g := (List.range 63).foldl (fun (r : Regs) i =>
    let k := i + 1
    let x : Tagged := { val := s.slotWord h (8 * k), tag := tags.testBit k }
    if x = {} then r else r.setG k x) {}
  let v := (List.range 16).foldl (fun (r : Regs) k =>
    let x : Vec := BitVec.ofNat 512 (packElems 64 ((List.range 8).map (fun i => (s.slotWord h (0x200 + 64 * k + 8 * i)).toNat)))
    if x = 0 then r else r.setV k x) g
  let m := (s.slotWord h 0x608).toNat
  let k := [1, 2, 3].foldl (fun (r : Regs) i => r.setK i (BitVec.ofNat 16 (m >>> (16 * i)))) v
  { k with p := (s.slotWord h 0x600).setWidth 8 ||| 1, fcsr := slotField 0x023 (s.slotWord h (0x800 + 8 * 0x023)) }

/-- The state registers that a save slot holds, those computed elsewhere aside. -/
def State.slotSregs (s : State) (h : Nat) : Map Word :=
  ((List.range 0x0A1).filter (fun n => srPerContext n && !([0x003, 0x022, 0x023, 0x065, 0x066, 0x067, 0x0A0] : List Nat).contains n)).foldl
    (fun m n =>
      let x := slotField n (s.slotWord h (0x800 + 8 * n))
      if x = srReset n then m else mset m n x) []

/-- A context as its save slot describes it, elapsed cycles after the save (R423). -/
def State.slotContext (s : State) (h : Nat) (t : Thread) : Context :=
  let regs := s.slotRegs h
  let e := (s.slotWord h 0xE18).toNat
  let timer := (s.slotWord h (0x800 + 8 * 0x022)).toNat
  let gone := s.time - t.savedAt
  let ticket := if e.testBit 16 then some (t.ticketSite, e % 65536, e.testBit 17) else none
  let fault : Option StateFault :=
    if e.testBit 19 then some { cause := (s.slotWord h 0xEE8).toNat % 512, tval := s.slotWord h 0xEF0, tval2 := s.slotWord h 0xEF8 }
    else none
  let sets : Map Member := (List.range 4).foldl (fun m k =>
    let x := (s.slotWord h (0xEC0 + 8 * k)).toNat
    if x.testBit 2 then mset m k { record := x / 64 * 64, phase := x.testBit 0, arrived := x.testBit 1 } else m) []
  let rings : Map Ring := (List.range 4).foldl (fun m r =>
    let x := (s.slotWord h (0xE20 + 8 * r)).toNat
    if x % 512 = 0 then m else mset m r { head := x % 16, occ := field x 8 4 }) []
  let binds : Map Bind := (List.range 4).foldl (fun m r =>
    let a := s.slotWord h (0xE40 + 16 * r)
    let x := (s.slotWord h (0xE48 + 16 * r)).toNat
    if a = 0 ∧ x = 0 then m else mset m r { task := a, pri := x % 4, armed := x.testBit 2 }) []
  let held := (List.range 4).filterMap (fun k =>
    let x := (s.slotWord h (0xE88 + 16 * k)).toNat
    if x.testBit 2 then some (x % 4, s.slotWord h (0xE80 + 16 * k)) else none)
  let phase : Phase := match t.wait with
    | some w => .wait w
    | none => match t.lost with
      | some i => .exposed i
      | none => .fetch
  { live := true, handle := h, arch := regs, work := regs, sreg := s.slotSregs h, phase := phase
    timerAt := if timer ≤ gone then none else some (s.time + (timer - gone))
    timerEvent := e.testBit 18 || (timer != 0 && decide (timer ≤ gone))
    addr := s.slotWord h 0xE00, pendFault := fault, qntInf := t.inf, sets := sets, rings := rings, binds := binds, held := held
    ticket := ticket, ticketLaunch := t.ticketLaunch, snap := t.view, lost := if t.wait.isSome then t.lost else none, seen := t.seen }

/-- The thread with a handle can resume in a context: it is saved, the context is free, the mode is its own, and a gang
member's core is its own (R16, R185). -/
def State.canResume (s : State) (h core ctx : Nat) : Bool :=
  match s.thread h with
  | some t => t.place.isNone && !t.saving && !(s.ctxOf core ctx).live && decide (ctx < (s.core core).nctx) &&
      t.pmode == (s.core core).pmode && (match t.pin with
        | some p => p == core || t.abort.isSome
        | none => true)
  | none => false

/-- Saved command m with the boxes that its save slot marks complete (R248, R420). -/
def State.slotCommand (s : State) (h m : Nat) (c : Command) : Command :=
  if c.major < 0x23 then c.withBoxes (s.slotWord h (0x1000 + 512 * m + 80)) else c

/-- A saved thread is read into a context (R423): acquire at DEVICE, held pushes, saved commands. One that was aborted
while it was switched out retires (R412). -/
def State.resumeAt (s : State) (h core ctx : Nat) : State :=
  match s.thread h with
  | none => s
  | some t =>
    let s := s.detectSpan (s.localPa (s.saveSlot h)) 8192
    let cmds := t.cmds.zipIdx.map (fun x => s.slotCommand h x.2 x.1)
    let s := s.setCtx core ctx (s.slotContext h t)
    let s := s.onThread h (fun t => { t with cmds := cmds, place := some (core, ctx), wait := none, lost := none, view := none, seen := [], inf := none, abort := none })
    let s := ((s.acquire core 2).flushHeld core).refill core 3
    match t.abort with
    | some cause => s.retire core ctx cause
    | none => s

end Sys2Proof.Machine
end

