-- ==== Sys2Proof/Machine/Launch.lean ====
section
/-!
DEFINITION. The launch unit and the distributor: launch queues (R380, R381), admission (R384..R389), the start of threads
(R20, R21, R387, R388), barrel slots (R391..R393), placement (R394, R395), resumption (R423), completion (R386) and the
start of escape threads (R300).
-/

namespace Sys2Proof.Machine

-- Queues and records (R380, R382)

/-- A launch queue. -/
def State.queue (s : State) (q : Nat) : LaunchQueue := mget {} s.launch.queues q
/-- A launch queue changed. -/
def State.onQueue (s : State) (q : Nat) (f : LaunchQueue → LaunchQueue) : State :=
  { s with launch := { s.launch with queues := mset s.launch.queues q (f (s.queue q)) } }

/-- A word of a launch record. -/
def recWord (r : List Word) (k : Nat) : Nat := (r.getD k 0).toNat
/-- Fields of a launch record (R382). -/
def recKind (r : List Word) : Nat := recWord r 0 % 8
def recPool (r : List Word) : Bool := (recWord r 0).testBit 3
def recCount (r : List Word) : Nat := field (recWord r 0) 27 8
def recChildren (r : List Word) : Nat := field (recWord r 0) 39 28
def recMask (r : List Word) : Nat := recWord r 2 % 64
def recFixed (r : List Word) : Bool := (recWord r 2).testBit 6
def recHerd (r : List Word) : Nat := field (recWord r 2) 14 7
def recMxes (r : List Word) : Nat := field (recWord r 2) 22 15
def recBroad (r : List Word) : Bool := (recWord r 2).testBit 23
def recDone (r : List Word) : Nat := recWord r 7 % 4
/-- The record permits a field: a mask of zero permits each (R382). -/
def recPermits (r : List Word) (f : Nat) : Bool := recMask r == 0 || (recMask r).testBit f

/-- A write of c.lqtail (R380, R381): a tail more than the ring's size ahead of head halts the queue. -/
def State.writeTail (s : State) (q v : Nat) : State :=
  let s := s.onQueue q (fun x => { x with tail := BitVec.ofNat 32 v })
  let x := s.queue q
  if x.en && !x.ovf && decide (2 ^ x.lsize < (x.tail - x.head).toNat) then
    (s.onQueue q (fun x => { x with ovf := true })).postFault { cause := Cause.launchQovf, sev := 3, src := 7 }
  else s
/-- LQTAIL_WRITE. Operands: queue, value. -/
def execLqtailWrite (s : State) : Out := .next (s.writeTail (s.arg 0 % 64) (s.arg 1))

/-- A queue as a party: the launch unit reads with the rights of U (R351, R384). -/
def State.queueParty (s : State) (q : Nat) : Party :=
  { ptb := (s.queue q).ptb.toNat, asid := (s.queue q).asid.toNat, super := false, core := 0, ctx := 0, isCtx := false }

/-- Words at a virtual address, read by the launch unit. -/
def State.unitWords (s : State) (p : Party) (va n : Nat) : Chk (List Word) :=
  (s.agentCheck p .read .load 0 va (8 * n)).andThen (fun s ps =>
    let bs := s.homeBytes ps
    .ok s ((List.range n).map (fun k => BitVec.ofNat 64 (bitsAt bs (8 * k) 8))))

-- Presence

/-- The herd may hold new threads: it is in no window and not retired (R456). -/
def State.herdOpen (s : State) (h : Nat) : Bool := !(s.herd h).window && !(s.herd h).retired
/-- A context of a present core that ordinary threads may use. -/
def State.usable (s : State) (core ctx : Nat) : Bool :=
  decide (core < 1536) && !s.absent core && decide (ctx < (s.core core).nctx) && !(s.core core).reservedCtx ctx
/-- Usable contexts of a herd, in ascending core and context. -/
def State.usableOf (s : State) (h : Nat) : List (Nat × Nat) :=
  (coresOfHerd h).flatMap (fun c => ((List.range (s.core c).nctx).filter (fun k => s.usable c k)).map (fun k => (c, k)))
/-- Present cores of a herd. -/
def State.presentCores (s : State) (h : Nat) : List Nat := (coresOfHerd h).filter (fun c => !s.absent c)
/-- Herds that a record permits. -/
def permittedHerds (r : List Word) : List Nat :=
  if recFixed r then [recHerd r] else (List.range 192).filter (fun h => recPermits r (fieldOfHerd h))

-- Completion records (R386)

/-- The words of a LAUNCH_DONE record; a refused one names no launch. -/
def doneRecord (launch outcome cause started : Nat) (status : Word) (lost : Nat) (child : Option Nat) : EventRec :=
  [eventWord0 0x0040 0xFFFFFFFF,
   BitVec.ofNat 64 ((if outcome = 1 then 0 else launch % 4096) + 4096 * (outcome % 4) + 65536 * (cause % 512) + 2 ^ 32 * (started % 2 ^ 32)),
   status,
   BitVec.ofNat 64 (lost % 2 ^ 32 + 2 ^ 32 * (child.getD 0 % 4096) + 2 ^ 44 * b2n child.isSome)]

/-- A completion record of four words to a virtual address of a launch (R386): each word is performed at SYSTEM scope. A
target that cannot be written loses the record. -/
def State.writeRecord (s : State) (p : Party) (va : Nat) (e : EventRec) : State :=
  match s.agentCheck p .write .store 0 va 32 with
  | .ok s ps =>
    s.agentBytes ps (bytesLE 32 (packElems 64 (e.map (·.toNat))))
  | .fault s _ _ _ => s
  | .wait => s

/-- A completion target takes a record now (R18, R386): memory unless the store has to wait, a herd's event queue while it
holds fewer than 256 records. q: the queue of the launch. -/
def State.targetReady (s : State) (q : Nat) (r : List Word) : Bool :=
  match recDone r with
  | 1 => (match s.agentCheck (s.queueParty q) .write .store 0 (recWord r 7 / 32 * 32) 32 with
    | .wait => false
    | _ => true)
  | 2 =>
    let h := s.herd (field (recWord r 7) 12 5)
    h.posts.isEmpty && decide (h.events.length < 256)
  | _ => true

/-- A completion record goes to its record's target (R386). -/
def State.toTarget (s : State) (q : Nat) (r : List Word) (e : EventRec) : State :=
  match recDone r with
  | 1 => s.writeRecord (s.queueParty q) (recWord r 7 / 32 * 32) e
  | 2 => s.postEvent 5 (field (recWord r 7) 12 5) e
  | _ => s

/-- A live launch ends: its record is posted, its MXEs are released and its entry is free (R386, R388, R389). -/
def State.completeLaunch (s : State) (l outcome cause : Nat) : State :=
  match mfind s.launch.live l with
  | none => s
  | some x =>
    let s := s.toTarget x.queue x.record (doneRecord l outcome cause x.started x.status x.lost x.child)
    let s := x.mxes.foldl (fun s e => s.assignMxe e none 0 false) s
    { s with launch := { s.launch with live := mdel s.launch.live l, freed := s.launch.freed ++ [l] } }

-- Admission (R384, R385)

/-- Field limits of a record (LAUNCH_FIELD otherwise). -/
def recFieldsOk (r : List Word) : Bool :=
  let kind := recKind r
  let w2 := recWord r 2
  let w7 := recWord r 7
  (kind == 1 || kind == 2 || kind == 3) &&
  field (recWord r 0) 7 4 == 0 && recWord r 0 / 2 ^ 40 == 0 && w2 / 2 ^ 24 == 0 && field w7 4 2 == 0 &&
  (kind == 2 || (!recPool r && field w2 14 6 == 0)) &&
  (field w2 6 6 == 0 || decide (recHerd r < 192)) &&
  (if kind = 3 then recCount r == 0 && field w2 23 15 == 0 && recWord r 4 == 0 && recWord r 5 == 0
   else decide (1 ≤ recCount r) && decide (recMxes r ≤ 64)) &&
  (kind != 1 || decide (recCount r ≤ 524288)) &&
  (kind != 2 || (recWord r 3 == 0 && recWord r 4 == 0 && recWord r 5 == 0)) &&
  recDone r != 3 && (recDone r != 2 || (w7 / 2 ^ 13 == 0 && decide (field w7 12 5 < 192)))

/-- A shape's tile counts by dimension (R20); shape and tile words of the record. -/
def shapeT (r : List Word) (d : Nat) : Nat := if d < 2 then elemOf 32 d (recWord r 3) else elemOf 32 (d - 2) (recWord r 4)
def shapeE (r : List Word) (d : Nat) : Nat := elemOf 16 d (recWord r 5)
def tilesOf (r : List Word) (d : Nat) : Nat := ceilDiv (shapeT r d) (shapeE r d)
/-- The shape of a thread record is admitted (R20, R384). -/
def recTilesOk (r : List Word) : Bool :=
  recWord r 5 == 0 ||
  ((List.range 4).all (fun d => shapeT r d != 0 && shapeE r d != 0) &&
   decide (tilesOf r 0 * tilesOf r 1 * tilesOf r 2 * tilesOf r 3 ≤ recCount r))

/-- A set record that join.new accepts stands at a virtual address (R185, R384). -/
def State.setUsable (s : State) (p : Party) (va : Nat) : Chk Bool :=
  if va % 64 ≠ 0 then .ok s false
  else
    (s.agentCheck p .both .atomic 0 va 64).andThen (fun s ps =>
      let pa := (ps.headD (0, 0)).1
      let w0 := (s.homeWord (pa / 8)).val.toNat
      .ok s (field w0 31 16 == 0 && (w0.testBit 33 || (s.homeWord (pa / 8 + 2)).val == 0) && !s.herds.any (fun y => y.2.units.any (fun u => u.2.draining && u.2.record == some pa))))

/-- The herd rules of a record (R384, R185, R447): false is LAUNCH_HERD. -/
def State.herdOk (s : State) (r : List Word) : Bool :=
  let n := recCount r
  (permittedHerds r).any (fun h =>
    decide (n ≤ (s.usableOf h).length) && (recPool r || (decide (n ≤ 8) && decide (n ≤ (s.presentCores h).length))))

/-- The checks of a record in the order of R384; the argument words on success, a fault with the cause otherwise. -/
def State.recordOk (s : State) (q : Nat) (r : List Word) : Chk (List Word) :=
  let p := s.queueParty q
  let args := recWord r 6
  let bad (s : State) (c : Nat) : Chk (List Word) := .fault s c 0 0
  let as (c : Nat) (k : Chk (List Word)) : Chk (List Word) := match k with
    | .fault s _ _ _ => bad s c
    | x => x
  if !recFieldsOk r then bad s Cause.launchField
  else if args % 64 ≠ 0 then bad s Cause.launchArgs
  else if recKind r = 3 then
    (as Cause.launchArgs (s.unitWords p args 1)).andThen (fun s _ =>
      (s.readImage p (recWord r 1)).andThen (fun s _ => .ok s []))
  else
    (as Cause.launchArgs (s.unitWords p args 10)).andThen (fun s ws =>
      let w8 := (ws.getD 8 0).toNat
      if w8 = 0 ∨ w8 % 64 ≠ 0 then bad s Cause.launchArgs
      else if recKind r = 2 then
        if !s.herdOk r then bad s Cause.launchHerd
        else match s.setUsable p (ws.getD 9 0).toNat with
          | .ok s true => .ok s ws
          | .ok s false => bad s Cause.launchHerd
          | .fault s _ _ _ => bad s Cause.launchHerd
          | .wait => .wait
      else if recTilesOk r then .ok s ws
      else bad s Cause.launchTiles)

-- MXEs of a launch (R388, R438)

/-- The site stands in the occupied area of a live configuration (R436). -/
def Placed.covers (c : Placed) (n : Nat) : Bool :=
  c.broad == !siteFine n && decide (c.x0 ≤ siteX n) && decide (siteX n < c.x0 + 8 * ceilDiv c.w 8) &&
  decide (c.r0 ≤ classRow n) && decide (classRow n < c.r0 + 4 * ceilDiv c.h 4)
/-- The site is free of every configuration, and not retired. -/
def State.siteFree (s : State) (n : Nat) : Bool := !s.dev.retired.contains n && !s.fabric.placed.any (fun c => c.2.covers n)
/-- No launch and no configuration holds the MXE, and its stripe is in no window (R433). -/
def State.mxeFree (s : State) (e : Nat) : Bool :=
  (s.mxe e).owner.isNone && s.siteFree (siteOfMxe e) && !s.dev.stripes.contains (stripeOfSite (siteOfMxe e))
/-- Distance of two fields on the 3 × 2 grid (R7). -/
def fieldDistance (a b : Nat) : Nat := (a % 3 - b % 3) + (b % 3 - a % 3) + (a / 3 - b / 3) + (b / 3 - a / 3)
/-- Distance of an MXE's field from a record's permitted fields. -/
def recDistance (r : List Word) (e : Nat) : Nat :=
  (((List.range 6).filter (recPermits r)).map (fun f => fieldDistance f (fieldOfSite (siteOfMxe e)))).foldl min 9
/-- The MXEs that a record's launch would take, nearest first (R438); none when they are too few. -/
def State.pickMxes (s : State) (r : List Word) : Option (List Nat) :=
  let free := (List.range 1536).filter (fun e => mxeFine e != recBroad r && s.mxeFree e)
  let sorted := ((List.range 4).map (fun d => free.filter (fun e => recDistance r e == d))).flatten
  if recMxes r ≤ sorted.length then some (sorted.take (recMxes r)) else none
/-- A launch takes its MXEs, each with all four rights (R265, R388). -/
def State.giveMxes (s : State) (l : Nat) (es : List Nat) : State :=
  (es.foldl (fun s e => s.assignMxe e (some l) 15 false) s).onLaunch l (fun x => { x with mxes := es, mxeBid := false })

-- Admission

/-- The oldest pool entry of a queue. -/
def State.oldestChild (s : State) (q : Nat) : Option (Nat × PoolEntry) :=
  (s.launch.pool.filter (fun e => e.2.queue == q)).foldl (fun b e => match b with
    | none => some e
    | some x => if e.2.order < x.2.order then some e else some x) none
/-- The record at the head of a queue's ring (R381). -/
def State.ringRecord (s : State) (q : Nat) : List Word :=
  let x := s.queue q
  let pa := s.localPa (field x.base.toNat 51 6 * 64 + 64 * (x.head.toNat % 2 ^ x.lsize))
  (wordsOf pa 64).map (fun w => (s.portWord w).val)
/-- The candidate of a queue: its oldest pending child, else its head record (R390, R394). -/
def State.candidate (s : State) (q : Nat) : Option (Option Nat × List Word) :=
  match s.oldestChild q with
  | some (k, e) => some (some k, e.record)
  | none => if (s.queue q).tail = (s.queue q).head then none else some (none, s.ringRecord q)
/-- The candidate leaves its place: the pool entry frees, or the head moves on (R385, R389). -/
def State.takeCandidate (s : State) (q : Nat) (child : Option Nat) : State :=
  match child with
  | some k => { s with launch := { s.launch with pool := mdel s.launch.pool k } }
  | none => s.onQueue q (fun x => { x with head := x.head + 1 })

/-- The index of the next live launch: a fresh one, then freed ones in the order in which they were freed (R385). -/
def State.takeIndex (s : State) : Option (Nat × State) :=
  if s.launch.fresh < 4096 then some (s.launch.fresh, { s with launch := { s.launch with fresh := s.launch.fresh + 1 } })
  else match s.launch.freed with
    | k :: ks => some (k, { s with launch := { s.launch with freed := ks } })
    | [] => none

/-- The image of a graph launch, where it can be read and passes its checks (R384, R442). -/
def State.bidImage (s : State) (l : Nat) : Chk Image :=
  s.readImage (s.graphParty l) (recWord (s.liveLaunch l).record 1)
/-- The stripe class in which a launch waits (R388, R396). -/
def State.waitsIn (s : State) (l : Nat) (x : Launch) (broad : Bool) : Bool :=
  if x.mxeBid then recBroad x.record == broad
  else x.bids && (match s.bidImage l with
    | .ok _ g => g.broad == broad
    | _ => false)
/-- A waiting bid of the class has been passed over four times, so no other takes area before it (R397). -/
def State.classHeld (s : State) (broad : Bool) : Bool := s.launch.live.any (fun e => e.2.byp == 4 && s.waitsIn e.1 e.2 broad)

/-- A checked record becomes a live launch (R385, R388); none while no entry or too little of the pool is free. -/
def State.enrol (s : State) (q : Nat) (child : Option Nat) (r args : List Word) : Option State :=
  let t := s.takeCandidate q child
  if 4096 < t.launch.pool.length + t.reservedEntries + recChildren r then none
  else match t.takeIndex with
    | none => none
    | some (l, t) =>
      let x : Launch := { queue := q, record := r, args := args, reserve := recChildren r, child := child
                          order := t.launch.nextOrder, mxeBid := recKind r != 3 && recMxes r != 0 }
      let t := { t with launch := { t.launch with live := mset t.launch.live l x, nextOrder := t.launch.nextOrder + 1 } }
      if x.mxeBid && !t.classHeld (recBroad r) then some (match t.pickMxes r with
        | some es => t.giveMxes l es
        | none => t)
      else some t

-- The start of a thread (R20, R21, R387)

/-- Origin and extent registers of thread t (R20). -/
def shapeRegs (r : List Word) (t : Nat) : List (Nat × Nat) :=
  if recKind r ≠ 1 ∨ recWord r 5 = 0 then []
  else
    let n := tilesOf r
    if n 0 * n 1 * n 2 * n 3 ≤ t then []
    else
      let q (d : Nat) : Nat := match d with
        | 0 => t
        | 1 => t / n 0
        | 2 => t / n 0 / n 1
        | _ => t / n 0 / n 1 / n 2
      (List.range 4).flatMap (fun d =>
        let i := q d % n d
        [(0x006 + d, i * shapeE r d), (0x00A + d, min (shapeE r d) (shapeT r d - i * shapeE r d))])

/-- State registers of a started thread (R36, R387); those at their reset value are not listed. -/
def startSregs (vals : List (Nat × Nat)) : Map Word :=
  vals.foldl (fun m e => if BitVec.ofNat 64 e.2 = srReset e.1 then m else mset m e.1 (BitVec.ofNat 64 e.2)) []

/-- A started thread in a context: registers of R21, identity and launch-set registers of R387. words: g1..g8; extra:
further state registers. -/
def State.startContext (s : State) (l t core : Nat) (entry : Word) (words : List Tagged) (mbx mxcap : Nat) (esc : Bool)
    (extra : List (Nat × Nat)) : Context :=
  let x := s.liveLaunch l
  let q := s.queue x.queue
  let h := mkHandle l t
  let arch : Regs := Regs.applyAll {} (payloadWrites words)
  { live := true, handle := h, arch := arch, work := arch, addr := entry
    sreg := startSregs ([(0x000, t), (0x001, recCount x.record), (0x005, l), (0x00E, recWord x.record 6), (0x010, h)
      , (0x020, 4 + 32 * b2n esc), (0x040, (s.creg 0x3060).toNat / 8 * 8), (0x060, q.ptb.toNat), (0x061, q.asid.toNat)
      , (0x063, 256 + herdOfCore core), (0x064, mbx), (0x084, mxcap), (0x085, 14)] ++ extra) }

/-- The context of thread t of a thread or herd launch (R383, R387, R388). -/
def State.threadContext (s : State) (l t core : Nat) : Context :=
  let x := s.liveLaunch l
  let mbx := (x.args.getD 8 0).toNat + 5120 * t
  let cap := if x.mxes.isEmpty then 0 else s.capability (x.mxes.getD (t % x.mxes.length) 0)
  s.startContext l t core (x.record.getD 1 0) ((x.args.take 8).map (fun w => { val := w, tag := false })) (mbx % 2 ^ 64) cap false
    (shapeRegs x.record t)

/-- The thread takes a save slot and stands in a context (R419, R394). -/
def State.seat (s : State) (core ctx : Nat) (c : Context) (slot : Nat) : State :=
  let th : Thread := { slot := slot, place := some (core, ctx), pmode := (s.core core).pmode }
  let s := { s with launch := { s.launch with threads := mset s.launch.threads c.handle th } }
  (s.setCtx core ctx c).onLaunch (launchOfHandle c.handle) (fun x => { x with started := x.started + 1 })

/-- A barrel slot is assigned to a queue (R391, R393). -/
def State.assignSlot (s : State) (core ctx q : Nat) : State :=
  s.onCore core (fun c => { c with slots := mset c.slots ctx { (mget {} c.slots ctx) with asg := some q } })

-- Placement (R394)

/-- The header at a launch's entry admits a partition mode; an entry that does not read is left to the first fetch. -/
def State.modeFits (s : State) (q : Nat) (entry : Word) (m32 : Bool) : Bool :=
  match s.unitWords (s.queueParty q) (entry.toNat / 8 * 8) 1 with
  | .ok _ ws => (ws.getD 0 0).getLsbD (if m32 then 14 else 15)
  | _ => true

/-- A switched-out thread may resume in a context (R16, R185, R394): its launch permits the core, and an escape thread
takes a reserved context only. -/
def State.resumeFits (s : State) (h core ctx : Nat) : Bool :=
  let x := s.liveLaunch (launchOfHandle h)
  let reserved := (s.core core).reservedCtx ctx
  let aborted := match s.thread h with
    | some t => t.abort.isSome
    | none => false
  s.canResume h core ctx && !s.absent core && s.herdOpen (herdOfCore core) &&
  (if aborted then !reserved
   else if 2 ^ 19 ≤ threadOfHandle h then reserved
   else !reserved && (match x.trans with
     | some t => herdOfCore core == t.1
     | none => recPermits x.record (fieldOfCore core)))

/-- A launch has a thread that may start in a context (R394). -/
def State.startFits (s : State) (l core ctx : Nat) : Bool :=
  let x := s.liveLaunch l
  recKind x.record == 1 && decide (x.next < recCount x.record) && !x.mxeBid &&
  s.usable core ctx && s.herdOpen (herdOfCore core) && recPermits x.record (fieldOfCore core) &&
  s.modeFits x.queue (x.record.getD 1 0) (s.core core).pmode

/-- Switched-out threads of a queue that may resume in a context. -/
def State.resuming (s : State) (q core ctx : Nat) : List Nat :=
  (s.launch.threads.filter (fun t => (s.liveLaunch (launchOfHandle t.1)).queue == q && s.resumeFits t.1 core ctx)).map (·.1)
/-- A queue has a thread for a context. -/
def State.wants (s : State) (q core ctx : Nat) : Bool :=
  !(s.resuming q core ctx).isEmpty || s.launch.live.any (fun x => x.2.queue == q && s.startFits x.1 core ctx)

/-- Position of a queue in a field's order: its level, then its turn after the queue that was served last (R394). -/
def State.rank (s : State) (f q : Nat) : Nat :=
  let p := (s.queue q).prio
  64 * p + (q + 63 - mget 63 s.launch.lastQueue (8 * f + p)) % 64

/-- The unreserved slots of a field, in ascending core and context. -/
def State.fieldSlots (s : State) (f : Nat) : List (Nat × Nat) :=
  ((List.range 1536).filter (fun c => fieldOfCore c == f && !s.absent c)).flatMap (fun c =>
    ((List.range (s.core c).nctx).filter (fun k => !(s.core c).reservedCtx k)).map (fun k => (c, k)))
/-- A context is free: it holds no thread, and no transaction claims it. Its slot is idle, so that it may be lent (R393). -/
def State.ctxFree (s : State) (core ctx : Nat) : Bool :=
  !(s.ctxOf core ctx).live && !s.launch.live.any (fun l => l.2.claims.contains (core, ctx))

/-- A transaction is under way in a field. -/
def State.transacting (s : State) (f : Nat) : Bool :=
  s.launch.live.any (fun l => !l.2.placed && (match l.2.trans with
    | some t => fieldOfHerd t.1 == f
    | none => false))

/-- One context of each core, the lowest. -/
def onePerCore : List (Nat × Nat) → List (Nat × Nat)
  | [] => []
  | x :: xs => x :: (onePerCore xs).filter (fun y => y.1 != x.1)

/-- The contexts that a herd launch would claim; none when they are too few. -/
def State.herdClaims (s : State) (l h : Nat) : Option (List (Nat × Nat)) :=
  let x := s.liveLaunch l
  let fit := (s.usableOf h).filter (fun c =>
    s.ctxFree c.1 c.2 && s.modeFits x.queue (x.record.getD 1 0) (s.core c.1).pmode)
  let fit := if recPool x.record then fit else onePerCore fit
  if recCount x.record ≤ fit.length then some (fit.take (recCount x.record)) else none

/-- An unplaced herd launch may be placed on a herd. -/
def State.herdFits (s : State) (l h : Nat) : Bool :=
  let x := s.liveLaunch l
  (mfind s.launch.live l).isSome && recKind x.record == 2 && !x.placed && !x.mxeBid && x.outcome == 0 &&
  (permittedHerds x.record).contains h && s.herdOpen h

/-- A switched-out thread of a queue may resume in a free context of a field (R394). -/
def State.resumeServed (s : State) (f q : Nat) : Bool :=
  s.launch.threads.any (fun t => t.2.place.isNone && (s.liveLaunch (launchOfHandle t.1)).queue == q) &&
  (s.fieldSlots f).any (fun c => s.ctxFree c.1 c.2 && !(s.resuming q c.1 c.2).isEmpty)
/-- A waiting thread of an admitted launch of a queue may start in a free context of a field (R394). -/
def State.startServed (s : State) (f q : Nat) : Bool :=
  s.launch.live.any (fun l => l.2.queue == q && recKind l.2.record == 1 && decide (l.2.next < recCount l.2.record) && !l.2.mxeBid) &&
  (s.fieldSlots f).any (fun c => s.ctxFree c.1 c.2 && s.launch.live.any (fun l => l.2.queue == q && s.startFits l.1 c.1 c.2))
/-- A herd launch may start a transaction on a herd of a field (R394, R395). -/
def State.herdServed (s : State) (f l : Nat) : Bool :=
  recKind (s.liveLaunch l).record == 2 && (s.liveLaunch l).trans.isNone && !s.transacting f &&
  (permittedHerds (s.liveLaunch l).record).any (fun h => fieldOfHerd h == f && s.herdFits l h && (s.herdClaims l h).isSome)
/-- A queue's candidate is admitted or refused when it is served (R384, R394). -/
def State.admissible (s : State) (q : Nat) : Bool :=
  let x := s.queue q
  decide (q < 64) && x.en && x.weight != 0 && !x.ovf && !s.launch.stopped && (match s.candidate q with
    | none => false
    | some (child, r) => match s.recordOk q r with
      | .wait => false
      | .ok t args => (t.enrol q child r args).isSome
      | .fault t _ _ _ => t.targetReady q r)
/-- A queue has a candidate that the distributor of a field can serve (R394). -/
def State.servable (s : State) (f q : Nat) : Bool :=
  (s.queue q).en && (s.resumeServed f q || s.startServed f q || s.launch.live.any (fun l => l.2.queue == q && s.herdServed f l.1) || s.admissible q)
/-- A candidate of another queue comes before those of a queue in a field (R394). -/
def State.outranked (s : State) (f q : Nat) : Bool :=
  (List.range 64).any (fun o => decide (s.rank f o < s.rank f q) && s.servable f o)

/-- The slot of a context may be given to a queue now (R393, R394): the context is free, and no queue that ranks before has a
candidate to be served. -/
def State.slotOpen (s : State) (q core ctx : Nat) : Bool := s.ctxFree core ctx && !s.outranked (fieldOfCore core) q

/-- The field's order goes on after a queue (R394). -/
def State.served (s : State) (f q : Nat) : State :=
  { s with launch := { s.launch with lastQueue := mset s.launch.lastQueue (8 * f + (s.queue q).prio) q } }

/-- LAUNCH_ADMISSION of the candidate of a queue (R384, R385, R394): it is refused, admitted, or waits, also for a candidate that
the distributor serves first. Operands: queue, field of the distributor. -/
def execLaunchAdmission (s : State) : Out :=
  let q := s.arg 0
  let f := s.arg 1 % 6
  if s.distributorHeld || !s.admissible q || s.outranked f q || s.resumeServed f q || s.startServed f q ||
      s.launch.live.any (fun l => l.2.queue == q && s.herdServed f l.1) then .next s
  else match s.candidate q with
    | none => .next s
    | some (child, r) =>
      match s.recordOk q r with
      | .wait => .next s
      | .ok t args => .next (((t.enrol q child r args).getD s).served f q)
      | .fault t c _ _ => .next (((t.takeCandidate q child).toTarget q r (doneRecord 0 1 c 0 0 0 child)).served f q)

/-- A saved thread resumes in a context (R394, R423). -/
def State.resumeThread (s : State) (h core ctx : Nat) : State :=
  let q := (s.liveLaunch (launchOfHandle h)).queue
  if (s.core core).reservedCtx ctx then s.resumeAt h core ctx
  else ((s.assignSlot core ctx q).served (fieldOfCore core) q).resumeAt h core ctx

/-- THREAD_PLACEMENT (R394): a thread of the launch, resuming or new, is placed in the acting context. Operand: launch. -/
def execThreadPlacement (s : State) : Out :=
  let core := s.act.core
  let ctx := s.act.ctx
  let l := s.arg 0
  let x := s.liveLaunch l
  if s.distributorHeld || (mfind s.launch.live l).isNone || (!(s.core core).reservedCtx ctx && !s.slotOpen x.queue core ctx) then .next s
  else match (s.resuming x.queue core ctx).find? (fun h => launchOfHandle h == l) with
    | some h => .next (s.resumeThread h core ctx)
    | none =>
      if s.resumeServed (fieldOfCore core) x.queue || !s.startFits l core ctx then .next s
      else match s.freeSlot with
        | none => .next s
        | some k =>
          let s := (s.assignSlot core ctx x.queue).served (fieldOfCore core) x.queue
          let s := s.seat core ctx (s.threadContext l x.next core) k
          .next ((s.onLaunch l (fun x => { x with next := x.next + 1 })).acquire core 3)

/-- RESUME (R423). Operand: handle. -/
def execResume (s : State) : Out :=
  let core := s.act.core
  let ctx := s.act.ctx
  let h := s.arg 0
  let q := (s.liveLaunch (launchOfHandle h)).queue
  if !s.distributorHeld && s.resumeFits h core ctx && ((s.core core).reservedCtx ctx || s.slotOpen q core ctx) then .next (s.resumeThread h core ctx)
  else .next s

-- Herd placement (R395)

/-- As many free save slots as a count asks for (R419). -/
def State.freeSlots (s : State) (n : Nat) : List Nat :=
  let used := s.launch.threads.map (fun t => t.2.slot)
  ((List.range (min ((s.creg 0x3048).toNat % 2 ^ 20) (used.length + n))).filter (fun k => !used.contains k)).take n

/-- Members of a herd launch start, one in each claimed context, with the set in entry 0 (R187, R395). -/
def State.startMembers (s : State) (l va : Nat) : List (Nat × Nat) → List Nat → Nat → State
  | c :: cs, k :: ks, t =>
    let q := (s.liveLaunch l).queue
    let x : Context := { s.threadContext l t c.1 with sets := [(0, { record := va })] }
    (((s.assignSlot c.1 c.2 q).seat c.1 c.2 x k).acquire c.1 3).startMembers l va cs ks (t + 1)
  | _, _, _ => s

/-- The set of a herd launch is formed (R187): bound, full, phase 0. -/
def State.formSet (s : State) (l h u pa : Nat) (claims : List (Nat × Nat)) : State :=
  let x := s.liveLaunch l
  let n := claims.length
  let c0 := claims.headD (0, 0)
  let q := s.readRec c0.1 c0.2 pa
  let wdog := if q.2.wdog = 0 then 30 else q.2.wdog
  let w0 := setWord0 n n (recPool x.record) true h u false false wdog
  let members := claims.zipIdx.map (fun e => (mkHandle l e.2, e.1.1))
  let s := { q.1 with sets := mset q.1.sets pa { members := members } }
  (s.onUnit h u (fun _ => { record := some pa })).writeRec c0.1 c0.2 pa
    { w0 := w0, cnt0 := 0, cnt1 := 0, phase := false, broken := false, pend := 0 }

/-- The second half of a transaction: every member becomes resident (R395); none while a claimed context has become a reserved one
(R39). -/
def State.placeHerd (s : State) (l h : Nat) : Option State :=
  let x := s.liveLaunch l
  let va := (x.args.getD 9 0).toNat
  let slots := s.freeSlots x.claims.length
  match (List.range 4).find? (fun u => ((s.herd h).unit u).record.isNone) with
  | none => none
  | some u =>
    match s.agentCheck (s.queueParty x.queue) .both .atomic 0 va 64 with
    | .ok s ps =>
      if decide (slots.length < x.claims.length) || x.claims.any (fun c => (s.core c.1).reservedCtx c.2) then none
      else
        let s := s.formSet l h u (ps.headD (0, 0)).1 x.claims
        let s := s.startMembers l va x.claims slots 0
        let s := s.served (fieldOfHerd h) x.queue
        some (s.onLaunch l (fun x => { x with placed := true, claims := [], next := recCount x.record }))
    | _ => none

/-- HERD_PLACEMENT (R394, R395): a transaction claims its contexts when it is the next candidate of its field, or, within 96 cycles of its start, ends with every member
resident. Operands: launch, herd. -/
def execHerdPlacement (s : State) : Out :=
  let l := s.arg 0
  let h := s.arg 1
  if s.distributorHeld || !s.herdFits l h then .next s
  else match (s.liveLaunch l).trans with
    | some t => if t.1 = h ∧ s.time < t.2 + Config.transactionCycles then .next ((s.placeHerd l h).getD s) else .next s
    | none =>
      let q := (s.liveLaunch l).queue
      let f := fieldOfHerd h
      let earlier := s.launch.live.any (fun y => y.2.queue == q && decide (y.2.order < (s.liveLaunch l).order) && s.herdServed f y.1)
      if s.transacting f || s.outranked f q || s.resumeServed f q || earlier then .next s
      else match s.herdClaims l h with
        | none => .next s
        | some cs => .next (s.onLaunch l (fun x => { x with trans := some (h, s.time), claims := cs }))

/-- PLACEMENT_TIMEOUT (R395): a transaction of 96 cycles releases every claim. Operand: herd. -/
def execPlacementTimeout (s : State) : Out :=
  let h := s.arg 0
  .next { s with launch := { s.launch with live := s.launch.live.map (fun l =>
    match l.2.trans with
    | some t => if !l.2.placed && t.1 == h && decide (t.2 + Config.transactionCycles ≤ s.time)
        then (l.1, { l.2 with trans := none, claims := [] }) else l
    | none => l) } }

-- Slots (R392, R393)

/-- The queue of the thread in a context that takes part in the slots; escape threads do not. -/
def State.queueOf (s : State) (core ctx : Nat) : Option Nat :=
  let c := s.ctxOf core ctx
  if c.live && !s.escBit core ctx then (mfind s.launch.live (launchOfHandle c.handle)).map (·.queue) else none
/-- The field in which a pending herd launch counts: one that it permits, chosen by the device (R392). -/
def herdField (l : Nat) (r : List Word) : Nat :=
  if recFixed r then fieldOfHerd (recHerd r)
  else
    let fs := (List.range 6).filter (recPermits r)
    fs.getD (Config.choose 0 l % fs.length) 0
/-- A pending herd launch of a queue in a field, with its count. -/
def State.pendingHerds (s : State) (f q : Nat) : List (List Word) :=
  (s.launch.live.filter (fun l => l.2.queue == q && recKind l.2.record == 2 && !l.2.placed && l.2.outcome == 0 &&
    herdField l.1 l.2.record == f)).map (fun l => l.2.record)
/-- dem(q) of a field (R392). -/
def State.demand (s : State) (f q : Nat) (slots : List (Nat × Nat)) : Nat :=
  (slots.filter (fun c => s.queueOf c.1 c.2 == some q)).length +
  ((s.launch.live.filter (fun l => l.2.queue == q && recKind l.2.record == 1 && l.2.outcome == 0 && recPermits l.2.record f)).map
    (fun l => recCount l.2.record - l.2.next)).sum +
  (s.launch.threads.filter (fun t => t.2.place.isNone &&
    (let l := s.liveLaunch (launchOfHandle t.1)
     l.queue == q && recKind l.record != 3 && recPermits l.record f))).length +
  ((s.pendingHerds f q).map recCount).sum

/-- Queues of a level that may still be given slots. -/
def openQueues (dem g : Map Nat) (qs : List Nat) : List Nat := qs.filter (fun q => decide (mget 0 g q < mget 0 dem q))
/-- One slot to each queue of a list while slots remain. -/
def oneEach (total : Nat) : Map Nat → List Nat → Map Nat
  | g, [] => g
  | g, q :: qs => if (g.map (·.2)).sum < total then oneEach total (mset g q (mget 0 g q + 1)) qs else g
/-- The rounds of a level (R392). order: the level's queues by descending weight, then number. -/
def levelRounds (total : Nat) (dem weight : Map Nat) (order : List Nat) : Nat → Map Nat → Map Nat
  | 0, g => g
  | n + 1, g =>
    let qs := openQueues dem g order
    let used := (g.map (·.2)).sum
    if qs.isEmpty || decide (total ≤ used) then g
    else
      let r := total - used
      let w := (qs.map (mget 0 weight)).sum
      let g' := qs.foldl (fun m q => mset m q (mget 0 g q + min (mget 0 dem q - mget 0 g q) (r * mget 0 weight q / w))) g
      levelRounds total dem weight order n (if g' = g then oneEach total g qs else g')
/-- Queues in descending weight, then ascending number. -/
def byWeight (weight : Map Nat) (qs : List Nat) : List Nat :=
  ((List.range 256).reverse.map (fun w => qs.filter (fun q => mget 0 weight q == w))).flatten
/-- The grants of a field (R392). -/
def State.grants (s : State) (f : Nat) (slots : List (Nat × Nat)) : Map Nat :=
  let total := slots.length
  let en := (List.range 64).filter (fun q => (s.queue q).en && (s.queue q).weight != 0)
  let dem : Map Nat := en.map (fun q => (q, s.demand f q slots))
  let weight : Map Nat := en.map (fun q => (q, (s.queue q).weight))
  let level (p : Nat) : List Nat := en.filter (fun q => (s.queue q).prio == p)
  let mins := ((List.range 8).map level).flatten
  let g0 := mins.foldl (fun (g : Map Nat) q =>
    if mget 0 dem q = 0 then g
    else mset g q (min (min (s.queue q).minshare (mget 0 dem q)) (total - (g.map (·.2)).sum))) []
  (List.range 8).foldl (fun g p => levelRounds total dem weight (byWeight weight (level p)) (total + 64) g) g0

/-- Owners being chosen: slots taken, and what each queue may still take. -/
structure Owners where
  own : List ((Nat × Nat) × Nat) := []
  left : Map Nat
  deriving DecidableEq, Repr
/-- A queue takes a slot that is not yet owned, while it may. -/
def Owners.take (o : Owners) (q : Nat) (c : Nat × Nat) : Owners :=
  if mget 0 o.left q = 0 ∨ o.own.any (fun e => e.1 == c) then o
  else { own := o.own ++ [(c, q)], left := mset o.left q (mget 0 o.left q - 1) }

/-- The slots of a herd that a herd launch's grant may take: not owned yet, for a GANG one of each core. -/
def State.grantSlots (s : State) (o : Owners) (r : List Word) (h : Nat) : List (Nat × Nat) :=
  let free := (s.usableOf h).filter (fun c => !o.own.any (fun x => x.1 == c))
  if recPool r then free else onePerCore free

/-- The herd that a pending herd launch's grant falls in: of those it permits in the field and that can hold the launch, the one
with most slots of its queue, ties to the lower number (R392). -/
def State.grantHerd (s : State) (o : Owners) (f q : Nat) (r : List Word) : Option Nat :=
  let slotsOf (h : Nat) : Nat := ((s.usableOf h).filter (fun c => (mget {} (s.core c.1).slots c.2).owner == some q)).length
  let holds (h : Nat) : Bool := decide (recCount r ≤ (s.grantSlots o r h).length)
  ((permittedHerds r).filter (fun h => fieldOfHerd h == f && s.herdOpen h && holds h)).foldl (fun b h => match b with
    | none => some h
    | some x => if slotsOf x < slotsOf h then some h else some x) none

/-- The owners of a field's slots (R392). What of a herd launch's grant finds no herd that holds the launch stays without slots. -/
def State.owners (s : State) (f : Nat) (slots : List (Nat × Nat)) (g : Map Nat) : Owners :=
  let o := slots.foldl (fun (o : Owners) c => match s.queueOf c.1 c.2 with
    | some q => o.take q c
    | none => o) { left := g }
  let o := g.foldl (fun (o : Owners) e => (s.pendingHerds f e.1).foldl (fun o r =>
    let k := min (recCount r) (mget 0 o.left e.1)
    let p := match s.grantHerd o f e.1 r with
      | none => o
      | some h => ((s.grantSlots o r h).take k).foldl (fun o c => o.take e.1 c) o
    { p with left := mset p.left e.1 (mget 0 o.left e.1 - k) }) o) o
  g.foldl (fun (o : Owners) e => slots.foldl (fun o c => o.take e.1 c) o) o

/-- ARBITRATION_PERIOD of a field (R392, R393): at the end of a period of 16,384 cycles the owners are computed anew; a
slot that holds a thread keeps its assignment. Operand: field. -/
def execArbitrationPeriod (s : State) : Out :=
  let f := s.arg 0
  if 6 ≤ f ∨ s.time % Config.arbitrationPeriod ≠ 0 then .next s
  else
    let slots := s.fieldSlots f
    let o := s.owners f slots (s.grants f slots)
    .next (slots.foldl (fun s c =>
      let owner := (o.own.find? (fun e => e.1 == c)).map (·.2)
      let asg := if (s.queueOf c.1 c.2).isSome then (mget {} (s.core c.1).slots c.2).asg else owner
      s.onCore c.1 (fun k => { k with slots := mset k.slots c.2 { owner := owner, asg := asg } })) s)

/-- The owner of a slot in which another queue's thread is a borrower (R393). -/
def State.borrowed (s : State) (core ctx : Nat) : Option (Nat × Nat) :=
  match (mget {} (s.core core).slots ctx).owner, s.queueOf core ctx with
  | some o, some b => if o = b then none else some (o, b)
  | _, _ => none
/-- A borrower is reclaimed from before another: lower level, then lower weight, then higher core (R393). -/
def State.reclaimKey (s : State) (b core : Nat) : Nat :=
  (s.queue b).prio * 2 ^ 20 + (255 - (s.queue b).weight) * 2 ^ 11 + core

/-- SLOT_RECLAIM (R393): the owner of the acting context's slot, with a thread to place and no idle slot of its own in the
field, takes it from its borrower, the first in the order of R393. DEDUCED (log entry 76): for a pending herd launch, which needs
its contexts on one herd, it is enough that the slot's herd does not offer them. -/
def execSlotReclaim (s : State) : Out :=
  let core := s.act.core
  let ctx := s.act.ctx
  let f := fieldOfCore core
  match s.borrowed core ctx with
  | none => .next s
  | some (o, b) =>
    let slots := s.fieldSlots f
    let mine := slots.filter (fun c => (mget {} (s.core c.1).slots c.2).owner == some o)
    let idle := mine.any (fun c => !(s.ctxOf c.1 c.2).live)
    let better := mine.any (fun c => match s.borrowed c.1 c.2 with
      | some (_, b') => decide (s.reclaimKey b core < s.reclaimKey b' c.1) && !(s.ctxOf c.1 c.2).switchReq
      | none => false)
    let herd := s.usable core ctx && s.launch.live.any (fun l => l.2.queue == o && s.herdFits l.1 (herdOfCore core) && l.2.trans.isNone &&
      s.modeFits o (l.2.record.getD 1 0) (s.core core).pmode && (s.herdClaims l.1 (herdOfCore core)).isNone)
    let wants := s.launch.live.any (fun l => l.2.queue == o && s.startFits l.1 core ctx) ||
      s.launch.threads.any (fun t => t.2.place.isNone && !t.2.saving && (s.liveLaunch (launchOfHandle t.1)).queue == o &&
        recPermits (s.liveLaunch (launchOfHandle t.1)).record f)
    if better || !(herd || (wants && !idle)) || (s.ctxOf core ctx).switchReq then .next s
    else .next ((s.assignSlot core ctx o).onCtx core ctx (fun c => { c with switchReq := true }))

-- Completion (R18, R386)

/-- LAUNCH_DONE (R386): a thread or herd launch all of whose threads have retired completes, with outcome 2 when a thread
of it was aborted with its herd (R456). Operand: launch. -/
def execLaunchDone (s : State) : Out :=
  let l := s.arg 0
  match mfind s.launch.live l with
  | none => .next s
  | some x =>
    let n := recCount x.record
    if recKind x.record = 3 ∨ x.next ≠ n ∨ x.retired ≠ n ∨ s.targetReady x.queue x.record = false then .next s
    else .next (s.completeLaunch l x.outcome x.cause)

-- Escape threads (R300)

/-- The context of an escape thread for a payload (R300, R387). -/
def State.escContext (s : State) (core site ticket l : Nat) (words : List Tagged) : Context :=
  let t := 2 ^ 19 + 64 * site + ticket % 64
  let p := (s.site site).plane
  let entry := mget 0 (s.site site).elem.args (p.imm / 65536)
  let base := recWord (s.liveLaunch l).record 3
  let mbx := if base = 0 then 0 else (base + 5120 * (t - 2 ^ 19)) % 2 ^ 64
  { s.startContext l t core entry words mbx 0 true [(0x00F, ticket)] with ticket := some (site, ticket, false), ticketLaunch := l }

/-- ESC_DISPATCH (R207, R300): a free reserved context of a herd takes the head payload and starts an escape thread; one
asleep with the escape cause takes it under R207. DESIGN CHOICE (log entry 77): while an earlier thread of the same handle lives,
the payload waits (R17). -/
def execEscDispatch (s : State) : Out :=
  let core := s.act.core
  let ctx := s.act.ctx
  let h := herdOfCore core
  let c := s.ctxOf core ctx
  if c.live then
    match c.phase with
    | .wait (.sleep mask) => .next ((if mask.testBit 3 then s.takePayload core ctx else none).getD s)
    | _ => .next s
  else if !(s.core core).reservedCtx ctx || s.absent core || (s.herd h).window then .next s
  else match (s.herd h).escq, s.freeSlot with
    | (site, ticket, l, words) :: rest, some k =>
      if (s.thread (s.escContext core site ticket l words).handle).isSome then .next s else
      let s := s.onHerd h (fun y => { y with escq := rest })
      .next ((s.seat core ctx (s.escContext core site ticket l words) k).acquire core 2)
    | _, _ => .next s

end Sys2Proof.Machine
end

