-- ==== Sys2Proof/Machine/FabricSys.lean ====
section
/-!
DEFINITION. The fabric as a system: the arbiter (R396..R399), placement and link costs (R432, R434, R436..R438), the
loader (R400, R442), seams (R439, R440), stall and completion (R294, R351), drain, save, restore and abort of
configurations (R418, R424..R427).
-/

namespace Sys2Proof.Machine

-- Configurations

/-- The logical site of a relative place. -/
def Placed.siteOf (c : Placed) (a : Nat × Nat) : Nat := siteAt c.broad (c.x0 + a.1) (c.r0 + a.2)
/-- The relative number of a logical site, 32·x + y (R425). -/
def Placed.relative (c : Placed) (n : Nat) : Nat := 32 * (siteX n - c.x0) + (classRow n - c.r0)
/-- The relative places of the rectangle, in ascending 32·x + y. -/
def Placed.places (c : Placed) : List (Nat × Nat) := (List.range c.w).flatMap (fun x => (List.range c.h).map (fun y => (x, y)))
/-- The site at the north-west corner. -/
def Placed.corner (c : Placed) : Nat := c.siteOf (0, 0)

-- Link costs (R432, R434, R437, R438)

/-- The spare slot that substitutes a site, by number 0..7 (R432, R433). -/
def State.substitute (s : State) (n : Nat) : Option Nat :=
  (List.range 8).find? (fun j =>
    let v := mget 0 s.dev.fspare (8 * stripeOfSite n + j)
    v.testBit 8 && !v.testBit 9 && v % 64 == siteX n % 64 && field v 7 6 == siteY n % 4)
/-- Physical column and row of a site; rows keep the logical numbering of their stripe (R432). -/
def State.physical (s : State) (n : Nat) : Nat × Nat :=
  match s.substitute n with
  | some j => (66 * (siteX n / 64) + 64 + j / 4, siteY n / 4 * 4 + j % 4)
  | none => (66 * (siteX n / 64) + siteX n % 64, siteY n)
/-- The difference of two numbers. -/
def apart (a b : Nat) : Nat := (a - b) + (b - a)
/-- Reticle seams between two sites (R439). -/
def seamsBetween (a b : Nat) : Nat := apart (siteX a / 64) (siteX b / 64) + apart (siteY a / 16) (siteY b / 16)
/-- Cycles between two sites (R437): a hop for each column and row, 2 for each swarm stripe, a seam's cost each; the 4
cycles of a stripe of the other class are its rows. A substituted end makes the path a tunnel (R434). -/
def State.pathCost (s : State) (seam a b : Nat) : Nat :=
  let hops :=
    if (s.substitute a).isSome ∨ (s.substitute b).isSome then
      apart (s.physical a).1 (s.physical b).1 + apart (s.physical a).2 (s.physical b).2
    else apart (siteX a) (siteX b) + apart (siteY a) (siteY b)
  hops + 2 * apart (siteY a / 4) (siteY b / 4) + seam * seamsBetween a b
/-- The numbers from one to another. -/
def spanOf (a b : Nat) : List Nat := (List.range (apart a b + 1)).map (fun i => min a b + i)
/-- The routers of a link, by physical column and row: its ends and those between, those of a tunnel to the east or west first
(R434, R437). -/
def State.linkRouters (s : State) (a b : Nat) : List (Nat × Nat) :=
  let p := s.physical a
  let q := s.physical b
  let tunnel := (s.substitute a).isSome || (s.substitute b).isSome
  (if tunnel then (spanOf p.1 q.1).map (fun x => (x, p.2)) else [p, q]) ++ (spanOf p.2 q.2).map (fun y => (q.1, y))
/-- Stripe and power domain of a router (R443). -/
def routerDomain (r : Nat × Nat) : Nat × Nat := (4 * (3 * (r.2 / 16) + r.1 / 66) + r.2 % 16 / 4, r.1 % 66 / 8)
/-- The power domain of a site within its stripe: by its physical column (R443). -/
def State.domainOf (s : State) (n : Nat) : Nat := (s.physical n).1 % 66 / 8
/-- Sites of a stripe, ascending. -/
def sitesOfStripe (k : Nat) : List Nat :=
  (List.range 64).flatMap (fun i => (List.range 4).map (fun j => 32 * (64 * (k / 4 % 3) + i) + 16 * (k / 12) + 4 * (k % 4) + j))
/-- Sites whose elements stand in a power domain of a stripe. -/
def State.sitesIn (s : State) (k g : Nat) : List Nat := (sitesOfStripe k).filter (fun n => s.domainOf n == g)
/-- The fabric site nearest to a herd's slice (R438). -/
def herdSite (h : Nat) : Nat := 32 * (8 * (h % 24) + 4) + 16 * (h / 96) + 4 * (h / 24 % 4) + 3
/-- The herd that an escape operator is bound to (R438, R400): the least distance, ties to the lower number. -/
def State.nearestHerd (s : State) (n : Nat) : Option Nat :=
  ((List.range 192).filter (fun h => !(s.herd h).retired && (coresOfHerd h).any (fun c => (s.core c).escres != 0 && !s.absent c))).foldl
    (fun b h => match b with
      | none => some h
      | some x => if s.pathCost 3 n (herdSite h) < s.pathCost 3 n (herdSite x) then some h else some x) none

-- The save bound and the order of a load (R424, R442)

/-- The most that one site's save holds, in bytes: occupancy, tokens and state, and its arrays (R425). -/
def siteSave (n : Nat) : Nat :=
  2 + 16384 +
  (if siteMt n then 4 + 2097152 else 0) +
  (if siteMxe n then weightBytes (mxeOfSite n) + 2048 + 2 * bankBytes (mxeOfSite n) + 4096 else 0)
/-- The save bound of a placed configuration (R424). -/
def Placed.bound (c : Placed) : Nat := 4096 + 32 * (c.w * c.h) + (c.places.map (fun a => siteSave (c.siteOf a))).sum
/-- The planes of an image in the order in which the network writes them: slot 0 of every site in ascending site number,
then slots 1, 2 and 3 (R442). -/
def Image.order (g : Image) (c : Placed) : List (Nat × Nat × PlaneSlot) :=
  let all := g.sites.flatMap (fun t => t.planes.map (fun p => (c.siteOf (t.x, t.y), p.1, p.2)))
  (List.range 4).flatMap (fun k =>
    (((List.range 192).flatMap (fun x => (all.filter (fun e => siteX e.1 == x)))).filter (fun e => e.2.1 == k)).mergeSort
      (fun a b => decide (a.1 ≤ b.1)))
-- Bids (R396, R397)

/-- A waiting bid: its launch, its rank, lower first, and its image; none for a request of MXEs. -/
structure Bid where
  launch : Nat
  rank : Nat
  broad : Bool
  image : Option Image
  deriving DecidableEq, Repr
/-- The rank of a launch: priority level, its queue's head in admission order, its own order (R396). -/
def State.bidRank (s : State) (x : Launch) : Nat :=
  let head := match headBid x.queue s.launch.live with
    | some h => min h.order x.order
    | none => x.order
  (s.queue x.queue).prio * 2 ^ 80 + head * 2 ^ 40 + x.order
/-- The bids of a stripe class. -/
def State.bidsOf (s : State) (broad : Bool) : List Bid :=
  s.launch.live.filterMap (fun e =>
    if !e.2.waits then none
    else if e.2.mxeBid then
      if recBroad e.2.record = broad then some { launch := e.1, rank := s.bidRank e.2, broad := broad, image := none } else none
    else match s.bidImage e.1 with
      | .ok _ g => if g.broad = broad then some { launch := e.1, rank := s.bidRank e.2, broad := broad, image := some g } else none
      | _ => none)
/-- Bids in ascending rank. -/
def sortBids : List Bid → List Bid
  | [] => []
  | b :: bs =>
    let rec put : List Bid → List Bid
      | [] => [b]
      | x :: xs => if b.rank < x.rank then b :: x :: xs else x :: put xs
    put (sortBids bs)

-- Regions (R396, R433, R436, R440)

/-- The rectangle of an image at a corner. -/
def Image.at (g : Image) (x0 r0 : Nat) : Placed :=
  { broad := g.broad, x0 := x0, r0 := r0, w := g.w, h := g.h, image := 0 }
/-- The sites of an occupied area (R436). -/
def Placed.area (c : Placed) : List Nat :=
  (List.range (8 * ceilDiv c.w 8)).flatMap (fun x => (List.range (4 * ceilDiv c.h 4)).map (fun y => c.siteOf (x, y)))
/-- The corners at which a rectangle may stand (R436). -/
def Image.corners (g : Image) : List (Nat × Nat) :=
  ((List.range 24).flatMap (fun i => (List.range 6).map (fun j => (8 * i, 4 * j)))).filter (fun c =>
    decide (c.1 + g.w ≤ 192) && decide (c.2 + g.h ≤ (if g.broad then 8 else 24)))
/-- Control links of an image, by the site they leave and their side. -/
def Image.ctlLinks (g : Image) : List ImgLink :=
  (g.sites.map (fun t => ((List.range 4).filter (fun o => t.planes.any (fun p => p.2.bits (101 + 4 * o) (98 + 4 * o) != 0))).map
    (fun o => ((t.x, t.y), o)))).flatten
/-- The sum of link costs of a placed image (R437). -/
def State.imageCost (s : State) (g : Image) (c : Placed) : Nat :=
  let cost (seam : Nat) (l : ImgLink) : Nat := match g.beside l.1 l.2 with
    | some b => s.pathCost seam (c.siteOf l.1) (c.siteOf b)
    | none => 0
  (g.links.map (cost 3)).sum + (g.ctlLinks.map (cost 2)).sum
/-- A region may hold an image, configurations aside: every site in a field that the record permits (R382), no MXE that a
launch holds, no retired or excluded site, no stripe in its window, and no routed link over a retired seam link. -/
def State.regionSound (s : State) (l : Nat) (g : Image) (c : Placed) : Bool :=
  c.area.all (fun n => recPermits (s.liveLaunch l).record (fieldOfSite n) && !s.dev.retired.contains n && !(mget [] s.fabric.excluded l).contains n &&
    !s.dev.stripes.contains (stripeOfSite n) && (!siteMxe n || (s.mxe (mxeOfSite n)).owner.isNone)) &&
  (g.links ++ g.ctlLinks).all (fun k => !s.fabric.deadSeams.contains (c.siteOf k.1, k.2))
/-- The configurations that stand in a region. -/
def State.standing (s : State) (c : Placed) : List Nat :=
  (s.fabric.placed.filter (fun e => c.area.any e.2.covers)).map (·.1)
/-- The free region with the lowest cost, ties to the lower x0, then r0 (R437). -/
def State.bestRegion (s : State) (l : Nat) (g : Image) : Option (Nat × Nat) :=
  let fit := g.corners.filter (fun c => s.regionSound l g (g.at c.1 c.2) && (s.standing (g.at c.1 c.2)).isEmpty)
  fit.foldl (fun b c => match b with
    | none => some c
    | some x => if s.imageCost g (g.at c.1 c.2) < s.imageCost g (g.at x.1 x.2) then some c else some x) none
/-- A bid fits. -/
def State.bidFits (s : State) (b : Bid) : Bool :=
  match b.image with
  | some g => (s.bestRegion b.launch g).isSome
  | none => (s.pickMxes (s.liveLaunch b.launch).record).isSome
-- The end of a graph (R351, R386, R418)

/-- A configuration leaves the fabric: its sites are free, payloads still queued for it are gone, and the MXEs that its
planes held are released (R418, R265). -/
def State.clearConfig (s : State) (l : Nat) : State :=
  let ns := s.sitesOf l
  let mxes := (ns.filter siteMxe).map mxeOfSite
  let s := mxes.foldl (fun s e => if (s.mxe e).fabric then s.assignMxe e none 0 false else s) s
  let s := { s with herds := s.herds.map (fun (h : Nat × Herd) => (h.1, { h.2 with escq := h.2.escq.filter (fun p => p.2.2.1 != l) })) }
  { s with fabric := { s.fabric with
      sites := s.fabric.sites.filter (fun e => e.2.launch != some l)
      placed := mdel s.fabric.placed l
      seams := s.fabric.seams.filter (fun t => !ns.contains t.site) } }

/-- A graph launch can be completed: its target takes the record, and its escape threads have retired (R18, R386). -/
def State.launchReady (s : State) (x : Launch) : Bool := s.targetReady x.queue x.record && x.started == x.retired

/-- A graph launch ends (R351, R418): its configuration leaves, its saved copy is gone, and its record is posted; until it can be,
the launch stays live with its outcome (R18). -/
def State.endGraph (s : State) (l outcome cause : Nat) : State :=
  let s := s.clearConfig l
  let s := { s with fabric := { s.fabric with saved := mdel s.fabric.saved l, excluded := mdel s.fabric.excluded l } }
  if s.launchReady (s.liveLaunch l) then s.completeLaunch l outcome cause
  else s.onLaunch l (fun x => { x with placed := false, outcome := outcome, cause := cause })

-- Admission (R396, R397, R442)

/-- The bid that holds the class's reservation: the highest-ranked of those that have been passed over four times (R397). -/
def State.reserved (s : State) (bs : List Bid) : Option Bid := bs.find? (fun b => (s.liveLaunch b.launch).byp == 4)
/-- c.lqstat shows the reservation of a class where it stands (R397): at a waiting bid of count 4, the highest-ranked one. A
drained configuration and a second bid of count 4 have none while a better one has it (log entry 80). -/
def State.settleBids (s : State) (broad : Bool) : State :=
  let bs := sortBids (s.bidsOf broad)
  let who := (s.reserved bs).map (·.launch)
  bs.foldl (fun s b => s.onLaunch b.launch (fun x => { x with resv := who == some b.launch })) s

/-- Escape operators of a placed configuration and the herds that they are bound to (R400, R438). -/
def State.bindings (s : State) (ps : List (Nat × Nat × PlaneSlot)) : Map Nat :=
  ((ps.filter (fun e => e.2.2.bits 7 0 == 0x60)).map (·.1)).foldl (fun m n => match s.nearestHerd n with
    | some h => mset m n h
    | none => m) []
/-- The loader places an image (R442, steps 1 and 2): the planes as it has fetched them, bindings and save bound. DESIGN CHOICE
(log entry 47): every plane is taken as the image holds it at this step, so a write to the image of a live launch (R28) shows in
no plane but one that is fetched again (R68). -/
def State.placeImage (s : State) (l : Nat) (g : Image) (x0 r0 : Nat) : Placed :=
  let c : Placed := g.at x0 r0
  let ps := g.order c
  { c with image := recWord (s.liveLaunch l).record 1
           lastFire := s.time
           restored := (mfind s.fabric.saved l).isSome
           planes := ps
           bind := s.bindings ps
           saveBound := c.bound }

/-- A bid is admitted (R396, R442): a graph is given its rectangle, a launch its MXEs; its reservation ends (R397). -/
def State.admitBid (s : State) (b : Bid) : State :=
  match b.image with
  | none => match s.pickMxes (s.liveLaunch b.launch).record with
    | some es => (s.giveMxes b.launch es).onLaunch b.launch (fun x => { x with byp := 0, resv := false })
    | none => s
  | some g => match s.bestRegion b.launch g with
    | none => s
    | some (x0, r0) =>
      let s := { s with fabric := { s.fabric with placed := mset s.fabric.placed b.launch (s.placeImage b.launch g x0 r0) } }
      s.onLaunch b.launch (fun x => { x with placed := true, resv := false })

/-- The better-ranked bids that an admission passes over are counted (R397). -/
def State.passOver (s : State) (bs : List Bid) (rank : Nat) : State :=
  (bs.filter (fun b => decide (b.rank < rank))).foldl (fun s b => s.onLaunch b.launch (fun x => { x with byp := min 4 (x.byp + 1) })) s

/-- FABRIC_ADMISSION of a class (R396, R397): the highest-ranked bid that fits, of those that no bid of count 4 outranks. A bid
whose image no longer passes is refused and bids no more (R442). Operand: broad. -/
def execFabricAdmission (s : State) : Out :=
  let broad := s.arg 0 == 1
  let lost := s.launch.live.find? (fun e => e.2.bids && (match s.bidImage e.1 with
    | .fault _ _ _ _ => true
    | _ => false))
  match lost with
  | some e =>
    match s.bidImage e.1 with
    | .fault t c _ _ => .next (t.endGraph e.1 1 c)
    | _ => .next s
  | none =>
    let bs := sortBids (s.bidsOf broad)
    let limit := match s.reserved bs with
      | some b => b.rank
      | none => 2 ^ 200
    match bs.find? (fun b => decide (b.rank ≤ limit) && s.bidFits b) with
    | none => .next (s.settleBids broad)
    | some b => .next (((s.admitBid b).passOver bs b.rank).settleBids broad)

-- Loading (R303, R400, R424, R442)

/-- An array is cleared to what unwritten memory reads as. -/
def State.eraseArray (s : State) (base size : Nat) : State :=
  let out (a : Nat) : Bool := decide (a < base) || decide (base + size ≤ a)
  { s with mem := { s.mem with
    bytes := s.mem.bytes.filter (fun c => out c.1)
    tags := s.mem.tags.filter (fun w => out (8 * w))
    poison := s.mem.poison.filter (fun w => out (8 * w))
    hallmarks := s.mem.hallmarks.filter (fun h => out (1024 * h.1)) } }

/-- The fabric takes the MXE of a site whose planes use it: its nonce moves on, its banks clear, and its codebook holds
the default set (R265, R482). -/
def State.takeMxe (s : State) (n : Nat) : State :=
  let e := mxeOfSite n
  let s := s.assignMxe e none 0 true
  let s := ((s.clearBank e 0).clearBank e 1).onMxe e (fun m => { m with wbuf := false })
  s.eraseArray (mxeBase e + 2097152) 2048

/-- A site of a configuration that is about to be loaded: a slot that the image does not hold has an idle plane (R441); a site
that is to be restored waits for its contents (R426). -/
def newSite (l : Nat) (planes : List (Nat × PlaneSlot)) (restored : Bool) : Site :=
  let slots : Map PlaneSlot := (List.range 4).map (fun k => (k, { loaded := !(planes.any (fun p => p.1 == k)) }))
  { slots := slots, launch := some l, running := !restored && !(planes.any (fun p => p.1 == 0)) }

/-- DRAIN tokens leave a site that is restored (R426). -/
def Site.undrain (x : Site) : Site :=
  let keep (ts : List Token) : List Token := ts.filter (fun t => t.kind != 5)
  let reg (o : Option (Token × List Nat)) : Option (Token × List Nat) := o.filter (fun r => r.1.kind != 5)
  { x with drained := false, running := true
           ports := x.ports.filter (fun p => p.2.tok.kind != 5)
           taken := keep x.taken, outq := keep x.outq, outreg := reg x.outreg, op0 := reg x.op0, op1 := reg x.op1
           rin0 := x.rin0.filter (fun t => t.kind != 5), rin1 := x.rin1.filter (fun t => t.kind != 5)
           seq := { x.seq with iq := x.seq.iq.map (fun q => (q.1, keep q.2)) } }

/-- An array's contents are put at their place. -/
def State.putArray (s : State) (base : Nat) (a : SavedArray) : State :=
  let b := base + a.off
  let s := s.eraseArray b a.size
  let bytes := a.cells.foldl (fun m c => memPutAll m (b + c.1) [c.2]) s.mem.bytes
  { s with mem := { s.mem with
    bytes := bytes
    poison := a.poison.foldl (fun l w => insertNum l (b / 8 + w)) s.mem.poison
    hallmarks := a.halls.foldl (fun m h => mset m (b / 1024 + h.1) h.2) s.mem.hallmarks
    mtSegs := (List.range (a.size / 65536)).foldl (fun l i => noteSegment l (b + 65536 * i)) s.mem.mtSegs } }
/-- An array's contents are taken. -/
def State.getArray (s : State) (base off size : Nat) : SavedArray :=
  let b := base + off
  let inside (a : Nat) : Bool := decide (b ≤ a) && decide (a < b + size)
  { off := off
    size := size
    cells := (s.mem.bytes.filter (fun c => inside c.1)).map (fun c => (c.1 - b, c.2))
    halls := (s.mem.hallmarks.filter (fun h => inside (1024 * h.1))).map (fun h => (h.1 - b / 1024, h.2))
    poison := (s.mem.poison.filter (fun w => inside (8 * w))).map (fun w => w - b / 8) }
/-- Base of the arrays at a site: an MT's scratch, an MXE's window (R359). -/
def siteBase (n : Nat) : Nat := if siteMt n then mtBase n else mxeBase (mxeOfSite n)

/-- The saved contents of a site are written back (R426). An mx.msg element keeps its rights under the nonce that has moved on
and grants its capability anew. -/
def State.restoreSite (s : State) (l n : Nat) (v : Saved) (rel : Nat) : State :=
  match mfind v.sites rel with
  | none => s.onSite n (fun x => { x with running := true })
  | some y =>
    let slots := (s.site n).slots
    let elem : Elem := if (mget {} slots y.active).bits 7 0 = 0x93 ∧ y.elem.words = 1 then { y.elem with words := 2 } else y.elem
    let s := s.onSite n (fun _ => { y.undrain with slots := slots, launch := some l, elem := elem })
    let s := (mget [] v.arrays rel).foldl (fun s a => s.putArray (siteBase n) a) s
    match mfind v.mxes rel with
    | some m => s.onMxe (mxeOfSite n) (fun x =>
        { x with owner := m.owner.map (fun _ => l), rights := m.rights, bank0 := m.bank0, bank1 := m.bank1, wbuf := m.wbuf })
    | none => s

/-- A restored configuration goes on once every saved slot has been loaded: its contents are written back, its sites start, and its
save region is free (R426). -/
def State.startRestored (s : State) (l : Nat) : State :=
  match mfind s.fabric.placed l, mfind s.fabric.saved l with
  | some c, some v =>
    let ready := c.places.all (fun a =>
      (mget {} (s.site (c.siteOf a)).slots (((mfind v.sites (c.relative (c.siteOf a))).map (fun x : Site => x.active)).getD 0)).loaded)
    if c.restored && ready then
      let s := c.places.foldl (fun s a => s.restoreSite l (c.siteOf a) v (c.relative (c.siteOf a))) s
      { s with fabric := { s.fabric with saved := mdel s.fabric.saved l } }
    else s
  | _, _ => s

/-- The sites of a placed configuration before any plane is written (R442): their MXEs are taken, and no segment of their
scratches has been written by it. -/
def State.loadConfig (s : State) (l : Nat) (c : Placed) : State :=
  let planesAt (n : Nat) : List (Nat × PlaneSlot) := (c.planes.filter (fun e => e.1 == n)).map (·.2)
  let s := c.places.foldl (fun s a =>
    let n := c.siteOf a
    let segs := s.mem.mtSegs.filter (fun k => !siteMt n || k / 32 != mtOfSite n)
    let s := { s with fabric := { s.fabric with sites := mset s.fabric.sites n (newSite l (planesAt n) c.restored) }
                      mem := { s.mem with mtSegs := segs } }
    if (planesAt n).any (fun p => decide (0x90 ≤ p.2.bits 7 0)) then s.takeMxe n else s) s
  (s.onPlaced l (fun c => { c with written := 0, mode := if c.planes.isEmpty then .running else .loading, lastFire := s.time })).startRestored l

/-- CONFIG_LOAD (R442): the sites of a placed configuration are set up. A command that an MXE is performing completes before the
fabric takes it (R269). Operand: launch. -/
def execConfigLoad (s : State) : Out :=
  let l := s.arg 0
  match mfind s.fabric.placed l with
  | none => .next s
  | some c =>
    if c.mode ≠ .placed ∨ (c.planes.any (fun e => decide (0x90 ≤ e.2.2.bits 7 0) && (s.mxe (mxeOfSite e.1)).running.isSome)) = true then .next s
    else .next (s.loadConfig l c)

/-- Every plane of a configuration has been written (R442). -/
def State.loaded (s : State) (l : Nat) : State :=
  s.onPlaced l (fun c => if c.mode = .loading ∧ c.planes.length ≤ c.written then { c with mode := .running } else c)

/-- PLANE_SLOT_WRITTEN at the acting site (R308, R442): the next plane of the load is written; a site whose first plane
has come starts; restored ones go on where they stood once every saved slot has come (R426). What has not been written when a drain
is asked for is written all the same. Operand: slot. -/
def execPlaneSlotWritten (s : State) : Out :=
  let n := s.act.site
  let l := s.launchOf n
  match mfind s.fabric.placed l with
  | none => .next s
  | some c =>
    match c.planes[c.written]? with
    | none => .next s
    | some (m, k, p) =>
      if (c.mode ≠ .loading ∧ c.mode ≠ .draining) ∨ m ≠ n ∨ k ≠ s.arg 0 ∨ (s.site n).launch ≠ some l then .next s
      else
        let s := s.onSite n (fun x => { x with slots := mset x.slots k { p with loaded := true } })
        let s := s.onPlaced l (fun c => { c with written := c.written + 1 })
        let s := if (c.restored && (mfind s.fabric.saved l).isSome) = true then s.startRestored l
          else if k = 0 ∧ (s.site n).running = false then (s.onSite n (fun x => { x with running := true })).activate n 0 else s
        .next (s.loaded l)

-- Seams (R439, R440)

/-- SEAM_FLIT_RECEIVE: the last flit of token k of the seams has arrived, and the whole token enters its link when that is free;
data tokens of one link stay in order, and so do control tokens. Operand: k. -/
def execSeamFlitReceive (s : State) : Out :=
  let k := s.arg 0
  match s.fabric.seams[k]? with
  | none => .next s
  | some x =>
    if (s.fabric.seams.take k).any (fun y => y.site == x.site && y.port == x.port && y.ctl.isSome == x.ctl.isSome) then .next s
    else match (match x.ctl with
        | some v => s.arriveCtl x.site x.port v
        | none => s.arrivePort x.site x.port x.tok) with
      | none => .next s
      | some s => .next { s with fabric := { s.fabric with
          seams := dropNth s.fabric.seams k
          seamFails := mdel s.fabric.seamFails (4 * x.site + x.port) } }

/-- A configuration stops as a whole (R418, R428): its sites stop, held stores of uncommitted invocations are gone, and a
record waits for a resolution. -/
def State.stopConfig (s : State) (l cause sev loc : Nat) (tval : Word) : State :=
  let s := ((s.sitesOf l).foldl (fun s n => s.onSite n (fun x => { x with seq := { x.seq with held := [] } })) s).stopSites l
  s.postFault { cause := cause, sev := sev, src := 4, launch := some l, loc := loc, tval := tval
                aux := (s.site loc).plane.addr, agent := .fabric l loc }

/-- A configuration routes a token or a control token over a link of a site. -/
def Placed.routesOver (c : Placed) (n o : Nat) : Bool :=
  (c.planesOf n).any (fun p => p.src o != 0 || p.bits (101 + 4 * o) (98 + 4 * o) != 0) &&
  (match neighbour n o with
   | some m => c.covers m
   | none => false)

/-- A seam link is out of service (R440): configurations that route over it stop with REGION_ROUTE. -/
def State.seamDown (s : State) (n o : Nat) : State :=
  let s := { s with fabric := { s.fabric with deadSeams := (n, o) :: s.fabric.deadSeams } }
  let s := s.postFault { cause := Cause.seamDown, sev := 3, src := 6, loc := n }
  s.fabric.placed.foldl (fun s e => if e.2.routesOver n o then s.stopConfig e.1 Cause.regionRoute 1 n 0 else s) s

/-- SEAM_RESEND (R440): a flit of token k fails its check and is sent again; eight consecutive failures of a link take it
down. Operand: k. -/
def execSeamResend (s : State) : Out :=
  let k := s.arg 0
  match s.fabric.seams[k]? with
  | none => .next s
  | some x =>
    let link := 4 * x.site + x.port
    let n := mget 0 s.fabric.seamFails link + 1
    let s := { s with fabric := { s.fabric with seamFails := mset s.fabric.seamFails link n } }
    let s := s.corrected 0x28 x.site 0
    if n < 8 then .next s
    else match neighbour x.site x.port with
      | some m => if s.fabric.deadSeams.contains (m, opposite x.port) then .next s else .next (s.seamDown m (opposite x.port))
      | none => .next s

-- Stall, completion and abort (R294, R351, R418)

/-- Tokens that a site holds (R294). -/
def Site.holds (x : Site) : Bool :=
  !x.ports.isEmpty || !x.taken.isEmpty || !x.outq.isEmpty || x.outreg.isSome || !x.ctl.isEmpty || !x.ctlOut.isEmpty ||
  x.op0.isSome || x.op1.isSome || x.rin0.isSome || x.rin1.isSome || !x.elem.buf.isEmpty || !x.elem.tickets.isEmpty ||
  x.seq.iq.any (fun q => !q.2.isEmpty) || x.seq.oq.any (fun q => !q.2.isEmpty) || !x.seq.brq.isEmpty || x.seq.lanes.isSome || !x.seq.got.isEmpty

/-- A sequencer waits for a token: an emit that takes data, a branch outcome, a control token, or the markers of a round's
end (R314, R319). -/
def Site.seqWaits (x : Site) : Bool :=
  let w := x.plane.progWord x.seq.r.pc
  x.seq.fence.isNone && x.seq.held.isEmpty && x.seq.kept.all (fun k => k.2.isEmpty) &&
  ([7, 8, 9, 10, 11].contains (seqOpOf w) || (seqOpOf w == 17 && !x.plane.reads.isEmpty))

/-- A site may act without a token: a source, a drain or an mx.msg plane, or a sequencer that waits for none. -/
def Site.busy (x : Site) : Bool :=
  x.ending || x.change.isSome || x.elem.walk.isSome ||
  (if seqOp x.op then x.seq.mode == .faulted || (x.seq.mode == .run && !x.seqWaits)
   else [0x57, 0x58, 0x65, 0x92, 0x93].contains x.op)

/-- Nothing of a configuration can act, and it holds no token: every invocation has committed (R351, R416). -/
def State.graphDone (s : State) (l : Nat) : Bool :=
  let ns := s.sitesOf l
  match mfind s.fabric.placed l with
  | some c =>
    c.mode == .running && ns.all (fun n =>
      let x := s.site n
      !x.stopped && !x.rstopped && !x.holds && !x.busy) &&
    !s.fabric.seams.any (fun t => ns.contains t.site) && !s.fabric.replies.any (fun r => r.launch == l)
  | none => false

/-- A site stands at an access of memory that has not been performed (R294): a plane fetched again, a publication or its
store, argument words of src, a payload's headers, a capability that mx.msg grants, an emit that has its data, or reads of a
probe or of a weight operand. -/
def Site.accesses (x : Site) : Bool :=
  x.change.isSome || x.elem.walk.isSome ||
  (match x.op with
   | 0x60 => !x.taken.isEmpty
   | 0x61 => ((x.head (x.plane.reads.headD 0)).map (fun t => t.kind == 2)).getD false
   | 0x65 => x.plane.argIndexes.any (fun k => (mfind x.elem.args k).isNone)
   | 0x85 => decide (x.plane.reads.length ≤ x.taken.length)
   | 0x91 => !x.taken.isEmpty
   | 0x93 => x.elem.words != 1
   | _ =>
     let w := x.plane.progWord x.seq.r.pc
     let data (q : Nat) : Bool := ((mget [] x.seq.iq q).head?).any (fun t => !t.marker)
     x.seqActs && (x.argsMissing || match seqOpOf w with
       | 6 => true
       | 7 => data (field w.toNat 24 23)
       | 8 => x.seq.lanes.isSome
       | 9 => x.seq.lanes.isSome && data (field w.toNat 19 18)
       | _ => false))

/-- STALL of a launch's configuration (R294, R307): nothing has fired for 2^28 cycles while tokens are held, and no access
and no escape ticket is outstanding. Operand: launch. -/
def execStall (s : State) : Out :=
  let l := s.arg 0
  let ns := s.sitesOf l
  match mfind s.fabric.placed l, ns.find? (fun n => (s.site n).holds) with
  | some c, some n =>
    if c.mode ≠ .running ∨ s.time < c.lastFire + 2 ^ 28 ∨
        ns.any (fun m => !(s.site m).elem.tickets.isEmpty || (s.site m).stopped || (s.site m).rstopped || (s.site m).accesses) then .next s
    else .next (s.graphFault n Cause.stall 2 (siteVal n) 0 0)
  | _, _ => .next s

/-- GRAPH_COMPLETION (R18, R351, R386): of a graph that is done, or of one that has ended, once its target can take its record and
its escape threads have retired. Operand: launch. -/
def execGraphCompletion (s : State) : Out :=
  let l := s.arg 0
  let x := s.liveLaunch l
  if recKind x.record = 3 ∧ s.launchReady x = true then
    if x.outcome ≠ 0 then .next (s.completeLaunch l x.outcome x.cause)
    else if s.graphDone l then .next (s.endGraph l 0 0)
    else .next s
  else .next s

-- Drain and save (R398, R399, R424..R427)

/-- Save regions in use, and the pool (R424). -/
def State.poolBase (s : State) : Nat := field (s.creg 0x3070).toNat 51 16 * 65536
def State.poolSize (s : State) : Nat := (s.creg 0x3078).toNat % 2 ^ 32 * 65536
/-- Sizes are whole units of the pool. -/
def poolUnits (n : Nat) : Nat := ceilDiv n 65536 * 65536
/-- The lowest free region of a size in the pool. -/
def State.freeRegion (s : State) (size : Nat) : Option Nat :=
  let used := s.fabric.saved.map (fun v => (v.2.region, v.2.size))
  let draining := (s.fabric.placed.filter (fun c => c.2.mode == .draining)).length
  let starts := s.poolBase :: used.map (fun u => u.1 + u.2)
  if s.poolSize < (used.map (·.2)).sum + size ∨ 2 ^ 13 ≤ draining then none
  else (starts.filter (fun a => decide (s.poolBase ≤ a) && decide (a + size ≤ s.poolBase + s.poolSize) &&
      used.all (fun u => decide (a + size ≤ u.1) || decide (u.1 + u.2 ≤ a)))).foldl (fun b a => match b with
    | none => some a
    | some x => some (min x a)) none
/-- The pool can hold a configuration besides those that drain (R424). -/
def State.poolHolds (s : State) (c : Placed) : Bool :=
  let others := ((s.fabric.placed.filter (fun e => e.2.mode == .draining)).map (fun e => poolUnits e.2.saveBound)).sum
  (s.freeRegion (others + poolUnits c.saveBound)).isSome

/-- Slot 0 of every site of a configuration has been activated. -/
def State.allActive (s : State) (l : Nat) : Bool := (s.sitesOf l).all (fun n => (s.site n).running)

/-- An admission is rolled back (R399, R427): the launch is a bid again, its count kept, and with it its reservation. -/
def State.rollBack (s : State) (l : Nat) : State :=
  let broad := ((mfind s.fabric.placed l).map (·.broad)).getD false
  ((s.clearConfig l).onLaunch l (fun x => { x with placed := false })).settleBids broad

/-- A drain request reaches a configuration (R424, R427); the save pool must hold it. -/
def State.requestDrain (s : State) (l : Nat) : State :=
  match mfind s.fabric.placed l with
  | none => s
  | some c =>
    match c.mode with
    | .placed => s.rollBack l
    | .loading => if !s.allActive l then s.rollBack l
        else if s.poolHolds c then s.onPlaced l (fun c => { c with mode := .draining, drainAt := some s.time }) else s
    | .running => if s.poolHolds c then s.onPlaced l (fun c => { c with mode := .draining, drainAt := some s.time }) else s
    | _ => s

/-- The sum of the k largest. -/
def topSum (k : Nat) (xs : List Nat) : Nat := ((xs.mergeSort (fun a b => decide (b ≤ a))).take k).sum
/-- Of candidates with what each frees, k that free as much as is needed, the first of the list where they can be. -/
def chooseFrom : List (Nat × Nat) → Nat → Nat → List Nat
  | [], _, _ => []
  | c :: cs, k, need =>
    if k = 0 then []
    else if need - c.2 ≤ topSum (k - 1) (cs.map (·.2)) then c.1 :: chooseFrom cs (k - 1) (need - c.2)
    else chooseFrom cs k need
/-- The fewest candidates that free as much as is needed; none where all of them do not (R398). -/
def fewest (need : Nat) (cs : List (Nat × Nat)) : List Nat :=
  match (List.range (cs.length + 1)).find? (fun k => decide (need ≤ topSum k (cs.map (·.2)))) with
  | some k => chooseFrom cs k need
  | none => []

/-- The configurations that a bid that does not fit would displace (R398): all of levels below its own, the fewest, then
the lowest-ranked. -/
def State.displaced (s : State) (b : Bid) : List Nat :=
  let level := (s.queue (s.liveLaunch b.launch).queue).prio
  let lower (l : Nat) : Bool := decide (level < (s.queue (s.liveLaunch l).queue).prio)
  let weight (ls : List Nat) : Nat := (ls.map (fun l => s.bidRank (s.liveLaunch l))).sum
  match b.image with
  | some g =>
    let sets := (g.corners.filter (fun c => s.regionSound b.launch g (g.at c.1 c.2))).map (fun c => s.standing (g.at c.1 c.2))
    (sets.filter (fun ls => ls.all lower)).foldl (fun best ls =>
      if best.isEmpty || decide (ls.length < best.length) || (ls.length == best.length && decide (weight best < weight ls)) then ls else best) []
  | none =>
    let r := (s.liveLaunch b.launch).record
    let usable (e : Nat) : Bool := mxeFine e != recBroad r && !s.dev.retired.contains (siteOfMxe e) && !s.dev.stripes.contains (stripeOfSite (siteOfMxe e))
    let holds (c : Placed) : Nat := ((List.range 1536).filter (fun e => c.covers (siteOfMxe e) && usable e)).length
    let free := ((List.range 1536).filter (fun e => mxeFine e != recBroad r && s.mxeFree e)).length
    let cs := (s.fabric.placed.filter (fun c => lower c.1)).mergeSort (fun x y =>
      decide (s.bidRank (s.liveLaunch y.1) ≤ s.bidRank (s.liveLaunch x.1)))
    fewest (recMxes r - free) (cs.map (fun c => (c.1, holds c.2)))

/-- The arbiter asks for the drain of a configuration: for a better bid, or for its stripe's window (R398, R433). -/
def State.drainWanted (s : State) (l : Nat) : Bool :=
  match mfind s.fabric.placed l with
  | none => false
  | some c =>
    let bs := (sortBids (s.bidsOf c.broad)).filter (fun b => !s.bidFits b)
    bs.any (fun b => (s.displaced b).contains l) ||
    s.dev.stripes.any (fun k => c.area.any (fun n => stripeOfSite n == k))

/-- DRAIN_REQUEST (R398, R424). Operand: launch. -/
def execDrainRequest (s : State) : Out := .next (if s.drainWanted (s.arg 0) then s.requestDrain (s.arg 0) else s)

/-- The region has drained (R424): every site with an element has stopped behind its DRAIN, and no DRAIN is on its way. -/
def State.isDrained (s : State) (l : Nat) : Bool :=
  let ns := s.sitesOf l
  let gone (r : Option (Token × List Nat)) : Bool := match r with
    | some t => t.1.kind != 5
    | none => true
  ns.all (fun n =>
    let x := s.site n
    (x.op == 0 || x.drained || !x.running) && gone x.outreg && gone x.op0 && gone x.op1 && x.outq.all (fun t => t.kind != 5) &&
    x.elem.tickets.isEmpty && x.elem.walk.isNone && x.seq.fence.isNone) &&
  !s.fabric.seams.any (fun t => ns.contains t.site) && !s.fabric.replies.any (fun r => r.launch == l)

/-- The words of a saved token: payload, then its sideband (R425). -/
def Token.saveWords (t : Token) : List Nat :=
  (List.range 8).map (fun i => elemOf 64 i t.payload.toNat) ++ [t.kind + 8 * b2n t.last + 16 * t.vcnt]
/-- Tokens on their way out of a site's element. -/
def Site.outTokens (x : Site) : List Token := (x.outreg.map (·.1)).toList ++ x.outq
/-- The state of a site's element and router operator is that of a plane's start. -/
def Site.elementIdle (x : Site) : Bool :=
  x.elem == {} && x.taken.isEmpty && x.op0.isNone && x.op1.isNone && x.rin0.isNone && x.rin1.isNone && x.atEntry && !x.awaitMarker
/-- Segments of an MT's scratch that its configuration has written: the segment mask (R425). -/
def State.segMask (s : State) (n : Nat) : List Nat :=
  if siteMt n then ((s.mem.mtSegs.filter (fun k => k / 32 == mtOfSite n)).map (fun k => k % 32)) else []
/-- The occupancy word of a site (R425). -/
def State.occupancy (s : State) (n : Nat) : Nat :=
  let x := s.site n
  let m := s.mxe (mxeOfSite n)
  let held := siteMxe n && m.fabric
  let bits : List Bool := (List.range 4).map (fun p => (mfind x.ports p).isSome) ++
    [!x.outTokens.isEmpty, !x.elementIdle, seqOp x.op && (x.seq.r != x.plane.seqStart.r || !x.seq.brq.isEmpty),
     x.seq.iq.any (fun q => !q.2.isEmpty) || x.seq.oq.any (fun q => !q.2.isEmpty) || x.seq.pack.any (fun q => !q.2.isEmpty),
     held && m.bank0 != {}, held && m.bank1 != {}, held && m.wbuf, !(s.segMask n).isEmpty, !x.ctl.isEmpty || !x.ctlOut.isEmpty]
  (bits.zipIdx.map (fun b => b2n b.1 * 2 ^ b.2)).sum
/-- The arrays that an occupancy word selects, by offset and size: banks, weight buffer and codebook, segments (R425). -/
def State.savedSpans (s : State) (n occ : Nat) : List (Nat × Nat) :=
  let e := mxeOfSite n
  (if occ.testBit 8 then [(3145728, bankBytes e)] else []) ++ (if occ.testBit 9 then [(3145728 + 32768, bankBytes e)] else []) ++
  (if occ.testBit 10 then [(0, weightBytes e), (2097152, 2048)] else []) ++
  (if occ.testBit 11 then (s.segMask n).map (fun k => (65536 * k, 65536)) else [])
/-- The words of a saved array: its bytes, then the hallmarks that do not follow from them (R425). -/
def State.arrayWords (s : State) (n : Nat) (span : Nat × Nat) : List Nat :=
  let a := siteBase n + span.1
  (wordsOf a span.2).map (fun w => (s.homeWord w).val.toNat) ++
  ((s.mem.hallmarks.filter (fun h => decide (a ≤ 1024 * h.1) && decide (1024 * h.1 < a + span.2))).map (·.2)).flatten
/-- The value hallmark of a bank (R115, R425). -/
def Bank.saveWords (b : Bank) : List Nat :=
  [b.cell, b.m, b.n] ++ b.rows.map (·.2) ++ b.cols.map (·.2) ++ b.rowsOff ++ b.colsOff ++ b.aux.map (·.2)
/-- The contents of a site that its occupancy word selects, in bit order (R425). -/
def State.siteWords (s : State) (n occ : Nat) : List Nat :=
  let x := s.site n
  let y := x.seq
  let m := s.mxe (mxeOfSite n)
  let sel (b : Nat) (ws : List Nat) : List Nat := if occ.testBit b then ws else []
  let spans (b : Nat) : List Nat := sel b (((s.savedSpans n (2 ^ b)).map (s.arrayWords n)).flatten)
  let toks (ts : List Token) : List Nat := (ts.map Token.saveWords).flatten
  ((List.range 4).map (fun p => sel p (toks ((mfind x.ports p).map (·.tok)).toList))).flatten ++
  sel 4 (toks x.outTokens) ++
  sel 5 ([x.elem.cnt, x.elem.inv, x.elem.words, b2n x.atEntry, b2n x.awaitMarker] ++ x.elem.acc ++
    toks (x.elem.buf ++ x.taken ++ x.rin0.toList ++ x.rin1.toList ++ (x.op0.map (·.1)).toList ++ (x.op1.map (·.1)).toList)) ++
  sel 6 ([y.r.pc] ++ y.r.b.map (fun w => w.2.toNat) ++ y.r.t.map (fun w => w.2.toNat) ++ y.r.n.map (·.2) ++ y.r.lim.map (·.2) ++
    y.r.ofmt.map (·.2) ++ y.r.ifmt.map (·.2) ++ y.brq.map b2n) ++
  sel 7 (toks (y.iq.map (·.2)).flatten ++ (y.oq.map (fun q => q.2.map (·.toNat))).flatten) ++
  spans 8 ++ sel 8 m.bank0.saveWords ++ spans 9 ++ sel 9 m.bank1.saveWords ++ spans 10 ++
  sel 11 [((s.segMask n).map (fun k => 2 ^ k)).sum] ++ spans 11 ++
  sel 12 (x.ctl.map (fun c => b2n c.2.1) ++ x.ctlOut.map (fun c => b2n c.1))
/-- What the configuration network saves, in order: the header, the occupancy words, the contents (R425). DESIGN CHOICE (log
entry 81): where a field of the header, of a token or of an element's state stands within its words. -/
def State.saveWords (s : State) (l : Nat) (c : Placed) : List Nat :=
  let ns := c.places.map c.siteOf
  let occ := ns.map s.occupancy
  [l + 4096 * c.w + 2 ^ 20 * c.h, (s.liveLaunch l).status.toNat] ++ ns.map (fun n => (s.site n).active + 4 * (s.site n).rounds) ++
  (List.range (ceilDiv occ.length 4)).map (fun i => packElems 16 ((occ.drop (4 * i)).take 4)) ++
  (ns.zip occ).flatMap (fun e => if e.2 = 0 then [] else s.siteWords e.1 e.2)

/-- Words are written from an address on. -/
def State.putWords (s : State) (pa : Nat) : List Nat → State
  | [] => s
  | w :: ws => (s.agentWrite pa { val := BitVec.ofNat 64 w, tag := false }).putWords (pa + 8) ws

/-- The configuration network saves a drained configuration (R425), and it is a bid again (R398, R426). -/
def State.saveConfig (s : State) (l : Nat) (c : Placed) (region : Nat) : State :=
  let ns := s.sitesOf l
  let v : Saved :=
    { sites := ns.foldl (fun (m : Map Site) n => mset m (c.relative n) { (s.site n) with launch := none }) []
      occupancy := ns.foldl (fun (m : Map Nat) n => mset m (c.relative n) (s.occupancy n)) []
      arrays := ns.foldl (fun (m : Map (List SavedArray)) n =>
        mset m (c.relative n) ((s.savedSpans n (s.occupancy n)).map (fun a => s.getArray (siteBase n) a.1 a.2))) []
      mxes := (ns.filter (fun n => siteMxe n && (s.mxe (mxeOfSite n)).fabric)).foldl
        (fun (m : Map Mxe) n => mset m (c.relative n) (s.mxe (mxeOfSite n))) []
      region := region, size := poolUnits c.saveBound }
  let s := s.putWords region (s.saveWords l c)
  let s := s.clearConfig l
  let s := { s with fabric := { s.fabric with saved := mset s.fabric.saved l v } }
  (s.onLaunch l (fun x => { x with placed := false })).settleBids c.broad

/-- DRAINED (R424, R425). Operand: launch. -/
def execDrained (s : State) : Out :=
  let l := s.arg 0
  match mfind s.fabric.placed l with
  | none => .next s
  | some c =>
    if c.mode ≠ .draining ∨ s.isDrained l = false then .next s
    else match s.freeRegion (poolUnits c.saveBound) with
      | some a => .next (s.saveConfig l c a)
      | none => .next s

/-- DRAIN_TIMEOUT (R424): 2^24 cycles after the request the configuration stops. Operand: launch. -/
def execDrainTimeout (s : State) : Out :=
  let l := s.arg 0
  match mfind s.fabric.placed l with
  | some c =>
    (match c.drainAt with
     | some t =>
       if c.mode = .draining ∧ t + Config.drainCycles ≤ s.time then .next (s.stopConfig l Cause.drainTimeout 2 c.corner 0) else .next s
     | none => .next s)
  | none => .next s

end Sys2Proof.Machine
end

