-- ==== Sys2Proof/Machine/Walker.lean ====
section
/-!
DEFINITION. The spoor walkers (R170..R173, R347, R379, R402), the steps of the memory system that no instruction makes:
the recipients of a write and their updates (R336), the walks of a TLB slice (R367), and patrol reads (R362).
-/

namespace Sys2Proof.Machine

-- What a walk reads

/-- A word as a walk reads it: the publishing core's dirty copy, its herd slice's, else the home slice. -/
def State.walkWord (s : State) (w : Walk) (n : Nat) : Tagged :=
  let dirty (m : Map Copy) : Option Tagged :=
    match mfind m n with
    | some c => if c.dirty.isSome then some { val := c.val, tag := c.tag } else none
    | none => none
  if w.site.isSome then s.homeWord n
  else match dirty (s.core w.core).l1 with
    | some x => x
    | none => (dirty (s.herd (herdOfCore w.core)).copies).getD (s.homeWord n)

/-- Words that a walk reads are checked as they are read (R362). -/
def State.walkDetect (s : State) (w : Walk) (ws : List Nat) : State :=
  let s := if w.site.isSome then s else ws.foldl (fun s n => s.readCopy w.core n) s
  s.detectAll ws

/-- The physical ranges of a span that a walk reads, page by page: address and length, or the first fault (R173). -/
def State.walkRanges (s : State) (w : Walk) (va n : Nat) : List Nat → Except (MemKind × Nat) (List (Nat × Nat))
  | [] => .ok []
  | p :: ps =>
    match s.translate w.ptb w.asid w.super .read (BitVec.ofNat 64 p) with
    | .error k => .error (k, p)
    | .ok l =>
      match s.region l.pa with
      | .hole => .error (.notMapped, p)
      | _ =>
        match s.walkRanges w va n ps with
        | .error e => .error e
        | .ok rs => .ok ((l.pa, min (va + n) ((p / 65536 + 1) * 65536) - p) :: rs)

/-- The words of physical ranges. -/
def rangeWords (rs : List (Nat × Nat)) : List Nat := (rs.map (fun r => wordsOf r.1 r.2)).flatten

-- Headers (R152, R172)

/-- A header word with a state. -/
def hdrState (h : Nat) (st : Nat) : Nat := h - field h 32 30 * 2 ^ 30 + st * 2 ^ 30
/-- A header word with the next version. -/
def hdrNext (h : Nat) : Nat := h % 2 ^ 49 + (field h 63 49 + 1) % 2 ^ 15 * 2 ^ 49

/-- A header is written by a walk; the copies of the walk's own core and herd show it at once. -/
def State.writeHdr (s : State) (w : Walk) (hpa : Nat) (h : Nat) : State :=
  let n := hpa / 8
  let s := s.agentWrite hpa { val := BitVec.ofNat 64 h, tag := (s.homeWord n).tag }
  let s := if field h 32 30 % 4 = 0 then s
    else s.onCore w.core (fun c => { c with privs := c.privs.filter (fun o => o.hdr != n) })
  (s.drainWordSlice (herdOfCore w.core) n).drainWordL1 w.core n

/-- Walks of a herd, the one with an id changed. -/
def State.onWalk (s : State) (h id : Nat) (f : Walk → Walk) : State :=
  s.onHerd h (fun y => { y with walks := y.walks.map (fun w => if w.id = id then f w else w) })

-- Flushes (R172, R176)

/-- Writes of the publishing core on their way to a span go first. -/
def State.pushSpan (s : State) (w : Walk) (rs : List (Nat × Nat)) : State :=
  if w.site.isSome then s
  else (((s.core w.core).wq.map (fun f => f.write.word)).filter (inRanges rs)).foldl (fun s n => s.pushWord w.core n) s

/-- A write of the publishing context from before the walk is still at the port, and waits for no walk (R172, R333). -/
def State.heldBefore (s : State) (w : Walk) : Bool :=
  w.site.isNone &&
  (((s.core w.core).wq.filter (fun f => f.atPort && f.ctx == w.ctx)).takeWhile (fun f => f.walk.isNone)).any (fun f => decide (f.id < w.id))

/-- The publishing core's writes on their way to an object's header go before the walk meets it (R164, R171): a walk
finds what its context stored before it. -/
def State.pushHeader (s : State) (w : Walk) (o : Nat) : State :=
  match s.translate w.ptb w.asid w.super .read (BitVec.ofNat 64 o) with
  | .error _ => s
  | .ok l => s.pushSpan w [(l.pa, 8)]

/-- The owner's dirty words of a span reach the herd slice (R172). -/
def State.flushOwner (s : State) (w : Walk) (rs : List (Nat × Nat)) : State :=
  let own := ownerOf w.core w.ctx
  ((s.core w.core).l1.filter (fun e => e.2.dirty == some own && inRanges rs e.1)).foldl
    (fun s e => s.writeBack w.core e.1) s

/-- The dirty words of a span in the slice of herd h reach memory (R172). -/
def State.flushHerd (s : State) (h : Nat) (rs : List (Nat × Nat)) : State :=
  ((s.herd h).copies.filter (fun e => (e.2.dirty.isSome || e.2.obj) && inRanges rs e.1)).foldl (fun s e =>
    let s := s.onHerd h (fun y => { y with copies := mset y.copies e.1 { e.2 with dirty := none, obj := false } })
    if e.2.dirty.isSome then s.homeStore (wholeWord e.1 e.2.tagged) else s) s

-- Objects (R172)

/-- What a walk does at an object. -/
inductive Visit where
  /-- the object holds the state already -/
  | skip (hpa : Nat)
  | stop (cause : Nat)
  | fault (k : MemKind) (va : Nat)
  /-- another walk holds it -/
  | wait
  | enter (hpa hdr : Nat)
  deriving DecidableEq, Repr

/-- A walk meets the object at o (R150, R172, R347). force: it takes the object over from a stopped walk. -/
def State.visit (s : State) (w : Walk) (o : Nat) (force : Bool) : Visit :=
  match s.translate w.ptb w.asid w.super .read (BitVec.ofNat 64 o) with
  | .error k => .fault k o
  | .ok l =>
    match s.region l.pa with
    | .hole => .fault .notMapped o
    | _ =>
      if s.poisoned (l.pa / 8) then .fault .poison o
      else
        let h := (s.walkWord w (l.pa / 8)).val.toNat
        let st := field h 32 30
        if s.ownedByEngine w.asid (o % 2 ^ 57) (8 + 8 * (h % 2 ^ 28)) || s.convertingAt l.pa then .wait
        else if field h 29 28 = 3 ∨ 5 ≤ st then .stop (memCause .tag .walker)
        else if st = 4 then
          (if (mfind s.mem.marks l.pa).isSome then .wait else .stop (memCause .tag .walker))
        else if w.scope ≤ st then (if force then .enter l.pa h else .skip l.pa)
        else if st = 0 ∧ (w.site.isSome ∨ field h 48 33 ≠ ownerOf w.core w.ctx) then .stop Cause.foreignPrivate
        else .enter l.pa h

/-- The spans of an object: its header and body, and the shadow of a TENSOR object's tiles (R114, R172). -/
def State.objSpans (s : State) (w : Walk) (o hdr : Nat) : Except (MemKind × Nat) (List (Nat × Nat) × List (Nat × Nat)) :=
  let n := 8 * (hdr % 2 ^ 28)
  match s.walkRanges w (o + 8) n (pagesOf (o + 8) n) with
  | .error e => .error e
  | .ok body =>
    if field hdr 29 28 = 2 ∧ n ≠ 0 then
      let sh := (s.walkWord w ((body.getD 0 (0, 0)).1 / 8)).val.toNat
      let t := (o + 8 + n - 1) / 1024 - (o + 8) / 1024 + 1
      match s.walkRanges w sh (96 * t) (pagesOf sh (96 * t)) with
      | .error e => .error e
      | .ok shadow => .ok (body, shadow)
    else .ok (body, [])

-- The mark stack (R378, R379)

/-- Words of a spill area. -/
def Walk.spillCap (w : Walk) : Nat := if w.spill = 0 then 0 else 128 * 2 ^ (w.spill.toNat % 32)
/-- The next word of the spill area after n of them, in turn. -/
def Walk.spillAddr (w : Walk) (n : Nat) : Nat := w.spill.toNat / 4096 * 4096 + 8 * (n % max 1 w.spillCap)

/-- The outcome of bringing the mark stack down to its 512 entries. -/
inductive Spilled where
  | ok (s : State) (w : Walk)
  | full
  /-- the area has to wait for an engine's writes or a conversion (R350, R363) -/
  | wait
  | fault (k : MemKind) (va : Nat)
  deriving DecidableEq, Repr

/-- The oldest 64 entries go to the spill area as long as the stack holds more than 512. -/
def State.spillStack (s : State) (w : Walk) : Nat → Spilled
  | 0 => .ok s w
  | n + 1 =>
    if w.queue.length ≤ 512 then .ok s w
    else if w.spillCap < w.spilled - w.refilled + 64 then .full
    else if s.writeWaits w.ptb w.asid w.super (w.spillAddr w.spilled) 64 then .wait
    else match s.writable w.ptb w.asid w.super (w.spillAddr w.spilled) 64 with
      | .error (k, va) => .fault k va
      | .ok ws =>
        let s := s.agentWrites ws ((w.queue.take 64).map (fun o => { val := BitVec.ofNat 64 o, tag := false }))
        s.spillStack { w with queue := w.queue.drop 64, spilled := w.spilled + 64 } n

-- Records and stops (R173, R347)

/-- The walk posts a record for object o and waits for its resolution. -/
def State.walkRecord (s : State) (h : Nat) (w : Walk) (k : MemKind) (va o : Nat) : State :=
  let launch := match w.site with
    | some n => s.launchOf n
    | none => launchOfHandle w.handle
  (s.onWalk h w.id (fun x => { x with waits := true })).postFault
    { cause := memCause k .walker, sev := 1, src := 3, handle := w.handle, launch := some launch, loc := w.core
      tval := BitVec.ofNat 64 va, tval2 := BitVec.ofNat 64 o, aux := BitVec.ofNat 64 w.root, agent := .walk h w.id }

/-- An object that shows WALKING for a walk shows its old state again. -/
def State.unmark (s : State) (w : Walk) : State :=
  match w.held with
  | none => s
  | some (hpa, st) =>
    let s := s.writeHdr w hpa (hdrState (s.walkWord w (hpa / 8)).val.toNat st)
    { s with mem := { s.mem with marks := mdel s.mem.marks hpa } }

/-- Walks that skipped objects for a stopped walk take them over (R347). -/
def Walk.takeOver (x : Walk) (id : Nat) : Walk :=
  let objs := (x.skipped.filter (fun e => e.1 == id)).map (·.2)
  { x with skipped := x.skipped.filter (fun e => e.1 != id), queue := x.queue ++ objs, takeover := x.takeover ++ objs }

/-- Stores that wait for implicit walks with these ids wait no more (R164). -/
def State.freeWalks (s : State) (ids : List Nat) : State :=
  let free (f : Flight) : Flight := match f.walk with
    | some k => if ids.contains k then { f with walk := none } else f
    | none => f
  { s with cores := s.cores.map (fun c => (c.1, { c.2 with
      wq := c.2.wq.map free
      ctxs := c.2.ctxs.map (fun (x : Nat × Context) => (x.1, { x.2 with awaitWalks := x.2.awaitWalks.filter (fun k => !ids.contains k) })) })) }

/-- A walk is complete: what waits for it goes on, and stores that wait for an implicit walk of its root that stopped, of
its thread and no wider scope (R164, R171). -/
def State.walkDone (s : State) (w : Walk) : State :=
  let hit (e : Nat × Nat × Nat × Nat) : Bool := e.2.1 == w.handle && e.2.2.1 == w.root && decide (e.2.2.2 ≤ w.scope)
  let ids := (s.mem.unpublished.filter hit).map (·.1)
  let s := { s with mem := { s.mem with unpublished := s.mem.unpublished.filter (fun e => !hit e) } }
  s.freeWalks (w.id :: ids)

/-- A walk has stopped: a store that waits for it stays at the port, and an exposed instruction that waits for it is not
performed (R164, R173). -/
def State.walkLost (s : State) (w : Walk) : State :=
  let waits := s.cores.any (fun c => c.2.wq.any (fun f => f.walk == some w.id))
  let s := if waits then { s with mem := { s.mem with unpublished := s.mem.unpublished ++ [(w.id, w.handle, w.root, w.scope)] } } else s
  match s.placeOf w.handle with
  | some (c, k) => s.onCtx c k (fun x =>
      if x.awaitWalks.contains w.id then { x with phase := .fetch, snap := none, acc := none, snapCmd := none, awaitWalks := [] } else x)
  | none => s

/-- A walk stops (R173): the object that it met keeps its state, and the publishing context traps at its next block
boundary; a synchronising node faults its graph (R304). -/
def State.stopWalk (s : State) (h : Nat) (w : Walk) (cause o : Nat) : State :=
  let s := s.unmark w
  let s := s.onHerd h (fun y => { y with walks := y.walks.filter (fun x => x.id != w.id) })
  let s := { s with herds := s.herds.map (fun (y : Nat × Herd) => (y.1, { y.2 with walks := y.2.walks.map (fun (x : Walk) => x.takeOver w.id) })) }
  let s := s.walkLost w
  let root : Word := BitVec.ofNat 64 w.root
  match w.site with
  | some n =>
    let s := s.onSite n (fun x => { x with elem := { x.elem with walk := none } })
    s.graphFault n cause 1 root (BitVec.ofNat 64 o) 0
  | none =>
    match s.placeOf w.handle with
    | some (c, k) => s.onCtx c k (fun x => x.stateFault cause root (BitVec.ofNat 64 o))
    | none => if (mfind s.launch.threads w.handle).isSome then s.savedFault w.handle cause root (BitVec.ofNat 64 o) else s

-- One step (R172)

/-- The object that a walk takes next. -/
inductive NextObj where
  /-- object, whether a fault of it is its second, and the walk without it -/
  | obj (o : Nat) (last : Bool) (w : Walk)
  | fault (k : MemKind) (va : Nat)
  /-- the spilled entry lies in words that an engine owns (R350), or in a segment under conversion -/
  | wait
  | none
  deriving DecidableEq, Repr

/-- The order in which a walk takes objects: one that is tried again, the spilled entries, the mark stack, then the
fix-up list (R172, R173, R379). -/
def State.nextObj (s : State) (w : Walk) : NextObj :=
  if w.retrying then .obj w.faultObj true { w with retrying := false }
  else if w.refilled < w.spilled then
    match s.translate w.ptb w.asid w.super .read (BitVec.ofNat 64 (w.spillAddr w.refilled)) with
    | .error k => .fault k (w.spillAddr w.refilled)
    | .ok l =>
      if s.ownedByEngine w.asid (w.spillAddr w.refilled % 2 ^ 57) 8 || s.convertingAt l.pa then .wait
      else if s.poisoned (l.pa / 8) then .fault .poison (w.spillAddr w.refilled)
      else .obj (s.homeWord (l.pa / 8)).val.toNat false { w with refilled := w.refilled + 1 }
  else match w.queue with
    | o :: q => .obj o false { w with queue := q }
    | [] =>
      match w.fix with
      | e :: f => .obj e.1 true { w with fix := f }
      | [] => .none

/-- The spilled word that a walk is to read next. -/
def State.refillWord (s : State) (w : Walk) : List Nat :=
  if w.retrying = false ∧ w.refilled < w.spilled then
    match s.translate w.ptb w.asid w.super .read (BitVec.ofNat 64 (w.spillAddr w.refilled)) with
    | .ok l => [l.pa / 8]
    | .error _ => []
  else []

/-- A fault at an object: it goes to the fix-up list, or posts a record when it is its second (R173). -/
def State.walkFault (s : State) (h : Nat) (w : Walk) (o : Nat) (last : Bool) (k : MemKind) (va : Nat) : State :=
  if last then (s.onWalk h w.id (fun _ => { w with retrying := true, faultObj := o })).walkRecord h w k va o
  else s.onWalk h w.id (fun _ => { w with fix := w.fix ++ [(o, memCause k .walker)] })

/-- An object shows WALKING under the walk's mark (R150, R172). -/
def State.markObj (s : State) (w : Walk) (hpa hdr : Nat) : State :=
  let s := s.writeHdr w hpa (hdrState hdr 4)
  { s with mem := { s.mem with marks := mset s.mem.marks hpa w.id } }

/-- An object is flushed and scanned, its children enter the stack, and it takes its new state (R172). None while its spans, or
the spill area, have to wait. -/
def State.scanObj (s : State) (h : Nat) (w : Walk) (o hpa hdr : Nat) (last force : Bool) : Option State :=
  match s.objSpans w o hdr with
  | .error (k, va) => some (s.walkFault h w o last k va)
  | .ok (body, shadow) =>
    let spans := (hpa, 8) :: body ++ shadow
    let st := field hdr 32 30
    let mixed := field hdr 29 28 == 1
    let s := (s.pushSpan w spans).walkDetect w (if mixed then rangeWords body else [])
    if spans.any (fun r => s.convertingAt r.1) then none
    else if mixed && (rangeWords body).any s.poisoned then some (s.walkFault h w o last .poison o)
    else
      let s1 := s
      let s1 := if st = 0 ∧ w.site = none then s1.flushOwner w spans else s1
      let s1 := if 2 ≤ w.scope ∧ w.site = none then s1.flushHerd (herdOfCore w.core) spans else s1
      let own := herdOfCore (field hdr 48 38)
      let s1 := if 2 ≤ w.scope ∧ st = 1 then (s1.flushHerd own spans).drainWordSlice own (hpa / 8) else s1
      let kids := if mixed then ((rangeWords body).map (s1.walkWord w)).filter (fun x => x.tag) else []
      let w1 := { w with queue := w.queue ++ kids.map (fun x => x.val.toNat) }
      match s1.spillStack w1 (w1.queue.length / 64 + 1) with
      | .full => some (s1.stopWalk h w Cause.walkOverflow o)
      | .wait => none
      | .fault k va =>
        some ((s1.onWalk h w.id (fun _ => { w with retrying := true, faultObj := o })).walkRecord h w k va o)
      | .ok s2 w2 =>
        let s2 := { s2 with mem := { s2.mem with marks := mdel s2.mem.marks hpa } }
        let s2 := if force && decide (w.scope ≤ st) then s2 else s2.writeHdr w hpa (hdrState (hdrNext hdr) w.scope)
        some (s2.onWalk h w.id (fun _ => { w2 with entered := insertNum w2.entered hpa, held := none
                                                   takeover := w2.takeover.erase o }))

/-- Another walk that is not complete wrote the state of the object (R347). -/
def State.setBy (s : State) (id hpa : Nat) : Option Nat :=
  ((s.herds.map (fun h => (h.2.walks.filter (fun x => x.id != id && x.entered.contains hpa)).map (·.id))).flatten).head?

/-- A walk takes one object: it marks it and, unless only the mark is wanted, scans and sets it (R172). None when the walk
can do nothing. -/
def State.takeObj (s : State) (h : Nat) (w0 : Walk) (only : Bool) : Option State :=
  match w0.held with
  | some (hpa, st) =>
    if only then none
    else
      let hdr := hdrState (s.walkWord w0 (hpa / 8)).val.toNat st
      let w := { w0 with held := none, retrying := false }
      if s.ownedByEngine w.asid (w.faultObj % 2 ^ 57) (8 + 8 * (hdr % 2 ^ 28)) then none
      else
      let s := s.writeHdr w hpa hdr
      let s := { s with mem := { s.mem with marks := mdel s.mem.marks hpa } }
      s.scanObj h w w.faultObj hpa hdr w0.retrying (w.takeover.contains w.faultObj)
  | none =>
    let s := if s.heldBefore w0 then s.pushWrites w0.core w0.ctx 0 else s
    if s.heldBefore w0 then none
    else
    let s := s.walkDetect w0 (s.refillWord w0)
    match s.nextObj w0 with
    | .none => none
    | .wait => none
    | .fault k va => some (s.walkRecord h w0 k va 0)
    | .obj o last w =>
      let force := w.takeover.contains o
      let s := s.pushHeader w o
      let s := s.walkDetect w (match s.translate w.ptb w.asid w.super .read (BitVec.ofNat 64 o) with
        | .ok l => [l.pa / 8]
        | .error _ => [])
      match s.visit w o force with
      | .wait => none
      | .stop cause => some (s.stopWalk h w cause o)
      | .fault k va => some (s.walkFault h w o last k va)
      | .skip hpa =>
        let w := match s.setBy w.id hpa with
          | some d => { w with skipped := w.skipped ++ [(d, o)] }
          | none => w
        some (s.onWalk h w.id (fun _ => w))
      | .enter hpa hdr =>
        if only && !(force && decide (w.scope ≤ field hdr 32 30)) then
          let y : Walk := { w with held := some (hpa, field hdr 32 30), faultObj := o, retrying := last }
          some ((s.markObj w hpa hdr).onWalk h w.id (fun _ => y))
        else s.scanObj h w o hpa hdr last force

/-- The walk may complete (R171, R347): the stores before its pub are performed at its scope, and the walks that it
waits for are gone. -/
def State.walkCompletes (s : State) (w : Walk) : Bool :=
  !w.skipped.any (fun e => s.walkLive e.1) &&
  (w.site.isSome || !(s.core w.core).wq.any (fun f => f.ctx == w.ctx && decide (f.id < w.id) && f.pendingAt w.scope))

/-- One step of a walk; none when it can do nothing. -/
def State.walkRun (s : State) (h : Nat) (w : Walk) (only : Bool) : Option State :=
  if w.waits then none
  else match s.takeObj h w only with
    | some s => some s
    | none =>
      if w.held.isNone && s.nextObj w == .none && s.walkCompletes w then
        some ((s.onHerd h (fun y => { y with walks := y.walks.filter (fun x => x.id != w.id) })).walkDone w)
      else none

/-- The step of the walk that the operands name, or of the herd's first that can take one. -/
def State.walkStep (s : State) : State :=
  let h := herdOfCore s.act.core
  let only := s.arg 1 == 1
  match s.act.args with
  | [] => ((s.herd h).walks.findSome? (fun w => s.walkRun h w false)).getD s
  | k :: _ => (((s.herd h).walks[k]?).bind (fun w => s.walkRun h w only)).getD s

/-- WALK_STEP of the walker of the acting core's herd (R172). Operands: none for the first walk that can go on; else the
walk's place, and 1 when the step ends with the object showing WALKING. -/
def execWalkStep (s : State) : Out := .next s.walkStep
/-- WALKER_GRANT (R402): the home slice grants the walker the step that has waited. Operands as for WALK_STEP. -/
def execWalkerGrant (s : State) : Out := .next s.walkStep

-- Updates (R336)

/-- Whether a write on its way can take its next step: a held one its release condition (R160, R162), another a recipient
that a path leads to. -/
def State.flightReady (s : State) (core : Nat) (f : Flight) : Bool :=
  if f.atPort then s.mayLeave core f else f.devPending && !s.flightStuck f

/-- UPDATE_ACCEPT for the acting core's write k (R336): its next recipient accepts it, an earlier write to the word first, and
the counters fall with the last; a write held at the port leaves it when its condition holds. -/
def execUpdateAccept (s : State) : Out :=
  let core := s.act.core
  match (s.core core).wq[s.arg 0]? with
  | none => .next s
  | some f =>
    if f.atPort then .next (s.tryLeave core f)
    else
      let t := s.turnOf core f
      .next (if s.flightReady t.1 t.2 then s.flightStep t.1 t.2 else s)

/-- UPDATE_DRAIN (R336): the acting core's L1, or with operand 1 its herd's slice, drains its oldest update. -/
def execUpdateDrain (s : State) : Out :=
  if s.arg 0 = 1 then .next (s.drainSliceOne (herdOfCore s.act.core)) else .next (s.drainL1One s.act.core)

-- Translation walks and patrol reads (R362, R367)

/-- An entry enters the slice that walked it, which holds 1,024; a full slice drops one. -/
def State.fillTlb (s : State) (t : TlbEntry) : State :=
  let same := s.mem.tlb.filter (fun x => x.slice == t.slice)
  let tlb := if same.length < 1024 then s.mem.tlb
    else match same[Config.choose s.tick 0 % 1024]? with
      | some x => s.mem.tlb.erase x
      | none => s.mem.tlb
  { s with mem := { s.mem with tlb := tlb ++ [t] } }

/-- A TLB slice has failed and not yet come into service in its new slot, or its entry of the tables is being fetched again
(R435, R449). -/
def State.sliceDown (s : State) (k : Nat) : Bool :=
  s.dev.deadSlices.contains k || s.dev.due.any (fun d => d.code == 5 && d.unit / 256 == k) || s.dev.refetch.contains (9216 + k)

/-- TLB_WALK_STEP of walk k (R367): an entry is read at its home slice; a leaf fills the slice, and one that is not
valid ends the walk, whose accesses then fault. -/
def execTlbWalkStep (s : State) : Out :=
  match s.mem.tlbWalks[s.arg 0]? with
  | none => .next s
  | some x =>
    let rest := dropNth s.mem.tlbWalks (s.arg 0)
    if x.waits || s.sliceDown x.slice then .next s else
    let w := s.entryWord x.va x.table x.level
    let s := s.detect w
    let e := (s.homeWord w).val
    let ended : State := { s with mem := { s.mem with tlbWalks := rest } }
    if !s.entryOk e x.level || s.poisoned w then .next ended
    else if e.getLsbD 1 then
      let bits := pageBits x.level
      .next (ended.fillTlb { asid := x.asid, page := x.va / 2 ^ bits, bits := bits, entry := e, slice := x.slice })
    else
      let y : TlbWalk := { x with level := x.level + 1, table := field e.toNat 51 8 * 256 }
      .next { s with mem := { s.mem with tlbWalks := s.mem.tlbWalks.set (s.arg 0) y } }

/-- The first line from line n on that a home slice homes, among the next of them; none where there is none (R362, R372). -/
def State.patrolLine (s : State) (slice : Nat) : Nat → Nat → Option Nat
  | 0, _ => none
  | f + 1, n =>
    match s.region (64 * n) with
    | .hbm | .lpddr => if s.homeSlice (8 * n) = slice then some n else s.patrolLine slice f (n + 1)
    | _ => s.patrolLine slice f (n + 1)

/-- Line n, or where it lies behind the memory of its tier, the first of the other tier: HBM from 0, then LPDDR-6 (R358, R376). -/
def State.patrolNext (s : State) (n : Nat) : Nat :=
  let hbm := (s.creg 0x1030).toNat % 2048 * 16777216
  let lp := (s.creg 0x1038).toNat % 256 * 268435456
  if n < hbm then n
  else if n < 17179869184 then 17179869184
  else if n < 17179869184 + lp then n else 0

/-- PATROL_READ of a home slice (R362): it reads the next line that it homes, in ascending address. Operand: the slice. Where none
of the next 8,192 lines is its own, it goes on behind them. -/
def execPatrolRead (s : State) : Out :=
  let k := s.arg 0
  let from_ := s.patrolNext (mget 0 s.mem.patrol k)
  let to_ (s : State) (n : Nat) : State := { s with mem := { s.mem with patrol := mset s.mem.patrol k n } }
  match s.patrolLine k 8192 from_ with
  | some n => .next (to_ (s.detectAll (wordsOf (64 * n) 64)) (n + 1))
  | none => .next (to_ s (from_ + 8192))

end Sys2Proof.Machine
end

