-- ==== Sys2Proof/Machine/Resolve.lean ====
section
/-!
DEFINITION. The fault ring and the resolution of its records (R410..R413, R418, R435), and writes to control registers
and to the context-register window (R145, R360, R363, R380, R419, R424, R493, R499).
-/

namespace Sys2Proof.Machine

-- The fault ring (R410, R411)

/-- The words of a record at its ring index (R411). -/
def FaultRec.words (r : FaultRec) (index : Nat) : List Word :=
  let w (n : Nat) : Word := BitVec.ofNat 64 n
  [w (r.cause % 512 + 512 * (r.sev % 4) + 2048 * (r.src % 16) + 2 ^ 32 * (r.handle % 2 ^ 32)),
   w ((match r.launch with
     | some l => l % 4096 + 4096
     | none => 0) + 65536 * (r.loc % 65536)),
   r.tval, r.tval2, r.aux, r.iter, w r.time, w index]

/-- The source kind that is served next, in turn after the last (R402). -/
def State.fqSource (s : State) : Option Nat :=
  ((List.range 8).map (fun i => (s.fault.lastSrc + 1 + i) % 8)).find? (fun k => s.fault.waiting.any (fun r => r.src % 8 == k))

/-- The first record that satisfies p leaves the list. -/
def takeFirst (p : FaultRec → Bool) : List FaultRec → Option (FaultRec × List FaultRec)
  | [] => none
  | r :: rs => if p r then some (r, rs) else (takeFirst p rs).map (fun x => (x.1, r :: x.2))

/-- A thread that waits for a record learns its ring index (R420). -/
def State.noteIndex (s : State) (h index : Nat) : State :=
  match s.placeOf h with
  | some (c, k) => s.onCtx c k (fun x =>
    let x := { x with stall := x.stall.map (fun _ => index) }
    match x.phase with
    | .wait (.fault _) => { x with phase := .wait (.fault index) }
    | _ => x)
  | none => match s.thread h with
    | some t => (match t.wait with
      | some (.fault _) => (s.onThread h (fun t => { t with wait := some (.fault index) })).putSlotWord h 0xE10 (BitVec.ofNat 64 index)
      | _ => s)
    | none => s

/-- A record is written at the tail, and the tail advances (R410); the host's vector 0 is raised (R462). -/
def State.writeFault (s : State) (r : FaultRec) : State :=
  let i := s.fqTail
  let base := field (s.creg 0x3000).toNat 51 6 * 64 + 64 * (i % 2 ^ s.fqSize)
  let s := s.agentWrites ((List.range 8).map (fun k => s.localPa (base + 8 * k) / 8)) ((r.words i).map (fun w => { val := w, tag := false }))
  let s := s.setCreg 0x3010 (BitVec.ofNat 64 ((i + 1) % 2 ^ 32))
  let s := { s with dev := { s.dev with msix := s.dev.msix + b2n s.dev.done }
                    fault := { s.fault with lastSrc := r.src % 8, posted := mset s.fault.posted i r } }
  match r.agent with
  | .trap h => s.noteIndex h i
  | .access h => s.noteIndex h i
  | _ => s

/-- FAULT_RECORD_POST (R410): the next record is written; with the ring full, a record of severity 0 is dropped and
counted. -/
def execFaultRecordPost (s : State) : Out :=
  if !s.fqOn then .next s
  else if s.fqFull then
    match takeFirst (fun r => r.sev == 0) s.fault.waiting with
    | none => .next s
    | some x =>
      let v := (s.creg 0x3008).toNat
      let s := { s with fault := { s.fault with waiting := x.2 } }
      .next (s.setCreg 0x3008 (BitVec.ofNat 64 (v % 2 ^ 32 + 2 ^ 32 * min (v / 2 ^ 32 + 1) (2 ^ 32 - 1))))
  else match s.fqSource with
    | none => .next s
    | some k => match takeFirst (fun r => r.src % 8 == k) s.fault.waiting with
      | none => .next s
      | some x => .next ({ s with fault := { s.fault with waiting := x.2 } }.writeFault x.1)

/-- A write of c.fqhead is taken when it moves head forward and not past tail (R410). -/
def State.writeHead (s : State) (v : Nat) : State :=
  let h := v % 2 ^ 32
  if (s.fqTail + 2 ^ 32 - h) % 2 ^ 32 ≤ (s.fqTail + 2 ^ 32 - s.fqHead) % 2 ^ 32 then s.setCreg 0x3018 (BitVec.ofNat 64 h) else s
/-- FQHEAD_WRITE. Operand: value. -/
def execFqheadWrite (s : State) : Out := .next (s.writeHead (s.arg 0))

-- Resolutions (R412)

/-- The thread goes on as eret would (R412). -/
def State.trapRetry (s : State) (h : Nat) : State :=
  match s.placeOf h with
  | some (c, k) => s.onCtx c k Context.trapReturn
  | none =>
    let slot (n : Nat) : Nat := 0x800 + 8 * n
    let st := (s.slotWord h (slot 0x046)).toNat % 16
    let old := (s.slotWord h (slot 0x020)).toNat
    let s := s.putSlotWord h (slot 0x020) (BitVec.ofNat 64 (old / 16 * 16 + st))
    let s := s.putSlotWord h 0xE00 (s.slotWord h (slot 0x042))
    s.endSavedWait h

/-- Writes of a context that have failed at its core's port (R178): again says that they are tried again, else they are not
performed. -/
def State.freeFailed (s : State) (core ctx : Nat) (again : Bool) : State :=
  let hit (f : Flight) : Bool := f.ctx == ctx && f.failed
  (s.onCore core (fun c => { c with
    wq := if again then c.wq.map (fun f => if hit f then { f with failed := false } else f) else c.wq.filter (fun f => !hit f) })).onCtx
    core ctx (fun c => { c with stall := none })

/-- The exposed access is performed again (R178, R412). -/
def State.accessRetry (s : State) (h : Nat) : State :=
  match s.placeOf h with
  | some (c, k) =>
    if (s.ctxOf c k).stall.isSome then s.freeFailed c k true
    else s.onCtx c k (fun x => match x.lost with
      | some i => { x with phase := .exposed i, lost := none }
      | none => x)
  | none => s.endSavedWait h

/-- The cause is delivered at the next block boundary (R184, R412). -/
def State.accessAbort (s : State) (h : Nat) (r : FaultRec) : State :=
  match s.placeOf h with
  | some (c, k) =>
    if (s.ctxOf c k).stall.isSome then (s.freeFailed c k false).onCtx c k (fun x => x.stateFault r.cause r.tval r.tval2)
    else s.onCtx c k (fun x => { x.stateFault r.cause r.tval r.tval2 with phase := .fetch, lost := none, snap := none })
  | none =>
    let s := (s.savedFault h r.cause r.tval r.tval2).endSavedWait h
    s.onThread h (fun t => { t with lost := none, view := none })

/-- A thread retires by steps 1 to 5 of exit (R210, R412): the block in progress is discarded; a thread that is switched
out, or is being saved, retires once it is placed. -/
def State.abortThread (s : State) (h cause : Nat) : State :=
  match s.placeOf h with
  | some (c, k) =>
    if (s.ctxOf c k).locked then s.onThread h (fun t => { t with abort := some cause })
    else
      let s := (s.freeFailed c k false).onCtx c k (fun x => { Context.stopBlock x with lost := none, snap := none, switchReq := false })
      s.retire c k cause
  | none => (s.endSavedWait h).onThread h (fun t => { t with abort := some cause, lost := none, view := none })

/-- A command is changed wherever it stands: in an engine, a queue, a saved thread or the collective engine. -/
def State.onCommand (s : State) (id : Nat) (f : Command → Command) : State :=
  let g (c : Command) : Command := if c.id = id then f c else c
  let cores : Map Core := s.cores.map (fun (x : Nat × Core) => (x.1, { x.2 with engine := x.2.engine.map g, copq := x.2.copq.map g }))
  let threads : Map Thread := s.launch.threads.map (fun (x : Nat × Thread) => (x.1, { x.2 with cmds := x.2.cmds.map g }))
  let xchgs : List Xchg := s.dev.xchgs.map (fun (x : Xchg) => { x with cmd := g x.cmd })
  { s with cores := cores, launch := { s.launch with threads := threads }, dev := { s.dev with xchgs := xchgs } }

/-- A message of a send-buffer entry is held no longer (R422). -/
def State.unblockMsg (s : State) (k : Nat) : State :=
  let f (m : Msg) : Msg := if 4 * m.core + m.pri = k then { m with blocked := false } else m
  { s with launch := { s.launch with msgs := s.launch.msgs.map f } }

/-- The sites of a configuration stand as at step 3 of its load (R442): every plane that no site runs is to be written
again. -/
def State.reload (s : State) (l : Nat) : State :=
  let s := (s.sitesOf l).foldl (fun s n => s.onSite n (fun x =>
    let held (k : Nat) : Bool := ((mfind s.fabric.placed l).map (fun c => c.planes.any (fun e => e.1 == n && e.2.1 == k))).getD false
    let slots : Map PlaneSlot := x.slots.map (fun (p : Nat × PlaneSlot) =>
      (p.1, if (x.running && p.1 == x.active) || !held p.1 then p.2 else { p.2 with loaded := false }))
    { x with stopped := false, rstopped := false, slots := slots })) s
  s.onPlaced l (fun c => { c with mode := .loading, written := 0 })

/-- The graph launch is a bid again from its first round, sites excluded (R428). -/
def State.bidAgain (s : State) (l : Nat) (ns : List Nat) : State :=
  let s := { s with fabric := { s.fabric with excluded := mset s.fabric.excluded l (mget [] s.fabric.excluded l ++ ns)
                                              saved := mdel s.fabric.saved l } }
  s.rollBack l

/-- A record of a fabric agent is retried (R412): an invocation is replayed, another agent goes on, and a configuration that a
failure stopped bids again, the sites of the domain excluded (R428). -/
def State.fabricRetry (s : State) (l n cause : Nat) : State :=
  if (mfind s.fabric.placed l).isNone then s
  else if cause = Cause.regionPower then s.bidAgain l (s.sitesIn (stripeOfSite n) (s.domainOf n))
  else if cause = Cause.regionRoute then s.bidAgain l []
  else if (s.site n).launch ≠ some l then s
  else if seqOp (s.site n).op then s.replaySeq n
  else s.onSite n (fun x => { x with stopped := false })

/-- The agent of a record goes on (R412). -/
def State.retryAgent (s : State) (r : FaultRec) : State :=
  match r.agent with
  | .none => s
  | .trap h => s.trapRetry h
  | .access h => s.accessRetry h
  | .engine _ id => s.onCommand id (fun c => { c with stopped := false })
  | .mxe e => s.onMxe e (fun m => { m with waiting := none })
  | .walk h id => s.onWalk h id (fun w => { w with waits := false })
  | .fabric l n => s.fabricRetry l n r.cause
  | .load l => s.reload l
  | .message k => s.unblockMsg k
  | .tlb slice va =>
    let f (w : TlbWalk) : TlbWalk := if w.slice = slice ∧ w.va = va then { w with waits := false } else w
    { s with mem := { s.mem with tlbWalks := s.mem.tlbWalks.map f } }

/-- The agent of a record is aborted (R412). -/
def State.abortAgent (s : State) (r : FaultRec) : State :=
  match r.agent with
  | .none => s
  | .trap h => s.abortThread h r.cause
  | .access h => s.accessAbort h r
  | .engine _ id => s.onCommand id (fun c => { c with stopped := false, status := r.cause })
  | .mxe e => s.onMxe e (fun m => { m with
      waiting := none
      queue := (match m.queue with
        | c :: cs => { c with status := r.cause } :: cs
        | [] => []) })
  | .walk h id =>
    (match (s.herd h).walks.find? (fun w => w.id == id) with
     | some w => s.stopWalk h w r.cause r.tval2.toNat
     | none => s)
  | .fabric l _ => if recKind (s.liveLaunch l).record = 3 then s.endGraph l 2 r.cause else s
  | .load l => if recKind (s.liveLaunch l).record = 3 then s.endGraph l 2 r.cause else s
  | .message k =>
    (match s.launch.msgs.find? (fun m => 4 * m.core + m.pri == k && m.blocked) with
     | some m => s.deadMsg m
     | none => s)
  | .tlb slice va =>
    { s with mem := { s.mem with tlbWalks := s.mem.tlbWalks.filter (fun w => !(w.slice == slice && w.va == va)) } }

/-- A write of c.fqres acts on a record of severity 1, or of severity 2 with abort, that is not yet resolved (R412). -/
def State.resolve (s : State) (index : Nat) (abort : Bool) : State :=
  match mfind s.fault.posted index with
  | none => s
  | some r =>
    if r.sev = 1 ∨ (r.sev = 2 ∧ abort = true) then
      let s := { s with fault := { s.fault with posted := mdel s.fault.posted index } }
      if abort then s.abortAgent r else s.retryAgent r
    else s

/-- FQRES_RETRY (R412). Operand: index. -/
def execFqresRetry (s : State) : Out := .next (s.resolve (s.arg 0) false)
/-- FQRES_ABORT (R412). Operand: index. -/
def execFqresAbort (s : State) : Out := .next (s.resolve (s.arg 0) true)

-- c.ctxctl and c.gctl (R413, R418)

/-- c.ctxctl req 1: the thread is to be switched out. -/
def State.ctxSwitchOut (s : State) (core ctx : Nat) : State :=
  if (s.ctxOf core ctx).live then s.onCtx core ctx (fun c => { c with switchReq := true }) else s
/-- c.ctxctl req 2: the thread is aborted; no record gives a cause. -/
def State.ctxAbort (s : State) (core ctx : Nat) : State :=
  if (s.ctxOf core ctx).live then s.abortThread (s.ctxOf core ctx).handle Cause.replyNone else s
/-- c.ctxctl req 3: the trap of the context is posted as a record, and the context sleeps until it is resolved. -/
def State.ctxForward (s : State) (core ctx : Nat) : State :=
  let c := s.ctxOf core ctx
  if !c.live || c.locked then s
  else
    let s := s.onCtx core ctx (fun c => { Context.stopBlock c with phase := .wait (.fault 0), lost := none, snap := none })
    s.postFault { cause := (c.sr 0x041).toNat % 512, sev := 1, src := 0, handle := c.handle, launch := some (launchOfHandle c.handle)
                  loc := core, tval := c.sr 0x044, tval2 := c.sr 0x045, aux := c.sr 0x042, agent := .trap c.handle }

/-- CTXCTL_SWITCH_OUT of the acting context (R413). -/
def execCtxctlSwitchOut (s : State) : Out := .next (s.ctxSwitchOut s.act.core s.act.ctx)
/-- CTXCTL_ABORT of the acting context (R413). -/
def execCtxctlAbort (s : State) : Out := .next (s.ctxAbort s.act.core s.act.ctx)
/-- CTXCTL_FORWARD of the acting context (R413). -/
def execCtxctlForward (s : State) : Out := .next (s.ctxForward s.act.core s.act.ctx)

/-- A graph launch is live. -/
def State.graphLive (s : State) (l : Nat) : Bool := (mfind s.launch.live l).isSome && recKind (s.liveLaunch l).record == 3
/-- GCTL_DRAIN (R418, R424). Operand: launch. -/
def execGctlDrain (s : State) : Out := .next (if s.graphLive (s.arg 0) then s.requestDrain (s.arg 0) else s)
/-- GCTL_ABORT (R418). Operand: launch. -/
def execGctlAbort (s : State) : Out := .next (if s.graphLive (s.arg 0) then s.endGraph (s.arg 0) 2 0 else s)

-- The context-register window (R145, R360)

/-- A write to a context's window: while a block of the context runs it is held until the block has ended and its last instruction
has written its registers (R145). -/
def State.windowStore (s : State) (core ctx off : Nat) (v : Word) : State :=
  if s.windowHole core ctx off then s
  else
    let s1 := s.onCtx core ctx (fun c => { c with heldWrites := c.heldWrites ++ [(off, v)] })
    s1.settleWindow core ctx

/-- CONTEXT_WINDOW_WRITE in the window of the acting context (R360). Operands: offset, value. -/
def execContextWindowWrite (s : State) : Out :=
  .next (s.windowStore s.act.core s.act.ctx (s.arg 0 / 8 * 8) (BitVec.ofNat 64 (s.arg 1)))

-- Tile-area segments (R363)

/-- Segments of 65,536 bytes whose bits differ begin their conversion, which lasts 1,024 cycles. -/
def State.convert (s : State) (off base n v : Nat) : State :=
  let old := (s.creg off).toNat
  let segs := (List.range n).filter (fun i => old.testBit i != v.testBit i)
  let s := s.setCreg off (BitVec.ofNat 64 (v % 2 ^ n))
  { s with mem := { s.mem with converting := s.mem.converting ++ segs.map (fun i => (base + 65536 * i, s.time + 1024, v.testBit i)) } }

/-- A write of c.ctile of a core. -/
def State.writeCtile (s : State) (core v : Nat) : State := s.convert (0x100000 + 8 * core) (0x80000000000 + 524288 * core) 8 v
/-- A write of c.mtile of an MT. -/
def State.writeMtile (s : State) (m v : Nat) : State := s.convert (0x200000 + 8 * m) (0x80100000000 + 2097152 * m) 32 v
/-- CTILE_WRITE. Operands: core, value. -/
def execCtileWrite (s : State) : Out := if s.arg 0 < 1536 then .next (s.writeCtile (s.arg 0) (s.arg 1)) else .next s
/-- MTILE_WRITE. Operands: MT, value. -/
def execMtileWrite (s : State) : Out := if s.arg 0 < 768 then .next (s.writeMtile (s.arg 0) (s.arg 1)) else .next s

/-- A tile that cannot be corrected is poisoned (R363). -/
def State.poisonTile (s : State) (t : Nat) : State :=
  { s with mem := { s.mem with poison := (wordsOf (1024 * t) 1024).foldl insertNum s.mem.poison } }

/-- A segment is converted (R363): to a tile area with its words checked, its tags cleared and hallmarks of its data;
back with each tile's hallmark checked. -/
def State.convertSegment (s : State) (a : Nat) (toTile : Bool) : State :=
  let inSeg (w : Nat) : Bool := decide (a / 8 ≤ w) && decide (w < a / 8 + 8192)
  let tiles := (List.range 64).map (fun i => a / 1024 + i)
  if toTile then
    let s := s.detectSpan a 65536
    { s with mem := { s.mem with tags := s.mem.tags.filter (fun w => !inSeg w)
                                 hallmarks := s.mem.hallmarks.filter (fun h => !tiles.contains h.1) } }
  else
    let s := tiles.foldl (fun s t =>
      let r := s.checkTile t
      if r.2 then r.1
      else (r.1.poisonTile t).postFault
        { cause := Cause.hallmarkUncorrectable, sev := 3, src := 6, loc := (s.arrayOf (1024 * t)).2, tval := BitVec.ofNat 64 (1024 * t) }) s
    { s with mem := { s.mem with hallmarks := s.mem.hallmarks.filter (fun h => !tiles.contains h.1) } }

/-- SEGMENT_CONVERSION_DONE (R363): the oldest conversion whose 1,024 cycles are over. -/
def execSegmentConversionDone (s : State) : Out :=
  match s.mem.converting.find? (fun c => decide (c.2.1 ≤ s.time)) with
  | none => .next s
  | some c => .next ({ s with mem := { s.mem with converting := s.mem.converting.erase c } }.convertSegment c.1 c.2.2)

-- The clock (R499)

/-- c.clkctl: a request of 3 is ignored. -/
def State.writeClock (s : State) (v : Nat) : State := if v % 4 = 3 then s else s.setCreg 0x7000 (BitVec.ofNat 64 (v % 4))
/-- CLKCTL_WRITE. Operand: value. -/
def execClkctlWrite (s : State) : Out := .next (s.writeClock (s.arg 0))

-- The table port (R450, R493)

/-- A quiescent window is open: of the device, of a herd or of a stripe (R450). -/
def State.inWindow (s : State) : Bool := s.dev.window || s.herds.any (fun h => h.2.window) || !s.dev.stripes.isEmpty

/-- A write of c.itport by cc0 stages an entry, or drops it (R493). -/
def State.stageEntry (s : State) (v : Nat) : State :=
  let n := field v 26 16
  let shadow := v.testBit 63
  let bad := field v 15 9 != 0 || field v 62 27 != 0 || (!shadow && decide (1536 ≤ n)) || (!shadow && !s.inWindow)
  let kept := s.dev.stage_.filter (fun e => !(e.1 == n && e.2.2 == shadow))
  if s.dev.go then s
  else if bad || decide (2048 ≤ kept.length) then { s with dev := { s.dev with err := true } }
  else { s with dev := { s.dev with stage_ := kept ++ [(n, v % 512, shadow)] } }
/-- ITPORT_STAGE (R493). Operand: value. -/
def execItportStage (s : State) : Out := .next (s.stageEntry (s.arg 0))

/-- One staged entry is applied. -/
def DevSys.apply (d : DevSys) (e : Nat × Nat × Bool) : DevSys :=
  if e.2.2 then { d with shadow := mset d.shadow e.1 e.2.1 } else { d with cmap := mset d.cmap e.1 e.2.1 }

/-- A write of 1 to c.itctl.go by cc0: every staged entry is broadcast (R493). DESIGN CHOICE (log entry 82): an entry of the real
tables whose window has ended since it was staged is dropped, and err is set (R450). -/
def State.broadcast (s : State) : State :=
  if s.dev.go then s
  else
    let es := s.dev.stage_.filter (fun e => e.2.2 || s.inWindow)
    { s with dev := { es.foldl DevSys.apply s.dev with
      stage_ := [], go := true, err := decide (es.length < s.dev.stage_.length), acks := s.dev.acks + 1 } }
/-- ITCTL_GO (R493). -/
def execItctlGo (s : State) : Out := .next s.broadcast

/-- TABLE_BROADCAST_ACK (R450, R493): every router and interface has applied and acknowledged what was broadcast; go
reads 0, and the windows that waited for it end. -/
def execTableBroadcastAck (s : State) : Out :=
  if s.dev.acks = 0 then .next s
  else
    let hs := s.dev.closing.filter (fun k => decide (k < 256))
    let s := hs.foldl (fun s h => s.onHerd h (fun y => { y with window := false })) s
    let stripes := s.dev.stripes.filter (fun k => !s.dev.closing.contains (256 + k))
    .next { s with dev := { s.dev with acks := 0, go := false, closing := [], stripes := stripes } }

-- Control registers (R380, R410, R419, R424, R407)

/-- A launch queue's register is written (R380). -/
def State.writeQueueReg (s : State) (q off v : Nat) : State :=
  let x := s.queue q
  match off with
  | 0 => if x.en then s else s.onQueue q (fun x => { x with base := BitVec.ofNat 64 (field v 51 6 * 64) })
  | 8 =>
    let n := field v 15 11
    if v / 2 ^ 25 ≠ 0 ∨ n = 0 ∨ 16 < n then s
    else
      let s := s.onQueue q (fun x => { x with prio := v % 8, weight := field v 10 3, minshare := field v 23 16, en := v.testBit 24
                                              lsize := if x.en then x.lsize else n })
      s.writeTail q (s.queue q).tail.toNat
  | 16 => s.writeTail q v
  | 32 => if x.en then s else s.onQueue q (fun x => { x with ptb := BitVec.ofNat 64 (field v 51 21 * 2 ^ 21) })
  | 40 => if x.en then s else s.onQueue q (fun x => { x with asid := BitVec.ofNat 64 (v % 65536) })
  | _ => s

/-- A register of the fault ring is written (R410). -/
def State.writeFaultReg (s : State) (off v : Nat) : State :=
  match off with
  | 0x3000 => if s.fqOn then s else s.setCreg off (BitVec.ofNat 64 (field v 51 6 * 64))
  | 0x3008 =>
    let n := v % 32
    if field v 31 6 ≠ 0 ∨ n < 6 ∨ 16 < n ∨ (s.fqOn = true ∧ n ≠ s.fqSize) then s
    else s.setCreg off (BitVec.ofNat 64 ((s.creg off).toNat / 2 ^ 32 * 2 ^ 32 + v % 64))
  | 0x3018 => s.writeHead v
  | 0x3020 =>
    let act := field v 33 32
    if act < 2 then s.resolve (v % 2 ^ 32) (act == 1) else s
  | _ => s

/-- c.svbase and c.svcnt (R419). -/
def State.writeSaveReg (s : State) (off v : Nat) : State :=
  if !s.launch.threads.isEmpty then s
  else if off = 0x3040 then s.setCreg off (BitVec.ofNat 64 (field v 51 13 * 8192))
  else if v % 2 ^ 20 < 49152 then s
  else s.setCreg off (BitVec.ofNat 64 (v % 2 ^ 20))

/-- c.ctxctl of a context is written (R413). -/
def State.writeCtxctl (s : State) (core ctx v : Nat) : State :=
  match v % 4 with
  | 1 => s.ctxSwitchOut core ctx
  | 2 => s.ctxAbort core ctx
  | 3 => s.ctxForward core ctx
  | _ => s

/-- c.gctl is written (R418). -/
def State.writeGctl (s : State) (v : Nat) : State :=
  let l := v % 4096
  if !s.graphLive l then s
  else match field v 13 12 with
    | 1 => s.requestDrain l
    | 2 => s.endGraph l 2 0
    | _ => s

/-- A write of c.amdoor by a Journeyman's control core announces a request record (R454); one by another party is ignored. -/
def State.ringDoor (s : State) (v : Nat) : State :=
  if Config.controlCore s.act.core && !s.assayer s.act.core then { s with dev := { s.dev with doors := s.dev.doors ++ [v % 16] } } else s

/-- A write to a control register takes its effect. The table port takes one only of a context at M (R493), and c.amdoor
only of a Journeyman's core (R454); every register that is not named is read only or a hole. -/
def State.writeControl (s : State) (off v : Nat) : State :=
  if off = 0x7E00 then (if s.atM s.act.core s.act.ctx then s.stageEntry v else s)
  else if off = 0x7E08 then (if s.atM s.act.core s.act.ctx && v.testBit 0 then s.broadcast else s)
  else if 0x2000 ≤ off ∧ off < 0x3000 then s.writeQueueReg ((off - 0x2000) / 64) (off % 64) v
  else if 0x3000 ≤ off ∧ off < 0x3028 then s.writeFaultReg off v
  else if off = 0x3040 ∨ off = 0x3048 then s.writeSaveReg off v
  else if off = 0x3060 then s.setCreg off (BitVec.ofNat 64 (v / 8 * 8))
  else if off = 0x3070 then s.setCreg off (BitVec.ofNat 64 (field v 51 16 * 65536))
  else if off = 0x3078 then s.setCreg off (BitVec.ofNat 64 (v % 2 ^ 32))
  else if off = 0x7F00 then s.ringDoor v
  else if off = 0x3080 then s.writeGctl v
  else if off = 0x7000 then s.writeClock v
  else if 0x100000 ≤ off ∧ off < 0x100000 + 8 * 1536 then s.writeCtile ((off - 0x100000) / 8) v
  else if 0x200000 ≤ off ∧ off < 0x200000 + 8 * 768 then s.writeMtile ((off - 0x200000) / 8) v
  else if 0x500000 ≤ off ∧ off < 0x500000 + 8 * 32 * 1536 then s.writeCtxctl ((off - 0x500000) / 256) (off % 256 / 8) v
  else s

/-- CONTROL_REGISTER_WRITE (R380, R410, R419, R424). Operands: offset, value. -/
def execControlRegisterWrite (s : State) : Out := .next (s.writeControl (s.arg 0 / 8 * 8) (s.arg 1))

end Sys2Proof.Machine
end

