-- ==== Sys2Proof/Machine/Device.lean ====
section
/-!
DEFINITION. The device's management: requests of the Journeyman, quiescent windows, retirements and spares
(R428..R435, R443..R457), links and host accesses (R458..R463, R507), and bring-up, supply and temperature (R497..R503).
-/

namespace Sys2Proof.Machine

-- Requests (R454)

/-- The status of a request record is written, 1 done, 2 refused, and the next record may be served. -/
def State.answer (s : State) (req : Option Nat) (status : Nat) : State :=
  match req, s.dev.reqRing with
  | some i, some a =>
    let s := { s with dev := { s.dev with doors := s.dev.doors.erase i } }
    s.homeStore { word := s.localPa (a + 64 * (i % 16) + 48) / 8, mask := 1, val := BitVec.ofNat 64 status }
  | _, _ => s

/-- A request of a code and k operands is served (R454). With one more operand it is the request record of that index: it is served
in its turn, when the one before it has been answered, its operands are the record's words from w1 on, and a record of no code, or
with a reserved bit, is refused. DESIGN CHOICE (log entry 83): which word of a record holds which operand. -/
def State.serve (s : State) (code k : Nat) (f : List Nat → Option Nat → Out) : Out :=
  match s.act.args[k]?, s.dev.reqRing with
  | some i, some a =>
    let word (j : Nat) : Nat := (s.homeWord (s.localPa (a + 64 * (i % 16)) / 8 + j)).val.toNat
    if s.dev.doors.head? ≠ some i ∨ s.dev.due.any (fun d => d.req == some i) = true then .next s
    else if word 0 = 0 ∨ 8 < word 0 then .next (s.answer (some i) 2)
    else if word 0 = code then f ((List.range k).map (fun j => word (j + 1))) (some i)
    else .next s
  | _, _ => f (s.act.args.take k) none

/-- A request is refused, or takes its effect. -/
def State.request (s : State) (req : Option Nat) (ok : Bool) (f : State → State) : Out :=
  if ok then .next ((f s).answer req 1) else .next (s.answer req 2)

/-- A change is due at the next quiescent window of its herd or stripe. -/
def State.dueAt (s : State) (d : Due) : State := { s with dev := { s.dev with due := s.dev.due ++ [d] } }
/-- A change of a unit is due already. -/
def State.isDue (s : State) (code unit : Nat) : Bool := s.dev.due.any (fun d => d.code == code && d.unit == unit)

/-- A request that waits for a quiescent window is answered there; one for a unit whose change is due is refused. -/
def State.requestDue (s : State) (req : Option Nat) (ok : Bool) (code unit : Nat) : Out :=
  if ok && !s.isDue code unit then .next (s.dueAt { code := code, unit := unit, req := req }) else .next (s.answer req 2)

/-- RETIRE_CORE (R448, R454). Operands: core, record. -/
def execRetireCore (s : State) : Out :=
  s.serve 1 1 (fun ops req => s.requestDue req (decide (ops.getD 0 0 < 1536) && !s.absent (ops.getD 0 0)) 1 (ops.getD 0 0))
/-- RETIRE_HERD (R454, R456). Operands: herd, record. -/
def execRetireHerd (s : State) : Out :=
  s.serve 2 1 (fun ops req => s.requestDue req (decide (ops.getD 0 0 < 192) && !(s.herd (ops.getD 0 0)).retired) 2 (ops.getD 0 0))
/-- RETIRE_SITE (R433, R454). Operands: site, record. -/
def execRetireSite (s : State) : Out :=
  s.serve 3 1 (fun ops req => s.requestDue req (decide (ops.getD 0 0 < 6144) && !s.dev.retired.contains (ops.getD 0 0)) 3 (ops.getD 0 0))
/-- RETIRE_DOMAIN (R444, R454). Operands: stripe, domain, record. -/
def execRetireDomain (s : State) : Out :=
  s.serve 4 2 (fun ops req =>
    s.requestDue req (decide (ops.getD 0 0 < 24) && decide (ops.getD 1 0 < 9)) 4 (16 * ops.getD 0 0 + ops.getD 1 0))

-- Sites, spares and power domains (R432..R434, R443, R444)

/-- The spare slots that may substitute a site, ascending: an MXE's, an MT's or an FE's (R432). -/
def spareSlots (n : Nat) : List Nat := if siteMxe n then [0, 1, 2, 3] else if siteMt n then [4, 5] else [6, 7]
/-- A spare slot's register (R433). -/
def State.spareReg (s : State) (k j : Nat) : Nat := mget 0 s.dev.fspare (8 * k + j)
/-- A spare slot is free. -/
def State.spareFree (s : State) (k j : Nat) : Bool :=
  !(s.spareReg k j).testBit 8 && !(s.spareReg k j).testBit 9 && !s.dev.tlbHome.any (fun t => t.2 == 8 * k + j) &&
  !s.dev.due.any (fun d => d.code == 5 && d.unit % 256 == 8 * k + j)
/-- A spare slot has failed. -/
def State.deadSpare (s : State) (i : Nat) : State :=
  { s with dev := { s.dev with fspare := mset s.dev.fspare i (mget 0 s.dev.fspare i ||| 512) } }
/-- The physical site of a logical one, as the retirement log names it: a spare slot from 6,144. -/
def State.siteUnit (s : State) (n : Nat) : Nat := match s.substitute n with
  | some j => 6144 + 8 * stripeOfSite n + j
  | none => n
/-- A retirement of sites is logged (R446). -/
def State.logUnits (s : State) (us : List Nat) : State := { s with dev := { s.dev with logSites := us.foldl insertNum s.dev.logSites } }
/-- A bit of c.fdom of a stripe is set. -/
def State.setDomBit (s : State) (k b : Nat) : State :=
  { s with dev := { s.dev with fdom := mset s.dev.fdom k (mget 0 s.dev.fdom k ||| 2 ^ b) } }
/-- A site is retired and logged, and its domain holds a retired site (R432, R444, R446). -/
def State.retire1 (s : State) (n : Nat) : State :=
  let k := stripeOfSite n
  let s := s.logUnits [s.siteUnit n]
  { (s.setDomBit k (18 + s.domainOf n)) with dev := { (s.setDomBit k (18 + s.domainOf n)).dev with retired := insertNum s.dev.retired n } }

/-- A power domain has lost its routing rail. -/
def State.railDead (s : State) (d : Nat × Nat) : Bool := (mget 0 s.dev.fdom d.1).testBit (9 + d.2)
/-- The tunnels between a substituted site and its neighbours, both ways, pass working routers only (R434). -/
def State.tunnelOk (s : State) (n : Nat) : Bool :=
  (List.range 4).all (fun o => match neighbour n o with
    | none => true
    | some m => !(s.linkRouters m n ++ s.linkRouters n m).any (fun r => s.railDead (routerDomain r)))

/-- A failed site is substituted by the first free spare of its kind, if its tunnels exist, or retired (R432, R434). -/
def State.substituteSite (s : State) (n : Nat) : State :=
  let k := stripeOfSite n
  let s := match s.substitute n with
    | some j => s.deadSpare (8 * k + j)
    | none => s
  match (spareSlots n).find? (fun j => s.spareFree k j) with
  | some j =>
    let t := { s with dev := { s.dev with fspare := mset s.dev.fspare (8 * k + j) (siteX n % 64 + 64 * (siteY n % 4) + 256) } }
    if t.tunnelOk n then t else s.retire1 n
  | none => s.retire1 n
/-- The sites that spares substitute. -/
def State.substituted (s : State) : List Nat :=
  s.dev.fspare.filterMap (fun e =>
    let k := e.1 / 8
    if e.2.testBit 8 && !e.2.testBit 9 then some (32 * (64 * (k / 4 % 3) + e.2 % 64) + 16 * (k / 12) + 4 * (k % 4) + field e.2 7 6) else none)

/-- Every slot of a stripe's spare columns is dead. -/
def State.killSpares (s : State) (k : Nat) : State :=
  (List.range 8).foldl (fun s j => (s.deadSpare (8 * k + j)).logUnits [6144 + 8 * k + j]) s

/-- The elements of a domain are retired (R444). -/
def State.retireDomain (s : State) (k g : Nat) : State :=
  let s := (s.sitesIn k g).foldl State.retire1 s
  if g = 8 then s.killSpares k else s

/-- A configuration has an element at a site. -/
def Placed.elementAt (c : Placed) (n : Nat) : Bool := (c.planesOf n).any (fun p => p.bits 7 0 != 0)
/-- A configuration routes through a power domain: it has a plane at a site there, or a link or tunnel that passes its routers
(R428, R443). -/
def State.crosses (s : State) (c : Placed) (k g : Nat) : Bool :=
  c.planes.any (fun e => (stripeOfSite e.1 == k && s.domainOf e.1 == g && e.2.2.word != 0) ||
    (List.range 4).any (fun o => c.routesOver e.1 o && (match neighbour e.1 o with
      | some m => (s.linkRouters e.1 m).any (fun r => routerDomain r == (k, g))
      | none => false)))
/-- Configurations of a kind that has not stopped already stop (R428). -/
def State.stopWhere (s : State) (cause : Nat) (ns : List Nat) (p : Placed → Nat → Bool) : State :=
  s.fabric.placed.foldl (fun s e =>
    if e.2.mode == .faulted then s
    else match ns.find? (p e.2) with
      | some n => s.stopConfig e.1 cause 1 n 0
      | none => s) s

/-- A notice about a domain (R411, R443). -/
def State.railRecord (s : State) (cause sev k g : Nat) : State := s.postFault { cause := cause, sev := sev, src := 6, loc := 16 * k + g }

/-- An element rail fails (R428, R444). -/
def State.elementRail (s : State) (k g : Nat) : State :=
  let ns := s.sitesIn k g
  let s := (s.setDomBit k g).retireDomain k g
  (s.stopWhere Cause.regionPower ns Placed.elementAt).railRecord Cause.regulatorRail 3 k g

/-- TLB slice k stands at an MT (R367). -/
def sliceSite (k : Nat) : Nat := 32 * (8 * (k % 24) + 2) + 2 * (k / 24)

/-- The MT spare slot to which a TLB slice moves: of its stripe, else by ascending stripe and slot (R435). -/
def State.sliceSlot (s : State) (k : Nat) : Option (Nat × Nat) :=
  let own := stripeOfSite (sliceSite k)
  let slots (i : Nat) : List (Nat × Nat) := [(i, 4), (i, 5)]
  (slots own ++ ((List.range 24).filter (fun i => i != own)).flatMap slots).find? (fun x => s.spareFree x.1 x.2)

/-- A TLB slice has failed: its slot, where it is a spare, is dead, its entries are gone, and its walks wait for a resolution
(R435). -/
def State.failSlice (s : State) (k : Nat) : State :=
  let s := match mfind s.dev.tlbHome k with
    | some x => (s.deadSpare x).logUnits [6144 + x]
    | none => s
  let s := { s with dev := { s.dev with tlbHome := mdel s.dev.tlbHome k } }
  let f (w : TlbWalk) : TlbWalk := if w.slice = k then { w with waits := true } else w
  let hit := s.mem.tlbWalks.filter (fun w => w.slice == k && !w.waits)
  let s := { s with mem := { s.mem with tlbWalks := s.mem.tlbWalks.map f, tlb := s.mem.tlb.filter (fun t => t.slice != k) } }
  hit.foldl (fun s w => s.postFault { cause := Cause.eccTlb, sev := 1, src := 6, loc := k, tval := BitVec.ofNat 64 w.va, agent := .tlb k w.va }) s

/-- A TLB slice moves to a free MT spare slot (R435): the tables change in the window of the slot's stripe (R450). Without a slot the
device admits no more launches. -/
def State.moveSlice (s : State) (k : Nat) : State :=
  let s := s.failSlice k
  match s.sliceSlot k with
  | some x => s.dueAt { code := 5, unit := 256 * k + 8 * x.1 + x.2 }
  | none => { (s.postFault { cause := Cause.eccTlb, sev := 3, src := 6, loc := k }) with
    launch := { s.launch with stopped := true }
    dev := { s.dev with deadSlices := insertNum s.dev.deadSlices k } }
/-- A TLB slice stands in a spare slot. -/
def State.putSlice (s : State) (k slot : Nat) : State :=
  { s with dev := { s.dev with tlbHome := mset s.dev.tlbHome k slot, deadSlices := eraseNum s.dev.deadSlices k } }
/-- The TLB slices that the routing rail of a domain feeds (R435, R443). -/
def State.slicesIn (s : State) (k g : Nat) : List Nat :=
  (List.range 384).filter (fun i => match mfind s.dev.tlbHome i with
    | some x => x / 8 == k && g == 8
    | none => stripeOfSite (sliceSite i) == k && siteX (sliceSite i) % 64 / 8 == g)

/-- A routing rail fails (R428, R444): configurations with a route there stop, messages detour, sites whose tunnels it fed are
retired (R434), and the slices that it feeds move (R435). -/
def State.routingRail (s : State) (k g : Nat) : State :=
  let slices := s.slicesIn k g
  let s := s.fabric.placed.foldl (fun s e =>
    if e.2.mode != .faulted && s.crosses e.2 k g then s.stopConfig e.1 Cause.regionRoute 1 ((s.sitesIn k g).headD 0) 0 else s) s
  let s := (s.setDomBit k (9 + g)).retireDomain k g
  let s := { s with dev := { s.dev with detours := insertNum s.dev.detours (16 * k + g) } }
  let s := (s.substituted.filter (fun n => !s.dev.retired.contains n && !s.tunnelOk n)).foldl State.retire1 s
  (slices.foldl State.moveSlice s).railRecord Cause.regulatorRail 3 k g

/-- ELEMENT_RAIL_FAILURE (R428). Operands: stripe, domain. -/
def execElementRailFailure (s : State) : Out :=
  if s.arg 0 < 24 ∧ s.arg 1 < 9 ∧ (mget 0 s.dev.fdom (s.arg 0)).testBit (s.arg 1) = false then .next (s.elementRail (s.arg 0) (s.arg 1)) else .next s
/-- ROUTING_RAIL_FAILURE (R428). Operands: stripe, domain. -/
def execRoutingRailFailure (s : State) : Out :=
  if s.arg 0 < 24 ∧ s.arg 1 < 9 ∧ (mget 0 s.dev.fdom (s.arg 0)).testBit (9 + s.arg 1) = false then .next (s.routingRail (s.arg 0) (s.arg 1)) else .next s

/-- REGULATOR_PHASE (R443): the first two losses are noticed, the third is a rail failure. Operands: stripe, domain, 1 for
the routing rail. -/
def execRegulatorPhase (s : State) : Out :=
  let k := s.arg 0
  let g := s.arg 1
  let i := 2 * (16 * k + g) + s.arg 2 % 2
  let n := mget 0 s.dev.phases i + 1
  if 24 ≤ k ∨ 9 ≤ g then .next s
  else
    let s := { s with dev := { s.dev with phases := mset s.dev.phases i n } }
    if n < 3 then .next (s.railRecord Cause.regulatorPhase 0 k g)
    else if n = 3 then .next (if s.arg 2 % 2 = 1 then s.routingRail k g else s.elementRail k g)
    else .next s

/-- TLB_SLICE_MOVE (R435). Operand: slice. -/
def execTlbSliceMove (s : State) : Out := if s.arg 0 < 384 then .next (s.moveSlice (s.arg 0)) else .next s

/-- STRIPE_QUIESCENT_WINDOW (R433, R456): with a change due, the window opens; once no configuration occupies the stripe
the changes are made and broadcast. Operand: stripe. -/
def execStripeQuiescentWindow (s : State) : Out :=
  let k := s.arg 0
  let mine (d : Due) : Bool := (d.code == 3 && stripeOfSite d.unit == k) || (d.code == 4 && d.unit / 16 == k) ||
    (d.code == 5 && d.unit % 256 / 8 == k)
  let due := s.dev.due.filter mine
  if 24 ≤ k ∨ due = [] ∨ s.dev.closing.contains (256 + k) = true then .next s
  else if !s.dev.stripes.contains k then .next { s with dev := { s.dev with stripes := insertNum s.dev.stripes k } }
  else if s.fabric.placed.any (fun c => c.2.area.any (fun n => stripeOfSite n == k)) then .next s
  else
    let s := { s with dev := { s.dev with due := s.dev.due.filter (fun d => !mine d), closing := s.dev.closing ++ [256 + k], acks := s.dev.acks + 1 } }
    .next (due.foldl (fun s d =>
      let s := if d.code = 3 then (s.logUnits [s.siteUnit d.unit]).substituteSite d.unit
        else if d.code = 5 then s.putSlice (d.unit / 256) (d.unit % 256)
        else s.retireDomain k (d.unit % 16)
      s.answer d.req 1) s)

-- Cores and herds (R445..R448, R456)

/-- Core row of a logical core: 16·fx + cy (R445, R494). -/
def coreRow (n : Nat) : Nat := 16 * (n % 96 / 32) + n / 96
/-- The paired core row (R445). -/
def pairRow (r : Nat) : Nat := r / 2 * 2 + (1 - r % 2)
/-- The logical cores of a row, west to east. -/
def rowCores (r : Nat) : List Nat := (List.range 32).map (fun c => 96 * (r % 16) + 32 * (r / 16) + c)
/-- Row and column of the physical core of a logical one (R450). -/
def State.physicalCore (s : State) (n : Nat) : Nat × Nat :=
  let v := mget 0 s.dev.cmap n
  (if v.testBit 6 then pairRow (coreRow n) else coreRow n, v % 64)
/-- The defect map of the cores: fuses, and retirements since the last cold boot (R446). -/
def DevSys.deadCores (d : DevSys) : List (Nat × Nat) := d.fuseCores ++ d.logCores
/-- Dead columns of a row, each once. -/
def DevSys.deadIn (d : DevSys) (r : Nat) : List Nat := (List.range 33).filter (fun c => d.deadCores.contains (r, c))
/-- The spare of a row is living and maps no logical core. -/
def State.spareCoreFree (s : State) (r : Nat) : Bool :=
  !s.dev.deadCores.contains (r, 32) &&
  !((rowCores r ++ rowCores (pairRow r)).any (fun n => !s.absent n && s.physicalCore n == (r, 32)))

/-- A core that has failed is replaced by its row's spare, else by its pair's, else it is absent (R448); one that is absent has
nothing to replace. -/
def State.replaceCore (s : State) (n : Nat) : State :=
  if s.absent n then s else
  let s := s.emptyL1 n
  let r := coreRow n
  let s := { s with dev := { s.dev with logCores := s.dev.logCores ++ [s.physicalCore n] } }
  let v := if s.spareCoreFree r then 32 + 256
    else if s.spareCoreFree (pairRow r) ∧ s.dev.deadIn (pairRow r) = [] then 32 + 64 + 256
    else 128
  { s with dev := { s.dev with cmap := mset s.dev.cmap n v } }

/-- Escape operators of a retired herd are bound anew, and its queued payloads move in order (R302). -/
def State.rebind (s : State) (h : Nat) : State :=
  let f (c : Placed) : Placed :=
    { c with bind := c.bind.map (fun (b : Nat × Nat) => (b.1, if b.2 = h then (s.nearestHerd b.1).getD h else b.2)) }
  let placed : Map Placed := s.fabric.placed.map (fun (c : Nat × Placed) => (c.1, f c.2))
  let s := { s with fabric := { s.fabric with placed := placed } }
  let q := (s.herd h).escq
  let s := s.onHerd h (fun y => { y with escq := [] })
  q.foldl (fun s p => s.onHerd (s.escHerd p.1) (fun y => { y with escq := y.escq ++ [p] })) s

/-- A herd is retired (R456): threads of its herd launches and members of sets bound to it are aborted, and its escape
operators are bound anew. -/
def State.retireHerd (s : State) (h cause : Nat) : State :=
  let s := (s.emptySlice h).onHerd h (fun y => { y with retired := true })
  let s := if (coresOfHerd h).all s.absent then s else { s with dev := { s.dev with logHerds := insertNum s.dev.logHerds h } }
  let launches := (s.launch.live.filter (fun l => recKind l.2.record == 2 && (match l.2.trans with
    | some t => t.1 == h
    | none => false))).map (·.1)
  let members := (s.herd h).units.flatMap (fun u => match u.2.record with
    | some r => (s.aux r).members.map (·.1)
    | none => [])
  let gone := (s.launch.threads.map (·.1)).filter (fun t => launches.contains (launchOfHandle t) || members.contains t)
  let s := gone.foldl (fun s t => (s.abortThread t cause).onLaunch (launchOfHandle t) (fun x => { x with outcome := 2, cause := cause })) s
  s.rebind h

/-- What may have ended a core (R404). DESIGN CHOICE (log entry 9): the manual names no cause for a herd whose last core a request
retires. -/
def coreCauses : List Nat := [Cause.eccRegfile, Cause.eccL1, Cause.eccBlkbuf, Cause.niFail, Cause.watchdog]
/-- A change at a herd's window (R448, R456). The cause of a herd whose last core a request retires is a free choice among the causes
of a core's end. DEDUCED (log entry 9): a herd that a request retires is one whose slice has failed. -/
def State.applyDue (s : State) (h : Nat) (d : Due) : State :=
  let s := if d.code = 1 then
      let s := s.replaceCore d.unit
      if (coresOfHerd h).all s.absent then s.retireHerd h (if d.cause = 0 then coreCauses.getD (Config.choose s.tick 0 % 5) Cause.watchdog else d.cause) else s
    else s.retireHerd h (if d.cause = 0 then Cause.eccHerdslice else d.cause)
  s.answer d.req 1

/-- HERD_QUIESCENT_WINDOW (R456): with a change due, placement stops and every thread of the herd is to be switched out;
once none is left the changes are made and broadcast. Operand: herd. -/
def execHerdQuiescentWindow (s : State) : Out :=
  let h := s.arg 0
  let mine (d : Due) : Bool := (d.code == 1 && herdOfCore d.unit == h) || (d.code == 2 && d.unit == h)
  let due := s.dev.due.filter mine
  let live := (coresOfHerd h).flatMap (fun n => ((s.core n).ctxs.filter (fun k => k.2.live)).map (fun k => (n, k.1)))
  if 192 ≤ h ∨ due = [] ∨ s.dev.closing.contains h = true then .next s
  else if !(s.herd h).window then
    let s := s.onHerd h (fun y => { y with window := true })
    .next (live.foldl (fun s x => s.onCtx x.1 x.2 (fun c => { c with switchReq := true })) s)
  else if !live.isEmpty then .next s
  else
    let s := { s with dev := { s.dev with due := s.dev.due.filter (fun d => !mine d), closing := s.dev.closing ++ [h], acks := s.dev.acks + 1 } }
    .next (due.foldl (fun s d => s.applyDue h d) s)

/-- NI_FAIL (R429): the interface of the acting core fails after a head flit; the receiver discards the partial message
and reports it, and the core is retired at its herd's next window. Operand: the message's priority. -/
def execNiFail (s : State) : Out :=
  let n := s.act.core
  let part := s.launch.msgs.find? (fun m => m.core == n && m.pri == s.arg 0 && !m.blocked)
  let s := match part with
    | some m => (s.dropMsg m).postFault { cause := Cause.niFail, sev := 3, src := 6, handle := m.src, launch := some (launchOfHandle m.src), loc := n }
    | none => s
  .next (if s.absent n || s.isDue 1 n then s else s.dueAt { code := 1, unit := n, cause := Cause.niFail })

-- Channels (R376, R377)

/-- A free spare pseudo-channel of a stack. -/
def State.spareChannel (s : State) (stack : Nat) : Option Nat :=
  ((List.range 4).map (fun j => 68 * stack + 64 + j)).find? (fun p =>
    !s.mem.chanMap.any (fun e => decide (e.1 < 4096) && e.2 == p) && !s.mem.copying.any (fun c => c.2.2 == p) && !s.dev.fuseChans.contains (false, p))
/-- Channels in service of a tier (R376). -/
def State.channels (s : State) (lp : Bool) : Nat := if lp then (s.creg 0x1038).toNat % 256 else (s.creg 0x1030).toNat % 2048

/-- RETIRE_CHANNEL (R377, R454): an HBM channel whose stack has a spare begins to be copied; another is dead. Operands: 1
for LPDDR-6, channel, record. -/
def execRetireChannel (s : State) : Out :=
  s.serve 5 2 (fun ops req =>
    let lp := ops.getD 0 0 % 2 == 1
    let ch := ops.getD 1 0
    let spare := if lp then none else s.spareChannel (s.hbmPhysical ch / 68)
    let ok := decide (ch < s.channels lp) && !s.mem.deadChan.contains (2 * ch + b2n lp) && (lp || !s.mem.copying.any (fun c => c.1 == ch))
    s.request req ok (fun s =>
      let s := { s with dev := { s.dev with fuseChans := s.dev.fuseChans ++ [(lp, if lp then s.lpPhysical ch else s.hbmPhysical ch)] } }
      match spare with
      | some p => { s with mem := { s.mem with copying := s.mem.copying ++ [(ch, 0, p)] } }
      | none => { s with mem := { s.mem with deadChan := insertNum s.mem.deadChan (2 * ch + b2n lp) } }))

/-- CHANNEL_SPARE_COPY (R377): the next granule of a failing HBM channel is copied, and words that cannot be read are
poisoned; after the last the indirection names the spare. Operand: channel. -/
def execChannelSpareCopy (s : State) : Out :=
  match s.mem.copying.find? (fun c => c.1 == s.arg 0) with
  | none => .next s
  | some (ch, q, p) =>
    let n := s.channels false
    let g := q * n + (ch + n - (hash64 (BitVec.ofNat 64 q) 0).toNat % n) % n
    let s := s.detectAll ((s.mem.latent.map (·.1)).filter (fun w => w / 512 == g))
    let rest := s.mem.copying.filter (fun c => c.1 != ch)
    if q + 1 < 262144 then .next { s with mem := { s.mem with copying := rest ++ [(ch, q + 1, p)] } }
    else .next { s with mem := { s.mem with copying := rest, chanMap := mset s.mem.chanMap ch p } }

-- Tables and control cores (R449, R455)

/-- TABLE_ENTRY_ERROR at the router of the acting site (R449): corrected, or fetched again. Operands: entry, 1 when it
cannot be corrected. -/
def execTableEntryError (s : State) : Out :=
  if s.arg 1 = 0 then .next (s.corrected 0x15 s.act.site 0)
  else
    let s := { s with dev := { s.dev with refetch := insertNum s.dev.refetch (s.arg 0) } }
    .next (s.postFault { cause := Cause.eccRouter, sev := 0, src := 6, loc := s.act.site })
/-- TABLE_ENTRY_REFETCH (R449): the entry has come from the master copy. Operand: entry. -/
def execTableEntryRefetch (s : State) : Out := .next { s with dev := { s.dev with refetch := eraseNum s.dev.refetch (s.arg 0) } }

/-- A thread starts on a control core (R452): cc0, or the spare in its place, runs the Assayer at M, the others the Journeyman at S. The
manual gives neither firmware nor where it begins: the first address is a free value (log entry 84). -/
def State.startCore (s : State) (cc mode : Nat) : State :=
  s.setCtx (1536 + cc) 0
    { live := true, handle := 0xFFFFFFFF, addr := Config.freeWord s.tick (80 + cc), sreg := [(0x020, BitVec.ofNat 64 mode)] }
/-- CONTROL_CORE_FAILURE (R455): with cc0 gone, admissions stop and the failure is reported; a Journeyman core's instance starts anew
on cc4. Operand: control core. -/
def execControlCoreFailure (s : State) : Out :=
  let k := s.arg 0
  if 5 ≤ k ∨ s.dev.ccFailed.contains k = true then .next s
  else
    let s := { s with dev := { s.dev with ccFailed := insertNum s.dev.ccFailed k } }
    let stop (s : State) : State := s.onCtx (1536 + k) 0 (fun c => { c with live := false })
    if k = 0 then .next (stop { (s.postFault { cause := Cause.watchdog, sev := 3, src := 6 }) with launch := { s.launch with stopped := true } })
    else if k < 4 ∧ s.dev.ccFailed.contains 4 = false ∧ (s.ctxOf 1540 0).live = false then
      .next ((stop s).startCore 4 1)
    else .next (stop s)

/-- The Journeyman's image passes both signature checks over its digest (R453). -/
def State.firmwareOk (s : State) : Bool :=
  let d := Config.sha384 s.dev.image
  Config.ecdsaVerifies d s.dev.ecdsa && Config.mldsaVerifies d s.dev.mldsa

/-- ATTEST (R454): the report is written at the nonce address, the nonce first: then the ROM version, the digests of the Journeyman
image and of the two maps, and the signatures, words whose layout and values the manual does not give. Operands: address, record. -/
def execAttest (s : State) : Out :=
  s.serve 8 1 (fun ops req =>
    let a := s.localPa (ops.getD 0 0 / 8 * 8)
    s.request req (match s.region a with
      | .hole => false
      | _ => true) (fun s =>
        s.putWords a ((s.homeWord (a / 8)).val.toNat :: (List.range 610).map (fun k => (Config.freeWord s.tick k).toNat))))

-- Colueso links (R458..R461, R507)

/-- A port changed. -/
def State.onPort (s : State) (p : Nat) (f : LinkPort → LinkPort) : State :=
  { s with dev := { s.dev with ports := mset s.dev.ports p (f (mget {} s.dev.ports p)) } }

/-- LINK_ROUTE (R454, R461): a path to a destination is written; one through a link that is down is refused. Operands:
destination, path, port, record. -/
def execLinkRoute (s : State) : Out :=
  s.serve 6 3 (fun ops req =>
    let p : LinkPort := mget {} s.dev.ports (ops.getD 2 0)
    s.request req (decide (ops.getD 0 0 < 64) && decide (ops.getD 1 0 < 4) && decide (ops.getD 2 0 < 24) && decide (p.fails < 16)) (fun s =>
      { s with dev := { s.dev with paths := mset s.dev.paths (4 * ops.getD 0 0 + ops.getD 1 0) (ops.getD 2 0) } }))

/-- LANE_SPARE (R454, R458): the spare lane comes into service; refused where it is in use already. Operands: port, record. -/
def execLaneSpare (s : State) : Out :=
  s.serve 7 1 (fun ops req =>
    let k := ops.getD 0 0
    s.request req (decide (k < 24) && !(mget {} s.dev.ports k : LinkPort).spare) (fun s => s.onPort k (fun p => { p with spare := true })))

/-- LANE_FAILURE (R458): the spare takes the lane's place, or the port runs on four lanes; the lane is logged (R446). Operand:
port. -/
def execLaneFailure (s : State) : Out :=
  let k := s.arg 0
  if 24 ≤ k then .next s
  else
    let s := { s with dev := { s.dev with logLanes := s.dev.logLanes ++ [k] } }
    if (mget {} s.dev.ports k : LinkPort).spare then
      .next ((s.onPort k (fun p => { p with lanes := if p.up then 4 else p.lanes })).postFault { cause := Cause.linkLane, sev := 3, src := 6, loc := k })
    else .next ((s.onPort k (fun p => { p with spare := true })).corrected 0x21 k 0)

/-- The header of a flit, and whether its payload and check are as they should be (R459): class, acknowledged sequence. -/
def flitClass (h : Nat) : Nat := h % 4
def flitAck (h : Nat) : Nat := field h 25 14

/-- LINK_FLIT_RECEIVE (R459): a flit that fails its check, or that is not the one expected, is discarded and asked for
again; another is taken, and what it acknowledges leaves the replay buffer. Operands: port, sequence number, whether the
check passed, the flit's bytes. -/
def execLinkFlitReceive (s : State) : Out :=
  let k := s.arg 0
  let p : LinkPort := mget {} s.dev.ports k
  let bytes : List Byte := (s.act.args.drop 3).map (BitVec.ofNat 8)
  let hdr := valueLE (bytes.take 8)
  if 24 ≤ k ∨ p.up = false then .next s
  else if s.arg 2 = 0 ∨ s.arg 1 % 4096 ≠ p.expect then .next (s.onPort k (fun p => { p with asked := some p.expect }))
  else .next (s.onPort k (fun p => { p with
    expect := (p.expect + 1) % 4096
    asked := none
    unacked := p.unacked.filter (fun f => decide (2048 ≤ (f.seq + 4096 - flitAck hdr) % 4096))
    received := p.received ++ [(flitClass hdr, (bytes.drop 8).take 244)] }))

/-- Flits that a port had not delivered go on over the next path of their destination that is up (R461). -/
def State.failover (s : State) (k : Nat) : State :=
  let p : LinkPort := mget {} s.dev.ports k
  p.unacked.foldl (fun s f =>
    let paths := (List.range 4).filterMap (fun i => mfind s.dev.paths (4 * f.dest + i))
    match paths.find? (fun j => j != k && (mget {} s.dev.ports j : LinkPort).up) with
    | some j =>
      let q : LinkPort := mget {} s.dev.ports j
      let s := s.onPort j (fun q => { q with unacked := q.unacked ++ [{ f with seq := q.nextSeq }], nextSeq := (q.nextSeq + 1) % 4096 })
      if q.up then s.onPort k (fun p => { p with unacked := p.unacked.erase f }) else s
    | none => s) s

/-- LINK_REPLAY (R459): the sender replays; sixteen consecutive failures take the link down. Operands: port, 1 when the
replay failed. -/
def execLinkReplay (s : State) : Out :=
  let k := s.arg 0
  let p : LinkPort := mget {} s.dev.ports k
  if 24 ≤ k ∨ p.up = false then .next s
  else
    let s := (s.onPort k (fun p => { p with retry := min (p.retry + 1) (2 ^ 32 - 1), fails := if s.arg 1 = 0 then 0 else p.fails + 1 })).corrected 0x20 k 0
    if s.arg 1 = 0 ∨ p.fails + 1 < 16 then .next s
    else
      let s := (s.onPort k (fun p => { p with up := false, lanes := 0 })).postFault { cause := Cause.linkDown, sev := 3, src := 6, loc := k }
      .next (s.failover k)

/-- LINK_TRAINING (R458): a port comes up, and its paths return to service. Operands: port, the peer's device, group and
port. -/
def execLinkTraining (s : State) : Out :=
  let k := s.arg 0
  if 24 ≤ k then .next s
  else .next (s.onPort k (fun p => { p with
    up := true
    lanes := if p.lanes = 4 ∨ 2 ≤ ((s.dev.fuseLanes ++ s.dev.logLanes).filter (fun i => i == k)).length then 4 else 8
    pdev := s.arg 1 % 64
    pgrp := s.arg 2 % 1024
    pport := s.arg 3 % 32
    fails := 0
    asked := none }))

-- Host accesses (R462, R463)

/-- HOST_ACCESS (R463): through BAR0 a control register, through the HDM range a physical address below 2^42. Until the
boot is done every control register but c.boot reads zero and takes no write (R502). The module's other interfaces answer a read once
there is power (R501): I3C the 8 bytes of c.ident, c.boot, c.therm or c.clkctl, PMBus its temperature and the readings of the supply,
IEEE 1149.1 IDCODE, with c.ident.part in [27:12], and BYPASS (R451). Operands: 1 for a write, 2 for I3C, 3 for PMBus, 4 for
IEEE 1149.1; address, control offset, command or 0 for IDCODE; size; value. -/
def execHostAccess (s : State) : Out :=
  let pa := s.arg 1
  let n := s.arg 2
  let read (s : State) (x : Word) : Out := .next { s with dev := { s.dev with hostData := x } }
  if s.arg 0 = 2 then
    (if ([0, 0x7000, 0x7008, 0x7010] : List Nat).contains pa then read s (s.controlRead pa) else .next s)
  else if s.arg 0 = 3 then read s (if pa = 0x8D then BitVec.ofNat 64 s.dev.tmax else Config.freeWord s.tick 0)
  else if s.arg 0 = 4 then
    read s (if pa = 0 then BitVec.ofNat 64 (field (s.controlRead 0).toNat 31 16 * 4096 + field (Config.freeWord s.tick 0).toNat 11 0 +
        field (Config.freeWord s.tick 0).toNat 31 28 * 2 ^ 28)
      else BitVec.ofNat 64 (s.arg 3 % 2))
  else if !([1, 2, 4, 8] : List Nat).contains n || pa % 8 + n > 8 || !s.dev.powered then .next s
  else if Config.controlBase ≤ pa ∧ pa < Config.controlBase + 4294967296 then
    let off := pa - Config.controlBase
    let open_ := s.dev.done || off / 8 * 8 == 0x7010
    if s.arg 0 = 0 then read s (if open_ then BitVec.ofNat 64 (elemOf (8 * n) 0 ((s.controlRead (off / 8 * 8)).toNat / 2 ^ (8 * (off % 8)))) else 0)
    else if open_ then .next (s.writeControl (off / 8 * 8) (s.arg 3)) else .next s
  else if pa < 2 ^ 42 then
    match s.region pa with
    | .hole => if s.arg 0 = 0 then read s (Config.freeWord s.tick 0) else .next s
    | _ =>
      if s.arg 0 = 0 then
        let r := s.homeRead (pa / 8)
        read r.1 (BitVec.ofNat 64 (elemOf (8 * n) 0 (r.2.val.toNat / 2 ^ (8 * (pa % 8)))))
      else .next (s.homeStore { word := pa / 8
                                mask := BitVec.ofNat 8 ((2 ^ n - 1) * 2 ^ (pa % 8))
                                val := BitVec.ofNat 64 (s.arg 3 % 2 ^ (8 * n) * 2 ^ (8 * (pa % 8))) })
  else .next s

-- Soft errors (R112, R362, R484)

/-- Bits of a word of an array flip (R361): of a register of the acting core by its number in the register file, of a bundle of its
block buffer by 64 times the context and the bundle's place, of a word at an address in its L1, in its herd's slice or
instruction cache or in its home slice, of an entry of TLB slice arg 3 that begins at an address, or of an accumulator under its
own check bits. -/
def State.flipArray (s : State) (array at_ : Nat) (mask : Word) : State :=
  let n := s.act.core
  let h := herdOfCore n
  let w := s.localPa at_ / 8
  let flips (unit word : Nat) : State :=
    let old := ((s.mem.errOf array unit word).map (·.flips)).getD 0
    let m := s.mem.dropErr array unit word
    if old ^^^ mask = 0 then { s with mem := m }
    else { s with mem := { m with errs := m.errs ++ [{ array := array, unit := unit, word := word, flips := old ^^^ mask }] } }
  let copy (m : Map Copy) : Map Copy := match mfind m w with
    | some c => mset m w { c with err := c.err ^^^ mask }
    | none => m
  match array with
  | 0x08 => flips n at_
  | 0x09 => s.onCore n (fun c => { c with l1 := copy c.l1 })
  | 0x0A => flips n at_
  | 0x0B => if (mfind (s.herd h).icache w).isSome then flips h w else s
  | 0x0C => s.onHerd h (fun y => { y with copies := copy y.copies })
  | 0x0D => flips (s.homeSlice w) w
  | 0x10 => match s.region (8 * w) with
    | .accum _ _ _ =>
      let new := (mget 0 s.mem.latent w : Word) ^^^ mask
      { s with mem := { s.mem with latent := if new = 0 then mdel s.mem.latent w else mset s.mem.latent w new } }
    | _ => s
  | 0x14 => flips (s.arg 3) (at_ / 65536)
  | _ => s

/-- SOFT_ERROR: bits of a word change of themselves. The data of a tile or of an accumulator changes under its hallmark;
another word keeps a latent error that is found when it is read, and so does a word of a weight buffer, which is read as tile
data or as scale bytes (R88). Operands: address, mask, and the INTEGRITY detail of an array of R361 that no address names, or of
the stored bits of an accumulator; 0 for none. -/
def execSoftError (s : State) : Out :=
  let pa := s.localPa (s.arg 0 / 8 * 8)
  let mask := s.arg 1 % 2 ^ 64
  if s.arg 2 ≠ 0 then .next (s.flipArray (s.arg 2) (s.arg 0) (BitVec.ofNat 64 mask)) else
  let flip (s : State) : State :=
    { s with mem := { s.mem with bytes := memPutAll s.mem.bytes pa (bytesLE 8 ((s.homeWord (pa / 8)).val.toNat ^^^ mask)) } }
  let new := (mget 0 s.mem.latent (pa / 8) : Word) ^^^ BitVec.ofNat 64 mask
  let latent : State := { s with mem := { s.mem with
    latent := if new = 0 then mdel s.mem.latent (pa / 8) else mset s.mem.latent (pa / 8) new } }
  match s.region pa with
  | .accum _ _ _ => .next (flip s)
  | .weights _ _ => .next latent
  | .hole => .next s
  | .control _ => .next s
  | .regs _ _ _ => .next s
  | _ =>
    if s.inTile pa then
      let t := pa / 1024
      let h := s.mem.hallmark t
      .next (flip { s with mem := { s.mem with hallmarks := mset s.mem.hallmarks t h } })
    else .next latent

-- Power and temperature (R498..R501)

/-- The die loses power: no memory content survives, and the next start is a cold boot (R498). Fuses and the retirement
log stay. -/
def State.powerOff (s : State) : State :=
  let d : DevSys := { fuseCores := s.dev.fuseCores, logCores := s.dev.logCores, fuseSites := s.dev.fuseSites, logSites := s.dev.logSites
                      fuseChans := s.dev.fuseChans, fuseHerds := s.dev.fuseHerds, logHerds := s.dev.logHerds, fuseLanes := s.dev.fuseLanes
                      logLanes := s.dev.logLanes, fuseRows := s.dev.fuseRows, image := s.dev.image, ecdsa := s.dev.ecdsa, mldsa := s.dev.mldsa
                      rom := s.dev.rom, strap := s.dev.strap, fdom := s.dev.fdom, ccFailed := s.dev.ccFailed, tmax := s.dev.tmax, sensor := s.dev.sensor
                      alert := s.dev.alert }
  { State.reset with dev := d, agenda := s.agenda, tick := s.tick, act := s.act }

/-- INPUT_UNDERVOLTAGE (R498). -/
def execInputUndervoltage (s : State) : Out := .next { s.powerOff with dev := { s.powerOff.dev with alert := true } }

/-- THERMAL_STEP (R500): a millisecond with the highest reading and its sensor. Operands: reading, sensor. -/
def execThermalStep (s : State) : Out :=
  let t := s.arg 0 % 256
  let s := { s with dev := { s.dev with tmax := t, sensor := s.arg 1 % 64 } }
  if t < 95 then .next { s with dev := { s.dev with demand := s.dev.demand - 1 } }
  else if t < 110 ∧ s.dev.demand < 2 then
    let s := { s with dev := { s.dev with demand := s.dev.demand + 1, alert := true } }
    .next (s.postFault { cause := Cause.thermalWarn, sev := 0, src := 6 })
  else .next s

/-- THERMAL_TRIP (R500). Operands: reading, sensor. -/
def execThermalTrip (s : State) : Out :=
  let t := s.arg 0 % 256
  if t < 110 then .next s
  else
    let s := { s with dev := { s.dev with tmax := t, sensor := s.arg 1 % 64, tripped := true, alert := true } }
    .next (s.postFault { cause := Cause.thermalTrip, sev := 3, src := 6 })

/-- THERMAL_POWER_REMOVAL (R500): a millisecond after a trip. -/
def execThermalPowerRemoval (s : State) : Out := if s.dev.tripped then .next s.powerOff else .next s

-- Boot (R446, R447, R451, R502, R503)

/-- What a party at the IEEE 1149.1 port can reach (R451). -/
inductive TapItem where
  | idcode
  | bypass
  | chainMasters
  deriving DecidableEq, Repr
/-- What the IEEE 1149.1 port offers (R451): IDCODE and BYPASS alone in mission mode, the chain masters too with the test strap set. -/
def State.tapItems (s : State) : List TapItem := [.idcode, .bypass] ++ (if s.dev.strap then [.chainMasters] else [])
/-- IDCODE (R451): bits [27:12] hold the part number of c.ident (R4); the manual gives no other bit, and they are free (log entry 6). -/
def idcode : BitVec 32 :=
  let x := (Config.freeWord 0 451).setWidth 32
  (x &&& 0xF0000FFF) ||| ((Config.ident.extractLsb' 16 16).setWidth 32 <<< 12)

/-- CHAIN_UNIT_TIMEOUT (R451): a unit that does not answer within 2^20 chain clocks, or whose self-test's word says that it failed, is
bypassed, and entered in the defect map as a retirement of this boot. Operands: chain, 0..47 a core row and 48..143 a site row; unit;
1 when the word it answered with is a pass. -/
def execChainUnitTimeout (s : State) : Out :=
  let c := s.arg 0
  let u := s.arg 1
  if s.dev.powered || s.arg 2 = 1 then .next s
  else if c < 48 ∧ u < 33 then
    .next { s with dev := { s.dev with bypassed := s.dev.bypassed ++ [(c, u)], logCores := s.dev.logCores ++ [(c, u)] } }
  else if 48 ≤ c ∧ c < 144 ∧ u < 66 then
    let k := (c - 48) / 4
    let row := (c - 48) % 4
    let n := if u < 64 then 32 * (64 * (k / 4 % 3) + u) + 16 * (k / 12) + 4 * (k % 4) + row else 6144 + 8 * k + 4 * (u - 64) + row
    .next { s with dev := { s.dev with bypassed := s.dev.bypassed ++ [(c, u)], logSites := insertNum s.dev.logSites n } }
  else .next s

/-- The mapping of a core row at boot, in the layout of c.cmap (R447, R450). -/
def DevSys.rowMap (d : DevSys) (r : Nat) : List Nat :=
  let living := (List.range 33).filter (fun c => !d.deadCores.contains (r, c))
  let borrow := (d.deadIn r).length == 2 && d.deadIn (pairRow r) == []
  (List.range 32).map (fun c => match living[c]? with
    | some p => p + (if p = 32 then 256 else 0)
    | none => if borrow && c == 31 then 32 + 64 + 256 else 128)

/-- Every core's mapping at boot (R447). -/
def DevSys.coreMap (d : DevSys) : Map Nat :=
  (List.range 16).flatMap (fun cy => (List.range 3).flatMap (fun fx =>
    ((d.rowMap (16 * fx + cy)).zipIdx).map (fun x => (96 * cy + 32 * fx + x.2, x.1))))

/-- HBM channels in service at boot, and the channels that a spare serves (R376, R377). -/
def DevSys.hbmMap (d : DevSys) : Nat × Map Nat :=
  if !d.fuseChans.any (fun c => !c.1) then (1024, [])
  else
    let good (st : Nat) : List Nat := ((List.range 68).filter (fun j => !d.fuseChans.contains (false, 68 * st + j))).take 64
    let all := (List.range 16).flatMap (fun st => (good st).map (fun j => 68 * st + j))
    (all.length, (all.zipIdx.map (fun x => (x.2, x.1))))

/-- LPDDR-6 channels in service at boot, and the physical channel of each logical one, from 4,096 in the same table (R376). -/
def DevSys.lpMap (d : DevSys) : Nat × Map Nat :=
  let good := (List.range 128).filter (fun j => !d.fuseChans.contains (true, j))
  (good.length, if good.length = 128 then [] else good.zipIdx.map (fun x => (4096 + x.2, x.1)))

/-- Spare slots and substitutions at boot (R432, R433). -/
def State.placeSpares (s : State) : State :=
  let s := (s.dev.fuseSites.filter (fun n => decide (6144 ≤ n))).foldl (fun s n =>
    { s with dev := { s.dev with fspare := mset s.dev.fspare (n - 6144) (mget 0 s.dev.fspare (n - 6144) ||| 512) } }) s
  (s.dev.fuseSites.filter (fun n => decide (n < 6144))).foldl State.substituteSite s

/-- The fields of hallmark register i: c.hmbase, c.hmsize and c.hmshadow of HBM, then of LPDDR-6; reserved bits stay zero
(R8, R370). -/
def hmField (i v : Nat) : Nat :=
  if i % 3 = 0 then field v 51 30 * 2 ^ 30 else if i % 3 = 1 then v % 65536 else field v 51 5 * 32

/-- The control cores start at stages 2 and 6 of a boot (R452, R455, R503); cc4 stands in for one that has failed. -/
def State.startControl (s : State) : State :=
  let lost := [0, 1, 2, 3].filter s.dev.ccFailed.contains
  let s := { s with dev := { s.dev with assayerCore := if lost.contains 0 then 1540 else 1536 } }
  let s := if lost.contains 0 then s else s.startCore 0 2
  let s := ([1, 2, 3].filter (fun k => !lost.contains k)).foldl (fun s k => s.startCore k 1) s
  match lost with
  | [] => s
  | k :: _ => if s.dev.ccFailed.contains 4 then s else s.startCore 4 (if k = 0 then 2 else 1)

/-- A cold boot as far as stage 8 (R503): fuses blown, defect map formed, channels counted, cores and spares mapped, links
trained, the group named (R507). -/
def State.bootAll (s : State) : State :=
  let d := s.dev
  let d := { d with fuseCores := d.deadCores.dedup, logCores := [], fuseSites := d.logSites.foldl insertNum d.fuseSites, logSites := []
                    fuseHerds := d.logHerds.foldl insertNum d.fuseHerds, logHerds := [], fuseLanes := d.fuseLanes ++ d.logLanes, logLanes := []
                    repaired := d.fuseRows }
  let hbm := d.hbmMap
  let lp := d.lpMap
  let grp := (s.act.args.drop 8)
  let members := grp.drop 2
  let solo := members.isEmpty
  let devid := if solo then 2 ^ 16 else grp.getD 0 0 % 64 + 64 * (grp.getD 1 0 % 1024)
  let d := { d with cmap := d.coreMap, powered := true, stage := 8, done := true, retired := [], tlbHome := [], deadSlices := [], doors := []
                    fdom := d.fdom.map (fun (e : Nat × Nat) => (e.1, e.2 % 2 ^ 18)), reqRing := some ((Config.freeWord s.tick 64).toNat / 64 * 64 % 2 ^ 42)
                    ports := d.fuseLanes.foldl (fun m k => mset m k { (mget {} m k : LinkPort) with spare := true }) []
                    members := if solo then [] else insertNum members (grp.getD 0 0 % 64) }
  let s := { s with dev := d, mem := { s.mem with chanMap := hbm.2 ++ lp.2 } }
  let s := ((s.setCreg 0x1030 (BitVec.ofNat 64 hbm.1)).setCreg 0x1038 (BitVec.ofNat 64 lp.1)).setCreg 0x7900 (BitVec.ofNat 64 devid)
  let s := (List.range 6).foldl (fun s i =>
    let v := hmField i (s.arg (2 + i))
    if v = 0 then s else s.setCreg (0x1000 + 8 * i) (BitVec.ofNat 64 v)) s
  let s := s.placeSpares
  let gone := (List.range 24).flatMap (fun k => (List.range 9).flatMap (fun g =>
    if (mget 0 s.dev.fdom k).testBit g || (mget 0 s.dev.fdom k).testBit (9 + g) then [(k, g)] else []))
  let s := gone.foldl (fun s x => s.retireDomain x.1 x.2) s
  let s := { s with dev := { s.dev with detours := (gone.filter s.railDead).map (fun (x : Nat × Nat) => 16 * x.1 + x.2) } }
  let s := ((gone.filter s.railDead).flatMap (fun (x : Nat × Nat) => s.slicesIn x.1 x.2)).foldl (fun s k => match s.sliceSlot k with
    | some x => s.putSlice k (8 * x.1 + x.2)
    | none => { s with dev := { s.dev with deadSlices := insertNum s.dev.deadSlices k } }) s
  let none_ := (List.range 192).filter (fun h => (coresOfHerd h).all s.absent || s.dev.fuseHerds.contains h)
  let s := none_.foldl (fun s h => s.onHerd h (fun y => { y with retired := true })) s
  s.startControl

/-- A boot that stops in a stage (R502, R503). -/
def State.bootFails (s : State) (stage cause : Nat) : State :=
  { s with dev := { s.dev with powered := true, stage := stage, done := false, fail := true, bootCause := cause } }

/-- The cause with which a stage fails (R503): for stage 4 of one tier or the other. -/
def stageCause (stage lp : Nat) : Nat :=
  match stage with
  | 0 => Cause.regulatorRail
  | 4 => if lp = 0 then Cause.eccHbm else Cause.eccLpddr
  | 5 => Cause.eccRouter
  | 7 => Cause.linkDown
  | _ => Cause.watchdog

/-- COLD_BOOT (R503): stages 0 to 8 of a start without power. Operands: one more than the stage that fails, 0 for none; 1
when stage 4 fails on LPDDR-6; c.hmbase, c.hmsize and c.hmshadow of HBM and of LPDDR-6 (R370); the device's id, its group and
the group's other members (R507). -/
def execColdBoot (s : State) : Out :=
  if s.dev.powered then .next s
  else
    let s := { State.reset with dev := s.dev, agenda := s.agenda, tick := s.tick, act := s.act }
    let k := s.arg 0
    if s.dev.ccFailed.contains 0 && s.dev.ccFailed.contains 4 && (k == 0 || decide (3 ≤ k)) then .next (s.bootFails 2 Cause.watchdog)
    else if k = 0 ∨ 8 ≤ k then
      .next (if s.firmwareOk then (if k = 8 then s.bootFails 7 (stageCause 7 0) else s.bootAll) else s.bootFails 6 Cause.watchdog)
    else .next (s.bootFails (k - 1) (stageCause (k - 1) (s.arg 1)))

end Sys2Proof.Machine
end

