-- ==== Sys2Proof/Machine/Float.lean ====
section
/-!
DEFINITION. Scalar floating point (R138..R144).
-/

namespace Sys2Proof.Machine

-- .s

/-- fadd.s: a + b (R142). -/
def execFaddS (d a b : RegNo) (s : State) : Out :=
  .next (s.floatResult d (fp32.fadd (s.fenv 0) (s.opS a) (s.opS b)))
/-- fsub.s: a − b (R142). -/
def execFsubS (d a b : RegNo) (s : State) : Out :=
  .next (s.floatResult d (fp32.fadd (s.fenv 0) (s.opS a) (s.opS b).neg))
/-- fmul.s: a × b (R142). -/
def execFmulS (d a b : RegNo) (s : State) : Out :=
  .next (s.floatResult d (fp32.fmul (s.fenv 0) (s.opS a) (s.opS b)))
/-- fdiv.s: a / b (R142). -/
def execFdivS (d a b : RegNo) (s : State) : Out :=
  .next (s.floatResult d (fp32.fdiv (s.fenv 0) (s.opS a) (s.opS b)))
/-- fmin.s: minimumNumber (R142). -/
def execFminS (d a b : RegNo) (s : State) : Out :=
  .next (s.floatResult d (fp32.fpick (s.fenv 0) FVal.lesser (s.opS a) (s.opS b)))
/-- fmax.s: maximumNumber (R142). -/
def execFmaxS (d a b : RegNo) (s : State) : Out :=
  .next (s.floatResult d (fp32.fpick (s.fenv 0) FVal.greater (s.opS a) (s.opS b)))
/-- fsqrt.s (R142). -/
def execFsqrtS (d a : RegNo) (s : State) : Out := .next (s.floatResult d (fp32.fsqrt (s.fenv 0) (s.opS a)))
/-- fabs.s: the sign bit only; no flags (R142). -/
def execFabsS (d a : RegNo) (s : State) : Out :=
  .next (s.floatResult d { bits := fp32.fabs ((s.me.rg a).toNat % 2 ^ 32) })
/-- fneg.s: the sign bit only; no flags (R142). -/
def execFnegS (d a : RegNo) (s : State) : Out :=
  .next (s.floatResult d { bits := fp32.fneg ((s.me.rg a).toNat % 2 ^ 32) })
/-- fma.s: a·b + c, rounded once (R143). -/
def execFmaS (d a b c : RegNo) (s : State) : Out :=
  .next (s.floatResult d (fp32.ffma (s.fenv 0) (s.opS a) (s.opS b) (s.opS c)))
/-- fms.s: a·b − c, rounded once (R143). -/
def execFmsS (d a b c : RegNo) (s : State) : Out :=
  .next (s.floatResult d (fp32.ffma (s.fenv 0) (s.opS a) (s.opS b) (s.opS c).neg))
-- .d

/-- fadd.d: a + b (R142). -/
def execFaddD (d a b : RegNo) (s : State) : Out :=
  .next (s.floatResult d (fp64.fadd (s.fenv 0) (s.opD a) (s.opD b)))
/-- fsub.d: a − b (R142). -/
def execFsubD (d a b : RegNo) (s : State) : Out :=
  .next (s.floatResult d (fp64.fadd (s.fenv 0) (s.opD a) (s.opD b).neg))
/-- fmul.d: a × b (R142). -/
def execFmulD (d a b : RegNo) (s : State) : Out :=
  .next (s.floatResult d (fp64.fmul (s.fenv 0) (s.opD a) (s.opD b)))
/-- fdiv.d: a / b (R142). -/
def execFdivD (d a b : RegNo) (s : State) : Out :=
  .next (s.floatResult d (fp64.fdiv (s.fenv 0) (s.opD a) (s.opD b)))
/-- fmin.d: minimumNumber (R142). -/
def execFminD (d a b : RegNo) (s : State) : Out :=
  .next (s.floatResult d (fp64.fpick (s.fenv 0) FVal.lesser (s.opD a) (s.opD b)))
/-- fmax.d: maximumNumber (R142). -/
def execFmaxD (d a b : RegNo) (s : State) : Out :=
  .next (s.floatResult d (fp64.fpick (s.fenv 0) FVal.greater (s.opD a) (s.opD b)))
/-- fsqrt.d (R142). -/
def execFsqrtD (d a : RegNo) (s : State) : Out := .next (s.floatResult d (fp64.fsqrt (s.fenv 0) (s.opD a)))
/-- fabs.d: the sign bit only; no flags (R142). -/
def execFabsD (d a : RegNo) (s : State) : Out :=
  .next (s.floatResult d { bits := fp64.fabs ((s.me.rg a).toNat) })
/-- fneg.d: the sign bit only; no flags (R142). -/
def execFnegD (d a : RegNo) (s : State) : Out :=
  .next (s.floatResult d { bits := fp64.fneg ((s.me.rg a).toNat) })
/-- fma.d: a·b + c, rounded once (R143). -/
def execFmaD (d a b c : RegNo) (s : State) : Out :=
  .next (s.floatResult d (fp64.ffma (s.fenv 0) (s.opD a) (s.opD b) (s.opD c)))
/-- fms.d: a·b − c, rounded once (R143). -/
def execFmsD (d a b c : RegNo) (s : State) : Out :=
  .next (s.floatResult d (fp64.ffma (s.fenv 0) (s.opD a) (s.opD b) (s.opD c).neg))

-- Conversions (R144)

/-- The float format of a code of fcvt; none for an integer. -/
def cvtFmt : CvtFmt → Option Fmt
  | .d => some fp64
  | .s => some fp32
  | .bf => some bf16
  | .h => some fp16
  | .l => none
  | .lu => none

/-- The integer that a 64-bit operand holds. -/
def cvtInt (c : CvtFmt) (x : Word) : Int := if c = .lu then x.toNat else x.toInt
/-- The range of an integer target. -/
def cvtLo (c : CvtFmt) : Int := if c = .lu then 0 else -(2 ^ 63)
def cvtHi (c : CvtFmt) : Int := if c = .lu then 2 ^ 64 - 1 else 2 ^ 63 - 1

/-- The result of fcvt (R96, R97, R144). -/
def cvtScalar (v : FEnv) (dst src : CvtFmt) (x : Word) : FRes :=
  match cvtFmt src, cvtFmt dst with
  | some f, some g => g.deliver v (f.read v.ftz (x.toNat % 2 ^ f.width))
  | some f, none =>
    let r := toInt v (cvtLo dst) (cvtHi dst) (f.read v.ftz (x.toNat % 2 ^ f.width))
    { bits := bitsOf 64 r.1, flags := r.2 }
  | none, some g => g.ofInt v (cvtInt src x)
  | none, none => { bits := bitsOf 64 (clampInt (cvtLo dst) (cvtHi dst) (cvtInt src x)) }

/-- fcvt (R144). -/
def execFcvt (dst src : CvtFmt) (d a : RegNo) (s : State) : Out :=
  .next (s.floatResult d (cvtScalar (s.fenv 0) dst src (s.me.rg a)))

end Sys2Proof.Machine
end

