-- ==== Sys2Proof/Machine/Scalar.lean ====
section
/-!
DEFINITION. The integer, immediate, compare, predicate and select instructions (R121..R137).
-/

namespace Sys2Proof.Machine

-- No operation (R59, R61)

/-- nop: no effect. -/
def execNop (s : State) : Out := .next s
/-- A-class nop: no effect. -/
def execNopA (s : State) : Out := .next s

-- Register-register functions (R125)

/-- a + b (R125). -/
def execAdd (d a b : RegNo) (s : State) : Out := s.shortRR d a b (fun a b => a + b)
/-- a − b (R125). -/
def execSub (d a b : RegNo) (s : State) : Out := s.shortRR d a b (fun a b => a - b)
/-- bitwise and (R125). -/
def execAnd (d a b : RegNo) (s : State) : Out := s.shortRR d a b (fun a b => a &&& b)
/-- bitwise or (R125). -/
def execOr (d a b : RegNo) (s : State) : Out := s.shortRR d a b (fun a b => a ||| b)
/-- bitwise exclusive or (R125). -/
def execXor (d a b : RegNo) (s : State) : Out := s.shortRR d a b (fun a b => a ^^^ b)
/-- a and not b (R125). -/
def execAndn (d a b : RegNo) (s : State) : Out := s.shortRR d a b (fun a b => a &&& ~~~b)
/-- a or not b (R125). -/
def execOrn (d a b : RegNo) (s : State) : Out := s.shortRR d a b (fun a b => a ||| ~~~b)
/-- left shift by sh6 (R125). -/
def execSll (d a b : RegNo) (s : State) : Out := s.shortRR d a b (fun a b => a <<< (b.toNat % 64))
/-- logical right shift by sh6 (R125). -/
def execSrl (d a b : RegNo) (s : State) : Out := s.shortRR d a b (fun a b => a >>> (b.toNat % 64))
/-- arithmetic right shift by sh6 (R125). -/
def execSra (d a b : RegNo) (s : State) : Out := s.shortRR d a b (fun a b => a.sshiftRight (b.toNat % 64))
/-- left rotation by sh6 (R125). -/
def execRol (d a b : RegNo) (s : State) : Out := s.shortRR d a b (fun a b => a.rotateLeft (b.toNat % 64))
/-- right rotation by sh6 (R125). -/
def execRor (d a b : RegNo) (s : State) : Out := s.shortRR d a b (fun a b => a.rotateRight (b.toNat % 64))
/-- signed minimum (R125). -/
def execMin (d a b : RegNo) (s : State) : Out := s.shortRR d a b (fun a b => if a.toInt < b.toInt then a else b)
/-- signed maximum (R125). -/
def execMax (d a b : RegNo) (s : State) : Out := s.shortRR d a b (fun a b => if a.toInt < b.toInt then b else a)
/-- unsigned minimum (R125). -/
def execMinu (d a b : RegNo) (s : State) : Out := s.shortRR d a b (fun a b => if a.toNat < b.toNat then a else b)
/-- unsigned maximum (R125). -/
def execMaxu (d a b : RegNo) (s : State) : Out := s.shortRR d a b (fun a b => if a.toNat < b.toNat then b else a)
/-- 32-bit sum, sign-extended (R125). -/
def execAddw (d a b : RegNo) (s : State) : Out := s.shortRR d a b (fun a b => sx32 (a + b))
/-- 32-bit difference, sign-extended (R125). -/
def execSubw (d a b : RegNo) (s : State) : Out := s.shortRR d a b (fun a b => sx32 (a - b))
/-- 32-bit left shift by sh5, sign-extended (R125). -/
def execSllw (d a b : RegNo) (s : State) : Out := s.shortRR d a b (fun a b => ((a.setWidth 32) <<< (b.toNat % 32)).signExtend 64)
/-- 32-bit logical right shift by sh5, sign-extended (R125). -/
def execSrlw (d a b : RegNo) (s : State) : Out := s.shortRR d a b (fun a b => ((a.setWidth 32) >>> (b.toNat % 32)).signExtend 64)
/-- 32-bit arithmetic right shift by sh5, sign-extended (R125). -/
def execSraw (d a b : RegNo) (s : State) : Out := s.shortRR d a b (fun a b => ((a.setWidth 32).sshiftRight (b.toNat % 32)).signExtend 64)
/-- Low 64 bits of the product (R125); a long result. -/
def execMul (d a b : RegNo) (s : State) : Out := s.longRR d a b (fun a b => a * b)
/-- High 64 bits of the signed product (R125). -/
def execMulh (d a b : RegNo) (s : State) : Out := s.longRR d a b (fun a b => wrap 64 (a.toInt * b.toInt / 2 ^ 64))
/-- High 64 bits of the unsigned product (R125). -/
def execMulhu (d a b : RegNo) (s : State) : Out := s.longRR d a b (fun a b => BitVec.ofNat 64 (a.toNat * b.toNat / 2 ^ 64))
/-- 32-bit product, sign-extended (R125); a long result. -/
def execMulw (d a b : RegNo) (s : State) : Out := s.longRR d a b (fun a b => sx32 (a * b))
/-- hash64 (R127); a long result. -/
def execHash64 (d a b : RegNo) (s : State) : Out := s.longRR d a b Sys2Proof.Machine.hash64

/-- One step of CRC-32C over a bit (R128). -/
def crcBit (c : BitVec 32) : BitVec 32 := if c.getLsbD 0 then (c >>> 1) ^^^ 0x82F63B78 else c >>> 1
/-- CRC-32C over bytes, from the running value c (R128). -/
def crcBytes (c : BitVec 32) : List Byte → BitVec 32
  | [] => c
  | x :: xs => crcBytes (iter crcBit 8 (c ^^^ x.setWidth 32)) xs
/-- crc32c over the eight bytes of b (R128); a long result. -/
def execCrc32c (d a b : RegNo) (s : State) : Out :=
  s.longRR d a b (fun a b => (crcBytes (a.setWidth 32) (bytesLE 8 b.toNat)).setWidth 64)

/-- clz: leading zero bits, 64 when a = 0 (R125). -/
def execClz (d a : RegNo) (s : State) : Out := s.shortR d a (fun a => BitVec.ofNat 64 (leadingZeros 64 a.toNat))
/-- ctz: trailing zero bits, 64 when a = 0 (R125). -/
def execCtz (d a : RegNo) (s : State) : Out := s.shortR d a (fun a => BitVec.ofNat 64 (trailingZeros 64 a.toNat))
/-- popc: one bits (R125). -/
def execPopc (d a : RegNo) (s : State) : Out := s.shortR d a (fun a => BitVec.ofNat 64 (popCount 64 a.toNat))
/-- bswap: byte k becomes byte 7 − k (R125). -/
def execBswap (d a : RegNo) (s : State) : Out :=
  s.shortR d a (fun a => BitVec.ofNat 64 (valueLE (bytesLE 8 a.toNat).reverse))
/-- mov copies the value and the tag (R122, R125). -/
def execMov (d a : RegNo) (s : State) : Out :=
  let x := s.me.rgt a
  .next (s.short (fun r => r.setG d.toNat x))

-- Division (R126)

/-- Quotient truncated toward zero; −1 for b = 0 (R126). -/
def divS (a b : Word) : Word := if b = 0 then 0xFFFFFFFFFFFFFFFF else wrap 64 (a.toInt.tdiv b.toInt)
/-- Remainder with the sign of the dividend; a for b = 0 (R126). -/
def remS (a b : Word) : Word := if b = 0 then a else wrap 64 (a.toInt.tmod b.toInt)
/-- Unsigned quotient; all ones for b = 0 (R126). -/
def divU (a b : Word) : Word := if b = 0 then 0xFFFFFFFFFFFFFFFF else BitVec.ofNat 64 (a.toNat / b.toNat)
/-- Unsigned remainder; a for b = 0 (R126). -/
def remU (a b : Word) : Word := if b = 0 then a else BitVec.ofNat 64 (a.toNat % b.toNat)

/-- A division (R126): for b = 0 it sets idz, or traps with DIV_ZERO when idze was 1 at the start of the block.
A write to g0 is discarded with the flag, but the trap is raised (R122). -/
def State.divide (s : State) (d a b : RegNo) (f : Word → Word → Word) : State :=
  let x := s.me.rg a
  let y := s.me.rg b
  if y = 0 ∧ s.me.arch.fcsr.getLsbD 15 = true then s.trapMe Cause.divZero x 0
  else
    let fl : List RegWrite := if y = 0 ∧ d ≠ 0 then [.flags 16384] else []
    s.long (.g d.toNat { val := f x y, tag := false } :: fl)

/-- div (R126). -/
def execDiv (d a b : RegNo) (s : State) : Out := .next (s.divide d a b divS)
/-- divu (R126). -/
def execDivu (d a b : RegNo) (s : State) : Out := .next (s.divide d a b divU)
/-- rem (R126). -/
def execRem (d a b : RegNo) (s : State) : Out := .next (s.divide d a b remS)
/-- remu (R126). -/
def execRemu (d a b : RegNo) (s : State) : Out := .next (s.divide d a b remU)

-- Immediates and constants (R129..R133)

/-- addi: a plus the sign-extended immediate (R129). -/
def execAddi (d a : RegNo) (imm : BitVec 12) (s : State) : Out := s.shortR d a (fun a => a + imm.signExtend 64)
/-- andi: a and the sign-extended immediate (R129). -/
def execAndi (d a : RegNo) (imm : BitVec 12) (s : State) : Out := s.shortR d a (fun a => a &&& imm.signExtend 64)
/-- ori: a or the zero-extended immediate (R129). -/
def execOri (d a : RegNo) (imm : BitVec 12) (s : State) : Out := s.shortR d a (fun a => a ||| imm.setWidth 64)
/-- xori: a exclusive-or the zero-extended immediate (R129). -/
def execXori (d a : RegNo) (imm : BitVec 12) (s : State) : Out := s.shortR d a (fun a => a ^^^ imm.setWidth 64)
/-- slli (R130). -/
def execSlli (d a : RegNo) (n : BitVec 6) (s : State) : Out := s.shortR d a (fun a => a <<< n.toNat)
/-- srli (R130). -/
def execSrli (d a : RegNo) (n : BitVec 6) (s : State) : Out := s.shortR d a (fun a => a >>> n.toNat)
/-- srai (R130). -/
def execSrai (d a : RegNo) (n : BitVec 6) (s : State) : Out := s.shortR d a (fun a => a.sshiftRight n.toNat)
/-- roli (R130). -/
def execRoli (d a : RegNo) (n : BitVec 6) (s : State) : Out := s.shortR d a (fun a => a.rotateLeft n.toNat)
/-- rori (R130). -/
def execRori (d a : RegNo) (n : BitVec 6) (s : State) : Out := s.shortR d a (fun a => a.rotateRight n.toNat)
/-- sllwi (R130). -/
def execSllwi (d a : RegNo) (n : BitVec 6) (s : State) : Out :=
  s.shortR d a (fun a => ((a.setWidth 32) <<< (n.toNat % 32)).signExtend 64)
/-- srlwi (R130). -/
def execSrlwi (d a : RegNo) (n : BitVec 6) (s : State) : Out :=
  s.shortR d a (fun a => ((a.setWidth 32) >>> (n.toNat % 32)).signExtend 64)
/-- srawi (R130). -/
def execSrawi (d a : RegNo) (n : BitVec 6) (s : State) : Out :=
  s.shortR d a (fun a => ((a.setWidth 32).sshiftRight (n.toNat % 32)).signExtend 64)
/-- li: the sign extension of the immediate (R131). -/
def execLi (d : RegNo) (imm : BitVec 18) (s : State) : Out := .next (s.shortG d (imm.signExtend 64))
/-- liu: d shifted left by 18, or the immediate (R131). -/
def execLiu (d : RegNo) (imm : BitVec 18) (s : State) : Out :=
  s.shortR d d (fun x => (x <<< 18) ||| imm.setWidth 64)
/-- scadd: a + (b << sh) (R132). -/
def execScadd (d a b : RegNo) (sh : BitVec 3) (s : State) : Out := s.shortRR d a b (fun a b => a + (b <<< sh.toNat))

/-- width low ones, width 1..64 (R133). -/
def fieldMask (width1 : BitVec 6) : Word := BitVec.ofNat 64 (2 ^ (width1.toNat + 1) - 1)
/-- bfx: a zero-extended field (R133). -/
def execBfx (d a : RegNo) (lsb width1 : BitVec 6) (s : State) : Out :=
  s.shortR d a (fun a => (a >>> lsb.toNat) &&& fieldMask width1)
/-- bfi: a field of d replaced (R133). -/
def execBfi (d a : RegNo) (lsb width1 : BitVec 6) (s : State) : Out :=
  s.shortRR d d a (fun d a => (d &&& ~~~(fieldMask width1 <<< lsb.toNat)) ||| ((a &&& fieldMask width1) <<< lsb.toNat))

-- Compares and predicates (R134..R137)

/-- The outcome of a compare and the flags it raises (R134, R135). -/
def State.condition (s : State) (c : Cond) (a b : RegNo) : Bool × Nat :=
  match c with
  | .int c => (evalInt c (s.me.rg a) (s.me.rg b), 0)
  | .single c => evalFloat c (s.opS a) (s.opS b)
  | .double c => evalFloat c (s.opD a) (s.opD b)

/-- cmp: an enabled invalid flag traps with FP_SCALAR (R138); else the predicate is combined (R134). -/
def execCmp (c : Cond) (k : Combine) (pd : PredNo) (a b : RegNo) (s : State) : Out :=
  let t := s.condition c a b
  if t.2 &&& s.me.enables ≠ 0 then .next (s.trapMe Cause.fpScalar (BitVec.ofNat 64 t.2) 0)
  else .next (s.shortP pd (combine k (s.me.rp pd) t.1) t.2)
/-- cmpi: against the sign-extended immediate (R134). -/
def execCmpi (c : IntCond) (k : Combine) (pd : PredNo) (a : RegNo) (imm : BitVec 9) (s : State) : Out :=
  .next (s.shortP pd (combine k (s.me.rp pd) (evalInt c (s.me.rg a) (imm.signExtend 64))) 0)
/-- pand (R136). -/
def execPand (pd pa pb : PredNo) (s : State) : Out := .next (s.shortP pd (s.me.rp pa && s.me.rp pb) 0)
/-- por (R136). -/
def execPor (pd pa pb : PredNo) (s : State) : Out := .next (s.shortP pd (s.me.rp pa || s.me.rp pb) 0)
/-- pxor (R136). -/
def execPxor (pd pa pb : PredNo) (s : State) : Out := .next (s.shortP pd (s.me.rp pa != s.me.rp pb) 0)
/-- pandn: pA and not pB (R136). -/
def execPandn (pd pa pb : PredNo) (s : State) : Out := .next (s.shortP pd (s.me.rp pa && !s.me.rp pb) 0)
/-- pnot (R136). -/
def execPnot (pd pa : PredNo) (s : State) : Out := .next (s.shortP pd (!s.me.rp pa) 0)
/-- ppack: bit i of d is pi, bit 0 is 1 (R136). -/
def execPpack (d : RegNo) (s : State) : Out := .next (s.shortG d ((s.me.view.p ||| 1).setWidth 64))
/-- punpack: pi is bit i of a for i = 1..7 (R136). -/
def execPunpack (a : RegNo) (s : State) : Out :=
  let x := s.me.rg a
  .next (s.short (fun r => { r with p := x.setWidth 8 ||| 1 }))
/-- isref: the tag of a (R136). -/
def execIsref (pd : PredNo) (a : RegNo) (s : State) : Out := .next (s.shortP pd (s.me.rgt a).tag 0)
/-- sel: a when pC, else b, with its tag (R137). -/
def execSel (d a b : RegNo) (pc : PredNo) (s : State) : Out :=
  let x := if s.me.rp pc then s.me.rgt a else s.me.rgt b
  .next (s.short (fun r => r.setG d.toNat x))

end Sys2Proof.Machine
end

