-- ==== Sys2Proof/Machine/Dispatch.lean ====
section
/-!
DEFINITION. The meaning of every step of the part: one arm for each constructor of Instr.
-/

namespace Sys2Proof.Machine

def exec (i : Instr) (s : State) : Host.Outcome State Fault Refusal :=
  match i with
  | .nop => Sys2Proof.Machine.execNop s
  | .nopA => Sys2Proof.Machine.execNopA s
  | .blk len x sv a16 a32 => Sys2Proof.Machine.execBlk len x sv a16 a32 s
  | .ld z d a off => Sys2Proof.Machine.execLd z d a off s
  | .ldx z d a b sh => Sys2Proof.Machine.execLdx z d a b sh s
  | .st z d a off => Sys2Proof.Machine.execSt z d a off s
  | .stx z d a b sh => Sys2Proof.Machine.execStx z d a b sh s
  | .lda z sc d a off => Sys2Proof.Machine.execLda z sc d a off s
  | .stl z sc d a off => Sys2Proof.Machine.execStl z sc d a off s
  | .ldref o d a off => Sys2Proof.Machine.execLdref o d a off s
  | .stref o d a off => Sys2Proof.Machine.execStref o d a off s
  | .amoW op o d a b => Sys2Proof.Machine.execAmoW op o d a b s
  | .amoD op o d a b => Sys2Proof.Machine.execAmoD op o d a b s
  | .casW d a b c => Sys2Proof.Machine.execCasW d a b c s
  | .casD d a b c => Sys2Proof.Machine.execCasD d a b c s
  | .fenceFull sc => Sys2Proof.Machine.execFenceFull sc s
  | .fenceRel sc => Sys2Proof.Machine.execFenceRel sc s
  | .fenceAcq sc => Sys2Proof.Machine.execFenceAcq sc s
  | .fenceEng sc => Sys2Proof.Machine.execFenceEng sc s
  | .pub sc a => Sys2Proof.Machine.execPub sc a s
  | .mkobj k d a b => Sys2Proof.Machine.execMkobj k d a b s
  | .b p n off => Sys2Proof.Machine.execB p n off s
  | .call off => Sys2Proof.Machine.execCall off s
  | .jr a => Sys2Proof.Machine.execJr a s
  | .callr a => Sys2Proof.Machine.execCallr a s
  | .ret => Sys2Proof.Machine.execRet s
  | .cflush a b => Sys2Proof.Machine.execCflush a b s
  | .cflushInv a b => Sys2Proof.Machine.execCflushInv a b s
  | .vld z vd k a off => Sys2Proof.Machine.execVld z vd k a off s
  | .vst vd k a off => Sys2Proof.Machine.execVst vd k a off s
  | .vlds z vd k a b => Sys2Proof.Machine.execVlds z vd k a b s
  | .vgth z vd k a vb sh => Sys2Proof.Machine.execVgth z vd k a vb sh s
  | .vsct vd k a vb sh => Sys2Proof.Machine.execVsct vd k a vb sh s
  | .send d a n1 pri => Sys2Proof.Machine.execSend d a n1 pri s
  | .recv d a ring => Sys2Proof.Machine.execRecv d a ring s
  | .recvNb d a ring p => Sys2Proof.Machine.execRecvNb d a ring p s
  | .mbind a ring pri => Sys2Proof.Machine.execMbind a ring pri s
  | .rqput a pri p => Sys2Proof.Machine.execRqput a pri p s
  | .rqtake d pri p => Sys2Proof.Machine.execRqtake d pri p s
  | .waitev d => Sys2Proof.Machine.execWaitev d s
  | .waitevNb d p => Sys2Proof.Machine.execWaitevNb d p s
  | .sleep mask => Sys2Proof.Machine.execSleep mask s
  | .cpy a b => Sys2Proof.Machine.execCpy a b s
  | .gath a b => Sys2Proof.Machine.execGath a b s
  | .gathOwn a b => Sys2Proof.Machine.execGathOwn a b s
  | .scat a b => Sys2Proof.Machine.execScat a b s
  | .scatAdd a b => Sys2Proof.Machine.execScatAdd a b s
  | .xchg a b => Sys2Proof.Machine.execXchg a b s
  | .mxc a b => Sys2Proof.Machine.execMxc a b s
  | .join d a => Sys2Proof.Machine.execJoin d a s
  | .joinNew pool bound d a b => Sys2Proof.Machine.execJoinNew pool bound d a b s
  | .leave a => Sys2Proof.Machine.execLeave a s
  | .bar a => Sys2Proof.Machine.execBar a s
  | .barArr a => Sys2Proof.Machine.execBarArr a s
  | .barWait a => Sys2Proof.Machine.execBarWait a s
  | .couple a => Sys2Proof.Machine.execCouple a s
  | .coupleRe a => Sys2Proof.Machine.execCoupleRe a s
  | .rjput a b c => Sys2Proof.Machine.execRjput a b c s
  | .rjtake d a p => Sys2Proof.Machine.execRjtake d a p s
  | .spawn d a p => Sys2Proof.Machine.execSpawn d a p s
  | .reply d n1 => Sys2Proof.Machine.execReply d n1 s
  | .exit => Sys2Proof.Machine.execExit s
  | .srd d num => Sys2Proof.Machine.execSrd d num s
  | .swr num a => Sys2Proof.Machine.execSwr num a s
  | .trap code => Sys2Proof.Machine.execTrap code s
  | .eret => Sys2Proof.Machine.execEret s
  | .repart mode => Sys2Proof.Machine.execRepart mode s
  | .tlbinvPage a b => Sys2Proof.Machine.execTlbinvPage a b s
  | .tlbinvAsid b => Sys2Proof.Machine.execTlbinvAsid b s
  | .tlbinvAll => Sys2Proof.Machine.execTlbinvAll s
  | .retag d a => Sys2Proof.Machine.execRetag d a s
  | .add d a b => Sys2Proof.Machine.execAdd d a b s
  | .sub d a b => Sys2Proof.Machine.execSub d a b s
  | .and d a b => Sys2Proof.Machine.execAnd d a b s
  | .or d a b => Sys2Proof.Machine.execOr d a b s
  | .xor d a b => Sys2Proof.Machine.execXor d a b s
  | .andn d a b => Sys2Proof.Machine.execAndn d a b s
  | .orn d a b => Sys2Proof.Machine.execOrn d a b s
  | .sll d a b => Sys2Proof.Machine.execSll d a b s
  | .srl d a b => Sys2Proof.Machine.execSrl d a b s
  | .sra d a b => Sys2Proof.Machine.execSra d a b s
  | .rol d a b => Sys2Proof.Machine.execRol d a b s
  | .ror d a b => Sys2Proof.Machine.execRor d a b s
  | .mul d a b => Sys2Proof.Machine.execMul d a b s
  | .mulh d a b => Sys2Proof.Machine.execMulh d a b s
  | .mulhu d a b => Sys2Proof.Machine.execMulhu d a b s
  | .div d a b => Sys2Proof.Machine.execDiv d a b s
  | .divu d a b => Sys2Proof.Machine.execDivu d a b s
  | .rem d a b => Sys2Proof.Machine.execRem d a b s
  | .remu d a b => Sys2Proof.Machine.execRemu d a b s
  | .min d a b => Sys2Proof.Machine.execMin d a b s
  | .max d a b => Sys2Proof.Machine.execMax d a b s
  | .minu d a b => Sys2Proof.Machine.execMinu d a b s
  | .maxu d a b => Sys2Proof.Machine.execMaxu d a b s
  | .clz d a => Sys2Proof.Machine.execClz d a s
  | .ctz d a => Sys2Proof.Machine.execCtz d a s
  | .popc d a => Sys2Proof.Machine.execPopc d a s
  | .bswap d a => Sys2Proof.Machine.execBswap d a s
  | .addw d a b => Sys2Proof.Machine.execAddw d a b s
  | .subw d a b => Sys2Proof.Machine.execSubw d a b s
  | .mulw d a b => Sys2Proof.Machine.execMulw d a b s
  | .sllw d a b => Sys2Proof.Machine.execSllw d a b s
  | .srlw d a b => Sys2Proof.Machine.execSrlw d a b s
  | .sraw d a b => Sys2Proof.Machine.execSraw d a b s
  | .mov d a => Sys2Proof.Machine.execMov d a s
  | .hash64 d a b => Sys2Proof.Machine.execHash64 d a b s
  | .crc32c d a b => Sys2Proof.Machine.execCrc32c d a b s
  | .addi d a imm => Sys2Proof.Machine.execAddi d a imm s
  | .andi d a imm => Sys2Proof.Machine.execAndi d a imm s
  | .ori d a imm => Sys2Proof.Machine.execOri d a imm s
  | .xori d a imm => Sys2Proof.Machine.execXori d a imm s
  | .slli d a n => Sys2Proof.Machine.execSlli d a n s
  | .srli d a n => Sys2Proof.Machine.execSrli d a n s
  | .srai d a n => Sys2Proof.Machine.execSrai d a n s
  | .roli d a n => Sys2Proof.Machine.execRoli d a n s
  | .rori d a n => Sys2Proof.Machine.execRori d a n s
  | .sllwi d a n => Sys2Proof.Machine.execSllwi d a n s
  | .srlwi d a n => Sys2Proof.Machine.execSrlwi d a n s
  | .srawi d a n => Sys2Proof.Machine.execSrawi d a n s
  | .li d imm => Sys2Proof.Machine.execLi d imm s
  | .liu d imm => Sys2Proof.Machine.execLiu d imm s
  | .scadd d a b sh => Sys2Proof.Machine.execScadd d a b sh s
  | .bfx d a lsb width1 => Sys2Proof.Machine.execBfx d a lsb width1 s
  | .bfi d a lsb width1 => Sys2Proof.Machine.execBfi d a lsb width1 s
  | .cmp c k pd a b => Sys2Proof.Machine.execCmp c k pd a b s
  | .cmpi c k pd a imm => Sys2Proof.Machine.execCmpi c k pd a imm s
  | .pand pd pa pb => Sys2Proof.Machine.execPand pd pa pb s
  | .por pd pa pb => Sys2Proof.Machine.execPor pd pa pb s
  | .pxor pd pa pb => Sys2Proof.Machine.execPxor pd pa pb s
  | .pandn pd pa pb => Sys2Proof.Machine.execPandn pd pa pb s
  | .pnot pd pa => Sys2Proof.Machine.execPnot pd pa s
  | .ppack d => Sys2Proof.Machine.execPpack d s
  | .punpack a => Sys2Proof.Machine.execPunpack a s
  | .isref pd a => Sys2Proof.Machine.execIsref pd a s
  | .sel d a b pc => Sys2Proof.Machine.execSel d a b pc s
  | .faddS d a b => Sys2Proof.Machine.execFaddS d a b s
  | .fsubS d a b => Sys2Proof.Machine.execFsubS d a b s
  | .fmulS d a b => Sys2Proof.Machine.execFmulS d a b s
  | .fdivS d a b => Sys2Proof.Machine.execFdivS d a b s
  | .fsqrtS d a => Sys2Proof.Machine.execFsqrtS d a s
  | .fminS d a b => Sys2Proof.Machine.execFminS d a b s
  | .fmaxS d a b => Sys2Proof.Machine.execFmaxS d a b s
  | .fabsS d a => Sys2Proof.Machine.execFabsS d a s
  | .fnegS d a => Sys2Proof.Machine.execFnegS d a s
  | .faddD d a b => Sys2Proof.Machine.execFaddD d a b s
  | .fsubD d a b => Sys2Proof.Machine.execFsubD d a b s
  | .fmulD d a b => Sys2Proof.Machine.execFmulD d a b s
  | .fdivD d a b => Sys2Proof.Machine.execFdivD d a b s
  | .fsqrtD d a => Sys2Proof.Machine.execFsqrtD d a s
  | .fminD d a b => Sys2Proof.Machine.execFminD d a b s
  | .fmaxD d a b => Sys2Proof.Machine.execFmaxD d a b s
  | .fabsD d a => Sys2Proof.Machine.execFabsD d a s
  | .fnegD d a => Sys2Proof.Machine.execFnegD d a s
  | .fmaS d a b c => Sys2Proof.Machine.execFmaS d a b c s
  | .fmsS d a b c => Sys2Proof.Machine.execFmsS d a b c s
  | .fmaD d a b c => Sys2Proof.Machine.execFmaD d a b c s
  | .fmsD d a b c => Sys2Proof.Machine.execFmsD d a b c s
  | .fcvt dst src d a => Sys2Proof.Machine.execFcvt dst src d a s
  | .vadd t vd va vb k => Sys2Proof.Machine.execVadd t vd va vb k s
  | .vsub t vd va vb k => Sys2Proof.Machine.execVsub t vd va vb k s
  | .vmul t vd va vb k => Sys2Proof.Machine.execVmul t vd va vb k s
  | .vmin t vd va vb k => Sys2Proof.Machine.execVmin t vd va vb k s
  | .vmax t vd va vb k => Sys2Proof.Machine.execVmax t vd va vb k s
  | .vminu t vd va vb k => Sys2Proof.Machine.execVminu t vd va vb k s
  | .vmaxu t vd va vb k => Sys2Proof.Machine.execVmaxu t vd va vb k s
  | .vadds t vd va vb k => Sys2Proof.Machine.execVadds t vd va vb k s
  | .vsubs t vd va vb k => Sys2Proof.Machine.execVsubs t vd va vb k s
  | .vaddus t vd va vb k => Sys2Proof.Machine.execVaddus t vd va vb k s
  | .vsubus t vd va vb k => Sys2Proof.Machine.execVsubus t vd va vb k s
  | .vavg t vd va vb k => Sys2Proof.Machine.execVavg t vd va vb k s
  | .vmulh t vd va vb k => Sys2Proof.Machine.execVmulh t vd va vb k s
  | .vand t vd va vb k => Sys2Proof.Machine.execVand t vd va vb k s
  | .vor t vd va vb k => Sys2Proof.Machine.execVor t vd va vb k s
  | .vxor t vd va vb k => Sys2Proof.Machine.execVxor t vd va vb k s
  | .vandn t vd va vb k => Sys2Proof.Machine.execVandn t vd va vb k s
  | .vshl t vd va vb k => Sys2Proof.Machine.execVshl t vd va vb k s
  | .vshr t vd va vb k => Sys2Proof.Machine.execVshr t vd va vb k s
  | .vsar t vd va vb k => Sys2Proof.Machine.execVsar t vd va vb k s
  | .vabs t vd va k => Sys2Proof.Machine.execVabs t vd va k s
  | .vneg t vd va k => Sys2Proof.Machine.execVneg t vd va k s
  | .vdiv t vd va vb k => Sys2Proof.Machine.execVdiv t vd va vb k s
  | .vrcp t vd va k => Sys2Proof.Machine.execVrcp t vd va k s
  | .vrsq t vd va k => Sys2Proof.Machine.execVrsq t vd va k s
  | .vsqrt t vd va k => Sys2Proof.Machine.execVsqrt t vd va k s
  | .vexp2 t vd va k => Sys2Proof.Machine.execVexp2 t vd va k s
  | .vlog2 t vd va k => Sys2Proof.Machine.execVlog2 t vd va k s
  | .vtanh t vd va k => Sys2Proof.Machine.execVtanh t vd va k s
  | .vpopc t vd va k => Sys2Proof.Machine.execVpopc t vd va k s
  | .vclz t vd va k => Sys2Proof.Machine.execVclz t vd va k s
  | .vfma f t vd va vb k => Sys2Proof.Machine.execVfma f t vd va vb k s
  | .vcmp c any t kd va vb k => Sys2Proof.Machine.execVcmp c any t kd va vb k s
  | .vsel vd va vb k => Sys2Proof.Machine.execVsel vd va vb k s
  | .vcvt dst src vd va part k => Sys2Proof.Machine.execVcvt dst src vd va part k s
  | .vqnt f t vd va vb => Sys2Proof.Machine.execVqnt f t vd va vb s
  | .vdq f t part vd va k => Sys2Proof.Machine.execVdq f t part vd va k s
  | .vred f t vd va k => Sys2Proof.Machine.execVred f t vd va k s
  | .vscan f t vd va k => Sys2Proof.Machine.execVscan f t vd va k s
  | .vperm t2 t vd va vb k => Sys2Proof.Machine.execVperm t2 t vd va vb k s
  | .vshuf kind sh t vd va vb k => Sys2Proof.Machine.execVshuf kind sh t vd va vb k s
  | .vbcast t vd va idx k => Sys2Proof.Machine.execVbcast t vd va idx k s
  | .vbcastG t vd a k => Sys2Proof.Machine.execVbcastG t vd a k s
  | .vmovg t zext d va idx => Sys2Proof.Machine.execVmovg t zext d va idx s
  | .vins t vd a idx => Sys2Proof.Machine.execVins t vd a idx s
  | .vcmprC t vd va k => Sys2Proof.Machine.execVcmprC t vd va k s
  | .vcmprE t vd va k => Sys2Proof.Machine.execVcmprE t vd va k s
  | .vmaskAnd kd ka kb => Sys2Proof.Machine.execVmaskAnd kd ka kb s
  | .vmaskOr kd ka kb => Sys2Proof.Machine.execVmaskOr kd ka kb s
  | .vmaskXor kd ka kb => Sys2Proof.Machine.execVmaskXor kd ka kb s
  | .vmaskAndn kd ka kb => Sys2Proof.Machine.execVmaskAndn kd ka kb s
  | .vmaskNot kd ka => Sys2Proof.Machine.execVmaskNot kd ka s
  | .vmaskFromg kd a => Sys2Proof.Machine.execVmaskFromg kd a s
  | .vmaskTog d ka => Sys2Proof.Machine.execVmaskTog d ka s
  | .vmaskPop d ka => Sys2Proof.Machine.execVmaskPop d ka s
  | .vmaskFirst d ka => Sys2Proof.Machine.execVmaskFirst d ka s
  | .seqNop => Sys2Proof.Machine.execSeqNop s
  | .seta b a => Sys2Proof.Machine.execSeta b a s
  | .addaReg b t => Sys2Proof.Machine.execAddaReg b t s
  | .addaImm b imm => Sys2Proof.Machine.execAddaImm b imm s
  | .sets t imm => Sys2Proof.Machine.execSets t imm s
  | .loopImm n c => Sys2Proof.Machine.execLoopImm n c s
  | .loopArg n a => Sys2Proof.Machine.execLoopArg n a s
  | .endl n top => Sys2Proof.Machine.execEndl n top s
  | .emitLd b q sz off => Sys2Proof.Machine.execEmitLd b q sz off s
  | .emitSt b q sz off => Sys2Proof.Machine.execEmitSt b q sz off s
  | .emitGth b iq sz oq sh => Sys2Proof.Machine.execEmitGth b iq sz oq sh s
  | .emitSct b iq sz dq sh => Sys2Proof.Machine.execEmitSct b iq sz dq sh s
  | .brc pol top => Sys2Proof.Machine.execBrc pol top s
  | .waitc link => Sys2Proof.Machine.execWaitc link s
  | .signal link v => Sys2Proof.Machine.execSignal link v s
  | .seqFence => Sys2Proof.Machine.execSeqFence s
  | .eor qmask => Sys2Proof.Machine.execEor qmask s
  | .seqSync level sc => Sys2Proof.Machine.execSeqSync level sc s
  | .setf fmt q => Sys2Proof.Machine.execSetf fmt q s
  | .setfIn fmt q => Sys2Proof.Machine.execSetfIn fmt q s
  | .halt => Sys2Proof.Machine.execHalt s
  | .feAdd => Sys2Proof.Machine.execFeAdd s
  | .feSub => Sys2Proof.Machine.execFeSub s
  | .feMul => Sys2Proof.Machine.execFeMul s
  | .feFma => Sys2Proof.Machine.execFeFma s
  | .feFms => Sys2Proof.Machine.execFeFms s
  | .feMin => Sys2Proof.Machine.execFeMin s
  | .feMax => Sys2Proof.Machine.execFeMax s
  | .feAbs => Sys2Proof.Machine.execFeAbs s
  | .feNeg => Sys2Proof.Machine.execFeNeg s
  | .feDiv => Sys2Proof.Machine.execFeDiv s
  | .feRcp => Sys2Proof.Machine.execFeRcp s
  | .feRsq => Sys2Proof.Machine.execFeRsq s
  | .feSqrt => Sys2Proof.Machine.execFeSqrt s
  | .feExp2 => Sys2Proof.Machine.execFeExp2 s
  | .feLog2 => Sys2Proof.Machine.execFeLog2 s
  | .feTanh => Sys2Proof.Machine.execFeTanh s
  | .feAdds => Sys2Proof.Machine.execFeAdds s
  | .feSubs => Sys2Proof.Machine.execFeSubs s
  | .feAvg => Sys2Proof.Machine.execFeAvg s
  | .feMulh => Sys2Proof.Machine.execFeMulh s
  | .feCmpeq => Sys2Proof.Machine.execFeCmpeq s
  | .feCmpne => Sys2Proof.Machine.execFeCmpne s
  | .feCmplt => Sys2Proof.Machine.execFeCmplt s
  | .feCmple => Sys2Proof.Machine.execFeCmple s
  | .feAnd => Sys2Proof.Machine.execFeAnd s
  | .feOr => Sys2Proof.Machine.execFeOr s
  | .feXor => Sys2Proof.Machine.execFeXor s
  | .feNot => Sys2Proof.Machine.execFeNot s
  | .feSel => Sys2Proof.Machine.execFeSel s
  | .feShl => Sys2Proof.Machine.execFeShl s
  | .feShr => Sys2Proof.Machine.execFeShr s
  | .feSar => Sys2Proof.Machine.execFeSar s
  | .fePopc => Sys2Proof.Machine.execFePopc s
  | .feClz => Sys2Proof.Machine.execFeClz s
  | .feCvt => Sys2Proof.Machine.execFeCvt s
  | .feSround => Sys2Proof.Machine.execFeSround s
  | .feQmax => Sys2Proof.Machine.execFeQmax s
  | .feQcvt => Sys2Proof.Machine.execFeQcvt s
  | .feDq => Sys2Proof.Machine.execFeDq s
  | .feRsum => Sys2Proof.Machine.execFeRsum s
  | .feRmax => Sys2Proof.Machine.execFeRmax s
  | .feRmin => Sys2Proof.Machine.execFeRmin s
  | .feAcc => Sys2Proof.Machine.execFeAcc s
  | .feScan => Sys2Proof.Machine.execFeScan s
  | .feBcast => Sys2Proof.Machine.execFeBcast s
  | .feShuf => Sys2Proof.Machine.execFeShuf s
  | .fePack => Sys2Proof.Machine.execFePack s
  | .feUnpack => Sys2Proof.Machine.execFeUnpack s
  | .feDelay => Sys2Proof.Machine.execFeDelay s
  | .feCturn => Sys2Proof.Machine.execFeCturn s
  | .feRepl => Sys2Proof.Machine.execFeRepl s
  | .feIota => Sys2Proof.Machine.execFeIota s
  | .feConst => Sys2Proof.Machine.execFeConst s
  | .feZip => Sys2Proof.Machine.execFeZip s
  | .feSplit => Sys2Proof.Machine.execFeSplit s
  | .feHash => Sys2Proof.Machine.execFeHash s
  | .feSrc => Sys2Proof.Machine.execFeSrc s
  | .feSink => Sys2Proof.Machine.execFeSink s
  | .feEsc => Sys2Proof.Machine.execFeEsc s
  | .feSync => Sys2Proof.Machine.execFeSync s
  | .feFence => Sys2Proof.Machine.execFeFence s
  | .feCmpk => Sys2Proof.Machine.execFeCmpk s
  | .markerFiring => Sys2Proof.Machine.execMarkerFiring s
  | .planeChange => Sys2Proof.Machine.execPlaneChange s
  | .steer => Sys2Proof.Machine.execSteer s
  | .merge => Sys2Proof.Machine.execMerge s
  | .carry => Sys2Proof.Machine.execCarry s
  | .mtProbe => Sys2Proof.Machine.execMtProbe s
  | .mxLoadb => Sys2Proof.Machine.execMxLoadb s
  | .mxMm => Sys2Proof.Machine.execMxMm s
  | .mxDrain => Sys2Proof.Machine.execMxDrain s
  | .mxMsg => Sys2Proof.Machine.execMxMsg s
  | .escDispatch => Sys2Proof.Machine.execEscDispatch s
  | .escReplyArrival => Sys2Proof.Machine.execEscReplyArrival s
  | .blockFetch => Sys2Proof.Machine.execBlockFetch s
  | .loadReturn => Sys2Proof.Machine.execLoadReturn s
  | .blockCommit => Sys2Proof.Machine.execBlockCommit s
  | .timerExpiry => Sys2Proof.Machine.execTimerExpiry s
  | .vuIssue => Sys2Proof.Machine.execVuIssue s
  | .updateAccept => Sys2Proof.Machine.execUpdateAccept s
  | .updateDrain => Sys2Proof.Machine.execUpdateDrain s
  | .patrolRead => Sys2Proof.Machine.execPatrolRead s
  | .tlbWalkStep => Sys2Proof.Machine.execTlbWalkStep s
  | .walkStep => Sys2Proof.Machine.execWalkStep s
  | .walkerGrant => Sys2Proof.Machine.execWalkerGrant s
  | .sendInject => Sys2Proof.Machine.execSendInject s
  | .messageArrival => Sys2Proof.Machine.execMessageArrival s
  | .savedRingDelivery => Sys2Proof.Machine.execSavedRingDelivery s
  | .eventPost => Sys2Proof.Machine.execEventPost s
  | .faultRecordPost => Sys2Proof.Machine.execFaultRecordPost s
  | .lqtailWrite => Sys2Proof.Machine.execLqtailWrite s
  | .launchAdmission => Sys2Proof.Machine.execLaunchAdmission s
  | .threadPlacement => Sys2Proof.Machine.execThreadPlacement s
  | .herdPlacement => Sys2Proof.Machine.execHerdPlacement s
  | .placementTimeout => Sys2Proof.Machine.execPlacementTimeout s
  | .arbitrationPeriod => Sys2Proof.Machine.execArbitrationPeriod s
  | .slotReclaim => Sys2Proof.Machine.execSlotReclaim s
  | .launchDone => Sys2Proof.Machine.execLaunchDone s
  | .fabricAdmission => Sys2Proof.Machine.execFabricAdmission s
  | .configLoad => Sys2Proof.Machine.execConfigLoad s
  | .planeSlotWritten => Sys2Proof.Machine.execPlaneSlotWritten s
  | .planeRefetch => Sys2Proof.Machine.execPlaneRefetch s
  | .generatorFault => Sys2Proof.Machine.execGeneratorFault s
  | .fenceRetire => Sys2Proof.Machine.execFenceRetire s
  | .stall => Sys2Proof.Machine.execStall s
  | .drainRequest => Sys2Proof.Machine.execDrainRequest s
  | .drained => Sys2Proof.Machine.execDrained s
  | .drainTimeout => Sys2Proof.Machine.execDrainTimeout s
  | .graphCompletion => Sys2Proof.Machine.execGraphCompletion s
  | .engineTake => Sys2Proof.Machine.execEngineTake s
  | .boxLand => Sys2Proof.Machine.execBoxLand s
  | .engineSegmentFault => Sys2Proof.Machine.execEngineSegmentFault s
  | .fixupReplay => Sys2Proof.Machine.execFixupReplay s
  | .engineComplete => Sys2Proof.Machine.execEngineComplete s
  | .xchgReceive => Sys2Proof.Machine.execXchgReceive s
  | .xchgTimeout => Sys2Proof.Machine.execXchgTimeout s
  | .mxcInject => Sys2Proof.Machine.execMxcInject s
  | .loadw => Sys2Proof.Machine.execLoadw s
  | .mm => Sys2Proof.Machine.execMm s
  | .drain => Sys2Proof.Machine.execDrain s
  | .clear => Sys2Proof.Machine.execClear s
  | .barWatchdog => Sys2Proof.Machine.execBarWatchdog s
  | .switchOut => Sys2Proof.Machine.execSwitchOut s
  | .saveComplete => Sys2Proof.Machine.execSaveComplete s
  | .resume => Sys2Proof.Machine.execResume s
  | .ctxctlSwitchOut => Sys2Proof.Machine.execCtxctlSwitchOut s
  | .ctxctlAbort => Sys2Proof.Machine.execCtxctlAbort s
  | .ctxctlForward => Sys2Proof.Machine.execCtxctlForward s
  | .fqresRetry => Sys2Proof.Machine.execFqresRetry s
  | .fqresAbort => Sys2Proof.Machine.execFqresAbort s
  | .fqheadWrite => Sys2Proof.Machine.execFqheadWrite s
  | .gctlDrain => Sys2Proof.Machine.execGctlDrain s
  | .gctlAbort => Sys2Proof.Machine.execGctlAbort s
  | .contextWindowWrite => Sys2Proof.Machine.execContextWindowWrite s
  | .ctileWrite => Sys2Proof.Machine.execCtileWrite s
  | .mtileWrite => Sys2Proof.Machine.execMtileWrite s
  | .segmentConversionDone => Sys2Proof.Machine.execSegmentConversionDone s
  | .clkctlWrite => Sys2Proof.Machine.execClkctlWrite s
  | .itportStage => Sys2Proof.Machine.execItportStage s
  | .itctlGo => Sys2Proof.Machine.execItctlGo s
  | .tableBroadcastAck => Sys2Proof.Machine.execTableBroadcastAck s
  | .controlRegisterWrite => Sys2Proof.Machine.execControlRegisterWrite s
  | .retireCore => Sys2Proof.Machine.execRetireCore s
  | .retireHerd => Sys2Proof.Machine.execRetireHerd s
  | .retireSite => Sys2Proof.Machine.execRetireSite s
  | .retireDomain => Sys2Proof.Machine.execRetireDomain s
  | .retireChannel => Sys2Proof.Machine.execRetireChannel s
  | .linkRoute => Sys2Proof.Machine.execLinkRoute s
  | .laneSpare => Sys2Proof.Machine.execLaneSpare s
  | .attest => Sys2Proof.Machine.execAttest s
  | .herdQuiescentWindow => Sys2Proof.Machine.execHerdQuiescentWindow s
  | .stripeQuiescentWindow => Sys2Proof.Machine.execStripeQuiescentWindow s
  | .channelSpareCopy => Sys2Proof.Machine.execChannelSpareCopy s
  | .tlbSliceMove => Sys2Proof.Machine.execTlbSliceMove s
  | .niFail => Sys2Proof.Machine.execNiFail s
  | .regulatorPhase => Sys2Proof.Machine.execRegulatorPhase s
  | .elementRailFailure => Sys2Proof.Machine.execElementRailFailure s
  | .routingRailFailure => Sys2Proof.Machine.execRoutingRailFailure s
  | .controlCoreFailure => Sys2Proof.Machine.execControlCoreFailure s
  | .tableEntryError => Sys2Proof.Machine.execTableEntryError s
  | .tableEntryRefetch => Sys2Proof.Machine.execTableEntryRefetch s
  | .seamFlitReceive => Sys2Proof.Machine.execSeamFlitReceive s
  | .seamResend => Sys2Proof.Machine.execSeamResend s
  | .linkFlitReceive => Sys2Proof.Machine.execLinkFlitReceive s
  | .linkReplay => Sys2Proof.Machine.execLinkReplay s
  | .laneFailure => Sys2Proof.Machine.execLaneFailure s
  | .hostAccess => Sys2Proof.Machine.execHostAccess s
  | .coldBoot => Sys2Proof.Machine.execColdBoot s
  | .chainUnitTimeout => Sys2Proof.Machine.execChainUnitTimeout s
  | .inputUndervoltage => Sys2Proof.Machine.execInputUndervoltage s
  | .thermalStep => Sys2Proof.Machine.execThermalStep s
  | .thermalTrip => Sys2Proof.Machine.execThermalTrip s
  | .thermalPowerRemoval => Sys2Proof.Machine.execThermalPowerRemoval s
  | .linkTraining => Sys2Proof.Machine.execLinkTraining s
  | .softError => Sys2Proof.Machine.execSoftError s

end Sys2Proof.Machine
end

