-- ==== Sys2Proof/Machine/Step.lean ====
section
/-!
DEFINITION. One step of the part: the next turn of the agenda, or the turn that the state itself calls for, runs
one step of one agent. What a turn means stands in Schedule.lean; here it is only called.
-/

namespace Sys2Proof.Machine

/-- The M word of a pair, its A word behind it: one that has to wait issues again alone. s0: the state as the pair issues. -/
def stepMWord (s0 s1 : State) (m : Instr) : Host.Outcome State Fault Refusal :=
  match exec m s1.onMWord with
  | .fault f => .fault f
  | .refused r => .refused r
  | .next s2 =>
    if s2.me.phase = .body ∧ s2.me.epoch = s0.me.epoch ∧ s2.me.pos = s2.me.cur ∧ s2.me.exit = none then .next (s2.waitPair s0)
    else .next s2

/-- The A word and the M word of a pair: both read the registers from before the bundle, and the M word's value
remains where both write one register (R47). A trap of the A word ends the bundle. -/
def stepPair (s : State) (core ctx : Nat) (m a : Instr) : Host.Outcome State Fault Refusal :=
  let s0 := s.issueAt core ctx true
  if (s.ctxOf core ctx).aDone then stepMWord s0 s0.onAWord m
  else match exec a s0.onAWord with
    | .fault f => .fault f
    | .refused r => .refused r
    | .next s1 =>
      if s1.me.epoch ≠ s0.me.epoch then .next s1
      else if s1.me.pos = s1.me.cur then .next s
      else stepMWord s0 s1 m

/-- A turn of one context (R40..R48). -/
def stepContext (s : State) (core ctx : Nat) : Host.Outcome State Fault Refusal :=
  match s.ctxAct core ctx with
  | .idle => .next s
  | .run args i => exec i (s.actAs core ctx 0 args)
  | .retest => .next (s.retestWait core ctx)
  | .word i => exec i (s.issueAt core ctx false)
  | .pair m a => stepPair s core ctx m a
  | .bad w => .fault (.blockWord w)

/-- The members of a gang issue together, each on its own registers (R192). -/
def stepGang (s : State) : List (Nat × Nat) → Host.Outcome State Fault Refusal
  | [] => .next s
  | x :: xs =>
    match stepContext s x.1 x.2 with
    | .next s => stepGang s xs
    | .fault f => .fault f
    | .refused r => .refused r

/-- A turn of one agent. -/
def runTurn (s : State) : Turn → Host.Outcome State Fault Refusal
  | .context core ctx =>
    let g := s.gangTurn core ctx
    match stepGang g.1 g.2 with
    | .next s => .next (s.shareBlock g.2)
    | .fault f => .fault f
    | .refused r => .refused r
  | .element site =>
    let s := s.flowAll
    match s.elementInstr site with
    | some i => exec i (s.actAs 0 0 site [])
    | none => .next s
  | .router site =>
    let s := s.flowAll
    match s.routerInstr site with
    | some i => exec i (s.actAs 0 0 site [])
    | none => .next s
  | .sequencer site =>
    let s := s.flowAll
    match s.seqInstr site with
    | .ok (some i) => exec i (s.actAs 0 0 site [])
    | .ok none => .next s
    | .error w => .fault (.seqWord w)
  | .event core ctx site args i => exec i (s.actAs core ctx site args)

/-- One step. -/
def step (s : State) : Host.Outcome State Fault Refusal :=
  let s := { s with tick := s.tick + 1 }
  match s.agenda with
  | (dt, t) :: rest => runTurn { s with agenda := rest, time := s.time + dt } t
  | [] =>
    let s := { s with time := s.time + 1 }
    match s.defaultTurn with
    | some t => runTurn s t
    | none => .next s

/-- s with a sequencer word stored where the next step fetches: the memory tile at site 64 (logical x = 2, y = 0)
runs an mt.wr plane whose first word it is, and the next turn is that sequencer's. Only sequencer words carry
bits in the opcode table, so every other width stores nothing. -/
def State.withFetchWord (s : State) (nbits w : Nat) : State :=
  if nbits = 32 then
    let plane : PlaneSlot := { word := 0x81, seq := [BitVec.ofNat 32 w], loaded := true }
    let x : Site := { slots := [(0, plane)], running := true, launch := some 0, seq := { mode := .run } }
    { s with fabric := { s.fabric with sites := mset s.fabric.sites 64 x }, agenda := [(0, .sequencer 64)] }
  else s

end Sys2Proof.Machine
end

