-- ==== Sys2Proof/Laws/State.lean ====
section
/-!
SUPPORT. One lemma per field of State per update that leaves it, and the fields that an update writes, so that no proof
unfolds a record update.
-/

namespace Sys2Proof.Machine

-- State.setCore

@[simp] theorem State.setCore_act (s : State) (n : Nat) (x : Core) : (s.setCore n x).act = s.act := rfl
@[simp] theorem State.setCore_agenda (s : State) (n : Nat) (x : Core) : (s.setCore n x).agenda = s.agenda := rfl
@[simp] theorem State.setCore_time (s : State) (n : Nat) (x : Core) : (s.setCore n x).time = s.time := rfl
@[simp] theorem State.setCore_tick (s : State) (n : Nat) (x : Core) : (s.setCore n x).tick = s.tick := rfl
@[simp] theorem State.setCore_herds (s : State) (n : Nat) (x : Core) : (s.setCore n x).herds = s.herds := rfl
@[simp] theorem State.setCore_sets (s : State) (n : Nat) (x : Core) : (s.setCore n x).sets = s.sets := rfl
@[simp] theorem State.setCore_mem (s : State) (n : Nat) (x : Core) : (s.setCore n x).mem = s.mem := rfl
@[simp] theorem State.setCore_launch (s : State) (n : Nat) (x : Core) : (s.setCore n x).launch = s.launch := rfl
@[simp] theorem State.setCore_fault (s : State) (n : Nat) (x : Core) : (s.setCore n x).fault = s.fault := rfl
@[simp] theorem State.setCore_fabric (s : State) (n : Nat) (x : Core) : (s.setCore n x).fabric = s.fabric := rfl
@[simp] theorem State.setCore_dev (s : State) (n : Nat) (x : Core) : (s.setCore n x).dev = s.dev := rfl

-- State.onCore

@[simp] theorem State.onCore_act (s : State) (n : Nat) (f : Core → Core) : (s.onCore n f).act = s.act := rfl
@[simp] theorem State.onCore_agenda (s : State) (n : Nat) (f : Core → Core) : (s.onCore n f).agenda = s.agenda := rfl
@[simp] theorem State.onCore_time (s : State) (n : Nat) (f : Core → Core) : (s.onCore n f).time = s.time := rfl
@[simp] theorem State.onCore_tick (s : State) (n : Nat) (f : Core → Core) : (s.onCore n f).tick = s.tick := rfl
@[simp] theorem State.onCore_herds (s : State) (n : Nat) (f : Core → Core) : (s.onCore n f).herds = s.herds := rfl
@[simp] theorem State.onCore_sets (s : State) (n : Nat) (f : Core → Core) : (s.onCore n f).sets = s.sets := rfl
@[simp] theorem State.onCore_mem (s : State) (n : Nat) (f : Core → Core) : (s.onCore n f).mem = s.mem := rfl
@[simp] theorem State.onCore_launch (s : State) (n : Nat) (f : Core → Core) : (s.onCore n f).launch = s.launch := rfl
@[simp] theorem State.onCore_fault (s : State) (n : Nat) (f : Core → Core) : (s.onCore n f).fault = s.fault := rfl
@[simp] theorem State.onCore_fabric (s : State) (n : Nat) (f : Core → Core) : (s.onCore n f).fabric = s.fabric := rfl
@[simp] theorem State.onCore_dev (s : State) (n : Nat) (f : Core → Core) : (s.onCore n f).dev = s.dev := rfl

-- State.setCtx

@[simp] theorem State.setCtx_act (s : State) (n k : Nat) (x : Context) : (s.setCtx n k x).act = s.act := rfl
@[simp] theorem State.setCtx_agenda (s : State) (n k : Nat) (x : Context) : (s.setCtx n k x).agenda = s.agenda := rfl
@[simp] theorem State.setCtx_time (s : State) (n k : Nat) (x : Context) : (s.setCtx n k x).time = s.time := rfl
@[simp] theorem State.setCtx_tick (s : State) (n k : Nat) (x : Context) : (s.setCtx n k x).tick = s.tick := rfl
@[simp] theorem State.setCtx_herds (s : State) (n k : Nat) (x : Context) : (s.setCtx n k x).herds = s.herds := rfl
@[simp] theorem State.setCtx_sets (s : State) (n k : Nat) (x : Context) : (s.setCtx n k x).sets = s.sets := rfl
@[simp] theorem State.setCtx_mem (s : State) (n k : Nat) (x : Context) : (s.setCtx n k x).mem = s.mem := rfl
@[simp] theorem State.setCtx_launch (s : State) (n k : Nat) (x : Context) : (s.setCtx n k x).launch = s.launch := rfl
@[simp] theorem State.setCtx_fault (s : State) (n k : Nat) (x : Context) : (s.setCtx n k x).fault = s.fault := rfl
@[simp] theorem State.setCtx_fabric (s : State) (n k : Nat) (x : Context) : (s.setCtx n k x).fabric = s.fabric := rfl
@[simp] theorem State.setCtx_dev (s : State) (n k : Nat) (x : Context) : (s.setCtx n k x).dev = s.dev := rfl

-- State.onCtx

@[simp] theorem State.onCtx_act (s : State) (n k : Nat) (f : Context → Context) : (s.onCtx n k f).act = s.act := rfl
@[simp] theorem State.onCtx_agenda (s : State) (n k : Nat) (f : Context → Context) : (s.onCtx n k f).agenda = s.agenda := rfl
@[simp] theorem State.onCtx_time (s : State) (n k : Nat) (f : Context → Context) : (s.onCtx n k f).time = s.time := rfl
@[simp] theorem State.onCtx_tick (s : State) (n k : Nat) (f : Context → Context) : (s.onCtx n k f).tick = s.tick := rfl
@[simp] theorem State.onCtx_herds (s : State) (n k : Nat) (f : Context → Context) : (s.onCtx n k f).herds = s.herds := rfl
@[simp] theorem State.onCtx_sets (s : State) (n k : Nat) (f : Context → Context) : (s.onCtx n k f).sets = s.sets := rfl
@[simp] theorem State.onCtx_mem (s : State) (n k : Nat) (f : Context → Context) : (s.onCtx n k f).mem = s.mem := rfl
@[simp] theorem State.onCtx_launch (s : State) (n k : Nat) (f : Context → Context) : (s.onCtx n k f).launch = s.launch := rfl
@[simp] theorem State.onCtx_fault (s : State) (n k : Nat) (f : Context → Context) : (s.onCtx n k f).fault = s.fault := rfl
@[simp] theorem State.onCtx_fabric (s : State) (n k : Nat) (f : Context → Context) : (s.onCtx n k f).fabric = s.fabric := rfl
@[simp] theorem State.onCtx_dev (s : State) (n k : Nat) (f : Context → Context) : (s.onCtx n k f).dev = s.dev := rfl

-- State.setMe

@[simp] theorem State.setMe_act (s : State) (x : Context) : (s.setMe x).act = s.act := rfl
@[simp] theorem State.setMe_agenda (s : State) (x : Context) : (s.setMe x).agenda = s.agenda := rfl
@[simp] theorem State.setMe_time (s : State) (x : Context) : (s.setMe x).time = s.time := rfl
@[simp] theorem State.setMe_tick (s : State) (x : Context) : (s.setMe x).tick = s.tick := rfl
@[simp] theorem State.setMe_herds (s : State) (x : Context) : (s.setMe x).herds = s.herds := rfl
@[simp] theorem State.setMe_sets (s : State) (x : Context) : (s.setMe x).sets = s.sets := rfl
@[simp] theorem State.setMe_mem (s : State) (x : Context) : (s.setMe x).mem = s.mem := rfl
@[simp] theorem State.setMe_launch (s : State) (x : Context) : (s.setMe x).launch = s.launch := rfl
@[simp] theorem State.setMe_fault (s : State) (x : Context) : (s.setMe x).fault = s.fault := rfl
@[simp] theorem State.setMe_fabric (s : State) (x : Context) : (s.setMe x).fabric = s.fabric := rfl
@[simp] theorem State.setMe_dev (s : State) (x : Context) : (s.setMe x).dev = s.dev := rfl

-- State.onMe

@[simp] theorem State.onMe_act (s : State) (f : Context → Context) : (s.onMe f).act = s.act := rfl
@[simp] theorem State.onMe_agenda (s : State) (f : Context → Context) : (s.onMe f).agenda = s.agenda := rfl
@[simp] theorem State.onMe_time (s : State) (f : Context → Context) : (s.onMe f).time = s.time := rfl
@[simp] theorem State.onMe_tick (s : State) (f : Context → Context) : (s.onMe f).tick = s.tick := rfl
@[simp] theorem State.onMe_herds (s : State) (f : Context → Context) : (s.onMe f).herds = s.herds := rfl
@[simp] theorem State.onMe_sets (s : State) (f : Context → Context) : (s.onMe f).sets = s.sets := rfl
@[simp] theorem State.onMe_mem (s : State) (f : Context → Context) : (s.onMe f).mem = s.mem := rfl
@[simp] theorem State.onMe_launch (s : State) (f : Context → Context) : (s.onMe f).launch = s.launch := rfl
@[simp] theorem State.onMe_fault (s : State) (f : Context → Context) : (s.onMe f).fault = s.fault := rfl
@[simp] theorem State.onMe_fabric (s : State) (f : Context → Context) : (s.onMe f).fabric = s.fabric := rfl
@[simp] theorem State.onMe_dev (s : State) (f : Context → Context) : (s.onMe f).dev = s.dev := rfl

-- State.short

@[simp] theorem State.short_act (s : State) (f : Regs → Regs) : (s.short f).act = s.act := rfl
@[simp] theorem State.short_agenda (s : State) (f : Regs → Regs) : (s.short f).agenda = s.agenda := rfl
@[simp] theorem State.short_time (s : State) (f : Regs → Regs) : (s.short f).time = s.time := rfl
@[simp] theorem State.short_tick (s : State) (f : Regs → Regs) : (s.short f).tick = s.tick := rfl
@[simp] theorem State.short_herds (s : State) (f : Regs → Regs) : (s.short f).herds = s.herds := rfl
@[simp] theorem State.short_sets (s : State) (f : Regs → Regs) : (s.short f).sets = s.sets := rfl
@[simp] theorem State.short_mem (s : State) (f : Regs → Regs) : (s.short f).mem = s.mem := rfl
@[simp] theorem State.short_launch (s : State) (f : Regs → Regs) : (s.short f).launch = s.launch := rfl
@[simp] theorem State.short_fault (s : State) (f : Regs → Regs) : (s.short f).fault = s.fault := rfl
@[simp] theorem State.short_fabric (s : State) (f : Regs → Regs) : (s.short f).fabric = s.fabric := rfl
@[simp] theorem State.short_dev (s : State) (f : Regs → Regs) : (s.short f).dev = s.dev := rfl

-- State.shortG

@[simp] theorem State.shortG_act (s : State) (d : RegNo) (x : Word) : (s.shortG d x).act = s.act := rfl
@[simp] theorem State.shortG_agenda (s : State) (d : RegNo) (x : Word) : (s.shortG d x).agenda = s.agenda := rfl
@[simp] theorem State.shortG_time (s : State) (d : RegNo) (x : Word) : (s.shortG d x).time = s.time := rfl
@[simp] theorem State.shortG_tick (s : State) (d : RegNo) (x : Word) : (s.shortG d x).tick = s.tick := rfl
@[simp] theorem State.shortG_herds (s : State) (d : RegNo) (x : Word) : (s.shortG d x).herds = s.herds := rfl
@[simp] theorem State.shortG_sets (s : State) (d : RegNo) (x : Word) : (s.shortG d x).sets = s.sets := rfl
@[simp] theorem State.shortG_mem (s : State) (d : RegNo) (x : Word) : (s.shortG d x).mem = s.mem := rfl
@[simp] theorem State.shortG_launch (s : State) (d : RegNo) (x : Word) : (s.shortG d x).launch = s.launch := rfl
@[simp] theorem State.shortG_fault (s : State) (d : RegNo) (x : Word) : (s.shortG d x).fault = s.fault := rfl
@[simp] theorem State.shortG_fabric (s : State) (d : RegNo) (x : Word) : (s.shortG d x).fabric = s.fabric := rfl
@[simp] theorem State.shortG_dev (s : State) (d : RegNo) (x : Word) : (s.shortG d x).dev = s.dev := rfl

-- State.long

@[simp] theorem State.long_act (s : State) (ws : List RegWrite) : (s.long ws).act = s.act := rfl
@[simp] theorem State.long_agenda (s : State) (ws : List RegWrite) : (s.long ws).agenda = s.agenda := rfl
@[simp] theorem State.long_time (s : State) (ws : List RegWrite) : (s.long ws).time = s.time := rfl
@[simp] theorem State.long_tick (s : State) (ws : List RegWrite) : (s.long ws).tick = s.tick := rfl
@[simp] theorem State.long_herds (s : State) (ws : List RegWrite) : (s.long ws).herds = s.herds := rfl
@[simp] theorem State.long_sets (s : State) (ws : List RegWrite) : (s.long ws).sets = s.sets := rfl
@[simp] theorem State.long_mem (s : State) (ws : List RegWrite) : (s.long ws).mem = s.mem := rfl
@[simp] theorem State.long_launch (s : State) (ws : List RegWrite) : (s.long ws).launch = s.launch := rfl
@[simp] theorem State.long_fault (s : State) (ws : List RegWrite) : (s.long ws).fault = s.fault := rfl
@[simp] theorem State.long_fabric (s : State) (ws : List RegWrite) : (s.long ws).fabric = s.fabric := rfl
@[simp] theorem State.long_dev (s : State) (ws : List RegWrite) : (s.long ws).dev = s.dev := rfl

-- State.longG

@[simp] theorem State.longG_act (s : State) (d : RegNo) (x : Word) : (s.longG d x).act = s.act := rfl
@[simp] theorem State.longG_agenda (s : State) (d : RegNo) (x : Word) : (s.longG d x).agenda = s.agenda := rfl
@[simp] theorem State.longG_time (s : State) (d : RegNo) (x : Word) : (s.longG d x).time = s.time := rfl
@[simp] theorem State.longG_tick (s : State) (d : RegNo) (x : Word) : (s.longG d x).tick = s.tick := rfl
@[simp] theorem State.longG_herds (s : State) (d : RegNo) (x : Word) : (s.longG d x).herds = s.herds := rfl
@[simp] theorem State.longG_sets (s : State) (d : RegNo) (x : Word) : (s.longG d x).sets = s.sets := rfl
@[simp] theorem State.longG_mem (s : State) (d : RegNo) (x : Word) : (s.longG d x).mem = s.mem := rfl
@[simp] theorem State.longG_launch (s : State) (d : RegNo) (x : Word) : (s.longG d x).launch = s.launch := rfl
@[simp] theorem State.longG_fault (s : State) (d : RegNo) (x : Word) : (s.longG d x).fault = s.fault := rfl
@[simp] theorem State.longG_fabric (s : State) (d : RegNo) (x : Word) : (s.longG d x).fabric = s.fabric := rfl
@[simp] theorem State.longG_dev (s : State) (d : RegNo) (x : Word) : (s.longG d x).dev = s.dev := rfl

-- State.onHerd

@[simp] theorem State.onHerd_act (s : State) (h : Nat) (f : Herd → Herd) : (s.onHerd h f).act = s.act := rfl
@[simp] theorem State.onHerd_agenda (s : State) (h : Nat) (f : Herd → Herd) : (s.onHerd h f).agenda = s.agenda := rfl
@[simp] theorem State.onHerd_time (s : State) (h : Nat) (f : Herd → Herd) : (s.onHerd h f).time = s.time := rfl
@[simp] theorem State.onHerd_tick (s : State) (h : Nat) (f : Herd → Herd) : (s.onHerd h f).tick = s.tick := rfl
@[simp] theorem State.onHerd_cores (s : State) (h : Nat) (f : Herd → Herd) : (s.onHerd h f).cores = s.cores := rfl
@[simp] theorem State.onHerd_sets (s : State) (h : Nat) (f : Herd → Herd) : (s.onHerd h f).sets = s.sets := rfl
@[simp] theorem State.onHerd_mem (s : State) (h : Nat) (f : Herd → Herd) : (s.onHerd h f).mem = s.mem := rfl
@[simp] theorem State.onHerd_launch (s : State) (h : Nat) (f : Herd → Herd) : (s.onHerd h f).launch = s.launch := rfl
@[simp] theorem State.onHerd_fault (s : State) (h : Nat) (f : Herd → Herd) : (s.onHerd h f).fault = s.fault := rfl
@[simp] theorem State.onHerd_fabric (s : State) (h : Nat) (f : Herd → Herd) : (s.onHerd h f).fabric = s.fabric := rfl
@[simp] theorem State.onHerd_dev (s : State) (h : Nat) (f : Herd → Herd) : (s.onHerd h f).dev = s.dev := rfl

-- State.postFault

@[simp] theorem State.postFault_act (s : State) (r : FaultRec) : (s.postFault r).act = s.act := rfl
@[simp] theorem State.postFault_agenda (s : State) (r : FaultRec) : (s.postFault r).agenda = s.agenda := rfl
@[simp] theorem State.postFault_time (s : State) (r : FaultRec) : (s.postFault r).time = s.time := rfl
@[simp] theorem State.postFault_tick (s : State) (r : FaultRec) : (s.postFault r).tick = s.tick := rfl
@[simp] theorem State.postFault_cores (s : State) (r : FaultRec) : (s.postFault r).cores = s.cores := rfl
@[simp] theorem State.postFault_herds (s : State) (r : FaultRec) : (s.postFault r).herds = s.herds := rfl
@[simp] theorem State.postFault_sets (s : State) (r : FaultRec) : (s.postFault r).sets = s.sets := rfl
@[simp] theorem State.postFault_mem (s : State) (r : FaultRec) : (s.postFault r).mem = s.mem := rfl
@[simp] theorem State.postFault_launch (s : State) (r : FaultRec) : (s.postFault r).launch = s.launch := rfl
@[simp] theorem State.postFault_fabric (s : State) (r : FaultRec) : (s.postFault r).fabric = s.fabric := rfl
@[simp] theorem State.postFault_dev (s : State) (r : FaultRec) : (s.postFault r).dev = s.dev := rfl

-- State.actAs

@[simp] theorem State.actAs_agenda (s : State) (core ctx site : Nat) (args : List Nat) : (s.actAs core ctx site args).agenda = s.agenda := rfl
@[simp] theorem State.actAs_time (s : State) (core ctx site : Nat) (args : List Nat) : (s.actAs core ctx site args).time = s.time := rfl
@[simp] theorem State.actAs_tick (s : State) (core ctx site : Nat) (args : List Nat) : (s.actAs core ctx site args).tick = s.tick := rfl
@[simp] theorem State.actAs_cores (s : State) (core ctx site : Nat) (args : List Nat) : (s.actAs core ctx site args).cores = s.cores := rfl
@[simp] theorem State.actAs_herds (s : State) (core ctx site : Nat) (args : List Nat) : (s.actAs core ctx site args).herds = s.herds := rfl
@[simp] theorem State.actAs_sets (s : State) (core ctx site : Nat) (args : List Nat) : (s.actAs core ctx site args).sets = s.sets := rfl
@[simp] theorem State.actAs_mem (s : State) (core ctx site : Nat) (args : List Nat) : (s.actAs core ctx site args).mem = s.mem := rfl
@[simp] theorem State.actAs_launch (s : State) (core ctx site : Nat) (args : List Nat) : (s.actAs core ctx site args).launch = s.launch := rfl
@[simp] theorem State.actAs_fault (s : State) (core ctx site : Nat) (args : List Nat) : (s.actAs core ctx site args).fault = s.fault := rfl
@[simp] theorem State.actAs_fabric (s : State) (core ctx site : Nat) (args : List Nat) : (s.actAs core ctx site args).fabric = s.fabric := rfl
@[simp] theorem State.actAs_dev (s : State) (core ctx site : Nat) (args : List Nat) : (s.actAs core ctx site args).dev = s.dev := rfl

-- State.readNamed, with no array error outstanding (R362); State.issueAt

theorem State.readNamed_clean (s : State) (core ctx : Nat) (paired : Bool) (h : s.mem.errs = []) : s.readNamed core ctx paired = s := by
  simp [State.readNamed, h]

@[simp] theorem State.issueAt_agenda (s : State) (core ctx : Nat) (paired : Bool) : (s.issueAt core ctx paired).agenda = (s.readNamed core ctx paired).agenda := rfl
@[simp] theorem State.issueAt_time (s : State) (core ctx : Nat) (paired : Bool) : (s.issueAt core ctx paired).time = (s.readNamed core ctx paired).time := rfl
@[simp] theorem State.issueAt_tick (s : State) (core ctx : Nat) (paired : Bool) : (s.issueAt core ctx paired).tick = (s.readNamed core ctx paired).tick := rfl
@[simp] theorem State.issueAt_herds (s : State) (core ctx : Nat) (paired : Bool) : (s.issueAt core ctx paired).herds = (s.readNamed core ctx paired).herds := rfl
@[simp] theorem State.issueAt_sets (s : State) (core ctx : Nat) (paired : Bool) : (s.issueAt core ctx paired).sets = (s.readNamed core ctx paired).sets := rfl
@[simp] theorem State.issueAt_mem (s : State) (core ctx : Nat) (paired : Bool) : (s.issueAt core ctx paired).mem = (s.readNamed core ctx paired).mem := rfl
@[simp] theorem State.issueAt_launch (s : State) (core ctx : Nat) (paired : Bool) : (s.issueAt core ctx paired).launch = (s.readNamed core ctx paired).launch := rfl
@[simp] theorem State.issueAt_fault (s : State) (core ctx : Nat) (paired : Bool) : (s.issueAt core ctx paired).fault = (s.readNamed core ctx paired).fault := rfl
@[simp] theorem State.issueAt_fabric (s : State) (core ctx : Nat) (paired : Bool) : (s.issueAt core ctx paired).fabric = (s.readNamed core ctx paired).fabric := rfl
@[simp] theorem State.issueAt_dev (s : State) (core ctx : Nat) (paired : Bool) : (s.issueAt core ctx paired).dev = (s.readNamed core ctx paired).dev := rfl

-- State.onAWord

@[simp] theorem State.onAWord_act (s : State) : (s.onAWord).act = s.act := rfl
@[simp] theorem State.onAWord_agenda (s : State) : (s.onAWord).agenda = s.agenda := rfl
@[simp] theorem State.onAWord_time (s : State) : (s.onAWord).time = s.time := rfl
@[simp] theorem State.onAWord_tick (s : State) : (s.onAWord).tick = s.tick := rfl
@[simp] theorem State.onAWord_herds (s : State) : (s.onAWord).herds = s.herds := rfl
@[simp] theorem State.onAWord_sets (s : State) : (s.onAWord).sets = s.sets := rfl
@[simp] theorem State.onAWord_mem (s : State) : (s.onAWord).mem = s.mem := rfl
@[simp] theorem State.onAWord_launch (s : State) : (s.onAWord).launch = s.launch := rfl
@[simp] theorem State.onAWord_fault (s : State) : (s.onAWord).fault = s.fault := rfl
@[simp] theorem State.onAWord_fabric (s : State) : (s.onAWord).fabric = s.fabric := rfl
@[simp] theorem State.onAWord_dev (s : State) : (s.onAWord).dev = s.dev := rfl

-- State.onMWord

@[simp] theorem State.onMWord_act (s : State) : (s.onMWord).act = s.act := rfl
@[simp] theorem State.onMWord_agenda (s : State) : (s.onMWord).agenda = s.agenda := rfl
@[simp] theorem State.onMWord_time (s : State) : (s.onMWord).time = s.time := rfl
@[simp] theorem State.onMWord_tick (s : State) : (s.onMWord).tick = s.tick := rfl
@[simp] theorem State.onMWord_herds (s : State) : (s.onMWord).herds = s.herds := rfl
@[simp] theorem State.onMWord_sets (s : State) : (s.onMWord).sets = s.sets := rfl
@[simp] theorem State.onMWord_mem (s : State) : (s.onMWord).mem = s.mem := rfl
@[simp] theorem State.onMWord_launch (s : State) : (s.onMWord).launch = s.launch := rfl
@[simp] theorem State.onMWord_fault (s : State) : (s.onMWord).fault = s.fault := rfl
@[simp] theorem State.onMWord_fabric (s : State) : (s.onMWord).fabric = s.fabric := rfl
@[simp] theorem State.onMWord_dev (s : State) : (s.onMWord).dev = s.dev := rfl

-- State.onSite

@[simp] theorem State.onSite_act (s : State) (n : Nat) (f : Site → Site) : (s.onSite n f).act = s.act := rfl
@[simp] theorem State.onSite_agenda (s : State) (n : Nat) (f : Site → Site) : (s.onSite n f).agenda = s.agenda := rfl
@[simp] theorem State.onSite_time (s : State) (n : Nat) (f : Site → Site) : (s.onSite n f).time = s.time := rfl
@[simp] theorem State.onSite_tick (s : State) (n : Nat) (f : Site → Site) : (s.onSite n f).tick = s.tick := rfl
@[simp] theorem State.onSite_cores (s : State) (n : Nat) (f : Site → Site) : (s.onSite n f).cores = s.cores := rfl
@[simp] theorem State.onSite_herds (s : State) (n : Nat) (f : Site → Site) : (s.onSite n f).herds = s.herds := rfl
@[simp] theorem State.onSite_sets (s : State) (n : Nat) (f : Site → Site) : (s.onSite n f).sets = s.sets := rfl
@[simp] theorem State.onSite_mem (s : State) (n : Nat) (f : Site → Site) : (s.onSite n f).mem = s.mem := rfl
@[simp] theorem State.onSite_launch (s : State) (n : Nat) (f : Site → Site) : (s.onSite n f).launch = s.launch := rfl
@[simp] theorem State.onSite_fault (s : State) (n : Nat) (f : Site → Site) : (s.onSite n f).fault = s.fault := rfl
@[simp] theorem State.onSite_dev (s : State) (n : Nat) (f : Site → Site) : (s.onSite n f).dev = s.dev := rfl

@[simp] theorem State.actAs_act (s : State) (core ctx site : Nat) (args : List Nat) :
    (s.actAs core ctx site args).act = { core := core, ctx := ctx, site := site, args := args } := rfl

end Sys2Proof.Machine
end

