-- ==== Sys2Proof/Laws/Tables.lean ====
section
/-!
SUPPORT. Sparse tables: a read after a write; and what reading a core, a context and the acting context gives after one
was replaced.
-/

namespace Sys2Proof.Machine

@[simp] theorem mget_mset_same {α : Type} (d x : α) (m : Map α) (k : Nat) : mget d (mset m k x) k = x := by
  induction m with
  | nil => simp [mset, mget]
  | cons e m ih =>
    obtain ⟨j, y⟩ := e
    unfold mset
    split
    · simp [mget]
    · split
      · simp [mget]
      · simp [mget, *]

theorem mget_mset_other {α : Type} (d x : α) (m : Map α) {j k : Nat} (h : j ≠ k) : mget d (mset m k x) j = mget d m j := by
  induction m with
  | nil => simp [mset, mget, Ne.symm h]
  | cons e m ih =>
    obtain ⟨i, y⟩ := e
    unfold mset
    split
    · rename_i hi; subst hi; simp [mget, Ne.symm h]
    · split
      · simp [mget, Ne.symm h]
      · simp [mget, ih]

@[simp] theorem mfind_mset_same {α : Type} (x : α) (m : Map α) (k : Nat) : mfind (mset m k x) k = some x := by
  induction m with
  | nil => simp [mset, mfind]
  | cons e m ih =>
    obtain ⟨j, y⟩ := e
    unfold mset
    split
    · simp [mfind]
    · split
      · simp [mfind]
      · simp [mfind, *]

theorem mfind_mset_other {α : Type} (x : α) (m : Map α) {j k : Nat} (h : j ≠ k) : mfind (mset m k x) j = mfind m j := by
  induction m with
  | nil => simp [mset, mfind, Ne.symm h]
  | cons e m ih =>
    obtain ⟨i, y⟩ := e
    unfold mset
    split
    · rename_i hi; subst hi; simp [mfind, Ne.symm h]
    · split
      · simp [mfind, Ne.symm h]
      · simp [mfind, ih]

theorem mfind_mdel_same {α : Type} (m : Map α) (k : Nat) : mfind (mdel m k) k = none := by
  unfold mdel
  induction m with
  | nil => rfl
  | cons e m ih =>
    obtain ⟨j, y⟩ := e
    by_cases h : j = k <;> simp [mfind, h, ih]

@[simp] theorem State.core_setCore (s : State) (n : Nat) (x : Core) : (s.setCore n x).core n = x := mget_mset_same _ _ _ _
theorem State.core_setCore_other (s : State) (x : Core) {m n : Nat} (h : m ≠ n) : (s.setCore n x).core m = s.core m :=
  mget_mset_other _ _ _ h
@[simp] theorem State.core_onCore (s : State) (n : Nat) (f : Core → Core) : (s.onCore n f).core n = f (s.core n) := by
  simp [State.onCore]
@[simp] theorem State.ctxOf_setCtx (s : State) (n k : Nat) (x : Context) : (s.setCtx n k x).ctxOf n k = x := by
  simp [State.setCtx, State.ctxOf]
theorem State.ctxOf_setCtx_other (s : State) (x : Context) {n m j k : Nat} (h : m ≠ n ∨ j ≠ k) :
    (s.setCtx n k x).ctxOf m j = s.ctxOf m j := by
  unfold State.setCtx State.ctxOf State.onCore
  by_cases hm : m = n
  · subst hm
    simp only [State.core_setCore]
    exact mget_mset_other _ _ _ (h.resolve_left (fun c => c rfl))
  · rw [State.core_setCore_other _ _ hm]
@[simp] theorem State.me_setMe (s : State) (x : Context) : (s.setMe x).me = x := by
  simp [State.setMe, State.me]
@[simp] theorem State.me_onMe (s : State) (f : Context → Context) : (s.onMe f).me = f s.me := by
  simp [State.onMe]
@[simp] theorem State.me_short (s : State) (f : Regs → Regs) : (s.short f).me = { s.me with work := f s.me.work } := by
  simp [State.short]
@[simp] theorem State.me_long (s : State) (ws : List RegWrite) : (s.long ws).me = { s.me with outst := s.me.outst ++ [ws] } := by
  simp [State.long]
/-- A short result changes nothing but the acting context (R43, R145). -/
theorem State.short_eq (s : State) (f : Regs → Regs) : s.short f = s.setMe { s.me with work := f s.me.work } := rfl
/-- A long result changes nothing but the acting context (R42, R145). -/
theorem State.long_eq (s : State) (ws : List RegWrite) : s.long ws = s.setMe { s.me with outst := s.me.outst ++ [ws] } := rfl

-- Registers (R34, R35)

@[simp] theorem Regs.getG_zero (r : Regs) : r.getG 0 = {} := rfl
@[simp] theorem Regs.setG_zero (r : Regs) (x : Tagged) : r.setG 0 x = r := rfl
theorem Regs.getG_setG_same (r : Regs) {n : Nat} (h : n ≠ 0) (x : Tagged) : (r.setG n x).getG n = x := by
  simp [Regs.getG, Regs.setG, h]
theorem Regs.getG_setG_other (r : Regs) (x : Tagged) {m n : Nat} (h : m ≠ n) : (r.setG n x).getG m = r.getG m := by
  unfold Regs.getG Regs.setG
  by_cases hn : n = 0
  · simp [hn]
  · simp [hn, mget_mset_other _ _ _ h]
@[simp] theorem Regs.setG_p (r : Regs) (n : Nat) (x : Tagged) : (r.setG n x).p = r.p := by
  unfold Regs.setG; split <;> rfl
@[simp] theorem Regs.setG_v (r : Regs) (n : Nat) (x : Tagged) : (r.setG n x).v = r.v := by
  unfold Regs.setG; split <;> rfl
@[simp] theorem Regs.setG_k (r : Regs) (n : Nat) (x : Tagged) : (r.setG n x).k = r.k := by
  unfold Regs.setG; split <;> rfl
@[simp] theorem Regs.setG_fcsr (r : Regs) (n : Nat) (x : Tagged) : (r.setG n x).fcsr = r.fcsr := by
  unfold Regs.setG; split <;> rfl
@[simp] theorem Regs.getP_zero (r : Regs) : r.getP 0 = true := rfl
@[simp] theorem Regs.setP_zero (r : Regs) (b : Bool) : r.setP 0 b = r := rfl

end Sys2Proof.Machine
end

