-- ==== Sys2Proof/Laws/Memory.lean ====
section
/-!
SUPPORT. Memory: a read after a write, and that every operation on it keeps the canonical form.
-/

namespace Sys2Proof.Machine

theorem memGet_memPut_same (m : Memory) (a : Nat) (b : Byte) (h : Memory.wf m = true) : memGet (memPut m a b) a = b := by
  induction m with
  | nil => unfold memPut; split <;> simp_all [memGet]
  | cons e m ih =>
    obtain ⟨j, y⟩ := e
    simp only [Memory.wf, Bool.and_eq_true, decide_eq_true_eq, List.pairwise_cons, List.all_cons] at h
    have hm : Memory.wf m = true := by simp [Memory.wf, h.1.2, h.2.2]
    have low : ∀ (l : Memory), (∀ c ∈ l, a < c.1) → memGet l a = Memory.background a := by
      intro l
      induction l with
      | nil => intro _; rfl
      | cons c l ihl =>
        intro hl
        have h1 : ¬ c.1 = a := Nat.ne_of_gt (hl c (by simp))
        obtain ⟨j, y⟩ := c
        simp only [memGet]
        rw [if_neg h1]
        exact ihl (fun c hc => hl c (by simp [hc]))
    unfold memPut
    split
    · rename_i hj
      split
      · rename_i hb
        rw [hb]
        exact low m (fun c hc => by have := h.1.1 c hc; omega)
      · simp [memGet]
    · split
      · split
        · rename_i hb
          rw [hb]
          refine low _ (fun c hc => ?_)
          rcases List.mem_cons.mp hc with rfl | hc
          · assumption
          · have := h.1.1 c hc
            omega
        · simp [memGet]
      · simp [memGet, ih hm, *]

theorem memGet_memPut_other (m : Memory) {a x : Nat} (b : Byte) (h : x ≠ a) : memGet (memPut m a b) x = memGet m x := by
  induction m with
  | nil => unfold memPut; split <;> simp [memGet, Ne.symm h]
  | cons e m ih =>
    obtain ⟨j, y⟩ := e
    unfold memPut
    split
    · rename_i hj; subst hj
      split <;> simp [memGet, Ne.symm h]
    · split
      · split <;> simp [memGet, Ne.symm h]
      · simp [memGet, ih]

/-- Every entry of the memory after a byte was written was there before, or is the written one. -/
theorem mem_memPut (m : Memory) (a : Nat) (b : Byte) (c : Host.Cell) (h : c ∈ memPut m a b) : c ∈ m ∨ c = (a, b) := by
  induction m with
  | nil =>
    unfold memPut at h
    split at h
    · simp at h
    · simp at h; exact Or.inr h
  | cons e m ih =>
    obtain ⟨j, y⟩ := e
    unfold memPut at h
    split at h
    · split at h
      · exact Or.inl (by simp [h])
      · rcases List.mem_cons.mp h with h | h
        · exact Or.inr h
        · exact Or.inl (by simp [h])
    · split at h
      · split at h
        · exact Or.inl h
        · rcases List.mem_cons.mp h with h | h
          · exact Or.inr h
          · exact Or.inl h
      · rcases List.mem_cons.mp h with h | h
        · exact Or.inl (by simp [h])
        · rcases ih h with h | h
          · exact Or.inl (by simp [h])
          · exact Or.inr h

theorem memPut_wf (m : Memory) (a : Nat) (b : Byte) (h : Memory.wf m = true) : Memory.wf (memPut m a b) = true := by
  induction m with
  | nil => unfold memPut; split <;> simp_all [Memory.wf]
  | cons e m ih =>
    obtain ⟨j, y⟩ := e
    simp only [Memory.wf, Bool.and_eq_true, decide_eq_true_eq, List.pairwise_cons, List.all_cons] at h
    have hm : Memory.wf m = true := by simp [Memory.wf, h.1.2, h.2.2]
    unfold memPut
    split
    · rename_i hj; subst hj
      split
      · exact hm
      · rename_i hb
        simp only [Memory.wf, Bool.and_eq_true, decide_eq_true_eq, List.pairwise_cons, List.all_cons]
        exact ⟨h.1, by simpa using hb, h.2.2⟩
    · split
      · split
        · simp only [Memory.wf, Bool.and_eq_true, decide_eq_true_eq, List.pairwise_cons, List.all_cons]
          exact h
        · rename_i hlt hb
          simp only [Memory.wf, Bool.and_eq_true, decide_eq_true_eq, List.pairwise_cons, List.all_cons]
          refine ⟨⟨fun c hc => ?_, h.1⟩, by simpa using hb, h.2⟩
          rcases List.mem_cons.mp hc with rfl | hc
          · exact hlt
          · have := h.1.1 c hc
            omega
      · rename_i hne hge
        have hp := ih hm
        simp only [Memory.wf, Bool.and_eq_true, decide_eq_true_eq] at hp
        simp only [Memory.wf, Bool.and_eq_true, decide_eq_true_eq, List.pairwise_cons, List.all_cons]
        refine ⟨⟨fun c hc => ?_, hp.1⟩, h.2.1, hp.2⟩
        rcases mem_memPut m a b c hc with hc | rfl
        · exact h.1.1 c hc
        · simp only
          omega

theorem memPutAll_wf (bs : List Byte) : ∀ (m : Memory) (a : Nat), Memory.wf m = true → Memory.wf (memPutAll m a bs) = true := by
  induction bs with
  | nil => intro m a h; exact h
  | cons b bs ih => intro m a h; exact ih _ _ (memPut_wf m a b h)

theorem filter_wf (p : Host.Cell → Bool) (m : Memory) (h : Memory.wf m = true) : Memory.wf (m.filter p) = true := by
  simp only [Memory.wf, Bool.and_eq_true, decide_eq_true_eq, List.all_eq_true] at h ⊢
  exact ⟨h.1.filter _, fun x hx => h.2 x (List.mem_filter.mp hx).1⟩

/-- The memory of a state is in canonical form. -/
def State.memWf (s : State) : Prop := Memory.wf s.mem.bytes = true

theorem State.putByte_memWf (s : State) (a : Nat) (b : Byte) (h : s.memWf) : (s.putByte a b).memWf := by
  unfold State.putByte
  dsimp only
  split <;> exact memPut_wf _ _ _ h

theorem State.putBytes_memWf (bs : List Byte) : ∀ (s : State) (a : Nat), s.memWf → (s.putBytes a bs).memWf := by
  induction bs with
  | nil => intro s a h; exact h
  | cons b bs ih => intro s a h; exact ih _ _ (s.putByte_memWf a b h)

theorem State.corrected_bytes (s : State) (d u : Nat) (a : Word) : (s.corrected d u a).mem = s.mem := rfl

theorem State.readArray_bytes (s : State) (a u w : Nat) (addr : Word) : (s.readArray a u w addr).1.mem.bytes = s.mem.bytes := by
  unfold State.readArray
  split
  · rfl
  · dsimp only
    split <;> rfl

theorem State.poisonWord_memWf (s : State) (w : Nat) (e : Word) (h : s.memWf) : (s.poisonWord w e).memWf := memPutAll_wf _ _ _ h

theorem State.detectHome_memWf (s : State) (w : Nat) (h : s.memWf) : (s.detectHome w).memWf := by
  unfold State.detectHome
  split
  · exact h
  · have hr : (s.readArray 0x0D (s.homeSlice w) w (BitVec.ofNat 64 (8 * w))).1.memWf := by
      unfold State.memWf
      rw [State.readArray_bytes]
      exact h
    dsimp only
    split
    · exact State.poisonWord_memWf _ _ _ hr
    · exact hr

theorem State.detectStored_memWf (s : State) (w : Nat) (h : s.memWf) : (s.detectStored w).memWf := by
  unfold State.detectStored
  dsimp only
  split
  · exact h
  · split
    · exact memPutAll_wf _ _ _ h
    · exact h

theorem State.detect_memWf (s : State) (w : Nat) (h : s.memWf) : (s.detect w).memWf :=
  State.detectStored_memWf _ w (s.detectHome_memWf w h)

theorem State.detectAll_memWf (ws : List Nat) : ∀ (s : State), s.memWf → (s.detectAll ws).memWf := by
  induction ws with
  | nil => intro s h; exact h
  | cons w ws ih => intro s h; exact ih _ (s.detect_memWf w h)

theorem State.checkTile_memWf (s : State) (t : Nat) (h : s.memWf) : (s.checkTile t).1.memWf := by
  unfold State.checkTile
  split
  · exact h
  · dsimp only
    split
    · exact h
    · split
      · exact memPutAll_wf _ _ _ h
      · exact h
    · exact h
    · exact h
    · exact h

theorem State.checkRows_memWf (s : State) (t r0 r1 : Nat) (h : s.memWf) : (s.checkRows t r0 r1).1.memWf := by
  unfold State.checkRows
  split
  · exact h
  · split
    · exact h
    · exact s.checkTile_memWf t h

theorem State.homeWrite_memWf (s : State) (x : WordWrite) (h : s.memWf) : (s.homeWrite x).memWf := by
  have hs : ∀ (c : Bool), (if c = true then { s with mem := { s.mem with
        latent := mdel s.mem.latent x.word
        errs := s.mem.errs.filter (fun e => !(e.array == 0x0D && e.word == x.word)) } }
      else s.detect x.word : State).memWf := by
    intro c
    cases c
    · exact s.detect_memWf _ h
    · exact h
  unfold State.homeWrite State.memWf
  dsimp only
  generalize bytesLE 8 _ = bs
  have hp := State.putBytes_memWf bs _ (8 * x.word) (hs (x.mask == 0xFF))
  unfold State.memWf at hp
  exact hp

theorem State.homeWrites_memWf (xs : List WordWrite) (s : State) (h : s.memWf) : (s.homeWrites xs).memWf := by
  unfold State.homeWrites
  induction xs generalizing s with
  | nil => exact h
  | cons x xs ih =>
    rw [List.foldl_cons]
    exact ih _ (s.homeWrite_memWf x h)

theorem State.reset_memWf : State.reset.memWf := rfl

end Sys2Proof.Machine
end

