-- ==== Sys2Proof/WellFormed.lean ====
section
/-!
DEFINITION. The well-formed steps: the limits that an encoding puts on the fields of a constructor (R52, R57, R59,
R61, R65, R70, R227..R240).
-/

namespace Sys2Proof

/-- Two formats name a conversion of fcvt (R61). -/
def cvtOk (t f : CvtFmt) : Bool := t != f && !(t.isInt && f.isInt)

/-- The limits on the fields of a step. -/
def Instr.wellFormed (i : Instr) : Bool :=
  match i with
  | .amoD op _ _ _ _ => decide (op.code.toNat < 9)
  | .pub sc _ => sc != .core
  | .b p n _ => !(p == 0 && n)
  | .send d _ n1 _ => decide (d.toNat + n1.toNat ≤ 63)
  | .recv d a _ => decide (d.toNat + 7 ≤ 63) && !(decide (d.toNat ≤ a.toNat) && decide (a.toNat ≤ d.toNat + 7))
  | .recvNb d a _ _ => decide (d.toNat + 7 ≤ 63) && !(decide (d.toNat ≤ a.toNat) && decide (a.toNat ≤ d.toNat + 7))
  | .waitev d => decide (d.toNat + 3 ≤ 63)
  | .waitevNb d _ => decide (d.toNat + 3 ≤ 63)
  | .sleep mask => mask != 0
  | .joinNew pool bound _ _ _ => pool || bound
  | .rjtake d _ _ => decide (d.toNat + 1 ≤ 63)
  | .reply d n1 => decide (d.toNat + n1.toNat ≤ 63)
  | .sllwi _ _ n => decide (n.toNat < 32)
  | .srlwi _ _ n => decide (n.toNat < 32)
  | .srawi _ _ n => decide (n.toNat < 32)
  | .bfx _ _ lsb width1 => decide (lsb.toNat + width1.toNat + 1 ≤ 64)
  | .bfi _ _ lsb width1 => decide (lsb.toNat + width1.toNat + 1 ≤ 64)
  | .fcvt dst src _ _ => cvtOk dst src
  | .vminu t _ _ _ _ | .vmaxu t _ _ _ _ | .vadds t _ _ _ _ | .vsubs t _ _ _ _ | .vaddus t _ _ _ _
  | .vsubus t _ _ _ _ | .vavg t _ _ _ _ | .vmulh t _ _ _ _ | .vand t _ _ _ _ | .vor t _ _ _ _
  | .vxor t _ _ _ _ | .vandn t _ _ _ _ | .vshl t _ _ _ _ | .vshr t _ _ _ _ | .vsar t _ _ _ _ => t.isInt
  | .vdiv t _ _ _ _ => !t.isInt
  | .vrcp t _ _ _ | .vrsq t _ _ _ | .vsqrt t _ _ _ | .vexp2 t _ _ _ | .vlog2 t _ _ _ | .vtanh t _ _ _ => !t.isInt
  | .vpopc t _ _ _ | .vclz t _ _ _ => t.isInt
  | .vfma f t _ _ _ _ => f.takes t
  | .vcmp c any t _ _ _ _ => c.isInt == t.isInt && !(t.width == 32 && any)
  | .vcvt dst src _ _ part _ => dst != src && decide (part.toNat < dst.ratio src)
  | .vqnt _ t _ _ vb => !t.isInt && (t == .f32 || vb == 0)
  | .vdq _ t part _ _ _ => !t.isInt && (t == .f32 || !part)
  | .vred f t _ _ _ => f.isInt == t.isInt
  | .vscan f t _ _ _ => f.isInt == t.isInt
  | .vshuf kind sh _ _ _ vb _ => (kind == .rotl || sh == 0) && (!kind.unary || vb == 0)
  | .vbcast t _ _ idx _ => decide (idx.toNat < t.count)
  | .vmovg t zext _ _ idx => decide (idx.toNat < t.count) && (t.isInt || !zext)
  | .vins t _ _ idx => decide (idx.toNat < t.count)
  | .emitLd _ _ sz _ => sz != 7
  | .emitSt _ _ sz _ => sz != 7
  | .emitGth _ _ sz _ _ => sz != 7
  | .emitSct _ _ sz _ _ => sz != 7
  | _ => true

end Sys2Proof
end

