-- ==== Sys2Proof/Laws/PerInstr.lean ====
section
/-!
SUPPORT. One lemma per constructor of Instr: what the encoders write for a well-formed step, the decoders read back as
that step. The fields of a Glipel word are taken as its body (R46, R56); an element operation and a router operator by
their codes (R66).
-/

namespace Sys2Proof.Laws.RoundTrip

/-- The low part of a joined field. -/
theorem lo_append {m n : Nat} (x : BitVec m) (y : BitVec n) : (x ++ y).extractLsb' 0 n = y := by
  apply BitVec.eq_of_getLsbD_eq; intro i hi
  simp [BitVec.getLsbD_append, hi]
/-- The high part of a joined field. -/
theorem hi_append {m n : Nat} (x : BitVec m) (y : BitVec n) : (x ++ y).extractLsb' n m = x := by
  apply BitVec.eq_of_getLsbD_eq; intro i hi
  simp [BitVec.getLsbD_append, hi]
theorem cut9 (x : BitVec 9) : x.extractLsb' 3 6 ++ x.extractLsb' 0 3 = x := by
  rw [BitVec.extractLsb'_append_extractLsb'_eq_extractLsb' (by rfl)]; simp
theorem cut12 (x : BitVec 12) : x.extractLsb' 6 6 ++ x.extractLsb' 0 6 = x := by
  rw [BitVec.extractLsb'_append_extractLsb'_eq_extractLsb' (by rfl)]; simp
theorem cut18 (x : BitVec 18) : x.extractLsb' 12 6 ++ x.extractLsb' 6 6 ++ x.extractLsb' 0 6 = x := by
  rw [BitVec.extractLsb'_append_extractLsb'_eq_extractLsb' (by rfl), BitVec.extractLsb'_append_extractLsb'_eq_extractLsb' (by rfl)]; simp
theorem cut20 (x : BitVec 20) : x.extractLsb' 18 2 ++ x.extractLsb' 12 6 ++ x.extractLsb' 6 6 ++ x.extractLsb' 0 6 = x := by
  rw [BitVec.extractLsb'_append_extractLsb'_eq_extractLsb' (by rfl), BitVec.extractLsb'_append_extractLsb'_eq_extractLsb' (by rfl),
    BitVec.extractLsb'_append_extractLsb'_eq_extractLsb' (by rfl)]; simp

/-- The decoders read back what the encoders write. -/
def Statement (i : Instr) : Prop :=
  (i.wellFormed = true → ∀ q, encodeBody i = some q → decodeBody q.1 q.2 = .ok i) ∧
  (∀ c, encodeElement i = some c → decodeElement c = some i) ∧ (∀ c, encodeRouter i = some c → decodeRouter c = some i)

/-- The Glipel part of the statement, for a step that no plane names. -/
theorem ofBody {i : Instr} (he : encodeElement i = none) (hr : encodeRouter i = none) {q : Bool × Body}
    (hq : encodeBody i = some q) (h : i.wellFormed = true → decodeBody q.1 q.2 = .ok i) : Statement i := by
  refine ⟨fun hw x hx => ?_, fun c hc => ?_, fun c hc => ?_⟩
  · rw [hq] at hx; cases hx; exact h hw
  · rw [he] at hc; cases hc
  · rw [hr] at hc; cases hc

/-- The statement of a step that no Glipel word encodes. -/
theorem ofCodes {i : Instr} (hb : encodeBody i = none) (he : ∀ c, encodeElement i = some c → decodeElement c = some i)
    (hr : ∀ c, encodeRouter i = some c → decodeRouter c = some i) : Statement i :=
  ⟨fun _ q hq => by (rw [hb] at hq; cases hq), he, hr⟩

/-- A field that starts above the value of a widened number is clear. -/
theorem above_setWidth {w w' s n : Nat} (x : BitVec w) (h : w ≤ s) : (x.setWidth w').extractLsb' s n = 0 := by
  apply BitVec.eq_of_getLsbD_eq; intro i hi
  simp [BitVec.getLsbD_setWidth]
  intro _ _; exact BitVec.getLsbD_of_ge _ _ (by omega)
theorem pred_back (p : PredNo) : predOf (predField p) = p := by revert p; decide
theorem pred_ok (p : PredNo) : predOk (predField p) = true := by revert p; decide
theorem cut10 (x : BitVec 10) : ((x.extractLsb' 6 4).setWidth 6 ++ x.extractLsb' 0 6).extractLsb' 0 10 = x := by
  revert x; decide
theorem cut10_top (x : BitVec 10) : ((x.extractLsb' 6 4).setWidth 6 ++ x.extractLsb' 0 6).extractLsb' 10 2 = 0 := by
  revert x; decide
theorem sleep_clear (x : BitVec 4) : (0#6 ++ x.setWidth 6).extractLsb' 4 8 = 0 := by revert x; decide
theorem ty_back (t : VType) : VType.ofCode t.code = some t := by cases t <;> rfl
theorem fma_back (f : VFmaOp) : VFmaOp.ofCode f.code = some f := by cases f <;> rfl
theorem vcond_back (c : VCond) : VCond.ofCode c.code = some c := by cases c <;> rfl
theorem vfmt_back (c : VFmt) : VFmt.ofCode c.code = c := by cases c <;> rfl
theorem red_back (c : VRedOp) : VRedOp.ofCode c.code = some c := by cases c <;> rfl
theorem scan_back (c : VScanOp) : VScanOp.ofCode c.code = some c := by cases c <;> rfl
theorem shuf_back (c : VShufKind) : VShufKind.ofCode c.code = some c := by cases c <;> rfl
theorem bx_back (c : BxFmt) : BxFmt.ofCode c.code = some c := by cases c <;> rfl
theorem cond_back (c : Cond) : Cond.ofCode c.code = some c := by cases c with | int c => cases c <;> rfl | single c => cases c <;> rfl | double c => cases c <;> rfl
theorem combine_back (c : Combine) : Combine.ofCode c.code = some c := by cases c <;> rfl
theorem icond_back (c : IntCond) : IntCond.ofCode (c.code % 8) = some c := by cases c <;> rfl
theorem combine_pred (k : Combine) (p : PredNo) : predOf (k.code ++ p) = p := by cases k <;> (revert p; decide)
theorem above_self {w s n : Nat} (x : BitVec w) (h : w ≤ s) : x.extractLsb' s n = 0 := by
  apply BitVec.eq_of_getLsbD_eq; intro i hi
  simp; intro _; exact BitVec.getLsbD_of_ge _ _ (by omega)
theorem qnt_clear (f : BxFmt) : (0#1 ++ f.code.extractLsb' 0 6).extractLsb' 3 4 = 0 := by cases f <;> decide
theorem dq_clear (p : Bool) (f : BxFmt) : (0#1 ++ (BitVec.ofBool p ++ f.code).extractLsb' 0 6).extractLsb' 4 3 = 0 := by
  cases p <;> cases f <;> decide
theorem flag7_clear (t : Bool) : (0#1 ++ (BitVec.ofBool t).extractLsb' 0 6).extractLsb' 1 6 = 0 := by cases t <;> decide
theorem shuf_step (s : BitVec 4) (k : BitVec 3) : (s.extractLsb' 3 1 ++ (s ++ k).extractLsb' 0 6).extractLsb' 3 4 = s := by
  revert s k; decide
theorem nop : Statement (.nop) := by
  refine ofBody rfl rfl rfl ?_
  intro _; rfl
theorem nopA : Statement (.nopA) := by
  refine ofBody rfl rfl rfl ?_
  intro _; rfl
theorem blk (len : BitVec 6) (x sv a16 a32 : Bool) : Statement (.blk len x sv a16 a32) := by
  refine ofBody rfl rfl rfl ?_
  intro _; simp only [decodeBody, Bool.false_eq_true, if_false, decodeM, Body.off9, Body.f3]; cases x <;> cases sv <;> cases a16 <;> cases a32 <;> rfl
theorem ld (z : LoadKind) (d a : RegNo) (off : BitVec 9) : Statement (.ld z d a off) := by
  refine ofBody rfl rfl rfl ?_
  intro _; simp only [decodeBody, Bool.false_eq_true, if_false, decodeM, Body.off9, Body.f3, lo_append, hi_append, cut9]; cases z <;> rfl
theorem ldx (z : LoadKind) (d a b : RegNo) (sh : BitVec 3) : Statement (.ldx z d a b sh) := by
  refine ofBody rfl rfl rfl ?_
  intro _; simp only [decodeBody, Bool.false_eq_true, if_false, decodeM, Body.off9, Body.f3, lo_append, hi_append]; cases z <;> rfl
theorem st (z : StoreKind) (d a : RegNo) (off : BitVec 9) : Statement (.st z d a off) := by
  refine ofBody rfl rfl rfl ?_
  intro _; simp only [decodeBody, Bool.false_eq_true, if_false, decodeM, Body.off9, Body.f3, lo_append, hi_append, cut9]; cases z <;> rfl
theorem stx (z : StoreKind) (d a b : RegNo) (sh : BitVec 3) : Statement (.stx z d a b sh) := by
  refine ofBody rfl rfl rfl ?_
  intro _; simp only [decodeBody, Bool.false_eq_true, if_false, decodeM, Body.off9, Body.f3, lo_append, hi_append]; cases z <;> rfl
theorem lda (z : WordKind) (sc : Scope) (d a : RegNo) (off : BitVec 9) : Statement (.lda z sc d a off) := by
  refine ofBody rfl rfl rfl ?_
  intro _; simp only [decodeBody, Bool.false_eq_true, if_false, decodeM, Body.off9, Body.f3, lo_append, hi_append, cut9]; cases z <;> cases sc <;> rfl
theorem stl (z : WordKind) (sc : Scope) (d a : RegNo) (off : BitVec 9) : Statement (.stl z sc d a off) := by
  refine ofBody rfl rfl rfl ?_
  intro _; simp only [decodeBody, Bool.false_eq_true, if_false, decodeM, Body.off9, Body.f3, lo_append, hi_append, cut9]; cases z <;> cases sc <;> rfl
theorem ldref (o : Ord) (d a : RegNo) (off : BitVec 9) : Statement (.ldref o d a off) := by
  refine ofBody rfl rfl rfl ?_
  intro _; simp only [decodeBody, Bool.false_eq_true, if_false, decodeM, Body.off9, Body.f3, lo_append, hi_append, cut9]; cases o <;> rfl
theorem stref (o : Ord) (d a : RegNo) (off : BitVec 9) : Statement (.stref o d a off) := by
  refine ofBody rfl rfl rfl ?_
  intro _; simp only [decodeBody, Bool.false_eq_true, if_false, decodeM, Body.off9, Body.f3, lo_append, hi_append, cut9]; cases o <;> rfl
theorem amoW (op : AmoOp) (o : Ord) (d a b : RegNo) : Statement (.amoW op o d a b) := by
  refine ofBody rfl rfl rfl ?_
  intro _; simp only [decodeBody, Bool.false_eq_true, if_false, decodeM, Body.off9, Body.f3, lo_append, hi_append]; cases op <;> cases o <;> rfl
theorem amoD (op : AmoOp) (o : Ord) (d a b : RegNo) : Statement (.amoD op o d a b) := by
  refine ofBody rfl rfl rfl ?_
  intro h; simp [decodeBody, decodeM, accept, acceptFn]; cases op <;> cases o <;> first | (cases h; done) | rfl
theorem casW (d a b c : RegNo) : Statement (.casW d a b c) := by
  refine ofBody rfl rfl rfl ?_
  intro _; rfl
theorem casD (d a b c : RegNo) : Statement (.casD d a b c) := by
  refine ofBody rfl rfl rfl ?_
  intro _; rfl
theorem fenceFull (sc : Scope) : Statement (.fenceFull sc) := by
  refine ofBody rfl rfl rfl ?_
  intro _; cases sc <;> rfl
theorem fenceRel (sc : Scope) : Statement (.fenceRel sc) := by
  refine ofBody rfl rfl rfl ?_
  intro _; cases sc <;> rfl
theorem fenceAcq (sc : Scope) : Statement (.fenceAcq sc) := by
  refine ofBody rfl rfl rfl ?_
  intro _; cases sc <;> rfl
theorem fenceEng (sc : Scope) : Statement (.fenceEng sc) := by
  refine ofBody rfl rfl rfl ?_
  intro _; cases sc <;> rfl
theorem pub (sc : Scope) (a : RegNo) : Statement (.pub sc a) := by
  refine ofBody rfl rfl rfl ?_
  intro h; cases sc <;> first | (cases h; done) | simp [decodeBody, decodeM, accept, Body.imm12, Scope.code, Scope.ofCode]
theorem mkobj (k : ObjKind) (d a b : RegNo) : Statement (.mkobj k d a b) := by
  refine ofBody rfl rfl rfl ?_
  intro h; cases k <;> simp [decodeBody, decodeM, accept, acceptFn, ObjKind.code, ObjKind.ofCode]
theorem b (p : PredNo) (n : Bool) (off : BitVec 20) : Statement (.b p n off) := by
  refine ofBody rfl rfl rfl ?_
  intro h; simp [Instr.wellFormed] at h; simp +contextual [-Nat.reduceAdd, -BitVec.reduceAppend, -BitVec.getLsbD_eq_getElem, BitVec.getLsbD_append, decodeBody, decodeM, accept, hi_append, cut20, Body.off20, Body.brP, Body.brN, BitVec.extractLsb'_append_eq_of_add_le, BitVec.extractLsb'_append_eq_of_le, h]
theorem call (off : BitVec 20) : Statement (.call off) := by
  refine ofBody rfl rfl rfl ?_
  intro h; simp [Instr.wellFormed] at h; simp +contextual [-Nat.reduceAdd, -BitVec.reduceAppend, -BitVec.getLsbD_eq_getElem, BitVec.getLsbD_append, decodeBody, decodeM, accept, cut20, Body.off20, Body.brP, Body.brN, BitVec.extractLsb'_append_eq_of_add_le, BitVec.extractLsb'_append_eq_of_le]
theorem jr (a : RegNo) : Statement (.jr a) := by
  refine ofBody rfl rfl rfl ?_
  intro _; rfl
theorem callr (a : RegNo) : Statement (.callr a) := by
  refine ofBody rfl rfl rfl ?_
  intro _; rfl
theorem ret : Statement (.ret) := by
  refine ofBody rfl rfl rfl ?_
  intro _; rfl
theorem cflush (a b : RegNo) : Statement (.cflush a b) := by
  refine ofBody rfl rfl rfl ?_
  intro h; simp [decodeBody, decodeM, accept]
theorem cflushInv (a b : RegNo) : Statement (.cflushInv a b) := by
  refine ofBody rfl rfl rfl ?_
  intro h; simp [decodeBody, decodeM, accept]
theorem vld (z : Bool) (vd : BitVec 4) (k : BitVec 2) (a : RegNo) (off : BitVec 9) : Statement (.vld z vd k a off) := by
  refine ofBody rfl rfl rfl ?_
  intro h; simp [Instr.wellFormed] at h; simp +contextual [above_self, -Nat.reduceAdd, -BitVec.reduceAppend, -BitVec.getLsbD_eq_getElem, decodeBody, decodeM, accept, hi_append, Body.off9, Body.f3, vmField, BitVec.extractLsb'_append_eq_of_add_le, BitVec.extractLsb'_setWidth_of_le]
theorem vst (vd : BitVec 4) (k : BitVec 2) (a : RegNo) (off : BitVec 9) : Statement (.vst vd k a off) := by
  refine ofBody rfl rfl rfl ?_
  intro h; simp [Instr.wellFormed] at h; simp +contextual [-Nat.reduceAdd, -BitVec.reduceAppend, -BitVec.getLsbD_eq_getElem, decodeBody, decodeM, accept, hi_append, Body.off9, Body.f3, vmField, BitVec.extractLsb'_append_eq_of_add_le]
theorem vlds (z : Bool) (vd : BitVec 4) (k : BitVec 2) (a b : RegNo) : Statement (.vlds z vd k a b) := by
  refine ofBody rfl rfl rfl ?_
  intro h; simp [Instr.wellFormed] at h; simp +contextual [-Nat.reduceAdd, -BitVec.reduceAppend, -BitVec.getLsbD_eq_getElem, BitVec.getLsbD_setWidth, decodeBody, decodeM, accept, hi_append, above_setWidth, vmField, BitVec.extractLsb'_append_eq_of_add_le]
theorem vgth (z : Bool) (vd : BitVec 4) (k : BitVec 2) (a : RegNo) (vb : BitVec 4) (sh : BitVec 3) : Statement (.vgth z vd k a vb sh) := by
  refine ofBody rfl rfl rfl ?_
  intro h; simp [Instr.wellFormed] at h; simp +contextual [-Nat.reduceAdd, -BitVec.reduceAppend, -BitVec.getLsbD_eq_getElem, BitVec.getLsbD_append, BitVec.getLsbD_setWidth, decodeBody, decodeM, accept, hi_append, above_setWidth, vmField, BitVec.extractLsb'_append_eq_of_add_le, BitVec.extractLsb'_setWidth_of_le]
theorem vsct (vd : BitVec 4) (k : BitVec 2) (a : RegNo) (vb : BitVec 4) (sh : BitVec 3) : Statement (.vsct vd k a vb sh) := by
  refine ofBody rfl rfl rfl ?_
  intro h; simp [Instr.wellFormed] at h; simp +contextual [-Nat.reduceAdd, -BitVec.reduceAppend, -BitVec.getLsbD_eq_getElem, decodeBody, decodeM, accept, hi_append, above_setWidth, vmField, BitVec.extractLsb'_append_eq_of_add_le, BitVec.extractLsb'_setWidth_of_le]
theorem send (d a : RegNo) (n1 : BitVec 3) (pri : BitVec 2) : Statement (.send d a n1 pri) := by
  refine ofBody rfl rfl rfl ?_
  intro h; simp [Instr.wellFormed] at h; simp +contextual [-Nat.reduceAdd, -BitVec.reduceAppend, -BitVec.getLsbD_eq_getElem, BitVec.getLsbD_append, decodeBody, decodeM, accept, BitVec.extractLsb'_append_eq_of_add_le, BitVec.extractLsb'_append_eq_of_le, h]
theorem recv (d a : RegNo) (ring : BitVec 2) : Statement (.recv d a ring) := by
  refine ofBody rfl rfl rfl ?_
  intro h; simp [Instr.wellFormed] at h; simp [decodeBody, decodeM, accept, above_setWidth, BitVec.extractLsb'_setWidth_of_le, BitVec.getElem_setWidth]; omega
theorem recvNb (d a : RegNo) (ring : BitVec 2) (p : PredNo) : Statement (.recvNb d a ring p) := by
  refine ofBody rfl rfl rfl ?_
  intro h; simp [Instr.wellFormed] at h; simp +contextual [-Nat.reduceAdd, -BitVec.reduceAppend, -BitVec.getLsbD_eq_getElem, BitVec.getLsbD_append, decodeBody, decodeM, accept, pred_back, pred_ok, BitVec.extractLsb'_append_eq_of_add_le, BitVec.extractLsb'_append_eq_of_le, h]
theorem mbind (a : RegNo) (ring pri : BitVec 2) : Statement (.mbind a ring pri) := by
  refine ofBody rfl rfl rfl ?_
  intro h; simp [Instr.wellFormed] at h; simp +contextual [-Nat.reduceAdd, -BitVec.reduceAppend, -BitVec.getLsbD_eq_getElem, decodeBody, decodeM, accept, hi_append, BitVec.extractLsb'_append_eq_of_add_le, BitVec.extractLsb'_append_eq_of_le]
theorem rqput (a : RegNo) (pri : BitVec 2) (p : PredNo) : Statement (.rqput a pri p) := by
  refine ofBody rfl rfl rfl ?_
  intro h; simp [decodeBody, decodeM, accept, pred_back, pred_ok, above_setWidth, BitVec.extractLsb'_setWidth_of_le]
theorem rqtake (d : RegNo) (pri : BitVec 2) (p : PredNo) : Statement (.rqtake d pri p) := by
  refine ofBody rfl rfl rfl ?_
  intro h; simp [decodeBody, decodeM, accept, pred_back, pred_ok, above_setWidth, BitVec.extractLsb'_setWidth_of_le]
theorem waitev (d : RegNo) : Statement (.waitev d) := by
  refine ofBody rfl rfl rfl ?_
  intro h; simp [Instr.wellFormed] at h; simp [decodeBody, decodeM, accept]; omega
theorem waitevNb (d : RegNo) (p : PredNo) : Statement (.waitevNb d p) := by
  refine ofBody rfl rfl rfl ?_
  intro h; simp [Instr.wellFormed] at h; simp [decodeBody, decodeM, accept, pred_back, pred_ok]; omega
theorem sleep (mask : BitVec 4) : Statement (.sleep mask) := by
  refine ofBody rfl rfl rfl ?_
  intro h; simp [Instr.wellFormed] at h; simp +contextual [-Nat.reduceAdd, -BitVec.reduceAppend, -BitVec.getLsbD_eq_getElem, sleep_clear, decodeBody, decodeM, accept, Body.imm12, BitVec.extractLsb'_append_eq_of_add_le, BitVec.extractLsb'_setWidth_of_le, h]
theorem cpy (a b : RegNo) : Statement (.cpy a b) := by
  refine ofBody rfl rfl rfl ?_
  intro _; rfl
theorem gath (a b : RegNo) : Statement (.gath a b) := by
  refine ofBody rfl rfl rfl ?_
  intro h; simp [decodeBody, decodeM, accept]
theorem gathOwn (a b : RegNo) : Statement (.gathOwn a b) := by
  refine ofBody rfl rfl rfl ?_
  intro h; simp [decodeBody, decodeM, accept]
theorem scat (a b : RegNo) : Statement (.scat a b) := by
  refine ofBody rfl rfl rfl ?_
  intro h; simp [decodeBody, decodeM, accept]
theorem scatAdd (a b : RegNo) : Statement (.scatAdd a b) := by
  refine ofBody rfl rfl rfl ?_
  intro h; simp [decodeBody, decodeM, accept]
theorem xchg (a b : RegNo) : Statement (.xchg a b) := by
  refine ofBody rfl rfl rfl ?_
  intro _; rfl
theorem mxc (a b : RegNo) : Statement (.mxc a b) := by
  refine ofBody rfl rfl rfl ?_
  intro _; rfl
theorem join (d a : RegNo) : Statement (.join d a) := by
  refine ofBody rfl rfl rfl ?_
  intro h; simp [decodeBody, decodeM, accept]
theorem joinNew (pool bound : Bool) (d a b : RegNo) : Statement (.joinNew pool bound d a b) := by
  refine ofBody rfl rfl rfl ?_
  intro h; cases pool <;> cases bound <;> first | (cases h; done) | simp [decodeBody, decodeM, accept]
theorem leave (a : RegNo) : Statement (.leave a) := by
  refine ofBody rfl rfl rfl ?_
  intro _; rfl
theorem bar (a : RegNo) : Statement (.bar a) := by
  refine ofBody rfl rfl rfl ?_
  intro h; simp [decodeBody, decodeM, accept]
theorem barArr (a : RegNo) : Statement (.barArr a) := by
  refine ofBody rfl rfl rfl ?_
  intro h; simp [decodeBody, decodeM, accept]
theorem barWait (a : RegNo) : Statement (.barWait a) := by
  refine ofBody rfl rfl rfl ?_
  intro h; simp [decodeBody, decodeM, accept]
theorem couple (a : RegNo) : Statement (.couple a) := by
  refine ofBody rfl rfl rfl ?_
  intro h; simp [decodeBody, decodeM, accept]
theorem coupleRe (a : RegNo) : Statement (.coupleRe a) := by
  refine ofBody rfl rfl rfl ?_
  intro h; simp [decodeBody, decodeM, accept]
theorem rjput (a b c : RegNo) : Statement (.rjput a b c) := by
  refine ofBody rfl rfl rfl ?_
  intro _; rfl
theorem rjtake (d a : RegNo) (p : PredNo) : Statement (.rjtake d a p) := by
  refine ofBody rfl rfl rfl ?_
  intro h; simp [Instr.wellFormed] at h; simp [decodeBody, decodeM, accept, pred_back, pred_ok]; omega
theorem spawn (d a : RegNo) (p : PredNo) : Statement (.spawn d a p) := by
  refine ofBody rfl rfl rfl ?_
  intro h; simp [decodeBody, decodeM, accept, pred_back, pred_ok]
theorem reply (d : RegNo) (n1 : BitVec 3) : Statement (.reply d n1) := by
  refine ofBody rfl rfl rfl ?_
  intro h; simp [Instr.wellFormed] at h; simp [decodeBody, decodeM, accept, above_setWidth, BitVec.extractLsb'_setWidth_of_le]; omega
theorem exit : Statement (.exit) := by
  refine ofBody rfl rfl rfl ?_
  intro _; rfl
theorem srd (d : RegNo) (num : BitVec 10) : Statement (.srd d num) := by
  refine ofBody rfl rfl rfl ?_
  intro h; simp [decodeBody, decodeM, accept, cut10, cut10_top, Body.imm12]
theorem swr (num : BitVec 10) (a : RegNo) : Statement (.swr num a) := by
  refine ofBody rfl rfl rfl ?_
  intro h; simp [decodeBody, decodeM, accept, cut10, cut10_top, Body.imm12]
theorem trap (code : BitVec 12) : Statement (.trap code) := by
  refine ofBody rfl rfl rfl ?_
  intro h; simp [decodeBody, decodeM, accept, cut12, Body.imm12]
theorem eret : Statement (.eret) := by
  refine ofBody rfl rfl rfl ?_
  intro _; rfl
theorem repart (mode : Bool) : Statement (.repart mode) := by
  refine ofBody rfl rfl rfl ?_
  intro _; cases mode <;> rfl
theorem tlbinvPage (a b : RegNo) : Statement (.tlbinvPage a b) := by
  refine ofBody rfl rfl rfl ?_
  intro h; simp [decodeBody, decodeM, accept]
theorem tlbinvAsid (b : RegNo) : Statement (.tlbinvAsid b) := by
  refine ofBody rfl rfl rfl ?_
  intro h; simp [decodeBody, decodeM, accept]
theorem tlbinvAll : Statement (.tlbinvAll) := by
  refine ofBody rfl rfl rfl ?_
  intro _; rfl
theorem retag (d a : RegNo) : Statement (.retag d a) := by
  refine ofBody rfl rfl rfl ?_
  intro _; rfl
theorem add (d a b : RegNo) : Statement (.add d a b) := by
  refine ofBody rfl rfl rfl ?_
  intro _; rfl
theorem sub (d a b : RegNo) : Statement (.sub d a b) := by
  refine ofBody rfl rfl rfl ?_
  intro _; rfl
theorem and (d a b : RegNo) : Statement (.and d a b) := by
  refine ofBody rfl rfl rfl ?_
  intro _; rfl
theorem or (d a b : RegNo) : Statement (.or d a b) := by
  refine ofBody rfl rfl rfl ?_
  intro _; rfl
theorem xor (d a b : RegNo) : Statement (.xor d a b) := by
  refine ofBody rfl rfl rfl ?_
  intro _; rfl
theorem andn (d a b : RegNo) : Statement (.andn d a b) := by
  refine ofBody rfl rfl rfl ?_
  intro _; rfl
theorem orn (d a b : RegNo) : Statement (.orn d a b) := by
  refine ofBody rfl rfl rfl ?_
  intro _; rfl
theorem sll (d a b : RegNo) : Statement (.sll d a b) := by
  refine ofBody rfl rfl rfl ?_
  intro _; rfl
theorem srl (d a b : RegNo) : Statement (.srl d a b) := by
  refine ofBody rfl rfl rfl ?_
  intro _; rfl
theorem sra (d a b : RegNo) : Statement (.sra d a b) := by
  refine ofBody rfl rfl rfl ?_
  intro _; rfl
theorem rol (d a b : RegNo) : Statement (.rol d a b) := by
  refine ofBody rfl rfl rfl ?_
  intro _; rfl
theorem ror (d a b : RegNo) : Statement (.ror d a b) := by
  refine ofBody rfl rfl rfl ?_
  intro _; rfl
theorem mul (d a b : RegNo) : Statement (.mul d a b) := by
  refine ofBody rfl rfl rfl ?_
  intro _; rfl
theorem mulh (d a b : RegNo) : Statement (.mulh d a b) := by
  refine ofBody rfl rfl rfl ?_
  intro _; rfl
theorem mulhu (d a b : RegNo) : Statement (.mulhu d a b) := by
  refine ofBody rfl rfl rfl ?_
  intro _; rfl
theorem div (d a b : RegNo) : Statement (.div d a b) := by
  refine ofBody rfl rfl rfl ?_
  intro _; rfl
theorem divu (d a b : RegNo) : Statement (.divu d a b) := by
  refine ofBody rfl rfl rfl ?_
  intro _; rfl
theorem rem (d a b : RegNo) : Statement (.rem d a b) := by
  refine ofBody rfl rfl rfl ?_
  intro _; rfl
theorem remu (d a b : RegNo) : Statement (.remu d a b) := by
  refine ofBody rfl rfl rfl ?_
  intro _; rfl
theorem min (d a b : RegNo) : Statement (.min d a b) := by
  refine ofBody rfl rfl rfl ?_
  intro _; rfl
theorem max (d a b : RegNo) : Statement (.max d a b) := by
  refine ofBody rfl rfl rfl ?_
  intro _; rfl
theorem minu (d a b : RegNo) : Statement (.minu d a b) := by
  refine ofBody rfl rfl rfl ?_
  intro _; rfl
theorem maxu (d a b : RegNo) : Statement (.maxu d a b) := by
  refine ofBody rfl rfl rfl ?_
  intro _; rfl
theorem clz (d a : RegNo) : Statement (.clz d a) := by
  refine ofBody rfl rfl rfl ?_
  intro _; rfl
theorem ctz (d a : RegNo) : Statement (.ctz d a) := by
  refine ofBody rfl rfl rfl ?_
  intro _; rfl
theorem popc (d a : RegNo) : Statement (.popc d a) := by
  refine ofBody rfl rfl rfl ?_
  intro _; rfl
theorem bswap (d a : RegNo) : Statement (.bswap d a) := by
  refine ofBody rfl rfl rfl ?_
  intro _; rfl
theorem addw (d a b : RegNo) : Statement (.addw d a b) := by
  refine ofBody rfl rfl rfl ?_
  intro _; rfl
theorem subw (d a b : RegNo) : Statement (.subw d a b) := by
  refine ofBody rfl rfl rfl ?_
  intro _; rfl
theorem mulw (d a b : RegNo) : Statement (.mulw d a b) := by
  refine ofBody rfl rfl rfl ?_
  intro _; rfl
theorem sllw (d a b : RegNo) : Statement (.sllw d a b) := by
  refine ofBody rfl rfl rfl ?_
  intro _; rfl
theorem srlw (d a b : RegNo) : Statement (.srlw d a b) := by
  refine ofBody rfl rfl rfl ?_
  intro _; rfl
theorem sraw (d a b : RegNo) : Statement (.sraw d a b) := by
  refine ofBody rfl rfl rfl ?_
  intro _; rfl
theorem mov (d a : RegNo) : Statement (.mov d a) := by
  refine ofBody rfl rfl rfl ?_
  intro _; rfl
theorem hash64 (d a b : RegNo) : Statement (.hash64 d a b) := by
  refine ofBody rfl rfl rfl ?_
  intro _; rfl
theorem crc32c (d a b : RegNo) : Statement (.crc32c d a b) := by
  refine ofBody rfl rfl rfl ?_
  intro _; rfl
theorem addi (d a : RegNo) (imm : BitVec 12) : Statement (.addi d a imm) := by
  refine ofBody rfl rfl rfl ?_
  intro h; simp [decodeBody, decodeA, cut12, Body.imm12]
theorem andi (d a : RegNo) (imm : BitVec 12) : Statement (.andi d a imm) := by
  refine ofBody rfl rfl rfl ?_
  intro h; simp [decodeBody, decodeA, cut12, Body.imm12]
theorem ori (d a : RegNo) (imm : BitVec 12) : Statement (.ori d a imm) := by
  refine ofBody rfl rfl rfl ?_
  intro h; simp [decodeBody, decodeA, cut12, Body.imm12]
theorem xori (d a : RegNo) (imm : BitVec 12) : Statement (.xori d a imm) := by
  refine ofBody rfl rfl rfl ?_
  intro h; simp [decodeBody, decodeA, cut12, Body.imm12]
theorem slli (d a : RegNo) (n : BitVec 6) : Statement (.slli d a n) := by
  refine ofBody rfl rfl rfl ?_
  intro _; rfl
theorem srli (d a : RegNo) (n : BitVec 6) : Statement (.srli d a n) := by
  refine ofBody rfl rfl rfl ?_
  intro _; rfl
theorem srai (d a : RegNo) (n : BitVec 6) : Statement (.srai d a n) := by
  refine ofBody rfl rfl rfl ?_
  intro _; rfl
theorem roli (d a : RegNo) (n : BitVec 6) : Statement (.roli d a n) := by
  refine ofBody rfl rfl rfl ?_
  intro _; rfl
theorem rori (d a : RegNo) (n : BitVec 6) : Statement (.rori d a n) := by
  refine ofBody rfl rfl rfl ?_
  intro _; rfl
theorem sllwi (d a : RegNo) (n : BitVec 6) : Statement (.sllwi d a n) := by
  refine ofBody rfl rfl rfl ?_
  intro h; simp [Instr.wellFormed] at h; simp +contextual [-Nat.reduceAdd, -BitVec.reduceAppend, -BitVec.getLsbD_eq_getElem, shiftImm, decodeBody, decodeA, accept, acceptFn, h]
theorem srlwi (d a : RegNo) (n : BitVec 6) : Statement (.srlwi d a n) := by
  refine ofBody rfl rfl rfl ?_
  intro h; simp [Instr.wellFormed] at h; simp +contextual [-Nat.reduceAdd, -BitVec.reduceAppend, -BitVec.getLsbD_eq_getElem, shiftImm, decodeBody, decodeA, accept, acceptFn, h]
theorem srawi (d a : RegNo) (n : BitVec 6) : Statement (.srawi d a n) := by
  refine ofBody rfl rfl rfl ?_
  intro h; simp [Instr.wellFormed] at h; simp +contextual [-Nat.reduceAdd, -BitVec.reduceAppend, -BitVec.getLsbD_eq_getElem, shiftImm, decodeBody, decodeA, accept, acceptFn, h]
theorem li (d : RegNo) (imm : BitVec 18) : Statement (.li d imm) := by
  refine ofBody rfl rfl rfl ?_
  intro h; simp [decodeBody, decodeA, cut18, Body.imm18]
theorem liu (d : RegNo) (imm : BitVec 18) : Statement (.liu d imm) := by
  refine ofBody rfl rfl rfl ?_
  intro h; simp [decodeBody, decodeA, cut18, Body.imm18]
theorem scadd (d a b : RegNo) (sh : BitVec 3) : Statement (.scadd d a b sh) := by
  refine ofBody rfl rfl rfl ?_
  intro h; simp [decodeBody, decodeA, accept, above_setWidth, BitVec.extractLsb'_setWidth_of_le]
theorem bfx (d a : RegNo) (lsb width1 : BitVec 6) : Statement (.bfx d a lsb width1) := by
  refine ofBody rfl rfl rfl ?_
  intro h; simp [Instr.wellFormed] at h; simp [decodeBody, decodeA, accept]; omega
theorem bfi (d a : RegNo) (lsb width1 : BitVec 6) : Statement (.bfi d a lsb width1) := by
  refine ofBody rfl rfl rfl ?_
  intro h; simp [Instr.wellFormed] at h; simp [decodeBody, decodeA, accept]; omega
theorem cmp (c : Cond) (k : Combine) (pd : PredNo) (a b : RegNo) : Statement (.cmp c k pd a b) := by
  refine ofBody rfl rfl rfl ?_
  intro h; simp [Instr.wellFormed] at h; simp +contextual [combine_pred, -Nat.reduceAdd, -BitVec.reduceAppend, -BitVec.getLsbD_eq_getElem, cond_back, combine_back, decodeBody, decodeA, accept, acceptFn, hi_append]
theorem cmpi (c : IntCond) (k : Combine) (pd : PredNo) (a : RegNo) (imm : BitVec 9) : Statement (.cmpi c k pd a imm) := by
  refine ofBody rfl rfl rfl ?_
  intro h; simp [Instr.wellFormed] at h; simp +contextual [icond_back, combine_pred, -Nat.reduceAdd, -BitVec.reduceAppend, -BitVec.getLsbD_eq_getElem, combine_back, decodeBody, decodeA, accept, acceptFn, hi_append, BitVec.extractLsb'_append_eq_of_add_le]
theorem pand (pd pa pb : PredNo) : Statement (.pand pd pa pb) := by
  refine ofBody rfl rfl rfl ?_
  intro h; simp [decodeBody, decodeA, accept, pred_back, pred_ok]
theorem por (pd pa pb : PredNo) : Statement (.por pd pa pb) := by
  refine ofBody rfl rfl rfl ?_
  intro h; simp [decodeBody, decodeA, accept, pred_back, pred_ok]
theorem pxor (pd pa pb : PredNo) : Statement (.pxor pd pa pb) := by
  refine ofBody rfl rfl rfl ?_
  intro h; simp [decodeBody, decodeA, accept, pred_back, pred_ok]
theorem pandn (pd pa pb : PredNo) : Statement (.pandn pd pa pb) := by
  refine ofBody rfl rfl rfl ?_
  intro h; simp [decodeBody, decodeA, accept, pred_back, pred_ok]
theorem pnot (pd pa : PredNo) : Statement (.pnot pd pa) := by
  refine ofBody rfl rfl rfl ?_
  intro h; simp [decodeBody, decodeA, accept, pred_back, pred_ok]
theorem ppack (d : RegNo) : Statement (.ppack d) := by
  refine ofBody rfl rfl rfl ?_
  intro _; rfl
theorem punpack (a : RegNo) : Statement (.punpack a) := by
  refine ofBody rfl rfl rfl ?_
  intro _; rfl
theorem isref (pd : PredNo) (a : RegNo) : Statement (.isref pd a) := by
  refine ofBody rfl rfl rfl ?_
  intro h; simp [decodeBody, decodeA, accept, pred_back, pred_ok]
theorem sel (d a b : RegNo) (pc : PredNo) : Statement (.sel d a b pc) := by
  refine ofBody rfl rfl rfl ?_
  intro h; simp [decodeBody, decodeA, accept, pred_back, pred_ok]
theorem faddS (d a b : RegNo) : Statement (.faddS d a b) := by
  refine ofBody rfl rfl rfl ?_
  intro _; rfl
theorem fsubS (d a b : RegNo) : Statement (.fsubS d a b) := by
  refine ofBody rfl rfl rfl ?_
  intro _; rfl
theorem fmulS (d a b : RegNo) : Statement (.fmulS d a b) := by
  refine ofBody rfl rfl rfl ?_
  intro _; rfl
theorem fdivS (d a b : RegNo) : Statement (.fdivS d a b) := by
  refine ofBody rfl rfl rfl ?_
  intro _; rfl
theorem fsqrtS (d a : RegNo) : Statement (.fsqrtS d a) := by
  refine ofBody rfl rfl rfl ?_
  intro _; rfl
theorem fminS (d a b : RegNo) : Statement (.fminS d a b) := by
  refine ofBody rfl rfl rfl ?_
  intro _; rfl
theorem fmaxS (d a b : RegNo) : Statement (.fmaxS d a b) := by
  refine ofBody rfl rfl rfl ?_
  intro _; rfl
theorem fabsS (d a : RegNo) : Statement (.fabsS d a) := by
  refine ofBody rfl rfl rfl ?_
  intro _; rfl
theorem fnegS (d a : RegNo) : Statement (.fnegS d a) := by
  refine ofBody rfl rfl rfl ?_
  intro _; rfl
theorem faddD (d a b : RegNo) : Statement (.faddD d a b) := by
  refine ofBody rfl rfl rfl ?_
  intro _; rfl
theorem fsubD (d a b : RegNo) : Statement (.fsubD d a b) := by
  refine ofBody rfl rfl rfl ?_
  intro _; rfl
theorem fmulD (d a b : RegNo) : Statement (.fmulD d a b) := by
  refine ofBody rfl rfl rfl ?_
  intro _; rfl
theorem fdivD (d a b : RegNo) : Statement (.fdivD d a b) := by
  refine ofBody rfl rfl rfl ?_
  intro _; rfl
theorem fsqrtD (d a : RegNo) : Statement (.fsqrtD d a) := by
  refine ofBody rfl rfl rfl ?_
  intro _; rfl
theorem fminD (d a b : RegNo) : Statement (.fminD d a b) := by
  refine ofBody rfl rfl rfl ?_
  intro _; rfl
theorem fmaxD (d a b : RegNo) : Statement (.fmaxD d a b) := by
  refine ofBody rfl rfl rfl ?_
  intro _; rfl
theorem fabsD (d a : RegNo) : Statement (.fabsD d a) := by
  refine ofBody rfl rfl rfl ?_
  intro _; rfl
theorem fnegD (d a : RegNo) : Statement (.fnegD d a) := by
  refine ofBody rfl rfl rfl ?_
  intro _; rfl
theorem fmaS (d a b c : RegNo) : Statement (.fmaS d a b c) := by
  refine ofBody rfl rfl rfl ?_
  intro _; rfl
theorem fmsS (d a b c : RegNo) : Statement (.fmsS d a b c) := by
  refine ofBody rfl rfl rfl ?_
  intro _; rfl
theorem fmaD (d a b c : RegNo) : Statement (.fmaD d a b c) := by
  refine ofBody rfl rfl rfl ?_
  intro _; rfl
theorem fmsD (d a b c : RegNo) : Statement (.fmsD d a b c) := by
  refine ofBody rfl rfl rfl ?_
  intro _; rfl
theorem fcvt (dst src : CvtFmt) (d a : RegNo) : Statement (.fcvt dst src d a) := by
  refine ofBody rfl rfl rfl ?_
  intro h; simp [decodeBody, decodeA, accept, acceptFn]; cases dst <;> cases src <;> first | (cases h; done) | rfl
theorem vadd (t : VType) (vd va vb : BitVec 4) (k : BitVec 2) : Statement (.vadd t vd va vb k) := by
  refine ofBody rfl rfl rfl ?_
  intro h; simp [Instr.wellFormed] at h; simp +contextual [-Nat.reduceAdd, -BitVec.reduceAppend, -BitVec.getLsbD_eq_getElem, ty_back, valuBinary, decodeBody, decodeA, decodeV, hi_append, Body.vd, Body.va, Body.vb, Body.vk, Body.vtype, Body.vfn, BitVec.extractLsb'_append_eq_of_add_le, BitVec.extractLsb'_append_eq_of_le]
theorem vsub (t : VType) (vd va vb : BitVec 4) (k : BitVec 2) : Statement (.vsub t vd va vb k) := by
  refine ofBody rfl rfl rfl ?_
  intro h; simp [Instr.wellFormed] at h; simp +contextual [-Nat.reduceAdd, -BitVec.reduceAppend, -BitVec.getLsbD_eq_getElem, ty_back, valuBinary, decodeBody, decodeA, decodeV, hi_append, Body.vd, Body.va, Body.vb, Body.vk, Body.vtype, Body.vfn, BitVec.extractLsb'_append_eq_of_add_le, BitVec.extractLsb'_append_eq_of_le]
theorem vmul (t : VType) (vd va vb : BitVec 4) (k : BitVec 2) : Statement (.vmul t vd va vb k) := by
  refine ofBody rfl rfl rfl ?_
  intro h; simp [Instr.wellFormed] at h; simp +contextual [-Nat.reduceAdd, -BitVec.reduceAppend, -BitVec.getLsbD_eq_getElem, ty_back, valuBinary, decodeBody, decodeA, decodeV, hi_append, Body.vd, Body.va, Body.vb, Body.vk, Body.vtype, Body.vfn, BitVec.extractLsb'_append_eq_of_add_le, BitVec.extractLsb'_append_eq_of_le]
theorem vmin (t : VType) (vd va vb : BitVec 4) (k : BitVec 2) : Statement (.vmin t vd va vb k) := by
  refine ofBody rfl rfl rfl ?_
  intro h; simp [Instr.wellFormed] at h; simp +contextual [-Nat.reduceAdd, -BitVec.reduceAppend, -BitVec.getLsbD_eq_getElem, ty_back, valuBinary, decodeBody, decodeA, decodeV, hi_append, Body.vd, Body.va, Body.vb, Body.vk, Body.vtype, Body.vfn, BitVec.extractLsb'_append_eq_of_add_le, BitVec.extractLsb'_append_eq_of_le]
theorem vmax (t : VType) (vd va vb : BitVec 4) (k : BitVec 2) : Statement (.vmax t vd va vb k) := by
  refine ofBody rfl rfl rfl ?_
  intro h; simp [Instr.wellFormed] at h; simp +contextual [-Nat.reduceAdd, -BitVec.reduceAppend, -BitVec.getLsbD_eq_getElem, ty_back, valuBinary, decodeBody, decodeA, decodeV, hi_append, Body.vd, Body.va, Body.vb, Body.vk, Body.vtype, Body.vfn, BitVec.extractLsb'_append_eq_of_add_le, BitVec.extractLsb'_append_eq_of_le]
theorem vminu (t : VType) (vd va vb : BitVec 4) (k : BitVec 2) : Statement (.vminu t vd va vb k) := by
  refine ofBody rfl rfl rfl ?_
  intro h; simp [Instr.wellFormed] at h; simp +contextual [-Nat.reduceAdd, -BitVec.reduceAppend, -BitVec.getLsbD_eq_getElem, ty_back, valuBinary, decodeBody, decodeA, decodeV, hi_append, Body.vd, Body.va, Body.vb, Body.vk, Body.vtype, Body.vfn, BitVec.extractLsb'_append_eq_of_add_le, BitVec.extractLsb'_append_eq_of_le, h]
theorem vmaxu (t : VType) (vd va vb : BitVec 4) (k : BitVec 2) : Statement (.vmaxu t vd va vb k) := by
  refine ofBody rfl rfl rfl ?_
  intro h; simp [Instr.wellFormed] at h; simp +contextual [-Nat.reduceAdd, -BitVec.reduceAppend, -BitVec.getLsbD_eq_getElem, ty_back, valuBinary, decodeBody, decodeA, decodeV, hi_append, Body.vd, Body.va, Body.vb, Body.vk, Body.vtype, Body.vfn, BitVec.extractLsb'_append_eq_of_add_le, BitVec.extractLsb'_append_eq_of_le, h]
theorem vadds (t : VType) (vd va vb : BitVec 4) (k : BitVec 2) : Statement (.vadds t vd va vb k) := by
  refine ofBody rfl rfl rfl ?_
  intro h; simp [Instr.wellFormed] at h; simp +contextual [-Nat.reduceAdd, -BitVec.reduceAppend, -BitVec.getLsbD_eq_getElem, ty_back, valuBinary, decodeBody, decodeA, decodeV, hi_append, Body.vd, Body.va, Body.vb, Body.vk, Body.vtype, Body.vfn, BitVec.extractLsb'_append_eq_of_add_le, BitVec.extractLsb'_append_eq_of_le, h]
theorem vsubs (t : VType) (vd va vb : BitVec 4) (k : BitVec 2) : Statement (.vsubs t vd va vb k) := by
  refine ofBody rfl rfl rfl ?_
  intro h; simp [Instr.wellFormed] at h; simp +contextual [-Nat.reduceAdd, -BitVec.reduceAppend, -BitVec.getLsbD_eq_getElem, ty_back, valuBinary, decodeBody, decodeA, decodeV, hi_append, Body.vd, Body.va, Body.vb, Body.vk, Body.vtype, Body.vfn, BitVec.extractLsb'_append_eq_of_add_le, BitVec.extractLsb'_append_eq_of_le, h]
theorem vaddus (t : VType) (vd va vb : BitVec 4) (k : BitVec 2) : Statement (.vaddus t vd va vb k) := by
  refine ofBody rfl rfl rfl ?_
  intro h; simp [Instr.wellFormed] at h; simp +contextual [-Nat.reduceAdd, -BitVec.reduceAppend, -BitVec.getLsbD_eq_getElem, ty_back, valuBinary, decodeBody, decodeA, decodeV, hi_append, Body.vd, Body.va, Body.vb, Body.vk, Body.vtype, Body.vfn, BitVec.extractLsb'_append_eq_of_add_le, BitVec.extractLsb'_append_eq_of_le, h]
theorem vsubus (t : VType) (vd va vb : BitVec 4) (k : BitVec 2) : Statement (.vsubus t vd va vb k) := by
  refine ofBody rfl rfl rfl ?_
  intro h; simp [Instr.wellFormed] at h; simp +contextual [-Nat.reduceAdd, -BitVec.reduceAppend, -BitVec.getLsbD_eq_getElem, ty_back, valuBinary, decodeBody, decodeA, decodeV, hi_append, Body.vd, Body.va, Body.vb, Body.vk, Body.vtype, Body.vfn, BitVec.extractLsb'_append_eq_of_add_le, BitVec.extractLsb'_append_eq_of_le, h]
theorem vavg (t : VType) (vd va vb : BitVec 4) (k : BitVec 2) : Statement (.vavg t vd va vb k) := by
  refine ofBody rfl rfl rfl ?_
  intro h; simp [Instr.wellFormed] at h; simp +contextual [-Nat.reduceAdd, -BitVec.reduceAppend, -BitVec.getLsbD_eq_getElem, ty_back, valuBinary, decodeBody, decodeA, decodeV, hi_append, Body.vd, Body.va, Body.vb, Body.vk, Body.vtype, Body.vfn, BitVec.extractLsb'_append_eq_of_add_le, BitVec.extractLsb'_append_eq_of_le, h]
theorem vmulh (t : VType) (vd va vb : BitVec 4) (k : BitVec 2) : Statement (.vmulh t vd va vb k) := by
  refine ofBody rfl rfl rfl ?_
  intro h; simp [Instr.wellFormed] at h; simp +contextual [-Nat.reduceAdd, -BitVec.reduceAppend, -BitVec.getLsbD_eq_getElem, ty_back, valuBinary, decodeBody, decodeA, decodeV, hi_append, Body.vd, Body.va, Body.vb, Body.vk, Body.vtype, Body.vfn, BitVec.extractLsb'_append_eq_of_add_le, BitVec.extractLsb'_append_eq_of_le, h]
theorem vand (t : VType) (vd va vb : BitVec 4) (k : BitVec 2) : Statement (.vand t vd va vb k) := by
  refine ofBody rfl rfl rfl ?_
  intro h; simp [Instr.wellFormed] at h; simp +contextual [-Nat.reduceAdd, -BitVec.reduceAppend, -BitVec.getLsbD_eq_getElem, ty_back, valuBinary, decodeBody, decodeA, decodeV, hi_append, Body.vd, Body.va, Body.vb, Body.vk, Body.vtype, Body.vfn, BitVec.extractLsb'_append_eq_of_add_le, BitVec.extractLsb'_append_eq_of_le, h]
theorem vor (t : VType) (vd va vb : BitVec 4) (k : BitVec 2) : Statement (.vor t vd va vb k) := by
  refine ofBody rfl rfl rfl ?_
  intro h; simp [Instr.wellFormed] at h; simp +contextual [-Nat.reduceAdd, -BitVec.reduceAppend, -BitVec.getLsbD_eq_getElem, ty_back, valuBinary, decodeBody, decodeA, decodeV, hi_append, Body.vd, Body.va, Body.vb, Body.vk, Body.vtype, Body.vfn, BitVec.extractLsb'_append_eq_of_add_le, BitVec.extractLsb'_append_eq_of_le, h]
theorem vxor (t : VType) (vd va vb : BitVec 4) (k : BitVec 2) : Statement (.vxor t vd va vb k) := by
  refine ofBody rfl rfl rfl ?_
  intro h; simp [Instr.wellFormed] at h; simp +contextual [-Nat.reduceAdd, -BitVec.reduceAppend, -BitVec.getLsbD_eq_getElem, ty_back, valuBinary, decodeBody, decodeA, decodeV, hi_append, Body.vd, Body.va, Body.vb, Body.vk, Body.vtype, Body.vfn, BitVec.extractLsb'_append_eq_of_add_le, BitVec.extractLsb'_append_eq_of_le, h]
theorem vandn (t : VType) (vd va vb : BitVec 4) (k : BitVec 2) : Statement (.vandn t vd va vb k) := by
  refine ofBody rfl rfl rfl ?_
  intro h; simp [Instr.wellFormed] at h; simp +contextual [-Nat.reduceAdd, -BitVec.reduceAppend, -BitVec.getLsbD_eq_getElem, ty_back, valuBinary, decodeBody, decodeA, decodeV, hi_append, Body.vd, Body.va, Body.vb, Body.vk, Body.vtype, Body.vfn, BitVec.extractLsb'_append_eq_of_add_le, BitVec.extractLsb'_append_eq_of_le, h]
theorem vshl (t : VType) (vd va vb : BitVec 4) (k : BitVec 2) : Statement (.vshl t vd va vb k) := by
  refine ofBody rfl rfl rfl ?_
  intro h; simp [Instr.wellFormed] at h; simp +contextual [-Nat.reduceAdd, -BitVec.reduceAppend, -BitVec.getLsbD_eq_getElem, ty_back, valuBinary, decodeBody, decodeA, decodeV, hi_append, Body.vd, Body.va, Body.vb, Body.vk, Body.vtype, Body.vfn, BitVec.extractLsb'_append_eq_of_add_le, BitVec.extractLsb'_append_eq_of_le, h]
theorem vshr (t : VType) (vd va vb : BitVec 4) (k : BitVec 2) : Statement (.vshr t vd va vb k) := by
  refine ofBody rfl rfl rfl ?_
  intro h; simp [Instr.wellFormed] at h; simp +contextual [-Nat.reduceAdd, -BitVec.reduceAppend, -BitVec.getLsbD_eq_getElem, ty_back, valuBinary, decodeBody, decodeA, decodeV, hi_append, Body.vd, Body.va, Body.vb, Body.vk, Body.vtype, Body.vfn, BitVec.extractLsb'_append_eq_of_add_le, BitVec.extractLsb'_append_eq_of_le, h]
theorem vsar (t : VType) (vd va vb : BitVec 4) (k : BitVec 2) : Statement (.vsar t vd va vb k) := by
  refine ofBody rfl rfl rfl ?_
  intro h; simp [Instr.wellFormed] at h; simp +contextual [-Nat.reduceAdd, -BitVec.reduceAppend, -BitVec.getLsbD_eq_getElem, ty_back, valuBinary, decodeBody, decodeA, decodeV, hi_append, Body.vd, Body.va, Body.vb, Body.vk, Body.vtype, Body.vfn, BitVec.extractLsb'_append_eq_of_add_le, BitVec.extractLsb'_append_eq_of_le, h]
theorem vabs (t : VType) (vd va : BitVec 4) (k : BitVec 2) : Statement (.vabs t vd va k) := by
  refine ofBody rfl rfl rfl ?_
  intro h; simp [Instr.wellFormed] at h; simp +contextual [-Nat.reduceAdd, -BitVec.reduceAppend, -BitVec.getLsbD_eq_getElem, ty_back, valuBinary, valuUnary, decodeBody, decodeA, decodeV, accept, acceptFn, hi_append, Body.vd, Body.va, Body.vb, Body.vk, Body.vtype, Body.vfn, BitVec.extractLsb'_append_eq_of_add_le, BitVec.extractLsb'_append_eq_of_le]
theorem vneg (t : VType) (vd va : BitVec 4) (k : BitVec 2) : Statement (.vneg t vd va k) := by
  refine ofBody rfl rfl rfl ?_
  intro h; simp [Instr.wellFormed] at h; simp +contextual [-Nat.reduceAdd, -BitVec.reduceAppend, -BitVec.getLsbD_eq_getElem, ty_back, valuBinary, valuUnary, decodeBody, decodeA, decodeV, accept, acceptFn, hi_append, Body.vd, Body.va, Body.vb, Body.vk, Body.vtype, Body.vfn, BitVec.extractLsb'_append_eq_of_add_le, BitVec.extractLsb'_append_eq_of_le]
theorem vdiv (t : VType) (vd va vb : BitVec 4) (k : BitVec 2) : Statement (.vdiv t vd va vb k) := by
  refine ofBody rfl rfl rfl ?_
  intro h; simp [Instr.wellFormed] at h; simp +contextual [-Nat.reduceAdd, -BitVec.reduceAppend, -BitVec.getLsbD_eq_getElem, ty_back, valuBinary, decodeBody, decodeA, decodeV, hi_append, Body.vd, Body.va, Body.vb, Body.vk, Body.vtype, Body.vfn, BitVec.extractLsb'_append_eq_of_add_le, BitVec.extractLsb'_append_eq_of_le, h]
theorem vrcp (t : VType) (vd va : BitVec 4) (k : BitVec 2) : Statement (.vrcp t vd va k) := by
  refine ofBody rfl rfl rfl ?_
  intro h; simp [Instr.wellFormed] at h; simp +contextual [-Nat.reduceAdd, -BitVec.reduceAppend, -BitVec.getLsbD_eq_getElem, ty_back, valuBinary, valuUnary, decodeBody, decodeA, decodeV, accept, acceptFn, hi_append, Body.vd, Body.va, Body.vb, Body.vk, Body.vtype, Body.vfn, BitVec.extractLsb'_append_eq_of_add_le, BitVec.extractLsb'_append_eq_of_le, h]
theorem vrsq (t : VType) (vd va : BitVec 4) (k : BitVec 2) : Statement (.vrsq t vd va k) := by
  refine ofBody rfl rfl rfl ?_
  intro h; simp [Instr.wellFormed] at h; simp +contextual [-Nat.reduceAdd, -BitVec.reduceAppend, -BitVec.getLsbD_eq_getElem, ty_back, valuBinary, valuUnary, decodeBody, decodeA, decodeV, accept, acceptFn, hi_append, Body.vd, Body.va, Body.vb, Body.vk, Body.vtype, Body.vfn, BitVec.extractLsb'_append_eq_of_add_le, BitVec.extractLsb'_append_eq_of_le, h]
theorem vsqrt (t : VType) (vd va : BitVec 4) (k : BitVec 2) : Statement (.vsqrt t vd va k) := by
  refine ofBody rfl rfl rfl ?_
  intro h; simp [Instr.wellFormed] at h; simp +contextual [-Nat.reduceAdd, -BitVec.reduceAppend, -BitVec.getLsbD_eq_getElem, ty_back, valuBinary, valuUnary, decodeBody, decodeA, decodeV, accept, acceptFn, hi_append, Body.vd, Body.va, Body.vb, Body.vk, Body.vtype, Body.vfn, BitVec.extractLsb'_append_eq_of_add_le, BitVec.extractLsb'_append_eq_of_le, h]
theorem vexp2 (t : VType) (vd va : BitVec 4) (k : BitVec 2) : Statement (.vexp2 t vd va k) := by
  refine ofBody rfl rfl rfl ?_
  intro h; simp [Instr.wellFormed] at h; simp +contextual [-Nat.reduceAdd, -BitVec.reduceAppend, -BitVec.getLsbD_eq_getElem, ty_back, valuBinary, valuUnary, decodeBody, decodeA, decodeV, accept, acceptFn, hi_append, Body.vd, Body.va, Body.vb, Body.vk, Body.vtype, Body.vfn, BitVec.extractLsb'_append_eq_of_add_le, BitVec.extractLsb'_append_eq_of_le, h]
theorem vlog2 (t : VType) (vd va : BitVec 4) (k : BitVec 2) : Statement (.vlog2 t vd va k) := by
  refine ofBody rfl rfl rfl ?_
  intro h; simp [Instr.wellFormed] at h; simp +contextual [-Nat.reduceAdd, -BitVec.reduceAppend, -BitVec.getLsbD_eq_getElem, ty_back, valuBinary, valuUnary, decodeBody, decodeA, decodeV, accept, acceptFn, hi_append, Body.vd, Body.va, Body.vb, Body.vk, Body.vtype, Body.vfn, BitVec.extractLsb'_append_eq_of_add_le, BitVec.extractLsb'_append_eq_of_le, h]
theorem vtanh (t : VType) (vd va : BitVec 4) (k : BitVec 2) : Statement (.vtanh t vd va k) := by
  refine ofBody rfl rfl rfl ?_
  intro h; simp [Instr.wellFormed] at h; simp +contextual [-Nat.reduceAdd, -BitVec.reduceAppend, -BitVec.getLsbD_eq_getElem, ty_back, valuBinary, valuUnary, decodeBody, decodeA, decodeV, accept, acceptFn, hi_append, Body.vd, Body.va, Body.vb, Body.vk, Body.vtype, Body.vfn, BitVec.extractLsb'_append_eq_of_add_le, BitVec.extractLsb'_append_eq_of_le, h]
theorem vpopc (t : VType) (vd va : BitVec 4) (k : BitVec 2) : Statement (.vpopc t vd va k) := by
  refine ofBody rfl rfl rfl ?_
  intro h; simp [Instr.wellFormed] at h; simp +contextual [-Nat.reduceAdd, -BitVec.reduceAppend, -BitVec.getLsbD_eq_getElem, ty_back, valuBinary, valuUnary, decodeBody, decodeA, decodeV, accept, acceptFn, hi_append, Body.vd, Body.va, Body.vb, Body.vk, Body.vtype, Body.vfn, BitVec.extractLsb'_append_eq_of_add_le, BitVec.extractLsb'_append_eq_of_le, h]
theorem vclz (t : VType) (vd va : BitVec 4) (k : BitVec 2) : Statement (.vclz t vd va k) := by
  refine ofBody rfl rfl rfl ?_
  intro h; simp [Instr.wellFormed] at h; simp +contextual [-Nat.reduceAdd, -BitVec.reduceAppend, -BitVec.getLsbD_eq_getElem, ty_back, valuBinary, valuUnary, decodeBody, decodeA, decodeV, accept, acceptFn, hi_append, Body.vd, Body.va, Body.vb, Body.vk, Body.vtype, Body.vfn, BitVec.extractLsb'_append_eq_of_add_le, BitVec.extractLsb'_append_eq_of_le, h]
theorem vfma (f : VFmaOp) (t : VType) (vd va vb : BitVec 4) (k : BitVec 2) : Statement (.vfma f t vd va vb k) := by
  refine ofBody rfl rfl rfl ?_
  intro h; simp [Instr.wellFormed] at h; simp +contextual [-Nat.reduceAdd, -BitVec.reduceAppend, -BitVec.getLsbD_eq_getElem, ty_back, fma_back, keepIf, decodeBody, decodeA, decodeV, accept, acceptFn, hi_append, Body.vd, Body.va, Body.vb, Body.vk, Body.vtype, Body.vfn, BitVec.extractLsb'_append_eq_of_add_le, BitVec.extractLsb'_append_eq_of_le, h]
theorem vcmp (c : VCond) (any : Bool) (t : VType) (kd : BitVec 2) (va vb : BitVec 4) (k : BitVec 2) : Statement (.vcmp c any t kd va vb k) := by
  refine ofBody rfl rfl rfl ?_
  intro h; simp [Instr.wellFormed] at h; simp +contextual [-Nat.reduceAdd, -BitVec.reduceAppend, -BitVec.getLsbD_eq_getElem, ty_back, vcond_back, BitVec.getLsbD_append, keepIf, decodeBody, decodeA, decodeV, accept, acceptFn, hi_append, above_setWidth, Body.vd, Body.va, Body.vb, Body.vk, Body.vtype, Body.vfn, maskField, BitVec.extractLsb'_append_eq_of_add_le, BitVec.extractLsb'_append_eq_of_le, BitVec.extractLsb'_setWidth_of_le, h]
theorem vsel (vd va vb : BitVec 4) (k : BitVec 2) : Statement (.vsel vd va vb k) := by
  refine ofBody rfl rfl rfl ?_
  intro h; simp [Instr.wellFormed] at h; simp +contextual [-Nat.reduceAdd, -BitVec.reduceAppend, -BitVec.getLsbD_eq_getElem, decodeBody, decodeA, decodeV, accept, hi_append, Body.vd, Body.va, Body.vb, Body.vk, Body.vtype, Body.vfn, BitVec.extractLsb'_append_eq_of_add_le, BitVec.extractLsb'_append_eq_of_le]
theorem vcvt (dst src : VFmt) (vd va : BitVec 4) (part : BitVec 4) (k : BitVec 2) : Statement (.vcvt dst src vd va part k) := by
  refine ofBody rfl rfl rfl ?_
  intro h; simp [Instr.wellFormed] at h; simp +contextual [-Nat.reduceAdd, -BitVec.reduceAppend, -BitVec.getLsbD_eq_getElem, vfmt_back, BitVec.getLsbD_append, decodeBody, decodeA, decodeV, accept, hi_append, Body.vd, Body.va, Body.vb, Body.vk, Body.vtype, Body.vfn, BitVec.extractLsb'_append_eq_of_add_le, BitVec.extractLsb'_append_eq_of_le, h]
theorem vqnt (f : BxFmt) (t : VType) (vd va vb : BitVec 4) : Statement (.vqnt f t vd va vb) := by
  refine ofBody rfl rfl rfl ?_
  intro h; simp [Instr.wellFormed] at h; simp +contextual [qnt_clear, floatTypes, -Nat.reduceAdd, -BitVec.reduceAppend, -BitVec.getLsbD_eq_getElem, ty_back, bx_back, keepIf, decodeBody, decodeA, decodeV, accept, acceptFn, hi_append, above_setWidth, Body.vd, Body.va, Body.vb, Body.vk, Body.vtype, Body.vfn, BitVec.extractLsb'_append_eq_of_add_le, BitVec.extractLsb'_append_eq_of_le, BitVec.extractLsb'_setWidth_of_le, h]
theorem vdq (f : BxFmt) (t : VType) (part : Bool) (vd va : BitVec 4) (k : BitVec 2) : Statement (.vdq f t part vd va k) := by
  refine ofBody rfl rfl rfl ?_
  intro h; simp [Instr.wellFormed] at h; simp +contextual [dq_clear, floatTypes, -Nat.reduceAdd, -BitVec.reduceAppend, -BitVec.getLsbD_eq_getElem, ty_back, bx_back, BitVec.getLsbD_append, keepIf, decodeBody, decodeA, decodeV, accept, acceptFn, hi_append, above_setWidth, Body.vd, Body.va, Body.vb, Body.vk, Body.vtype, Body.vfn, BitVec.extractLsb'_append_eq_of_add_le, BitVec.extractLsb'_append_eq_of_le, BitVec.extractLsb'_setWidth_of_le, h]
theorem vred (f : VRedOp) (t : VType) (vd va : BitVec 4) (k : BitVec 2) : Statement (.vred f t vd va k) := by
  refine ofBody rfl rfl rfl ?_
  intro h; simp [Instr.wellFormed] at h; simp +contextual [-Nat.reduceAdd, -BitVec.reduceAppend, -BitVec.getLsbD_eq_getElem, ty_back, red_back, keepIf, decodeBody, decodeA, decodeV, accept, acceptFn, hi_append, Body.vd, Body.va, Body.vb, Body.vk, Body.vtype, Body.vfn, BitVec.extractLsb'_append_eq_of_add_le, BitVec.extractLsb'_append_eq_of_le, h]
theorem vscan (f : VScanOp) (t : VType) (vd va : BitVec 4) (k : BitVec 2) : Statement (.vscan f t vd va k) := by
  refine ofBody rfl rfl rfl ?_
  intro h; simp [Instr.wellFormed] at h; simp +contextual [-Nat.reduceAdd, -BitVec.reduceAppend, -BitVec.getLsbD_eq_getElem, ty_back, scan_back, keepIf, decodeBody, decodeA, decodeV, accept, acceptFn, hi_append, Body.vd, Body.va, Body.vb, Body.vk, Body.vtype, Body.vfn, BitVec.extractLsb'_append_eq_of_add_le, BitVec.extractLsb'_append_eq_of_le, h]
theorem vperm (t2 : Bool) (t : VType) (vd va vb : BitVec 4) (k : BitVec 2) : Statement (.vperm t2 t vd va vb k) := by
  refine ofBody rfl rfl rfl ?_
  intro h; simp [Instr.wellFormed] at h; simp +contextual [flag7_clear, -Nat.reduceAdd, -BitVec.reduceAppend, -BitVec.getLsbD_eq_getElem, ty_back, BitVec.getLsbD_append, decodeBody, decodeA, decodeV, hi_append, above_setWidth, Body.vd, Body.va, Body.vb, Body.vk, Body.vtype, Body.vfn, BitVec.extractLsb'_append_eq_of_add_le, BitVec.extractLsb'_append_eq_of_le, BitVec.extractLsb'_setWidth_of_le]
theorem vshuf (kind : VShufKind) (s : BitVec 4) (t : VType) (vd va vb : BitVec 4) (k : BitVec 2) : Statement (.vshuf kind s t vd va vb k) := by
  refine ofBody rfl rfl rfl ?_
  intro h; simp [Instr.wellFormed] at h; simp +contextual [shuf_step, -Nat.reduceAdd, -BitVec.reduceAppend, -BitVec.getLsbD_eq_getElem, ty_back, shuf_back, decodeBody, decodeA, decodeV, accept, hi_append, Body.vd, Body.va, Body.vb, Body.vk, Body.vtype, Body.vfn, BitVec.extractLsb'_append_eq_of_add_le, BitVec.extractLsb'_append_eq_of_le, h]
theorem vbcast (t : VType) (vd va : BitVec 4) (idx : BitVec 6) (k : BitVec 2) : Statement (.vbcast t vd va idx k) := by
  refine ofBody rfl rfl rfl ?_
  intro h; simp [Instr.wellFormed] at h; simp +contextual [-Nat.reduceAdd, -BitVec.reduceAppend, -BitVec.getLsbD_eq_getElem, ty_back, BitVec.getLsbD_append, decodeBody, decodeA, decodeV, accept, hi_append, above_setWidth, Body.vd, Body.va, Body.vb, Body.vk, Body.vtype, Body.vfn, BitVec.extractLsb'_append_eq_of_add_le, BitVec.extractLsb'_append_eq_of_le, BitVec.extractLsb'_setWidth_of_le, h]
theorem vbcastG (t : VType) (vd : BitVec 4) (a : RegNo) (k : BitVec 2) : Statement (.vbcastG t vd a k) := by
  refine ofBody rfl rfl rfl ?_
  intro h; simp [Instr.wellFormed] at h; simp +contextual [-Nat.reduceAdd, -BitVec.reduceAppend, -BitVec.getLsbD_eq_getElem, ty_back, BitVec.getLsbD_append, decodeBody, decodeA, decodeV, accept, hi_append, Body.vd, Body.vk, Body.vtype, Body.vfn, BitVec.extractLsb'_append_eq_of_add_le, BitVec.extractLsb'_append_eq_of_le]
theorem vmovg (t : VType) (zext : Bool) (d : RegNo) (va : BitVec 4) (idx : BitVec 6) : Statement (.vmovg t zext d va idx) := by
  refine ofBody rfl rfl rfl ?_
  intro h; simp [Instr.wellFormed] at h; simp +contextual [-Nat.reduceAdd, -BitVec.reduceAppend, -BitVec.getLsbD_eq_getElem, ty_back, BitVec.getLsbD_append, decodeBody, decodeA, decodeV, accept, hi_append, Body.vd, Body.vk, Body.vtype, Body.vfn, BitVec.extractLsb'_append_eq_of_add_le, BitVec.extractLsb'_append_eq_of_le, h]
theorem vins (t : VType) (vd : BitVec 4) (a : RegNo) (idx : BitVec 6) : Statement (.vins t vd a idx) := by
  refine ofBody rfl rfl rfl ?_
  intro h; simp [Instr.wellFormed] at h; simp +contextual [-Nat.reduceAdd, -BitVec.reduceAppend, -BitVec.getLsbD_eq_getElem, ty_back, BitVec.getLsbD_append, decodeBody, decodeA, decodeV, accept, hi_append, above_setWidth, Body.vd, Body.vk, Body.vtype, Body.vfn, BitVec.extractLsb'_append_eq_of_add_le, BitVec.extractLsb'_append_eq_of_le, BitVec.extractLsb'_setWidth_of_le, h]
theorem vcmprC (t : VType) (vd va : BitVec 4) (k : BitVec 2) : Statement (.vcmprC t vd va k) := by
  refine ofBody rfl rfl rfl ?_
  intro h; simp [Instr.wellFormed] at h; simp +contextual [-Nat.reduceAdd, -BitVec.reduceAppend, -BitVec.getLsbD_eq_getElem, ty_back, decodeBody, decodeA, decodeV, accept, hi_append, Body.vd, Body.va, Body.vb, Body.vk, Body.vtype, Body.vfn, BitVec.extractLsb'_append_eq_of_add_le, BitVec.extractLsb'_append_eq_of_le]
theorem vcmprE (t : VType) (vd va : BitVec 4) (k : BitVec 2) : Statement (.vcmprE t vd va k) := by
  refine ofBody rfl rfl rfl ?_
  intro h; simp [Instr.wellFormed] at h; simp +contextual [-Nat.reduceAdd, -BitVec.reduceAppend, -BitVec.getLsbD_eq_getElem, ty_back, decodeBody, decodeA, decodeV, accept, hi_append, Body.vd, Body.va, Body.vb, Body.vk, Body.vtype, Body.vfn, BitVec.extractLsb'_append_eq_of_add_le, BitVec.extractLsb'_append_eq_of_le]
theorem vmaskAnd (kd ka kb : BitVec 2) : Statement (.vmaskAnd kd ka kb) := by
  refine ofBody rfl rfl rfl ?_
  intro h; simp [Instr.wellFormed] at h; simp +contextual [above_self, -Nat.reduceAdd, -BitVec.reduceAppend, -BitVec.getLsbD_eq_getElem, decodeBody, decodeA, decodeV, accept, hi_append, above_setWidth, Body.vd, Body.va, Body.vb, Body.vk, Body.vtype, Body.vfn, maskField, BitVec.extractLsb'_append_eq_of_add_le, BitVec.extractLsb'_setWidth_of_le]
theorem vmaskOr (kd ka kb : BitVec 2) : Statement (.vmaskOr kd ka kb) := by
  refine ofBody rfl rfl rfl ?_
  intro h; simp [Instr.wellFormed] at h; simp +contextual [above_self, -Nat.reduceAdd, -BitVec.reduceAppend, -BitVec.getLsbD_eq_getElem, decodeBody, decodeA, decodeV, accept, hi_append, above_setWidth, Body.vd, Body.va, Body.vb, Body.vk, Body.vtype, Body.vfn, maskField, BitVec.extractLsb'_append_eq_of_add_le, BitVec.extractLsb'_setWidth_of_le]
theorem vmaskXor (kd ka kb : BitVec 2) : Statement (.vmaskXor kd ka kb) := by
  refine ofBody rfl rfl rfl ?_
  intro h; simp [Instr.wellFormed] at h; simp +contextual [above_self, -Nat.reduceAdd, -BitVec.reduceAppend, -BitVec.getLsbD_eq_getElem, decodeBody, decodeA, decodeV, accept, hi_append, above_setWidth, Body.vd, Body.va, Body.vb, Body.vk, Body.vtype, Body.vfn, maskField, BitVec.extractLsb'_append_eq_of_add_le, BitVec.extractLsb'_setWidth_of_le]
theorem vmaskAndn (kd ka kb : BitVec 2) : Statement (.vmaskAndn kd ka kb) := by
  refine ofBody rfl rfl rfl ?_
  intro h; simp [Instr.wellFormed] at h; simp +contextual [above_self, -Nat.reduceAdd, -BitVec.reduceAppend, -BitVec.getLsbD_eq_getElem, decodeBody, decodeA, decodeV, accept, hi_append, above_setWidth, Body.vd, Body.va, Body.vb, Body.vk, Body.vtype, Body.vfn, maskField, BitVec.extractLsb'_append_eq_of_add_le, BitVec.extractLsb'_setWidth_of_le]
theorem vmaskNot (kd ka : BitVec 2) : Statement (.vmaskNot kd ka) := by
  refine ofBody rfl rfl rfl ?_
  intro h; simp [Instr.wellFormed] at h; simp +contextual [-Nat.reduceAdd, -BitVec.reduceAppend, -BitVec.getLsbD_eq_getElem, decodeBody, decodeA, decodeV, accept, hi_append, above_setWidth, Body.vd, Body.va, Body.vb, Body.vk, Body.vtype, Body.vfn, maskField, BitVec.extractLsb'_append_eq_of_add_le, BitVec.extractLsb'_setWidth_of_le]
theorem vmaskFromg (kd : BitVec 2) (a : RegNo) : Statement (.vmaskFromg kd a) := by
  refine ofBody rfl rfl rfl ?_
  intro h; simp [Instr.wellFormed] at h; simp +contextual [-Nat.reduceAdd, -BitVec.reduceAppend, -BitVec.getLsbD_eq_getElem, decodeBody, decodeA, decodeV, accept, hi_append, above_setWidth, Body.vd, Body.vk, Body.vtype, Body.vfn, maskField, BitVec.extractLsb'_append_eq_of_add_le, BitVec.extractLsb'_setWidth_of_le]
theorem vmaskTog (d : RegNo) (ka : BitVec 2) : Statement (.vmaskTog d ka) := by
  refine ofBody rfl rfl rfl ?_
  intro h; simp [Instr.wellFormed] at h; simp +contextual [-Nat.reduceAdd, -BitVec.reduceAppend, -BitVec.getLsbD_eq_getElem, decodeBody, decodeA, decodeV, accept, hi_append, above_setWidth, Body.vd, Body.vk, Body.vtype, Body.vfn, maskField, BitVec.extractLsb'_append_eq_of_add_le, BitVec.extractLsb'_setWidth_of_le]
theorem vmaskPop (d : RegNo) (ka : BitVec 2) : Statement (.vmaskPop d ka) := by
  refine ofBody rfl rfl rfl ?_
  intro h; simp [Instr.wellFormed] at h; simp +contextual [-Nat.reduceAdd, -BitVec.reduceAppend, -BitVec.getLsbD_eq_getElem, decodeBody, decodeA, decodeV, accept, hi_append, above_setWidth, Body.vd, Body.vk, Body.vtype, Body.vfn, maskField, BitVec.extractLsb'_append_eq_of_add_le, BitVec.extractLsb'_setWidth_of_le]
theorem vmaskFirst (d : RegNo) (ka : BitVec 2) : Statement (.vmaskFirst d ka) := by
  refine ofBody rfl rfl rfl ?_
  intro h; simp [Instr.wellFormed] at h; simp +contextual [-Nat.reduceAdd, -BitVec.reduceAppend, -BitVec.getLsbD_eq_getElem, decodeBody, decodeA, decodeV, accept, hi_append, above_setWidth, Body.vd, Body.vk, Body.vtype, Body.vfn, maskField, BitVec.extractLsb'_append_eq_of_add_le, BitVec.extractLsb'_setWidth_of_le]
theorem seqNop : Statement (.seqNop) := ofCodes rfl (fun _ h => by cases h) (fun _ h => by cases h)
theorem seta (b : BitVec 2) (a : BitVec 16) : Statement (.seta b a) := ofCodes rfl (fun _ h => by cases h) (fun _ h => by cases h)
theorem addaReg (b t : BitVec 2) : Statement (.addaReg b t) := ofCodes rfl (fun _ h => by cases h) (fun _ h => by cases h)
theorem addaImm (b : BitVec 2) (i : BitVec 22) : Statement (.addaImm b i) := ofCodes rfl (fun _ h => by cases h) (fun _ h => by cases h)
theorem sets (t : BitVec 2) (i : BitVec 25) : Statement (.sets t i) := ofCodes rfl (fun _ h => by cases h) (fun _ h => by cases h)
theorem loopImm (n : BitVec 2) (c : BitVec 24) : Statement (.loopImm n c) := ofCodes rfl (fun _ h => by cases h) (fun _ h => by cases h)
theorem loopArg (n : BitVec 2) (a : BitVec 24) : Statement (.loopArg n a) := ofCodes rfl (fun _ h => by cases h) (fun _ h => by cases h)
theorem endl (n : BitVec 2) (top : BitVec 6) : Statement (.endl n top) := ofCodes rfl (fun _ h => by cases h) (fun _ h => by cases h)
theorem emitLd (b q : BitVec 2) (sz : BitVec 3) (off : BitVec 16) : Statement (.emitLd b q sz off) := ofCodes rfl (fun _ h => by cases h) (fun _ h => by cases h)
theorem emitSt (b q : BitVec 2) (sz : BitVec 3) (off : BitVec 16) : Statement (.emitSt b q sz off) := ofCodes rfl (fun _ h => by cases h) (fun _ h => by cases h)
theorem emitGth (b iq : BitVec 2) (sz : BitVec 3) (oq : BitVec 2) (sh : BitVec 3) : Statement (.emitGth b iq sz oq sh) := ofCodes rfl (fun _ h => by cases h) (fun _ h => by cases h)
theorem emitSct (b iq : BitVec 2) (sz : BitVec 3) (dq : BitVec 2) (sh : BitVec 3) : Statement (.emitSct b iq sz dq sh) := ofCodes rfl (fun _ h => by cases h) (fun _ h => by cases h)
theorem brc (pol : Bool) (top : BitVec 6) : Statement (.brc pol top) := ofCodes rfl (fun _ h => by cases h) (fun _ h => by cases h)
theorem waitc (link : BitVec 2) : Statement (.waitc link) := ofCodes rfl (fun _ h => by cases h) (fun _ h => by cases h)
theorem signal (link : BitVec 2) (v : Bool) : Statement (.signal link v) := ofCodes rfl (fun _ h => by cases h) (fun _ h => by cases h)
theorem seqFence : Statement (.seqFence) := ofCodes rfl (fun _ h => by cases h) (fun _ h => by cases h)
theorem eor (qmask : BitVec 4) : Statement (.eor qmask) := ofCodes rfl (fun _ h => by cases h) (fun _ h => by cases h)
theorem seqSync (level sc : BitVec 2) : Statement (.seqSync level sc) := ofCodes rfl (fun _ h => by cases h) (fun _ h => by cases h)
theorem setf (fmt : BitVec 5) (q : BitVec 2) : Statement (.setf fmt q) := ofCodes rfl (fun _ h => by cases h) (fun _ h => by cases h)
theorem setfIn (fmt : BitVec 5) (q : BitVec 2) : Statement (.setfIn fmt q) := ofCodes rfl (fun _ h => by cases h) (fun _ h => by cases h)
theorem halt : Statement (.halt) := ofCodes rfl (fun _ h => by cases h) (fun _ h => by cases h)
theorem feAdd : Statement (.feAdd) := ofCodes rfl (fun _ h => by cases h; rfl) (fun _ h => by cases h)
theorem feSub : Statement (.feSub) := ofCodes rfl (fun _ h => by cases h; rfl) (fun _ h => by cases h)
theorem feMul : Statement (.feMul) := ofCodes rfl (fun _ h => by cases h; rfl) (fun _ h => by cases h)
theorem feFma : Statement (.feFma) := ofCodes rfl (fun _ h => by cases h; rfl) (fun _ h => by cases h)
theorem feFms : Statement (.feFms) := ofCodes rfl (fun _ h => by cases h; rfl) (fun _ h => by cases h)
theorem feMin : Statement (.feMin) := ofCodes rfl (fun _ h => by cases h; rfl) (fun _ h => by cases h)
theorem feMax : Statement (.feMax) := ofCodes rfl (fun _ h => by cases h; rfl) (fun _ h => by cases h)
theorem feAbs : Statement (.feAbs) := ofCodes rfl (fun _ h => by cases h; rfl) (fun _ h => by cases h)
theorem feNeg : Statement (.feNeg) := ofCodes rfl (fun _ h => by cases h; rfl) (fun _ h => by cases h)
theorem feDiv : Statement (.feDiv) := ofCodes rfl (fun _ h => by cases h; rfl) (fun _ h => by cases h)
theorem feRcp : Statement (.feRcp) := ofCodes rfl (fun _ h => by cases h; rfl) (fun _ h => by cases h)
theorem feRsq : Statement (.feRsq) := ofCodes rfl (fun _ h => by cases h; rfl) (fun _ h => by cases h)
theorem feSqrt : Statement (.feSqrt) := ofCodes rfl (fun _ h => by cases h; rfl) (fun _ h => by cases h)
theorem feExp2 : Statement (.feExp2) := ofCodes rfl (fun _ h => by cases h; rfl) (fun _ h => by cases h)
theorem feLog2 : Statement (.feLog2) := ofCodes rfl (fun _ h => by cases h; rfl) (fun _ h => by cases h)
theorem feTanh : Statement (.feTanh) := ofCodes rfl (fun _ h => by cases h; rfl) (fun _ h => by cases h)
theorem feAdds : Statement (.feAdds) := ofCodes rfl (fun _ h => by cases h; rfl) (fun _ h => by cases h)
theorem feSubs : Statement (.feSubs) := ofCodes rfl (fun _ h => by cases h; rfl) (fun _ h => by cases h)
theorem feAvg : Statement (.feAvg) := ofCodes rfl (fun _ h => by cases h; rfl) (fun _ h => by cases h)
theorem feMulh : Statement (.feMulh) := ofCodes rfl (fun _ h => by cases h; rfl) (fun _ h => by cases h)
theorem feCmpeq : Statement (.feCmpeq) := ofCodes rfl (fun _ h => by cases h; rfl) (fun _ h => by cases h)
theorem feCmpne : Statement (.feCmpne) := ofCodes rfl (fun _ h => by cases h; rfl) (fun _ h => by cases h)
theorem feCmplt : Statement (.feCmplt) := ofCodes rfl (fun _ h => by cases h; rfl) (fun _ h => by cases h)
theorem feCmple : Statement (.feCmple) := ofCodes rfl (fun _ h => by cases h; rfl) (fun _ h => by cases h)
theorem feAnd : Statement (.feAnd) := ofCodes rfl (fun _ h => by cases h; rfl) (fun _ h => by cases h)
theorem feOr : Statement (.feOr) := ofCodes rfl (fun _ h => by cases h; rfl) (fun _ h => by cases h)
theorem feXor : Statement (.feXor) := ofCodes rfl (fun _ h => by cases h; rfl) (fun _ h => by cases h)
theorem feNot : Statement (.feNot) := ofCodes rfl (fun _ h => by cases h; rfl) (fun _ h => by cases h)
theorem feSel : Statement (.feSel) := ofCodes rfl (fun _ h => by cases h; rfl) (fun _ h => by cases h)
theorem feShl : Statement (.feShl) := ofCodes rfl (fun _ h => by cases h; rfl) (fun _ h => by cases h)
theorem feShr : Statement (.feShr) := ofCodes rfl (fun _ h => by cases h; rfl) (fun _ h => by cases h)
theorem feSar : Statement (.feSar) := ofCodes rfl (fun _ h => by cases h; rfl) (fun _ h => by cases h)
theorem fePopc : Statement (.fePopc) := ofCodes rfl (fun _ h => by cases h; rfl) (fun _ h => by cases h)
theorem feClz : Statement (.feClz) := ofCodes rfl (fun _ h => by cases h; rfl) (fun _ h => by cases h)
theorem feCvt : Statement (.feCvt) := ofCodes rfl (fun _ h => by cases h; rfl) (fun _ h => by cases h)
theorem feSround : Statement (.feSround) := ofCodes rfl (fun _ h => by cases h; rfl) (fun _ h => by cases h)
theorem feQmax : Statement (.feQmax) := ofCodes rfl (fun _ h => by cases h; rfl) (fun _ h => by cases h)
theorem feQcvt : Statement (.feQcvt) := ofCodes rfl (fun _ h => by cases h; rfl) (fun _ h => by cases h)
theorem feDq : Statement (.feDq) := ofCodes rfl (fun _ h => by cases h; rfl) (fun _ h => by cases h)
theorem feRsum : Statement (.feRsum) := ofCodes rfl (fun _ h => by cases h; rfl) (fun _ h => by cases h)
theorem feRmax : Statement (.feRmax) := ofCodes rfl (fun _ h => by cases h; rfl) (fun _ h => by cases h)
theorem feRmin : Statement (.feRmin) := ofCodes rfl (fun _ h => by cases h; rfl) (fun _ h => by cases h)
theorem feAcc : Statement (.feAcc) := ofCodes rfl (fun _ h => by cases h; rfl) (fun _ h => by cases h)
theorem feScan : Statement (.feScan) := ofCodes rfl (fun _ h => by cases h; rfl) (fun _ h => by cases h)
theorem feBcast : Statement (.feBcast) := ofCodes rfl (fun _ h => by cases h; rfl) (fun _ h => by cases h)
theorem feShuf : Statement (.feShuf) := ofCodes rfl (fun _ h => by cases h; rfl) (fun _ h => by cases h)
theorem fePack : Statement (.fePack) := ofCodes rfl (fun _ h => by cases h; rfl) (fun _ h => by cases h)
theorem feUnpack : Statement (.feUnpack) := ofCodes rfl (fun _ h => by cases h; rfl) (fun _ h => by cases h)
theorem feDelay : Statement (.feDelay) := ofCodes rfl (fun _ h => by cases h; rfl) (fun _ h => by cases h)
theorem feCturn : Statement (.feCturn) := ofCodes rfl (fun _ h => by cases h; rfl) (fun _ h => by cases h)
theorem feRepl : Statement (.feRepl) := ofCodes rfl (fun _ h => by cases h; rfl) (fun _ h => by cases h)
theorem feIota : Statement (.feIota) := ofCodes rfl (fun _ h => by cases h; rfl) (fun _ h => by cases h)
theorem feConst : Statement (.feConst) := ofCodes rfl (fun _ h => by cases h; rfl) (fun _ h => by cases h)
theorem feZip : Statement (.feZip) := ofCodes rfl (fun _ h => by cases h; rfl) (fun _ h => by cases h)
theorem feSplit : Statement (.feSplit) := ofCodes rfl (fun _ h => by cases h; rfl) (fun _ h => by cases h)
theorem feHash : Statement (.feHash) := ofCodes rfl (fun _ h => by cases h; rfl) (fun _ h => by cases h)
theorem feSrc : Statement (.feSrc) := ofCodes rfl (fun _ h => by cases h; rfl) (fun _ h => by cases h)
theorem feSink : Statement (.feSink) := ofCodes rfl (fun _ h => by cases h; rfl) (fun _ h => by cases h)
theorem feEsc : Statement (.feEsc) := ofCodes rfl (fun _ h => by cases h; rfl) (fun _ h => by cases h)
theorem feSync : Statement (.feSync) := ofCodes rfl (fun _ h => by cases h; rfl) (fun _ h => by cases h)
theorem feFence : Statement (.feFence) := ofCodes rfl (fun _ h => by cases h; rfl) (fun _ h => by cases h)
theorem feCmpk : Statement (.feCmpk) := ofCodes rfl (fun _ h => by cases h; rfl) (fun _ h => by cases h)
theorem markerFiring : Statement (.markerFiring) := ofCodes rfl (fun _ h => by cases h) (fun _ h => by cases h)
theorem planeChange : Statement (.planeChange) := ofCodes rfl (fun _ h => by cases h) (fun _ h => by cases h)
theorem steer : Statement (.steer) := ofCodes rfl (fun _ h => by cases h) (fun _ h => by cases h; rfl)
theorem merge : Statement (.merge) := ofCodes rfl (fun _ h => by cases h) (fun _ h => by cases h; rfl)
theorem carry : Statement (.carry) := ofCodes rfl (fun _ h => by cases h) (fun _ h => by cases h; rfl)
theorem mtProbe : Statement (.mtProbe) := ofCodes rfl (fun _ h => by cases h; rfl) (fun _ h => by cases h)
theorem mxLoadb : Statement (.mxLoadb) := ofCodes rfl (fun _ h => by cases h; rfl) (fun _ h => by cases h)
theorem mxMm : Statement (.mxMm) := ofCodes rfl (fun _ h => by cases h; rfl) (fun _ h => by cases h)
theorem mxDrain : Statement (.mxDrain) := ofCodes rfl (fun _ h => by cases h; rfl) (fun _ h => by cases h)
theorem mxMsg : Statement (.mxMsg) := ofCodes rfl (fun _ h => by cases h; rfl) (fun _ h => by cases h)
theorem escDispatch : Statement (.escDispatch) := ofCodes rfl (fun _ h => by cases h) (fun _ h => by cases h)
theorem escReplyArrival : Statement (.escReplyArrival) := ofCodes rfl (fun _ h => by cases h) (fun _ h => by cases h)
theorem blockFetch : Statement (.blockFetch) := ofCodes rfl (fun _ h => by cases h) (fun _ h => by cases h)
theorem loadReturn : Statement (.loadReturn) := ofCodes rfl (fun _ h => by cases h) (fun _ h => by cases h)
theorem blockCommit : Statement (.blockCommit) := ofCodes rfl (fun _ h => by cases h) (fun _ h => by cases h)
theorem timerExpiry : Statement (.timerExpiry) := ofCodes rfl (fun _ h => by cases h) (fun _ h => by cases h)
theorem vuIssue : Statement (.vuIssue) := ofCodes rfl (fun _ h => by cases h) (fun _ h => by cases h)
theorem updateAccept : Statement (.updateAccept) := ofCodes rfl (fun _ h => by cases h) (fun _ h => by cases h)
theorem updateDrain : Statement (.updateDrain) := ofCodes rfl (fun _ h => by cases h) (fun _ h => by cases h)
theorem patrolRead : Statement (.patrolRead) := ofCodes rfl (fun _ h => by cases h) (fun _ h => by cases h)
theorem tlbWalkStep : Statement (.tlbWalkStep) := ofCodes rfl (fun _ h => by cases h) (fun _ h => by cases h)
theorem walkStep : Statement (.walkStep) := ofCodes rfl (fun _ h => by cases h) (fun _ h => by cases h)
theorem walkerGrant : Statement (.walkerGrant) := ofCodes rfl (fun _ h => by cases h) (fun _ h => by cases h)
theorem sendInject : Statement (.sendInject) := ofCodes rfl (fun _ h => by cases h) (fun _ h => by cases h)
theorem messageArrival : Statement (.messageArrival) := ofCodes rfl (fun _ h => by cases h) (fun _ h => by cases h)
theorem savedRingDelivery : Statement (.savedRingDelivery) := ofCodes rfl (fun _ h => by cases h) (fun _ h => by cases h)
theorem eventPost : Statement (.eventPost) := ofCodes rfl (fun _ h => by cases h) (fun _ h => by cases h)
theorem faultRecordPost : Statement (.faultRecordPost) := ofCodes rfl (fun _ h => by cases h) (fun _ h => by cases h)
theorem lqtailWrite : Statement (.lqtailWrite) := ofCodes rfl (fun _ h => by cases h) (fun _ h => by cases h)
theorem launchAdmission : Statement (.launchAdmission) := ofCodes rfl (fun _ h => by cases h) (fun _ h => by cases h)
theorem threadPlacement : Statement (.threadPlacement) := ofCodes rfl (fun _ h => by cases h) (fun _ h => by cases h)
theorem herdPlacement : Statement (.herdPlacement) := ofCodes rfl (fun _ h => by cases h) (fun _ h => by cases h)
theorem placementTimeout : Statement (.placementTimeout) := ofCodes rfl (fun _ h => by cases h) (fun _ h => by cases h)
theorem arbitrationPeriod : Statement (.arbitrationPeriod) := ofCodes rfl (fun _ h => by cases h) (fun _ h => by cases h)
theorem slotReclaim : Statement (.slotReclaim) := ofCodes rfl (fun _ h => by cases h) (fun _ h => by cases h)
theorem launchDone : Statement (.launchDone) := ofCodes rfl (fun _ h => by cases h) (fun _ h => by cases h)
theorem fabricAdmission : Statement (.fabricAdmission) := ofCodes rfl (fun _ h => by cases h) (fun _ h => by cases h)
theorem configLoad : Statement (.configLoad) := ofCodes rfl (fun _ h => by cases h) (fun _ h => by cases h)
theorem planeSlotWritten : Statement (.planeSlotWritten) := ofCodes rfl (fun _ h => by cases h) (fun _ h => by cases h)
theorem planeRefetch : Statement (.planeRefetch) := ofCodes rfl (fun _ h => by cases h) (fun _ h => by cases h)
theorem generatorFault : Statement (.generatorFault) := ofCodes rfl (fun _ h => by cases h) (fun _ h => by cases h)
theorem fenceRetire : Statement (.fenceRetire) := ofCodes rfl (fun _ h => by cases h) (fun _ h => by cases h)
theorem stall : Statement (.stall) := ofCodes rfl (fun _ h => by cases h) (fun _ h => by cases h)
theorem drainRequest : Statement (.drainRequest) := ofCodes rfl (fun _ h => by cases h) (fun _ h => by cases h)
theorem drained : Statement (.drained) := ofCodes rfl (fun _ h => by cases h) (fun _ h => by cases h)
theorem drainTimeout : Statement (.drainTimeout) := ofCodes rfl (fun _ h => by cases h) (fun _ h => by cases h)
theorem graphCompletion : Statement (.graphCompletion) := ofCodes rfl (fun _ h => by cases h) (fun _ h => by cases h)
theorem engineTake : Statement (.engineTake) := ofCodes rfl (fun _ h => by cases h) (fun _ h => by cases h)
theorem boxLand : Statement (.boxLand) := ofCodes rfl (fun _ h => by cases h) (fun _ h => by cases h)
theorem engineSegmentFault : Statement (.engineSegmentFault) := ofCodes rfl (fun _ h => by cases h) (fun _ h => by cases h)
theorem fixupReplay : Statement (.fixupReplay) := ofCodes rfl (fun _ h => by cases h) (fun _ h => by cases h)
theorem engineComplete : Statement (.engineComplete) := ofCodes rfl (fun _ h => by cases h) (fun _ h => by cases h)
theorem xchgReceive : Statement (.xchgReceive) := ofCodes rfl (fun _ h => by cases h) (fun _ h => by cases h)
theorem xchgTimeout : Statement (.xchgTimeout) := ofCodes rfl (fun _ h => by cases h) (fun _ h => by cases h)
theorem mxcInject : Statement (.mxcInject) := ofCodes rfl (fun _ h => by cases h) (fun _ h => by cases h)
theorem loadw : Statement (.loadw) := ofCodes rfl (fun _ h => by cases h) (fun _ h => by cases h)
theorem mm : Statement (.mm) := ofCodes rfl (fun _ h => by cases h) (fun _ h => by cases h)
theorem drain : Statement (.drain) := ofCodes rfl (fun _ h => by cases h) (fun _ h => by cases h)
theorem clear : Statement (.clear) := ofCodes rfl (fun _ h => by cases h) (fun _ h => by cases h)
theorem barWatchdog : Statement (.barWatchdog) := ofCodes rfl (fun _ h => by cases h) (fun _ h => by cases h)
theorem switchOut : Statement (.switchOut) := ofCodes rfl (fun _ h => by cases h) (fun _ h => by cases h)
theorem saveComplete : Statement (.saveComplete) := ofCodes rfl (fun _ h => by cases h) (fun _ h => by cases h)
theorem resume : Statement (.resume) := ofCodes rfl (fun _ h => by cases h) (fun _ h => by cases h)
theorem ctxctlSwitchOut : Statement (.ctxctlSwitchOut) := ofCodes rfl (fun _ h => by cases h) (fun _ h => by cases h)
theorem ctxctlAbort : Statement (.ctxctlAbort) := ofCodes rfl (fun _ h => by cases h) (fun _ h => by cases h)
theorem ctxctlForward : Statement (.ctxctlForward) := ofCodes rfl (fun _ h => by cases h) (fun _ h => by cases h)
theorem fqresRetry : Statement (.fqresRetry) := ofCodes rfl (fun _ h => by cases h) (fun _ h => by cases h)
theorem fqresAbort : Statement (.fqresAbort) := ofCodes rfl (fun _ h => by cases h) (fun _ h => by cases h)
theorem fqheadWrite : Statement (.fqheadWrite) := ofCodes rfl (fun _ h => by cases h) (fun _ h => by cases h)
theorem gctlDrain : Statement (.gctlDrain) := ofCodes rfl (fun _ h => by cases h) (fun _ h => by cases h)
theorem gctlAbort : Statement (.gctlAbort) := ofCodes rfl (fun _ h => by cases h) (fun _ h => by cases h)
theorem contextWindowWrite : Statement (.contextWindowWrite) := ofCodes rfl (fun _ h => by cases h) (fun _ h => by cases h)
theorem ctileWrite : Statement (.ctileWrite) := ofCodes rfl (fun _ h => by cases h) (fun _ h => by cases h)
theorem mtileWrite : Statement (.mtileWrite) := ofCodes rfl (fun _ h => by cases h) (fun _ h => by cases h)
theorem segmentConversionDone : Statement (.segmentConversionDone) := ofCodes rfl (fun _ h => by cases h) (fun _ h => by cases h)
theorem clkctlWrite : Statement (.clkctlWrite) := ofCodes rfl (fun _ h => by cases h) (fun _ h => by cases h)
theorem itportStage : Statement (.itportStage) := ofCodes rfl (fun _ h => by cases h) (fun _ h => by cases h)
theorem itctlGo : Statement (.itctlGo) := ofCodes rfl (fun _ h => by cases h) (fun _ h => by cases h)
theorem tableBroadcastAck : Statement (.tableBroadcastAck) := ofCodes rfl (fun _ h => by cases h) (fun _ h => by cases h)
theorem controlRegisterWrite : Statement (.controlRegisterWrite) := ofCodes rfl (fun _ h => by cases h) (fun _ h => by cases h)
theorem retireCore : Statement (.retireCore) := ofCodes rfl (fun _ h => by cases h) (fun _ h => by cases h)
theorem retireHerd : Statement (.retireHerd) := ofCodes rfl (fun _ h => by cases h) (fun _ h => by cases h)
theorem retireSite : Statement (.retireSite) := ofCodes rfl (fun _ h => by cases h) (fun _ h => by cases h)
theorem retireDomain : Statement (.retireDomain) := ofCodes rfl (fun _ h => by cases h) (fun _ h => by cases h)
theorem retireChannel : Statement (.retireChannel) := ofCodes rfl (fun _ h => by cases h) (fun _ h => by cases h)
theorem linkRoute : Statement (.linkRoute) := ofCodes rfl (fun _ h => by cases h) (fun _ h => by cases h)
theorem laneSpare : Statement (.laneSpare) := ofCodes rfl (fun _ h => by cases h) (fun _ h => by cases h)
theorem attest : Statement (.attest) := ofCodes rfl (fun _ h => by cases h) (fun _ h => by cases h)
theorem herdQuiescentWindow : Statement (.herdQuiescentWindow) := ofCodes rfl (fun _ h => by cases h) (fun _ h => by cases h)
theorem stripeQuiescentWindow : Statement (.stripeQuiescentWindow) := ofCodes rfl (fun _ h => by cases h) (fun _ h => by cases h)
theorem channelSpareCopy : Statement (.channelSpareCopy) := ofCodes rfl (fun _ h => by cases h) (fun _ h => by cases h)
theorem tlbSliceMove : Statement (.tlbSliceMove) := ofCodes rfl (fun _ h => by cases h) (fun _ h => by cases h)
theorem niFail : Statement (.niFail) := ofCodes rfl (fun _ h => by cases h) (fun _ h => by cases h)
theorem regulatorPhase : Statement (.regulatorPhase) := ofCodes rfl (fun _ h => by cases h) (fun _ h => by cases h)
theorem elementRailFailure : Statement (.elementRailFailure) := ofCodes rfl (fun _ h => by cases h) (fun _ h => by cases h)
theorem routingRailFailure : Statement (.routingRailFailure) := ofCodes rfl (fun _ h => by cases h) (fun _ h => by cases h)
theorem controlCoreFailure : Statement (.controlCoreFailure) := ofCodes rfl (fun _ h => by cases h) (fun _ h => by cases h)
theorem tableEntryError : Statement (.tableEntryError) := ofCodes rfl (fun _ h => by cases h) (fun _ h => by cases h)
theorem tableEntryRefetch : Statement (.tableEntryRefetch) := ofCodes rfl (fun _ h => by cases h) (fun _ h => by cases h)
theorem seamFlitReceive : Statement (.seamFlitReceive) := ofCodes rfl (fun _ h => by cases h) (fun _ h => by cases h)
theorem seamResend : Statement (.seamResend) := ofCodes rfl (fun _ h => by cases h) (fun _ h => by cases h)
theorem linkFlitReceive : Statement (.linkFlitReceive) := ofCodes rfl (fun _ h => by cases h) (fun _ h => by cases h)
theorem linkReplay : Statement (.linkReplay) := ofCodes rfl (fun _ h => by cases h) (fun _ h => by cases h)
theorem laneFailure : Statement (.laneFailure) := ofCodes rfl (fun _ h => by cases h) (fun _ h => by cases h)
theorem hostAccess : Statement (.hostAccess) := ofCodes rfl (fun _ h => by cases h) (fun _ h => by cases h)
theorem coldBoot : Statement (.coldBoot) := ofCodes rfl (fun _ h => by cases h) (fun _ h => by cases h)
theorem chainUnitTimeout : Statement (.chainUnitTimeout) := ofCodes rfl (fun _ h => by cases h) (fun _ h => by cases h)
theorem inputUndervoltage : Statement (.inputUndervoltage) := ofCodes rfl (fun _ h => by cases h) (fun _ h => by cases h)
theorem thermalStep : Statement (.thermalStep) := ofCodes rfl (fun _ h => by cases h) (fun _ h => by cases h)
theorem thermalTrip : Statement (.thermalTrip) := ofCodes rfl (fun _ h => by cases h) (fun _ h => by cases h)
theorem thermalPowerRemoval : Statement (.thermalPowerRemoval) := ofCodes rfl (fun _ h => by cases h) (fun _ h => by cases h)
theorem linkTraining : Statement (.linkTraining) := ofCodes rfl (fun _ h => by cases h) (fun _ h => by cases h)
theorem softError : Statement (.softError) := ofCodes rfl (fun _ h => by cases h) (fun _ h => by cases h)

end Sys2Proof.Laws.RoundTrip
end

