-- ==== Sys2Proof/Certificates/Slice0/Obligations.lean ====
section
/-!
DEFINITION. The statements for the provers. Each docstring names the rules of spec/ that the statement formalises; a
statement that rests on a choice of the model names the log entry.
-/

namespace Sys2Proof.Claims

open Sys2Proof.Machine

-- Shared vocabulary

/-- The outcome that goes on with t. -/
abbrev goes (t : State) : Out := .next t

/-- t is s with x in general register d of the acting context's block (a short result, R43), every other part of the state as
it was; a write to g0 leaves the registers as they were (R34). -/
def WroteG (s t : State) (d : RegNo) (x : Tagged) : Prop :=
  t.me.work.getG 0 = {} ∧ (d ≠ 0 → t.me.work.getG d.toNat = x) ∧
  (∀ n, n ≠ d.toNat → t.me.work.getG n = s.me.work.getG n) ∧
  t = s.setMe { s.me with work := { s.me.work with g := t.me.work.g } }

/-- t is s with predicate d of the acting context's block at b, and nothing else changed; a write to p0 leaves it 1 (R35). -/
def WroteP (s t : State) (d : PredNo) (b : Bool) : Prop :=
  t.me.work.getP 0 = true ∧ (d ≠ 0 → t.me.work.getP d.toNat = b) ∧
  (∀ n, n ≠ d.toNat → t.me.work.getP n = s.me.work.getP n) ∧
  t = s.setMe { s.me with work := { s.me.work with p := t.me.work.p } }

/-- t is s with one more outstanding result of the acting context, these register writes (a long result, R43). -/
def Owes (s t : State) (ws : List RegWrite) : Prop :=
  t = s.setMe { s.me with outst := s.me.outst ++ [ws] }

/-- No pre-emption request and no interrupt of the acting context has arrived: its block runs to its commit (R27, R38). -/
def Calm (s : State) : Prop :=
  s.me.switchReq = false ∧ (s.me.ie = true → s.me.timerEvent = false ∧ ∀ c, s.me.timerAt = some c → s.time < c)

/-- Sign extension of the low 32 bits of an integer (R125). -/
def sx (x : Int) : Word := BitVec.ofInt 64 ((BitVec.ofInt 32 x).toInt)

end Sys2Proof.Claims

open Sys2Proof Sys2Proof.Machine Sys2Proof.Claims

-- Integer instructions (R121..R137)

/-- R125, R43, R122: the functions of two registers with a short result: the value that the table gives, the tag clear, and
nothing else changed. -/
def Sys2Proof.Claims.IntegerFunctionResults : Prop :=
  ∀ (s : State) (d a b : RegNo),
    let x := s.me.rg a
    let y := s.me.rg b
    let n := y.toNat % 64
    let m := y.toNat % 32
    let gives (i : Instr) (v : Word) : Prop := ∃ t, exec i s = goes t ∧ WroteG s t d { val := v, tag := false }
    gives (.add d a b) (BitVec.ofNat 64 (x.toNat + y.toNat)) ∧
    gives (.sub d a b) (BitVec.ofInt 64 (x.toInt - y.toInt)) ∧
    gives (.and d a b) (x &&& y) ∧ gives (.or d a b) (x ||| y) ∧ gives (.xor d a b) (x ^^^ y) ∧
    gives (.andn d a b) (x &&& ~~~y) ∧ gives (.orn d a b) (x ||| ~~~y) ∧
    gives (.sll d a b) (BitVec.ofNat 64 (x.toNat * 2 ^ n)) ∧
    gives (.srl d a b) (BitVec.ofNat 64 (x.toNat / 2 ^ n)) ∧
    gives (.sra d a b) (BitVec.ofInt 64 (x.toInt / 2 ^ n)) ∧
    gives (.rol d a b) (x <<< n ||| x >>> (64 - n)) ∧
    gives (.ror d a b) (x >>> n ||| x <<< (64 - n)) ∧
    gives (.min d a b) (BitVec.ofInt 64 (min x.toInt y.toInt)) ∧
    gives (.max d a b) (BitVec.ofInt 64 (max x.toInt y.toInt)) ∧
    gives (.minu d a b) (BitVec.ofNat 64 (min x.toNat y.toNat)) ∧
    gives (.maxu d a b) (BitVec.ofNat 64 (max x.toNat y.toNat)) ∧
    gives (.addw d a b) (sx (x.toInt + y.toInt)) ∧
    gives (.subw d a b) (sx (x.toInt - y.toInt)) ∧
    gives (.sllw d a b) (sx (x.toNat * 2 ^ m : Nat)) ∧
    gives (.srlw d a b) (sx (x.toNat % 2 ^ 32 / 2 ^ m : Nat)) ∧
    gives (.sraw d a b) (BitVec.ofInt 64 ((x.setWidth 32).toInt / 2 ^ m))

/-- R125: the functions of one register: mov copies the tag (R122); clz and ctz answer 64 for zero and otherwise the
distance of the outermost one bit; popc counts the one bits; bswap turns the bytes round. -/
def Sys2Proof.Claims.UnaryIntegerResults : Prop :=
  ∀ (s : State) (d a : RegNo),
    let x := s.me.rg a
    (∃ t, exec (.mov d a) s = goes t ∧ WroteG s t d (s.me.rgt a)) ∧
    (∃ t r, exec (.clz d a) s = goes t ∧ WroteG s t d { val := BitVec.ofNat 64 r, tag := false } ∧
      r ≤ 64 ∧ (∀ i, 64 - r ≤ i → x.getLsbD i = false) ∧ (r < 64 → x.getLsbD (63 - r) = true)) ∧
    (∃ t r, exec (.ctz d a) s = goes t ∧ WroteG s t d { val := BitVec.ofNat 64 r, tag := false } ∧
      r ≤ 64 ∧ (∀ i, i < r → x.getLsbD i = false) ∧ (r < 64 → x.getLsbD r = true)) ∧
    (∃ t, exec (.popc d a) s = goes t ∧
      WroteG s t d { val := BitVec.ofNat 64 (((List.range 64).map (fun i => x.toNat / 2 ^ i % 2)).sum), tag := false }) ∧
    (∃ t v, exec (.bswap d a) s = goes t ∧ WroteG s t d { val := v, tag := false } ∧
      ∀ k, k < 8 → v.extractLsb' (8 * (7 - k)) 8 = x.extractLsb' (8 * k) 8)

/-- R122, R125: the functions with a short result, of two registers and of one: the value of the table, the tag clear (mov copies
the tag), and nothing else changed. -/
def Obligations.IntegerResults : Prop := IntegerFunctionResults ∧ UnaryIntegerResults

/-- R129..R133: immediates, constants, scaled addition and bit fields, each with a short result and a clear tag. liu and bfi
read their own destination. The bit-field forms are those that the encoding admits (lsb + width ≤ 64). -/
def Obligations.ImmediateResults : Prop :=
  ∀ (s : State) (d a b : RegNo) (i12 : BitVec 12) (i18 : BitVec 18) (n lsb w1 : BitVec 6) (sh : BitVec 3),
    let x := s.me.rg a
    let own := s.me.rg d
    let w := w1.toNat + 1
    let gives (i : Instr) (v : Word) : Prop := ∃ t, exec i s = goes t ∧ WroteG s t d { val := v, tag := false }
    gives (.addi d a i12) (BitVec.ofInt 64 (x.toInt + i12.toInt)) ∧
    gives (.andi d a i12) (x &&& BitVec.ofInt 64 i12.toInt) ∧
    gives (.ori d a i12) (x ||| BitVec.ofNat 64 i12.toNat) ∧
    gives (.xori d a i12) (x ^^^ BitVec.ofNat 64 i12.toNat) ∧
    gives (.slli d a n) (BitVec.ofNat 64 (x.toNat * 2 ^ n.toNat)) ∧
    gives (.srli d a n) (BitVec.ofNat 64 (x.toNat / 2 ^ n.toNat)) ∧
    gives (.srai d a n) (BitVec.ofInt 64 (x.toInt / 2 ^ n.toNat)) ∧
    gives (.roli d a n) (x <<< n.toNat ||| x >>> (64 - n.toNat)) ∧
    gives (.rori d a n) (x >>> n.toNat ||| x <<< (64 - n.toNat)) ∧
    (n.toNat < 32 → gives (.sllwi d a n) (sx (x.toNat * 2 ^ n.toNat : Nat))) ∧
    (n.toNat < 32 → gives (.srlwi d a n) (sx (x.toNat % 2 ^ 32 / 2 ^ n.toNat : Nat))) ∧
    (n.toNat < 32 → gives (.srawi d a n) (BitVec.ofInt 64 ((x.setWidth 32).toInt / 2 ^ n.toNat))) ∧
    gives (.li d i18) (BitVec.ofInt 64 i18.toInt) ∧
    gives (.liu d i18) (BitVec.ofNat 64 (own.toNat * 2 ^ 18) ||| BitVec.ofNat 64 i18.toNat) ∧
    gives (.scadd d a b sh) (BitVec.ofNat 64 (x.toNat + (s.me.rg b).toNat * 2 ^ sh.toNat)) ∧
    (lsb.toNat + w ≤ 64 → gives (.bfx d a lsb w1) (BitVec.ofNat 64 (x.toNat / 2 ^ lsb.toNat % 2 ^ w))) ∧
    (lsb.toNat + w ≤ 64 → ∃ v, gives (.bfi d a lsb w1) v ∧ ∀ i, i < 64 →
      v.getLsbD i = if lsb.toNat ≤ i ∧ i < lsb.toNat + w then x.getLsbD (i - lsb.toNat) else own.getLsbD i)

/-- R125, R127, R128, R43: the functions with a long result: products, hash64 and crc32c. They raise no flag. -/
def Obligations.LongIntegerResults : Prop :=
  ∀ (s : State) (d a b : RegNo),
    let x := s.me.rg a
    let y := s.me.rg b
    let owes (i : Instr) (v : Word) : Prop := ∃ t, exec i s = goes t ∧ Owes s t [.g d.toNat { val := v, tag := false }]
    owes (.mul d a b) (BitVec.ofInt 64 (x.toInt * y.toInt)) ∧
    owes (.mulh d a b) (BitVec.ofInt 64 (x.toInt * y.toInt / 2 ^ 64)) ∧
    owes (.mulhu d a b) (BitVec.ofNat 64 (x.toNat * y.toNat / 2 ^ 64)) ∧
    owes (.mulw d a b) (sx (x.toInt * y.toInt)) ∧
    owes (.hash64 d a b)
      (let u := x + y * 0x9E3779B97F4A7C15
       let u := (u ^^^ (u >>> 31)) * 0xE7C15A934D2B86F1
       let u := (u ^^^ (u >>> 29)) * 0xB52F3E17C9A0D46B
       u ^^^ (u >>> 32)) ∧
    owes (.crc32c d a b)
      (let bit (c : BitVec 32) (_ : Nat) : BitVec 32 := if c.getLsbD 0 then (c >>> 1) ^^^ 0x82F63B78 else c >>> 1
       ((List.range 8).foldl (fun c i => (List.range 8).foldl bit (c ^^^ (y.extractLsb' (8 * i) 8).setWidth 32))
         (x.setWidth 32)).setWidth 64)

/-- R126: division. A zero divisor gives all ones or the dividend and sets s.fcsr.idz with the result, or, when idze was 1 at
the start of the block, traps with DIV_ZERO, s.tval the dividend; every other case gives quotients that truncate toward zero
and remainders with the dividend's sign, and no flag. A write to g0 is discarded with its flag (R122). -/
def Obligations.DivisionResults : Prop :=
  ∀ (s : State) (d a b : RegNo),
    let x := s.me.rg a
    let y := s.me.rg b
    let idze := s.me.arch.fcsr.getLsbD 15
    let rule (i : Instr) (zero other : Word) : Prop :=
      (y ≠ 0 → ∃ t, exec i s = goes t ∧ Owes s t [.g d.toNat { val := other, tag := false }]) ∧
      (y = 0 → idze = false → ∃ t, exec i s = goes t ∧ Owes s t (.g d.toNat { val := zero, tag := false } ::
        (if d = 0 then [] else [.flags (2 ^ 14)]))) ∧
      (y = 0 → idze = true → exec i s = goes (s.trapMe Cause.divZero x 0))
    rule (.div d a b) (BitVec.allOnes 64) (x.sdiv y) ∧
    rule (.divu d a b) (BitVec.allOnes 64) (BitVec.ofNat 64 (x.toNat / y.toNat)) ∧
    rule (.rem d a b) x (x.srem y) ∧
    rule (.remu d a b) x (BitVec.ofNat 64 (x.toNat % y.toNat))

/-- R134..R136: compares and predicate operations with their combines; the integer conditions, and the predicate operations,
raise no flag. ppack and punpack carry p1..p7 in bits 1..7; isref reads the tag. -/
def Sys2Proof.Claims.PredicateResults : Prop :=
  ∀ (s : State) (pd pa pb : PredNo) (d a b : RegNo) (imm : BitVec 9) (k : Combine),
    let x := s.me.rg a
    let y := s.me.rg b
    let z := BitVec.ofInt 64 imm.toInt
    let p := s.me.rp pa
    let q := s.me.rp pb
    let put (t : Bool) : Bool := match k with
      | .set => t
      | .and => s.me.rp pd && t
      | .or => s.me.rp pd || t
    let gives (i : Instr) (v : Bool) : Prop := ∃ t, exec i s = goes t ∧ WroteP s t pd v
    (∀ c u v, (c, u, v) ∈ [(IntCond.eq, x == y, x == z), (.ne, x != y, x != z),
        (.lt, decide (x.toInt < y.toInt), decide (x.toInt < z.toInt)), (.ge, decide (y.toInt ≤ x.toInt), decide (z.toInt ≤ x.toInt)),
        (.ltu, decide (x.toNat < y.toNat), decide (x.toNat < z.toNat)), (.geu, decide (y.toNat ≤ x.toNat), decide (z.toNat ≤ x.toNat))] →
      gives (.cmp (.int c) k pd a b) (put u) ∧ gives (.cmpi c k pd a imm) (put v)) ∧
    gives (.pand pd pa pb) (p && q) ∧ gives (.por pd pa pb) (p || q) ∧ gives (.pxor pd pa pb) (p != q) ∧
    gives (.pandn pd pa pb) (p && !q) ∧ gives (.pnot pd pa) (!p) ∧ gives (.isref pd a) (s.me.rgt a).tag ∧
    (∃ t v, exec (.ppack d) s = goes t ∧ WroteG s t d { val := v, tag := false } ∧ ∀ i, i < 64 →
      v.getLsbD i = (decide (i < 8) && s.me.view.getP i)) ∧
    (∃ t, exec (.punpack a) s = goes t ∧ (∀ i, 1 ≤ i → i < 8 → t.me.work.getP i = x.getLsbD i) ∧ t.me.work.getP 0 = true ∧
      t = s.setMe { s.me with work := { s.me.work with p := t.me.work.p } }) ∧
    (∃ t, exec (.sel d a b pa) s = goes t ∧ WroteG s t d (if p then s.me.rgt a else s.me.rgt b))

/-- R134, R135, R138: a float compare. The condition is false on a NaN operand but for fun; flt and fle raise nv on every
NaN, feq and fun on a signalling one; a raised nv whose enable was 1 at the start of the block traps with FP_SCALAR, s.tval
holding the raised flags, and otherwise joins s.fcsr with the predicate (R139), unless the target is p0 (R122). -/
def Sys2Proof.Claims.FloatCompareResults : Prop :=
  ∀ (s : State) (c : FloatCond) (k : Combine) (pd : PredNo) (a b : RegNo) (dbl : Bool),
    let x := if dbl then s.opD a else s.opS a
    let y := if dbl then s.opD b else s.opS b
    let nan := x.isNan || y.isNan
    let sig := x.sigFlag == nvFlag || y.sigFlag == nvFlag
    let nv := match c with
      | .flt => nan
      | .fle => nan
      | _ => sig
    let i : Instr := .cmp (if dbl then .double c else .single c) k pd a b
    let r := evalFloat c x y
    (nan = true → r.1 = decide (c = .fun_)) ∧ (nan = false → c = .fun_ → r.1 = false) ∧ (r.2 = if nv then nvFlag else 0) ∧
    (nv = true → s.me.arch.fcsr.getLsbD 13 = true → exec i s = goes (s.trapMe Cause.fpScalar 0x10 0)) ∧
    (¬ (nv = true ∧ s.me.arch.fcsr.getLsbD 13 = true) → ∃ t, exec i s = goes t ∧
      t.me.work.getP pd.toNat = (if pd = 0 then true else combine k (s.me.rp pd) r.1) ∧
      t.me.work.fcsr = (if pd ≠ 0 ∧ nv = true then s.me.work.fcsr ||| 0x100 else s.me.work.fcsr) ∧
      t = (if pd = 0 then s else s.setMe { s.me with work := { s.me.work with p := t.me.work.p, fcsr := t.me.work.fcsr } }))

/-- R134..R136, R138: integer and float compares with their combines, the predicate operations, ppack, punpack, isref and sel. -/
def Obligations.PredicateAndCompareResults : Prop := PredicateResults ∧ FloatCompareResults

-- Scalar floating point (R138..R144)

namespace Sys2Proof.Claims

/-- i delivers r to general register d (R138, R139): a raised flag whose enable was 1 at the start of the block traps with
FP_SCALAR, s.tval holding all raised flags; otherwise the value, its tag clear, and the flags are one long result. A write
to g0 is discarded with its flags (R122). -/
def DeliversFloat (s : State) (i : Instr) (d : RegNo) (r : FRes) : Prop :=
  let enables := s.me.arch.fcsr.toNat / 2 ^ 9 % 32
  (r.flags &&& enables = 0 → ∃ t, exec i s = goes t ∧ Owes s t
    (if d = 0 then [] else [.g d.toNat { val := BitVec.ofNat 64 r.bits, tag := false }, .flags (r.flags % 32 * 16)])) ∧
  (r.flags &&& enables ≠ 0 → exec i s = goes (s.trapMe Cause.fpScalar (BitVec.ofNat 64 r.flags) 0))

end Sys2Proof.Claims

/-- R140..R143: the float functions: the exact value of the operands, rounded once to the form's format with the mode, ftz and
sat that stood at the start of the block (deliver, R94..R98), with the flags of R141; a division or a root by its own
correctly rounded function. fabs and fneg act on the sign bit only and raise nothing. -/
def Obligations.FloatResults : Prop :=
  ∀ (s : State) (d a b c : RegNo),
    let env := s.fenv 0
    let S (r : RegNo) : FVal := fp32.read (s.me.arch.fcsr.getLsbD 2) ((s.me.rg r).toNat % 2 ^ 32)
    let D (r : RegNo) : FVal := fp64.read (s.me.arch.fcsr.getLsbD 2) (s.me.rg r).toNat
    let pick (f : Fmt) (m : FVal → FVal → FVal) (x y : FVal) : FRes :=
      { (f.deliver env (if x.isNan then (if y.isNan then .nan false else y) else if y.isNan then x else m x y)) with
          flags := if x = .nan true ∨ y = .nan true then nvFlag else 0 }
    DeliversFloat s (.faddS d a b) d (fp32.deliver env ((S a).add (S b))) ∧
    DeliversFloat s (.fsubS d a b) d (fp32.deliver env ((S a).add (S b).neg)) ∧
    DeliversFloat s (.fmulS d a b) d (fp32.deliver env ((S a).mul (S b))) ∧
    DeliversFloat s (.fdivS d a b) d (fp32.fdiv env (S a) (S b)) ∧
    DeliversFloat s (.fsqrtS d a) d (fp32.fsqrt env (S a)) ∧
    DeliversFloat s (.fminS d a b) d (pick fp32 FVal.lesser (S a) (S b)) ∧
    DeliversFloat s (.fmaxS d a b) d (pick fp32 FVal.greater (S a) (S b)) ∧
    DeliversFloat s (.fabsS d a) d { bits := (s.me.rg a).toNat % 2 ^ 31 } ∧
    DeliversFloat s (.fnegS d a) d { bits := ((s.me.rg a).setWidth 32 ^^^ 0x80000000).toNat } ∧
    DeliversFloat s (.fmaS d a b c) d (fp32.ffma env (S a) (S b) (S c)) ∧
    DeliversFloat s (.fmsS d a b c) d (fp32.ffma env (S a) (S b) (S c).neg) ∧
    DeliversFloat s (.faddD d a b) d (fp64.deliver env ((D a).add (D b))) ∧
    DeliversFloat s (.fsubD d a b) d (fp64.deliver env ((D a).add (D b).neg)) ∧
    DeliversFloat s (.fmulD d a b) d (fp64.deliver env ((D a).mul (D b))) ∧
    DeliversFloat s (.fdivD d a b) d (fp64.fdiv env (D a) (D b)) ∧
    DeliversFloat s (.fsqrtD d a) d (fp64.fsqrt env (D a)) ∧
    DeliversFloat s (.fminD d a b) d (pick fp64 FVal.lesser (D a) (D b)) ∧
    DeliversFloat s (.fmaxD d a b) d (pick fp64 FVal.greater (D a) (D b)) ∧
    DeliversFloat s (.fabsD d a) d { bits := (s.me.rg a).toNat % 2 ^ 63 } ∧
    DeliversFloat s (.fnegD d a) d { bits := (s.me.rg a ^^^ 0x8000000000000000).toNat } ∧
    DeliversFloat s (.fmaD d a b c) d (fp64.ffma env (D a) (D b) (D c)) ∧
    DeliversFloat s (.fmsD d a b c) d (fp64.ffma env (D a) (D b) (D c).neg)

/-- R144, R97: fcvt between integers clamps to the target's range without a flag; from a float to an integer the value is
rounded by rm and clamped, a NaN giving 0 and raising nv, an infinity the bound of its sign and nv; to a float the value is
rounded once. -/
def Obligations.FloatConversionResults : Prop :=
  ∀ (s : State) (dst src : CvtFmt) (d a : RegNo),
    let x := s.me.rg a
    let fmt (c : CvtFmt) : Option Fmt := match c with
      | .d => some fp64
      | .s => some fp32
      | .bf => some bf16
      | .h => some fp16
      | .l => none
      | .lu => none
    let lo : Int := if dst = .lu then 0 else -(2 ^ 63)
    let hi : Int := if dst = .lu then 2 ^ 64 - 1 else 2 ^ 63 - 1
    let int : Int := if src = .lu then x.toNat else x.toInt
    ∃ r : FRes, DeliversFloat s (.fcvt dst src d a) d r ∧
      (fmt src = none → fmt dst = none → BitVec.ofNat 64 r.bits = BitVec.ofInt 64 (max lo (min hi int)) ∧ r.flags = 0) ∧
      (∀ g, fmt src = none → fmt dst = some g →
        r = if int = 0 then { bits := 0 } else g.round (s.fenv 0) (decide (int < 0)) int.natAbs 0 false) ∧
      (∀ f, fmt src = some f →
        let v := f.read (s.me.arch.fcsr.getLsbD 2) (x.toNat % 2 ^ f.width)
        (∀ g, fmt dst = some g → r = g.deliver (s.fenv 0) v) ∧
        (fmt dst = none → v.isNan = true → r.bits = 0 ∧ r.flags = nvFlag) ∧
        (∀ sg, fmt dst = none → v = .inf sg →
          BitVec.ofNat 64 r.bits = BitVec.ofInt 64 (if sg then lo else hi) ∧ r.flags = nvFlag) ∧
        (∀ sg m e, fmt dst = none → v = .fin sg m e →
          let u := roundAt (s.fenv 0).rm (s.fenv 0).draw m (-e) false
          let y : Int := if sg then -(u.1 : Int) else u.1
          BitVec.ofNat 64 r.bits = BitVec.ofInt 64 (max lo (min hi y)) ∧
          r.flags = if lo ≤ y ∧ y ≤ hi then (if u.2 then nxFlag else 0) else nvFlag))

/-- R94, R96: under RZ a finite nonzero magnitude m·2^e that does not overflow goes to the largest code whose value does not
exceed it, with the sign of the value. -/
def Sys2Proof.Claims.RoundingTowardZero : Prop :=
  ∀ (f : Fmt) (sat sg : Bool) (draw m : Nat) (e : Int),
    f ∈ [fp64, fp32, bf16, fp16] → m ≠ 0 →
    let r := f.round { rm := 1, ftz := false, sat := sat, draw := draw } sg m e false
    let v (c : Nat) : ℚ := match f.decode c with
      | .fin _ n g => (n : ℚ) * (2 : ℚ) ^ g
      | _ => 0
    r.flags &&& ofFlag = 0 →
      ∃ c, r.bits = f.signBit sg + c ∧ c ≤ f.maxCode ∧ v c ≤ (m : ℚ) * (2 : ℚ) ^ e ∧
        (c < f.maxCode → (m : ℚ) * (2 : ℚ) ^ e < v (c + 1)) ∧ (r.flags = 0 ↔ v c = (m : ℚ) * (2 : ℚ) ^ e)

/-- R96, R141: every NaN that a scalar float result produces is the format's canonical NaN. -/
def Sys2Proof.Claims.CanonicalNan : Prop :=
  ∀ (f : Fmt) (v : FEnv) (a b c : FVal), f ∈ [fp64, fp32] →
    (∀ x : FVal, x.isNan = true → (f.deliver v x).bits = f.nanCode) ∧
    (a.isNan = true ∨ b.isNan = true → (f.fadd v a b).bits = f.nanCode ∧ (f.fmul v a b).bits = f.nanCode ∧
      (f.fdiv v a b).bits = f.nanCode ∧ (f.ffma v a b c).bits = f.nanCode) ∧
    (a.isNan = true → (f.fsqrt v a).bits = f.nanCode) ∧
    (∀ x y, (f.fadd v (.inf x) (.inf y)).flags = (if x = y then 0 else nvFlag) ∧
      (f.fadd v (.inf x) (.inf y)).bits = (if x = y then f.signBit x + f.infCode else f.nanCode)) ∧
    (∀ x y g, f.fmul v (.inf x) (.fin y 0 g) = { bits := f.nanCode, flags := nvFlag }) ∧
    (∀ x y e g, f.fdiv v (.fin x 0 e) (.fin y 0 g) = { bits := f.nanCode, flags := nvFlag }) ∧
    (∀ x y, f.fdiv v (.inf x) (.inf y) = { bits := f.nanCode, flags := nvFlag }) ∧
    (∀ m e, m ≠ 0 → f.fsqrt v (.fin true m e) = { bits := f.nanCode, flags := nvFlag })

/-- R94, R96, R141: rounding toward zero gives the largest code that does not exceed the value, and every NaN that a scalar float
result produces is the format's canonical one. -/
def Obligations.FloatRounding : Prop := RoundingTowardZero ∧ CanonicalNan

-- The vector unit (R219..R241)

namespace Sys2Proof.Claims

/-- One entry of the acting context joins its core's VU queue (R222..R224): its register writes and its flags, or, when a
raised flag was enabled at the start of the block, the trap FP_VECTOR with the flags and the lanes that raised one. Nothing
else changes but the queue's share tag (R401). -/
def QueuesVector (s t : State) (ws : List RegWrite) (raised lanes : Nat) : Prop :=
  let c := s.me
  let trap : Option TrapInfo := if raised &&& (c.arch.fcsr.toNat / 2 ^ 9 % 32) = 0 then none
    else some { cause := Cause.fpVector, tblk := c.addr, tidx := c.cur, tval := BitVec.ofNat 64 raised
                tval2 := BitVec.ofNat 64 lanes }
  let e : VuEntry := { ctx := s.act.ctx, epoch := c.epoch, writes := ws ++ [.flags (raised % 32 * 16)], trap := trap, inf := none }
  t = s.onCore s.act.core (fun k => { k with vuq := k.vuq ++ [e], vtag := (t.core s.act.core).vtag })

/-- The value bits of element e of vector register r at element width w. -/
def velem (s : State) (w : Nat) (r : BitVec 4) (e : Nat) : BitVec w := (s.me.rv r).extractLsb' (w * e) w

/-- The lane of element e is active under mask k (R219, R220). -/
def active (s : State) (k : BitVec 2) (w e : Nat) : Bool := (s.me.rk k).getLsbD (w * e / 32)

/-- i writes vd element by element: an active element takes val's bits, another keeps its value (R220), and the flags are
those of the active elements (R223). -/
def WritesElems (s : State) (i : Instr) (w : Nat) (vd : BitVec 4) (k : BitVec 2) (val : Nat → FRes) : Prop :=
  ∃ t x raised lanes, exec i s = goes t ∧ QueuesVector s t [.v vd.toNat x] raised lanes ∧
    (∀ e, e < 512 / w → x.extractLsb' (w * e) w =
      if active s k w e then BitVec.ofNat w (val e).bits else velem s w vd e) ∧
    (∀ j, raised.testBit j = true ↔ ∃ e, e < 512 / w ∧ active s k w e = true ∧ (val e).flags.testBit j = true) ∧
    (∀ l, lanes.testBit l = true ↔ ∃ e, e < 512 / w ∧ active s k w e = true ∧ w * e / 32 = l ∧
      (val e).flags &&& (s.me.arch.fcsr.toNat / 2 ^ 9 % 32) ≠ 0)

/-- Integer elements: no flag and no trap (R223). -/
def WritesInts (s : State) (i : Instr) (w : Nat) (vd : BitVec 4) (k : BitVec 2) (val : Nat → BitVec w) : Prop :=
  ∃ t x, exec i s = goes t ∧ QueuesVector s t [.v vd.toNat x] 0 0 ∧
    ∀ e, e < 512 / w → x.extractLsb' (w * e) w = if active s k w e then val e else velem s w vd e

/-- The width of an element type (R219). -/
def width (t : VType) : Nat := match t with
  | .i8 => 8
  | .i16 => 16
  | .bf16 => 16
  | .f16 => 16
  | .i32 => 32
  | .f32 => 32

/-- The float format of a type. -/
def floatOf (t : VType) : Option Fmt := match t with
  | .f32 => some fp32
  | .bf16 => some bf16
  | .f16 => some fp16
  | _ => none

/-- A float element as an operand: subnormals read as zero under ftz (R98, R223). -/
def felem (s : State) (f : Fmt) (r : BitVec 4) (e : Nat) : FVal :=
  f.read (s.me.arch.fcsr.getLsbD 2) (velem s f.width r e).toNat

end Sys2Proof.Claims

/-- R227: the integer functions of valu, element by element, wrapping modulo 2^w unless the function clamps. -/
def Obligations.VectorIntegerResults : Prop :=
  ∀ (s : State) (ty : VType) (vd va vb : BitVec 4) (k : BitVec 2), floatOf ty = none →
    let w := width ty
    let a (e : Nat) : BitVec w := velem s w va e
    let b (e : Nat) : BitVec w := velem s w vb e
    let n (e : Nat) : Nat := (b e).toNat % w
    let clamp (x : Int) : BitVec w := BitVec.ofInt w (max (-(2 ^ (w - 1))) (min (2 ^ (w - 1) - 1) x))
    let gives (i : Instr) (v : Nat → BitVec w) : Prop := WritesInts s i w vd k v
    gives (.vadd ty vd va vb k) (fun e => a e + b e) ∧
    gives (.vsub ty vd va vb k) (fun e => a e - b e) ∧
    gives (.vmul ty vd va vb k) (fun e => a e * b e) ∧
    gives (.vmin ty vd va vb k) (fun e => BitVec.ofInt w (min (a e).toInt (b e).toInt)) ∧
    gives (.vmax ty vd va vb k) (fun e => BitVec.ofInt w (max (a e).toInt (b e).toInt)) ∧
    gives (.vminu ty vd va vb k) (fun e => BitVec.ofNat w (min (a e).toNat (b e).toNat)) ∧
    gives (.vmaxu ty vd va vb k) (fun e => BitVec.ofNat w (max (a e).toNat (b e).toNat)) ∧
    gives (.vadds ty vd va vb k) (fun e => clamp ((a e).toInt + (b e).toInt)) ∧
    gives (.vsubs ty vd va vb k) (fun e => clamp ((a e).toInt - (b e).toInt)) ∧
    gives (.vaddus ty vd va vb k) (fun e => BitVec.ofNat w (min ((a e).toNat + (b e).toNat) (2 ^ w - 1))) ∧
    gives (.vsubus ty vd va vb k) (fun e => BitVec.ofNat w ((a e).toNat - (b e).toNat)) ∧
    gives (.vavg ty vd va vb k) (fun e => BitVec.ofInt w (((a e).toInt + (b e).toInt + 1) / 2)) ∧
    gives (.vmulh ty vd va vb k) (fun e => BitVec.ofInt w ((a e).toInt * (b e).toInt / 2 ^ w)) ∧
    gives (.vand ty vd va vb k) (fun e => a e &&& b e) ∧
    gives (.vor ty vd va vb k) (fun e => a e ||| b e) ∧
    gives (.vxor ty vd va vb k) (fun e => a e ^^^ b e) ∧
    gives (.vandn ty vd va vb k) (fun e => a e &&& ~~~(b e)) ∧
    gives (.vshl ty vd va vb k) (fun e => a e <<< n e) ∧
    gives (.vshr ty vd va vb k) (fun e => a e >>> n e) ∧
    gives (.vsar ty vd va vb k) (fun e => (a e).sshiftRight (n e)) ∧
    gives (.vabs ty vd va k) (fun e => BitVec.ofInt w (a e).toInt.natAbs) ∧
    gives (.vneg ty vd va k) (fun e => - a e) ∧
    gives (.vpopc ty vd va k) (fun e => BitVec.ofNat w (((List.range w).map (fun j => (a e).toNat / 2 ^ j % 2)).sum)) ∧
    gives (.vclz ty vd va k) (fun e => BitVec.ofNat w (w - (if a e = 0 then 0 else Nat.log2 (a e).toNat + 1)))

/-- R227, R100, R223: the float functions of valu, element by element: the exact result rounded once to the type. abs and neg
change the sign bit only and raise nothing. -/
def Sys2Proof.Claims.VectorFloatValues : Prop :=
  ∀ (s : State) (ty : VType) (f : Fmt) (vd va vb : BitVec 4) (k : BitVec 2), floatOf ty = some f →
    let a (e : Nat) : FVal := felem s f va e
    let b (e : Nat) : FVal := felem s f vb e
    let gives (i : Instr) (v : FEnv → Nat → FRes) : Prop := WritesElems s i f.width vd k (fun e => v (s.fenv e) e)
    gives (.vadd ty vd va vb k) (fun v e => f.deliver v ((a e).add (b e))) ∧
    gives (.vsub ty vd va vb k) (fun v e => f.deliver v ((a e).add (b e).neg)) ∧
    gives (.vmul ty vd va vb k) (fun v e => f.deliver v ((a e).mul (b e))) ∧
    gives (.vmin ty vd va vb k) (fun v e => f.fpick v FVal.lesser (a e) (b e)) ∧
    gives (.vmax ty vd va vb k) (fun v e => f.fpick v FVal.greater (a e) (b e)) ∧
    gives (.vdiv ty vd va vb k) (fun v e => f.fdiv v (a e) (b e)) ∧
    gives (.vrcp ty vd va k) (fun v e => f.fdiv v (.fin false 1 0) (a e)) ∧
    gives (.vrsq ty vd va k) (fun v e => f.frsq v (a e)) ∧
    gives (.vsqrt ty vd va k) (fun v e => f.fsqrt v (a e)) ∧
    gives (.vexp2 ty vd va k) (fun v e => f.fexp2 v (a e)) ∧
    gives (.vlog2 ty vd va k) (fun v e => f.flog2 v (a e)) ∧
    gives (.vtanh ty vd va k) (fun v e => f.ftanh v (a e)) ∧
    gives (.vabs ty vd va k) (fun _ e => { bits := (velem s f.width va e).toNat % 2 ^ (f.width - 1) }) ∧
    gives (.vneg ty vd va k) (fun _ e => { bits := (velem s f.width va e ^^^ BitVec.twoPow f.width (f.width - 1)).toNat })

/-- R228: vfma: fma, fms and fnma form the exact result and round once (floats) or wrap (integers); dot adds the products of
the elements of each 32-bit lane, exactly before the one rounding to FP32. -/
def Sys2Proof.Claims.VectorFmaResults : Prop :=
  ∀ (s : State) (ty : VType) (vd va vb : BitVec 4) (k : BitVec 2),
    (∀ f, floatOf ty = some f →
      let a := felem s f va
      let b := felem s f vb
      let d := felem s f vd
      let gives (o : VFmaOp) (v : FEnv → Nat → FRes) : Prop :=
        WritesElems s (.vfma o ty vd va vb k) f.width vd k (fun e => v (s.fenv e) e)
      gives .fma (fun v e => f.ffma v (a e) (b e) (d e)) ∧
      gives .fms (fun v e => f.ffma v (a e) (b e) (d e).neg) ∧
      gives .fnma (fun v e => f.ffma v (a e).neg (b e) (d e)) ∧
      (f.width = 16 → WritesElems s (.vfma .dot ty vd va vb k) 32 vd k (fun l =>
        let p (i : Nat) : FVal := (a (2 * l + i)).mul (b (2 * l + i))
        let c := felem s fp32 vd l
        let sum := (c.add (p 0)).add (p 1)
        { (fp32.convert (s.fenv l) sum) with
            flags := (fp32.convert (s.fenv l) sum).flags ||| sum.sigFlag ||| c.sigFlag ||| (p 0).sigFlag ||| (p 1).sigFlag }))) ∧
    (floatOf ty = none →
      let w := width ty
      let a (e : Nat) : BitVec w := velem s w va e
      let b (e : Nat) : BitVec w := velem s w vb e
      let d (e : Nat) : BitVec w := velem s w vd e
      WritesInts s (.vfma .fma ty vd va vb k) w vd k (fun e => a e * b e + d e) ∧
      WritesInts s (.vfma .fms ty vd va vb k) w vd k (fun e => a e * b e - d e) ∧
      WritesInts s (.vfma .fnma ty vd va vb k) w vd k (fun e => d e - a e * b e) ∧
      (w ≠ 32 → WritesInts s (.vfma .dot ty vd va vb k) 32 vd k (fun l =>
        velem s 32 vd l + BitVec.ofInt 32 (((List.range (32 / w)).map (fun i =>
          (a (32 / w * l + i)).toInt * (b (32 / w * l + i)).toInt)).sum))))

/-- R100, R223, R227, R228: the float functions of valu and the multiply-adds of vfma, element by element, rounded once. -/
def Obligations.VectorFloatResults : Prop := VectorFloatValues ∧ VectorFmaResults

/-- R229: vcmp: a lane's bit is the AND (all) or the OR (any) of the outcomes of its elements, and 0 in an inactive lane;
the integer conditions raise no flag. -/
def Obligations.VectorCompareResults : Prop :=
  ∀ (s : State) (c : VCond) (any : Bool) (ty : VType) (kd : BitVec 2) (va vb : BitVec 4) (k : BitVec 2),
    let w := width ty
    let a (e : Nat) : BitVec w := velem s w va e
    let b (e : Nat) : BitVec w := velem s w vb e
    let fl (q : FloatCond) (f : Fmt) (e : Nat) : Bool × Nat := evalFloat q (felem s f va e) (felem s f vb e)
    let rule (o : Nat → Bool × Nat) : Prop :=
      ∃ t m raised lanes, exec (.vcmp c any ty kd va vb k) s = goes t ∧ QueuesVector s t [.k kd.toNat m] raised lanes ∧
        (∀ l, l < 16 → (m.getLsbD l = true ↔ (s.me.rk k).getLsbD l = true ∧
          if any then ∃ e, e < 512 / w ∧ w * e / 32 = l ∧ (o e).1 = true
          else ∀ e, e < 512 / w → w * e / 32 = l → (o e).1 = true)) ∧
        (∀ j, raised.testBit j = true ↔ ∃ e, e < 512 / w ∧ active s k w e = true ∧ (o e).2.testBit j = true)
    (c = .eq → rule (fun e => (a e == b e, 0))) ∧
    (c = .ne → rule (fun e => (a e != b e, 0))) ∧
    (c = .lt → rule (fun e => ((a e).slt (b e), 0))) ∧
    (c = .le → rule (fun e => ((a e).sle (b e), 0))) ∧
    (c = .ltu → rule (fun e => ((a e).ult (b e), 0))) ∧
    (c = .leu → rule (fun e => ((a e).ule (b e), 0))) ∧
    (∀ f, floatOf ty = some f → (c = .feq → rule (fl .feq f)) ∧ (c = .flt → rule (fl .flt f)) ∧
      (c = .fle → rule (fl .fle f)) ∧ (c = .fun_ → rule (fl .fun_ f)))

/-- R230, R236..R239: selection, permutation, shuffles, broadcasts, inserts, compression and expansion: the elements that
each entry of the tables names, moved as bits, with no flag. A register's elements at positions that its type does not have
are named by no clause. -/
def Sys2Proof.Claims.VectorMoveResults : Prop :=
  ∀ (s : State) (ty : VType) (vd va vb : BitVec 4) (a : RegNo) (idx : BitVec 6) (sh : BitVec 4) (k : BitVec 2),
    let w := width ty
    let n := 512 / w
    let x (e : Nat) : BitVec w := velem s w va e
    let y (e : Nat) : BitVec w := velem s w vb e
    let old (e : Nat) : BitVec w := velem s w vd e
    let g : BitVec w := BitVec.ofNat w (s.me.rg a).toNat
    let acts := (List.range n).filter (fun e => active s k w e)
    WritesInts s (.vsel vd va vb k) 32 vd 0 (fun l => if (s.me.rk k).getLsbD l then velem s 32 va l else velem s 32 vb l) ∧
    WritesInts s (.vperm false ty vd va vb k) w vd k (fun e => x ((y e).toNat % n)) ∧
    WritesInts s (.vperm true ty vd va vb k) w vd k (fun e =>
      let i := (y e).toNat % (2 * n)
      if i < n then x i else old (i - n)) ∧
    WritesInts s (.vshuf .zlo sh ty vd va vb k) w vd k (fun e => if e % 2 = 0 then x (e / 2) else y (e / 2)) ∧
    WritesInts s (.vshuf .zhi sh ty vd va vb k) w vd k (fun e => if e % 2 = 0 then x (n / 2 + e / 2) else y (n / 2 + e / 2)) ∧
    WritesInts s (.vshuf .uev sh ty vd va vb k) w vd k (fun e => if e < n / 2 then x (2 * e) else y (2 * (e - n / 2))) ∧
    WritesInts s (.vshuf .uod sh ty vd va vb k) w vd k (fun e => if e < n / 2 then x (2 * e + 1) else y (2 * (e - n / 2) + 1)) ∧
    WritesInts s (.vshuf .rev sh ty vd va vb k) w vd k (fun e => x (n - 1 - e)) ∧
    WritesInts s (.vshuf .rotl sh ty vd va vb k) 32 vd k (fun l => velem s 32 va ((l + (16 - sh.toNat)) % 16)) ∧
    (idx.toNat < n → WritesInts s (.vbcast ty vd va idx k) w vd k (fun _ => x idx.toNat)) ∧
    WritesInts s (.vbcastG ty vd a k) w vd k (fun _ => g) ∧
    (idx.toNat < n → WritesInts s (.vins ty vd a idx) w vd 0 (fun e => if e = idx.toNat then g else old e)) ∧
    WritesInts s (.vcmprC ty vd va k) w vd 0 (fun e => if e < acts.length then x (acts.getD e 0) else 0) ∧
    (∃ v : Nat → BitVec w, WritesInts s (.vcmprE ty vd va k) w vd k v ∧ ∀ j, j < acts.length → v (acts.getD j 0) = x j)

/-- R238, R240: vmovg and the functions of vmask. -/
def Sys2Proof.Claims.VectorMaskResults : Prop :=
  ∀ (s : State) (ty : VType) (zext : Bool) (va : BitVec 4) (idx : BitVec 6) (kd ka kb : BitVec 2) (d a : RegNo),
    let mask (i : Instr) (m : BitVec 16) : Prop := ∃ t, exec i s = goes t ∧ QueuesVector s t [.k kd.toNat m] 0 0
    let gen (i : Instr) (v : Word) : Prop := ∃ t, exec i s = goes t ∧ QueuesVector s t [.g d.toNat { val := v, tag := false }] 0 0
    let x := s.me.rk ka
    let y := s.me.rk kb
    mask (.vmaskAnd kd ka kb) (x &&& y) ∧ mask (.vmaskOr kd ka kb) (x ||| y) ∧ mask (.vmaskXor kd ka kb) (x ^^^ y) ∧
    mask (.vmaskAndn kd ka kb) (x &&& ~~~y) ∧ mask (.vmaskNot kd ka) (~~~x) ∧
    mask (.vmaskFromg kd a) ((s.me.rg a).setWidth 16) ∧
    gen (.vmaskTog d ka) (x.setWidth 64) ∧
    gen (.vmaskPop d ka) (BitVec.ofNat 64 (((List.range 16).map (fun j => x.toNat / 2 ^ j % 2)).sum)) ∧
    (∃ r, gen (.vmaskFirst d ka) (BitVec.ofNat 64 r) ∧ r ≤ 16 ∧ (∀ j, j < r → x.getLsbD j = false) ∧
      (r < 16 → x.getLsbD r = true)) ∧
    (idx.toNat < 512 / width ty →
      let v := velem s (width ty) va idx.toNat
      gen (.vmovg ty zext d va idx) (if (floatOf ty).isSome || zext then v.setWidth 64 else v.signExtend 64))

/-- R230, R236..R240: vector moves, permutations, compression and expansion, and the functions of vmask with vmovg. -/
def Obligations.VectorMoveAndMaskResults : Prop := VectorMoveResults ∧ VectorMaskResults

/-- R231: vcvt: widening (or the same width) reads part p of vA; narrowing writes part p of vD and leaves the other elements;
integer to integer sign-extends or clamps without a flag; float to float rounds once. -/
def Sys2Proof.Claims.VectorConversionValues : Prop :=
  ∀ (s : State) (dst src : VFmt) (vd va part : BitVec 4) (k : BitVec 2),
    let wt := vfBits dst
    let wf := vfBits src
    let p := part.toNat
    let env (e : Nat) : FEnv := s.fenv e
    let int (j : Nat) : Int := (velem s wf va j).toInt
    let flo (f : Fmt) (j : Nat) : FVal := f.read (s.me.arch.fcsr.getLsbD 2) (velem s wf va j).toNat
    let cvt (e j : Nat) : FRes := match vfFloat src, vfFloat dst with
      | some f, some g => g.deliver (env e) (flo f j)
      | none, some g => if int j = 0 then { bits := 0 } else g.round (env e) (decide (int j < 0)) (int j).natAbs 0 false
      | none, none => { bits := (BitVec.ofInt wt (max (-(2 ^ (wt - 1))) (min (2 ^ (wt - 1) - 1) (int j)))).toNat }
      | some f, none =>
        let r := toInt (env e) (-(2 ^ (wt - 1))) (2 ^ (wt - 1) - 1) (flo f j)
        { bits := (BitVec.ofInt wt r.1).toNat, flags := r.2 }
    (wf ≤ wt → p < wt / wf → WritesElems s (.vcvt dst src vd va part k) wt vd k (fun e => cvt e (e + p * (512 / wt)))) ∧
    (wt < wf → p < wf / wt → WritesElems s (.vcvt dst src vd va part k) wt vd k (fun e =>
      if p * (512 / wf) ≤ e ∧ e < (p + 1) * (512 / wf) then cvt e (e - p * (512 / wf))
      else { bits := (velem s wt vd e).toNat }))

/-- R232, R233, R106: vqnt writes the codes of the quantised block from bit 0 and its scale in byte 48 (every other bit
zero), sets qnan and qinf and no IEEE flag, and leaves a QNT_INF behind only when qinfe was 1; vdq converts the values of
R89. -/
def Sys2Proof.Claims.VectorQuantResults : Prop :=
  ∀ (s : State) (fmt : BxFmt) (ty : VType) (f : Fmt) (part : Bool) (vd va vb : BitVec 4) (k : BitVec 2), floatOf ty = some f →
    let xs : List FVal := if f.width = 32 then (List.range 16).map (felem s f va) ++ (List.range 16).map (felem s f vb)
      else (List.range 32).map (felem s f va)
    let q := bxQuantise (bxCode fmt) s.fenv xs
    let w := codeBits (bxCode fmt)
    (∃ t x, exec (.vqnt fmt ty vd va vb) s = goes t ∧
      (∀ e, e < 32 → x.extractLsb' (w * e) w = BitVec.ofNat w (q.codes.getD e 0)) ∧
      x.extractLsb' 384 8 = BitVec.ofNat 8 q.scale ∧ (∀ i, 32 * w ≤ i → i < 384 ∨ 392 ≤ i → x.getLsbD i = false) ∧
      t = s.onCore s.act.core (fun c => { c with
        vtag := (t.core s.act.core).vtag
        vuq := c.vuq ++ [{ ctx := s.act.ctx, epoch := s.me.epoch, trap := none
                           writes := [.v vd.toNat x, .flags ((if q.nan then 2 ^ 16 else 0) + (if q.inf then 2 ^ 17 else 0))]
                           inf := if q.inf = true ∧ s.me.arch.fcsr.getLsbD 18 = true then
                             some { cause := Cause.qntInf, tval := 0, tval2 := 0, tidx := s.me.cur } else none }] })) ∧
    WritesElems s (.vdq fmt ty part vd va k) f.width vd k (fun e =>
      let i := if f.width = 32 ∧ part = true then e + 16 else e
      f.convert (s.fenv e) (bxValue (bxCode fmt) ((s.me.rv va).extractLsb' 384 8).toNat ((s.me.rv va).extractLsb' (w * i) w).toNat))

/-- R89, R106, R231..R233: vcvt, vqnt and vdq. -/
def Obligations.VectorConversionResults : Prop := VectorConversionValues ∧ VectorQuantResults

namespace Sys2Proof.Claims

/-- The FP32 sum of two values, rounded to nearest (R116). -/
def rne32 (v : FEnv) (x y : FVal) : FVal := fp32.decode (fp32.deliver v (x.add y)).bits

/-- Node i of level n of the addition tree over leaves (R234). -/
def sumTree (v : FEnv) (leaf : Nat → FVal) : Nat → Nat → FVal
  | 0, i => leaf i
  | n + 1, i => rne32 v (sumTree v leaf n (2 * i)) (sumTree v leaf n (2 * i + 1))

/-- minimumNumber or maximumNumber of a list by the choice pick; z of an empty list, a NaN where all are NaN (R142, R234). -/
def best (pick : FVal → FVal → FVal) (z : FVal) : List FVal → FVal
  | [] => z
  | x :: xs => xs.foldl (fun a y => if a.isNan then y else if y.isNan then a else pick a y) x

end Sys2Proof.Claims

/-- R234, R235: reductions and scans over the active elements in ascending order. A reduction writes element 0 and zeroes every
other bit; fadd adds over a tree of FP32 sums with inactive elements taken as −0, and its scan along an FP32 accumulator that
starts at −0; both round the outcome once to the type, the scan with a draw for every
result. An empty reduction gives the table's value. -/
def Obligations.VectorReductionResults : Prop :=
  ∀ (s : State) (ty : VType) (vd va : BitVec 4) (k : BitVec 2),
    let w := width ty
    let acts := (List.range (512 / w)).filter (fun e => active s k w e)
    let a (e : Nat) : BitVec w := velem s w va e
    (floatOf ty = none → ∀ (o : VRedOp) (so : Option VScanOp) (g : BitVec w → BitVec w → BitVec w) (z : BitVec w),
      (o, so, g, z) ∈ ([(.add, some .add, (· + ·), 0),
        (.min, some .min, (fun x y => if x.slt y then x else y), BitVec.intMax w),
        (.max, some .max, (fun x y => if x.slt y then y else x), BitVec.intMin w),
        (.minu, some .minu, (fun x y => if x.ult y then x else y), BitVec.allOnes w),
        (.maxu, some .maxu, (fun x y => if x.ult y then y else x), 0),
        (.and, none, (· &&& ·), BitVec.allOnes w), (.or, none, (· ||| ·), 0), (.xor, none, (· ^^^ ·), 0)]
        : List (VRedOp × Option VScanOp × (BitVec w → BitVec w → BitVec w) × BitVec w)) →
      (∃ t, exec (.vred o ty vd va k) s = goes t ∧
        QueuesVector s t [.v vd.toNat (((acts.map a).foldl g z).setWidth 512)] 0 0) ∧
      (∀ so', so = some so' → WritesInts s (.vscan so' ty vd va k) w vd k (fun e =>
        ((acts.filter (fun j => j ≤ e)).map a).foldl g z))) ∧
    (∀ f, floatOf ty = some f →
      let x (e : Nat) : FVal := felem s f va e
      let env : FEnv := { rm := 0, ftz := s.me.arch.fcsr.getLsbD 2 }
      let upTo (e : Nat) : List FVal := (acts.filter (fun j => j ≤ e)).map x
      let red (o : VRedOp) (bits : Nat) : Prop := ∃ t raised lanes, exec (.vred o ty vd va k) s = goes t ∧
        QueuesVector s t [.v vd.toNat (BitVec.ofNat 512 (bits % 2 ^ w))] raised lanes
      let scan (o : VScanOp) (val : Nat → Nat) : Prop := ∃ t y raised lanes, exec (.vscan o ty vd va k) s = goes t ∧
        QueuesVector s t [.v vd.toNat y] raised lanes ∧ ∀ e, e < 512 / w →
          y.extractLsb' (w * e) w = if active s k w e then BitVec.ofNat w (val e) else velem s w vd e
      red .fadd (f.deliver (s.fenv 0) (sumTree env (fun e => if active s k w e then x e else .fin true 0 0)
        (Nat.log2 (512 / w)) 0)).bits ∧
      red .fmin (f.convert {} (best FVal.lesser (.inf false) (acts.map x))).bits ∧
      red .fmax (f.convert {} (best FVal.greater (.inf true) (acts.map x))).bits ∧
      scan .fadd (fun e => (f.deliver (s.fenv ((upTo e).length - 1)) ((upTo e).foldl (rne32 env) (.fin true 0 0))).bits) ∧
      scan .fmin (fun e => (f.convert {} (best FVal.lesser (.inf false) (upTo e))).bits) ∧
      scan .fmax (fun e => (f.convert {} (best FVal.greater (.inf true) (upTo e))).bits))

-- Memory instructions (R147..R178)

namespace Sys2Proof.Claims

/-- The request that a scalar load makes (R147, R151, R154): n bytes, naturally aligned, to be read. -/
def loadOf (base : Tagged) (ea : Word) (n : Nat) : AccessReq :=
  { va := ea, size := n, need := .read, origin := .load, base := base, reads := true, align := n }

/-- The request that a scalar store makes (R147, R151, R155). -/
def storeOf (base : Tagged) (ea : Word) (n : Nat) : AccessReq :=
  { va := ea, size := n, need := .write, origin := .store, base := base, reads := false, align := n }

/-- The effective address of a MEM form (R147): base + n times the signed offset, modulo 2^64. -/
def ea (x : Word) (off : BitVec 9) (n : Nat) : Word := BitVec.ofInt 64 (x.toInt + off.toInt * n)

/-- The context holds exposed instruction i, its block committed and no walk awaited (R26, R164). -/
def Held (s : State) (i : Instr) : Prop := s.me.phase = .exposed i ∧ s.me.awaitWalks = []

/-- The state in which a held exposed instruction is performed: its context stands at the next block and keeps the operands. -/
def resumed (s : State) : State := s.setMe { s.me with phase := .fetch, snap := some s.me.view, awaitWalks := [] }

/-- The state after an exposed instruction was performed and left state u: its operands and its access are let go, and window
writes to the context that its block held take effect (R145). -/
def finished (u : State) : State := (u.setMe { u.me with snap := none, acc := none }).settleWindow u.act.core u.act.ctx

/-- u with the writes ws in the committed registers of the acting context, as an exposed instruction's result (R26). -/
def committed (u : State) (ws : List RegWrite) : State :=
  u.setMe { u.me with arch := u.me.arch.applyAll ws, work := u.me.arch.applyAll ws }

/-- The signed value of the low n bytes of a little-endian list (R154). -/
def sxBytes (bs : List Byte) (n : Nat) : Word := BitVec.ofInt 64 ((BitVec.ofNat (8 * n) (valueLE bs)).toInt)

/-- Bytes of an access kind (R154, R155, R160). -/
def bytesOf (z : LoadKind) : Nat := match z with
  | .b => 1
  | .bz => 1
  | .h => 2
  | .hz => 2
  | .w => 4
  | .wz => 4
  | .d => 8

/-- The same of a store. -/
def bytesOfStore (z : StoreKind) : Nat := match z with
  | .b => 1
  | .h => 2
  | .w => 4
  | .d => 8

/-- A word that storage of the part keeps: HBM, LPDDR-6, a scratch or the memory of a Monolithic Tile. -/
def Stored (s : State) (w : Nat) : Prop := match s.region (8 * w) with
  | .hbm => True
  | .lpddr => True
  | .scratch _ _ => True
  | .mt _ _ => True
  | _ => False

end Sys2Proof.Claims

/-- R24, R147, R151, R154, R157: ld and ldx. On a page without side effects, and not last in a block with x set, the bytes that
the port binds are a long result when the checks of R151 pass, sign- or zero-extended by the kind, the tag clear, and nothing
else changes but what the port did; when a check fails, its trap is taken. On a side-effect page the access is exposed: it is
performed after its block's commit, with the same value. -/
def Sys2Proof.Claims.LoadValues : Prop :=
  ∀ (s : State) (z : LoadKind) (d a b : RegNo) (off : BitVec 9) (sh : BitVec 3),
    let n := bytesOf z
    let base := s.me.rgt a
    let value (bs : List Byte) : Word := if z = .b ∨ z = .h ∨ z = .w then sxBytes bs n else BitVec.ofNat 64 (valueLE bs)
    let rule (i : Instr) (va : Word) : Prop :=
      (s.me.phase ≠ .exposed i →
        (∀ s1 acc, s.checkAccess s.party (loadOf base va n) = .ok s1 acc → acc.sideEffect = false →
          (s1.me.atLast && s1.me.headerX) = false →
          let r := s1.loadSpan s1.act.core s1.act.ctx acc n
          ∃ t, exec i s = goes t ∧ Owes r.1 t [.g d.toNat { val := value r.2.1, tag := false }]) ∧
        (∀ s1 c v w, s.checkAccess s.party (loadOf base va n) = .fault s1 c v w → exec i s = goes (s1.trapMe c v w))) ∧
      (Held s i → ∀ s1 acc, (resumed s).heldAccess (loadOf base va n) = .ok s1 acc →
        let r := s1.loadSpan s1.act.core s1.act.ctx acc n
        exec i s = goes (finished (committed r.1 [.g d.toNat { val := value r.2.1, tag := false }])))
    rule (.ld z d a off) (ea base.val off n) ∧ rule (.ldx z d a b sh) (base.val + (s.me.rg b <<< sh.toNat))

/-- R24, R157: a load from a side-effect page that is not its block's exposed last instruction, and a load from another page
that stands last in a block with x set, trap with BLK_EXPOSED and make no access. -/
def Sys2Proof.Claims.SideEffectLoad : Prop :=
  ∀ (s : State) (z : LoadKind) (d a b : RegNo) (off : BitVec 9) (sh : BitVec 3) (s1 : State) (acc : Access),
    let rule (i : Instr) (va : Word) : Prop := s.me.phase ≠ .exposed i →
      s.checkAccess s.party (loadOf (s.me.rgt a) va (bytesOf z)) = .ok s1 acc →
      acc.sideEffect ≠ (s1.me.atLast && s1.me.headerX) → exec i s = goes (s1.trapInstr Cause.blkExposed)
    rule (.ld z d a off) (ea (s.me.rg a) off (bytesOf z)) ∧ rule (.ldx z d a b sh) (s.me.rg a + (s.me.rg b <<< sh.toNat))

/-- R154, R25: what the port binds to a load of a context: each byte is that of the youngest store that the context's own
block holds for it, else the byte of memory, when the word is kept in storage, no cache of the core or its herd holds it, no
write of the core or its herd is on its way and no error waits in it. -/
def Sys2Proof.Claims.LoadBindsYoungest : Prop :=
  ∀ (s : State) (core ctx n i : Nat) (acc : Access), 0 < n → n ≤ 8 → acc.pa % n = 0 → i < n → n ∈ [1, 2, 4, 8] →
    let pa := acc.pa
    let w := pa / 8
    Stored s w → acc.entry.getLsbD 8 = false → acc.entry.getLsbD 9 = false →
    mfind s.mem.latent w = none → s.mem.errOf 0x0D (s.homeSlice w) w = none → mfind (s.core core).l1 w = none → mfind (s.herd (herdOfCore core)).copies w = none →
    (∀ f ∈ (s.core core).wq, f.write.word ≠ w) → (∀ e ∈ (s.herd (herdOfCore core)).pend, e.2.word ≠ w) →
      (s.loadSpan core ctx acc n).2.1[i]? = some
        (match ((s.ctxOf core ctx).buffered.filter (fun x => x.word == w && x.mask.getLsbD ((pa + i) % 8))).getLast? with
          | some x => x.val.extractLsb' (8 * ((pa + i) % 8)) 8
          | none => s.byteAt (pa + i))

/-- R25, R147, R151, R154, R157: ld and ldx with the checks that come first, the exposed form that a side-effect page asks for, and
the byte that the port binds. -/
def Obligations.LoadResults : Prop := LoadValues ∧ SideEffectLoad ∧ LoadBindsYoungest

/-- R155, R156: st and stx put the low bytes of the source, little-endian, into the store buffer, where they wait for the
commit point: all of memory and every register are unchanged; a 33rd entry traps with BLK_STORES; a narrow store into a
poisoned word raises POISON; a failing check raises its trap. -/
def Sys2Proof.Claims.StoreEffects : Prop :=
  ∀ (s : State) (z : StoreKind) (d a b : RegNo) (off : BitVec 9) (sh : BitVec 3),
    let n := bytesOfStore z
    let base := s.me.rgt a
    let x := s.me.rg d
    let rule (i : Instr) (va : Word) : Prop :=
      (∀ s1 acc, s.checkAccess s.party (storeOf base va n) = .ok s1 acc →
        let poisoned := (wordsOf acc.pa n).any (s1.poisonedFor s1.party)
        (n = 8 ∨ poisoned = false → s1.me.stores.length < 32 → exec i s = goes (s1.setMe { s1.me with stores := s1.me.stores ++
          [{ writes := wordWrites acc.pa ((List.range n).map (fun k => x.extractLsb' (8 * k) 8)) false
             va := va.toNat % 2 ^ 57, asid := s1.party.asid, obj := acc.obj, glob := acc.entry.getLsbD 6 }] })) ∧
        (n = 8 ∨ poisoned = false → 32 ≤ s1.me.stores.length → exec i s = goes (s1.trapInstr Cause.blkStores)) ∧
        (n < 8 → poisoned = true → exec i s = goes ((s1.detectAll (wordsOf acc.pa n)).trapMe (memCause .poison .store) va
          (if base.tag then base.val else 0)))) ∧
      (∀ s1 c v w, s.checkAccess s.party (storeOf base va n) = .fault s1 c v w → exec i s = goes (s1.trapMe c v w))
    rule (.st z d a off) (ea base.val off n) ∧ rule (.stx z d a b sh) (base.val + (s.me.rg b <<< sh.toNat))

/-- R155, R11: the word writes of a store, written at their home, change the bytes of the store and no other byte of memory,
and clear the tag of every word they touch. -/
def Sys2Proof.Claims.StoreWritesItsBytesOnly : Prop :=
  ∀ (s : State) (pa : Nat) (bs : List Byte), s.memWf → bs ≠ [] → bs.length ≤ 8 →
    (∀ w ∈ wordsOf pa bs.length, mfind s.mem.latent w = none ∧ ∀ u, s.mem.errOf 0x0D u w = none) → (∀ k, s.shadowByte k = none) →
      let t := s.homeWrites (wordWrites pa bs false)
      (∀ a, (a < pa ∨ pa + bs.length ≤ a) → memGet t.mem.bytes a = memGet s.mem.bytes a) ∧
      (∀ k, k < bs.length → some (memGet t.mem.bytes (pa + k)) = bs[k]?) ∧
      (∀ w ∈ wordsOf pa bs.length, w ∉ t.mem.tags) ∧
      (∀ w, w ∉ wordsOf pa bs.length → (w ∈ t.mem.tags ↔ w ∈ s.mem.tags))

/-- R11, R155, R156: st and stx with the checks that come first, and what their word writes change at their home. -/
def Obligations.StoreResults : Prop := StoreEffects ∧ StoreWritesItsBytesOnly

/-- R147, R151: the order of the first checks of an access: an address that is not canonical raises NOT_MAPPED before any
other check, then misalignment raises ALIGN, whatever the page; s.tval holds the address and s.tval2 the reference of a
reference access. R455: a raw access of a control core below M that passes lies in one of the 16 firewall regions that permits
it (log entry 38 names the form of a region). -/
def Obligations.AccessCheckOrder : Prop :=
  ∀ (s : State) (p : Party) (q : AccessReq),
    let h : Word := if q.base.tag then q.base.val else 0
    (¬ (∀ k, 57 ≤ k → k < 64 → q.va.getLsbD k = q.va.getLsbD 56) →
      s.checkAccess p q = .fault s (memCause .notMapped q.origin) q.va h) ∧
    ((∀ k, 57 ≤ k → k < 64 → q.va.getLsbD k = q.va.getLsbD 56) → q.va.toNat % q.align ≠ 0 →
      s.checkAccess p q = .fault s (memCause .align q.origin) q.va h) ∧
    (∀ s1 acc, s.checkAccess p q = .ok s1 acc → acc.va = q.va ∧ q.va.toNat % q.align = 0 ∧
      (q.base.tag = true → ∃ hdr, acc.hdr = some (q.base.val, hdr) ∧ q.base.val.toNat + 8 ≤ q.va.toNat ∧
        q.va.toNat + q.size ≤ q.base.val.toNat + 8 + 8 * (hdr.toNat % 2 ^ 28)) ∧
      (q.base.tag = false → acc.hdr = none)) ∧
    (∀ s1 acc, s.checkAccess p q = .ok s1 acc → q.base.tag = false → Config.controlCore p.core = true →
      (s.ctxOf p.core p.ctx).priv ≠ 2 →
      ∃ f ∈ s.dev.firewall.take 16, f.base ≤ acc.pa ∧ acc.pa + q.size ≤ f.base + f.size ∧
        (q.need = .read → f.rd = true) ∧ (q.need = .write → f.wr = true) ∧ (q.need = .both → f.rd = true ∧ f.wr = true))

/-- R160: lda and stl, performed: lda binds its value, acquires at its scope and writes the register; stl hands its bytes to
the port as a release store of its scope. -/
def Obligations.OrderedAccessResults : Prop :=
  ∀ (s : State) (z : WordKind) (sc : Scope) (d a : RegNo) (off : BitVec 9),
    let n := match z with
      | .w => 4
      | .d => 8
    let base := s.me.rgt a
    let va := ea base.val off n
    let k := match sc with
      | .core => 0
      | .herd => 1
      | .device => 2
      | .system => 3
    (Held s (.lda z sc d a off) → ∀ s1 acc, (resumed s).heldAccess (loadOf base va n) = .ok s1 acc →
      let r := s1.loadSpan s1.act.core s1.act.ctx acc n
      let v : Word := if z = .w then sxBytes r.2.1 4 else BitVec.ofNat 64 (valueLE r.2.1)
      ∃ t, exec (.lda z sc d a off) s = goes t ∧
        t = finished (committed (r.1.acquire s1.act.core k) [.g d.toNat { val := v, tag := false }])) ∧
    (Held s (.stl z sc d a off) → ∀ s1 acc, (resumed s).heldAccess (storeOf base va n) = .ok s1 acc →
      ∃ t, exec (.stl z sc d a off) s = goes t ∧
        t = finished (s1.portStore s1.act.core s1.act.ctx
          { writes := wordWrites acc.pa ((List.range n).map (fun j => (s1.me.rg d).extractLsb' (8 * j) 8)) false
            va := va.toNat % 2 ^ 57, asid := s1.party.asid, obj := acc.obj, rel := k, exposed := true } none))

/-- R161: ldref: the whole word, with its tag unless it lies in an object whose kind is not MIXED; an acquiring form
acquires and parks the context until the value has returned. -/
def Sys2Proof.Claims.ReferenceLoadResults : Prop :=
  ∀ (s : State) (o : Ord) (d a : RegNo) (off : BitVec 9) (s1 : State) (acc : Access),
    let base := s.me.rgt a
    let k := match o with
      | .rlx => 0
      | .herd => 1
      | .dev => 2
      | .sys => 3
    s.checkAccess s.party { loadOf base (ea base.val off 8) 8 with noSe := true } = .ok s1 acc →
      let r := s1.loadSpan s1.act.core s1.act.ctx acc 8
      let tag := r.2.2 && (match acc.hdr with
        | some h => h.2.toNat / 2 ^ 28 % 4 == 1
        | none => true)
      let u := if o = .rlx then r.1 else r.1.acquire s1.act.core k
      ∃ t, exec (.ldref o d a off) s = goes t ∧
        t = u.setMe { u.me with parked := u.me.parked || decide (o ≠ .rlx)
                                outst := u.me.outst ++ [[.g d.toNat { val := BitVec.ofNat 64 (valueLE r.2.1), tag := tag }]] }

/-- R162..R164, R361: stref of an untagged word is a store of 8 bytes with its release scope; a tagged word to a place
without tag storage raises TAG; a tagged word that escapes raises REF_ESCAPE unless s.status.autopub is set, and then its
store waits for a publish of the object toward the destination's scope. -/
def Sys2Proof.Claims.ReferenceStoreResults : Prop :=
  ∀ (s : State) (o : Ord) (d a : RegNo) (off : BitVec 9) (s1 s2 : State) (acc acc' : Access),
    let base := s.me.rgt a
    let x := s.me.rgt d
    let va := ea base.val off 8
    let q : AccessReq := { storeOf base va 8 with noSe := true }
    let k := match o with
      | .rlx => 0
      | .herd => 1
      | .dev => 2
      | .sys => 3
    let flat : Bool := (match acc.hdr with
      | some h => h.2.toNat / 2 ^ 28 % 4 != 1
      | none => false) || !s1.hasTags acc.pa
    let put (u : State) (a' : Access) (pub : Option (Nat × Nat)) : State := u.setMe { u.me with stores := u.me.stores ++
      [{ writes := wordWrites a'.pa ((List.range 8).map (fun j => x.val.extractLsb' (8 * j) 8)) x.tag
         va := va.toNat % 2 ^ 57, asid := u.party.asid, obj := a'.obj, rel := k, pub := pub, glob := a'.entry.getLsbD 6 }] }
    s.checkAccess s.party q = .ok s1 acc →
      (x.tag = false → s1.checkAccess s1.party q = .ok s2 acc' → s2.me.stores.length < 32 →
        exec (.stref o d a off) s = goes (put s2 acc' none)) ∧
      (x.tag = true → flat = true →
        exec (.stref o d a off) s = goes (s1.trapMe (memCause .tag .store) va (if base.tag then base.val else 0))) ∧
      (x.tag = true → flat = false → ∀ s3 esc, s1.escapes s1.party x.val (s1.destOf acc) = .ok s3 esc →
        (esc = true → s3.me.autopub = false → exec (.stref o d a off) s = goes (s3.trapMe Cause.refEscape va x.val)) ∧
        (esc = true → s3.me.autopub = true → s3.checkAccess s3.party q = .ok s2 acc' → s2.me.stores.length < 32 →
          exec (.stref o d a off) s = goes (put s2 acc' (some (x.val.toNat, (s3.destOf acc).pubScope)))) ∧
        (esc = false → s3.checkAccess s3.party q = .ok s2 acc' → s2.me.stores.length < 32 →
          exec (.stref o d a off) s = goes (put s2 acc' none)))

/-- R161..R163, R361: ldref and stref. -/
def Obligations.ReferenceResults : Prop := ReferenceLoadResults ∧ ReferenceStoreResults

/-- R165..R168: atomics, performed: after the release at the scope, the operation's new value replaces the word's bytes at
the point of atomicity, the acquire follows and the old value is the result; a cas writes only when the old value equals
its operand. The old value and the write are those of rmw, on the n bytes at the address; the context's earlier writes have
left the port. R165: an amo with d = g0 and ordering rlx goes to the port, and its context goes on. -/
def Sys2Proof.Claims.AtomicEffects : Prop :=
  ∀ (s : State) (op : AmoOp) (o : Ord) (d a b c : RegNo),
    let k := match o with
      | .rlx => 0
      | .herd => 1
      | .dev => 2
      | .sys => 3
    let base := s.me.rgt a
    let x := s.me.rg b
    let y := s.me.rg c
    let f32 (p q : Nat) : Nat := (fp32.fadd {} (fp32.decode p) (fp32.decode q)).bits
    let b16 (p q : Nat) : Nat := (bf16.fadd {} (bf16.decode p) (bf16.decode q)).bits
    let new (n old v : Nat) : Nat := match op with
      | .add => (old + v) % 2 ^ n
      | .and => old &&& v
      | .or => old ||| v
      | .xor => old ^^^ v
      | .smin => if (BitVec.ofNat n old).slt (BitVec.ofNat n v) then old else v
      | .smax => if (BitVec.ofNat n old).slt (BitVec.ofNat n v) then v else old
      | .umin => min old v
      | .umax => max old v
      | .swap => v
      | .faddS => f32 old v
      | .faddBf2 => b16 (old % 65536) (v % 65536) + 65536 * b16 (old / 65536) (v / 65536)
    let q (n : Nat) : AccessReq := { va := base.val, size := n, need := .both, origin := .atomic, base := base, noSe := true,
                                     reads := true, noTag := true, align := n }
    let rule (i : Instr) (n scope : Nat) (f : Nat → Option Nat) (res : Nat → Word) : Prop :=
      Held s i → ∀ s1 s2 acc, ((resumed s).pushWrites s.act.core s.act.ctx 0).release s.act.core s.act.ctx scope = (s1, true) →
        (∀ g ∈ (s1.core s.act.core).wq, g.ctx = s.act.ctx → g.atPort = false) → s1.heldAccess (q n) = .ok s2 acc →
        let j := acc.pa % 8
        let m := s2.rmw s.act.core s2.act.ctx (acc.pa / 8) (s2.atomicPriv acc) scope (fun w =>
          (f (w.toNat / 2 ^ (8 * j) % 2 ^ (8 * n))).map (fun v =>
            (BitVec.ofNat 64 (v * 2 ^ (8 * j)), BitVec.ofNat 8 ((2 ^ n - 1) * 2 ^ j))))
        let u := if scope = 0 then m.1 else m.1.acquire s.act.core scope
        ∃ t, exec i s = goes t ∧ t = finished (committed u
          [.g d.toNat { val := res (m.2.toNat / 2 ^ (8 * j) % 2 ^ (8 * n)), tag := false }])
    let posted (i : Instr) (n v : Nat) : Prop := Held s i → ∀ acc, (resumed s).me.acc = some acc →
      exec i s = goes (finished ((resumed s).portEnter s.act.core
        { id := 0, ctx := s.act.ctx, obj := acc.obj, va := acc.va.toNat % 2 ^ 57, asid := (resumed s).party.asid, amo := some (op, n, v), reads := true
          write := { word := acc.pa / 8, mask := BitVec.ofNat 8 ((2 ^ n - 1) * 2 ^ (acc.pa % 8)), val := 0 } }))
    (d = 0 ∧ o = .rlx → posted (.amoW op o d a b) 4 (x.toNat % 2 ^ 32) ∧ posted (.amoD op o d a b) 8 x.toNat) ∧
    (¬ (d = 0 ∧ o = .rlx) → rule (.amoW op o d a b) 4 k (fun old => some (new 32 old (x.toNat % 2 ^ 32)))
      (fun old => if op = .faddS ∨ op = .faddBf2 then BitVec.ofNat 64 old else BitVec.ofInt 64 (BitVec.ofNat 32 old).toInt)) ∧
    (¬ (d = 0 ∧ o = .rlx) → op ≠ .faddS → op ≠ .faddBf2 → rule (.amoD op o d a b) 8 k (fun old => some (new 64 old x.toNat)) (BitVec.ofNat 64)) ∧
    rule (.casW d a b c) 4 2 (fun old => if old = x.toNat % 2 ^ 32 then some (y.toNat % 2 ^ 32) else none)
      (fun old => BitVec.ofInt 64 (BitVec.ofNat 32 old).toInt) ∧
    rule (.casD d a b c) 8 2 (fun old => if old = x.toNat then some y.toNat else none) (BitVec.ofNat 64)

/-- R168: at a word of a scratch for which the context's port holds no write, the read-modify-write answers the word as it
was, writes the bytes of its mask and no other byte of memory, and nothing when the operation answers none. -/
def Sys2Proof.Claims.AtomicAtScratch : Prop :=
  ∀ (s : State) (core ctx w c off scope : Nat) (f : Word → Option (Word × BitVec 8)), s.memWf →
    s.region (8 * w) = .scratch c off → mfind s.mem.latent w = none → s.mem.errOf 0x0D (s.homeSlice w) w = none → (∀ k, s.shadowByte k = none) →
    (∀ f ∈ (s.core core).wq, f.atPort = true → f.ctx = ctx → f.write.word ≠ w) →
      let m := s.rmw core ctx w false scope f
      m.2 = (s.homeWord w).val ∧ (f m.2 = none → m.1 = s) ∧
      (∀ v mask, f m.2 = some (v, mask) → ∀ a, memGet m.1.mem.bytes a =
        if a / 8 = w ∧ mask.getLsbD (a % 8) = true then v.extractLsb' (8 * (a % 8)) 8 else memGet s.mem.bytes a)

/-- R165..R168: atomics: the release, the read-modify-write at the point of atomicity, the acquire and the old value; and at a
scratch exactly the bytes of the mask. -/
def Obligations.AtomicResults : Prop := AtomicEffects ∧ AtomicAtScratch

/-- R169, R170, R174: fences, publishing and cache flushes, performed. fence.full completes when the release at its scope
has, and then acquires; fence.rel leaves an entry that holds later stores at the port; fence.acq acquires; fence.eng completes
when no command of the thread remains; pub queues a walk of the herd's walker unless 16 are queued; cflush and cflush.inv wait
until the port holds no earlier write of the context (R333); then cflush writes back the context's dirty words that the range
touches and cflush.inv discards the clean and its own dirty ones (a word that the range covers in part counts whole: log entry
62). -/
def Sys2Proof.Claims.FenceResults : Prop :=
  ∀ (s : State) (sc : Scope) (a b : RegNo),
    let k := match sc with
      | .core => 0
      | .herd => 1
      | .device => 2
      | .system => 3
    let u := resumed s
    let me := ownerOf s.act.core s.act.ctx
    let x := s.me.rgt a
    let p := u.pushWrites s.act.core s.act.ctx 0
    let held : Bool := p.heldAny s.act.core s.act.ctx
    let rs := p.rangesOf (if x.tag then x.val + 8 else x.val).toNat (s.me.rg b).toNat
    let touches (w : Nat) : Bool := rs.any (fun r => decide (r.1 < 8 * w + 8) && decide (8 * w < r.1 + r.2))
    (Held s (.fenceFull sc) → ∀ s1, u.release s.act.core s.act.ctx k = (s1, true) → ∃ t,
      exec (.fenceFull sc) s = goes t ∧ t = finished (s1.acquire s.act.core k)) ∧
    (Held s (.fenceAcq sc) → ∃ t, exec (.fenceAcq sc) s = goes t ∧ t = finished (u.acquire s.act.core k)) ∧
    (Held s (.fenceRel sc) → sc = .core → ∃ t, exec (.fenceRel sc) s = goes t ∧ t = finished u) ∧
    (Held s (.fenceRel sc) → sc ≠ .core → ∃ v f, exec (.fenceRel sc) s = goes (finished v) ∧
      (v.core s.act.core).wq = (s.core s.act.core).wq ++ [f] ∧
      f.atPort = true ∧ f.rel = k ∧ f.ctx = s.act.ctx ∧ f.id = s.mem.nextId ∧ v.mem.bytes = s.mem.bytes) ∧
    (Held s (.fenceEng sc) → u.commandsOf s.me.handle = false → ∃ t, exec (.fenceEng sc) s = goes t ∧ t = finished u) ∧
    (Held s (.fenceEng sc) → u.commandsOf s.me.handle = true → exec (.fenceEng sc) s =
      goes (u.setMe { u.me with phase := .exposed (.fenceEng sc) })) ∧
    (Held s (.pub sc a) → (s.herd (herdOfCore s.act.core)).walks.length < 16 → ∃ v w, exec (.pub sc a) s = goes (finished v) ∧
      (v.herd (herdOfCore s.act.core)).walks = (s.herd (herdOfCore s.act.core)).walks ++ [w] ∧ w.root = x.val.toNat ∧
      w.scope = k ∧ w.handle = s.me.handle ∧ w.queue = [x.val.toNat] ∧ v.mem.bytes = s.mem.bytes) ∧
    (Held s (.pub sc a) → 16 ≤ (s.herd (herdOfCore s.act.core)).walks.length → exec (.pub sc a) s =
      goes (u.setMe { u.me with phase := .exposed (.pub sc a) })) ∧
    (Held s (.cflush a b) → held = true → exec (.cflush a b) s = goes (p.setMe { p.me with phase := .exposed (.cflush a b) })) ∧
    (Held s (.cflush a b) → held = false → ∃ t, exec (.cflush a b) s = goes t ∧
      t = finished (((p.core s.act.core).l1.filter (fun e => e.2.dirty == some me && touches e.1)).foldl
        (fun v e => v.writeBack s.act.core e.1) p)) ∧
    (Held s (.cflushInv a b) → held = true → exec (.cflushInv a b) s = goes (p.setMe { p.me with phase := .exposed (.cflushInv a b) })) ∧
    (Held s (.cflushInv a b) → held = false → ∃ v, exec (.cflushInv a b) s = goes (finished v) ∧ v.mem.bytes = p.mem.bytes ∧
      ∀ e, e ∈ (v.core s.act.core).l1 ↔ e ∈ (p.core s.act.core).l1 ∧
        ¬ (touches e.1 = true ∧ (e.2.dirty = none ∨ e.2.dirty = some me)))

/-- R174, R334, R372: a write-back of a word that the core's L1 holds, with no flipped bit in the copy and no earlier write of
the word on its way from the core or its herd, leaves the word clean in the core's L1 and dirty, with its value and tag, in the
herd slice; every L1 of the herd that holds it, but the core's own, accepts the update, behind those that the slice sent it
before; no byte of memory changes. -/
def Sys2Proof.Claims.WriteBackEffect : Prop :=
  ∀ (s : State) (core w : Nat) (c : Copy), mfind (s.core core).l1 w = some c → c.err = 0 →
    (∀ f ∈ (s.core core).wq, f.write.word ≠ w) → (∀ e ∈ (s.herd (herdOfCore core)).pend, e.2.word ≠ w) →
    let t := s.writeBack core w
    let u : WordWrite := { word := w, mask := 0xFF, val := c.val, tag := c.tag }
    mfind (t.core core).l1 w = some { c with dirty := none } ∧
    (∃ b, mfind (t.herd (herdOfCore core)).copies w = some { val := c.val, tag := c.tag, dirty := some 0, obj := b }) ∧
    (∀ k, k ≠ core → (t.core k).l1 = (s.core k).l1 ∧
      ((t.core k).inq = (s.core k).inq ∨ (t.core k).inq = (s.core k).inq ++ (s.core k).net.map (·.write) ++ [u])) ∧
    (∀ k, k ≠ core → k ∈ coresOfHerd (herdOfCore core) → mfind (s.core k).l1 w ≠ none →
      (t.core k).inq = (s.core k).inq ++ (s.core k).net.map (·.write) ++ [u] ∧ (t.core k).net = []) ∧
    t.mem = s.mem ∧ t.agenda = s.agenda ∧ (∀ n k, t.ctxOf n k = s.ctxOf n k)

/-- R169, R170, R174, R372: fences, publishing, cache flushes, and what a write-back leaves behind. -/
def Obligations.FenceAndFlushResults : Prop := FenceResults ∧ WriteBackEffect

/-- R153: mkobj of 1..2^28 − 1 words at an aligned address: the header (length, kind, PRIVATE state, the owner) takes one
store-buffer entry, whose commit clears the tags of a MIXED body, and the tagged reference is a long result; a tagged
address raises TAG, a misaligned one ALIGN, a length out of range BOUNDS, all with origin store. -/
def Obligations.MakeObjectResults : Prop :=
  ∀ (s : State) (k : ObjKind) (d a b : RegNo),
    let x := s.me.rgt a
    let n := (s.me.rg b).toNat
    let kind := match k with
      | .flat => 0
      | .mixed => 1
      | .tensor => 2
    (x.tag = true → exec (.mkobj k d a b) s = goes (s.trapMe (memCause .tag .store) x.val x.val)) ∧
    (x.tag = false → x.val.toNat % 8 ≠ 0 → exec (.mkobj k d a b) s = goes (s.trapMe (memCause .align .store) x.val 0)) ∧
    (x.tag = false → x.val.toNat % 8 = 0 → (n = 0 ∨ 2 ^ 28 ≤ n) →
      exec (.mkobj k d a b) s = goes (s.trapMe (memCause .bounds .store) x.val 0)) ∧
    (x.tag = false → x.val.toNat % 8 = 0 → 0 < n → n < 2 ^ 28 → s.me.phase = .body →
      ∀ s1 s2 acc, s.checkPages (storeOf { val := x.val } x.val 8) (pagesOf x.val.toNat (8 * (n + 1))) = .ok s1 () →
        s1.checkAccess s1.party (storeOf { val := x.val } x.val 8) = .ok s2 acc → s2.me.phase = .body → s2.me.stores.length < 32 →
        ∃ t st, exec (.mkobj k d a b) s = goes t ∧
          t = s2.setMe { s2.me with stores := s2.me.stores ++ [st]
                                    outst := s2.me.outst ++ [[.g d.toNat { val := x.val, tag := true }]] } ∧
          st.writes = wordWrites acc.pa (bytesLE 8 (n + 2 ^ 28 * kind + 2 ^ 33 * (32 * s1.act.core + s1.act.ctx))) false ∧
          st.body = s2.rangesAt (x.val.toNat + 8) n ∧ st.obj = none ∧ st.va = x.val.toNat % 2 ^ 57 ∧
          (k ≠ .mixed → st.clear = []) ∧ (k = .mixed → st.clear = s1.wordsAt (x.val.toNat + 8) n))

/-- R225, R226: vector loads and stores: vld and vst need an address that is a multiple of 64, whatever the mask holds;
loads check every active lane and then read them (R151), vld with the 64 bytes of the register as its request (R371), and write
each active lane the 4 bytes read at its lane address (inactive lanes merge or read zero), stores buffer each
active lane's 4 bytes, in one entry (vst, with no active lane too: log entry 50) or one a lane (vsct); with no active lane
there is no access. -/
def Obligations.VectorMemoryResults : Prop :=
  ∀ (s : State) (z : Bool) (vd vb : BitVec 4) (k : BitVec 2) (a b : RegNo) (off : BitVec 9) (sh : BitVec 3),
    let base := s.me.rgt a
    let e := ea base.val off 64
    let h : Word := if base.tag then base.val else 0
    let lanes (addr : Nat → Word) : List (Nat × Word) :=
      ((List.range 16).filter (fun l => (s.me.rk k).getLsbD l)).map (fun l => (l, addr l))
    let old := s.me.rv vd
    let load (i : Instr) (addr : Nat → Word) (whole : Bool) : Prop := ∀ s1 as, s.checkLanes base (lanes addr) = .ok s1 as →
      let r := s1.readLanes (if whole then as.map (fun x => (x.1, x.2.wholeReg)) else as)
      ∃ t v, exec i s = goes t ∧ Owes r.1 t [.v vd.toNat v] ∧ ∀ l, l < 16 → v.extractLsb' (32 * l) 32 =
        match mfind r.2 l with
        | some x => BitVec.ofNat 32 x
        | none => if z then 0 else old.extractLsb' (32 * l) 32
    let store (i : Instr) (addr : Nat → Word) (one : Bool) : Prop := ∀ s1 sts, s.storeLanes base old (lanes addr) = .ok s1 sts →
      let es := if one then (match sts with
          | [] => [{ writes := [], va := 0 }]
          | x :: xs => [{ x with writes := ((x :: xs).map (·.writes)).flatten }]) else sts
      s1.me.stores.length + es.length ≤ 32 → exec i s = goes (s1.setMe { s1.me with stores := s1.me.stores ++ es })
    let index (l : Nat) : Word := BitVec.ofInt 64 ((s.me.rv vb).extractLsb' (32 * l) 32).toInt <<< sh.toNat
    (e.toNat % 64 ≠ 0 → exec (.vld z vd k a off) s = goes (s.trapMe (memCause .align .load) e h) ∧
      exec (.vst vd k a off) s = goes (s.trapMe (memCause .align .store) e h)) ∧
    (e.toNat % 64 = 0 → load (.vld z vd k a off) (fun l => e + BitVec.ofNat 64 (4 * l)) true ∧
      store (.vst vd k a off) (fun l => e + BitVec.ofNat 64 (4 * l)) true) ∧
    load (.vlds z vd k a b) (fun l => base.val + BitVec.ofNat 64 l * s.me.rg b) false ∧
    load (.vgth z vd k a vb sh) (fun l => base.val + index l) false ∧
    store (.vsct vd k a vb sh) (fun l => base.val + index l) false

-- Transfers, traps and system instructions (R179, R180, R211..R217, R408)

/-- R50, R59, R61, R179, R180: the nops and the header have no effect; b exits to the bundle's address plus 8·off20 when pP
differs from n and has no effect otherwise; call, jr, callr and ret exit, and call and callr write the fall-through address to
g31 with its tag clear, callr after its target was read. -/
def Obligations.TransferResults : Prop :=
  ∀ (s : State) (p : PredNo) (n : Bool) (off : BitVec 20) (a : RegNo) (len : BitVec 6) (x sv a16 a32 : Bool),
    let c := s.me
    let bundle : Word := c.addr + BitVec.ofNat 64 (8 * (c.cur / 2))
    let target : Word := BitVec.ofInt 64 (bundle.toInt + 8 * off.toInt)
    let link : Tagged := { val := c.addr + BitVec.ofNat 64 (4 * c.words.length), tag := false }
    let exits (w : Word) : State := s.setMe { c with exit := some w }
    exec .nop s = goes s ∧ exec .nopA s = goes s ∧ exec (.blk len x sv a16 a32) s = goes s ∧
    exec (.b p n off) s = goes (if c.rp p ≠ n then exits target else s) ∧
    (∃ t, exec (.call off) s = goes t ∧ WroteG (exits target) t 31 link) ∧
    exec (.jr a) s = goes (exits (c.rg a)) ∧
    (∃ t, exec (.callr a) s = goes t ∧ WroteG (exits (c.rg a)) t 31 link) ∧
    exec .ret s = goes (exits (c.rg 31))

/-- R23, R26, R27, R42: a block that has exited, or has issued its last word, with no result outstanding, commits: its register
writes become the committed ones and the next block is the target, or the fall-through address; its stores have left the
buffer. When a pre-emption request or an interrupt has arrived before, it is discarded, and its header is fetched again. -/
def Sys2Proof.Claims.BlockCommitEffect : Prop :=
  ∀ (s : State), s.me.live = true → s.me.phase = .body → (s.me.exit ≠ none ∨ s.me.words.length ≤ s.me.pos) →
    s.me.outst = [] → s.me.heldWrites = [] →
    (∀ e ∈ (s.core s.act.core).vuq, ¬ (e.ctx = s.act.ctx ∧ e.epoch = s.me.epoch)) →
      (Calm s → ∃ t, exec .blockCommit s = goes t ∧ t.me.arch = s.me.work ∧ t.me.work = s.me.work ∧ t.me.stores = [] ∧
        t.me.phase = .fetch ∧ t.me.epoch = s.me.epoch + 1 ∧ t.me.sreg = s.me.sreg ∧ t.me.exit = none ∧
        t.me.addr = s.me.exit.getD (s.me.addr + BitVec.ofNat 64 (4 * s.me.words.length)) ∧
        (s.me.stores = [] → s.me.implicitPubs = [] → t.mem = s.mem)) ∧
      (s.me.switchReq = true → ∃ t, exec .blockCommit s = goes t ∧ t.me.arch = s.me.arch ∧ t.me.work = s.me.arch ∧
        t.me.stores = [] ∧ t.me.phase = .fetch ∧ t.me.addr = s.me.addr ∧ t.me.switchReq = true ∧ t.mem = s.mem)

/-- R24, R26: the course of an exposed instruction: with its block not yet committed and its checks passing, it commits the
block (every result first) and is then performed as from the held state; a check that fails traps and the block is discarded.
A pre-emption request that has arrived discards the block (R27). Stated for the fences and exit; retag shows the failing
course. -/
def Sys2Proof.Claims.ExposedCourse : Prop :=
  ∀ (s : State) (sc : Scope) (d a : RegNo), s.me.phase = .body →
    (s.me.switchReq = true → s.me.heldWrites = [] → ∃ t, exec (.fenceFull sc) s = goes t ∧ t.me.arch = s.me.arch ∧
      t.me.stores = [] ∧ t.me.phase = .fetch ∧ t.me.addr = s.me.addr ∧ t.mem = s.mem) ∧
    (Calm s →
    (∀ e ∈ (s.core s.act.core).vuq, ¬ (e.ctx = s.act.ctx ∧ e.epoch = s.me.epoch)) →
    let settled := s.setMe { s.me with work := s.me.outst.foldl Regs.applyAll s.me.work, outst := [] }
    let u := settled.commitBlock s.act.core s.act.ctx (s.me.addr + BitVec.ofNat 64 (4 * s.me.words.length))
    let held (i : Instr) : State := u.setMe { u.me with phase := .exposed i, snap := some s.me.view }
    exec (.fenceAcq sc) s = exec (.fenceAcq sc) (held (.fenceAcq sc)) ∧
    exec (.fenceFull sc) s = exec (.fenceFull sc) (held (.fenceFull sc)) ∧
    exec (.fenceRel sc) s = exec (.fenceRel sc) (held (.fenceRel sc)) ∧
    exec (.fenceEng sc) s = exec (.fenceEng sc) (held (.fenceEng sc)) ∧
    exec .exit s = exec .exit (held .exit) ∧
    (s.me.priv = 0 → exec (.retag d a) s = goes (settled.trapInstr Cause.priv)))

/-- R23, R24, R26, R42: the commit of a block, and the course of an exposed instruction through it. -/
def Obligations.BlockCommitResults : Prop := BlockCommitEffect ∧ ExposedCourse

/-- R408: taking a trap: the block is discarded (registers, outstanding results and buffered stores), s.cause, s.tblk, s.tidx,
s.tval and s.tval2 are written, s.tstat takes the status, the level becomes S with interrupts off and the handler at s.tvec is
fetched; every other state register of the context, every other context and all of memory are unchanged. -/
def Obligations.TrapEntry : Prop :=
  ∀ (s : State) (n k : Nat) (x : TrapInfo),
    let c := s.ctxOf n k
    let t := s.takeTrap n k x
    let d := t.ctxOf n k
    (¬ (x.cause ≠ Cause.trapCode ∧ c.priv = 1 ∧ c.ie = false) →
      d.sr 0x041 = BitVec.ofNat 64 (x.cause % 512) ∧ d.sr 0x042 = x.tblk ∧ d.sr 0x043 = BitVec.ofNat 64 (x.tidx % 128) ∧
      d.sr 0x044 = x.tval ∧ d.sr 0x045 = x.tval2 ∧ d.sr 0x046 = s.status n k ∧ d.priv = 1 ∧ d.ie = false ∧
      d.autopub = c.autopub ∧ d.phase = .fetch ∧ d.addr = c.sr 0x040 ∧ d.work = d.arch ∧ d.outst = [] ∧ d.stores = [] ∧
      (c.heldWrites = [] → d.arch = c.arch) ∧
      (∀ r, r ∉ [0x020, 0x041, 0x042, 0x043, 0x044, 0x045, 0x046] → d.sr r = c.sr r) ∧ t.fault = s.fault) ∧
    (x.cause ≠ Cause.trapCode → c.priv = 1 → c.ie = false →
      d.phase = .wait (.fault 0) ∧ d.addr = x.tblk ∧ d.sreg = c.sreg ∧ ∃ r, t.fault.waiting = s.fault.waiting ++ [r] ∧
        r.cause = Cause.nestedTrap ∧ r.handle = c.handle ∧ r.tval = x.tval ∧ r.tval2 = x.tval2) ∧
    t.mem = s.mem ∧ t.herds = s.herds ∧ t.launch = s.launch ∧ t.fabric = s.fabric ∧
    (∀ m j, m ≠ n ∨ j ≠ k → t.ctxOf m j = s.ctxOf m j)

/-- R213: trap: its block commits, and the handler is entered with TRAP_CODE, s.tblk the fall-through address, s.tidx the
trap's word position, s.tval the code and s.tstat the status, whatever the level and ie are. -/
def Sys2Proof.Claims.TrapInstruction : Prop :=
  ∀ (s : State) (code : BitVec 12), s.me.phase = .body → Calm s → s.me.outst = [] → s.me.implicitPubs = [] → s.me.awaitWalks = [] →
    s.me.heldWrites = [] → (∀ e ∈ (s.core s.act.core).vuq, ¬ (e.ctx = s.act.ctx ∧ e.epoch = s.me.epoch)) →
    ∃ t, exec (.trap code) s = goes t ∧ t.me.sr 0x041 = 0x011 ∧
      t.me.sr 0x042 = s.me.addr + BitVec.ofNat 64 (4 * s.me.words.length) ∧
      t.me.sr 0x043 = BitVec.ofNat 64 (s.me.cur % 128) ∧ t.me.sr 0x044 = code.setWidth 64 ∧ t.me.sr 0x045 = 0 ∧
      t.me.sr 0x046 = s.status s.act.core s.act.ctx ∧ t.me.priv = 1 ∧ t.me.ie = false ∧ t.me.addr = s.me.sr 0x040 ∧
      t.me.phase = .fetch ∧ t.me.arch = s.me.work ∧ (s.me.stores = [] → t.mem = s.mem)

/-- R214: eret, performed: level, ie and autopub come from s.tstat, pmode and esc stay, and the next block is at s.tblk. -/
def Sys2Proof.Claims.ReturnFromTrap : Prop :=
  ∀ (s : State), Held s .eret →
    ∃ t, exec .eret s = goes (finished t) ∧ t.me.priv = (s.me.sr 0x046).toNat % 4 ∧ t.me.ie = (s.me.sr 0x046).getLsbD 2 ∧
      t.me.autopub = (s.me.sr 0x046).getLsbD 3 ∧ (t.me.sr 0x020).getLsbD 5 = (s.me.sr 0x020).getLsbD 5 ∧
      t.myCore.pmode = s.myCore.pmode ∧ t.me.addr = s.me.sr 0x042 ∧ t.me.phase = .fetch ∧
      t.me.arch = s.me.arch ∧ t.mem = s.mem ∧ (∀ r, r ≠ 0x020 → t.me.sr r = s.me.sr r)

/-- R213, R214: trap and eret. -/
def Obligations.TrapAndReturnResults : Prop := TrapInstruction ∧ ReturnFromTrap

/-- R31, R214..R217: at U, eret, repart, tlbinv and retag trap with PRIV before the commit point, s.tval the word; at S, eret
traps with PRIV when s.tstat names level 2 or 3, on every core but the Assayer's (R452). -/
def Obligations.PrivilegeTraps : Prop :=
  ∀ (s : State) (mode : Bool) (d a b : RegNo), s.me.phase = .body → Calm s → s.me.outst = [] →
    (∀ e ∈ (s.core s.act.core).vuq, ¬ (e.ctx = s.act.ctx ∧ e.epoch = s.me.epoch)) →
    let denied : Out := goes (s.trapMe Cause.priv ((s.me.words.getD s.me.cur 0).setWidth 64) 0)
    (s.me.priv = 0 → exec .eret s = denied ∧ exec (.repart mode) s = denied ∧ exec (.tlbinvPage a b) s = denied ∧
      exec (.tlbinvAsid b) s = denied ∧ exec .tlbinvAll s = denied ∧ exec (.retag d a) s = denied) ∧
    (s.me.priv = 1 → s.assayer s.act.core = false → (s.me.sr 0x046).getLsbD 1 = true → exec .eret s = denied)

namespace Sys2Proof.Claims

/-- The numbers of R36. -/
def Assigned (n : Nat) : Prop := n ≤ 0x010 ∨ 0x020 ≤ n ∧ n ≤ 0x025 ∨ 0x040 ≤ n ∧ n ≤ 0x046 ∨ 0x048 ≤ n ∧ n ≤ 0x04B ∨
  0x060 ≤ n ∧ n ≤ 0x067 ∨ 0x080 ≤ n ∧ n ≤ 0x085 ∨ n = 0x0A0

/-- What srd gives for an assigned number (R36, R37, R138, R159, R211, R247): the places of the core, its herd and the context,
the status, time and timer, the flags of the block so far, the core's registers, the counters of outstanding writes, the
progress of the oldest copy command, and otherwise the context's own register. -/
def SrValue (s : State) (n : Nat) : Word :=
  if n = 0x002 then BitVec.ofNat 64 s.act.core
  else if n = 0x003 then BitVec.ofNat 64 s.act.ctx
  else if n = 0x004 then BitVec.ofNat 64 (24 * (s.act.core / 192) + s.act.core % 96 / 4)
  else if n = 0x020 then s.status s.act.core s.act.ctx
  else if n = 0x021 then BitVec.ofNat 64 s.time
  else if n = 0x022 then (match s.me.timerAt with
    | some c => BitVec.ofNat 64 (c - s.time)
    | none => 0)
  else if n = 0x023 then s.me.view.fcsr
  else if n = 0x024 then BitVec.ofNat 64 s.myCore.escres
  else if n = 0x025 then BitVec.ofNat 64 s.myCore.vshare
  else if n = 0x065 then BitVec.ofNat 64 (s.outstanding s.act.core s.act.ctx 1)
  else if n = 0x066 then BitVec.ofNat 64 (s.outstanding s.act.core s.act.ctx 2)
  else if n = 0x067 then BitVec.ofNat 64 (s.outstanding s.act.core s.act.ctx 3)
  else if n = 0x0A0 then (match s.headCommand s.act.core s.me.handle with
    | some x => x.cebox
    | none => 0)
  else s.me.sr n

end Sys2Proof.Claims

/-- R36, R37, R211: srd: a number that R36 does not assign traps with SREG_UNDEF; at U one without read access traps with
SREG_ACCESS; every other completes: the register takes the value with a clear tag, and nothing else changes. -/
def Sys2Proof.Claims.ReadStateRegister : Prop :=
  ∀ (s : State) (d : RegNo) (num : BitVec 10),
    let n := num.toNat
    let open_ : Prop := s.me.priv = 1 ∨ s.me.priv = 2 ∨ ¬ (0x040 ≤ n ∧ n ≤ 0x060)
    (Assigned n → open_ → ∃ t, exec (.srd d num) s = goes t ∧ WroteG s t d { val := SrValue s n, tag := false }) ∧
    (¬ Assigned n → exec (.srd d num) s = goes (s.trapInstr Cause.sregUndef)) ∧
    (Assigned n → ¬ open_ → exec (.srd d num) s = goes (s.trapInstr Cause.sregAccess))

/-- R8, R36..R39, R212, R247: swr, performed, completes for every number: the register takes the value within its fields, at S
the status takes level, ie and autopub and at U autopub only, the timer counts from its value and its event is cancelled,
s.fcsr takes its nineteen bits, s.escres and s.vshare are the core's (s.escres frees the barrel slots that it newly reserves,
R391), and s.cebox sets the progress of the saved command unless the thread's oldest copy command is queued already; nothing else of the state changes. The refusals come before the commit point: SREG_UNDEF, SREG_ACCESS, PRIV and SREG_VALUE. That
s.mxcap keeps all its bits is the model's choice (log entry 43). -/
def Sys2Proof.Claims.WriteStateRegister : Prop :=
  ∀ (s : State) (num : BitVec 10) (a : RegNo),
    let n := num.toNat
    let v := s.me.rg a
    let super := s.me.super
    let i : Instr := .swr num a
    let u := resumed s
    let fields : Word := if n = 0x041 then 0x1FF else if n = 0x043 then 0x7F else if n = 0x046 then 0x3F
      else if n = 0x080 ∨ n = 0x081 ∨ n = 0x085 then 0x1F else -1
    (Held s i →
      (n = 0x020 → exec i s = goes (finished (u.setMe (if super then u.me.setStatus (v.toNat % 4) (v.getLsbD 2) (v.getLsbD 3)
        else u.me.setStatus u.me.priv u.me.ie (v.getLsbD 3))))) ∧
      (n = 0x022 → exec i s = goes (finished (u.setMe { u.me with
        timerAt := if v = 0 then none else some (s.time + v.toNat), timerEvent := false }))) ∧
      (n = 0x023 → exec i s = goes (finished (u.setMe { u.me with
        arch := { u.me.arch with fcsr := v &&& 0x7FFFF }, work := { u.me.work with fcsr := v &&& 0x7FFFF } }))) ∧
      (n = 0x024 → exec i s = goes (finished (u.setCore s.act.core (u.myCore.reserve (v.toNat % 64))))) ∧
      (n = 0x025 → exec i s = goes (finished (u.setCore s.act.core { u.myCore with vshare := v.toNat % 256 }))) ∧
      (n = 0x0A0 → exec i s = goes (finished (match (if u.headRuns s.act.core s.me.handle then none else mfind s.launch.threads s.me.handle) with
        | some x =>
          let y : Thread := { x with cmds := onHeadCommand (fun z => z.withBoxes v) x.cmds }
          { u with launch := { u.launch with threads := mset s.launch.threads s.me.handle y } }
        | none => u))) ∧
      (n ∉ [0x020, 0x022, 0x023, 0x024, 0x025, 0x0A0] →
        exec i s = goes (finished (u.setMe { u.me with sreg := mset u.me.sreg n (v &&& fields) })))) ∧
    (s.me.phase = .body → Calm s → s.me.outst = [] →
      (∀ e ∈ (s.core s.act.core).vuq, ¬ (e.ctx = s.act.ctx ∧ e.epoch = s.me.epoch)) →
      let refused (c : Nat) : Prop := exec i s = goes (s.trapInstr c)
      (¬ Assigned n → refused Cause.sregUndef) ∧
      (Assigned n → super = false → srWriteU n = false → refused Cause.sregAccess) ∧
      (super = true → n ∈ [0x002, 0x003, 0x004, 0x021, 0x065, 0x066, 0x067] → refused Cause.sregAccess) ∧
      (n = 0x020 → super = true → s.assayer s.act.core = false → 2 ≤ v.toNat % 4 → refused Cause.priv) ∧
      (n = 0x023 → v.toNat % 4 = 3 → refused Cause.sregValue) ∧
      (n = 0x040 → super = true → v.toNat % 8 ≠ 0 → refused Cause.sregValue) ∧
      (n = 0x085 → 31 < v.toNat → refused Cause.sregValue) ∧
      (n = 0x025 → super = true → v.toNat % 256 = 0 → refused Cause.sregValue))

/-- R8, R36..R39, R211, R212: srd and swr. -/
def Obligations.StateRegisterResults : Prop := ReadStateRegister ∧ WriteStateRegister

/-- R215: repart, performed: a target equal to the mode does nothing; otherwise the issuer goes on as context 0 of the other
mode with g0..g31, v0..v7, its predicates, masks and state registers, g32..g63 and v8..v15 reading zero, and s.escres at most
half the contexts. -/
def Sys2Proof.Claims.RepartResults : Prop :=
  ∀ (s : State) (mode : Bool), Held s (.repart mode) →
    (s.myCore.pmode = mode → ∃ t, exec (.repart mode) s = goes t ∧ t = finished (resumed s)) ∧
    (s.myCore.pmode ≠ mode → ∃ t, exec (.repart mode) s = goes (finished t) ∧ t.act.ctx = 0 ∧ t.act.core = s.act.core ∧ t.myCore.pmode = mode ∧
      t.myCore.escres = min s.myCore.escres (if mode then 16 else 8) ∧ t.me.sreg = s.me.sreg ∧ t.me.addr = s.me.addr ∧
      t.me.arch.p = s.me.arch.p ∧ t.me.arch.k = s.me.arch.k ∧ t.me.arch.fcsr = s.me.arch.fcsr ∧
      (∀ r, r < 32 → t.me.arch.getG r = s.me.arch.getG r) ∧ (∀ r, 32 ≤ r → t.me.arch.getG r = {}) ∧
      (∀ r, r < 8 → t.me.arch.getV r = s.me.arch.getV r) ∧ (∀ r, 8 ≤ r → t.me.arch.getV r = 0) ∧ t.mem = s.mem ∧
      (∀ k, k ≠ 0 → (t.ctxOf s.act.core k).live = false))

/-- R216: tlbinv, performed: after the release at DEVICE scope every matching entry is dropped and no other; the context goes
on when no access in flight remains: no write on its way, no buffered store or checked access of another context, no store
that a sequencer holds and no object that a walk holds. -/
def Sys2Proof.Claims.TlbInvalidateResults : Prop :=
  ∀ (s : State) (a b : RegNo),
    let asid := (s.me.rg b).toNat % 65536
    let va := (s.me.rg a).toNat % 2 ^ 57
    let rule (i : Instr) (drops : TlbEntry → Bool) : Prop := Held s i →
      ∀ s1, (resumed s).release s.act.core s.act.ctx 2 = (s1, true) → (∀ c ∈ s.cores, c.2.wq = []) →
        (∀ c ∈ s.cores, ∀ k ∈ c.2.ctxs, k.2.live = true → ¬ (c.1 = s.act.core ∧ k.1 = s.act.ctx) → k.2.stores = [] ∧ k.2.acc = none) →
        (∀ x ∈ s.fabric.sites, x.2.seq.held = []) → (∀ h ∈ s.herds, ∀ w ∈ h.2.walks, w.held = none) → ∃ t, exec i s = goes (finished t) ∧ t.mem.tlb = s.mem.tlb.filter (fun e => !drops e) ∧ t.me.phase = .fetch ∧
          (∀ k, ∀ e ∈ mget [] t.mem.micro k, e ∈ mget [] s.mem.micro k ∧ drops e = false) ∧
          t.mem.bytes = s.mem.bytes ∧ t.me.arch = s.me.arch
    rule (.tlbinvPage a b) (fun e => (e.asid == asid || e.entry.getLsbD 6) && va / 2 ^ e.bits == e.page) ∧
    rule (.tlbinvAsid b) (fun e => e.asid == asid) ∧ rule .tlbinvAll (fun _ => true)

/-- R217: retag, performed, writes the value with its tag set and changes no memory. -/
def Sys2Proof.Claims.RetagResult : Prop :=
  ∀ (s : State) (d a : RegNo), Held s (.retag d a) → ∃ t, exec (.retag d a) s = goes t ∧
    t = finished (committed (resumed s) [.g d.toNat { val := s.me.rg a, tag := true }])

/-- R215..R217: repart, tlbinv and retag. -/
def Obligations.SystemResults : Prop := RepartResults ∧ TlbInvalidateResults ∧ RetagResult

-- Messages, events and thread control (R197..R210)

/-- R203: rqput appends the handle at its priority unless 16 stand there; rqtake takes the oldest handle of the highest
priority, up to pri, that holds one. The predicate tells. -/
def Sys2Proof.Claims.ReadyQueueResults : Prop :=
  ∀ (s : State) (d a : RegNo) (pri : BitVec 2) (p : PredNo),
    let q (k : Nat) : List Word := mget [] s.myCore.readyq k
    let u := resumed s
    (Held s (.rqput a pri p) → (q pri.toNat).length < 16 → ∃ t, exec (.rqput a pri p) s = goes (finished t) ∧
      mget [] t.myCore.readyq pri.toNat = q pri.toNat ++ [s.me.rg a] ∧
      (∀ k, k ≠ pri.toNat → mget [] t.myCore.readyq k = q k) ∧ t.me.arch = s.me.arch.applyAll [.p p.toNat true] ∧ t.mem = s.mem) ∧
    (Held s (.rqput a pri p) → 16 ≤ (q pri.toNat).length → ∃ t, exec (.rqput a pri p) s = goes t ∧
      t = finished (committed u [.p p.toNat false])) ∧
    (Held s (.rqtake d pri p) → (∀ k, k ≤ pri.toNat → q k = []) → ∃ t, exec (.rqtake d pri p) s = goes t ∧
      t = finished (committed u [.g d.toNat {}, .p p.toNat false])) ∧
    (∀ k h rest, Held s (.rqtake d pri p) → k ≤ pri.toNat → (∀ j, j < k → q j = []) → q k = h :: rest →
      (∀ c ∈ s.myCore.ctxs, c.2.held = []) → ∃ t, exec (.rqtake d pri p) s = goes (finished t) ∧
        mget [] t.myCore.readyq k = rest ∧ t.me.arch = s.me.arch.applyAll [.g d.toNat { val := h, tag := false }, .p p.toNat true])

/-- R197, R204, R207: send copies its payload with tags into the free send-buffer entry of its priority, or stalls while the
entry is filled; mbind arms the binding of a ring that is empty; a sleep of which no cause holds waits, and one whose timer event is pending takes it, before a message or an
event (log entry 70). -/
def Sys2Proof.Claims.SendResults : Prop :=
  ∀ (s : State) (d a : RegNo) (n1 : BitVec 3) (pri ring : BitVec 2) (mask : BitVec 4),
    let u := resumed s
    let words := (List.range (n1.toNat + 1)).map (fun k => s.me.view.getG (d.toNat + k))
    (Held s (.send d a n1 pri) → mfind s.myCore.sendbuf pri.toNat = none → ∃ t, exec (.send d a n1 pri) s = goes (finished t) ∧
      mfind t.myCore.sendbuf pri.toNat = some { src := s.me.handle, dst := (s.me.rg a).toNat % 2 ^ 32, pri := pri.toNat, words := words
                                                time := s.time, seq := s.tick, evq := s.me.sr 0x063, core := s.act.core } ∧
      (∀ k, k ≠ pri.toNat → mfind t.myCore.sendbuf k = mfind s.myCore.sendbuf k) ∧ t.mem = s.mem ∧ t.me.arch = s.me.arch) ∧
    (Held s (.send d a n1 pri) → mfind s.myCore.sendbuf pri.toNat ≠ none → exec (.send d a n1 pri) s =
      goes (u.setMe { u.me with phase := .exposed (.send d a n1 pri) })) ∧
    (Held s (.mbind a ring pri) → (mget {} s.me.rings ring.toNat).occ = 0 → ∃ t, exec (.mbind a ring pri) s = goes t ∧
      t = finished (u.setMe { u.me with binds := mset u.me.binds ring.toNat { task := s.me.rg a, pri := pri.toNat, armed := true } })) ∧
    (Held s (.sleep mask) → (mask.getLsbD 0 = true → ∀ r ∈ s.me.rings, r.2.occ = 0) → mask.getLsbD 1 = false →
      (mask.getLsbD 2 = true → s.me.timerEvent = false ∧ ∀ c, s.me.timerAt = some c → s.time < c) → mask.getLsbD 3 = false → ∃ t, exec (.sleep mask) s = goes t ∧
        t = finished (u.setMe { u.me with phase := .wait (.sleep mask.toNat) })) ∧
    (Held s (.sleep mask) → mask.getLsbD 2 = true → mask.getLsbD 3 = false → s.me.timerEvent = true → (∀ c, s.me.timerAt = some c → s.time < c) → ∃ t, exec (.sleep mask) s = goes t ∧
      t = finished (u.setMe { u.me with timerEvent := false, phase := .fetch }))

/-- R198, R200: recv on a ring with a message whose slot reads as these ten words: payload words 0..n with the tags of the
header, zeros behind them, the header untagged, and the slot released. On an empty ring recv waits and recv.nb clears its
predicate and changes nothing else. -/
def Sys2Proof.Claims.ReceiveResults : Prop :=
  ∀ (s : State) (d a : RegNo) (ring : BitVec 2) (p : PredNo),
    let u := resumed s
    let r : Ring := mget {} s.me.rings ring.toNat
    let va := (s.me.sr 0x064).toNat + 1280 * ring.toNat + 80 * r.head
    let taken (t s1 : State) (msg : List Tagged) (more : List RegWrite) : Prop :=
      let h := (msg.getD 0 {}).val
      let regs := (List.range 8).map (fun k => RegWrite.g (d.toNat + k)
        (if k ≤ h.toNat / 2 ^ 32 % 8 then { val := (msg.getD (2 + k) {}).val, tag := h.getLsbD (40 + k) } else {}))
      t = finished ((committed s1 (regs ++ [.g a.toNat { val := h, tag := false }] ++ more)).onMe (fun c =>
        { c with phase := .fetch, rings := mset c.rings ring.toNat { head := (r.head + 1) % 16, occ := r.occ - 1 } }))
    (Held s (.recv d a ring) → r.occ = 0 → ∃ t, exec (.recv d a ring) s = goes t ∧
      t = finished (u.setMe { u.me with phase := .wait (.recv ring.toNat d.toNat a.toNat) })) ∧
    (Held s (.recvNb d a ring p) → r.occ = 0 → ∃ t, exec (.recvNb d a ring p) s = goes t ∧
      t = finished (committed u [.p p.toNat false])) ∧
    (∀ s1 msg, Held s (.recv d a ring) → r.occ ≠ 0 → u.loadTagged u.party va 10 = .ok s1 msg →
      ∃ t, exec (.recv d a ring) s = goes t ∧ taken t s1 msg []) ∧
    (∀ s1 msg, Held s (.recvNb d a ring p) → r.occ ≠ 0 → u.loadTagged u.party va 10 = .ok s1 msg →
      ∃ t, exec (.recvNb d a ring p) s = goes t ∧ taken t s1 msg [.p p.toNat true])

/-- R197..R207: the ready queue, send, mbind and sleep, and recv. -/
def Obligations.MessageResults : Prop := ReadyQueueResults ∧ SendResults ∧ ReceiveResults

/-- R206: waitev and waitev.nb take the oldest record of the context's herd queue into four registers; on an empty queue
waitev waits, and waitev.nb clears its predicate and changes nothing else. -/
def Sys2Proof.Claims.EventResults : Prop :=
  ∀ (s : State) (d : RegNo) (p : PredNo), (s.me.sr 0x063).getLsbD 8 = true →
    let h := (s.me.sr 0x063).toNat % 256
    let u := resumed s
    let regs (e : EventRec) : List RegWrite := (List.range 4).map (fun k => RegWrite.g (d.toNat + k) { val := e.getD k 0, tag := false })
    (∀ e rest, (s.herd h).events = e :: rest →
      (Held s (.waitev d) → ∃ t, exec (.waitev d) s = goes (finished t) ∧ (t.herd h).events = rest ∧ t.me.arch = s.me.arch.applyAll (regs e) ∧
        t.me.work = t.me.arch ∧ t.mem = s.mem) ∧
      (Held s (.waitevNb d p) → ∃ t, exec (.waitevNb d p) s = goes (finished t) ∧ (t.herd h).events = rest ∧
        t.me.arch = s.me.arch.applyAll (regs e ++ [.p p.toNat true]) ∧ t.mem = s.mem)) ∧
    ((s.herd h).events = [] →
      (Held s (.waitev d) → ∃ t, exec (.waitev d) s = goes t ∧ t = finished (u.setMe { u.me with phase := .wait (.waitev d.toNat) })) ∧
      (Held s (.waitevNb d p) → ∃ t, exec (.waitevNb d p) s = goes t ∧ t = finished (committed u [.p p.toNat false])))

/-- R208..R210: spawn, reply and exit, performed after their releases. spawn's checks keep the record as they read it, with the
block's own stores; spawn takes a pending-pool entry for the child with it and writes its number, or writes 0xFFFFFFFF when none
is free; reply sends its words to the escape operator, under the launch
whose payload the context took, and marks the ticket replied; exit of a thread without sets, ticket, commands or walks, and with
no record of its own waiting for the full fault ring (R410), frees the context and retires the thread. -/
def Sys2Proof.Claims.ThreadControlResults : Prop :=
  ∀ (s : State) (d a : RegNo) (p : PredNo) (n1 : BitVec 3),
    let u := resumed s
    let x := s.me.rgt a
    (∀ s1 acc, s.checkAccess s.party { loadOf x x.val 64 with align := 64 } = .ok s1 acc →
      let r := s1.readWords s1.act.core s1.act.ctx acc.entry acc.herdObj (wordsOf acc.pa 64)
      let kind := (r.2.getD 0 {}).val.toNat % 8
      (kind = 1 ∨ kind = 2 ∨ kind = 3) → (r.2.getD 6 {}).val = 0 →
        s.spawnOk x = .ok (r.1.setMe { r.1.me with snapCmd := some ([], r.2.map (·.val)) }) ()) ∧
    (∀ s1 ws record, Held s (.spawn d a p) → u.release s.act.core s.act.ctx 2 = (s1, true) → s1.me.snapCmd = some (ws, record) →
      let v := s1.setMe { s1.me with snapCmd := none }
      let parent := s1.me.handle / 2 ^ 20 % 4096
      (v.poolEntry parent = none → ∃ t, exec (.spawn d a p) s = goes t ∧
        t = finished (committed v [.g d.toNat { val := 0xFFFFFFFF, tag := false }, .p p.toNat false])) ∧
      (∀ k rv, v.poolEntry parent = some (k, rv) → ∃ t e, exec (.spawn d a p) s = goes (finished t) ∧
        mfind t.launch.pool k = some e ∧ e.record = record ∧ e.parent = parent ∧ e.reserved = rv ∧ e.order = s1.launch.nextOrder ∧
        t.me.arch = s1.me.arch.applyAll [.g d.toNat { val := BitVec.ofNat 64 k, tag := false }, .p p.toNat true] ∧ t.mem = s1.mem)) ∧
    (∀ s1 site tk w, Held s (.reply d n1) → u.release s.act.core s.act.ctx 2 = (s1, true) → s1.me.ticket = some (site, tk, w) →
      ∃ t r, exec (.reply d n1) s = goes (finished t) ∧ t.fabric.replies = s1.fabric.replies ++ [r] ∧ r.site = site ∧ r.ticket = tk ∧ r.launch = s1.me.ticketLaunch ∧ r.cause = 0 ∧
        r.words = (List.range (n1.toNat + 1)).map (fun k => (s.me.view.getG (d.toNat + k)).val) ∧
        t.me.ticket = some (site, tk, true) ∧ t.mem = s1.mem) ∧
    (∀ s1, Held s .exit → s.me.sets = [] → s.me.ticket = none → s.me.live = true →
      let v := u.setMe { u.me with phase := .wait .exit, ticket := none }
      v.commandsOf s.me.handle = false → v.walksOf s.me.handle 1 = 0 →
      v.posterHeld (fun r => r.src == 0 && r.handle == s.me.handle) = false → v.release s.act.core s.act.ctx 3 = (s1, true) →
      s1.me.handle = s.me.handle → ∃ t, exec .exit s = goes (finished t) ∧ t.me.live = false ∧ mfind t.launch.threads s.me.handle = none ∧
        t.mem = s1.mem)

/-- R206, R208..R210: waitev, spawn, reply and exit. -/
def Obligations.EventAndThreadResults : Prop := EventResults ∧ ThreadControlResults

-- Sets, barriers, coupling and rejoin queues (R182..R196)

namespace Sys2Proof.Claims

/-- The request for a set record (R185): 64 bytes, to be read and written, origin atomic. -/
def recordOf (x : Tagged) : AccessReq :=
  { va := x.val, size := 64, need := .both, origin := .atomic, base := x, noSe := true, reads := true, align := 64 }

/-- A held instruction on the set that register a names finds the record: after the access checks in s1 its content is r, at
physical address pa. -/
def FindsRecord (s : State) (a : RegNo) (s1 : State) (pa : Nat) (r : SetRec) : Prop :=
  ∃ s0 acc, (resumed s).heldAccess (recordOf (s.me.rgt a)) = .ok s0 acc ∧ acc.pa = pa ∧
    s0.readRec s0.act.core s0.act.ctx pa = (s1, r)

/-- The acting context of u is a member of the set in table entry e. -/
def MemberAt (s : State) (a : RegNo) (e : Nat) (m : Member) : Prop :=
  s.me.sets.find? (fun x => x.2.record == (s.me.rg a).toNat) = some (e, m)

/-- A state fault is noted, to be delivered at the next block boundary; nothing else changes (R184). -/
def Noted (u t : State) (cause : Nat) (tval tval2 : Word) : Prop :=
  t = finished (u.setMe { u.me with pendFault := some { cause := cause, tval := tval, tval2 := tval2 } })

/-- u with the acting context a member of the set whose record stands at pa, in the lowest free entry of its table (R185). -/
def Entered (u : State) (pa : Nat) (record : Word) (phase : Bool) : State :=
  let v := u.setMe { u.me with sets := mset u.me.sets u.me.freeEntry { record := record.toNat, phase := phase, arrived := false } }
  v.onAux pa (fun y => { y with members := y.members ++ [(v.me.handle, v.act.core)] })

/-- The fields of a live record are within their ranges (R182). -/
def InRange (r : SetRec) : Prop :=
  ¬ (r.w0.getLsbD 33 = true ∧ 192 ≤ r.w0.toNat / 2 ^ 34 % 256) ∧ ¬ (r.w0.getLsbD 32 = false ∧ r.w0.getLsbD 33 = false) ∧
    r.w0.toNat / 2 ^ 16 % 65536 ≤ r.w0.toNat % 65536

/-- count and joined of a record (R182). -/
def count (r : SetRec) : Nat := r.w0.toNat % 65536
def joined (r : SetRec) : Nat := r.w0.toNat / 2 ^ 16 % 65536

end Sys2Proof.Claims

/-- R185: join: SET_DEAD for count 0, SET_FULL when joined = count, SET_HERD for a bound set of another herd, SET_GANG when a
member of a GANG set runs on the core; SET_RECORD for fields out of range; otherwise joined rises by one in the record, the context's table gains an entry with
the record's phase, the register takes the join position, and nothing else changes. -/
def Sys2Proof.Claims.JoinResults : Prop :=
  ∀ (s s1 : State) (d a : RegNo) (pa : Nat) (r : SetRec), Held s (.join d a) → FindsRecord s a s1 pa r →
    let x := s.me.rg a
    let herd := r.w0.toNat / 2 ^ 34 % 256
    let onCore := (s1.aux pa).members.any (fun m => m.2 == s1.act.core)
    let i : Instr := .join d a
    (count r = 0 → ∃ t, exec i s = goes t ∧ Noted s1 t Cause.setDead x r.w0) ∧
    (count r ≠ 0 → ¬ InRange r → ∃ t, exec i s = goes t ∧ Noted s1 t Cause.setRecord x r.w0) ∧
    (count r ≠ 0 → InRange r → joined r = count r → ∃ t, exec i s = goes t ∧ Noted s1 t Cause.setFull x r.w0) ∧
    (InRange r → joined r < count r → r.w0.getLsbD 33 = true → herdOfCore s1.act.core ≠ herd →
      ∃ t, exec i s = goes t ∧ Noted s1 t Cause.setHerd x r.w0) ∧
    (InRange r → joined r < count r → ¬ (r.w0.getLsbD 33 = true ∧ herdOfCore s1.act.core ≠ herd) → r.w0.getLsbD 32 = false →
      onCore = true → ∃ t, exec i s = goes t ∧ Noted s1 t Cause.setGang x r.w0) ∧
    (InRange r → joined r < count r → ¬ (r.w0.getLsbD 33 = true ∧ herdOfCore s1.act.core ≠ herd) →
      ¬ (r.w0.getLsbD 32 = false ∧ onCore = true) →
        exec i s = goes (finished (committed
          (Entered (s1.writeRec s1.act.core s1.act.ctx pa { r with w0 := BitVec.ofNat 64 (r.w0.toNat + 65536) }) pa x r.phase)
          [.g d.toNat { val := BitVec.ofNat 64 (joined r), tag := false }])))

/-- R185: join.new: SET_COUNT for a count of 0, above 65,535 or, in a GANG set, above 8; SET_LIVE on a record with members, or
whose unit still waits for pending bytes; BAR_NOUNIT when no unit of the herd is free for a bound set; otherwise the record is
written, with count n, one member, phase 0 and the watchdog exponent 30 for 0, the lowest free unit is bound, the context is the
first member in phase 0, its register takes 0, and nothing else changes. -/
def Sys2Proof.Claims.JoinNewResults : Prop :=
  ∀ (s s1 : State) (pool bound : Bool) (d a b : RegNo) (pa : Nat) (r : SetRec),
    let i : Instr := .joinNew pool bound d a b
    Held s i → FindsRecord s a s1 pa r →
    let x := s.me.rg a
    let n := (s.me.rg b).toNat
    let badCount : Prop := n = 0 ∨ 65535 < n ∨ pool = false ∧ 8 < n
    let waits := s1.herds.any (fun y => y.2.units.any (fun u => u.2.draining && u.2.record == some pa))
    let live : Prop := joined r ≠ 0 ∨ waits = true ∨ r.w0.getLsbD 33 = false ∧ r.pend ≠ 0
    let herd := herdOfCore s1.act.core
    let free := (List.range 4).find? (fun u => ((s1.herd herd).unit u).record.isNone)
    let unit := free.getD 0
    let wdog := r.w0.toNat / 2 ^ 46 % 32
    let v : State := { s1 with sets := mset s1.sets pa {} }
    let w : State := if bound then v.onUnit herd unit (fun _ => { record := some pa }) else v
    let fresh : SetRec :=
      { w0 := setWord0 n 1 pool bound herd (if bound then unit else 0) false false (if wdog = 0 then 30 else wdog)
        cnt0 := 0, cnt1 := 0, phase := false, broken := false, pend := 0 }
    (¬ badCount → ¬ live → bound = false ∨ free ≠ none →
      exec i s = goes (finished (committed (Entered (w.writeRec s1.act.core s1.act.ctx pa fresh) pa x false)
        [.g d.toNat { val := 0, tag := false }]))) ∧
    (badCount → ∃ t, exec i s = goes t ∧ Noted s1 t Cause.setCount x r.w0) ∧
    (¬ badCount → live → ∃ t, exec i s = goes t ∧ Noted s1 t Cause.setLive x r.w0) ∧
    (¬ badCount → ¬ live → bound = true → free = none → ∃ t, exec i s = goes t ∧ Noted s1 t Cause.barNounit x r.w0)

/-- R183, R186: leave: by leaveSet the context is no longer a member and is uncoupled from that set, keeps every other entry and its
registers, and the set no longer lists it; a record whose fields are out of range, or without members, delivers SET_RECORD. A register that names no set of the table traps with SET_NOTMEMBER before commit. -/
def Sys2Proof.Claims.LeaveResults : Prop :=
  ∀ (s s1 : State) (a : RegNo) (pa e : Nat) (m : Member) (r : SetRec),
    let i : Instr := .leave a
    (Held s i → MemberAt s a e m → FindsRecord s a s1 pa r → s1.me.sets = s.me.sets →
      (¬ InRange r ∨ joined r = 0 → ∃ t, exec i s = goes t ∧ Noted s1 t Cause.setRecord (BitVec.ofNat 64 m.record) r.w0) ∧
      (InRange r → joined r ≠ 0 →
        let t := s1.leaveSet s1.act.core s1.act.ctx e m pa r
        exec i s = goes (finished t) ∧ t.me.sets = s.me.sets.filter (fun x => x.1 != e) ∧
        t.me.gang = (if s1.me.gang = some pa then none else s1.me.gang) ∧ t.me.arch = s1.me.arch ∧
        (∀ x ∈ (t.aux pa).members, x.1 ≠ s1.me.handle))) ∧
    (s.me.phase = .body → Calm s → s.me.outst = [] → (∀ e ∈ (s.core s.act.core).vuq, ¬ (e.ctx = s.act.ctx ∧ e.epoch = s.me.epoch)) →
      (∀ x ∈ s.me.sets, x.2.record ≠ (s.me.rg a).toNat) → exec i s = goes (s.trapMe Cause.setNotmember (s.me.rg a) 0))

/-- R183, R185, R186: join, join.new and leave. -/
def Obligations.MembershipResults : Prop := JoinResults ∧ JoinNewResults ∧ LeaveResults

/-- R188, R190: bar, bar.arr and bar.wait on a live set: a broken set delivers BAR_TIMEOUT, a second arrival BAR_OVERARRIVE, a
wait without arrival BAR_NOARRIVE. Otherwise, after the release at the barrier scope, an arrival is counted in the member's
phase and completes it when the count and no pending byte allow; a wait whose phase has completed acquires, turns the member's
phase bit and goes on, and another waits. -/
def Sys2Proof.Claims.BarrierEffects : Prop :=
  ∀ (s s1 : State) (a : RegNo) (pa e : Nat) (m : Member) (r : SetRec), MemberAt s a e m → FindsRecord s a s1 pa r →
    InRange r → count r ≠ 0 →
    let va : Word := BitVec.ofNat 64 m.record
    let ph : Word := if m.phase then 1 else 0
    let arrived (p : Bool) : Nat := if p then r.cnt1 else r.cnt0
    let scope := if r.w0.getLsbD 33 then 1 else 2
    let all : List Instr := [.bar a, .barArr a, .barWait a]
    (∀ i ∈ all, Held s i → r.broken = true → ∃ t, exec i s = goes t ∧ Noted s1 t Cause.barTimeout va (BitVec.ofNat 64 (arrived r.phase))) ∧
    (r.broken = false → m.arrived = true → ∀ i ∈ [Instr.bar a, .barArr a], Held s i →
      ∃ t, exec i s = goes t ∧ Noted s1 t Cause.barOverarrive va ph) ∧
    (r.broken = false → m.arrived = false → Held s (.barWait a) →
      ∃ t, exec (.barWait a) s = goes t ∧ Noted s1 t Cause.barNoarrive va ph) ∧
    (r.broken = false → m.arrived = true → r.phase = m.phase → Held s (.barWait a) → ∃ t, exec (.barWait a) s = goes t ∧
      t = finished (s1.setMe { s1.me with phase := .wait (.bar e) })) ∧
    (r.broken = false → m.arrived = true → r.phase ≠ m.phase → Held s (.barWait a) → ∃ t, exec (.barWait a) s = goes t ∧
      t = finished (s1.passBar s1.act.core s1.act.ctx e scope)) ∧
    (∀ s2, r.broken = false → m.arrived = false → s1.release s1.act.core s1.act.ctx scope = (s2, true) →
      let q := s2.arrive e m pa r
      (Held s (.barArr a) → ∃ t, exec (.barArr a) s = goes t ∧ t = finished q.1) ∧
      (Held s (.bar a) → ∃ t, exec (.bar a) s = goes t ∧ t = finished (if q.2.phase ≠ m.phase then
        q.1.passBar q.1.act.core q.1.act.ctx e q.2.scope else q.1.setMe { q.1.me with phase := .wait (.bar e) })))

/-- R188, R189: an arrival counts once in its phase; the phase completes, its count returning to zero and the phase turning,
exactly when every member has arrived and no byte is pending. -/
def Sys2Proof.Claims.ArrivalCounts : Prop :=
  ∀ (s : State) (e pa : Nat) (m : Member) (r : SetRec), m.phase = r.phase →
    let q := (s.arrive e m pa r).2
    let n := (if r.phase then r.cnt1 else r.cnt0) + 1
    let other (x : SetRec) : Nat := if r.phase then x.cnt0 else x.cnt1
    let mine (x : SetRec) : Nat := if r.phase then x.cnt1 else x.cnt0
    q.w0 = r.w0 ∧ other q = other r ∧
    (count r = n ∧ r.pend = 0 → q.phase = !r.phase ∧ mine q = 0) ∧
    (¬ (count r = n ∧ r.pend = 0) → q.phase = r.phase ∧ mine q = n) ∧
    (∀ x, mfind s.me.sets e = some x → mfind (s.arrive e m pa r).1.me.sets e = some { x with arrived := true })

/-- R188..R190: bar, bar.arr and bar.wait, and how arrivals count and a phase completes. -/
def Obligations.BarrierResults : Prop := BarrierEffects ∧ ArrivalCounts

/-- R191: couple and couple.re: a POOL set delivers SET_MODE; a coupled member delivers COUPLE_STATE with couple. Otherwise each is
an arrival: the member stands at the gate, and waits there unless it is coupled, and the gate is tested, which changes nothing
while fewer members than joined have arrived; a set of one member goes on coupled, at its own next block. -/
def Obligations.CoupleResults : Prop :=
  ∀ (s s1 : State) (a : RegNo) (pa e : Nat) (m : Member) (r : SetRec), MemberAt s a e m → FindsRecord s a s1 pa r →
    InRange r → count r ≠ 0 →
    let va : Word := BitVec.ofNat 64 m.record
    let coupled : Prop := s1.me.gang = some pa
    let v : State := s1.setMe (if s1.me.gang = some pa then s1.me else { s1.me with phase := .wait (.gate e) })
    let h := v.me.handle
    let w : State := v.onAux pa (fun y => { y with gate := if y.gate.contains h then y.gate else y.gate ++ [h] })
    let arrives (i : Instr) : Prop := Held s i → exec i s = goes (finished (w.testGate pa va (joined r) r.w0))
    (r.w0.getLsbD 32 = true → ∀ i ∈ [Instr.couple a, .coupleRe a], Held s i →
      ∃ t, exec i s = goes t ∧ Noted s1 t Cause.setMode va r.w0) ∧
    (r.w0.getLsbD 32 = false → coupled → Held s (.couple a) →
      ∃ t, exec (.couple a) s = goes t ∧ Noted s1 t Cause.coupleState va r.w0) ∧
    (r.w0.getLsbD 32 = false → ¬ coupled → arrives (.couple a)) ∧
    (r.w0.getLsbD 32 = false → arrives (.coupleRe a)) ∧
    (((w.aux pa).gate.filter (w.gateCounts pa)).length < joined r → w.testGate pa va (joined r) r.w0 = w) ∧
    (¬ coupled → (s1.aux pa).gate = [] → joined r = 1 → s1.me.locked = false → w.placeOf h = some (w.act.core, w.act.ctx) →
      let t := w.testGate pa va (joined r) r.w0
      t.me.gang = some pa ∧ t.me.phase = .fetch ∧ t.me.addr = s1.me.addr ∧ (t.aux pa).gate = [])

/-- R194..R196: rjput and rjtake act on a herd-bound POOL set and deliver SET_MODE on any other: rjput, after its release,
appends a range that is not empty, RJ_FULL at 32; rjtake removes the oldest range and acquires at HERD scope, or writes zeros
when the queue is empty. -/
def Obligations.RejoinQueueResults : Prop :=
  ∀ (s s1 : State) (d a b c : RegNo) (p : PredNo) (pa e : Nat) (m : Member) (r : SetRec), MemberAt s a e m → FindsRecord s a s1 pa r →
    InRange r →
    let herd := r.w0.toNat / 2 ^ 34 % 256
    let unit := r.w0.toNat / 2 ^ 42 % 4
    let ranges (u : State) : List (Word × Word) := (mget ({} : BarUnit) (u.herd herd).units unit).ranges
    let own : Prop := r.w0.getLsbD 32 = true ∧ r.w0.getLsbD 33 = true
    let x := s.me.rg b
    let y := s.me.rg c
    let put (u v : Word) (f : Bool) : List RegWrite :=
      [.g d.toNat { val := u, tag := false }, .g (d.toNat + 1) { val := v, tag := false }, .p p.toNat f]
    (¬ own → ∀ i ∈ [Instr.rjput a b c, .rjtake d a p], Held s i →
      ∃ t, exec i s = goes t ∧ Noted s1 t Cause.setMode (BitVec.ofNat 64 m.record) r.w0) ∧
    (own → Held s (.rjput a b c) → ∀ s2, s1.release s1.act.core s1.act.ctx 1 = (s2, true) →
      (y.toNat ≤ x.toNat → ∃ t, exec (.rjput a b c) s = goes t ∧ t = finished s2) ∧
      (x.toNat < y.toNat → 32 ≤ (ranges s2).length → ∃ t, exec (.rjput a b c) s = goes t ∧ Noted s2 t Cause.rjFull x y) ∧
      (x.toNat < y.toNat → (ranges s2).length < 32 →
        let t := s2.onUnit herd unit (fun u => { u with ranges := u.ranges ++ [(x, y)] })
        exec (.rjput a b c) s = goes (finished t) ∧ ranges t = ranges s2 ++ [(x, y)])) ∧
    (own → Held s (.rjtake d a p) →
      (ranges s1 = [] → ∃ t, exec (.rjtake d a p) s = goes t ∧ t = finished (committed s1 (put 0 0 false))) ∧
      (∀ u v rest, ranges s1 = (u, v) :: rest →
        let t := committed ((s1.onUnit herd unit (fun y => { y with ranges := rest })).acquire s1.act.core 1) (put u v true)
        exec (.rjtake d a p) s = goes (finished t) ∧ ranges t = rest))

-- Engine commands and matrix elements (R242..R273)

/-- R242..R245, R268: cpy, gath, gath.own, scat, scat.add, xchg and mxc, performed: the 64 bytes are read once; while the
coprocessor queue holds two commands, the port holds earlier writes of the context, or the page of the completion set's record
migrates, the context stalls with its block committed and its snapshot kept; otherwise the command, with that snapshot, the
issuer's handle, the completion handle and, of an mxc, the five sampled registers, enters the tail of the queue. No register is
written. Without a set handle and but for gath.own and xchg, nothing else changes than the ownership of the destination. An xchg
whose id is live already completes at once with XCHG_DUP (R263). -/
def Sys2Proof.Claims.EngineIssueResults : Prop :=
  ∀ (s : State) (a b : RegNo),
    let x := s.me.rgt a
    let gb := s.me.rg b
    let u := resumed s
    let sampled := [0x080, 0x081, 0x082, 0x083, 0x085].map s.me.sr
    ∀ i major fn smp, (i, major, fn, smp) ∈ [(Instr.cpy a b, 0x20, 0, ([] : List Word)), (.gath a b, 0x21, 0, []), (.gathOwn a b, 0x21, 1, []),
        (.scat a b, 0x22, 0, []), (.scatAdd a b, 0x22, 1, []), (.xchg a b, 0x23, 0, []), (.mxc a b, 0x24, 0, sampled)] → Held s i →
      let enters (v : State) (ws : List Tagged) (sm : List Word) : Prop :=
        let p := v.pushWrites v.act.core v.act.ctx 0
        let c := p.mkCommand major fn x gb (ws.map (·.val)) sm
        let w := p.setMe { p.me with snapCmd := none }
        let stalls : Prop := 2 ≤ p.myCore.copq.length ∨ p.heldAny p.act.core p.act.ctx = true ∨ p.setMoves c = true
        (stalls → exec i s = goes (p.setMe { p.me with snapCmd := some (ws, sm), phase := .exposed i })) ∧
        (¬ stalls → exec i s = goes (finished (w.enterQueue c))) ∧
        (c.major = major ∧ c.fn = fn ∧ c.descA = ws.map (·.val) ∧ c.descB = sm ∧ c.done = gb ∧ c.handle = p.me.handle ∧
          c.core = p.act.core ∧ c.ctx = p.act.ctx ∧ c.descAddr = x.val ∧ c.status = 0) ∧
        (gb.toNat < 64 → i ≠ .gathOwn a b → i ≠ .xchg a b →
          let t := w.enterQueue c
          t.myCore.copq = p.myCore.copq ++ [{ c with pend := c.byteCount }] ∧ t.me.arch = p.me.arch ∧ t.me.addr = p.me.addr ∧
          t.mem.bytes = p.mem.bytes ∧ t.mem.tags = p.mem.tags ∧ t.herds = p.herds ∧
          ∃ o, t.mem.owned = p.mem.owned.filter (fun r => r.2.2.2 != c.id) ++ o ∧ ∀ r ∈ o, r.2.2.2 = c.id) ∧
        (i = .xchg a b → w.xchgLive (c.w 3 % 65536) = true → w.enterQueue c =
          ({ w with mem := { w.mem with nextId := c.id } } : State).completeCommand 1 c Cause.xchgDup 0 0)
      (s.me.snapCmd = none → ∀ s1 acc, u.heldAccess { loadOf x x.val 64 with align := 64 } = .ok s1 acc →
        let r := s1.readWords s1.act.core s1.act.ctx acc.entry acc.herdObj (wordsOf acc.pa 64)
        enters r.1 r.2 smp) ∧
      (∀ ws sm, s.me.snapCmd = some (ws, sm) → enters u ws sm)

/-- R243: the checks that an engine command makes before its commit point, in their order: the 64 bytes at gA; a completion
handle that is 0, 1 or a nonzero multiple of 64, and in the last case names a set of the table; the descriptor. The handle's
and the access's faults name gA and gB, the descriptor's the byte offset of its first offending word. -/
def Sys2Proof.Claims.EngineCheckOrder : Prop :=
  ∀ (s : State) (a b : RegNo), s.me.phase = .body → Calm s → (∀ e ∈ (s.core s.act.core).vuq, ¬ (e.ctx = s.act.ctx ∧ e.epoch = s.me.epoch)) →
    let x := s.me.rgt a
    let gb := s.me.rg b
    let u := s.setMe { s.me with work := s.me.outst.foldl Regs.applyAll s.me.work, outst := [] }
    let q : AccessReq := { loadOf x x.val 64 with align := 64 }
    ∀ i major fn, (i, major, fn) ∈ [(Instr.cpy a b, 0x20, 0), (.gath a b, 0x21, 0), (.gathOwn a b, 0x21, 1), (.scat a b, 0x22, 0),
        (.scatAdd a b, 0x22, 1), (.xchg a b, 0x23, 0), (.mxc a b, 0x24, 0)] →
      (∀ s1 c v w, u.checkAccess u.party q = .fault s1 c v w → exec i s = goes (s1.trapMe c x.val gb)) ∧
      (∀ s1 acc, u.checkAccess u.party q = .ok s1 acc →
        (gb ≠ 0 → gb ≠ 1 → gb.toNat % 64 ≠ 0 → exec i s = goes (s1.trapMe Cause.engHandle x.val gb)) ∧
        (64 ≤ gb.toNat → gb.toNat % 64 = 0 → (∀ e ∈ s1.me.sets, e.2.record ≠ gb.toNat) →
          exec i s = goes (s1.trapMe Cause.setNotmember x.val gb)) ∧
        (gb = 0 ∨ gb = 1 →
          let r := s1.readWords s1.act.core s1.act.ctx acc.entry acc.herdObj (wordsOf acc.pa 64)
          let ws := r.2.map (·.val)
          ∀ off, (if major = 0x24 then msgError ws else r.1.descError major fn ws) = some off →
            exec i s = goes (r.1.trapMe Cause.engDesc x.val (BitVec.ofNat 64 off))))

/-- R242..R245, R268: the engine commands performed, and the checks before them in their order. -/
def Obligations.EngineCommandResults : Prop := EngineIssueResults ∧ EngineCheckOrder

/-- R247: the segments of a box follow one another from the box's first byte to its last and none crosses a row's end. -/
def Sys2Proof.Claims.BoxSegments : Prop :=
  ∀ (c : Command) (k : Nat), 0 < c.rowBytes → 4096 * k < c.total →
    let g := c.boxSegs k
    (g.map (·.2)).sum = c.boxEnd k - 4096 * k ∧ (∃ e, g.head? = some e ∧ e.1 = 4096 * k) ∧
    (∀ j e f, g[j]? = some e → g[j + 1]? = some f → f.1 = e.1 + e.2) ∧
    (∀ e ∈ g, 0 < e.2 ∧ e.1 / c.rowBytes = (e.1 + e.2 - 1) / c.rowBytes)

/-- R244, R248, R263, R269, R349: ENGINE_TAKE at core s.act.core, and MXC_INJECT. Completions and exchanges that had to wait go on first, and
saved commands of resumed threads fill the queue behind. An empty queue, or a head whose engine is busy or whose issuer's
earlier writes are not performed, leaves the queue as it is; a head of the copy engine leaves it for a free engine; an exchange
ends with its own status, or goes live while fewer than 16 are (R378); an mxc goes to its MXE while it has a place, or is noted as refused, and a
refused one goes when it is the first of those and a place is free, but not while the MXE's router fetches a table entry again
(R449). -/
def Sys2Proof.Claims.EngineTakeResults : Prop :=
  ∀ (s : State) (c : Command) (rest : List Command),
    let n := s.act.core
    let u := s.pumpFinish.pumpXchgs
    let dst : Nat := c.w 0 % 2048
    let left (v : State) : State := v.onCore n (fun y => { y with copq := rest })
    let takes (t : State) : Prop := exec .engineTake s = goes (t.refill n 3)
    ((u.core n).copq = [] → takes u) ∧
    ((u.core n).copq = c :: rest →
      (c.major < 0x23 → (u.core n).engine = none → takes (u.onCore n (fun y => { y with engine := some c, copq := rest }))) ∧
      (c.major < 0x23 → (u.core n).engine ≠ none → takes u) ∧
      (∀ s1, 0x23 ≤ c.major → u.release c.core c.ctx 2 = (s1, false) → takes s1) ∧
      (∀ s1, 0x23 ≤ c.major → c.major ≠ 0x24 → c.stopped = false → u.release c.core c.ctx 2 = (s1, true) →
        (c.status ≠ 0 → takes ((left s1).completeCommand 1 c c.status 0 0)) ∧
        (c.status = 0 → 16 ≤ s1.dev.xchgs.length → takes s1) ∧
        (c.status = 0 → s1.dev.xchgs.length < 16 → takes ((left s1).acceptXchg c))) ∧
      (∀ s1, c.major = 0x24 → c.stopped = false → u.release c.core c.ctx 2 = (s1, true) →
        (s1.mxeRoom dst = true → s1.dev.refetch.contains (2048 + siteOfMxe dst) = false → s1.heldFor dst = [] → takes (s1.injectMxc n c)) ∧
        (s1.mxeRoom dst = false → c.heldAt = none →
          takes (s1.onCore n (fun y => { y with copq := { c with heldAt := some s1.time } :: rest }))))) ∧
    ((s.core n).copq = c :: rest → c.major = 0x24 → c.heldAt ≠ none → s.mxeRoom dst = true →
      s.dev.refetch.contains (2048 + siteOfMxe dst) = false → s.firstHeld dst = some n →
      exec .mxcInject s = goes ((s.injectMxc n c).refill n 3)) ∧
    ((s.core n).copq = c :: rest → s.dev.retired.contains (siteOfMxe dst) = false →
      s.injectMxc n c = (left s).onMxe dst (fun m => { m with queue := m.queue ++ [{ c with heldAt := none }] })) ∧
    ((∀ h ∈ s.launch.threads, h.2.cmds = []) → s.refill n 3 = s) ∧ (s.dev.finishing = [] → (∀ y ∈ s.dev.xchgs, y.todo = []) → u = s)

/-- R245, R247, R249, R415: the copy engine's events at core s.act.core. BOX_LAND of one of the 32 boxes from the first that is
not complete moves its segments, issues it and completes it unless a segment waits on the fix-up list; of a scat.add, as far
as its segments go; of a gath.own it first samples the table. ENGINE_SEGMENT_FAULT puts the first segment that faults on the
fix-up list, or stops the issue of boxes where 16 stand there, or for a scat.add posts the record. FIXUP_REPLAY retries an entry: one that lands leaves the list, and a second fault
posts a record and stops the command. ENGINE_COMPLETE frees the engine and completes the command. -/
def Sys2Proof.Claims.EngineEventEffects : Prop :=
  ∀ (s : State) (c : Command),
    let n := s.act.core
    let k := s.arg 0
    let own : Prop := c.major = 0x21 ∧ c.fn.testBit 0 = true
    let goesWith (i : Instr) (v : State) (d : Command) : Prop := exec i s = goes (v.onCore n (fun y => { y with engine := some d }))
    let runs : Prop := (s.core n).engine = some c ∧ c.status = 0 ∧ c.stopped = false
    let mayIssue : Prop := c.full = false ∧ c.issued.contains k = false ∧ k < c.boxes ∧ k < c.base + 32
    (∀ s1 c1, runs → ¬ own → c.adds = false → mayIssue → s.segments c (c.todo k) = .ok s1 c1 →
      let q := s1.settleBox { c1 with issued := insertNum c1.issued k } k
      goesWith .boxLand q.1 q.2) ∧
    (runs → c.adds = true → mayIssue → (∀ j, j < k → c.issued.contains j = true) →
      let r := s.addSegments { c with prog := max c.prog (4096 * k) } (c.todo k)
      let d : Command := if c.boxEnd k ≤ r.2.prog then { r.2 with issued := insertNum r.2.issued k } else r.2
      let q := r.1.settleBox d k
      goesWith .boxLand q.1 q.2) ∧
    (∀ s1 c1, runs → own → c.aux = [] → s.sample c = .ok s1 c1 → goesWith .boxLand s1 c1) ∧
    (∀ pre g post s1 cause v w, runs → ¬ own → c.adds = false → mayIssue → c.todo k = pre ++ g :: post →
      (∀ p ∈ pre, ∀ s2 cause' v' w', s.segment c p.1 p.2 ≠ .fault s2 cause' v' w') → s.segment c g.1 g.2 = .fault s1 cause v w →
      (c.fix.length < 16 →
        goesWith .engineSegmentFault s1 { c with fix := c.fix ++ [{ start := g.1, len := g.2, cause := cause }] }) ∧
      (16 ≤ c.fix.length → goesWith .engineSegmentFault s1 { c with full := true })) ∧
    (∀ f s1 cause v w, runs → c.fix = [f] → c.noBox = true → s.segment c f.start f.len = .fault s1 cause v w →
      let q := s1.engineRecord { c with fix := [{ f with retried := true, cause := cause }] } 1 cause v
      goesWith .fixupReplay q.1 q.2 ∧ q.2.stopped = true ∧ ∃ r, q.1.fault.waiting = s1.fault.waiting ++ [r] ∧ r.cause = cause ∧
        r.handle = c.handle ∧ r.tval = v) ∧
    (∀ f s1 c1, runs → c.fix = [f] → c.noBox = true → s.segment c f.start f.len = .ok s1 c1 →
      let q := s1.settleBox { c1 with fix := [] } (f.start / 4096)
      goesWith .fixupReplay q.1 { q.2 with full := false }) ∧
    (k ≠ 1 → runs → (own → c.aux ≠ []) → c.allIssued = true → c.fix = [] →
      exec .engineComplete s =
        goes ((s.onCore n (fun y => { y with engine := none })).completeCommand 0 c 0 c.landedBytes c.extra)) ∧
    (k ≠ 1 → (s.core n).engine = some c → c.status ≠ 0 → exec .engineComplete s =
        goes ((s.onCore n (fun y => { y with engine := none })).completeCommand 0 c c.status c.landedBytes c.extra))

/-- R244, R263: the events of a live exchange x. ENGINE_COMPLETE ends it when every peer's entries have arrived and nothing of its
own is left to do, behind earlier exchanges of its thread; XCHG_RECEIVE takes a peer's entries once the count words are set, with
XCHG_SHAPE for another entry size, and discards data for no live exchange; XCHG_TIMEOUT ends it 2^32 cycles after it was performed,
behind earlier exchanges of its thread and with its count words written first where that had to wait, and one that is still
queued too, and changes nothing before. -/
def Sys2Proof.Claims.ExchangeResults : Prop :=
  ∀ (s : State) (x : Xchg) (c : Command),
    let from_ := s.arg 1
    let live (id : Nat) : Prop := s.dev.xchgs.find? (fun y => y.id == id) = some x
    let queued := (s.cores.flatMap (fun k => k.2.copq) ++ s.launch.threads.flatMap (fun t => t.2.cmds)).filter (fun d => d.major == 0x23)
    let behind (d : Command) : Bool :=
      (s.dev.xchgs.map (·.cmd) ++ queued).any (fun y => y.handle == d.handle && decide (y.id < d.id))
    let late (y : Xchg) : Bool := y.id == s.arg 0 && (decide (y.start + 2 ^ 32 ≤ s.time) && !behind y.cmd)
    let lateCmd (d : Command) : Bool := d.w 3 % 65536 == s.arg 0 && (decide (d.aux.getD 0 s.time + 2 ^ 32 ≤ s.time) && !behind d)
    (s.arg 0 = 1 → live (s.arg 1) → behind x.cmd = false →
      (x.cmd.status ≠ 0 → exec .engineComplete s = goes (s.endXchg x x.cmd.status)) ∧
      (x.cmd.status = 0 → x.cmd.stopped = false → x.todo = [] → (∀ k, k < 64 → (x.cmd.w 4).testBit k = true → k ∈ x.arrived) →
        exec .engineComplete s = goes (s.endXchg x (s.xchgStatus x)))) ∧
    (live (s.arg 0) → from_ ∉ x.arrived → (x.cmd.w 4).testBit from_ = true → 64 ∉ x.todo → x.cmd.stopped = false →
      x.cmd.status = 0 → from_ ≠ s.deviceId →
      (∀ s1 y, s.arg 3 = field (x.cmd.w 3) 47 16 →
        s.place x from_ (s.arg 2) ((s.act.args.drop 4).map (fun b => BitVec.ofNat 8 b)) = .ok s1 y →
        exec .xchgReceive s = goes (s1.putXchg y) ∧ y.arrived = insertNum x.arrived from_ ∧
          y.trunc = x.trunc + (if x.cmd.w 5 % 2 ^ 32 < s.arg 2 then 1 else 0)) ∧
      (∀ s1, s.arg 3 ≠ field (x.cmd.w 3) 47 16 → s.engWrite x.cmd (x.cmd.w 2 + 8 * from_) (bytesLE 8 0) = .ok s1 () →
        exec .xchgReceive s =
          goes (s1.putXchg { x with arrived := insertNum x.arrived from_, shape := true, landed := x.landed + 8 }))) ∧
    ((∀ y ∈ s.dev.xchgs, y.id ≠ s.arg 0) → exec .xchgReceive s = goes s) ∧
    (s.dev.xchgs.find? late = some x →
      (64 ∉ x.todo → exec .xchgTimeout s = goes (s.endXchg x Cause.xchgTimeout)) ∧
      (∀ s1, 64 ∈ x.todo → s.clearCounts x.cmd (List.range 64) = .ok s1 () →
        exec .xchgTimeout s = goes (s1.endXchg x Cause.xchgTimeout))) ∧
    (s.dev.xchgs.find? late = none → queued.find? lateCmd = some c →
      (c.aux.getD 1 0 = 1 → exec .xchgTimeout s = goes ((s.dropCommand c.id).completeCommand 1 c Cause.xchgTimeout 0 0)) ∧
      (∀ s1, c.aux.getD 1 0 ≠ 1 → s.clearCounts c (List.range 64) = .ok s1 () →
        exec .xchgTimeout s = goes ((s1.dropCommand c.id).completeCommand 1 c Cause.xchgTimeout 0 0))) ∧
    (s.dev.xchgs.find? late = none → queued.find? lateCmd = none → exec .xchgTimeout s = goes s)

/-- R245, R246, R369: completion of a command without a set, no other completion being held. The ownership of its destination
ends; with handle 0, status OK and no flag of a converting copy nothing is posted; with an event handle, a status that is not OK
or such a flag, one record of kind 0x0020 is posted whose words are the issuer's handle, the descriptor's address, the bytes
landed, and the status with the count, to the herd queue that the thread's s.evq or else its launch names; while that queue is
full the completion is held, and with it the ownership. -/
def Sys2Proof.Claims.CompletionRecord : Prop :=
  ∀ (s : State) (unit : Nat) (c : Command) (status landed extra : Nat), c.done.toNat < 64 → s.dev.finishing = [] →
    let owned := s.mem.owned.filter (fun o => o.2.2.2 != c.id)
    let t := s.completeCommand unit c status landed extra
    let launch := launchOfHandle c.handle
    let herd := s.eventHerd (s.evqOf c.handle) launch
    let posts : Prop := c.done = 1 ∨ status ≠ 0 ∨ c.major = 0x20 ∧ extra ≠ 0
    let e : EventRec :=
      [BitVec.ofNat 64 (0x0020 + 2 ^ 32 * (c.handle % 2 ^ 32)), c.descAddr, BitVec.ofNat 64 landed, BitVec.ofNat 64 (status + 2 ^ 16 * extra)]
    t.mem.bytes = s.mem.bytes ∧
    (¬ posts → (∀ h, herd = some h → (s.herd h).posts = []) → t = s.withOwned owned) ∧
    (posts → status < 512 → extra < 2 ^ 32 →
      (∀ h, herd = some h →
        ((s.herd h).events.length < 256 → (s.herd h).posts = [] → t = (s.postEvent unit h e).withOwned owned) ∧
        (256 ≤ (s.herd h).events.length →
          t.mem = s.mem ∧ t.dev.finishing = [{ unit := unit, cmd := c, post := some (h, e), queued := true }])) ∧
      (herd = none → t = (s.postToLaunch unit launch e).withOwned owned))

/-- R244..R249, R263, R269: the engines' events, the segments of a box, and completion. -/
def Obligations.EngineEventResults : Prop := EngineTakeResults ∧ EngineEventEffects ∧ ExchangeResults ∧ BoxSegments ∧ CompletionRecord

/-- R265, R269..R272: a command at the head of its MXE's queue: refused with CAP_STALE, CAP_RIGHTS, FORMAT_PAIR or SHAPE when its
capability, its right, its bank's cell type or its span does not agree, and then it changes nothing but completes with that
status; a command that has passed its checks is checked no more; a CLEAR resets the bank's cells; a DRAIN whose cells hold no word that cannot be corrected (R362) writes the rows of a bank that
settles, posts a record for a cell that it rebuilt, marks the launch that holds the MXE (R417), ends with SHAPE when the bank has no cells and with HALLMARK_MISMATCH and a record when it does not settle; a LOADW loads
its tiles and the codebook set, or ends with CODEBOOK and keeps the previous one; an MM ends with OK after the tile operation. -/
def Sys2Proof.Claims.MatrixCommandEffects : Prop :=
  ∀ (s : State) (c : Command) (rest : List Command),
    let e := s.arg 0
    let m := s.mxe e
    let bank := c.w 1 / 16 % 2
    let ofCap : Prop := m.owner = some (c.w 0 / 2 ^ 11 % 4096) ∧ m.nonce.toNat = c.w 0 / 2 ^ 48 % 65536
    let implied := if intCode (wordN c.descB 0 % 32) && intCode (wordN c.descB 1 % 32) then 2 else 1
    m.queue = c :: rest → m.waiting = none → s.dev.retired.contains (siteOfMxe e) = false →
      s.posterHeld (fun r => r.src == 5 && r.loc == siteOfMxe e) = false →
      (∀ i op, (i, op) ∈ [(Instr.loadw, 1), (.mm, 2), (.drain, 3), (.clear, 4)] → c.w 1 % 16 = op →
        let right : Prop := (c.w 0).testBit (22 + op) = true ∧ m.rights.testBit (op - 1) = true
        (c.status ≠ 0 → exec i s = goes (s.mxeDone e c c.status)) ∧
        (c.status = 0 → m.running ≠ some c.id →
          (¬ ofCap → exec i s = goes (s.mxeDone e c Cause.capStale)) ∧
          (ofCap → ¬ right → exec i s = goes (s.mxeDone e c Cause.capRights)) ∧
          (ofCap → right → op = 2 → (m.bank bank).cell ≠ 0 → (m.bank bank).cell ≠ implied →
            exec i s = goes (s.mxeDone e c Cause.formatPair)) ∧
          (ofCap → right → op = 1 → weightBytes e < c.w 3 + c.w 4 → exec i s = goes (s.mxeDone e c Cause.shape))) ∧
        (∀ st, c.done = 0 → (s.mxeDone e c st).mem.bytes = s.mem.bytes ∧ ((s.mxeDone e c st).mxe e).queue = rest)) ∧
      (s.mxeRefuses e c = none ∨ m.running = some c.id → c.status = 0 →
        let v := s.onMxe e (fun m => { m with running := some c.id })
        (c.w 1 % 16 = 4 → exec .clear s = goes ((v.clearBank e bank).mxeDone e c 0)) ∧
        (c.w 1 % 16 = 3 → (m.bank bank).m = 0 → exec .drain s = goes (v.mxeDone e c Cause.shape)) ∧
        (∀ v1 s1, c.w 1 % 16 = 3 → (m.bank bank).m ≠ 0 → v.checkBank .copyEngine e bank (bankRows e) (bankCols e) = .ok v1 () →
          let marked (un : Bool) : State := if un then s1.mxeFlags e 256 else s1
          let ends (u : State) : Prop := ∀ s2, u.writeRows c bank e (m.bank bank).n 0 (m.bank bank).m = .ok s2 () →
            exec .drain s = goes ((if (c.w 1).testBit 5 then s2.clearBank e bank else s2).mxeDone e c 0)
          (∀ un, v1.settleBank e bank (wordN c.descB 4 % 32) = (s1, .ok un) → ends (marked un)) ∧
          (∀ un i j old new, v1.settleBank e bank (wordN c.descB 4 % 32) = (s1, .rebuilt un i j old new) →
            ends (((marked un).mxeFlags e 128).postEvq 3 ((marked un).evqOf c.handle) (launchOfHandle c.handle)
              [eventWord0 0x0021 c.handle, c.descAddr, BitVec.ofNat 64 (i + 65536 * j), BitVec.ofNat 64 (old + 2 ^ 32 * new)])) ∧
          (∀ un, v1.settleBank e bank (wordN c.descB 4 % 32) = (s1, .mismatch un) → ∃ r,
            exec .drain s = goes (((marked un).postFault r).mxeDone e c Cause.hallmarkMismatch) ∧ r.cause = Cause.hallmarkMismatch ∧
              r.handle = c.handle ∧ r.aux = c.descAddr)) ∧
        (∀ s1, c.w 1 % 16 = 1 → c.w 5 = 0 → v.loadTiles c e 0 (c.w 4 / 1024) = .ok s1 () →
          exec .loadw s = goes ((s1.putBytes (mxeBase e + 2097152)
            ((List.range 2048).map (fun a => if (a / 8).testBit (a % 8) then 3 else 1))).mxeDone e c 0)) ∧
        (∀ s1 s2 bs, c.w 1 % 16 = 1 → c.w 5 ≠ 0 → v.loadTiles c e 0 (c.w 4 / 1024) = .ok s1 () →
          s1.engRead c (c.w 5) 2048 = .ok s2 bs →
          ((∀ b ∈ bs, b.toNat < 16 ∧ b.toNat ≠ 8) → exec .loadw s = goes ((s2.putBytes (mxeBase e + 2097152) bs).mxeDone e c 0)) ∧
          (¬ (∀ b ∈ bs, b.toNat < 16 ∧ b.toNat ≠ 8) → exec .loadw s = goes (s2.mxeDone e c Cause.codebook))) ∧
        (∀ s1 s2 s3 s4 s5 ra rb rows cols, c.w 1 % 16 = 2 → v.engRead c (c.w 2) 32 = .ok s1 ra → s1.engRead c (c.w 3) 32 = .ok s2 rb →
          let fa := wordN c.descB 0 % 32
          let fb := wordN c.descB 1 % 32
          let a := shapeOf ra
          let b := shapeOf rb
          s2.fetchA c fa a.rows a.cols a.base a.pitch (wordN c.descB 2) = .ok s3 rows →
          s3.fetchB e fb a.cols b.cols b.base (some (wordN c.descB 3)) = .ok s4 cols →
          s4.checkBank .copyEngine e bank a.rows b.cols = .ok s5 () →
          let r := s5.tileOp e bank { fa := fa, fb := fb, rows := rows, cols := cols }
          exec .mm s = goes ((r.1.mxeFlags e r.2).mxeDone e c 0))) ∧
      (let t := s.clearBank e bank
       let base := mxeBase e + 3145728 + 32768 * bank
       (∀ a, base ≤ a → a < base + bankBytes e → memGet t.mem.bytes a = 0) ∧
       (∀ a, a < base ∨ base + bankBytes e ≤ a → memGet t.mem.bytes a = memGet s.mem.bytes a) ∧ (t.mxe e).bank bank = {})

/-- R101, R102: C[bank] += A·B. Cell (i, j) takes the sum of its K-blocks' contributions: an INT32 cell modulo 2^32, an FP32
cell one addition after another, each rounded to nearest; the bank keeps the shape and the cell type. -/
def Sys2Proof.Claims.TileOperation : Prop :=
  ∀ (s : State) (e bank : Nat) (o : TileOp), bank < 2 → e < 1536 → s.memWf → (∀ k, s.shadowByte k = none) →
    o.rows.length ≤ bankRows e → o.cols.length ≤ bankCols e →
    let t := (s.tileOp e bank o).1
    let l := kLen (mxeFine e) o.fa o.fb
    let wide (f : Nat) : Bool := !mxeFine e && f == 0
    (∀ i j a b, o.rows[i]? = some a → o.cols[j]? = some b →
      let cs := ((runsOf l a).zip (runsOf l b)).map (fun p => contribution (wide o.fa) (wide o.fb) p.1 p.2)
      t.cell e bank i j = if o.ints then bitsOf 32 (s.cell e bank i j + (cs.map FVal.toInteger).sum) else (accumCell (s.cell e bank i j) cs).bits % 2 ^ 32) ∧
    ((t.mxe e).bank bank).m = o.rows.length ∧ ((t.mxe e).bank bank).n = o.cols.length ∧ ((t.mxe e).bank bank).cell = o.cell ∧
    (∀ a, a < mxeBase e + 3145728 + 32768 * bank ∨ mxeBase e + 3145728 + 32768 * bank + bankBytes e ≤ a →
      memGet t.mem.bytes a = memGet s.mem.bytes a)

/-- R101, R102, R265, R269..R272: the commands of an MXE, refused or carried out, and the tile operation. -/
def Obligations.MatrixCommandResults : Prop := MatrixCommandEffects ∧ TileOperation

-- Fabric elements (R274..R306)

namespace Sys2Proof.Claims

/-- The element of the acting site fires on tokens ts: it may act, its reads are made, in state s1, and every read of the
sequence has its token (R277, R278). -/
def Fires (s s1 : State) (ts : List Token) : Prop :=
  let x := s.site s.act.site
  x.acts = true ∧ s1 = s.takeReads s.act.site (x.plane.reads.drop x.taken.length) x.taken.length ∧
  (s1.site s.act.site).stopped = false ∧ (s1.site s.act.site).taken = ts ∧ (s1.site s.act.site).plane.reads.length ≤ ts.length

/-- The state in which a firing of site n computes: its tokens are taken. -/
def fired (s1 : State) (n : Nat) : State := (s1.onSite n (fun x => { x with taken := [] })).noteFire n

/-- Lane e of operand k: of its token, or the immediate operand (R279). -/
def operand (p : PlaneSlot) (ts : List Token) (w k e : Nat) : Nat := match ts[k]? with
  | some t => elemOf w e t.payload.toNat
  | none => p.imm % 2 ^ w

/-- The words that are valid in some operand (R275). -/
def validWords (ts : List Token) : Nat := (ts.map (fun t => if t.vcnt = 0 then 16 else t.vcnt)).foldl max 0

/-- A DATA token of lanes: lane e holds res e where its word is valid, and zero elsewhere (R275, R283). -/
def LaneToken (tok : Token) (w words : Nat) (last : Bool) (res : Nat → Nat) : Prop :=
  tok.kind = 0 ∧ tok.last = last ∧ tok.vcnt = words % 16 ∧
  ∀ e, e < 512 / w → tok.payload.extractLsb' (w * e) w = if w * e < 32 * words then BitVec.ofNat w (res e) else 0

/-- The flags that count results raise. -/
def raised (res : Nat → FRes) (count : Nat) : Nat := ((List.range count).map res).foldl (fun a r => a ||| r.flags) 0

/-- An integer lane as a number. -/
def numOf (sg : Bool) {w : Nat} (x : BitVec w) : Int := if sg then x.toInt else x.toNat

/-- The range of an integer lane. -/
def laneLo (w : Nat) (sg : Bool) : Int := if sg then -(2 ^ (w - 1)) else 0
def laneHi (w : Nat) (sg : Bool) : Int := if sg then 2 ^ (w - 1) - 1 else 2 ^ w - 1

/-- R279, R282..R285: the lane-by-lane operations. An integer lane wraps, clamps or compares as its row says, signed but for
UINT8; a float lane is read under ftz and rounded once by the plane's rounding, and its flags join the launch's; a compare
also sends the condition of lane 0; a missing last operand is the immediate; the result's words are those valid in an operand
and its last bit is the OR. -/
def LaneResults : Prop :=
  ∀ (s s1 : State) (ts : List Token), Fires s s1 ts → (s1.site s.act.site).outFree = true → (∀ t ∈ ts, t.kind = 0) →
    let n := s.act.site
    let u := fired s1 n
    let p := (s1.site n).plane
    let gives (i : Instr) (w : Nat) (ctl : Bool) (res : Nat → FRes) : Prop := w ∣ 32 → ∃ t tok, exec i s = goes t ∧
      LaneToken tok w (validWords ts) (ts.any (·.last)) (fun e => (res e).bits) ∧
      t = (let v := (u.graphFlags n (raised res (512 / w))).emit n [tok]
           if ctl then v.onSite n (fun x => x.emitCtl ((res 0).bits != 0)) else v)
    let int2 (isInt ctl : Bool) (i : Instr) (op : (w : Nat) → Bool → BitVec w → BitVec w → BitVec w) : Prop :=
      ∀ w sg, laneOf isInt p.fin = .int w sg → gives i w ctl (fun e =>
        { bits := (op w sg (BitVec.ofNat w (operand p ts w 0 e)) (BitVec.ofNat w (operand p ts w 1 e))).toNat })
    let flt (r : Nat) (isInt ctl : Bool) (i : Instr) (op : Fmt → FEnv → FVal → FVal → FVal → FRes) : Prop :=
      ts.length = r ∨ ts.length + 1 = r → ∀ f, laneOf isInt p.fin = .flt f → gives i f.width ctl (fun e =>
        let x (k : Nat) : FVal := f.read (u.penv p e).ftz (operand p ts f.width k e)
        op f (u.penv p e) (x 0) (x 1) (x 2))
    (ts.length = 2 ∨ ts.length = 1 →
      (∀ i op, (i, op) ∈ ([(.feAdd, fun _ _ x y => x + y), (.feSub, fun _ _ x y => x - y), (.feMul, fun _ _ x y => x * y),
          (.feMin, fun _ sg x y => if numOf sg x ≤ numOf sg y then x else y), (.feMax, fun _ sg x y => if numOf sg y ≤ numOf sg x then x else y)]
          : List (Instr × ((w : Nat) → Bool → BitVec w → BitVec w → BitVec w))) → int2 false false i op) ∧
      (∀ i op, (i, op) ∈ ([
          (.feAdds, fun w sg x y => BitVec.ofInt w (max (laneLo w sg) (min (laneHi w sg) (numOf sg x + numOf sg y)))),
          (.feSubs, fun w sg x y => BitVec.ofInt w (max (laneLo w sg) (min (laneHi w sg) (numOf sg x - numOf sg y)))),
          (.feAvg, fun w sg x y => BitVec.ofInt w ((numOf sg x + numOf sg y + 1) / 2)),
          (.feMulh, fun w sg x y => BitVec.ofInt w (numOf sg x * numOf sg y / 2 ^ w)),
          (.feAnd, fun _ _ x y => x &&& y), (.feOr, fun _ _ x y => x ||| y), (.feXor, fun _ _ x y => x ^^^ y),
          (.feShl, fun w _ x y => x <<< (y.toNat % w)), (.feShr, fun w _ x y => x >>> (y.toNat % w)),
          (.feSar, fun w _ x y => x.sshiftRight (y.toNat % w))]
          : List (Instr × ((w : Nat) → Bool → BitVec w → BitVec w → BitVec w))) → int2 true false i op) ∧
      (∀ i op, (i, op) ∈ ([(.feCmpeq, fun x y => decide (x = y)), (.feCmpne, fun x y => decide (x ≠ y)), (.feCmplt, fun x y => decide (x < y)),
          (.feCmple, fun x y => decide (x ≤ y))] : List (Instr × (Int → Int → Bool))) →
        int2 true true i (fun w sg x y => if op (numOf sg x) (numOf sg y) then BitVec.allOnes w else 0))) ∧
    (ts.length = 1 →
      int2 true false .feNot (fun _ _ x _ => ~~~x) ∧
      int2 true false .fePopc (fun w _ x _ => BitVec.ofNat w (((List.range w).filter (fun k => x.getLsbD k)).length)) ∧
      int2 true false .feClz (fun w _ x _ => BitVec.ofNat w (if x = 0 then w else w - 1 - Nat.log2 x.toNat)) ∧
      int2 false false .feAbs (fun w sg x _ => if sg ∧ x.toInt < 0 then BitVec.ofInt w (-x.toInt) else x) ∧
      int2 false false .feNeg (fun _ _ x _ => -x) ∧
      (∀ f, laneOf false p.fin = .flt f → f.e + f.m + 1 = f.width →
        gives .feAbs f.width false (fun e => { bits := operand p ts f.width 0 e % 2 ^ (f.width - 1) }) ∧
        gives .feNeg f.width false (fun e => { bits := operand p ts f.width 0 e ^^^ 2 ^ (f.width - 1) }))) ∧
    (∀ w, (laneOf true p.fin).width = w → ts.length = 3 ∨ ts.length = 2 →
      gives .feSel w false (fun e => { bits := if operand p ts w 0 e = 0 then operand p ts w 2 e else operand p ts w 1 e })) ∧
    flt 2 false false .feAdd (fun f v x y _ => f.fadd v x y) ∧ flt 2 false false .feSub (fun f v x y _ => f.fadd v x y.neg) ∧
    flt 2 false false .feMul (fun f v x y _ => f.fmul v x y) ∧ flt 2 false false .feDiv (fun f v x y _ => f.fdiv v x y) ∧
    flt 2 false false .feMin (fun f v x y _ => f.fpick v FVal.lesser x y) ∧ flt 2 false false .feMax (fun f v x y _ => f.fpick v FVal.greater x y) ∧
    flt 3 false false .feFma (fun f v x y z => f.ffma v x y z) ∧ flt 3 false false .feFms (fun f v x y z => f.ffma v x y z.neg) ∧
    (∀ i op, (i, op) ∈ ([(.feCmpeq, fun x y => evalFloat .feq x y), (.feCmpne, fun x y => (!(evalFloat .feq x y).1, (evalFloat .feq x y).2)),
        (.feCmplt, fun x y => evalFloat .flt x y), (.feCmple, fun x y => evalFloat .fle x y)] : List (Instr × (FVal → FVal → Bool × Nat))) →
      flt 2 true true i (fun f _ x y _ => { bits := if (op x y).1 then 2 ^ f.width - 1 else 0, flags := (op x y).2 })) ∧
    (ts.length = 1 → flt 1 false false .feRcp (fun f v x _ _ => f.frcp v x) ∧ flt 1 false false .feRsq (fun f v x _ _ => f.frsq v x) ∧
      flt 1 false false .feSqrt (fun f v x _ _ => f.fsqrt v x) ∧ flt 1 false false .feExp2 (fun f v x _ _ => f.fexp2 v x) ∧
      flt 1 false false .feLog2 (fun f v x _ _ => f.flog2 v x) ∧ flt 1 false false .feTanh (fun f v x _ _ => f.ftanh v x))

/-- R275, R282: a firing of an operation that computes one token lane by lane: a POISON among its tokens leaves with the payload
of the one at the lowest read and the OR of the last bits, the control output, if any, being 0; a SPARSE token that its row
does not accept faults with TOKEN_KIND and the site stops. qcvt does so under a scale that R297 admits. -/
def PoisonAndSparse : Prop :=
  ∀ (s s1 : State) (ts : List Token), Fires s s1 ts → (s1.site s.act.site).outFree = true →
    let n := s.act.site
    let u := fired s1 n
    let plain : List Instr := [.feAdd, .feSub, .feMul, .feFma, .feFms, .feMin, .feMax, .feDiv, .feRcp, .feRsq, .feSqrt, .feExp2, .feLog2,
      .feTanh, .feAdds, .feSubs, .feAvg, .feMulh, .feAnd, .feOr, .feXor, .feNot, .feSel, .feShl, .feShr, .feSar, .fePopc, .feClz, .feSround,
      .feQmax, .feScan, .feBcast, .feShuf, .fePack, .feHash]
    let compares : List Instr := [.feCmpeq, .feCmpne, .feCmplt, .feCmple]
    (∀ q, ts.find? (fun t => t.kind == 6) = some q → (∀ t ∈ ts, t.kind ≠ 1) →
      let v := u.emit n [{ payload := q.payload, kind := 6, last := ts.any (·.last) }]
      (∀ i ∈ plain ++ [.feAbs, .feNeg], exec i s = goes v) ∧
      (¬ ((s1.site n).plane.fout = 0x14 ∧ tensorScaleOk (fp32.decode (s1.site n).plane.imm) = false) → exec .feQcvt s = goes v) ∧
      (∀ i ∈ compares, exec i s = goes (v.onSite n (fun x => x.emitCtl false)))) ∧
    ((∃ t ∈ ts, t.kind = 1) → ∀ i ∈ plain ++ compares ++ [.feQcvt], exec i s = goes (s1.graphFault n Cause.tokenKind 2 (BitVec.ofNat 64 n) 1 0))

/-- R277, R280, R281: the reads of an element. With every read still to make, a DATA token at the port of read 0 is taken and
its link frees for the element; a marker there is left alone; a marker at a later read faults with PORT_ORDER, whose s.tval2
names the read, the port and the kind; a site whose reads are not all made changes nothing else. -/
def ReadSequence : Prop :=
  ∀ (s : State) (n p k : Nat) (ps : List Nat) (t : PortTok), mfind (s.site n).ports p = some t → t.todo.contains 6 = true →
    (t.tok.kind = 0 → s.takeReads n (p :: ps) k = (s.onSite n (fun x => { (x.took p 6) with taken := x.taken ++ [t.tok] })).takeReads n ps (k + 1)) ∧
    (2 ≤ t.tok.kind → t.tok.kind ≤ 5 → k = 0 → s.takeReads n (p :: ps) k = s) ∧
    (2 ≤ t.tok.kind → t.tok.kind ≤ 5 → k ≠ 0 → (s.site n).op ∉ [0x32, 0x33, 0x55, 0x63] → ∃ r,
      (s.takeReads n (p :: ps) k).fault.waiting = s.fault.waiting ++ [r] ∧ r.cause = Cause.portOrder ∧ r.tval = BitVec.ofNat 64 n ∧
      r.tval2 = BitVec.ofNat 64 (k % 8 + 8 * p + 32 * t.tok.kind) ∧ ((s.takeReads n (p :: ps) k).site n).stopped = true)

/-- R286, R295..R297: conversions. cvt: output lane j is the conversion of lane j of the input tokens taken together, in as many
tokens as the widths need; sround: each lane takes a value of fout and stays in fin; qmax: lane b has the largest finite magnitude
of block b, bit 31 for an infinity, the canonical NaN for a NaN; qcvt: the quantised blocks with their scale bytes from the top
downward, an unusable SX4 scale raising QNT_SCALE and nothing being emitted; dq: the values of the elements that the token's valid words hold. -/
def ConversionResults : Prop :=
  ∀ (s s1 : State) (ts : List Token), Fires s s1 ts → (s1.site s.act.site).outFree = true → (∀ t ∈ ts, t.kind = 0) →
    let n := s.act.site
    let u := fired s1 n
    let p := (s1.site n).plane
    let last := ts.any (·.last)
    let a := laneOf false p.fin
    let b := laneOf false p.fout
    let lane (w j : Nat) : Nat := elemOf w (j % (512 / w)) (ts.getD (j / (512 / w)) {}).payload.toNat
    let count := 512 / a.width * ts.length
    let wide := max 1 (b.width / a.width)
    (a.width ∣ 32 → b.width ∣ 32 → ∃ t toks, exec .feCvt s = goes t ∧
      t = (u.graphFlags n (raised (fun j => cvtLane (u.penv p j) a b (lane a.width j)) count)).emit n toks ∧ toks.length = wide ∧
      ∀ m tok, toks[m]? = some tok → LaneToken tok b.width (if a.width = b.width then validWords ts else 16) last (fun e =>
        if m * (512 / b.width) + e < count then
          (cvtLane (u.penv p (m * (512 / b.width) + e)) a b (lane a.width (m * (512 / b.width) + e))).bits else 0)) ∧
    (∀ f g, ts.length = 1 → a = .flt f → b = .flt g → f.width ∣ 32 → ∃ t tok, exec .feSround s = goes t ∧
      LaneToken tok f.width (validWords ts) last (fun e =>
        (f.convert {} (g.decode (g.deliver (u.penv p e) (f.read (u.penv p e).ftz (lane f.width e))).bits)).bits) ∧
      t = (u.graphFlags n (raised (fun e => g.deliver (u.penv p e) (f.read (u.penv p e).ftz (lane f.width e))) (512 / f.width))).emit n [tok]) ∧
    (let bs := u.groupBlocks p ts
     bs.length ≤ 16 → ∃ t tok, exec .feQmax s = goes t ∧ t = u.emit n [tok] ∧ LaneToken tok 32 (if bs.length = 0 then 16 else bs.length) last (fun k =>
       match bs[k]? with
       | some xs => if xs.any FVal.isNan then 0x7FC00000 else (fp32.convert {} (finiteMax xs)).bits + (if xs.any FVal.isInf then 2 ^ 31 else 0)
       | none => 0)) ∧
    (let unusable : Prop := p.fout = 0x14 ∧ tensorScaleOk (fp32.decode p.imm) = false
     let mx := (ts.getD 0 {}).payload.toNat
     let qs := (u.groupBlocks p (ts.drop 1)).zipIdx.map (fun x => u.quantBlock p (elemOf 32 x.2 mx) x.2 x.1)
     let w := codeBits p.fout
     let codes := (qs.map (·.codes)).flatten
     let inf := qs.any (·.inf)
     (unusable → exec .feQcvt s = goes (u.graphFault n Cause.qntScale 2 (BitVec.ofNat 64 n) 0 0)) ∧
     (¬ unusable → ∃ v tok, v = (u.graphFlags n ((if qs.any (·.nan) then 32 else 0) + (if inf then 64 else 0))).emit n [tok] ∧
       tok.payload = BitVec.ofNat 512 (packElems w codes + (qs.zipIdx.map (fun q => q.1.scale * 2 ^ (504 - 8 * q.2))).sum) ∧
       tok.kind = 0 ∧ tok.last = last ∧ tok.vcnt = (codes.length * w + 31) / 32 % 16 ∧
       exec .feQcvt s = goes (if inf = true ∧ p.depth % 2 = 1 then v.graphFault n Cause.qntInf 2 (BitVec.ofNat 64 n) 0 0 else v))) ∧
    (∀ f, codeFloat p.fout = some f → f.width ∣ 32 → ts.length = 1 →
      let x := (ts.getD 0 {}).payload.toNat
      let w := codeBits p.fin
      let words := if (ts.getD 0 {}).vcnt = 0 then 16 else (ts.getD 0 {}).vcnt
      let total := if p.fin = 0x14 then min 32 (8 * words) else 32
      let here (m : Nat) : Nat := min (512 / f.width) (total - m * (512 / f.width))
      let scale (k : Nat) : Nat := x / 2 ^ (504 - 8 * k) % 256
      let res (e : Nat) : FRes := f.deliver (u.penv p e)
        (if p.fin = 0x14 then sx4Value (fp32.decode p.imm) (scale (e / 8)) (elemOf w e x) else bxValue p.fin (scale 0) (elemOf w e x))
      ∃ t toks, exec .feDq s = goes t ∧ t = (u.graphFlags n (raised res total)).emit n toks ∧
        toks.length = max 1 ((total + 512 / f.width - 1) / (512 / f.width)) ∧ ∀ m tok, toks[m]? = some tok →
          LaneToken tok f.width ((here m * f.width + 31) / 32) last (fun e => if m * (512 / f.width) + e < total then (res (m * (512 / f.width) + e)).bits else 0))

/-- R287: reductions. A token enters the accumulators: integer lanes in their format, wrapping; float lanes widened to FP32, one
rounding a token. A segment that ends, at its depth-th token or at last, emits the accumulators, rounded once to the lanes'
format, with the last bit of its end, and starts anew; acc emits after every token; a folded sum of integer lanes stands in lane 0
alone. scan: lane e has the sum of lanes 0..e. -/
def ReductionResults : Prop :=
  ∀ (s s1 : State) (t : Token), Fires s s1 [t] → (s1.site s.act.site).outFree = true → t.kind = 0 →
    let n := s.act.site
    let u := fired s1 n
    let p := (s1.site n).plane
    let y := (s1.site n).elem
    let l := laneOf false p.fin
    let w := l.width
    let words := if t.vcnt = 0 then 16 else t.vcnt
    let env : FEnv := { (u.penv p 0) with rm := 0 }
    let widen (e : Nat) : Nat := match l with
      | .flt f => (fp32.deliver env (f.read env.ftz (elemOf w e t.payload.toNat))).bits
      | .int _ _ => elemOf w e t.payload.toNat
    let narrow (e a : Nat) : Nat := match l with
      | .flt f => (f.deliver (u.penv p e) (fp32.decode a)).bits
      | .int _ _ => a
    let step (fl : FEnv → FVal → FVal → FRes) (it : Nat → Nat → Nat) (a b : Nat) : Nat := match l with
      | .flt _ => (fl env (fp32.decode a) (fp32.decode b)).bits
      | .int _ _ => it a b % 2 ^ w
    let ends : Prop := t.last = true ∨ p.depth ≠ 0 ∧ p.depth ≤ y.cnt + 1
    (w ∣ 32 → 8 ≤ w → y.poison = none → (y.acc = [] ∨ y.acc.length = 512 / w) →
      ∀ i always fl it, (i, always, fl, it) ∈ ([(.feRsum, false, fun v a b => fp32.fadd v a b, fun a b => a + b),
          (.feAcc, true, fun v a b => fp32.fadd v a b, fun a b => a + b),
          (.feRmax, false, fun v a b => fp32.fpick v FVal.greater a b, fun a b => if signedOf w a < signedOf w b then b else a),
          (.feRmin, false, fun v a b => fp32.fpick v FVal.lesser a b, fun a b => if signedOf w a < signedOf w b then a else b)]
          : List (Instr × Bool × (FEnv → FVal → FVal → FRes) × (Nat → Nat → Nat))) →
        let acc (e : Nat) : Nat := if y.acc = [] then widen e else step fl it (y.acc.getD e 0) (widen e)
        let full : Elem := { y with acc := (List.range (512 / w)).map acc, cnt := y.cnt + 1, words := max y.words words }
        let empty : Elem := { y with acc := [], cnt := 0, poison := none, words := 0 }
        (¬ ends → always = false → ∃ v, exec i s = goes v ∧ v.site n = { u.site n with elem := full }) ∧
        (always = true ∨ (ends ∧ p.imm % 2 = 0) → ∃ v tok, exec i s = goes v ∧
          LaneToken tok w (max y.words words) t.last (fun e => narrow e (acc e)) ∧
          (ends → v.site n = { (u.site n).emit [tok] with elem := empty }) ∧ (¬ ends → v.site n = { (u.site n).emit [tok] with elem := full })) ∧
        (ends → p.imm % 2 = 1 → i = .feRsum → (∀ f, l ≠ .flt f) → ∃ v tok, exec i s = goes v ∧ v.site n = { (u.site n).emit [tok] with elem := empty } ∧
          LaneToken tok w 16 t.last (fun e => if e = 0 then ((List.range (512 / w)).map acc).sum % 2 ^ w else 0))) ∧
    (w ∣ 32 → ∃ v tok, exec .feScan s = goes v ∧ v.site n = (u.site n).emit [tok] ∧ LaneToken tok w words t.last (fun e => narrow e
      ((List.range e).foldl (fun a k => step (fun v a b => fp32.fadd v a b) (fun a b => a + b) a (widen (k + 1))) (widen 0))))

end Sys2Proof.Claims

/-- R275, R277, R279..R285: the element operations that work lane by lane, the tokens that they refuse or pass on, and the
sequence of an element's reads. The valid words of a result and code 0x00 are the model's readings (log entries 20, 21 and 41). -/
def Obligations.ElementLaneResults : Prop := LaneResults ∧ PoisonAndSparse ∧ ReadSequence

/-- R286, R287, R295..R297: the element operations that convert, quantise and reduce. The order of unsigned lanes in
rmax and rmin and the valid words of a result are the model's readings (log entries 21 and 26). -/
def Obligations.ElementConversionResults : Prop := ConversionResults ∧ ReductionResults

namespace Sys2Proof.Claims

/-- R288..R290: the structure operations. bcast, shuf, pack, unpack, hash make tokens of lanes; delay passes its token while its
buffer has room; cturn holds a part of a square, gives the whole one with rows and
columns exchanged, and reads nothing while it is emitted; repl, zip and split
pass tokens with their last bits; sink counts. -/
def StructureResults : Prop :=
  ∀ (s s1 : State) (ts : List Token), Fires s s1 ts → (∀ t ∈ ts, t.kind = 0) →
    let n := s.act.site
    let u := fired s1 n
    let p := (s1.site n).plane
    let last := ts.any (·.last)
    let t0 := ts.getD 0 {}
    let l := laneOf false p.fin
    let w := l.width
    let k := 512 / w
    let a (e : Nat) : Nat := elemOf w e t0.payload.toNat
    let b (e : Nat) : Nat := elemOf w e (ts.getD 1 {}).payload.toNat
    let free : Prop := (s1.site n).outFree = true
    let one (i : Instr) (w words : Nat) (res : Nat → Nat) : Prop := ∃ t tok, exec i s = goes t ∧ t = u.emit n [tok] ∧ LaneToken tok w words last res
    (free → w ∣ 32 → p.imm % 64 < k → one .feBcast w 16 (fun _ => a (p.imm % 64))) ∧
    (free → w ∣ 32 →
      (p.imm % 8 = 0 → one .feShuf w 16 (fun e => if e % 2 = 0 then a (e / 2) else b (e / 2))) ∧
      (p.imm % 8 = 1 → one .feShuf w 16 (fun e => if e % 2 = 0 then a (k / 2 + e / 2) else b (k / 2 + e / 2))) ∧
      (p.imm % 8 = 2 → one .feShuf w 16 (fun e => if e < k / 2 then a (2 * e) else b (2 * (e - k / 2)))) ∧
      (p.imm % 8 = 3 → one .feShuf w 16 (fun e => if e < k / 2 then a (2 * e + 1) else b (2 * (e - k / 2) + 1))) ∧
      (p.imm % 8 = 4 → one .feShuf w 16 (fun e => a (k - 1 - e))) ∧
      (p.imm % 8 = 5 → one .feShuf 32 16 (fun e => elemOf 32 ((e + 16 - p.imm / 8 % 16) % 16) t0.payload.toNat))) ∧
    (∀ wi wo, free → wi = (laneOf true p.fin).width → wo = (laneOf true p.fout).width → wi ∣ 32 → wo ∣ 32 →
      (wo ≤ wi → ts.length = wi / wo → one .fePack wo 16 (fun j => elemOf wi (j % (512 / wi)) (ts.getD (j / (512 / wi)) {}).payload.toNat % 2 ^ wo)) ∧
      (wi ≤ wo → ts.length = 1 → ∃ t toks, exec .feUnpack s = goes t ∧ t = u.emit n toks ∧ toks.length = wo / wi ∧
        ∀ m tok, toks[m]? = some tok → LaneToken tok wo 16 last (fun e =>
          let x := elemOf wi (m * (512 / wo) + e) t0.payload.toNat
          if p.fin = 0x09 then x else ((BitVec.ofNat wi x).signExtend wo).toNat))) ∧
    ((s1.site n).outCount < max 1 p.depth → exec .feDelay s = goes (u.emit n ts)) ∧
    ((s.site n).outFree = false → exec .feCturn s = goes s) ∧
    (∀ wt, free → wt = (laneOf true p.fin).width → wt = 32 ∨ wt = 16 ∨ wt = 8 →
      let buf := (s1.site n).elem.buf ++ ts
      (buf.length < wt / 2 → exec .feCturn s = goes (u.onSite n (fun x => { x with elem := { x.elem with buf := buf } }))) ∧
      (buf.length = wt / 2 → (∀ t ∈ buf, t.kind = 0) → ts ≠ [] → ∃ t toks, exec .feCturn s = goes t ∧ toks.length = wt / 2 ∧
        t = (u.onSite n (fun x => { x with elem := { x.elem with buf := [] } })).emit n toks ∧
        ∀ r c, r < 16 → c < 16 →
          elemOf wt (16 * (r % (32 / wt)) + c) (toks.getD (r / (32 / wt)) {}).payload.toNat =
          elemOf wt (16 * (c % (32 / wt)) + r) (buf.getD (c / (32 / wt)) {}).payload.toNat)) ∧
    (free → ts.length = 1 → 1 ≤ p.depth →
      exec .feRepl s = goes (u.emit n (List.replicate (p.depth - 1) { t0 with last := false } ++ [t0]))) ∧
    (free → ts.length = 2 → exec .feZip s = goes (u.emit n (ts.map (fun t => { t with last := last })))) ∧
    (free → ts.length = 1 →
      let y := (s1.site n).elem
      let pass : Bool := y.cnt % 2 == p.imm % 2
      ∃ v, exec .feSplit s = goes v ∧ v.site n =
        { (u.site n).emit (y.buf.map (fun h => { h with last := h.last || t0.last }) ++ (if pass && t0.last then [t0] else [])) with
          elem := { y with cnt := if t0.last then 0 else y.cnt + 1, buf := if pass && !t0.last then [t0] else [] } }) ∧
    (free → ts.length = 1 → one .feHash 32 (validWords ts) (fun e =>
      let x := BitVec.ofNat 32 (elemOf 32 e t0.payload.toNat) ^^^ BitVec.ofNat 32 p.imm
      let x := (x ^^^ (x >>> 16)) * 0x7FEB352D
      let x := (x ^^^ (x >>> 15)) * 0x846CA68B
      (x ^^^ (x >>> 16)).toNat)) ∧
    (∃ v, exec .feSink s = goes v ∧ v.site n = u.site n ∧ v.mem = u.mem ∧ ∀ g, mfind u.launch.live ((u.site n).launch.getD 0) = some g →
      g.status.toNat / 2 ^ 32 + ts.length < 2 ^ 32 → ∃ h, mfind v.launch.live ((u.site n).launch.getD 0) = some h ∧
        h.status = g.status + BitVec.ofNat 64 (2 ^ 32 * ts.length))

/-- R288, R290, R424: sources. While invocations remain, iota, const and src emit the next token, last on the depth-th of an
invocation; after ninv invocations they emit EOR and their round ends; at an invocation's end a drain stops them. -/
def SourceResults : Prop :=
  ∀ (s : State),
    let n := s.act.site
    let x := s.site n
    let p := x.plane
    let ninv := p.bits 143 128
    x.acts = true → x.outFree = true →
      (∀ i ∈ [Instr.feIota, .feConst, .feSrc], ninv ≤ x.elem.inv →
        exec i s = goes ((s.emit n [{ kind := 2 }]).onSite n (fun x => { x with ending := true }))) ∧
      (∀ i ∈ [Instr.feIota, .feConst, .feSrc], x.elem.inv < ninv → s.draining n = true → x.elem.cnt = 0 →
        exec i s = goes ((s.emit n [{ kind := 5 }]).onSite n (fun x => { x with drained := true }))) ∧
      (x.elem.inv < ninv → ¬ (s.draining n = true ∧ x.elem.cnt = 0) →
        let final : Bool := x.elem.cnt + 1 == p.depth
        let next : Elem := { x.elem with cnt := if final then 0 else x.elem.cnt + 1, inv := if final then x.elem.inv + 1 else x.elem.inv }
        let one (i : Instr) (w : Nat) (res : Nat → Nat) : Prop := w ∣ 32 → ∃ v tok, exec i s = goes v ∧
          v.site n = { x.emit [tok] with elem := next } ∧ LaneToken tok w 16 final res ∧ v.mem = s.mem
        (∀ w, w = (laneOf true p.fout).width → one .feIota w (fun i => p.imm + (x.elem.inv * p.depth + x.elem.cnt) * (512 / w) + i)) ∧
        (∀ w, w = codeBits p.fout → one .feConst w (fun _ => p.imm)) ∧
        ((∀ k ∈ p.argIndexes, mfind x.elem.args k ≠ none) → one .feSrc 32 (fun e =>
          elemOf 32 (e % 2) (mget 0 x.elem.args (p.imm % 65536 + 8 * x.elem.cnt + e / 2)).toNat)))

/-- R304..R306: sync passes a token; fence passes one and, after every k-th token with last, emits a FENCE of its scope; cmpk passes
equal tokens and faults, or emits POISON, on different ones. -/
def SynchronisingResults : Prop :=
  ∀ (s s1 : State) (ts : List Token), Fires s s1 ts → (s1.site s.act.site).outFree = true → (∀ t ∈ ts, t.kind = 0) →
    let n := s.act.site
    let u := fired s1 n
    let p := (s1.site n).plane
    let last := ts.any (·.last)
    exec .feSync s = goes (u.emit n ts) ∧
    (let c := (s1.site n).elem.rounds + (if last then 1 else 0)
     ∃ v, exec .feFence s = goes v ∧ v.site n = { (u.site n).emit (ts ++ (if last = true ∧ c % max 1 (p.imm % 65536) = 0 then
       [{ payload := BitVec.ofNat 512 (p.bits 163 162), kind := 4 }] else [])) with elem := { (s1.site n).elem with rounds := c } }) ∧
    (∀ a b, ts = [a, b] → (a = b → exec .feCmpk s = goes (u.emit n [a])) ∧
      (a ≠ b → p.bits 23 23 = 0 → exec .feCmpk s = goes (u.graphFault n Cause.cmpkMismatch 2 (BitVec.ofNat 64 n) 0 0)) ∧
      (a ≠ b → p.bits 23 23 = 1 → ∃ tok, exec .feCmpk s = goes (u.emit n [tok]) ∧ tok.kind = 6 ∧ tok.last = last ∧
        (n < 8192 → tok.payload.toNat % 512 = Cause.cmpkMismatch ∧ tok.payload.toNat / 2 ^ 32 = n)))

/-- R299..R301: the escape operator. A token that it has read takes the next ticket and its payload words enter the herd's escape
queue; an eligible ticket's token is emitted; a reply in flight takes its ticket's place, and a stale one posts ESC_STALE. -/
def EscapeResults : Prop :=
  ∀ (s : State) (t : Token) (r : EscReply),
    let n := s.act.site
    let x := s.site n
    (x.acts = true → x.taken = [t] → x.plane.reads.length = 1 → x.elem.tickets = [] → t.kind = 0 → (mfind x.elem.args (x.plane.imm / 65536)).isSome = true →
      x.plane.imm % 256 = 0 → (s.herd (s.escHerd n)).escq.length < 256 → ∃ v, exec .feEsc s = goes v ∧
      (v.site n).taken = [] ∧ (v.site n).elem.tickets = [{ num := x.elem.nextTicket, last := t.last }] ∧ (v.site n).elem.nextTicket = x.elem.nextTicket + 1 ∧
      (v.herd (s.escHerd n)).escq = (s.herd (s.escHerd n)).escq ++ [(n, x.elem.nextTicket % 65536, s.launchOf n,
        (List.range (x.plane.bits 167 165 + 1)).map (fun k => { val := BitVec.ofNat 64 (elemOf 64 k t.payload.toNat), tag := false }))]) ∧
    (x.acts = true → x.taken = [] → x.outFree = true → x.plane.bits 164 164 = 0 → ∀ k rest tok, x.elem.tickets = k :: rest → k.tok = some tok →
      (∀ j ∈ k :: rest, j.waiting = none) → x.ports = [] → exec .feEsc s = goes ((s.onTickets n (fun l => l.filter (fun j => j.num != k.num))).emit n [tok])) ∧
    (s.fabric.replies = [r] → s.arg 0 = 0 → r.cause = 0 →
      let y := s.site r.site
      (∀ k, y.launch = some r.launch → y.elem.tickets = [k] → k.num % 65536 = r.ticket → k.tok = none → ∃ v tok, exec .escReplyArrival s = goes v ∧
        v.fabric.replies = [] ∧ (v.site r.site).elem.tickets = [{ k with tok := some tok, arrival := y.elem.arrivals }] ∧ tok.kind = 0 ∧ tok.last = k.last ∧
        tok.vcnt = 2 * r.words.length % 16 ∧ tok.payload = BitVec.ofNat 512 (packElems 64 (r.words.map (·.toNat)))) ∧
      (y.launch ≠ some r.launch → ∃ v, exec .escReplyArrival s = goes v ∧ v.fabric.replies = [] ∧ v.mem = s.mem ∧
        (r.evq.getLsbD 8 = true → v.herds = (s.postEvent 4 (r.evq.toNat % 256)
          [BitVec.ofNat 64 (0x0030 + 2 ^ 32 * (r.handle % 2 ^ 32)), BitVec.ofNat 64 r.ticket, 0, 0]).herds)))

/-- R280, R281, R308, R309: a marker of one kind at every port that the element reads is taken from each and one goes on; an EOR
ends the round, a DRAIN stops the element; markers of different kinds fault with PORT_ORDER, or at a comparator with
CMPK_MISMATCH (R306). A plane change to a loaded slot whose
check byte is right takes effect with the element's state cleared, and to another waits. -/
def MarkerResults : Prop :=
  ∀ (s : State) (p : Nat) (t : PortTok),
    let n := s.act.site
    let x := s.site n
    (x.acts = true → x.outFree = true → x.taken = [] → x.op ∈ [0x01, 0x02, 0x20, 0x54, 0x62, 0x66] → x.plane.reads = [p] → mfind x.ports p = some t →
      t.todo.contains 6 = true →
      (t.tok.kind = 2 → exec .markerFiring s = goes ((((s.onSite n (fun x => x.took p 6)).noteFire n).emit n [{ kind := 2 }]).onSite n (fun x => { x with ending := true }))) ∧
      (t.tok.kind = 3 → exec .markerFiring s = goes (((s.onSite n (fun x => x.took p 6)).noteFire n).emit n [{ kind := 3 }])) ∧
      (t.tok.kind = 4 → exec .markerFiring s = goes (((s.onSite n (fun x => x.took p 6)).noteFire n).emit n
        [{ kind := 4, payload := BitVec.ofNat 512 (t.tok.payload.toNat % 4) }])) ∧
      (t.tok.kind = 5 → exec .markerFiring s = goes ((((s.onSite n (fun x => x.took p 6)).noteFire n).emit n [{ kind := 5 }]).onSite n (fun x => { x with drained := true })))) ∧
    (∀ q t', x.acts = true → x.outFree = true → x.taken = [] → x.plane.reads = [p, q] → p ≠ q → mfind x.ports p = some t → mfind x.ports q = some t' →
      t.todo.contains 6 = true → t'.todo.contains 6 = true → 2 ≤ t.tok.kind → t.tok.kind ≤ 5 → t'.tok.kind ≠ t.tok.kind → t'.tok.kind < 7 →
      (x.op ≠ 0x63 →
        exec .markerFiring s = goes (s.graphFault n Cause.portOrder 2 (BitVec.ofNat 64 n) (BitVec.ofNat 64 (1 + 8 * q + 32 * t'.tok.kind)) 0)) ∧
      (x.op = 0x63 → x.plane.bits 23 23 = 0 → exec .markerFiring s =
        goes ((s.onSite n (fun x => (x.took p 6).took q 6)).graphFault n Cause.cmpkMismatch 2 (BitVec.ofNat 64 n) 0 0))) ∧
    (∀ k, x.change = some k → x.stopped = false →
      let plane : PlaneSlot := mget {} x.slots k
      (plane.loaded = false ∨ planeOk plane.word = false → ∃ v, exec .planeChange s = goes v ∧ v.site n = x) ∧
      (plane.loaded = true → planeOk plane.word = true → plane.argIndexes = [] → ∃ v, exec .planeChange s = goes v ∧ (v.site n).active = k ∧
        (v.site n).change = none ∧ (v.site n).rounds = 0 ∧ (v.site n).elem = {} ∧ (v.site n).seq = plane.seqStart ∧ (v.site n).slots = x.slots ∧ v.mem = s.mem))

/-- R291..R293: the router operators. steer sends a token to op0 or op1 by its control token and rinv, a marker to both; merge takes a
control token and the token of the input that it names, two markers of one kind as one, and faults on a control token that names an
input with a marker while the other holds data; carry takes one token from its entry, then those of the back edge up to last, and
discards the marker that returns. -/
def RouterResults : Prop :=
  ∀ (s : State) (a b : Token) (c : Bool),
    let n := s.act.site
    let x := s.site n
    let ctl : Option Bool := match mfind x.ctl (x.plane.bits 97 96) with
      | some t => if t.2.contains 4 then some t.1 else none
      | none => none
    let taken (y : Site) : Site := y.tookCtl (x.plane.bits 97 96) 4
    x.running = true → x.rstopped = false → x.change = none →
      (x.rin0 = some a → a.marker = false → ctl = some c →
        (c = (x.plane.bits 95 95 == 1) → x.op0 = none → exec .steer s = goes (s.onSite n (fun y => ({ (taken y) with rin0 := none }).putOp0 a))) ∧
        (c ≠ (x.plane.bits 95 95 == 1) → x.op1 = none → exec .steer s = goes (s.onSite n (fun y => ({ (taken y) with rin0 := none }).putOp1 a)))) ∧
      (x.rin0 = some a → a.marker = true → x.op0 = none → x.op1 = none →
        exec .steer s = goes (s.onSite n (fun y => (({ y with rin0 := none }).putOp0 a).putOp1 a))) ∧
      (x.op0 = none →
        (x.rin0 = some a → a.marker = false → ctl = some false → exec .merge s = goes (s.onSite n (fun y => ({ (taken y) with rin0 := none }).putOp0 a))) ∧
        (x.rin1 = some b → b.marker = false → ctl = some true → exec .merge s = goes (s.onSite n (fun y => ({ (taken y) with rin1 := none }).putOp0 b))) ∧
        (x.rin0 = some a → x.rin1 = some b → a.marker = true → b = a →
          exec .merge s = goes (s.onSite n (fun y => ({ y with rin0 := none, rin1 := none }).putOp0 a))) ∧
        (x.rin0 = some a → x.rin1 = some b → a.marker = true → b.marker = false → ctl = some false → ∃ v r, exec .merge s = goes v ∧
          v.fault.waiting = s.fault.waiting ++ [r] ∧ r.cause = Cause.portOrder ∧ r.loc = n ∧ (v.site n).rstopped = true)) ∧
      (x.op0 = none → x.awaitMarker = false →
        (x.atEntry = true → x.rin1 = some b → b.marker = false →
          exec .carry s = goes (s.onSite n (fun y => ({ y with rin1 := none, atEntry := b.last }).putOp0 b))) ∧
        (x.atEntry = true → x.rin1 = some b → b.marker = true →
          exec .carry s = goes (s.onSite n (fun y => ({ y with rin1 := none, awaitMarker := true }).putOp0 b))) ∧
        (x.atEntry = false → x.rin0 = some a → a.marker = false →
          exec .carry s = goes (s.onSite n (fun y => ({ y with rin0 := none, atEntry := a.last }).putOp0 a)))) ∧
      (x.awaitMarker = true → x.rin0 = some a → a.marker = true →
        exec .carry s = goes (s.onSite n (fun y => { y with rin0 := none, awaitMarker := false })))

end Sys2Proof.Claims

namespace Sys2Proof.Claims

/-- R323, R327, R328: the probe of a memory tile and the matrix modes. mt.probe emits for each valid lane of the key token the key, the
value found and whether it was found, with that bit as control token; mx.loadb writes a token's 64 bytes at its place of the weight
buffer and no other byte, one beyond the buffer is not written, and a last off a tile's end or beyond the buffer faults with SHAPE;
mx.mm holds the tokens of A until they are all there and then performs the tile operation; a last at another place, or a marker inside an
invocation, faults with SHAPE, the whole rows being accumulated (log entry 45); mx.drain emits EOR after ninv invocations; mx.msg takes the MXE with a new nonce, writes its capability again after a
restore (log entry 79), and faults on a DATA token. -/
def MatrixModeResults : Prop :=
  ∀ (s s1 : State) (ts : List Token) (t : Token),
    let n := s.act.site
    let e := mxeOfSite n
    let u := fired s1 n
    let p := (s1.site n).plane
    let y := (s1.site n).elem
    (Fires s s1 ts → (s1.site n).outFree = true → (∀ k ∈ ts, k.kind = 0) → p.bits 143 128 = 0 ∨ y.inv < p.bits 143 128 → ∀ s2 found,
      u.probeAll n ((List.range (ts.getD 0 {}).words).map (fun l => (elemOf 32 l (ts.getD 0 {}).payload.toNat, elemOf 32 l (ts.getD 1 {}).payload.toNat)))
        = .ok s2 found → ∃ v toks, exec .mtProbe s = goes v ∧
          (let w := found.foldl (fun s x => s.onSite n (fun z => z.emitCtl x.2.isSome)) (s2.emit n toks)
           v = if (ts.getD 0 {}).last = true ∧ (w.site n).taken = [] then w.onElem n (fun z => { z with inv := z.inv + 1 }) else w) ∧
        toks.length = found.length ∧ ∀ k key hit, found[k]? = some (key, hit) → ∃ tok, toks[k]? = some tok ∧
          LaneToken tok 32 3 ((ts.getD 0 {}).last && decide (k + 1 = found.length))
            (fun l => if l = 0 then key else if l = 1 then hit.getD 0 else if hit.isSome then 1 else 0)) ∧
    (Fires s s1 [t] → t.kind = 0 → (s1.site n).stopped = false →
      (let off := p.imm % 4096 * 1024 + 64 * y.cnt
       p.imm.testBit 12 = false →
        (off + 64 ≤ weightBytes e → t.last = false → s1.memWf → ∃ v, exec .mxLoadb s = goes v ∧ (v.site n).elem.cnt = y.cnt + 1 ∧
          (∀ k, k < 64 → memGet v.mem.bytes (mxeBase e + off + k) = t.payload.extractLsb' (8 * k) 8) ∧
          (∀ a, a < mxeBase e + off ∨ mxeBase e + off + 64 ≤ a → memGet v.mem.bytes a = memGet s1.mem.bytes a)) ∧
        (off + 64 ≤ weightBytes e → t.last = true → (y.cnt + 1) % 16 ≠ 0 → ∃ v r, exec .mxLoadb s = goes v ∧ v.fault.waiting = s1.fault.waiting ++ [r] ∧
          r.cause = Cause.shape ∧ r.tval = BitVec.ofNat 64 n ∧ r.tval2 = BitVec.ofNat 64 (y.cnt + 1)) ∧
        (off + 64 ≤ weightBytes e → t.last = true → (y.cnt + 1) % 16 = 0 → ∃ v, exec .mxLoadb s = goes v ∧ (v.site n).elem.cnt = 0 ∧
          (v.site n).stopped = false) ∧
        (weightBytes e < off + 64 → t.last = false → exec .mxLoadb s = goes (u.onElem n (fun z => { z with cnt := y.cnt + 1 }))) ∧
        (weightBytes e < off + 64 → t.last = true → ∃ v r, exec .mxLoadb s = goes v ∧ v.fault.waiting = s1.fault.waiting ++ [r] ∧
          r.cause = Cause.shape ∧ v.mem = s1.mem)) ∧
      (let fa := p.bits 196 192
       let k := p.bits 127 114
       let perRow := if isBx fa then (k + 31) / 32 else (k * codeBits fa + 511) / 512
       let m := p.imm / 2 ^ 12 % 64 + 1
       let cols := p.imm / 2 ^ 18 % 128 + 1
       let buf := y.buf ++ [t]
       let bank := p.bits 207 207
       let bad (v : State) : State := (v.onElem n (fun z => { z with buf := buf })).graphFault n Cause.shape 2 (BitVec.ofNat 64 n) (BitVec.ofNat 64 buf.length) 0
       p.bits 143 128 = 0 ∨ y.inv < p.bits 143 128 →
       (buf.length < m * perRow → t.last = false → exec .mxMm s = goes (u.onElem n (fun z => { z with buf := buf }))) ∧
       (buf.length < perRow → t.last = true → exec .mxMm s = goes (bad u)) ∧
       (t.last = true ∨ m * perRow ≤ buf.length → 1 ≤ perRow → perRow ≤ buf.length → ∀ s2 b,
         let rows := (List.range (min m (buf.length / perRow))).map (fun i => tokenRow fa k ((buf.drop (i * perRow)).take perRow))
         let o : TileOp := { fa := fa, fb := p.bits 201 197, rows := rows, cols := [] }
         ((u.mxe e).bank bank).cell ∈ [0, o.cell] →
         ∀ s3, u.fetchB e (p.bits 201 197) k cols (p.imm % 4096 * 1024) none = .ok s2 b →
         s2.checkBank .fabric e bank (min m (buf.length / perRow)) cols = .ok s3 () →
         exec .mxMm s = goes (let r := s3.tileOp e bank { o with cols := b }
                              let v := r.1.graphFlags n r.2
                              if t.last = true ∧ m * perRow ≤ buf.length then v.onElem n (fun z => { z with buf := [], inv := z.inv + 1 }) else bad v)))) ∧
    (∀ q m, (s.site n).acts = true → (s.site n).op = 0x91 → (s.site n).taken = [] → (s.site n).elem.buf ≠ [] → (s.site n).plane.reads = [q] →
      mfind (s.site n).ports q = some m → m.todo.contains 6 = true → m.tok.marker = true →
      (s.site n).elem.buf.length < max 1 (s.site n).plane.aTokens → exec .mxMm s = goes
        ((s.onElem n (fun z => { z with buf := z.buf })).graphFault n Cause.shape 2 (BitVec.ofNat 64 n)
          (BitVec.ofNat 64 (s.site n).elem.buf.length) 0)) ∧
    (let x := s.site n
     x.acts = true → x.outFree = true →
      (x.plane.bits 143 128 ≠ 0 → x.plane.bits 143 128 ≤ x.elem.inv →
        exec .mxDrain s = goes ((s.emit n [{ kind := 2 }]).onSite n (fun x => { x with ending := true }))) ∧
      (x.elem.inv < x.plane.bits 143 128 → s.draining n = true →
        exec .mxDrain s = goes ((s.emit n [{ kind := 5 }]).onSite n (fun x => { x with drained := true }))) ∧
      (x.elem.inv < x.plane.bits 143 128 → s.draining n = false →
        let u := (s.noteFire n).mxDrainOnce n
        exec .mxDrain s = goes (if (u.site n).stopped then u else u.onElem n (fun z => { z with inv := z.inv + 1 })))) ∧
    (let x := s.site n
     let g := s.assignMxe e (some (s.launchOf n)) (x.plane.imm % 16) true
     x.acts = true → x.elem.words = 0 → (g.mxe e).owner = some (s.launchOf n) ∧ (g.mxe e).nonce = (s.mxe e).nonce + 1 ∧
      (g.mxe e).rights = x.plane.imm % 16 ∧
      ∀ s2 ps, g.agentCheck (g.graphParty (s.launchOf n)) .write .fabric 0 (((g.liveLaunch (s.launchOf n)).record.getD 6 0).toNat + 8 * (x.plane.imm / 65536)) 8
          = .ok s2 ps → ∃ v, exec .mxMsg s = goes v ∧ (v.site n).elem.words = 1) ∧
    (∀ s2 ps, (s.site n).acts = true → (s.site n).elem.words = 2 → s.agentCheck (s.graphParty (s.launchOf n)) .write .fabric 0
        (((s.liveLaunch (s.launchOf n)).record.getD 6 0).toNat + 8 * ((s.site n).plane.imm / 65536)) 8 = .ok s2 ps →
      ∃ v, exec .mxMsg s = goes v ∧ (v.site n).elem.words = 1 ∧ v.mxe e = s2.mxe e) ∧
    (Fires s s1 [t] → t.kind = 0 → (s.site n).elem.words = 1 → exec .mxMsg s = goes (u.graphFault n Cause.tokenKind 2 (BitVec.ofNat 64 n) 0 0))

end Sys2Proof.Claims

/-- R288..R293, R299..R306, R308, R309, R323, R328: the other element operations, markers and plane changes, the router operators, and
the matrix modes. -/
def Obligations.ElementStructureResults : Prop :=
  StructureResults ∧ SourceResults ∧ SynchronisingResults ∧ EscapeResults ∧ MarkerResults ∧ RouterResults ∧ MatrixModeResults

-- Access sequencers (R311..R324)

namespace Sys2Proof.Claims

/-- The sequencer of the acting site executes a word: it may act, its argument words have been read (R314), and no drain stops it
here (R311, R316). -/
def Sequences (s : State) : Prop :=
  (s.site s.act.site).seqActs = true ∧ (∀ k ∈ (s.site s.act.site).plane.argIndexes, mfind (s.site s.act.site).elem.args k ≠ none) ∧ ¬ ((s.site s.act.site).atBoundary = true ∧ s.seqDrains s.act.site = true)

/-- A word's state v from s: a word that has moved its sequencer on counts as a firing of the site (R294), and one that leaves the
registers as they are has begun and stands there again (R316). -/
def noted (s v : State) : State :=
  let y := (s.site s.act.site).seq
  if (v.site s.act.site).seq = y then v
  else (v.onSeq s.act.site (fun z => { z with begun := z.r == y.r && (y.begun || decide (z ≠ y)) })).noteFire s.act.site

/-- The registers of site n's sequencer replaced by r. -/
def withSeqRegs (s : State) (n : Nat) (r : SeqRegs) : State := s.onSite n (fun x => { x with seq := { x.seq with r := r } })

/-- R311, R314: the words that change registers only: the register takes its value, the other registers and all of the rest stay, and the
next word follows. While an argument word of the plane has not been read, a word reads it first. -/
def RegisterWords : Prop :=
  ∀ (s : State) (b t q : BitVec 2) (a : BitVec 16) (i22 : BitVec 22) (i25 : BitVec 25) (fmt : BitVec 5), Sequences s →
    let n := s.act.site
    let x := s.site n
    let r := x.seq.r
    let gives (i : Instr) (f : SeqRegs → Prop) : Prop := ∃ y, exec i s = goes (noted s (withSeqRegs s n y)) ∧ y.pc = (r.pc + 1) % 64 ∧
      y.n = r.n ∧ y.lim = r.lim ∧ f y
    let bases (y : SeqRegs) (v : Word) : Prop := y.t = r.t ∧ y.ofmt = r.ofmt ∧ y.ifmt = r.ifmt ∧
      ∀ k, mget 0 y.b k = if k = b.toNat then v else mget 0 r.b k
    gives .seqNop (fun y => y.b = r.b ∧ y.t = r.t ∧ y.ofmt = r.ofmt ∧ y.ifmt = r.ifmt) ∧
    gives (.seta b a) (fun y => bases y (mget 0 x.elem.args a.toNat)) ∧
    gives (.addaReg b t) (fun y => bases y (mget 0 r.b b.toNat + mget 0 r.t t.toNat)) ∧
    gives (.addaImm b i22) (fun y => bases y (BitVec.ofInt 64 ((mget 0 r.b b.toNat).toInt + i22.toInt))) ∧
    gives (.sets t i25) (fun y => y.b = r.b ∧ y.ofmt = r.ofmt ∧ y.ifmt = r.ifmt ∧
      ∀ k, mget 0 y.t k = if k = t.toNat then BitVec.ofInt 64 i25.toInt else mget 0 r.t k) ∧
    gives (.setf fmt q) (fun y => y.b = r.b ∧ y.t = r.t ∧ y.ifmt = r.ifmt ∧ ∀ k, mget 0 y.ofmt k = if k = q.toNat then fmt.toNat else mget 0 r.ofmt k) ∧
    gives (.setfIn fmt q) (fun y => y.b = r.b ∧ y.t = r.t ∧ y.ofmt = r.ofmt ∧ ∀ k, mget 0 y.ifmt k = if k = q.toNat then fmt.toNat else mget 0 r.ifmt k)

/-- R314: a word of a sequencer whose argument words have not all been read, since the read waited or its fault is resolved, reads
them before it is executed. -/
def ArgumentReads : Prop :=
  ∀ (s : State) (b k : BitVec 2) (a : BitVec 16) (a24 : BitVec 24), (s.site s.act.site).seqActs = true →
    (∃ j ∈ (s.site s.act.site).plane.argIndexes, mfind (s.site s.act.site).elem.args j = none) →
      ∀ i ∈ [Instr.seqNop, .seta b a, .loopArg k a24, .halt],
        exec i s = goes (s.readArgs s.act.site (s.site s.act.site).plane.argIndexes)

/-- R314, R315: loop and endl. A loop sets its limit and clears its counter, and passes a limit of 0 by; an argument above 2^32 − 1
faults with SEQ_ARG; endl counts and goes back to the loop's first word while the counter is below the limit. One on n0 ends the
invocation: no store is held and no token kept any more, and the snapshot is the registers; it waits while the conversion of a
segment holds one of the stores back (R363). -/
def LoopWords : Prop :=
  ∀ (s : State) (k : BitVec 2) (c a : BitVec 24) (top : BitVec 6), Sequences s →
    let n := s.act.site
    let x := s.site n
    let r := x.seq.r
    let waits : Prop := k = 0 ∧ ∃ st ∈ x.seq.held, s.convertingAt st.pa = true
    let jumps (i : Instr) (y : SeqRegs → Prop) : Prop := (waits → exec i s = goes s) ∧ (¬ waits → ∃ v z, exec i s = goes v ∧ y z ∧
      (k ≠ 0 → v = noted s (withSeqRegs s n z)) ∧
      (k = 0 → v = noted s ((withSeqRegs s n z).commitInvocation n) ∧ (v.site n).seq.held = [] ∧ (v.site n).seq.kept = [] ∧ (v.site n).seq.snap = (v.site n).seq.r))
    let loops (i : Instr) (count : Nat) : Prop := jumps i (fun z => z.b = r.b ∧ z.t = r.t ∧ z.ofmt = r.ofmt ∧ z.ifmt = r.ifmt ∧
      mget 0 z.lim k.toNat = count ∧ mget 0 z.n k.toNat = 0 ∧ (∀ j, j ≠ k.toNat → mget 0 z.lim j = mget 0 r.lim j ∧ mget 0 z.n j = mget 0 r.n j) ∧
      z.pc = (if count = 0 then x.plane.endlOf r.pc + 1 else r.pc + 1) % 64)
    loops (.loopImm k c) c.toNat ∧
    ((mget 0 x.elem.args a.toNat).toNat < 2 ^ 32 → loops (.loopArg k a) (mget 0 x.elem.args a.toNat).toNat) ∧
    (2 ^ 32 ≤ (mget 0 x.elem.args a.toNat).toNat → ∃ v f, exec (.loopArg k a) s = goes v ∧ v.fault.waiting = s.fault.waiting ++ [f] ∧
      f.cause = Cause.seqArg ∧ f.tval = BitVec.ofNat 64 n ∧ f.tval2 = a.setWidth 64 ∧ (v.site n).stopped = true) ∧
    jumps (.endl k top) (fun z => z.b = r.b ∧ z.t = r.t ∧ z.lim = r.lim ∧ z.ofmt = r.ofmt ∧ z.ifmt = r.ifmt ∧
      mget 0 z.n k.toNat = (mget 0 r.n k.toNat + 1) % 2 ^ 32 ∧ (∀ j, j ≠ k.toNat → mget 0 z.n j = mget 0 r.n j) ∧
      z.pc = (if (mget 0 r.n k.toNat + 1) % 2 ^ 32 < mget 0 r.lim k.toNat then top.toNat + 1 else r.pc + 1) % 64)

/-- R312, R314, R315, R317: emits. emit.ld reads 2^sz bytes at bX + off·2^sz and appends them to the output queue; emit.st takes as many
from the input queue and holds the store, and waits with those it has while some are missing; a load sees the held stores; emit.gth and emit.sct do so for each valid lane of an index token; a fault of the access is
reported; the 257th held store faults with INVOC_STORES; a lane of emit.sct that waits for bytes or meets a FENCE token (R318) is tried again. -/
def EmitWords : Prop :=
  ∀ (s : State) (b q iq : BitVec 2) (sz sh : BitVec 3) (off : BitVec 16), Sequences s →
    let n := s.act.site
    let r := (s.site n).seq.r
    let ea : Word := BitVec.ofInt 64 ((mget 0 r.b b.toNat).toInt + off.toInt * 2 ^ sz.toNat)
    let size := 2 ^ sz.toNat
    let stepped (v : State) : State :=
      (v.onSite n (fun x => { x with seq := { x.seq with r := { x.seq.r with pc := (x.seq.r.pc + 1) % 64 }, begun := false } })).noteFire n
    (mget 0 (s.site n).seq.skipNow q.toNat = 0 →
      (∀ s1 pa, s.seqAddr n false ea size = .ok s1 pa →
        let v := s1.append n q.toNat (heldBytes (s1.site n).seq.held pa (s1.homeBytes [(pa, size)]))
        (v.site n).stopped = false → v.agenda = s.agenda → exec (.emitLd b q sz off) s = goes (stepped v)) ∧
      (∀ s1 c va w, s.seqAddr n false ea size = .fault s1 c va w → s1.agenda = s.agenda → ∃ v, exec (.emitLd b q sz off) s = goes v ∧
        (0, Turn.event 0 0 n [c, va.toNat] .generatorFault) ∈ v.agenda) ∧
      (s.seqAddr n false ea size = .wait → exec (.emitLd b q sz off) s = goes s)) ∧
    (let t := s.takeData n q.toNat size
     (t.whole = false → exec (.emitSt b q sz off) s = goes (noted s t.s)) ∧
     (t.whole = true →
      (t.poison = true → exec (.emitSt b q sz off) s = goes (stepped t.s)) ∧
      (t.poison = false → (∀ s1 pa, t.s.seqAddr n true ea t.bytes.length = .ok s1 pa → s1.agenda = s.agenda → (s1.site n).stopped = false →
        ((s1.site n).seq.held.length < 256 → ∃ v st, exec (.emitSt b q sz off) s = goes (stepped v) ∧
          v = s1.onSeq n (fun y => { y with held := y.held ++ [st] }) ∧ st.va = ea.toNat ∧ st.pa = pa ∧ st.bytes = t.bytes) ∧
        (256 ≤ (s1.site n).seq.held.length → ∃ v f, exec (.emitSt b q sz off) s = goes v ∧ v.fault.waiting = s1.fault.waiting ++ [f] ∧
          f.cause = Cause.invocStores ∧ f.tval = BitVec.ofNat 64 n))))) ∧
    (∀ l v, (s.site n).seq.lanes = some [l] →
      s.seqLoad n q.toNat (mget 0 r.b b.toNat + ((BitVec.ofNat 32 l).signExtend 64 <<< sh.toNat)) size = some v → (v.site n).stopped = false → v.agenda = s.agenda →
      exec (.emitGth b iq sz q sh) s = goes (stepped (v.onSeq n (fun y => { y with lanes := none })))) ∧
    (∀ l t, (s.site n).seq.lanes = some [l] → t = s.takeData n q.toNat size → t.whole = true → t.poison = false → ∀ s1 pa,
      t.s.seqAddr n true (mget 0 r.b b.toNat + ((BitVec.ofNat 32 l).signExtend 64 <<< sh.toNat)) t.bytes.length = .ok s1 pa →
      (s1.site n).seq.held.length < 256 → (s1.site n).stopped = false → s1.agenda = s.agenda →
      ∃ v st, exec (.emitSct b iq sz q sh) s = goes (stepped v) ∧
        v = (s1.onSeq n (fun y => { y with held := y.held ++ [st] })).onSeq n (fun y => { y with lanes := none }) ∧ st.pa = pa ∧ st.bytes = t.bytes) ∧
    (∀ l ls t, (s.site n).seq.lanes = some (l :: ls) → t = s.takeData n q.toNat size → t.whole = false → (t.s.site n).stopped = false →
      t.s.agenda = s.agenda → exec (.emitSct b iq sz q sh) s = goes (noted s (t.s.onSeq n (fun y => { y with lanes := some (l :: ls) }))))

/-- R313, R314, R318, R319: the control words. brc takes the next branch outcome and transfers when it equals pol, and waits for one; waitc
takes a control token from its link; signal sends one; fence holds later words until it retires; eor closes the named queues and places one
EOR; sync goes on once every sequencer of its group has come to it, and a replayed one that had passed does not wait again; halt with no input port ends the round. FENCE_RETIRE ends a fence and
forwards a FENCE token; GENERATOR_FAULT, of a cause that an access of a generator can have (R330), stops the sequencer, discards its held stores and reports the iteration vector. -/
def ControlWords : Prop :=
  ∀ (s : State) (pol v : Bool) (top : BitVec 6) (link level sc : BitVec 2) (qmask : BitVec 4),
    let n := s.act.site
    let x := s.site n
    let y := x.seq
    let mayRaise (c : Nat) : Prop := (64 ≤ c ∧ c < 128 ∧ c % 8 = 7) ∨ c = Cause.hallmarkUncorrectable
    (Sequences s →
      (y.brq = [] → exec (.brc pol top) s = goes (s.onSeq n (fun y => y))) ∧
      (∀ o rest, y.brq = o :: rest → exec (.brc pol top) s = 
        goes (noted s (s.onSeq n (fun y => { y with
          brq := rest, brKept := y.brKept ++ [o], r := { y.r with pc := if o = pol then top.toNat % 64 else (y.r.pc + 1) % 64 } })))) ∧
      (y.skipCtls ≤ y.ctls →
        (mfind x.ctl link.toNat = none → exec (.waitc link) s = goes s) ∧
        (mfind x.ctl link.toNat ≠ none → ∃ t, exec (.waitc link) s = goes t ∧ t.site n = { x with
          ctl := x.ctl.filter (fun e => e.1 != link.toNat)
          seq := { y with r := { y.r with pc := (y.r.pc + 1) % 64 }, ctls := y.ctls + 1, begun := false } }) ∧
        (∀ s1, s.sendCtl n link.toNat v = some s1 → exec (.signal link v) s =
          goes ((s1.onSeq n (fun y => { y with r := { y.r with pc := (y.r.pc + 1) % 64 }, ctls := y.ctls + 1, begun := false })).noteFire n)) ∧
        (s.sendCtl n link.toNat v = none → exec (.signal link v) s = goes s)) ∧
      exec .seqFence s = goes ((s.onSeq n (fun y => { y with r := { y.r with pc := (y.r.pc + 1) % 64 }, fence := some (2, false), begun := false })).noteFire n) ∧
      (x.op ≠ 0x82 → (∀ q, q < 4 → mget [] y.oq q = []) → y.skipEors ≤ y.eors → exec (.eor qmask) s =
        goes (((s.emit n [{ kind := 2 }]).onSeq n (fun y => { y with r := { y.r with pc := (y.r.pc + 1) % 64 }, eors := y.eors + 1, eored := true, begun := false })).noteFire n)) ∧
      (y.passed = true ∨ y.ctls < y.skipCtls → exec (.seqSync level sc) s =
        goes (((s.acceptAll sc.toNat).onSeq n (fun y => { y with
          r := { y.r with pc := (y.r.pc + 1) % 64 }, atSync := none, passed := false, ctls := y.ctls + 1, begun := false })).noteFire n)) ∧
      (y.counted = true → x.plane.reads = [] → exec .halt s = goes (noted s (s.onSite n (fun x => { x with
        ending := true, seq := { x.seq with counted := false, eored := false } })))) ∧
      (y.passed = false → y.skipCtls ≤ y.ctls → (∃ m ∈ s.syncGroup n level.toNat, m ≠ n ∧ (s.site m).seq.atSync ≠ some level.toNat) →
        exec (.seqSync level sc) s = goes (noted s (s.onSeq n (fun y => { y with atSync := some level.toNat })))) ∧
      (y.counted = false → x.plane.reads = [] → y.held = [] → ∃ t, exec .halt s = goes t ∧ (t.site n).ending = true ∧ (t.site n).seq.held = [] ∧
        (t.site n).commits = ((s.commitInvocation n).site n).commits + 1)) ∧
    (∀ scope token, y.fence = some (scope, token) → x.stopped = false → (token = true → x.outFree = true) → ∃ t, exec .fenceRetire s = goes t ∧
      (t.site n).seq.fence = none ∧ t = (let w := (s.acceptAll scope).onSeq n (fun y => { y with fence := none })
        if token then w.emit n [{ payload := BitVec.ofNat 512 scope, kind := 4 }] else w)) ∧
    (x.running = true → y.mode = .run → mayRaise (s.arg 0) → ∃ t f, exec .generatorFault s = goes t ∧ t.fault.waiting = s.fault.waiting ++ [f] ∧
      f.cause = s.arg 0 ∧ f.tval = BitVec.ofNat 64 (s.arg 1) ∧ f.tval2 = y.r.vector ∧ (t.site n).stopped = true ∧ (t.site n).seq.held = [] ∧ (t.site n).seq.mode = .faulted) ∧
    (¬ mayRaise (s.arg 0) → exec .generatorFault s = goes s)

end Sys2Proof.Claims

/-- R311..R319: the sequencer's words and its events. That halt waits for a token at every named port is the model's reading (log
entry 28). -/
def Obligations.SequencerWordResults : Prop := RegisterWords ∧ ArgumentReads ∧ LoopWords ∧ EmitWords ∧ ControlWords
-- Device events: contexts and the memory system (R38, R42, R54, R171, R172, R224, R336, R362, R367)

namespace Sys2Proof.Claims

/-- Checks 4 and 6 to 10 of R54 on the words of the block of context k of core n, with the outcome o: each failing one enters the
handler with s.tblk the block's address, and a block that passes starts with the committed registers. -/
def Admits (o : Out) (v : State) (n k : Nat) (all : List (BitVec 32)) : Prop :=
  let c := v.ctxOf n k
  let trap (cause tidx : Nat) (tval : Word) : Out :=
    goes (v.takeTrap n k { cause := cause, tblk := c.addr, tidx := tidx, tval := tval, tval2 := 0 })
  let w0 := all.getD 0 0
  let m32 := (v.core n).pmode
  let user : Bool := w0.getLsbD 16 && !c.super
  let mode : Bool := if m32 then w0.getLsbD 14 else w0.getLsbD 15
  (user = true → o = trap Cause.privBlock 0 (w0.setWidth 64)) ∧
  (user = false → mode = false → o = trap Cause.blkMode 0 (w0.setWidth 64)) ∧
  (user = false → mode = true →
    (∀ cause pos, blockCheck all m32 = some (cause, pos) → o = trap cause pos ((all.getD pos 0).setWidth 64)) ∧
    (blockCheck all m32 = none → o = goes (v.setCtx n k { c with
      phase := .body, words := all, pos := 0, cur := 0, exit := none, parked := false, work := c.arch, snap := none
      split := false, aDone := false })))

/-- R54, R55, R145, R409: BLOCK_FETCH of a live context that is to fetch. Held window writes take effect and a timer at zero raises
its event; then a pending state fault, a QNT_INF, a switch-out request and the timer interrupt with ie = 1 come first, in this order;
otherwise the words are fetched and the checks made in order, each failing one entering the handler with s.tblk the block's address.
A fetch that has to wait for an engine changes nothing else (R350), and a gang member other than its leader takes the leader's words
(R192). -/
def BlockFetch : Prop :=
  ∀ (s : State), s.me.live = true → s.me.phase = .fetch →
    let n := s.act.core
    let k := s.act.ctx
    let b := (s.applyWindow n k).onCtx n k (fun c => c.raise s.time)
    let c := b.ctxOf n k
    let trap (u : State) (cause tidx : Nat) (tval : Word) : Out :=
      goes (u.takeTrap n k { cause := cause, tblk := (u.ctxOf n k).addr, tidx := tidx, tval := tval, tval2 := 0 })
    (∀ f, c.pendFault = some f → exec .blockFetch s = goes ((b.setCtx n k { c with pendFault := none }).takeTrap n k
      { cause := f.cause, tblk := c.addr, tidx := f.tidx, tval := f.tval, tval2 := f.tval2 })) ∧
    (∀ f, c.pendFault = none → c.qntInf = some f → exec .blockFetch s = goes ((b.setCtx n k { c with qntInf := none }).takeTrap n k
      { cause := f.cause, tblk := c.addr, tidx := f.tidx, tval := f.tval, tval2 := f.tval2 })) ∧
    (c.pendFault = none → c.qntInf = none →
      (c.switchReq = true → exec .blockFetch s = goes b) ∧
      (c.switchReq = false → c.timerEvent = true → c.ie = true → exec .blockFetch s =
        goes ((b.setCtx n k { c with timerEvent := false }).takeTrap n k
          { cause := Cause.intTimer, tblk := c.addr, tidx := 0, tval := 0, tval2 := 0 })) ∧
      (c.switchReq = false → ¬ (c.timerEvent = true ∧ c.ie = true) →
        let l := b.ctxOf (b.leaderOf n k).1 (b.leaderOf n k).2
        (b.leaderOf n k ≠ (n, k) → l.phase = .body → l.pos = 0 → l.addr = b.me.addr → Admits (exec .blockFetch s) b n k l.words) ∧
        (¬ (b.leaderOf n k ≠ (n, k) ∧ l.phase = .body ∧ l.pos = 0 ∧ l.addr = b.me.addr) →
          let p : Party := { ptb := (c.sr 0x060).toNat, asid := (c.sr 0x061).toNat, super := c.super, core := n, ctx := k }
          (c.addr.toNat % 8 ≠ 0 → ∃ w : BitVec 32, exec .blockFetch s = trap b Cause.blkTarget 0 (w.setWidth 64)) ∧
          (c.addr.toNat % 8 = 0 →
            (b.fetchAt p c.addr = .wait → exec .blockFetch s = goes b) ∧
            (∀ e, b.fetchAt p c.addr = .fault e → exec .blockFetch s = trap b (memCause e .fetch) 0 c.addr) ∧
            (∀ s1 w0 w1, b.fetchAt p c.addr = .words s1 w0 w1 →
              let w : Word := w0.setWidth 64
              ((isBlkWord w0 && wordTop w0) = false → exec .blockFetch s = trap s1 Cause.blkTarget 0 w) ∧
              ((isBlkWord w0 && wordTop w0) = true → headerReserved w0 ≠ 0 → exec .blockFetch s = trap s1 Cause.blkHdr 0 w) ∧
              ((isBlkWord w0 && wordTop w0) = true → headerReserved w0 = 0 → ∀ s2 r,
                s1.fetchMore p c.addr (field w0.toNat 23 18) 1 = (s2, r) →
                (r = .wait → exec .blockFetch s = goes s2) ∧
                (∀ e m, r = .fault e m → exec .blockFetch s = trap s2 (memCause e .fetch) (2 * m) (c.addr + BitVec.ofNat 64 (8 * m))) ∧
                (∀ ws, r = .words ws → Admits (exec .blockFetch s) s2 n k (w0 :: w1 :: ws))))))))

/-- R27, R38, R42, R43, R146: LOAD_RETURN writes one outstanding result into the block's registers. TIMER_EXPIRY raises the timer's
event when the timer has reached zero, and not before; with s.status.ie set it discards a block before its commit point, with its
stores and the results it awaits, and the block is to be fetched again. -/
def ReturnsAndTimer : Prop :=
  ∀ (s : State),
    let c := s.me
    (∀ k ws, s.act.args = [k] → c.outst[k]? = some ws →
      exec .loadReturn s = goes (s.setMe { c with work := c.work.applyAll ws, outst := c.outst.take k ++ c.outst.drop (k + 1) })) ∧
    (∀ n, c.timerAt = some n → n ≤ s.time →
      (¬ (c.live = true ∧ c.phase = .body ∧ c.switchReq = false ∧ c.ie = true ∧ c.setsTimer = false) →
        exec .timerExpiry s = goes (s.setMe { c with timerAt := none, timerEvent := true })) ∧
      (c.live = true → c.phase = .body → c.switchReq = false → c.ie = true → c.setsTimer = false → ∃ d,
        exec .timerExpiry s = goes (s.setMe d) ∧ d.phase = .fetch ∧ d.addr = c.addr ∧ d.timerAt = none ∧ d.timerEvent = true ∧
        d.stores = [] ∧ d.outst = [] ∧ d.exit = none ∧ d.epoch = c.epoch + 1 ∧ (c.heldWrites = [] → d.arch = c.arch ∧ d.work = c.arch))) ∧
    (∀ n, c.timerAt = some n → s.time < n → c.timerEvent = false → exec .timerExpiry s = goes (s.setMe c))

/-- R224, R232, R401: VU_ISSUE serves the quad's queue of the lowest tag, whose tag rises by 65,536 / vshare: a result of a block
that still stands is written, its trap is taken, and one of a block that was discarded is dropped. -/
def VectorIssue : Prop :=
  ∀ (s : State) (k : Nat) (e : VuEntry) (rest : List VuEntry),
    s.vuNext s.act.core = some k → (s.core k).vuq = e :: rest → 1 ≤ (s.core k).vshare →
    let u := s.setCore k { s.core k with vuq := rest, vtag := ((s.core k).vtag + 65536 / (s.core k).vshare) % 2 ^ 32 }
    let c := s.ctxOf k e.ctx
    (c.epoch ≠ e.epoch ∨ c.live = false → exec .vuIssue s = goes u) ∧
    (∀ t, c.epoch = e.epoch → c.live = true → e.trap = some t → exec .vuIssue s = goes (u.takeTrap k e.ctx t)) ∧
    (c.epoch = e.epoch → c.live = true → e.trap = none → ∃ t, exec .vuIssue s = goes t ∧
      t = u.setCtx k e.ctx { c with work := c.work.applyAll e.writes, blockInf := c.blockInf.or e.inf })

/-- R159, R160, R175, R336, R337, R372, R373: UPDATE_ACCEPT gives a write on its way to its next recipient: one that the port holds
stays until it may leave, and then enters its core's own copy, or stays there dirty for a PRIVATE object; one that has left is applied by
the herd slice, which holds the word, then by the L1s of the herd that hold it, by the home slice, and by the other herds' slices that
hold it, each taking what was sent to it in order. UPDATE_DRAIN takes the oldest accepted update of an L1 or of the herd slice into its
copy, and the slice forwards it to the L1s of its herd that hold the word. A held access that reads its word and finds it
uncorrectable is not performed: its context stalls and a record is posted (R178). -/
def Updates : Prop :=
  ∀ (s : State) (f : Flight),
    let n := s.act.core
    let h := herdOfCore n
    let x := f.write
    let left := s.setCore n { s.myCore with wq := s.myCore.wq.filter (fun g => g.id != f.id) }
    (s.myCore.wq[s.arg 0]? = some f → f.atPort = true →
      (s.mayLeave n f = false → exec .updateAccept s = goes s) ∧
      (s.mayLeave n f = true →
        (∀ s1 cause, f.reads = true → s.lostCause n f = (s1, some cause) → ∃ t r, exec .updateAccept s = goes t ∧
          (t.ctxOf n f.ctx).stall = some 0 ∧ t.fault.waiting = s1.fault.waiting ++ [r] ∧ r.cause = cause ∧ r.sev = 1 ∧
          r.handle = (s1.ctxOf n f.ctx).handle ∧ r.tval = BitVec.ofNat 64 f.va ∧ t.mem = s1.mem) ∧
        (f.reads = false → x.word = fenceWord → exec .updateAccept s = goes left) ∧
        (f.reads = false → x.word ≠ fenceWord → f.amo = none → f.rel = 0 → (s.region (8 * x.word)).cached = true →
          (∀ cp, mfind left.myCore.l1 x.word = some cp → cp.err = 0) →
          (left.keepsDirty n f.ctx x.word f.obj = false → exec .updateAccept s = goes (left.setCore n { left.myCore with
            l1 := portUpdate left.myCore.l1 x, wq := left.myCore.wq ++ [{ f with atPort := false }] })) ∧
          (left.keepsDirty n f.ctx x.word f.obj = true → x.mask ≠ 0 →
            let old := (left.fillL1 n x.word false).portPeek n x.word
            ∃ t, exec .updateAccept s = goes t ∧ mfind (t.core n).l1 x.word =
              some { val := mergeBytes old.val x.val x.mask, tag := x.tag, dirty := some (ownerOf n f.ctx) })))) ∧
    (s.myCore.wq[s.arg 0]? = some f → f.atPort = false → s.turnOf n f = (n, f) →
      (s.flightReady n f = false → exec .updateAccept s = goes s) ∧
      (s.flightReady n f = true →
        (f.atHerd = true → ∃ t, exec .updateAccept s = goes t ∧ ∃ y, mfind (t.herd h).copies x.word = some y ∧
          y.tag = x.tag ∧ y.val = mergeBytes (s.sliceRead h x.word).2.val x.val x.mask ∧
          (y.dirty = none → (t.herd h).pend = (s.herd h).pend ++ [(f.id, x)])) ∧
        (∀ c cs u us, f.atHerd = false → f.toL1 = c :: cs → (s.core c).net = u :: us → u.id = f.id → ∃ t, exec .updateAccept s = goes t ∧
          (t.core c).inq = (s.core c).inq ++ [u.write] ∧ (t.core c).net = us ∧ (t.core c).l1 = (s.core c).l1 ∧ t.mem = s.mem) ∧
        (f.atHerd = false → f.toL1 = [] → f.atHome = true → ∃ t, exec .updateAccept s = goes t ∧ t.mem = (s.homeWrite x).mem) ∧
        (∀ g gs u us, f.atHerd = false → f.toL1 = [] → f.atHome = false → f.toSlices = g :: gs → (s.herd g).net = u :: us →
          u.id = f.id → u.src = s.homeSlice x.word → ∃ t, exec .updateAccept s = goes t ∧
            (t.herd g).inq = (s.herd g).inq ++ [u.write] ∧ (t.herd g).net = us ∧ (t.herd g).copies = (s.herd g).copies ∧ t.mem = s.mem))) ∧
    (∀ u us, s.arg 0 ≠ 1 → s.myCore.inq = u :: us →
      exec .updateDrain s = goes (s.setCore n (({ s.myCore with inq := us } : Core).applyUpdate u))) ∧
    (∀ u us, s.arg 0 = 1 → (s.herd h).inq = u :: us →
      (mfind (s.herd h).copies u.word = none → exec .updateDrain s = goes (s.onHerd h (fun y => { y with inq := us }))) ∧
      (∀ cp, mfind (s.herd h).copies u.word = some cp → cp.dirty = none → (∀ z ∈ (s.herd h).pend, z.2.word ≠ u.word) →
        ∃ t y, exec .updateDrain s = goes t ∧ mfind (t.herd h).copies u.word = some y ∧ y.val = u.val ∧ y.tag = u.tag ∧
          (t.herd h).inq = us ∧ t.mem = s.mem ∧ ∀ c ∈ coresOfHerd h, (t.core c).l1 = (s.core c).l1 ∧
            ((mfind (s.core c).l1 u.word).isSome = true → cp.val ≠ u.val ∨ cp.tag ≠ u.tag → (t.core c).inq =
              (s.core c).inq ++ (s.core c).net.map (·.write) ++ [{ word := u.word, mask := 0xFF, val := u.val, tag := u.tag }]))) ∧
    (∀ (y : Core) (cp : Copy) (u : WordWrite), mfind y.l1 u.word = some cp →
      (cp.dirty.isSome = true → y.applyUpdate u = y) ∧
      (cp.dirty = none → (∀ z ∈ y.ownWrites, z.word ≠ u.word) →
        ∃ cp', mfind (y.applyUpdate u).l1 u.word = some cp' ∧ cp'.val = u.val ∧ cp'.tag = u.tag))

/-- R361, R362, R367: TLB_WALK_STEP reads one entry of a walk whose slice is in service: one that is not valid, or whose word is
poisoned, ends the walk, a leaf fills the slice and ends it, a pointer leads to the next level. PATROL_READ of a home slice checks
the eight words of the next HBM or LPDDR-6 line that it homes, in ascending address, and finds nothing to do where no bit has
flipped; a correctable error leaves the data as it is, another poisons the word and posts a record. -/
def WalksOfTables : Prop :=
  ∀ (s : State) (x : TlbWalk),
    let k := s.arg 0
    let ew := s.localPa (x.table + 8 * tableIndex x.va x.level) / 8
    let e := (s.homeWord ew).val
    let without : List TlbWalk := s.mem.tlbWalks.take k ++ s.mem.tlbWalks.drop (k + 1)
    let bits := if x.level = 1 then 30 else if x.level = 2 then 21 else 16
    let line := s.patrolNext (mget 0 s.mem.patrol k)
    let moved (u : State) (n : Nat) : State := { u with mem := { u.mem with patrol := mset u.mem.patrol k n } }
    let clean (w : Nat) : Prop := mfind s.mem.latent w = none ∧ s.mem.errOf 0x0D (s.homeSlice w) w = none
    (s.mem.tlbWalks[k]? = some x → x.waits = false → s.sliceDown x.slice = false → clean ew → s.mem.poison.contains ew = false →
      (s.entryOk e x.level = false → exec .tlbWalkStep s = goes { s with mem := { s.mem with tlbWalks := without } }) ∧
      (s.entryOk e x.level = true → e.getLsbD 1 = true → s.mem.tlb.length < 1024 → exec .tlbWalkStep s =
        goes { s with mem := { s.mem with
          tlbWalks := without
          tlb := s.mem.tlb ++ [{ asid := x.asid, page := x.va / 2 ^ bits, bits := bits, entry := e, slice := x.slice }] } }) ∧
      (s.entryOk e x.level = true → e.getLsbD 1 = false → exec .tlbWalkStep s = goes { s with mem := { s.mem with
        tlbWalks := s.mem.tlbWalks.set k { x with level := x.level + 1, table := e.toNat / 2 ^ 8 % 2 ^ 44 * 256 } } })) ∧
    (s.mem.tlbWalks[k]? = some x → x.waits = false → s.sliceDown x.slice = false → clean ew → s.mem.poison.contains ew = true →
      exec .tlbWalkStep s = goes { s with mem := { s.mem with tlbWalks := without } }) ∧
    (∀ n, s.patrolLine k 8192 line = some n → line ≤ n ∧ s.homeSlice (8 * n) = k ∧ (s.region (64 * n) = .hbm ∨ s.region (64 * n) = .lpddr) ∧
      exec .patrolRead s = goes (moved ((List.range 8).foldl (fun u i => u.detect (8 * n + i)) s) (n + 1)) ∧
      ((∀ i, i < 8 → clean (8 * n + i)) → exec .patrolRead s = goes (moved s (n + 1)))) ∧
    (s.patrolLine k 8192 line = none → exec .patrolRead s = goes (moved s (line + 8192))) ∧
    (∀ w err, mfind s.mem.latent w = some err → s.mem.errOf 0x0D (s.homeSlice w) w = none →
      let t := s.detect w
      mfind t.mem.latent w = none ∧ t.mem.tags = s.mem.tags ∧
      (s.uncorrectable w = false → t.mem.bytes = s.mem.bytes ∧ t.mem.poison = s.mem.poison) ∧
      (s.uncorrectable w = true → t.mem.poison = insertNum s.mem.poison w ∧ ∃ r, t.fault.waiting = s.fault.waiting ++ [r] ∧
        r.sev = 3 ∧ r.src = 6 ∧ r.tval = BitVec.ofNat 64 (8 * w) ∧ r.cause = 0x140 + (s.arrayOf (8 * w)).1)) ∧
    (∀ w y, mfind s.mem.latent w = none → s.mem.errOf 0x0D (s.homeSlice w) w = some y → 2 ≤ popCount 64 y.flips.toNat →
      let t := s.detect w
      t.mem.poison = insertNum s.mem.poison w ∧ ∃ r, t.fault.waiting = s.fault.waiting ++ [r] ∧ r.sev = 3 ∧ r.src = 6 ∧ r.cause = 0x14D ∧
        r.loc = s.homeSlice w ∧ r.tval = BitVec.ofNat 64 (8 * w))

/-- R152, R171..R173: WALK_STEP and WALKER_GRANT, for the one walk of the herd, with no earlier store of its context held at the port:
it meets the head of its mark stack; an object
that holds the state is passed over; one that may not be published stops the walk and leaves the publishing context a pending
fault; one that faults goes to the fix-up list; another is scanned; with nothing left and the earlier stores performed the walk
is gone, and what waited for it goes on. Entering a state advances the version and changes no other field of the header. -/
def PublishWalks : Prop :=
  (∀ (s : State) (w : Walk) (o : Nat) (q : List Nat) (i : Instr), i = .walkStep ∨ i = .walkerGrant →
    let h := herdOfCore s.act.core
    let w1 : Walk := { w with queue := q }
    s.act.args = [] → (s.herd h).walks = [w] → w.waits = false → w.held = none → w.retrying = false → w.spilled ≤ w.refilled →
    s.heldBefore w = false →
    (w.queue = [] → w.fix = [] → s.walkCompletes w = true →
      exec i s = goes ((s.onHerd h (fun y => { y with walks := [] })).walkDone w)) ∧
    (w.queue = o :: q → w.takeover = [] →
      let v := s.pushHeader w1 o
      let u := v.walkDetect w1 (match v.translate w.ptb w.asid w.super .read (BitVec.ofNat 64 o) with
        | .ok l => [l.pa / 8]
        | .error _ => [])
      (∀ hpa, u.visit w1 o false = .skip hpa → u.setBy w.id hpa = none → exec i s = goes (u.onWalk h w.id (fun _ => w1))) ∧
      (∀ cause, u.visit w1 o false = .stop cause → exec i s = goes (u.stopWalk h w1 cause o)) ∧
      (∀ k va, u.visit w1 o false = .fault k va →
        exec i s = goes (u.onWalk h w.id (fun _ => { w1 with fix := w.fix ++ [(o, memCause k .walker)] }))) ∧
      (∀ hpa hdr t, u.visit w1 o false = .enter hpa hdr → u.scanObj h w1 o hpa hdr false false = some t → exec i s = goes t))) ∧
  (∀ (s : State) (h : Nat) (w : Walk) (cause o c k : Nat), w.held = none → w.site = none →
    s.placeOf w.handle = some (c, k) → ∃ d, (s.stopWalk h w cause o).ctxOf c k = d ∧
      d.pendFault = some { cause := cause, tval := BitVec.ofNat 64 w.root, tval2 := BitVec.ofNat 64 o } ∧
      ((∀ c ∈ s.cores, ∀ f ∈ c.2.wq, f.walk ≠ some w.id) → (s.stopWalk h w cause o).mem = s.mem)) ∧
  (∀ hdr scope : Nat, hdr < 2 ^ 64 → scope < 8 →
    let x := hdrState (hdrNext hdr) scope
    x / 2 ^ 30 % 8 = scope ∧ x / 2 ^ 49 = (hdr / 2 ^ 49 + 1) % 2 ^ 15 ∧ x % 2 ^ 30 = hdr % 2 ^ 30 ∧
    x / 2 ^ 33 % 2 ^ 16 = hdr / 2 ^ 33 % 2 ^ 16)

end Sys2Proof.Claims

/-- R38, R42, R54, R224: the events of a context: fetching a block with its checks, the return of a long result, the timer, and
the performance of a vector instruction. -/
def Obligations.ContextEventResults : Prop := BlockFetch ∧ ReturnsAndTimer ∧ VectorIssue

/-- R171..R173, R336, R362, R367: the events of the memory system: updates on their way, walks of the translation tables, patrol
reads and publish walks. -/
def Obligations.MemoryEventResults : Prop := Updates ∧ WalksOfTables ∧ PublishWalks

-- Device events: messages, event records, fault records and the supervisor's controls (R145, R199..R206, R360, R363, R380,
-- R410..R424, R493, R499)

namespace Sys2Proof.Claims

/-- R197, R199, R201, R422: a filled send-buffer entry enters the network once; a message behind an earlier one of its thread, or to a thread
that has still to start, waits; an arriving message is dead without a live thread
with rings, is refused and stays in the entry when its ring holds 16, is held with a fault record when its slot cannot be
written, waits while an engine owns the slot's words, a segment of it converts or the core's router entry is fetched again
(R350, R363, R449), and otherwise fills the next slot of its ring: ten words, one more occupied, the entry free; an armed binding pushes. The
saved ring of a thread that is switched out takes it in the same way. -/
def MessageEvents : Prop :=
  ∀ (s : State) (m : Msg),
    let k := s.arg 0
    (mfind s.myCore.sendbuf k = some m → (∀ x ∈ s.launch.msgs, m.same x = false) →
      exec .sendInject s = goes { s with launch := { s.launch with msgs := s.launch.msgs ++ [m] } }) ∧
    (mfind s.myCore.sendbuf k = none → exec .sendInject s = goes s) ∧
    (s.launch.msgs[k]? = some m → s.msgBehind m = true ∨ s.msgFollows m = true → exec .messageArrival s = goes s ∧ exec .savedRingDelivery s = goes s) ∧
    (s.launch.msgs[k]? = some m → s.unstarted m.dst = true → exec .messageArrival s = goes s) ∧
    (s.launch.msgs[k]? = some m → s.msgBehind m = false → s.msgFollows m = false →
      (s.unstarted m.dst = false → s.hasRings m.dst = false → exec .messageArrival s = goes (s.deadMsg m)) ∧
      (∀ c x, s.unstarted m.dst = false → s.hasRings m.dst = true → s.placeOf m.dst = some (c, x) → (s.ctxOf c x).locked = false →
        let d := s.ctxOf c x
        let r : Ring := mget {} d.rings m.pri
        let va := (d.sr 0x064).toNat + 1280 * m.pri + 80 * ((r.head + r.occ) % 16)
        (s.routeWaits c = true → exec .messageArrival s = goes s) ∧
        (s.routeWaits c = false → 16 ≤ r.occ → exec .messageArrival s =
          goes { s with launch := { s.launch with msgs := s.launch.msgs.filter (fun y => !m.same y) } }) ∧
        (s.routeWaits c = false → r.occ < 16 → s.writeWaits (d.sr 0x060).toNat (d.sr 0x061).toNat d.super va 10 = true →
          exec .messageArrival s = goes s) ∧
        (s.routeWaits c = false → r.occ < 16 → s.writeWaits (d.sr 0x060).toNat (d.sr 0x061).toNat d.super va 10 = false → ∀ e a, s.writable (d.sr 0x060).toNat (d.sr 0x061).toNat d.super va 10 = .error (e, a) →
          ∃ t f, exec .messageArrival s = goes t ∧ t.fault.waiting = s.fault.waiting ++ [f] ∧ f.cause = memCause e .store ∧
            f.sev = 1 ∧ f.handle = m.dst ∧ f.tval = BitVec.ofNat 64 a ∧ f.aux = d.sr 0x042 ∧ t.mem = s.mem ∧
            (∀ y ∈ t.launch.msgs, m.same y = true → y.blocked = true)) ∧
        (s.routeWaits c = false → r.occ < 16 → s.writeWaits (d.sr 0x060).toNat (d.sr 0x061).toNat d.super va 10 = false → ∀ ws, s.writable (d.sr 0x060).toNat (d.sr 0x061).toNat d.super va 10 = .ok ws →
          exec .messageArrival s = goes (((((s.agentWrites ws m.slot).onCtx c x (fun y =>
            { y with rings := mset y.rings m.pri { head := r.head, occ := r.occ + 1 } })).dropMsg m)).bindPush c x m.pri))) ∧
      (∀ th, mfind s.launch.threads m.dst = some th → th.place = none → th.saving = false → s.hasRings m.dst = true →
        let ring := (s.slotWord m.dst (0xE20 + 8 * m.pri)).toNat
        let head := ring % 16
        let occ := ring / 16 % 32
        let sreg (n : Nat) : Word := s.slotWord m.dst (0x800 + 8 * n)
        let super := (sreg 0x020).toNat % 4 == 1 || (sreg 0x020).toNat % 4 == 2
        let va := (sreg 0x064).toNat + 1280 * m.pri + 80 * ((head + occ) % 16)
        (16 ≤ occ → exec .savedRingDelivery s = goes (s.refuseMsg m)) ∧
        (occ < 16 → s.writeWaits (sreg 0x060).toNat (sreg 0x061).toNat super va 10 = true → exec .savedRingDelivery s = goes s) ∧
        (∀ ws, occ < 16 → s.writeWaits (sreg 0x060).toNat (sreg 0x061).toNat super va 10 = false →
            s.writable (sreg 0x060).toNat (sreg 0x061).toNat super va 10 = .ok ws →
          let u := (s.agentWrites ws m.slot).putSlotWord m.dst (0xE20 + 8 * m.pri) (BitVec.ofNat 64 (head + 16 * (occ + 1)))
          (u.slotWord m.dst (0xE48 + 16 * m.pri)).getLsbD 2 = false → exec .savedRingDelivery s = goes (u.dropMsg m)))) ∧
    (let t := s.dropMsg m
     mfind (t.core m.core).sendbuf m.pri = none ∧ (∀ y ∈ t.launch.msgs, m.same y = false) ∧ t.mem = s.mem)

/-- R369: EVENT_POST writes the record that is next in turn once the queue holds fewer than 256, and a completion held for that record
goes on; a full queue takes none. -/
def EventPosts : Prop :=
  ∀ (s : State),
    let h := s.arg 0
    let y := s.herd h
    (256 ≤ y.events.length → exec .eventPost s = goes s) ∧
    (∀ x, y.events.length < 256 → nextPost y.posts y.lastPoster = some x →
      let t : State := { s with herds := mset s.herds h { y with
        events := y.events ++ [x.2], posts := y.posts.erase x, lastPoster := x.1 } }
      x ∈ y.posts ∧ exec .eventPost s = goes (t.posted h x.1 x.2) ∧ (s.dev.finishing = [] → t.posted h x.1 x.2 = t) ∧
      (∀ f, s.dev.finishing = [f] → f.queued = true → f.unit = x.1 → f.post = some (h, x.2) →
        (f.cmd.usesSet = false ∨ f.cmd.pend = 0) →
        t.posted h x.1 x.2 = ({ t with dev := { t.dev with finishing := [] } } : State).closeCommand f.cmd)) ∧
    (∀ u e posts, y.posts = (u, e) :: posts → u < 6 → y.lastPoster < 6 → (∀ p ∈ posts, p.1 = u) →
      nextPost y.posts y.lastPoster = some (u, e))

/-- R402, R410..R412, R462: FAULT_RECORD_POST writes the first waiting record of the source kind whose turn it is and advances the
tail, raising the host's vector once the boot is done; with the ring full a record of severity 0 is dropped and counted; with
the ring off nothing is written. A resolution acts on a record of severity 1, an abort on one of severity 2 too, once. -/
def FaultRecords : Prop :=
  ∀ (s : State) (r : FaultRec) (rest : List FaultRec),
    let i := s.arg 0
    let without : State := { s with fault := { s.fault with posted := mdel s.fault.posted i } }
    let fq := (s.creg 0x3008).toNat
    (fq.testBit 5 = false → exec .faultRecordPost s = goes s) ∧
    (∀ k, fq.testBit 5 = true → s.fqFull = false → s.fqSource = some k →
      takeFirst (fun x => x.src % 8 == k) s.fault.waiting = some (r, rest) → r.agent = .none →
        ∃ t, exec .faultRecordPost s = goes t ∧ mfind t.fault.posted s.fqTail = some r ∧
          (t.creg 0x3010).toNat = (s.fqTail + 1) % 2 ^ 32 ∧ t.fault.lastSrc = r.src % 8 ∧
          t.dev.msix = s.dev.msix + b2n s.dev.done) ∧
    (fq.testBit 5 = true → s.fqFull = true → takeFirst (fun x => x.sev == 0) s.fault.waiting = some (r, rest) →
      exec .faultRecordPost s = goes ({ s with fault := { s.fault with waiting := rest } }.setCreg 0x3008
        (BitVec.ofNat 64 (fq % 2 ^ 32 + 2 ^ 32 * min (fq / 2 ^ 32 + 1) (2 ^ 32 - 1))))) ∧
    (let ahead (x : Nat) : Nat := (s.fqTail + 2 ^ 32 - x) % 2 ^ 32
     (ahead (i % 2 ^ 32) ≤ ahead s.fqHead → exec .fqheadWrite s = goes (s.setCreg 0x3018 (BitVec.ofNat 64 (i % 2 ^ 32)))) ∧
     (ahead s.fqHead < ahead (i % 2 ^ 32) → exec .fqheadWrite s = goes s)) ∧
    (mfind s.fault.posted i = none → exec .fqresRetry s = goes s ∧ exec .fqresAbort s = goes s) ∧
    (mfind s.fault.posted i = some r →
      (r.sev = 1 → exec .fqresRetry s = goes (without.retryAgent r) ∧ exec .fqresAbort s = goes (without.abortAgent r)) ∧
      (r.sev = 2 → exec .fqresRetry s = goes s ∧ exec .fqresAbort s = goes (without.abortAgent r)) ∧
      (r.sev ≠ 1 → r.sev ≠ 2 → exec .fqresRetry s = goes s ∧ exec .fqresAbort s = goes s) ∧
      (∀ e, r.sev = 1 → r.agent = .mxe e → exec .fqresRetry s = goes (without.onMxe e (fun m => { m with waiting := none })) ∧
        exec .fqresAbort s = goes (without.onMxe e (fun m => { m with
          waiting := none
          queue := (match m.queue with
            | c :: cs => { c with status := r.cause } :: cs
            | [] => []) }))) ∧
      (∀ h c k, r.sev = 1 → r.agent = .trap h → without.placeOf h = some (c, k) →
        exec .fqresRetry s = goes (without.setCtx c k (without.ctxOf c k).trapReturn)) ∧
      (∀ h c k x, r.sev = 1 → r.agent = .access h → without.placeOf h = some (c, k) → (without.ctxOf c k).stall = none →
        (without.ctxOf c k).lost = some x →
        exec .fqresRetry s = goes (without.setCtx c k { without.ctxOf c k with phase := .exposed x, lost := none })) ∧
      (∀ h c k q, r.sev = 1 → r.agent = .access h → without.placeOf h = some (c, k) → (without.ctxOf c k).stall = some q →
        let freed (f : List Flight → List Flight) : State :=
          (without.onCore c (fun y => { y with wq := f y.wq })).onCtx c k (fun y => { y with stall := none })
        exec .fqresRetry s =
          goes (freed (fun l => l.map (fun f => if (f.ctx == k && f.failed) = true then { f with failed := false } else f))) ∧
        exec .fqresAbort s = goes ((freed (fun l => l.filter (fun f => !(f.ctx == k && f.failed)))).onCtx c k
          (fun y => y.stateFault r.cause r.tval r.tval2))))

/-- R409, R413, R418: c.ctxctl requests a switch-out, aborts the thread, or posts the context's trap as a record of severity 1 and
puts it to sleep; c.gctl drains a graph launch or ends it with outcome 2. None acts on a context or launch that is not live. -/
def ThreadControls : Prop :=
  ∀ (s : State),
    let c := s.me
    let l := s.arg 0
    (c.live = true → exec .ctxctlSwitchOut s = goes (s.setMe { c with switchReq := true })) ∧
    (c.live = true → exec .ctxctlAbort s = goes (s.abortThread c.handle Cause.replyNone)) ∧
    (c.live = true → c.locked = false → ∃ t f, exec .ctxctlForward s = goes t ∧ t.fault.waiting = s.fault.waiting ++ [f] ∧
      f.cause = (c.sr 0x041).toNat % 512 ∧ f.sev = 1 ∧ f.handle = c.handle ∧ f.tval = c.sr 0x044 ∧ f.tval2 = c.sr 0x045 ∧
      f.aux = c.sr 0x042 ∧ t.me.phase = .wait (.fault 0) ∧ t.me.sreg = c.sreg ∧ t.mem = s.mem) ∧
    (c.live = false → exec .ctxctlSwitchOut s = goes s ∧ exec .ctxctlAbort s = goes s ∧ exec .ctxctlForward s = goes s) ∧
    (s.graphLive l = true → exec .gctlDrain s = goes (s.requestDrain l) ∧ exec .gctlAbort s = goes (s.endGraph l 2 0)) ∧
    (s.graphLive l = false → exec .gctlDrain s = goes s ∧ exec .gctlAbort s = goes s) ∧
    (∀ x, mfind s.fabric.placed l = some x → s.graphLive l = true → x.mode = .running → s.poolHolds x = true →
      exec .gctlDrain s = goes (s.onPlaced l (fun y => { y with mode := .draining, drainAt := some s.time })))

/-- R145, R360, R363, R380, R410, R419, R499: writes of the context window and of control registers, each with its effect, its reserved
fields dropped; a context's window writes are held while its block, or an exposed instruction of its block, has registers still to
write. -/
def ControlWrites : Prop :=
  ∀ (s : State),
    let x := s.arg 0
    let v := s.arg 1
    let off := x / 8 * 8
    let w := BitVec.ofNat 64 v
    let c := s.me
    let n := s.act.core
    let k := s.act.ctx
    (s.windowHole n k off = true → exec .contextWindowWrite s = goes s) ∧
    (s.windowHole n k off = false → c.holdsWindow = true →
      exec .contextWindowWrite s = goes (s.setMe { c with heldWrites := c.heldWrites ++ [(off, w)] })) ∧
    (c.live = true → c.phase = .body → c.holdsWindow = true) ∧ (c.live = false → c.holdsWindow = false) ∧
    (s.windowHole n k off = false → c.holdsWindow = false → c.heldWrites = [] →
      (off < 0x800 → exec .contextWindowWrite s = goes (s.setMe { c with arch := c.arch.windowWrite off w, work := c.arch.windowWrite off w })) ∧
      (∀ r, off = 0x800 + 8 * r → srWriteS r = true → r ≠ 0x020 →
        let u := s.setMe { c with work := c.arch }
        u.srRefuses n r w = false → exec .contextWindowWrite s = goes (u.srWrite n k r w true))) ∧
    (∀ r, 8 ≤ r → r < 512 → r % 8 = 0 → c.arch.windowWrite r w = c.arch.setG (r / 8) { val := w, tag := false }) ∧
    (let flips (old bits : Nat) : List Nat := (List.range bits).filter (fun i => old.testBit i != v.testBit i)
     let begins (reg base bits : Nat) : State :=
       let segs := (flips (s.creg reg).toNat bits).map (fun i => (base + 65536 * i, s.time + 1024, v.testBit i))
       { s.setCreg reg (BitVec.ofNat 64 (v % 2 ^ bits)) with mem := { s.mem with converting := s.mem.converting ++ segs } }
     (x < 1536 → exec .ctileWrite s = goes (begins (0x100000 + 8 * x) (0x80000000000 + 524288 * x) 8)) ∧
     (x < 768 → exec .mtileWrite s = goes (begins (0x200000 + 8 * x) (0x80100000000 + 2097152 * x) 32))) ∧
    (∀ y, s.mem.converting.find? (fun e => decide (e.2.1 ≤ s.time)) = some y →
      let u : State := { s with mem := { s.mem with converting := s.mem.converting.erase y } }
      exec .segmentConversionDone s = goes (u.convertSegment y.1 y.2.2) ∧
      (y.2.2 = true → (∀ e ∈ s.mem.errs, e.array ≠ 0x0D) → (∀ e ∈ s.mem.latent, ¬ (y.1 / 8 ≤ e.1 ∧ e.1 < y.1 / 8 + 8192)) → ∃ t, exec .segmentConversionDone s = goes t ∧
        t.mem.bytes = s.mem.bytes ∧ t.mem.tags = s.mem.tags.filter (fun g => !(decide (y.1 / 8 ≤ g) && decide (g < y.1 / 8 + 8192))) ∧
        (∀ e ∈ t.mem.hallmarks, ¬ (y.1 / 1024 ≤ e.1 ∧ e.1 < y.1 / 1024 + 64)))) ∧
    (exec .clkctlWrite s = if x % 4 = 3 then goes s else goes (s.setCreg 0x7000 (BitVec.ofNat 64 (x % 4)))) ∧
    (off = 0x3060 → exec .controlRegisterWrite s = goes (s.setCreg off (BitVec.ofNat 64 (v / 8 * 8)))) ∧
    (off = 0x3078 → exec .controlRegisterWrite s = goes (s.setCreg off (BitVec.ofNat 64 (v % 2 ^ 32)))) ∧
    (off = 0x7F00 → exec .controlRegisterWrite s = goes (if Config.controlCore n = true ∧ s.assayer n = false then
      { s with dev := { s.dev with doors := s.dev.doors ++ [v % 16] } } else s)) ∧
    (off = 0x3000 → s.fqOn = false → exec .controlRegisterWrite s = goes (s.setCreg off (BitVec.ofNat 64 (v / 64 % 2 ^ 46 * 64)))) ∧
    (off = 0x3000 → s.fqOn = true → exec .controlRegisterWrite s = goes s) ∧
    (off = 0x3040 → s.launch.threads = [] →
      exec .controlRegisterWrite s = goes (s.setCreg off (BitVec.ofNat 64 (v / 8192 % 2 ^ 39 * 8192)))) ∧
    (∀ q, q < 64 → off = 0x2000 + 64 * q → (s.queue q).en = false →
      exec .controlRegisterWrite s = goes (s.onQueue q (fun y => { y with base := BitVec.ofNat 64 (v / 64 % 2 ^ 46 * 64) }))) ∧
    (∀ q, q < 64 → off = 0x2000 + 64 * q → (s.queue q).en = true → exec .controlRegisterWrite s = goes s) ∧
    (∀ m j, m < 1536 → j < 32 → off = 0x500000 + 256 * m + 8 * j → v % 4 = 1 → (s.ctxOf m j).live = true →
      exec .controlRegisterWrite s = goes (s.setCtx m j { s.ctxOf m j with switchReq := true }))

/-- R450, R493: the table port: an entry out of its fields, of a site outside the map, or staged outside a quiescent window sets
err; another is staged, replacing the one of the same place; go applies every staged entry, in order, to the core map or the
shadow table, but for one of the core map whose window has closed (log entry 82), and empties the stage; the acknowledgement of the whole broadcast clears go and ends the windows that waited. -/
def TablePort : Prop :=
  ∀ (s : State),
    let v := s.arg 0
    let place := v / 2 ^ 16 % 2 ^ 11
    let shadow := v.testBit 63
    let bad : Bool := v / 2 ^ 9 % 2 ^ 7 != 0 || v / 2 ^ 27 % 2 ^ 36 != 0 || (!shadow && (decide (1536 ≤ place) || !s.inWindow))
    let kept := s.dev.stage_.filter (fun e => !(e.1 == place && e.2.2 == shadow))
    (s.dev.go = false → bad = true → exec .itportStage s = goes { s with dev := { s.dev with err := true } }) ∧
    (s.dev.go = false → bad = false → kept.length < 2048 →
      exec .itportStage s = goes { s with dev := { s.dev with stage_ := kept ++ [(place, v % 512, shadow)] } }) ∧
    (s.dev.go = true → exec .itportStage s = goes s ∧ exec .itctlGo s = goes s) ∧
    (s.dev.go = false → ∃ t, exec .itctlGo s = goes t ∧ t.dev.go = true ∧ t.dev.stage_ = [] ∧
      t.dev.err = s.dev.stage_.any (fun e => !e.2.2 && !s.inWindow) ∧
      t.dev.acks = s.dev.acks + 1 ∧ t.mem = s.mem ∧ t.cores = s.cores ∧
      (∀ e, s.dev.stage_ = [e] → e.2.2 = false → s.inWindow = false → t.dev.cmap = s.dev.cmap ∧ t.dev.shadow = s.dev.shadow) ∧
      (∀ e, s.dev.stage_ = [e] → e.2.2 = false → s.inWindow = true → t.dev.cmap = mset s.dev.cmap e.1 e.2.1 ∧ t.dev.shadow = s.dev.shadow) ∧
      (∀ e, s.dev.stage_ = [e] → e.2.2 = true → t.dev.shadow = mset s.dev.shadow e.1 e.2.1 ∧ t.dev.cmap = s.dev.cmap)) ∧
    (s.dev.acks = 0 → exec .tableBroadcastAck s = goes s) ∧
    (s.dev.acks ≠ 0 → ∃ t, exec .tableBroadcastAck s = goes t ∧ t.dev.acks = 0 ∧ t.dev.go = false ∧ t.dev.closing = [] ∧
      (∀ h, h < 256 → h ∈ s.dev.closing → (t.herd h).window = false) ∧ (∀ h, h ∉ s.dev.closing → t.herd h = s.herd h) ∧
      t.dev.stripes = s.dev.stripes.filter (fun k => !s.dev.closing.contains (256 + k)))

end Sys2Proof.Claims

/-- R197..R206, R369, R422: messages between their sender and their ring, and event records. -/
def Obligations.MessageEventResults : Prop := MessageEvents ∧ EventPosts

/-- R402, R410..R413, R418: the fault ring, the resolution of its records, and the controls of a context and of a graph.
The causes that an abort without a record leaves are the model's readings (log entries 22 and 37). -/
def Obligations.FaultEventResults : Prop := FaultRecords ∧ ThreadControls

/-- R145, R360, R363, R380, R410, R419, R450, R493, R499: writes of the supervisor's registers. -/
def Obligations.RegisterWriteResults : Prop := ControlWrites ∧ TablePort

-- Device events: launches, threads and their switch (R20, R21, R190, R300, R380..R395, R419..R423)

namespace Sys2Proof.Claims

/-- R380, R381, R384, R385, R389: LQTAIL_WRITE moves a queue's tail; a tail more than the ring's size ahead of the head halts an
enabled queue with LAUNCH_QOVF. LAUNCH_ADMISSION takes the queue's candidate when the distributor of a field comes to it (R394), and
waits with its own records (R410): one that fails a check is refused with outcome 1
and its cause once its target has room; one that passes takes the next index, while the pool covers its children. -/
def Admission : Prop :=
  ∀ (s : State),
    let q := s.arg 0
    let y := s.queue (q % 64)
    let tail := BitVec.ofNat 32 (s.arg 1)
    let past : Prop := y.en = true ∧ y.ovf = false ∧ 2 ^ y.lsize < (tail - y.head).toNat
    let x := s.queue q
    (¬ past → exec .lqtailWrite s = goes (s.onQueue (q % 64) (fun z => { z with tail := tail }))) ∧
    (past → ∃ t r, exec .lqtailWrite s = goes t ∧ t.queue (q % 64) = { y with tail := tail, ovf := true } ∧
      (∀ k, k ≠ q % 64 → t.queue k = s.queue k) ∧ t.fault.waiting = s.fault.waiting ++ [r] ∧ r.cause = Cause.launchQovf ∧ r.sev = 3 ∧ t.mem = s.mem) ∧
    let f := s.arg 1 % 6
    let turn : Prop := s.distributorHeld = false ∧ s.outranked f q = false ∧ s.resumeServed f q = false ∧ s.startServed f q = false ∧
      ∀ y ∈ s.launch.live, y.2.queue = q → s.herdServed f y.1 = false
    (¬ turn → exec .launchAdmission s = goes s) ∧
    (64 ≤ q ∨ x.en = false ∨ x.weight = 0 ∨ x.ovf = true ∨ s.launch.stopped = true ∨ s.candidate q = none → exec .launchAdmission s = goes s) ∧
    (∀ child r, q < 64 → x.en = true → x.weight ≠ 0 → x.ovf = false → s.launch.stopped = false → s.candidate q = some (child, r) → turn →
      (∀ t c a b, s.recordOk q r = .fault t c a b →
        (t.targetReady q r = true → exec .launchAdmission s = goes (((t.takeCandidate q child).toTarget q r (doneRecord 0 1 c 0 0 0 child)).served f q)) ∧
        (t.targetReady q r = false → exec .launchAdmission s = goes s)) ∧
      (∀ t args, s.recordOk q r = .ok t args →
        let u := t.takeCandidate q child
        (4096 < u.launch.pool.length + u.reservedEntries + recChildren r → exec .launchAdmission s = goes s) ∧
        (u.launch.pool.length + u.reservedEntries + recChildren r ≤ 4096 → u.launch.fresh < 4096 → recKind r = 3 ∨ recMxes r = 0 →
          ∃ v, exec .launchAdmission s = goes v ∧ v.launch.fresh = u.launch.fresh + 1 ∧ v.mem = u.mem ∧
            mfind v.launch.live u.launch.fresh = some { queue := q, record := r, args := args, reserve := recChildren r, child := child
                                                        order := u.launch.nextOrder } ∧
            (child = none → (v.queue q).head = (t.queue q).head + 1)))) ∧
    (recFieldsOk (s.ringRecord q) = false → ∃ t, s.recordOk q (s.ringRecord q) = .fault t Cause.launchField 0 0)

/-- R16, R20, R21, R383, R387, R394, R423: THREAD_PLACEMENT starts the launch's next thread in a free context whose slot is open to its
queue: its handle, its index, the launch's argument words in g1..g8 and every other register zero, level U with interrupts
on, the block at the record's entry. RESUME puts a saved thread back. The distributor places nothing while a record of its own waits
for the full fault ring (R410). -/
def Placement : Prop :=
  ∀ (s : State),
    let n := s.act.core
    let k := s.act.ctx
    let l := s.arg 0
    let x := s.liveLaunch l
    (s.distributorHeld = false → (mfind s.launch.live l).isSome → l < 4096 → (s.core n).reservedCtx k = false → s.slotOpen x.queue n k = true →
      s.resuming x.queue n k = [] → s.resumeServed (fieldOfCore n) x.queue = false →
      (s.startFits l n k = false → exec .threadPlacement s = goes s) ∧
      (∀ slot, s.startFits l n k = true → s.freeSlot = some slot → ∃ t, exec .threadPlacement s = goes t ∧
        let d := t.ctxOf n k
        d.live = true ∧ d.handle = l * 2 ^ 20 + x.next ∧ d.phase = .fetch ∧ d.addr = x.record.getD 1 0 ∧
        (∀ i, i < 8 → d.arch.getG (i + 1) = { val := x.args.getD i 0, tag := false }) ∧ (∀ i, 9 ≤ i → d.arch.getG i = {}) ∧
        d.arch.v = [] ∧ d.arch.p = 1 ∧ d.priv = 0 ∧ d.ie = true ∧ d.sr 0x000 = BitVec.ofNat 64 x.next ∧
        d.sr 0x001 = BitVec.ofNat 64 (recCount x.record) ∧ d.sr 0x005 = BitVec.ofNat 64 l ∧ d.sets = [] ∧ d.rings = [] ∧
        mfind t.launch.threads d.handle = some { slot := slot, place := some (n, k), pmode := (s.core n).pmode } ∧
        (t.liveLaunch l).next = x.next + 1 ∧ (t.liveLaunch l).started = x.started + 1)) ∧
    (s.distributorHeld = true → exec .threadPlacement s = goes s ∧ exec .resume s = goes s ∧ exec .herdPlacement s = goes s) ∧
    (s.distributorHeld = false → (mfind s.launch.live l).isSome → ∀ h, ((s.core n).reservedCtx k = true ∨ s.slotOpen x.queue n k = true) →
      (s.resuming x.queue n k).find? (fun y => launchOfHandle y == l) = some h →
      exec .threadPlacement s = goes (s.resumeThread h n k)) ∧
    (let q := (s.liveLaunch (launchOfHandle l)).queue
     (s.distributorHeld = false → s.resumeFits l n k = true → (s.core n).reservedCtx k = true ∨ s.slotOpen q n k = true →
       exec .resume s = goes (s.resumeThread l n k)) ∧
     (s.resumeFits l n k = false → exec .resume s = goes s)) ∧
    (∀ h r, 1 ≤ r → r < 64 → (s.slotRegs h).getG r = { val := s.slotWord h (8 * r), tag := (s.slotWord h 0x700).toNat.testBit r })

/-- R394, R395: HERD_PLACEMENT first claims one free context for each member, when no transaction is under way in the field and no
candidate comes before the launch in the field's order, and then, within 96 cycles, makes every member resident; PLACEMENT_TIMEOUT releases the claims of a
transaction of 96 cycles and no other. -/
def HerdPlacement : Prop :=
  ∀ (s : State),
    let l := s.arg 0
    let h := s.arg 1
    let x := s.liveLaunch l
    (s.herdFits l h = false → exec .herdPlacement s = goes s) ∧
    (s.herdFits l h = true → s.distributorHeld = false →
      (∀ start, x.trans = some (h, start) → s.time < start + 96 →
        (∀ u, s.placeHerd l h = some u → exec .herdPlacement s = goes u) ∧ (s.placeHerd l h = none → exec .herdPlacement s = goes s)) ∧
      (∀ start, x.trans = some (h, start) → start + 96 ≤ s.time → exec .herdPlacement s = goes s) ∧
      (∀ cs, x.trans = none → s.outranked (fieldOfHerd h) x.queue = false → s.resumeServed (fieldOfHerd h) x.queue = false →
        (∀ y ∈ s.launch.live, y.2.queue = x.queue → y.2.order < x.order → s.herdServed (fieldOfHerd h) y.1 = false) →
        s.transacting (fieldOfHerd h) = false → s.herdClaims l h = some cs →
        exec .herdPlacement s = goes (s.onLaunch l (fun y => { y with trans := some (h, s.time), claims := cs })) ∧
        cs.length = recCount x.record ∧ ∀ c ∈ cs, s.ctxFree c.1 c.2 = true ∧ s.usable c.1 c.2 = true)) ∧
    (∃ t, exec .placementTimeout s = goes t ∧ t.launch.live.length = s.launch.live.length ∧ t.mem = s.mem ∧ t.cores = s.cores ∧
      (∀ (k start : Nat) (y z : Nat × Launch), s.launch.live[k]? = some y → t.launch.live[k]? = some z → y.2.trans = some (s.arg 0, start) → y.2.placed = false →
        start + 96 ≤ s.time → z = (y.1, { y.2 with trans := none, claims := [] })) ∧
      (∀ (k : Nat) (y z : Nat × Launch), s.launch.live[k]? = some y → t.launch.live[k]? = some z →
        y.2.trans = none ∨ y.2.placed = true ∨ (∃ g start, y.2.trans = some (g, start) ∧ (g ≠ s.arg 0 ∨ s.time < start + 96)) → z = y))

/-- R391..R393: ARBITRATION_PERIOD, at the end of a period, writes each unreserved slot of the field with its new owner, and keeps the
assignment of a slot that holds a thread. SLOT_RECLAIM gives the acting context's slot to its owner, who has a thread for it
and no idle slot, or a herd launch that the slot's herd cannot take yet (log entry 76), and asks the borrower to be switched out. LAUNCH_DONE completes a launch whose threads have all retired,
once its target can take the record (R18). -/
def SlotsAndDone : Prop :=
  ∀ (s : State),
    let f := s.arg 0
    let n := s.act.core
    let k := s.act.ctx
    let slots := s.fieldSlots f
    let own := (s.owners f slots (s.grants f slots)).own
    (f < 6 → s.time % 16384 = 0 → ∃ t, exec .arbitrationPeriod s = goes t ∧ t.mem = s.mem ∧ t.launch = s.launch ∧
      (∀ c ∈ slots, (mget {} (t.core c.1).slots c.2).owner = (own.find? (fun e => e.1 == c)).map (·.2) ∧
        (∀ q, s.queueOf c.1 c.2 = some q → (mget {} (t.core c.1).slots c.2).asg = (mget {} (s.core c.1).slots c.2).asg) ∧
        (s.queueOf c.1 c.2 = none → (mget {} (t.core c.1).slots c.2).asg = (mget {} (t.core c.1).slots c.2).owner)) ∧
      (∀ c, (t.core c).ctxs = (s.core c).ctxs)) ∧
    (s.time % 16384 ≠ 0 → exec .arbitrationPeriod s = goes s) ∧
    (s.borrowed n k = none → exec .slotReclaim s = goes s) ∧
    (∀ o b, s.borrowed n k = some (o, b) → s.me.switchReq = false →
      let mine := (s.fieldSlots (fieldOfCore n)).filter (fun c => (mget {} (s.core c.1).slots c.2).owner == some o)
      (∀ c ∈ mine, ∀ p, s.borrowed c.1 c.2 = some p → s.reclaimKey p.2 c.1 ≤ s.reclaimKey b n) →
      ((∀ c ∈ mine, (s.ctxOf c.1 c.2).live = true) ∧ (∃ y ∈ s.launch.live, y.2.queue = o ∧ s.startFits y.1 n k = true) ∨
       s.usable n k = true ∧ (∃ y ∈ s.launch.live, y.2.queue = o ∧ s.herdFits y.1 (herdOfCore n) = true ∧ y.2.trans = none ∧
         s.modeFits o (y.2.record.getD 1 0) (s.core n).pmode = true ∧ s.herdClaims y.1 (herdOfCore n) = none)) →
      exec .slotReclaim s = goes ((s.assignSlot n k o).onCtx n k (fun c => { c with switchReq := true }))) ∧
    (∀ x, mfind s.launch.live f = some x → recKind x.record ≠ 3 → x.next = recCount x.record → x.retired = recCount x.record →
      (s.targetReady x.queue x.record = true → exec .launchDone s = goes (s.completeLaunch f x.outcome x.cause)) ∧
      (s.targetReady x.queue x.record = false → exec .launchDone s = goes s)) ∧
    (∀ x, mfind s.launch.live f = some x → x.retired ≠ recCount x.record → exec .launchDone s = goes s) ∧
    (∀ x o c, mfind s.launch.live f = some x → x.mxes = [] → recDone x.record = 0 → ∃ t, t = s.completeLaunch f o c ∧
      mfind t.launch.live f = none ∧ t.launch.freed = s.launch.freed ++ [f] ∧ t.mem = s.mem) ∧
    (∀ x o c h, mfind s.launch.live f = some x → x.mxes = [] → recDone x.record = 2 → field (recWord x.record 7) 12 5 = h →
      (s.herd h).events.length < 256 → (s.herd h).posts = [] → ((s.completeLaunch f o c).herd h).events =
        (s.herd h).events ++ [doneRecord f o c x.started x.status x.lost x.child])

/-- R207, R300: ESC_DISPATCH starts an escape thread for the head payload in a free reserved context: its handle and ticket, the
payload in g1..g8, the esc bit set, unless an earlier thread of that handle lives still (log entry 77). -/
def EscapeThreads : Prop :=
  ∀ (s : State) (site ticket l slot : Nat) (words : List Tagged) (rest : List (Nat × Nat × Nat × List Tagged)),
    let n := s.act.core
    let k := s.act.ctx
    let h := herdOfCore n
    ((s.core n).reservedCtx k = true → s.me.live = false → s.absent n = false → (s.herd h).window = false → (s.herd h).escq = [] →
      exec .escDispatch s = goes s) ∧
    ((s.core n).reservedCtx k = true → s.me.live = false → s.absent n = false → (s.herd h).window = false →
      (s.herd h).escq = (site, ticket, l, words) :: rest → s.freeSlot = some slot →
      s.thread (l * 2 ^ 20 + (2 ^ 19 + 64 * site + ticket % 64)) = none → ∃ t, exec .escDispatch s = goes t ∧
        (t.herd h).escq = rest ∧
        let d := t.ctxOf n k
        d.live = true ∧ d.handle = l * 2 ^ 20 + (2 ^ 19 + 64 * site + ticket % 64) ∧ d.phase = .fetch ∧
        d.ticket = some (site, ticket, false) ∧ d.ticketLaunch = l ∧ d.sr 0x00F = BitVec.ofNat 64 ticket ∧ (d.sr 0x020).getLsbD 5 = true ∧ d.priv = 0 ∧
        (∀ i, i < 8 → d.arch.getG (i + 1) = words.getD i {}) ∧
        (mfind t.launch.threads d.handle).map (·.place) = some (some (n, k))) ∧
    (∀ mask u, s.me.live = true → s.me.phase = .wait (.sleep mask) → mask.testBit 3 = true → s.takePayload n k = some u →
      exec .escDispatch s = goes u)

/-- R248, R409, R420, R421: SWITCH_OUT of a live context with a request, at no pending trap and no exposed instruction: its block is
discarded, its commands leave the core's engine and queue and are saved with the thread, and its rings are locked; a pending
trap comes before it, at the header of the block.
SAVE_COMPLETE, its stores performed at DEVICE scope, writes the save slot, a timer at zero having raised its event (R38), and frees
the context. -/
def SwitchOut : Prop :=
  ∀ (s : State) (th : Thread),
    let n := s.act.core
    let k := s.act.ctx
    let c := s.me
    s.thread c.handle = some th → c.live = true →
    (c.switchReq = true → c.locked = false → (∀ i, c.phase ≠ .exposed i) →
      (c.phase = .fetch ∨ c.phase = .body → c.pendFault = none ∧ c.qntInf = none) →
      (∀ e, s.myCore.engine = some e → e.handle = c.handle → e.midBox = false) → ∃ t, exec .switchOut s = goes t ∧
        t.me.locked = true ∧ t.me.gang = none ∧ t.mem = s.mem ∧
        (c.phase = .body → t.me.phase = .fetch ∧ t.me.addr = c.addr ∧ t.me.stores = [] ∧ t.me.outst = []) ∧
        (c.phase ≠ .body → t.me.phase = c.phase ∧ t.me.addr = c.addr) ∧
        (c.heldWrites = [] → t.me.arch = c.arch ∧ t.me.work = c.arch) ∧
        (∀ x ∈ t.myCore.copq, x.handle ≠ c.handle) ∧ (∀ x, t.myCore.engine = some x → x.handle ≠ c.handle) ∧
        (c.heldWrites = [] → ∃ cs, t.thread c.handle = some { th with saving := true, cmds := cs ++ th.cmds })) ∧
    (c.switchReq = true → c.locked = false → c.pendFault ≠ none ∨ c.qntInf ≠ none →
      (c.phase = .fetch → exec .switchOut s = goes s) ∧
      (c.phase = .body → ∃ t, exec .switchOut s = goes t ∧ t.me.phase = .fetch ∧ t.me.addr = c.addr ∧ t.me.locked = false ∧
        t.me.stores = [] ∧ t.me.pendFault = c.pendFault ∧ t.me.qntInf = c.qntInf ∧ t.mem = s.mem)) ∧
    (c.switchReq = false → exec .switchOut s = goes s) ∧
    (c.locked = false → exec .saveComplete s = goes s) ∧
    (c.locked = true → (∀ f ∈ s.myCore.wq, f.ctx ≠ k) →
      let r := s.readAllRegs n k
      let u := r.setMe (r.me.raise s.time)
      let d := u.me
      ∃ t, exec .saveComplete s = goes t ∧ t.me = {} ∧
        t.mem = ((u.slotHead n k ++ u.slotTail d).foldl (fun v x => v.putSlotWord d.handle x.1 x.2) u).mem ∧
        t.thread c.handle = some { th with
          place := none, saving := false, savedAt := s.time, pmode := s.myCore.pmode, pin := u.gangPin n k
          wait := c.waiting, lost := c.pendingAccess, view := if c.pendingAccess.isSome then c.snap else none
          seen := c.seen.filter (fun i => u.idsPending [i] 3), inf := c.qntInf
          ticketSite := (c.ticket.map (·.1)).getD 0, ticketLaunch := c.ticketLaunch } ∧
        (∀ e ∈ t.myCore.vuq, e.ctx ≠ k) ∧
        (mget {} t.myCore.slots k).asg = (mget {} t.myCore.slots k).owner)

/-- R190: BAR_WATCHDOG: a phase that has not completed 2^wdog cycles after its first arrival breaks its set, and a member that
waits in that phase goes on with a pending BAR_TIMEOUT, also one that is switched out; one whose own phase has completed stays as it
is; before that nothing happens. -/
def Watchdog : Prop :=
  ∀ (s : State),
    let pa := s.arg 0
    let q := s.readRec s.act.core s.act.ctx pa
    let r := q.2
    let first := if r.phase then (s.aux pa).start1 else (s.aux pa).start0
    let u := q.1.writeRec s.act.core s.act.ctx pa { r with broken := true }
    (first = none → exec .barWatchdog s = goes s) ∧
    (∀ t, first = some t → s.time < t + 2 ^ r.wdog → exec .barWatchdog s = goes s) ∧
    (∀ t, first = some t → t + 2 ^ r.wdog ≤ s.time → r.broken = false → r.joined ≠ 0 →
      let num : Word := BitVec.ofNat 64 (r.cnt r.phase)
      exec .barWatchdog s = goes ((u.aux pa).members.foldl (fun v m => v.timeOut pa r.phase num m.1) u) ∧
      ((u.aux pa).members = [] → exec .barWatchdog s = goes u) ∧
      (∀ m c k e x leaf, (u.aux pa).members = [m] → u.placeOf m.1 = some (c, k) →
        let d := u.ctxOf c k
        d.phase = .wait (.bar e) → mfind d.sets e = some x →
        u.translate (d.sr 0x060).toNat (d.sr 0x061).toNat d.super .read (BitVec.ofNat 64 x.record) = .ok leaf → leaf.pa = pa →
        (x.phase = r.phase → exec .barWatchdog s = goes (u.setCtx c k { d with
          pendFault := some { cause := Cause.barTimeout, tval := BitVec.ofNat 64 x.record, tval2 := num }
          phase := .fetch })) ∧
        (x.phase ≠ r.phase → exec .barWatchdog s = goes u)) ∧
      (∀ m e x, (u.aux pa).members = [m] → u.placeOf m.1 = none → u.thread m.1 = some x → x.wait = some (.bar e) →
        u.savedSetPa m.1 e = some pa → (u.slotWord m.1 (0xEC0 + 8 * e)).getLsbD 0 = r.phase →
        exec .barWatchdog s = goes ((u.savedFault m.1 Cause.barTimeout (u.savedRecord m.1 e) num).endSavedWait m.1)))

end Sys2Proof.Claims

/-- R380..R395: launch queues, admission, the placement of threads and herds and the arbitration of barrel slots. Two periods of
the statement, 16,384 cycles and 96 cycles, are those of R392 and R395. The severity of LAUNCH_QOVF is the model's reading (log
entry 25). -/
def Obligations.LaunchEventResults : Prop := Admission ∧ Placement ∧ HerdPlacement ∧ SlotsAndDone

/-- R190, R207, R248, R300, R420..R423: escape threads, switching a thread out and saving it, and the barrier watchdog. -/
def Obligations.SwitchEventResults : Prop := EscapeThreads ∧ SwitchOut ∧ Watchdog

-- Device events: the fabric as a system (R68, R294, R308, R351, R396..R400, R418, R424..R427, R436..R442)

namespace Sys2Proof.Claims

/-- R396, R397, R442: FABRIC_ADMISSION: a graph whose image no longer passes is refused with outcome 1; otherwise the
best-ranked bid of the class that fits, and that no reservation of a better one bars, is admitted: a graph takes its rectangle
with its planes and route bindings, a request of MXEs its MXEs. Every better bid of the class is counted as passed over, up to
four times, and the best bid passed over four times holds the reservation (log entries 47 and 80: when an image is read, and
which bid reserves, are the model's). CONFIG_LOAD loads a placed image once no MXE that it takes performs a command (R269). -/
def FabricAdmission : Prop :=
  ∀ (s : State),
    let broad := s.arg 0 == 1
    let bs := sortBids (s.bidsOf broad)
    let lost := s.launch.live.find? (fun e => e.2.bids && (match s.bidImage e.1 with
      | .fault _ _ _ _ => true
      | _ => false))
    (lost = none → bs.find? (fun b => s.bidFits b) = none → exec .fabricAdmission s = goes (s.settleBids broad)) ∧
    (∀ b, lost = none → s.reserved bs = none → bs.find? (fun b => decide (b.rank ≤ 2 ^ 200) && s.bidFits b) = some b →
      exec .fabricAdmission s = goes (((s.admitBid b).passOver bs b.rank).settleBids broad)) ∧
    (∀ b q, lost = none → s.reserved bs = some q → q.rank ≤ 2 ^ 200 →
      bs.find? (fun b => decide (b.rank ≤ q.rank) && s.bidFits b) = some b →
      exec .fabricAdmission s = goes (((s.admitBid b).passOver bs b.rank).settleBids broad)) ∧
    (∀ q, lost = none → s.reserved bs = some q → bs.find? (fun b => decide (b.rank ≤ q.rank) && s.bidFits b) = none →
      exec .fabricAdmission s = goes (s.settleBids broad)) ∧
    (∀ b r, b ∈ bs → b.rank < r → (mfind s.launch.live b.launch).isSome → bs.Pairwise (fun a c => a.launch ≠ c.launch) →
      ((s.passOver bs r).liveLaunch b.launch).byp = min 4 ((s.liveLaunch b.launch).byp + 1)) ∧
    (∀ b ∈ bs, (mfind s.launch.live b.launch).isSome →
      (((s.settleBids broad).liveLaunch b.launch).resv = true ↔ (s.reserved bs).map (·.launch) = some b.launch)) ∧
    (∀ b g x0 r0, lost = none → bs = [b] → s.reserved bs = none → b.rank ≤ 2 ^ 200 → b.image = some g →
      s.bestRegion b.launch g = some (x0, r0) → (mfind s.launch.live b.launch).isSome → ∃ t c, exec .fabricAdmission s = goes t ∧
        mfind t.fabric.placed b.launch = some c ∧ c.mode = .placed ∧ c.broad = g.broad ∧ c.x0 = x0 ∧ c.r0 = r0 ∧ c.w = g.w ∧ c.h = g.h ∧
        c.planes = g.order (g.at x0 r0) ∧ c.bind = s.bindings c.planes ∧ (t.liveLaunch b.launch).placed = true ∧ t.mem = s.mem ∧ t.cores = s.cores) ∧
    (∀ e t c a b, lost = some e → s.bidImage e.1 = .fault t c a b → exec .fabricAdmission s = goes (t.endGraph e.1 1 c)) ∧
    (∀ c, let l := s.arg 0
      mfind s.fabric.placed l = some c → c.mode = .placed →
      ((∀ e ∈ c.planes, 0x90 ≤ e.2.2.bits 7 0 → (s.mxe (mxeOfSite e.1)).running = none) → exec .configLoad s = goes (s.loadConfig l c)) ∧
      ((∃ e ∈ c.planes, 0x90 ≤ e.2.2.bits 7 0 ∧ (s.mxe (mxeOfSite e.1)).running ≠ none) → exec .configLoad s = goes s)) ∧
    (∀ c, mfind s.fabric.placed (s.arg 0) = some c → c.mode ≠ .placed → exec .configLoad s = goes s)

/-- R308, R400, R442: PLANE_SLOT_WRITTEN writes the next plane of the load at the acting site; the first plane of a site starts it; the
last plane of all makes the configuration run. R68: PLANE_REFETCH fetches a plane whose check byte was wrong once more, and a
second failure, or an access that faults, stops the whole configuration, with CFG_CHECK or the access's cause. -/
def PlaneWrites : Prop :=
  ∀ (s : State) (c : Placed) (k : Nat) (p : PlaneSlot),
    let n := s.act.site
    let l := s.launchOf n
    (mfind s.fabric.placed l = some c → c.mode = .loading ∨ c.mode = .draining → c.restored = false → c.planes[c.written]? = some (n, k, p) →
      s.arg 0 = k → (s.site n).launch = some l →
      (k ≠ 0 ∨ (s.site n).running = true → ∃ t, exec .planeSlotWritten s = goes t ∧ mget {} (t.site n).slots k = { p with loaded := true } ∧
        (∀ m, m ≠ n → t.site m = s.site m) ∧ t.mem = s.mem ∧ ∃ d, mfind t.fabric.placed l = some d ∧ d.written = c.written + 1 ∧
        d.mode = if c.mode = .loading ∧ c.planes.length ≤ c.written + 1 then .running else c.mode) ∧
      (k = 0 → (s.site n).running = false → exec .planeSlotWritten s = goes
        (((((s.onSite n (fun x => { x with slots := mset x.slots 0 { p with loaded := true } })).onPlaced l
          (fun c => { c with written := c.written + 1 })).onSite n (fun x => { x with running := true })).activate n 0).loaded l))) ∧
    (mfind s.fabric.placed l = none → exec .planeSlotWritten s = goes s) ∧
    ((s.site n).change = some k → mget {} (s.site n).slots k = p → (s.site n).stopped = false → p.loaded = true → planeOk p.word = false →
      (∀ t ps, s.agentCheck (s.graphParty l) .read .fabric 0 p.addr.toNat 32 = .ok t ps →
        let w : BitVec 256 := BitVec.ofNat 256 (valueLE (t.homeBytes ps))
        (planeOk w = true → exec .planeRefetch s = goes ((t.onSite n (fun x => { x with slots := mset x.slots k { p with word := w } })).activate n k)) ∧
        (planeOk w = false → exec .planeRefetch s = goes (t.loadFault n Cause.cfgCheck p.addr (siteVal n)))) ∧
      (∀ t cause a b, s.agentCheck (s.graphParty l) .read .fabric 0 p.addr.toNat 32 = .fault t cause a b →
        exec .planeRefetch s = goes (t.loadFault n cause a 0))) ∧
    (mfind s.fabric.placed l = some c → ∀ cause v w, ∃ d, mfind (s.loadFault n cause v w).fabric.placed l = some d ∧ d.mode = .faulted) ∧
    ((s.site n).change = none → exec .planeRefetch s = goes s)

/-- R439, R440: what crosses a seam, a data token or a control token, enters its port when the port is free, those of one link in
their order; a flit that fails its check is counted for its link and sent again, and the eighth failure in a row takes the link
out of service. A flit that arrives ends the row. -/
def Seams : Prop :=
  ∀ (s : State) (x : SeamToken),
    let k := s.arg 0
    let link := 4 * x.site + x.port
    let f := mget 0 s.fabric.seamFails link
    let again : State := { s with fabric := { s.fabric with seamFails := mset s.fabric.seamFails link (f + 1) } }
    let counted := again.corrected 0x28 x.site 0
    s.fabric.seams[k]? = some x →
      ((∀ y ∈ s.fabric.seams.take k, y.site ≠ x.site ∨ y.port ≠ x.port ∨ y.ctl.isSome ≠ x.ctl.isSome) →
        (let y := s.site x.site
         x.ctl = none → y.running = true → y.change = none → mfind y.ports x.port = none → ∃ t, exec .seamFlitReceive s = goes t ∧
           t.fabric.seams = s.fabric.seams.take k ++ s.fabric.seams.drop (k + 1) ∧
           t.site x.site = { y with ports := mset y.ports x.port { tok := x.tok, todo := y.plane.portTakers x.port } } ∧
           mfind t.fabric.seamFails link = none ∧
           (∀ m, m ≠ x.site → t.site m = s.site m) ∧ t.mem = s.mem) ∧
        (∀ v, let y := s.site x.site
         x.ctl = some v → y.running = true → y.change = none → mfind y.ctl x.port = none → ∃ t, exec .seamFlitReceive s = goes t ∧
           t.fabric.seams = s.fabric.seams.take k ++ s.fabric.seams.drop (k + 1) ∧
           t.site x.site = { y with ctl := mset y.ctl x.port (v, y.plane.ctlTakers x.port) } ∧
           mfind t.fabric.seamFails link = none ∧
           (∀ m, m ≠ x.site → t.site m = s.site m) ∧ t.mem = s.mem) ∧
        (∀ b, x.ctl = none → mfind (s.site x.site).ports x.port = some b → exec .seamFlitReceive s = goes s)) ∧
      (∀ y ∈ s.fabric.seams.take k, y.site = x.site → y.port = x.port → y.ctl.isSome = x.ctl.isSome → exec .seamFlitReceive s = goes s) ∧
      (f + 1 < 8 → exec .seamResend s = goes counted) ∧
      (∀ m, 8 ≤ f + 1 → neighbour x.site x.port = some m → s.fabric.deadSeams.contains (m, opposite x.port) = false →
        exec .seamResend s = goes (counted.seamDown m (opposite x.port))) ∧
      (∀ n o, (n, o) ∈ (s.seamDown n o).fabric.deadSeams)

/-- R294, R351, R398, R418, R424, R425: STALL after 2^28 cycles without a firing posts its record at a site that holds a token;
GRAPH_COMPLETION ends a graph of which nothing can act, once its target can take its record and its escape threads have retired; DRAIN_REQUEST drains what the arbiter wants; DRAINED saves a region that has
drained into the pool's lowest free region (before every site's first plane is active it rolls back, R427); DRAIN_TIMEOUT stops the configuration 2^24 cycles after its request. A configuration
that ends leaves no site, no rectangle and no token on a seam. -/
def GraphEnds : Prop :=
  ∀ (s : State) (c : Placed),
    let l := s.arg 0
    let x := s.liveLaunch l
    (recKind x.record = 3 → s.launchReady x = true →
      (x.outcome = 0 → s.graphDone l = true → exec .graphCompletion s = goes (s.endGraph l 0 0)) ∧
      (x.outcome = 0 → s.graphDone l = false → exec .graphCompletion s = goes s) ∧
      (x.outcome ≠ 0 → exec .graphCompletion s = goes (s.completeLaunch l x.outcome x.cause))) ∧
    (s.launchReady x = false → exec .graphCompletion s = goes s) ∧
    (mfind s.fabric.placed l = some c →
      (∀ n, c.mode = .running → (s.sitesOf l).find? (fun n => (s.site n).holds) = some n → c.lastFire + 2 ^ 28 ≤ s.time →
        (∀ m ∈ s.sitesOf l, (s.site m).elem.tickets = [] ∧ (s.site m).stopped = false ∧ (s.site m).rstopped = false ∧ (s.site m).accesses = false) →
        exec .stall s = goes (s.graphFault n Cause.stall 2 (siteVal n) 0 0)) ∧
      (s.time < c.lastFire + 2 ^ 28 → exec .stall s = goes s) ∧
      (s.drainWanted l = true → exec .drainRequest s = goes (s.requestDrain l)) ∧
      (s.drainWanted l = false → exec .drainRequest s = goes s) ∧
      (c.mode = .running → s.poolHolds c = true → s.requestDrain l =
        { s with fabric := { s.fabric with placed := mset s.fabric.placed l { c with mode := .draining, drainAt := some s.time } } }) ∧
      (c.mode = .placed ∨ (c.mode = .loading ∧ s.allActive l = false) → s.requestDrain l = s.rollBack l) ∧
      (∀ a, c.mode = .draining → s.isDrained l = true → s.freeRegion (poolUnits c.saveBound) = some a →
        exec .drained s = goes (s.saveConfig l c a)) ∧
      (c.mode ≠ .draining ∨ s.isDrained l = false → exec .drained s = goes s) ∧
      (∀ t, c.mode = .draining → c.drainAt = some t → t + 16777216 ≤ s.time →
        exec .drainTimeout s = goes (s.stopConfig l Cause.drainTimeout 2 c.corner 0)) ∧
      (∀ t, c.drainAt = some t → s.time < t + 16777216 → exec .drainTimeout s = goes s) ∧
      (let t := s.clearConfig l
       mfind t.fabric.placed l = none ∧ (∀ e ∈ t.fabric.sites, e.2.launch ≠ some l) ∧
       (∀ e ∈ t.fabric.seams, e.site ∉ s.sitesOf l) ∧ (∀ h ∈ t.herds, ∀ p ∈ h.2.escq, p.2.2.1 ≠ l)))

end Sys2Proof.Claims

/-- R294, R308, R351, R396..R400, R418, R424, R425, R427, R436..R442: admission of configurations, loading, seams, completion, draining
and saving. The moment of completion and the layout of a save area are the model's (log entries 12, 36 and 81). -/
def Obligations.FabricEventResults : Prop := FabricAdmission ∧ PlaneWrites ∧ Seams ∧ GraphEnds

-- Device events: the device's management (R376, R377, R428..R435, R443..R463, R497..R507)

namespace Sys2Proof.Claims

/-- R454: how a request of a code and k operands is served. As an event it has its effect; as the request record of an index it waits
for its turn and for the change it has asked for, is refused where its record has no code of a request (a reserved bit), and has its
effect, with the record's words for operands, where its record has this code (log entry 83). -/
def Served (s : State) (i : Instr) (code k : Nat) (effect : List Nat → Option Nat → State) : Prop :=
  (s.act.args[k]? = none ∨ s.dev.reqRing = none → exec i s = goes (effect (s.act.args.take k) none)) ∧
  (∀ j a, s.act.args[k]? = some j → s.dev.reqRing = some a →
    let word (x : Nat) : Nat := (s.homeWord (s.localPa (a + 64 * (j % 16)) / 8 + x)).val.toNat
    let turn : Prop := s.dev.doors.head? = some j ∧ ∀ d ∈ s.dev.due, d.req ≠ some j
    (¬ turn → exec i s = goes s) ∧
    (turn → word 0 = 0 ∨ 8 < word 0 → exec i s = goes (s.answer (some j) 2)) ∧
    (turn → word 0 = code → exec i s = goes (effect ((List.range k).map (fun x => word (x + 1))) (some j))) ∧
    (turn → word 0 ≠ code → 0 < word 0 → word 0 ≤ 8 → exec i s = goes s))

/-- R433, R444, R448, R454, R456: the Journeyman's retire requests: one that names a unit of the part in service, with no change due,
waits for the unit's quiescent window; another is refused at once, with status 2 in its record. A doorbell enters its record's index
once, and an answer takes it out. -/
def RetireRequests : Prop :=
  ∀ (s : State),
    let waits (code unit : Nat) (ok : Bool) (req : Option Nat) : State :=
      if ok = true ∧ ∀ d ∈ s.dev.due, d.code ≠ code ∨ d.unit ≠ unit then
        { s with dev := { s.dev with due := s.dev.due ++ [{ code := code, unit := unit, req := req }] } }
      else s.answer req 2
    Served s .retireCore 1 1 (fun ops req => waits 1 (ops.getD 0 0) (decide (ops.getD 0 0 < 1536) && !s.absent (ops.getD 0 0)) req) ∧
    Served s .retireHerd 2 1 (fun ops req => waits 2 (ops.getD 0 0) (decide (ops.getD 0 0 < 192) && !(s.herd (ops.getD 0 0)).retired) req) ∧
    Served s .retireSite 3 1 (fun ops req =>
      waits 3 (ops.getD 0 0) (decide (ops.getD 0 0 < 6144) && !s.dev.retired.contains (ops.getD 0 0)) req) ∧
    Served s .retireDomain 4 2 (fun ops req =>
      waits 4 (16 * ops.getD 0 0 + ops.getD 1 0) (decide (ops.getD 0 0 < 24) && decide (ops.getD 1 0 < 9)) req) ∧
    (s.dev.reqRing = none → ∀ r st, s.answer r st = s) ∧
    (∀ a j st, s.dev.reqRing = some a → s.dev.doors = [j] → (s.answer (some j) st).dev.doors = [])

/-- R429, R448, R450, R456: a herd's quiescent window opens when a change is due: every thread of the herd is to be switched out; with
threads left it waits; then the changes are made, answered and broadcast. The cause of a herd whose last core a request retires is a
free choice among those of a core's end. A failed interface puts its core on that list once. -/
def HerdWindow : Prop :=
  ∀ (s : State) (d : Due),
    let h := s.arg 0
    let n := s.act.core
    let changed : State := { s with dev := { s.dev with due := [], closing := s.dev.closing ++ [h], acks := s.dev.acks + 1 } }
    (h < 192 → s.dev.due = [d] → (d.code = 1 ∧ herdOfCore d.unit = h ∨ d.code = 2 ∧ d.unit = h) → s.dev.closing.contains h = false →
      ((s.herd h).window = false → ∃ t, exec .herdQuiescentWindow s = goes t ∧ (t.herd h).window = true ∧ t.dev = s.dev ∧ t.mem = s.mem ∧
        (∀ c ∈ coresOfHerd h, ∀ k x, (k, x) ∈ (s.core c).ctxs → x.live = true → (t.ctxOf c k).switchReq = true) ∧
        (∀ g, g ≠ h → t.herd g = s.herd g)) ∧
      (∀ c k x, (s.herd h).window = true → c ∈ coresOfHerd h → (k, x) ∈ (s.core c).ctxs → x.live = true →
        exec .herdQuiescentWindow s = goes s) ∧
      ((s.herd h).window = true → (∀ c ∈ coresOfHerd h, ∀ x ∈ (s.core c).ctxs, x.2.live = false) →
        exec .herdQuiescentWindow s = goes (changed.applyDue h d) ∧
        (d.code = 2 → d.cause = 0 → changed.applyDue h d = (changed.retireHerd h Cause.eccHerdslice).answer d.req 1) ∧
        (d.code = 1 → (coresOfHerd h).any (fun c => !(changed.replaceCore d.unit).absent c) = true →
          changed.applyDue h d = (changed.replaceCore d.unit).answer d.req 1) ∧
        (d.code = 1 → (coresOfHerd h).all (changed.replaceCore d.unit).absent = true → ∃ cause, (d.cause ≠ 0 → cause = d.cause) ∧
          (d.cause = 0 → cause ∈ [Cause.eccRegfile, Cause.eccL1, Cause.eccBlkbuf, Cause.niFail, Cause.watchdog]) ∧
          changed.applyDue h d = ((changed.replaceCore d.unit).retireHerd h cause).answer d.req 1))) ∧
    (s.dev.due = [] → exec .herdQuiescentWindow s = goes s) ∧
    (s.absent d.unit = false → ∃ v, (s.replaceCore d.unit).dev.cmap = mset s.dev.cmap d.unit v ∧
      (v = 128 ∨ v = 32 + 256 ∨ v = 32 + 64 + 256) ∧ (s.replaceCore d.unit).dev.logCores = s.dev.logCores ++ [s.physicalCore d.unit]) ∧
    (s.absent d.unit = true → s.replaceCore d.unit = s) ∧
    (∃ t, exec .niFail s = goes t ∧
      t.dev.due = (if s.absent n = true ∨ ∃ e ∈ s.dev.due, e.code = 1 ∧ e.unit = n then s.dev.due
        else s.dev.due ++ [{ code := 1, unit := n, cause := Cause.niFail }]) ∧
      ((∀ m ∈ s.launch.msgs, ¬ (m.core = n ∧ m.pri = h ∧ m.blocked = false)) → t.fault = s.fault ∧ t.launch = s.launch) ∧
      (∀ m, s.launch.msgs.find? (fun m => m.core == n && m.pri == h && !m.blocked) = some m → ∃ r, t.fault.waiting = s.fault.waiting ++ [r] ∧
        r.cause = Cause.niFail ∧ r.sev = 3 ∧ r.handle = m.src ∧ mfind (t.core n).sendbuf m.pri = none))

/-- R428, R433..R435, R443, R444: sites, power domains and TLB slices: a stripe's window opens and, once no configuration occupies
the stripe, the changes are made; the first two losses of a regulator's phases are noticed, the third is a rail failure; a rail
failure stops the configurations that it reaches; a failed slice loses its entries, its walks wait with a record each, and it moves
to a free MT spare slot in the window of the slot's stripe, or admissions stop. -/
def StripesAndRails : Prop :=
  ∀ (s : State) (d : Due),
    let k := s.arg 0
    let g := s.arg 1
    let rail := s.arg 2 % 2
    let i := 2 * (16 * k + g) + rail
    let lost := mget 0 s.dev.phases i + 1
    let noted : State := { s with dev := { s.dev with phases := mset s.dev.phases i lost } }
    let changed : State := { s with dev := { s.dev with due := [], closing := s.dev.closing ++ [256 + k], acks := s.dev.acks + 1 } }
    (k < 24 → s.dev.due = [d] →
      (d.code = 3 ∧ stripeOfSite d.unit = k ∨ d.code = 4 ∧ d.unit / 16 = k ∨ d.code = 5 ∧ d.unit % 256 / 8 = k) → s.dev.closing.contains (256 + k) = false →
      (s.dev.stripes.contains k = false → exec .stripeQuiescentWindow s =
        goes { s with dev := { s.dev with stripes := insertNum s.dev.stripes k } }) ∧
      (s.dev.stripes.contains k = true → s.fabric.placed.any (fun c => c.2.area.any (fun n => stripeOfSite n == k)) = true →
        exec .stripeQuiescentWindow s = goes s) ∧
      (s.dev.stripes.contains k = true → s.fabric.placed = [] → d.code = 4 →
        exec .stripeQuiescentWindow s = goes ((changed.retireDomain k (d.unit % 16)).answer d.req 1)) ∧
      (s.dev.stripes.contains k = true → s.fabric.placed = [] → d.code = 5 →
        exec .stripeQuiescentWindow s = goes (State.answer { changed with dev := { changed.dev with
          tlbHome := mset changed.dev.tlbHome (d.unit / 256) (d.unit % 256)
          deadSlices := eraseNum changed.dev.deadSlices (d.unit / 256) } } d.req 1)) ∧
      (s.dev.stripes.contains k = true → s.fabric.placed = [] → d.code = 3 → changed.substitute d.unit = none →
        exec .stripeQuiescentWindow s = goes
          ((State.substituteSite { changed with dev := { changed.dev with logSites := insertNum changed.dev.logSites d.unit } } d.unit).answer d.req 1))) ∧
    (s.dev.due = [] → exec .stripeQuiescentWindow s = goes s) ∧
    (k < 24 → g < 9 →
      (lost < 3 → exec .regulatorPhase s = goes (noted.railRecord Cause.regulatorPhase 0 k g)) ∧
      (lost = 3 → rail = 0 → exec .regulatorPhase s = goes (noted.elementRail k g)) ∧
      (lost = 3 → rail = 1 → exec .regulatorPhase s = goes (noted.routingRail k g)) ∧
      (3 < lost → exec .regulatorPhase s = goes noted) ∧
      ((mget 0 s.dev.fdom k).testBit g = false → exec .elementRailFailure s = goes (s.elementRail k g)) ∧
      ((mget 0 s.dev.fdom k).testBit g = true → exec .elementRailFailure s = goes s) ∧
      ((mget 0 s.dev.fdom k).testBit (9 + g) = false → exec .routingRailFailure s = goes (s.routingRail k g)) ∧
      ((mget 0 s.dev.fdom k).testBit (9 + g) = true → exec .routingRailFailure s = goes s)) ∧
    (24 ≤ k ∨ 9 ≤ g → exec .regulatorPhase s = goes s ∧ exec .elementRailFailure s = goes s ∧ exec .routingRailFailure s = goes s) ∧
    (k < 384 → exec .tlbSliceMove s = goes (s.moveSlice k)) ∧
    (∀ own, own = stripeOfSite (sliceSite k) → s.spareFree own 4 = true →
      (s.moveSlice k).dev.due = s.dev.due ++ [{ code := 5, unit := 256 * k + 8 * own + 4 }] ∧
      (∀ e ∈ (s.moveSlice k).mem.tlb, e.slice ≠ k) ∧
      (s.mem.tlbWalks = [] → (s.moveSlice k).fault = s.fault) ∧
      (∀ w, s.mem.tlbWalks = [w] → w.slice = k → w.waits = false → ∃ r, (s.moveSlice k).mem.tlbWalks = [{ w with waits := true }] ∧
        (s.moveSlice k).fault.waiting = s.fault.waiting ++ [r] ∧ r.cause = Cause.eccTlb ∧ r.sev = 1 ∧ r.loc = k ∧
        r.tval = BitVec.ofNat 64 w.va)) ∧
    (k < 384 → mfind s.dev.tlbHome k = none → s.mem.tlbWalks = [] → (∀ m j, m < 24 → j = 4 ∨ j = 5 → s.spareFree m j = false) →
      ∃ r, (s.moveSlice k).launch.stopped = true ∧ k ∈ (s.moveSlice k).dev.deadSlices ∧
        (s.moveSlice k).fault.waiting = s.fault.waiting ++ [r] ∧ r.cause = Cause.eccTlb ∧ r.sev = 3)

/-- R376, R377, R449, R454, R455: channels, routing tables and control cores: a failing HBM channel whose stack has a spare is copied
granule by granule, after the last of which the indirection names the spare; without a spare the channel is dead; an entry of a
routing table is corrected or fetched again; the failure of cc0 stops admissions, that of another control core starts its instance
anew on an idle cc4. -/
def ChannelsAndTables : Prop :=
  ∀ (s : State),
    Served s .retireChannel 5 2 (fun ops req =>
      let lp := ops.getD 0 0 % 2 == 1
      let ch := ops.getD 1 0
      let blown (x : Nat) : State := { s with dev := { s.dev with fuseChans := s.dev.fuseChans ++ [(lp, x)] } }
      if s.channels lp ≤ ch ∨ s.mem.deadChan.contains (2 * ch + b2n lp) = true then s.answer req 2
      else if lp = true then
        ({ blown (s.lpPhysical ch) with mem := { s.mem with deadChan := insertNum s.mem.deadChan (2 * ch + 1) } } : State).answer req 1
      else if ∃ c ∈ s.mem.copying, c.1 = ch then s.answer req 2
      else match s.spareChannel (s.hbmPhysical ch / 68) with
        | some p => ({ blown (s.hbmPhysical ch) with mem := { s.mem with copying := s.mem.copying ++ [(ch, 0, p)] } } : State).answer req 1
        | none => ({ blown (s.hbmPhysical ch) with mem := { s.mem with deadChan := insertNum s.mem.deadChan (2 * ch) } } : State).answer req 1) ∧
    (∀ q p, s.mem.copying = [(s.arg 0, q, p)] → s.mem.latent = [] →
      (q + 1 < 262144 → exec .channelSpareCopy s = goes { s with mem := { s.mem with copying := [(s.arg 0, q + 1, p)] } }) ∧
      (q + 1 = 262144 → exec .channelSpareCopy s = goes { s with mem := { s.mem with
        copying := []
        chanMap := mset s.mem.chanMap (s.arg 0) p } })) ∧
    ((∀ c ∈ s.mem.copying, c.1 ≠ s.arg 0) → exec .channelSpareCopy s = goes s) ∧
    (s.arg 1 = 0 → exec .tableEntryError s = goes (s.corrected 0x15 s.act.site 0)) ∧
    (s.arg 1 ≠ 0 → ∃ t r, exec .tableEntryError s = goes t ∧ t.dev.refetch = insertNum s.dev.refetch (s.arg 0) ∧
      t.fault.waiting = s.fault.waiting ++ [r] ∧ r.cause = Cause.eccRouter ∧ r.sev = 0 ∧ r.loc = s.act.site ∧ t.mem = s.mem) ∧
    exec .tableEntryRefetch s = goes { s with dev := { s.dev with refetch := eraseNum s.dev.refetch (s.arg 0) } } ∧
    (∃ t, exec .tableEntryRefetch s = goes t ∧ (s.arg 0 ∉ t.dev.refetch) ∧ (∀ e, e ≠ s.arg 0 → (e ∈ t.dev.refetch ↔ e ∈ s.dev.refetch)) ∧ t.mem = s.mem) ∧
    (s.arg 0 = 0 → s.dev.ccFailed.contains 0 = false → ∃ t r, exec .controlCoreFailure s = goes t ∧ t.launch.stopped = true ∧
      (t.ctxOf 1536 0).live = false ∧ t.dev.ccFailed = insertNum s.dev.ccFailed 0 ∧ t.fault.waiting = s.fault.waiting ++ [r] ∧ r.cause = Cause.watchdog ∧ r.sev = 3) ∧
    (∀ k, s.arg 0 = k → k ≠ 0 → k < 5 → s.dev.ccFailed.contains k = false → ∃ t, exec .controlCoreFailure s = goes t ∧
      t.dev = { s.dev with ccFailed := insertNum s.dev.ccFailed k } ∧ t.mem = s.mem ∧ t.launch = s.launch ∧ t.fault = s.fault ∧
      (t.ctxOf (1536 + k) 0).live = false ∧
      (k < 4 → (insertNum s.dev.ccFailed k).contains 4 = false → (s.ctxOf 1540 0).live = false → (t.ctxOf 1540 0).live = true ∧
        (t.ctxOf 1540 0).sr 0x020 = 1) ∧
      (∀ n j, n ≠ 1536 + k → n ≠ 1540 ∨ (insertNum s.dev.ccFailed k).contains 4 = true ∨ (s.ctxOf 1540 0).live = true →
        t.ctxOf n j = s.ctxOf n j)) ∧
    (s.dev.ccFailed.contains (s.arg 0) = true → exec .controlCoreFailure s = goes s)

/-- R454, R458..R461: the Colueso links: a path is written or refused; a spare lane comes into service once; a lost lane is replaced by
the spare, or the port runs on four, and is logged (R446); a flit that is the one expected and passes its check is taken and what it acknowledges leaves
the replay buffer, another is asked for again; the sixteenth replay to fail in a row takes the link down; training brings a port up. -/
def Links : Prop :=
  ∀ (s : State),
    let k := s.arg 0
    let p : LinkPort := mget {} s.dev.ports k
    let put (q : LinkPort) : State := { s with dev := { s.dev with ports := mset s.dev.ports k q } }
    let flit : List Byte := (s.act.args.drop 3).map (BitVec.ofNat 8)
    let head := valueLE (flit.take 8)
    let tried (fails : Nat) : State := (put { p with retry := min (p.retry + 1) (2 ^ 32 - 1), fails := fails }).corrected 0x20 k 0
    let logged : State := { s with dev := { s.dev with logLanes := s.dev.logLanes ++ [k] } }
    let putLogged (q : LinkPort) : State := { logged with dev := { logged.dev with ports := mset s.dev.ports k q } }
    Served s .linkRoute 6 3 (fun ops req =>
      let target : LinkPort := mget {} s.dev.ports (ops.getD 2 0)
      if ops.getD 0 0 < 64 ∧ ops.getD 1 0 < 4 ∧ ops.getD 2 0 < 24 ∧ target.fails < 16 then
        ({ s with dev := { s.dev with paths := mset s.dev.paths (4 * ops.getD 0 0 + ops.getD 1 0) (ops.getD 2 0) } } : State).answer req 1
      else s.answer req 2) ∧
    Served s .laneSpare 7 1 (fun ops req =>
      let q : LinkPort := mget {} s.dev.ports (ops.getD 0 0)
      if ops.getD 0 0 < 24 ∧ q.spare = false then
        ({ s with dev := { s.dev with ports := mset s.dev.ports (ops.getD 0 0) { q with spare := true } } } : State).answer req 1
      else s.answer req 2) ∧
    (k < 24 → p.spare = false → exec .laneFailure s = goes ((putLogged { p with spare := true }).corrected 0x21 k 0)) ∧
    (k < 24 → p.spare = true → ∃ t r, exec .laneFailure s = goes t ∧ mget {} t.dev.ports k = { p with lanes := if p.up then 4 else p.lanes } ∧
      t.dev.logLanes = s.dev.logLanes ++ [k] ∧
      t.fault.waiting = s.fault.waiting ++ [r] ∧ r.cause = Cause.linkLane ∧ r.sev = 3 ∧ r.loc = k) ∧
    (k < 24 → p.up = true →
      (s.arg 2 = 0 ∨ s.arg 1 % 4096 ≠ p.expect → exec .linkFlitReceive s = goes (put { p with asked := some p.expect })) ∧
      (s.arg 2 ≠ 0 → s.arg 1 % 4096 = p.expect → exec .linkFlitReceive s = goes (put { p with
        expect := (p.expect + 1) % 4096, asked := none
        unacked := p.unacked.filter (fun f => decide (2048 ≤ (f.seq + 4096 - head / 2 ^ 14 % 4096) % 4096))
        received := p.received ++ [(head % 4, (flit.drop 8).take 244)] })) ∧
      (s.arg 1 = 0 → exec .linkReplay s = goes (tried 0)) ∧
      (s.arg 1 ≠ 0 → p.fails + 1 < 16 → exec .linkReplay s = goes (tried (p.fails + 1))) ∧
      (s.arg 1 ≠ 0 → 16 ≤ p.fails + 1 → p.unacked = [] → ∃ t r, exec .linkReplay s = goes t ∧
        (mget {} t.dev.ports k : LinkPort).up = false ∧ (mget {} t.dev.ports k : LinkPort).lanes = 0 ∧ r ∈ t.fault.waiting ∧
        r.cause = Cause.linkDown ∧ r.sev = 3 ∧ r.loc = k)) ∧
    (p.up = false → exec .linkFlitReceive s = goes s ∧ exec .linkReplay s = goes s) ∧
    (k < 24 → exec .linkTraining s = goes (put { p with
      up := true
      lanes := if p.lanes = 4 ∨ 2 ≤ ((s.dev.fuseLanes ++ s.dev.logLanes).filter (fun i => i == k)).length then 4 else 8
      pdev := s.arg 1 % 64, pgrp := s.arg 2 % 1024, pport := s.arg 3 % 32
      fails := 0, asked := none }))

/-- R362, R454, R463, R484, R502: accesses of the host: a control register, or memory below 2^42; before the boot is done a control
register but c.boot reads zero and takes no write. The module's other interfaces answer a read at any time after power (R501), the test port with
the part number. An attestation keeps its nonce and writes its report after it. A soft error changes a tile's data under its
hallmark, or leaves a latent error in another word and in a word of a weight buffer, whose bytes and hallmarks stay. An accumulator's bytes change
at once; an array that no address names keeps the flipped bits (R361). -/
def HostAndErrors : Prop :=
  ∀ (s : State),
    let pa := s.arg 1
    let n := s.arg 2
    let good : Prop := n ∈ [1, 2, 4, 8] ∧ pa % 8 + n ≤ 8 ∧ s.dev.powered = true
    let base := Config.controlBase
    let off := pa - base
    let reg := off / 8 * 8
    let read (u : State) (x : Word) : State := { u with dev := { u.dev with hostData := x } }
    let side : Prop := s.arg 0 = 2 ∨ s.arg 0 = 3 ∨ s.arg 0 = 4
    let write : Prop := ¬ side ∧ s.arg 0 ≠ 0
    (¬ side → ¬ good → exec .hostAccess s = goes s) ∧
    (s.arg 0 = 2 → (pa ∈ [0, 0x7000, 0x7008, 0x7010] → exec .hostAccess s = goes (read s (s.controlRead pa))) ∧
      (pa ∉ [0, 0x7000, 0x7008, 0x7010] → exec .hostAccess s = goes s)) ∧
    (s.arg 0 = 3 → pa = 0x8D → exec .hostAccess s = goes (read s (BitVec.ofNat 64 s.dev.tmax))) ∧
    (s.arg 0 = 3 → ∃ v, exec .hostAccess s = goes (read s v)) ∧
    (s.arg 0 = 4 → ∃ v, exec .hostAccess s = goes (read s v) ∧ (pa = 0 → field v.toNat 27 12 = field (s.controlRead 0).toNat 31 16) ∧
      (pa ≠ 0 → v = BitVec.ofNat 64 (s.arg 3 % 2))) ∧
    (good → base ≤ pa → pa < base + 2 ^ 32 →
      (s.dev.done = false → reg ≠ 0x7010 → s.arg 0 = 0 → exec .hostAccess s = goes (read s 0)) ∧
      (s.dev.done = false → reg ≠ 0x7010 → write → exec .hostAccess s = goes s) ∧
      (s.dev.done = true → s.arg 0 = 0 → n = 8 → exec .hostAccess s = goes (read s (s.controlRead reg))) ∧
      (s.dev.done = true → write → exec .hostAccess s = goes (s.writeControl reg (s.arg 3)))) ∧
    (good → pa < base → pa < 2 ^ 42 → s.region pa = .hbm ∨ s.region pa = .lpddr →
      (s.arg 0 = 0 → n = 8 → exec .hostAccess s = goes (read (s.detect (pa / 8)) ((s.detect (pa / 8)).homeWord (pa / 8)).val)) ∧
      (write → n = 8 → exec .hostAccess s =
        goes (s.homeStore { word := pa / 8, mask := 0xFF, val := BitVec.ofNat 64 (s.arg 3 % 2 ^ 64) }))) ∧
    (good → pa < base → pa < 2 ^ 42 → s.region pa = .hole → write → exec .hostAccess s = goes s) ∧
    Served s .attest 8 1 (fun ops req =>
      let a := s.localPa (ops.getD 0 0 / 8 * 8)
      if s.region a = .hole then s.answer req 2
      else (s.putWords a ((s.homeWord (a / 8)).val.toNat :: (List.range 610).map (fun k => (Config.freeWord s.tick k).toNat))).answer req 1) ∧
    (∀ v, s.arg 2 = 0x08 ∨ s.arg 2 = 0x0A → s.mem.errOf (s.arg 2) s.act.core (s.arg 0) = none →
      (BitVec.ofNat 64 (pa % 2 ^ 64) : Word) = v → v ≠ 0 → ∃ t, exec .softError s = goes t ∧
        t = { s with mem := { s.mem with errs := t.mem.errs } } ∧
        ({ array := s.arg 2, unit := s.act.core, word := s.arg 0, flips := v } : ArrayErr) ∈ t.mem.errs) ∧
    (s.arg 2 = 0 → let a := s.localPa (s.arg 0 / 8 * 8)
     (s.region a = .hole → exec .softError s = goes s) ∧
     (s.region a = .hbm → s.inTile a = false → (mget 0 s.mem.latent (a / 8)) = 0 → (BitVec.ofNat 64 (pa % 2 ^ 64) : Word) ≠ 0 →
       exec .softError s = goes { s with mem := { s.mem with
         latent := mset s.mem.latent (a / 8) (0 ^^^ BitVec.ofNat 64 (pa % 2 ^ 64)) } }) ∧
     (∀ m off, s.region a = .weights m off → ∃ t, exec .softError s = goes t ∧ t.mem.bytes = s.mem.bytes ∧ t.mem.hallmarks = s.mem.hallmarks ∧
       ((mget 0 s.mem.latent (a / 8) : Word) ^^^ BitVec.ofNat 64 (pa % 2 ^ 64) ≠ 0 → t.mem.latent = mset s.mem.latent (a / 8)
         ((mget 0 s.mem.latent (a / 8) : Word) ^^^ BitVec.ofNat 64 (pa % 2 ^ 64))) ∧
       ((mget 0 s.mem.latent (a / 8) : Word) ^^^ BitVec.ofNat 64 (pa % 2 ^ 64) = 0 → t.mem.latent = mdel s.mem.latent (a / 8))) ∧
     (∀ m k off, s.region a = .accum m k off → ∃ t, exec .softError s = goes t ∧ t.mem.latent = s.mem.latent ∧
       t.mem.bytes = memPutAll s.mem.bytes a (bytesLE 8 ((s.homeWord (a / 8)).val.toNat ^^^ (pa % 2 ^ 64)))) ∧
     (s.region a = .hbm → s.inTile a = true → ∃ t, exec .softError s = goes t ∧
       t.mem.hallmarks = mset s.mem.hallmarks (a / 1024) (s.mem.hallmark (a / 1024)) ∧ t.mem.latent = s.mem.latent ∧
       t.mem.bytes = memPutAll s.mem.bytes a (bytesLE 8 ((s.homeWord (a / 8)).val.toNat ^^^ (pa % 2 ^ 64)))))

/-- R446, R447, R451, R498, R500, R502, R503: bring-up, supply and temperature. COLD_BOOT of a part without power ends at stage 8 with
done set and the control cores started, at stage 6 where the firmware's signatures fail (R453), or at the stage that fails with its
cause; a unit that does not answer, or fails its self-test, is bypassed and counts as retired; loss of
supply, and a millisecond at the trip point, take the power and every memory content with it; below 95 degrees the clock's demand
falls by a step, from 95 on it rises with a warning. -/
def PowerAndBoot : Prop :=
  ∀ (s : State),
    let x := s.arg 0
    let t8 := x % 256
    let u := s.arg 1
    let read : State := { s with dev := { s.dev with tmax := t8, sensor := u % 64 } }
    (s.dev.powered = true → exec .coldBoot s = goes s) ∧
    (s.dev.powered = false → x = 0 → s.dev.ccFailed = [] → s.dev.fuseSites = [] → s.dev.logSites = [] → s.dev.fdom = [] → s.act.args = [] →
      ∃ t, exec .coldBoot s = goes t ∧ t.dev.powered = true ∧ t.mem.bytes = [] ∧ t.launch.live = [] ∧ t.fault.waiting = [] ∧ t.time = 0 ∧
        (s.firmwareOk = false → t.dev.stage = 6 ∧ t.dev.done = false ∧ t.dev.fail = true ∧ t.dev.bootCause = Cause.watchdog ∧ t.cores = []) ∧
        (s.firmwareOk = true → t.dev.stage = 8 ∧ t.dev.done = true ∧ t.dev.retired = [] ∧ t.dev.members = [] ∧
          (∀ n k, n < 1536 → (t.ctxOf n k).live = false) ∧ (t.ctxOf 1536 0).live = true ∧ (t.ctxOf 1536 0).sr 0x020 = 2 ∧
          (∀ k, 1 ≤ k → k < 4 → (t.ctxOf (1536 + k) 0).live = true ∧ (t.ctxOf (1536 + k) 0).sr 0x020 = 1) ∧ (t.ctxOf 1540 0).live = false ∧
          (s.dev.fuseChans = [] → t.creg 0x1030 = 1024 ∧ t.creg 0x1038 = 128))) ∧
    (∀ k, s.dev.powered = false → s.dev.ccFailed = [] → x = k + 1 → k < 8 → ∃ t, exec .coldBoot s = goes t ∧ t.dev.powered = true ∧
      t.dev.done = false ∧ t.dev.fail = true ∧ t.mem.bytes = [] ∧
      (k < 7 ∨ s.firmwareOk = true → t.dev.stage = k ∧ t.dev.bootCause = if k = 7 then Cause.linkDown else stageCause k u) ∧
      (k = 7 → s.firmwareOk = false → t.dev.stage = 6 ∧ t.dev.bootCause = Cause.watchdog)) ∧
    (s.dev.powered = false → s.dev.ccFailed.contains 0 = true → s.dev.ccFailed.contains 4 = true → x = 0 ∨ 3 ≤ x → ∃ t,
      exec .coldBoot s = goes t ∧ t.dev.stage = 2 ∧ t.dev.done = false ∧ t.dev.fail = true ∧ t.dev.bootCause = Cause.watchdog) ∧
    (s.dev.powered = true ∨ s.arg 2 = 1 → exec .chainUnitTimeout s = goes s) ∧
    (s.dev.powered = false → s.arg 2 ≠ 1 → x < 48 → u < 33 → ∃ t, exec .chainUnitTimeout s = goes t ∧ t.dev.bypassed = s.dev.bypassed ++ [(x, u)] ∧
      t.dev.logCores = s.dev.logCores ++ [(x, u)] ∧ t.dev.logSites = s.dev.logSites ∧ t.mem = s.mem) ∧
    (s.dev.powered = false → s.arg 2 ≠ 1 → 48 ≤ x → x < 144 → u < 66 → ∃ t, exec .chainUnitTimeout s = goes t ∧ t.dev.bypassed = s.dev.bypassed ++ [(x, u)] ∧
      t.dev.logCores = s.dev.logCores ∧ t.mem = s.mem) ∧
    (let lost (t : State) : Prop := t.mem = {} ∧ t.cores = [] ∧ t.herds = [] ∧ t.launch = {} ∧ t.fabric = {} ∧ t.dev.powered = false ∧
       t.dev.fuseCores = s.dev.fuseCores ∧ t.dev.fuseSites = s.dev.fuseSites ∧ t.dev.logCores = s.dev.logCores ∧ t.dev.logSites = s.dev.logSites ∧
       t.dev.logHerds = s.dev.logHerds ∧ t.dev.fuseChans = s.dev.fuseChans
     (∃ t, exec .inputUndervoltage s = goes t ∧ lost t ∧ t.dev.alert = true) ∧
     (s.dev.tripped = true → ∃ t, exec .thermalPowerRemoval s = goes t ∧ lost t) ∧
     (s.dev.tripped = false → exec .thermalPowerRemoval s = goes s)) ∧
    (t8 < 95 → exec .thermalStep s = goes { read with dev := { read.dev with demand := s.dev.demand - 1 } }) ∧
    (95 ≤ t8 → t8 < 110 → s.dev.demand < 2 → ∃ t r, exec .thermalStep s = goes t ∧ t.dev.demand = s.dev.demand + 1 ∧ t.dev.alert = true ∧
      t.dev.tmax = t8 ∧ t.fault.waiting = s.fault.waiting ++ [r] ∧ r.cause = Cause.thermalWarn ∧ r.sev = 0 ∧ t.mem = s.mem) ∧
    (95 ≤ t8 → 110 ≤ t8 ∨ 2 ≤ s.dev.demand → exec .thermalStep s = goes read) ∧
    (t8 < 110 → exec .thermalTrip s = goes s) ∧
    (110 ≤ t8 → ∃ t r, exec .thermalTrip s = goes t ∧ t.dev.tripped = true ∧ t.dev.alert = true ∧ t.dev.tmax = t8 ∧
      t.fault.waiting = s.fault.waiting ++ [r] ∧ r.cause = Cause.thermalTrip ∧ r.sev = 3 ∧ t.mem = s.mem)

end Sys2Proof.Claims

/-- R428..R435, R443..R449, R454..R456: retirements, quiescent windows, spares, rails and channels. -/
def Obligations.RetirementEventResults : Prop := RetireRequests ∧ HerdWindow ∧ StripesAndRails ∧ ChannelsAndTables

/-- R362, R446, R447, R451, R454, R458..R463, R484, R498..R503: links, the host, soft errors, power and temperature.
The length of an attestation's report, the boot's operands and the strength of the codes are the model's (log entries 10, 33 and
39). -/
def Obligations.DeviceEventResults : Prop := Links ∧ HostAndErrors ∧ PowerAndBoot

-- The machine as a whole: encodings, the step, memory and reset

/-- R46, R56, R59, R61, R65: words of the specification's own examples, and vector words laid out by R65, decode to the instructions
that they stand for. The top bit of a word is no part of its instruction (R46). -/
def Sys2Proof.Claims.DecodedGlipelWords : Prop :=
  decodeWord 0x07109012 = .ok (.ldref .dev 4 9 2) ∧ decodeWord 0x0814900A = .ok (.stref .dev 5 9 1) ∧
  decodeWord 0x05187005 = .ok (.lda .d .device 6 7 0) ∧ decodeWord 0x090C7202 = .ok (.amoW .add .dev 3 7 8) ∧
  decodeWord 0x0C0C720A = .ok (.casD 3 7 8 10) ∧ decodeWord 0x0F141081 = .ok (.mkobj .mixed 5 1 2) ∧
  decodeWord 0x0D000006 = .ok (.fenceRel .device) ∧ decodeWord 0x0D00000E = .ok (.fenceEng .device) ∧
  decodeWord 0x0E005002 = .ok (.pub .device 5) ∧ decodeWord 0x19049013 = .ok (.send 1 9 3 2) ∧
  decodeWord 0x1A04A002 = .ok (.recv 1 10 2) ∧ decodeWord 0x1A05A085 = .ok (.recvNb 1 26 1 2) ∧
  decodeWord 0x280CC347 = .ok (.joinNew true true 3 12 13) ∧ decodeWord 0x28929A85 = .ok (.joinNew false true 36 41 42) ∧
  decodeWord 0x2A00C000 = .ok (.bar 12) ∧ decodeWord 0x2D10C080 = .ok (.rjtake 4 12 2) ∧
  decodeWord 0x301460C0 = .ok (.spawn 5 6 3) ∧ decodeWord 0x1F000005 = .ok (.sleep 5) ∧
  decodeWord 0x39002022 = .ok (.swr 0x022 2) ∧ decodeWord 0x38100000 = .ok (.srd 4 0) ∧ decodeWord 0x32000000 = .ok .exit ∧
  decodeWord 0x1C020042 = .ok (.rqput 32 2 1) ∧ decodeWord 0x1D800043 = .ok (.rqtake 32 3 1) ∧
  decodeWord 0x1B020005 = .ok (.mbind 32 1 1) ∧ decodeWord 0x3B000000 = .ok .eret ∧
  decodeWord 0x20005180 = .ok (.cpy 5 6) ∧ decodeWord 0x21005181 = .ok (.gathOwn 5 6) ∧ decodeWord 0x22007201 = .ok (.scatAdd 7 8) ∧
  decodeWord 0x23009000 = .ok (.xchg 9 0) ∧ decodeWord 0x2400A2C0 = .ok (.mxc 10 11) ∧
  decodeWord 0x4C285182 = .ok (.cmp (.int .lt) .and 2 5 6) ∧ decodeWord 0xD51C4021 = .ok (.fcvt .s .l 7 4) ∧
  decodeWord 0xC7140048 = .ok (.li 5 72) ∧ decodeWord 0x4138E400 = .ok (.add 14 14 16) ∧ decodeWord 0x412C8019 = .ok (.popc 11 8) ∧
  decodeWord 0x4F452443 = .ok (.sel 17 18 17 3) ∧ decodeWord 0xBF18C000 = .ok (.blk 6 false false true true) ∧
  decodeWord 0x023422A6 = .ok (.ldx .d 13 2 10 4) ∧ decodeWord 0x043C32A6 = .ok (.stx .d 15 3 10 4) ∧
  decodeWord 0x90200006 = .ok (.b 1 false 6) ∧ decodeWord 0x100FFFFA = .ok (.b 0 false (-6)) ∧
  decodeWord 0x60312580 = .ok (.vadd .f32 3 1 2 1) ∧ decodeWord 0x61456003 = .ok (.vfma .dot .i8 4 5 6 0) ∧
  decodeWord 0x67780988 = .ok (.vred .fadd .f32 7 8 2) ∧
  decodeWord 0x28000000 = .ok (.join 0 0) ∧ decodeWord 0x25000000 = .error .opcRsv ∧ decodeWord 0x01000007 = .error .fnRsv ∧
  decodeWord 0x2A00C0C0 = .error .encRsv ∧ decodeWord 0x10100000 = .error .encRsv

/-- R70, R71: words of the specification's own example of a sequencer, and their refusals: a reserved operation, a reserved bit, a size
code of 7. -/
def Sys2Proof.Claims.DecodedSequencerWords : Prop :=
  decodeTableWord 32 0x08000007 = some (.seta 0 7) ∧ decodeTableWord 32 0x21000006 = some (.loopArg 0 6) ∧
  decodeTableWord 32 0x51060000 = some (.brc true 6) ∧ decodeTableWord 32 0x22000000 = some (.loopImm 1 0) ∧
  decodeTableWord 32 0x39B00001 = some (.emitSt 0 3 3 1) ∧ decodeTableWord 32 0x38200002 = some (.emitSt 0 0 2 2) ∧
  decodeTableWord 32 0x2A280000 = some (.endl 1 5) ∧ decodeTableWord 32 0x11000010 = some (.addaImm 0 16) ∧
  decodeTableWord 32 0x88000000 = some .halt ∧ decodeTableWord 32 0x90000000 = none ∧ decodeTableWord 32 0x88000001 = none ∧
  decodeTableWord 32 0x30700000 = none

/-- R46, R56, R59, R61, R65, R70, R71: words of the specification's own examples decode to the instructions that they stand for. -/
def Obligations.DecodedWords : Prop := DecodedGlipelWords ∧ DecodedSequencerWords

/-- R46, R56..R66: what the encoder writes for a well-formed instruction, the decoder reads back as that instruction, with every
operand at every value that the encoding admits and whatever the word's top bit; and the same for the operation codes of elements
and router operators. -/
def Obligations.EncodedInstructionsDecode : Prop :=
  ∀ (i : Instr),
    (i.wellFormed = true → ∀ w, encodeWord i = some w → decodeWord w = .ok i ∧ decodeWord (w ||| 0x80000000) = .ok i) ∧
    (∀ c, encodeElement i = some c → decodeElement c = some i) ∧ (∀ c, encodeRouter i = some c → decodeRouter c = some i)

/-- R70, R71: a sequencer word decodes to an instruction exactly when it is that instruction's encoding: no bit is dropped, and a word
with a reserved bit or a reserved code is none. -/
def Obligations.SequencerWordsRoundTrip : Prop :=
  ∀ (w : BitVec 32) (i : Instr), decodeSeq w = some i ↔ encodeSeq i = some w ∧ i.wellFormed = true

/-- R23, R40..R48, R67, R311: a step whose agenda names an agent runs the instruction that the agent's words decode to: of a context
the lone word at its position, or the pair, M word last and with the registers from before the bundle; of an element or a
router operator the operation of its active plane; of a sequencer the word at its pc; of an event the event itself. Around it the
step counts, lets the time pass, moves the context past its words and makes it the core's last to issue. A context issues only as the
scan of its core has it (R40, R41, R44), with the members of its gang that stand at its word, each as the scan of its own core has it
(R192; which of two gangs goes first whose cores wait for each other is the model's, log entry 72), and word 1 of a lone bundle next after its word 0 (R48); an A word that has to wait leaves the
pair as it was, and an M word that has to wait issues again alone. The registers that the words name are checked as they are read (R362); a bundle whose
bits an uncorrectable error has changed discards the block (log entry 65). -/
def Obligations.StepRunsDecoded : Prop :=
  ∀ (s : State) (n k dt : Nat) (rest : List (Nat × Turn)),
    let begun (s : State) : State := { s with tick := s.tick + 1, agenda := rest, time := s.time + dt }
    (let c := s.ctxOf n k
     let w0 := c.words.getD c.pos 0
     let w1 := c.words.getD (c.pos + 1) 0
     let ends (p : Nat) : Bool := p % 2 == 1 && (wordTop (c.words.getD p 0) || decide (c.words.length ≤ p + 1))
     let lone : Prop := c.pos % 2 = 1 ∨ wordTop w0 = true
     let pair : Prop := c.pos % 2 = 0 ∧ wordTop w0 = false
     s.agenda = (dt, .context n k) :: rest → c.live = true → c.locked = false → c.gang = none → c.phase = .body → c.exit = none →
      c.switchReq = false → c.interrupted (s.time + dt) = false → c.stall = none →
      c.pos < c.words.length → c.parked = false → c.aDone = false → (s.core n).vuq.length < 8 →
      s.mem.errOf 0x0A n (64 * k + c.pos / 2) = none →
      (∀ i, lone → decodeWord w0 = .ok i → (begun s).issuer n = some k → step s = exec i ((begun s).issueAt n k false)) ∧
      (∀ i, s.mem.errs = [] → lone → decodeWord w0 = .ok i → (begun s).issuer n = some k → ∃ u, step s = exec i u ∧
        u.act = { core := n, ctx := k } ∧ u.me = { c with
          cur := c.pos, pos := c.pos + 1, parked := ends c.pos, snap := none
          split := c.pos % 2 == 0
          lastIssue := if c.split = true ∧ c.pos % 2 = 1 then c.lastIssue else some (s.time + dt) } ∧
        u.myCore.lastCtx = k ∧ u.myCore.issuedAt = some (s.time + dt) ∧
        u.mem = s.mem ∧ u.agenda = rest ∧ u.tick = s.tick + 1 ∧ u.time = s.time + dt ∧
        (∀ m j, m ≠ n ∨ j ≠ k → u.ctxOf m j = s.ctxOf m j)) ∧
      (∀ i, lone → decodeWord w0 = .ok i → (begun s).issuer n ≠ some k → step s = .next (begun s)) ∧
      (∀ e, lone → decodeWord w0 = .error e → step s = .fault (.blockWord w0)) ∧
      (∀ m a, pair → decodeWord w0 = .ok m → decodeWord w1 = .ok a → (begun s).issuer n ≠ some k → step s = .next (begun s)) ∧
      (∀ m a, s.mem.errs = [] → pair → decodeWord w0 = .ok m → decodeWord w1 = .ok a → (begun s).issuer n = some k → ∃ u,
        u.me = { c with
          cur := c.pos + 1, pos := c.pos + 2, parked := ends (c.pos + 1), lastIssue := some (s.time + dt), snap := some c.work
          split := false } ∧
        u.act = { core := n, ctx := k } ∧ u.mem = s.mem ∧
        (∀ t, exec a u = .next t → t.me.epoch = c.epoch → t.me.pos = t.me.cur → step s = .next (begun s)) ∧
        (∀ t v, exec a u = .next t → t.me.epoch = c.epoch → t.me.pos ≠ t.me.cur →
          exec m (t.setMe { t.me with cur := t.me.cur - 1 }) = .next v →
          (¬ (v.me.phase = .body ∧ v.me.epoch = c.epoch ∧ v.me.pos = v.me.cur ∧ v.me.exit = none) → step s = .next v) ∧
          (v.me.phase = .body → v.me.epoch = c.epoch → v.me.pos = v.me.cur → v.me.exit = none →
            step s = .next (v.setMe { v.me with aDone := true, snap := some c.work, parked := false }))))) ∧
    (let c := s.ctxOf n k
     ∀ e, s.agenda = (dt, .context n k) :: rest → c.live = true → c.locked = false → c.stall = none → c.gang = none → c.phase = .body →
       s.mem.errOf 0x0A n (64 * k + c.pos / 2) = some e → 2 ≤ popCount 64 e.flips.toNat → ∃ t, step s = .next t ∧
       (t.ctxOf n k).phase = .fetch ∧ (t.ctxOf n k).addr = c.addr ∧ (c.heldWrites = [] → (t.ctxOf n k).arch = c.arch)) ∧
    (∀ i, s.issuer n = some i → s.secondWord n i = false → ∀ m ∈ s.gangOf n i, (s.ctxAct m.1 m.2).issues = true →
      (s.ctxOf n i).pos ≤ (s.ctxOf m.1 m.2).pos ∨ (s.ctxOf m.1 m.2).phase = .fetch) ∧
    (∀ i, s.issuer n = some i → s.secondWord n i = false → ∀ m ∈ s.gangOf n i, (s.ctxAct m.1 m.2).issues = true →
      (s.ctxOf m.1 m.2).pos = (s.ctxOf n i).pos → s.slotOk m.1 m.2 = true ∧ (s.ctxOf m.1 m.2).eligible s.time = true ∧
      (s.core m.1).issuedAt ≠ some s.time ∧ s.scanAt m.1 m.2 = true) ∧
    (∀ i j, s.issuer n = some i → (s.core n).issuedAt ≠ some s.time ∧
      (s.secondWord n j = true → j < (s.core n).nctx → s.secondWord n i = true) ∧
      (s.secondWord n i = true ∨ s.slotOk n i = true ∧ (s.ctxOf n i).gang = none ∧ (s.ctxOf n i).eligible s.time = true ∨
        (s.ctxOf n i).gang ≠ none)) ∧
    (∀ site args i, s.agenda = (dt, .event n k site args i) :: rest →
      step s = exec i { begun s with act := { core := n, ctx := k, site := site, args := args } }) ∧
    (let u := (begun s).flowAll
     let x := u.site n
     let acting : State := { u with act := { site := n } }
     (∀ i, s.agenda = (dt, .element n) :: rest → x.running = true → x.change = none → x.taken ≠ [] → x.elem.words ≠ 0 →
       decodeElement x.op = some i → step s = exec i acting) ∧
     (∀ i, s.agenda = (dt, .router n) :: rest → x.running = true → decodeRouter (x.plane.bits 91 90) = some i → step s = exec i acting) ∧
     (s.agenda = (dt, .sequencer n) :: rest → x.running = true → x.seq.fence = none → x.seq.mode = .run →
       let w := x.plane.seq.getD (x.seq.r.pc % 64) 0
       (∀ i, decodeSeq w = some i → step s = exec i acting) ∧ (decodeSeq w = none → step s = .fault (.seqWord w))))

/-- The model's own invariant (log entry 4): every step keeps memory in its canonical form, addresses strictly rising and no entry
that an unlisted address reads as. -/
def Obligations.StepKeepsMemoryForm : Prop :=
  ∀ (s t : State), s.memWf → step s = .next t → t.memWf

/-- The state right after reset: unpowered, with no thread, no launch, no configuration and no record; memory lists nothing, and its
form is canonical; every register that R34..R36 names has its reset value (s.status.ie 1, s.vhtol 14) or, where the manual gives no
value, zero (log entries 4 and 5). -/
def Obligations.ResetState : Prop :=
  let s := State.reset
  s.memWf ∧ s.mem.bytes = [] ∧ s.mem.tags = [] ∧ s.mem.poison = [] ∧ s.dev.powered = false ∧ s.time = 0 ∧
  s.launch.live = [] ∧ s.launch.threads = [] ∧ s.fabric.placed = [] ∧ s.fault.waiting = [] ∧ s.fault.posted = [] ∧
  (∀ n k, (s.ctxOf n k).live = false ∧ (∀ r, (s.ctxOf n k).arch.getG r = {}) ∧ (∀ r, (s.ctxOf n k).arch.getV r = 0) ∧
    (∀ r, (s.ctxOf n k).arch.getK r = 0xFFFF) ∧ (s.ctxOf n k).arch.p = 1 ∧
    (s.ctxOf n k).sr 0x020 = 4 ∧ (s.ctxOf n k).sr 0x085 = 14 ∧ (∀ r, r ≠ 0x020 → r ≠ 0x085 → (s.ctxOf n k).sr r = 0) ∧
    (s.core n).pmode = false ∧ (s.core n).escres = 0 ∧ (s.core n).vshare = 64) ∧
  (∀ q, (s.launch.queues.length = 0) ∧ mget ({} : LaunchQueue) s.launch.queues q = {})
end

