-- ==== Sys2Proof/Safety.lean ====
section
/-!
DEFINITION. What a safe step is: one that answers a next state, with no fault and no refusal.
-/

namespace Sys2Proof

/-- The step answers a next state. -/
def goesOn {σ φ ρ : Type} : Host.Outcome σ φ ρ → Bool
  | .next _ => true
  | .fault _ => false
  | .refused _ => false

/-- A state whose next step goes on. -/
def SafeStep (s : Machine.State) : Prop := goesOn (Machine.step s) = true

end Sys2Proof
end

