-- ==== Sys2Proof/Tests/Slice0.lean ====
section
/-!
SUPPORT. Tests: words of every encoding decode to their instructions, ill-formed terms and reserved words are refused, a concrete
state meets the hypotheses of each statement (test_hyps_…, named after the part of Obligations.lean that it serves), a few single
steps, and values of the specification's worked examples.
-/

namespace Sys2Proof.Tests
open Sys2Proof.Machine Sys2Proof.Claims
set_option Elab.async false

/-- Every word of the list decodes to the instruction beside it. -/
def decodesTo (l : List (BitVec 32 × Instr)) : Bool := l.all (fun e => (decodeWord e.1).toOption == some e.2)
/-- The same of sequencer words. -/
def decodesSeq (l : List (BitVec 32 × Instr)) : Bool := l.all (fun e => decodeTableWord 32 e.1.toNat == some e.2)
/-- The same of element operation codes. -/
def decodesElement (l : List (Nat × Instr)) : Bool := l.all (fun e => decodeElement e.1 == some e.2)

/-- R56, R59: words of every M-class major. -/
theorem test_decode_m_class_1 : decodesTo [
    (0x00000000, .nop), (0x010C4028, .ld .b 3 4 (5)), (0x010C4019, .ld .bz 3 4 (3)), (0x010C400A, .ld .h 3 4 (1)),
    (0x010C4FFB, .ld .hz 3 4 (-1)), (0x010C4FEC, .ld .w 3 4 (-3)), (0x010C4FDD, .ld .wz 3 4 (-5)),
    (0x010C4FCE, .ld .d 3 4 (-7)), (0x020C4172, .ldx .h 3 4 5 6), (0x030C4FC8, .st .b 3 4 (-7)),
    (0x030C4FCA, .st .h 3 4 (-7)), (0x030C4FCC, .st .w 3 4 (-7)), (0x030C4FCE, .st .d 3 4 (-7)),
    (0x040C414C, .stx .w 3 4 5 1), (0x050C404A, .lda .w .herd 3 4 9), (0x060C404F, .stl .d .system 3 4 9),
    (0x070C4008, .ldref .rlx 3 4 1), (0x070C4009, .ldref .herd 3 4 1), (0x070C400A, .ldref .dev 3 4 1),
    (0x070C400B, .ldref .sys 3 4 1), (0x080C47FB, .stref .sys 3 4 255), (0x090C4140, .amoW .add .rlx 3 4 5),
    (0x090C4145, .amoW .and .herd 3 4 5), (0x090C414A, .amoW .or .dev 3 4 5), (0x090C414F, .amoW .xor .sys 3 4 5),
    (0x090C4150, .amoW .smin .rlx 3 4 5), (0x090C4155, .amoW .smax .herd 3 4 5), (0x090C415A, .amoW .umin .dev 3 4 5),
    (0x090C415F, .amoW .umax .sys 3 4 5), (0x090C4160, .amoW .swap .rlx 3 4 5), (0x090C4165, .amoW .faddS .herd 3 4 5),
    (0x090C416A, .amoW .faddBf2 .dev 3 4 5), (0x0A0C4161, .amoD .swap .herd 3 4 5), (0x0B0C4146, .casW 3 4 5 6),
    (0x0C0C4146, .casD 3 4 5 6), (0x0D000001, .fenceFull .herd), (0x0D000006, .fenceRel .device),
    (0x0D00000B, .fenceAcq .system), (0x0D00000C, .fenceEng .core), (0x0E007001, .pub .herd 7),
    (0x0F0C4142, .mkobj .tensor 3 4 5), (0x10BFFFFD, .b 5 true (-3)), (0x1100000C, .call 12), (0x12009000, .jr 9),
    (0x12009001, .callr 9), (0x12000002, .ret), (0x13009200, .cflush 9 8), (0x13009201, .cflushInv 9 8),
    (0x14AC4FF9, .vld true 11 2 4 (-1)), (0x156C4FF8, .vst 11 1 4 (-1)), (0x16DC4140, .vlds false 7 3 4 5),
    (0x17DC434A, .vgth true 7 3 4 13 2), (0x181C4347, .vsct 7 0 4 13 7), (0x1928400F, .send 10 4 7 1),
    (0x1A284003, .recv 10 4 3), (0x1A284187, .recvNb 10 4 3 6), (0x1B00400E, .mbind 4 2 3), (0x1C004183, .rqput 4 3 6),
    (0x1D100183, .rqtake 4 3 6), (0x1EF00000, .waitev 60)] = true := by decide +kernel

/-- R56, R59: words of every M-class major. -/
theorem test_decode_m_class_2 : decodesTo [
    (0x1EF00081, .waitevNb 60 2), (0x1F000009, .sleep 9), (0x20021880, .cpy 33 34), (0x21021880, .gath 33 34),
    (0x22021880, .scat 33 34), (0x23021880, .xchg 33 34), (0x24021880, .mxc 33 34), (0x21021881, .gathOwn 33 34),
    (0x22021881, .scatAdd 33 34), (0x280C4000, .join 3 4), (0x280C4143, .joinNew true false 3 4 5), (0x29004000, .leave 4),
    (0x2A004000, .bar 4), (0x2A004001, .barArr 4), (0x2A004002, .barWait 4), (0x2B004000, .couple 4),
    (0x2B004001, .coupleRe 4), (0x2C004146, .rjput 4 5 6), (0x2DF84180, .rjtake 62 4 6), (0x300C4180, .spawn 3 4 6),
    (0x31E00007, .reply 56 7), (0x32000000, .exit), (0x380C03FF, .srd 3 0x3FF), (0x39004025, .swr 0x25 4),
    (0x3A000FFF, .trap 0xFFF), (0x3B000000, .eret), (0x3C000001, .repart true), (0x3D004140, .tlbinvPage 4 5),
    (0x3D000141, .tlbinvAsid 5), (0x3D000002, .tlbinvAll), (0x3E0C4000, .retag 3 4),
    (0x3F268000, .blk 9 true false true false)] = true := by decide +kernel

/-- R56, R61, R63, R64: words of every A-class major but the vector ones. -/
theorem test_decode_a_class_1 : decodesTo [
    (0x40000000, .nopA), (0x41FC1080, .add 63 1 2), (0x41FC1081, .sub 63 1 2), (0x41FC1082, .and 63 1 2),
    (0x41FC1083, .or 63 1 2), (0x41FC1084, .xor 63 1 2), (0x41FC1085, .andn 63 1 2), (0x41FC1086, .orn 63 1 2),
    (0x41FC1087, .sll 63 1 2), (0x41FC1088, .srl 63 1 2), (0x41FC1089, .sra 63 1 2), (0x41FC108A, .rol 63 1 2),
    (0x41FC108B, .ror 63 1 2), (0x41FC108C, .mul 63 1 2), (0x41FC108D, .mulh 63 1 2), (0x41FC108E, .mulhu 63 1 2),
    (0x41FC108F, .div 63 1 2), (0x41FC1090, .divu 63 1 2), (0x41FC1091, .rem 63 1 2), (0x41FC1092, .remu 63 1 2),
    (0x41FC1093, .min 63 1 2), (0x41FC1094, .max 63 1 2), (0x41FC1095, .minu 63 1 2), (0x41FC1096, .maxu 63 1 2),
    (0x41FC1017, .clz 63 1), (0x41FC1018, .ctz 63 1), (0x41FC1019, .popc 63 1), (0x41FC101A, .bswap 63 1),
    (0x41FC109B, .addw 63 1 2), (0x41FC109C, .subw 63 1 2), (0x41FC109D, .mulw 63 1 2), (0x41FC109E, .sllw 63 1 2),
    (0x41FC109F, .srlw 63 1 2), (0x41FC10A0, .sraw 63 1 2), (0x41FC1021, .mov 63 1), (0x41FC10A2, .hash64 63 1 2),
    (0x41FC10A3, .crc32c 63 1 2), (0x420C4801, .addi 3 4 0x801), (0x430C4802, .andi 3 4 0x802), (0x440C4803, .ori 3 4 0x803),
    (0x450C4804, .xori 3 4 0x804), (0x460C401F, .slli 3 4 31), (0x460C405F, .srli 3 4 31), (0x460C409F, .srai 3 4 31),
    (0x460C40DF, .roli 3 4 31), (0x460C411F, .rori 3 4 31), (0x460C415F, .sllwi 3 4 31), (0x460C419F, .srlwi 3 4 31),
    (0x460C41DF, .srawi 3 4 31), (0x470E0001, .li 3 0x20001), (0x480FFFFF, .liu 3 0x3FFFF), (0x490C4147, .scadd 3 4 5 7),
    (0x4A0C4FC0, .bfx 3 4 0 63), (0x4B0C4276, .bfi 3 4 54 9), (0x4C1C4140, .cmp (.int .eq) .set 7 4 5),
    (0x4C3C4141, .cmp (.int .ne) .and 7 4 5), (0x4C5C4142, .cmp (.int .lt) .or 7 4 5),
    (0x4C1C4143, .cmp (.int .ge) .set 7 4 5), (0x4C3C4144, .cmp (.int .ltu) .and 7 4 5),
    (0x4C5C4145, .cmp (.int .geu) .or 7 4 5)] = true := by decide +kernel

/-- R56, R61, R63, R64: words of every A-class major but the vector ones. -/
theorem test_decode_a_class_2 : decodesTo [
    (0x4C044148, .cmp (.single .feq) .set 1 4 5), (0x4C04414C, .cmp (.double .feq) .set 1 4 5),
    (0x4C044149, .cmp (.single .flt) .set 1 4 5), (0x4C04414D, .cmp (.double .flt) .set 1 4 5),
    (0x4C04414A, .cmp (.single .fle) .set 1 4 5), (0x4C04414E, .cmp (.double .fle) .set 1 4 5),
    (0x4C04414B, .cmp (.single .fun_) .set 1 4 5), (0x4C04414F, .cmp (.double .fun_) .set 1 4 5),
    (0x4D444805, .cmpi .geu .or 1 4 0x100), (0x4E0420C0, .pand 1 2 3), (0x4E0420C1, .por 1 2 3), (0x4E0420C2, .pxor 1 2 3),
    (0x4E0420C3, .pandn 1 2 3), (0x4E042004, .pnot 1 2), (0x4E240005, .ppack 9), (0x4E009006, .punpack 9),
    (0x4E049007, .isref 1 9), (0x4F0C4146, .sel 3 4 5 6), (0x500C4140, .faddS 3 4 5), (0x500C4141, .fsubS 3 4 5),
    (0x500C4142, .fmulS 3 4 5), (0x500C4143, .fdivS 3 4 5), (0x500C4004, .fsqrtS 3 4), (0x500C4145, .fminS 3 4 5),
    (0x500C4146, .fmaxS 3 4 5), (0x500C4007, .fabsS 3 4), (0x500C4008, .fnegS 3 4), (0x500C4150, .faddD 3 4 5),
    (0x500C4151, .fsubD 3 4 5), (0x500C4152, .fmulD 3 4 5), (0x500C4153, .fdivD 3 4 5), (0x500C4014, .fsqrtD 3 4),
    (0x500C4155, .fminD 3 4 5), (0x500C4156, .fmaxD 3 4 5), (0x500C4017, .fabsD 3 4), (0x500C4018, .fnegD 3 4),
    (0x510C4146, .fmaS 3 4 5 6), (0x520C4146, .fmsS 3 4 5 6), (0x530C4146, .fmaD 3 4 5 6), (0x540C4146, .fmsD 3 4 5 6),
    (0x550C4020, .fcvt .d .l 3 4), (0x550C4001, .fcvt .s .d 3 4), (0x550C401D, .fcvt .lu .h 3 4),
    (0x550C400A, .fcvt .bf .s 3 4), (0x550C4014, .fcvt .l .bf 3 4),
    (0x550C402B, .fcvt .h .lu 3 4)] = true := by decide +kernel

/-- R65, R227..R240: words of every vector major. -/
theorem test_decode_vector_1 : decodesTo [
    (0x60F12C00, .vadd .i8 15 1 2 3), (0x60F12C81, .vsub .i16 15 1 2 3), (0x60F12D02, .vmul .i32 15 1 2 3),
    (0x60F12C03, .vmin .i8 15 1 2 3), (0x60F12C84, .vmax .i16 15 1 2 3), (0x60F12D05, .vminu .i32 15 1 2 3),
    (0x60F12C06, .vmaxu .i8 15 1 2 3), (0x60F12C87, .vadds .i16 15 1 2 3), (0x60F12D08, .vsubs .i32 15 1 2 3),
    (0x60F12C09, .vaddus .i8 15 1 2 3), (0x60F12C8A, .vsubus .i16 15 1 2 3), (0x60F12D0B, .vavg .i32 15 1 2 3),
    (0x60F12C0C, .vmulh .i8 15 1 2 3), (0x60F12C8D, .vand .i16 15 1 2 3), (0x60F12D0E, .vor .i32 15 1 2 3),
    (0x60F12C0F, .vxor .i8 15 1 2 3), (0x60F12C90, .vandn .i16 15 1 2 3), (0x60F12D11, .vshl .i32 15 1 2 3),
    (0x60F12C12, .vshr .i8 15 1 2 3), (0x60F12C93, .vsar .i16 15 1 2 3), (0x60F10E14, .vabs .bf16 15 1 3),
    (0x60F10E15, .vneg .bf16 15 1 3), (0x60F12E96, .vdiv .f16 15 1 2 3), (0x60F10D97, .vrcp .f32 15 1 3),
    (0x60F10D98, .vrsq .f32 15 1 3), (0x60F10D99, .vsqrt .f32 15 1 3), (0x60F10D9A, .vexp2 .f32 15 1 3),
    (0x60F10D9B, .vlog2 .f32 15 1 3), (0x60F10D9C, .vtanh .f32 15 1 3), (0x60F10C1D, .vpopc .i8 15 1 3),
    (0x60F10C1E, .vclz .i8 15 1 3), (0x61456600, .vfma .fma .bf16 4 5 6 1), (0x61456601, .vfma .fms .bf16 4 5 6 1),
    (0x61456602, .vfma .fnma .bf16 4 5 6 1), (0x61456603, .vfma .dot .bf16 4 5 6 1),
    (0x62356480, .vcmp .eq false .i16 3 5 6 1), (0x623564C1, .vcmp .ne true .i16 3 5 6 1),
    (0x62356482, .vcmp .lt false .i16 3 5 6 1), (0x623564C3, .vcmp .le true .i16 3 5 6 1),
    (0x62356484, .vcmp .ltu false .i16 3 5 6 1), (0x623564C5, .vcmp .leu true .i16 3 5 6 1),
    (0x62356588, .vcmp .feq false .f32 3 5 6 1), (0x62356589, .vcmp .flt false .f32 3 5 6 1),
    (0x6235658A, .vcmp .fle false .f32 3 5 6 1), (0x6235658B, .vcmp .fun_ false .f32 3 5 6 1), (0x63456800, .vsel 4 5 6 2),
    (0x64453803, .vcvt .f32 .i8 4 5 3 2), (0x6445181C, .vcvt .bf16 .f32 4 5 1 2), (0x65456182, .vqnt .bx6e3 .f32 4 5 6),
    (0x6645058D, .vdq .bxi8 .f32 true 4 5 1), (0x67450500, .vred .add .i32 4 5 1), (0x67450501, .vred .min .i32 4 5 1),
    (0x67450502, .vred .max .i32 4 5 1), (0x67450503, .vred .minu .i32 4 5 1), (0x67450504, .vred .maxu .i32 4 5 1),
    (0x67450505, .vred .and .i32 4 5 1), (0x67450506, .vred .or .i32 4 5 1), (0x67450507, .vred .xor .i32 4 5 1),
    (0x67450688, .vred .fadd .f16 4 5 1), (0x67450689, .vred .fmin .f16 4 5 1)] = true := by decide +kernel

/-- R65, R227..R240: words of every vector major. -/
theorem test_decode_vector_2 : decodesTo [
    (0x6745068A, .vred .fmax .f16 4 5 1), (0x68450400, .vscan .add .i8 4 5 1), (0x68450401, .vscan .max .i8 4 5 1),
    (0x68450402, .vscan .min .i8 4 5 1), (0x68450403, .vscan .maxu .i8 4 5 1), (0x68450404, .vscan .minu .i8 4 5 1),
    (0x68450585, .vscan .fadd .f32 4 5 1), (0x68450586, .vscan .fmax .f32 4 5 1), (0x68450587, .vscan .fmin .f32 4 5 1),
    (0x69456580, .vperm false .f32 4 5 6 1), (0x69456581, .vperm true .f32 4 5 6 1),
    (0x6A456580, .vshuf .zlo 0 .f32 4 5 6 1), (0x6A456581, .vshuf .zhi 0 .f32 4 5 6 1),
    (0x6A456582, .vshuf .uev 0 .f32 4 5 6 1), (0x6A456583, .vshuf .uod 0 .f32 4 5 6 1),
    (0x6A450584, .vshuf .rev 0 .f32 4 5 0 1), (0x6A4505FD, .vshuf .rotl 15 .f32 4 5 0 1), (0x6B45043F, .vbcast .i8 4 5 63 1),
    (0x6B409440, .vbcastG .i8 4 9 1), (0x6C5090DF, .vmovg .i16 true 9 5 31), (0x6D40918F, .vins .f32 4 9 15),
    (0x6E450500, .vcmprC .i32 4 5 1), (0x6E450501, .vcmprE .i32 4 5 1), (0x6F123000, .vmaskAnd 1 2 3),
    (0x6F123001, .vmaskOr 1 2 3), (0x6F123002, .vmaskXor 1 2 3), (0x6F123003, .vmaskAndn 1 2 3), (0x6F120004, .vmaskNot 1 2),
    (0x6F128005, .vmaskFromg 1 40), (0x6F228006, .vmaskTog 40 2), (0x6F228007, .vmaskPop 40 2),
    (0x6F228008, .vmaskFirst 40 2)] = true := by decide +kernel

/-- R70: a word of every sequencer operation. -/
theorem test_decode_sequencer : decodesSeq [
    (0x00000000, .seqNop), (0x0C00ABCD, .seta 2 0xABCD), (0x14400000, .addaReg 2 1), (0x173FFFF0, .addaImm 3 0x3FFFF0),
    (0x1BFFFFFF, .sets 1 0x1FFFFFF), (0x26123456, .loopImm 3 0x123456), (0x27000007, .loopArg 3 7), (0x2D480000, .endl 2 41),
    (0x33608000, .emitLd 1 2 6 0x8000), (0x3B500003, .emitSt 1 2 5 3), (0x434F8000, .emitGth 1 2 4 3 7),
    (0x4B4F0000, .emitSct 1 2 4 3 6), (0x513F0000, .brc true 63), (0x5E000000, .waitc 3), (0x67000000, .signal 3 true),
    (0x68000000, .seqFence), (0x74800000, .eor 9), (0x7F000000, .seqSync 3 2), (0x84E00000, .setf 0x13 2),
    (0x84E80000, .setfIn 0x13 2), (0x88000000, .halt)] = true := by decide +kernel

/-- R284..R306, R323, R327: the operation codes of elements. -/
theorem test_decode_element_1 : decodesElement [
    (0x01, .feAdd), (0x02, .feSub), (0x03, .feMul), (0x04, .feFma), (0x05, .feFms), (0x06, .feMin), (0x07, .feMax),
    (0x08, .feAbs), (0x09, .feNeg), (0x0A, .feDiv), (0x0B, .feRcp), (0x0C, .feRsq), (0x0D, .feSqrt), (0x0E, .feExp2),
    (0x0F, .feLog2), (0x10, .feTanh), (0x11, .feAdds), (0x12, .feSubs), (0x13, .feAvg), (0x14, .feMulh), (0x20, .feCmpeq),
    (0x21, .feCmpne), (0x22, .feCmplt), (0x23, .feCmple), (0x24, .feAnd), (0x25, .feOr), (0x26, .feXor), (0x27, .feNot),
    (0x28, .feSel), (0x29, .feShl), (0x2A, .feShr), (0x2B, .feSar), (0x2C, .fePopc), (0x2D, .feClz), (0x30, .feCvt),
    (0x31, .feSround), (0x32, .feQmax), (0x33, .feQcvt), (0x34, .feDq), (0x40, .feRsum), (0x41, .feRmax), (0x42, .feRmin),
    (0x43, .feAcc), (0x44, .feScan), (0x50, .feBcast), (0x51, .feShuf), (0x52, .fePack), (0x53, .feUnpack), (0x54, .feDelay),
    (0x55, .feCturn), (0x56, .feRepl), (0x57, .feIota), (0x58, .feConst), (0x59, .feZip), (0x5A, .feSplit), (0x60, .feEsc),
    (0x61, .feSync), (0x62, .feFence), (0x63, .feCmpk), (0x64, .feHash)] = true := by decide +kernel

/-- R284..R306, R323, R327: the operation codes of elements. -/
theorem test_decode_element_2 : decodesElement [
    (0x65, .feSrc), (0x66, .feSink), (0x85, .mtProbe), (0x90, .mxLoadb), (0x91, .mxMm), (0x92, .mxDrain),
    (0x93, .mxMsg)] = true := by decide +kernel

/-- An ill-formed term for each check of WellFormed, refused (R52, R57, R59, R61, R65, R70, R227..R240). -/
theorem test_ill_formed : ([.amoD .faddS .rlx 1 2 3, .pub .core 1, .b 0 true 4, .send 60 1 4 0, .recv 57 1 0, .recv 8 12 0,
    .recvNb 57 1 0 1, .recvNb 8 15 0 1, .waitev 61, .waitevNb 61 1, .sleep 0, .joinNew false false 1 2 3, .rjtake 63 1 1, .reply 60 4,
    .sllwi 1 2 32, .srlwi 1 2 32, .srawi 1 2 63, .bfx 1 2 63 1, .bfi 1 2 1 63, .fcvt .s .s 1 2, .fcvt .l .lu 1 2,
    .vminu .f32 1 2 3 0, .vmaxu .f32 1 2 3 0, .vadds .bf16 1 2 3 0, .vsubs .f16 1 2 3 0, .vaddus .f32 1 2 3 0, .vsubus .f32 1 2 3 0,
    .vavg .f32 1 2 3 0, .vmulh .f32 1 2 3 0, .vand .f32 1 2 3 0, .vor .f32 1 2 3 0, .vxor .f32 1 2 3 0, .vandn .f32 1 2 3 0,
    .vshl .f32 1 2 3 0, .vshr .f32 1 2 3 0, .vsar .f32 1 2 3 0, .vdiv .i8 1 2 3 0, .vrcp .i8 1 2 0, .vrsq .i16 1 2 0, .vsqrt .i32 1 2 0,
    .vexp2 .i8 1 2 0, .vlog2 .i8 1 2 0, .vtanh .i8 1 2 0, .vpopc .f32 1 2 0, .vclz .f32 1 2 0, .vfma .dot .i32 1 2 3 0,
    .vfma .dot .f32 1 2 3 0, .vcmp .eq false .f32 1 2 3 0, .vcmp .feq false .i8 1 2 3 0, .vcmp .eq true .i32 1 2 3 0, .vcvt .i8 .i8 1 2 0 0,
    .vcvt .f32 .i8 1 2 4 0, .vqnt .bx4 .i8 1 2 0, .vqnt .bx4 .bf16 1 2 3, .vdq .bx4 .i8 false 1 2 0, .vdq .bx4 .f16 true 1 2 0,
    .vred .fadd .i8 1 2 0, .vscan .add .f32 1 2 0, .vshuf .zlo 1 .i8 1 2 3 0, .vshuf .rev 0 .i8 1 2 3 0, .vbcast .i32 1 2 16 0,
    .vmovg .i16 false 1 2 32, .vmovg .f32 true 1 2 0, .vins .i16 1 2 32, .emitLd 0 0 7 0, .emitSt 0 0 7 0, .emitGth 0 0 7 0 0,
    .emitSct 0 0 7 0 0] : List Instr).all (fun i => !i.wellFormed) = true := by decide +kernel

/-- R46, R57, R59..R62: words that the decoder refuses, by the cause that the map names. -/
theorem test_decode_refused : ([(0x25000000, .opcRsv), (0x56000000, .opcRsv), (0x70000000, .opcRsv), (0x01000007, .fnRsv), (0x03000001, .fnRsv),
    (0x0E005000, .fnRsv), (0x1F000000, .fnRsv), (0x28000001, .fnRsv), (0x2A00C003, .fnRsv), (0x41000024, .fnRsv), (0x46000200, .fnRsv),
    (0x60000300, .fnRsv), (0x00000001, .encRsv), (0x10100000, .encRsv), (0x460001A0, .encRsv), (0x4A00003F + 0x40, .encRsv), (0x1E000040, .encRsv)]
    : List (BitVec 32 × DecodeError)).all (fun e => match decodeWord e.1 with
      | .ok _ => false
      | .error x => x == e.2) = true := by decide +kernel

-- Small states that meet the hypotheses of the statements

/-- The pages of address space 0: addresses 0 to 2^30 − 1 are core 0's scratch and what follows it, with every right, by one leaf
of level 1 (R364, R365). -/
def pages : List Host.Cell :=
  [(0x80000000000, 0x01), (0x80000000001, 0x10), (0x80000000005, 0x08), (0x80000001000, 0x3F), (0x80000001005, 0x08)]

/-- A context at S that stands in a block of four words, with g1 = 0x2000, g2 = 0x2001, g3 = 64 and g4 = 7. -/
def ctxS : Context :=
  { live := true, handle := 0x100001, phase := .body, addr := 0x4000, words := [0, 0, 0, 0], pos := 2, cur := 1
    sreg := [(0x020, 1), (0x060, 0x80000000000)]
    arch := { g := [(1, { val := 0x2000 }), (2, { val := 0x2001 }), (3, { val := 64 }), (4, { val := 7 })] }
    work := { g := [(1, { val := 0x2000 }), (2, { val := 0x2001 }), (3, { val := 64 }), (4, { val := 7 })] } }

/-- The part with one context, on core 0. -/
def oneCtx (c : Context) : State := { cores := [(0, { ctxs := [(0, c)] })], mem := { bytes := pages } }

/-- The part with that context holding exposed instruction i. -/
def holds (i : Instr) (c : Context := ctxS) : State := oneCtx { c with phase := .exposed i }

/-- A check that passes, with a property of its outcome; a check that fails, with its cause. -/
def passes {α : Type} (c : Chk α) (p : State → α → Bool := fun _ _ => true) : Bool := match c with
  | .ok s x => p s x
  | _ => false
def fails {α : Type} (c : Chk α) (cause : Nat) : Bool := match c with
  | .fault _ k _ _ => k == cause
  | _ => false

/-- Held, as a test. -/
def isHeld (s : State) (i : Instr) : Bool := s.me.phase == .exposed i && s.me.awaitWalks == []

-- R126: a divisor that is not zero, a zero divisor without the enable, and one with it
theorem test_hyps_DivisionResults : (oneCtx ctxS).me.rg 4 ≠ 0 ∧ (oneCtx ctxS).me.rg 0 = 0 ∧ (oneCtx ctxS).me.arch.fcsr.getLsbD 15 = false ∧
    (oneCtx { ctxS with arch := { fcsr := 0x8000 } }).me.rg 0 = 0 ∧
    (oneCtx { ctxS with arch := { fcsr := 0x8000 } }).me.arch.fcsr.getLsbD 15 = true := by decide +kernel

-- R130, R133: the last amount of a w kind, and the widest and the highest field
theorem test_hyps_ImmediateResults : (31 : BitVec 6).toNat < 32 ∧ (63 : BitVec 6).toNat + ((0 : BitVec 6).toNat + 1) ≤ 64 ∧
    (0 : BitVec 6).toNat + ((63 : BitVec 6).toNat + 1) ≤ 64 := by decide

-- R135: a signalling NaN under an enabled nv, and the same without the enable
theorem test_hyps_PredicateAndCompareResults :
    let s (f : Word) : State := oneCtx { ctxS with arch := { fcsr := f }, work := { g := [(1, { val := 0x7F800001 })] } }
    ((s 0x2000).opS 1).isNan = true ∧ ((s 0x2000).opS 1).sigFlag = nvFlag ∧ (s 0x2000).me.arch.fcsr.getLsbD 13 = true ∧
    ((s 0).opS 1).isNan = true ∧ (s 0).me.arch.fcsr.getLsbD 13 = false := by decide +kernel

-- R138: a division by zero with dz enabled, and not
theorem test_hyps_FloatResults :
    (fp32.fdiv {} (.fin false 1 0) (.fin false 0 0)).flags &&& (0x400 / 2 ^ 9 % 32) = 0 ∧
    (fp32.fdiv {} (.fin false 1 0) (.fin false 0 0)).flags &&& (0x1000 / 2 ^ 9 % 32) ≠ 0 := by decide +kernel

-- R94: 1/2 + 2^-12 in FP16, toward zero
theorem test_hyps_FloatRounding : fp16 ∈ [fp64, fp32, bf16, fp16] ∧ (2049 : Nat) ≠ 0 ∧
    (fp16.round { rm := 1, ftz := false, sat := false, draw := 0 } false 2049 (-12) false).flags &&& ofFlag = 0 ∧
    (FVal.nan false).isNan = true := by
  refine ⟨by simp, by decide, by decide +kernel, rfl⟩

theorem test_hyps_VectorIntegerResults : floatOf .i8 = none ∧ floatOf .i32 = none := by decide
theorem test_hyps_VectorFloatResults : floatOf .f32 = some fp32 ∧ floatOf .bf16 = some bf16 ∧ bf16.width = 16 ∧ floatOf .i16 = none ∧
    width .i16 ≠ 32 := ⟨rfl, rfl, rfl, rfl, by decide⟩
theorem test_hyps_VectorCompareResults : floatOf .f16 = some fp16 := rfl
-- R238: the last index of a byte and of a word
theorem test_hyps_VectorMoveAndMaskResults : (63 : BitVec 6).toNat < 512 / width .i8 ∧ (15 : BitVec 6).toNat < 512 / width .f32 := by decide
-- R231: the last part of each direction
theorem test_hyps_VectorConversionResults : vfBits .i8 ≤ vfBits .f32 ∧ (3 : BitVec 4).toNat < vfBits .f32 / vfBits .i8 ∧
    vfBits .e4m3 < vfBits .f16 ∧ (1 : BitVec 4).toNat < vfBits .f16 / vfBits .e4m3 ∧ floatOf .f32 = some fp32 :=
  ⟨by decide, by decide, by decide, by decide, rfl⟩
theorem test_hyps_VectorReductionResults : floatOf .i8 = none ∧ floatOf .f16 = some fp16 := ⟨rfl, rfl⟩

/-- The request of a load of n bytes, and of a store, at a register's address. -/
def loadAt (s : State) (a : RegNo) (n : Nat) : AccessReq := loadOf (s.me.rgt a) (ea (s.me.rg a) 0 n) n
def storeAt (s : State) (a : RegNo) (n : Nat) : AccessReq := storeOf (s.me.rgt a) (ea (s.me.rg a) 0 n) n

/-- The pages with side effects (R157). -/
def sidePages : List Host.Cell :=
  [(0x80000000000, 0x01), (0x80000000001, 0x10), (0x80000000005, 0x08), (0x80000001000, 0x3F), (0x80000001001, 0x04), (0x80000001005, 0x08)]

-- R147, R151, R157: a load that passes, one that is misaligned, and one from a side-effect page in a block that is not exposed
theorem test_hyps_LoadResults : (oneCtx ctxS).me.phase ≠ .exposed (.ld .d 5 1 0) ∧
    passes ((oneCtx ctxS).checkAccess (oneCtx ctxS).party (loadAt (oneCtx ctxS) 1 8)) (fun t a => !a.sideEffect && !(t.me.atLast && t.me.headerX)) = true ∧
    fails ((oneCtx ctxS).checkAccess (oneCtx ctxS).party (loadAt (oneCtx ctxS) 2 8)) (memCause .align .load) = true ∧
    (let s : State := { oneCtx ctxS with mem := { bytes := sidePages } }
     passes (s.checkAccess s.party (loadAt s 1 8)) (fun t a => a.sideEffect && !(t.me.atLast && t.me.headerX)) &&
     (let e : State := { holds (.ld .d 5 1 0) with mem := { bytes := sidePages } }
      isHeld e (.ld .d 5 1 0) && passes ((resumed e).heldAccess (loadAt e 1 8)))) = true := by decide +kernel

-- R24: a plain load last in a block with x set
theorem test_hyps_LoadResults_exposedLast :
    (let s := oneCtx { ctxS with words := [0xBF02C000, 0], pos := 2, cur := 1 }
     passes (s.checkAccess s.party (loadAt s 1 8)) (fun t a => !a.sideEffect && t.me.atLast && t.me.headerX)) = true := by decide +kernel

-- R25, R154: the last byte of a word of a scratch that nothing holds
theorem test_hyps_LoadBindsYoungest : Stored (oneCtx ctxS) 0x10000000401 ∧ mfind (oneCtx ctxS).mem.latent 0x10000000401 = none ∧
    (oneCtx ctxS).mem.errOf 0x0D ((oneCtx ctxS).homeSlice 0x10000000401) 0x10000000401 = none ∧
    mfind ((oneCtx ctxS).core 0).l1 0x10000000401 = none ∧ mfind ((oneCtx ctxS).herd (herdOfCore 0)).copies 0x10000000401 = none ∧
    (∀ f ∈ ((oneCtx ctxS).core 0).wq, f.write.word ≠ 0x10000000401) ∧
    (∀ e ∈ ((oneCtx ctxS).herd (herdOfCore 0)).pend, e.2.word ≠ 0x10000000401) ∧
    ({ va := 0x200F, pa := 0x8000000200F, entry := 0x80000003F } : Access).entry.getLsbD 8 = false ∧
    ({ va := 0x200F, pa := 0x8000000200F, entry := 0x80000003F } : Access).entry.getLsbD 9 = false := by
  refine ⟨?_, by decide +kernel, rfl, by decide +kernel, by decide +kernel, by decide +kernel, by decide +kernel, by decide, by decide⟩
  have h : (oneCtx ctxS).region (8 * 0x10000000401) = .scratch 0 0x2008 := by decide +kernel
  unfold Stored; rw [h]; trivial

/-- A store buffer of 32 entries (R156). -/
def full : List StoreReq := List.replicate 32 { writes := [], va := 0 }

-- R155, R156: a store that passes with room and without, a narrow one into a poisoned word, and one that is misaligned
theorem test_hyps_StoreResults :
    passes ((oneCtx ctxS).checkAccess (oneCtx ctxS).party (storeAt (oneCtx ctxS) 1 8)) (fun t _ => decide (t.me.stores.length < 32)) = true ∧
    (let s := oneCtx { ctxS with stores := full }
     passes (s.checkAccess s.party (storeAt s 1 8)) (fun t _ => decide (32 ≤ t.me.stores.length)) = true) ∧
    (let s : State := { oneCtx ctxS with mem := { bytes := pages, poison := [0x10000000400] } }
     passes (s.checkAccess s.party (storeAt s 1 4)) (fun t a => (wordsOf a.pa 4).any (t.poisonedFor t.party)) = true) ∧
    fails ((oneCtx ctxS).checkAccess (oneCtx ctxS).party (storeAt (oneCtx ctxS) 2 2)) (memCause .align .store) = true := by decide +kernel

theorem test_hyps_StoreWritesItsBytesOnly : State.reset.memWf ∧ ([1, 2, 3] : List Byte) ≠ [] ∧ (∀ k, State.reset.shadowByte k = none) ∧
    (∀ w ∈ wordsOf 0x80000002006 3, mfind State.reset.mem.latent w = none ∧ ∀ u, State.reset.mem.errOf 0x0D u w = none) := by
  exact ⟨State.reset_memWf, by decide, fun _ => rfl, fun _ _ => ⟨rfl, fun _ => rfl⟩⟩

-- R147: an address that is not canonical, and one that is and is misaligned
theorem test_hyps_AccessCheckOrder : ¬ (∀ k, 57 ≤ k → k < 64 → (0x0200000000000000 : Word).getLsbD k = (0x0200000000000000 : Word).getLsbD 56) ∧
    (∀ k, 57 ≤ k → k < 64 → (0x00FFFFFFFFFFFFF9 : Word).getLsbD k = (0x00FFFFFFFFFFFFF9 : Word).getLsbD 56) ∧
    (0x00FFFFFFFFFFFFF9 : Word).toNat % 8 ≠ 0 := by
  refine ⟨fun h => absurd (h 57 (by omega) (by omega)) (by decide), fun k h1 h2 => ?_, by decide⟩
  interval_cases k <;> decide

/-- R455: control core 1537 at S reads 0x2000 through a region that permits reads, and without one it traps. -/
def journeyman (fs : List FwRegion) : State :=
  { cores := [(1537, { ctxs := [(0, ctxS)] })], mem := { bytes := pages }, dev := { firewall := fs, creg := [(0x1030, 1)] }
    act := { core := 1537 } }
theorem test_firewall_permits :
    (let s := journeyman [{ base := 0x80000000000, size := 0x10000, rd := true, wr := false, x := false }]
     passes (s.checkAccess s.party (loadAt s 1 8))) = true ∧
    (let s := journeyman []
     match s.checkAccess s.party (loadAt s 1 8) with
     | .fault _ c _ _ => c == memCause .protection .load
     | _ => false) = true := by decide +kernel

theorem test_hyps_OrderedAccessResults :
    (let s := holds (.lda .d .device 5 1 0)
     isHeld s (.lda .d .device 5 1 0) && passes ((resumed s).heldAccess (loadAt s 1 8))) = true ∧
    (let s := holds (.stl .w .system 5 1 0)
     isHeld s (.stl .w .system 5 1 0) && passes ((resumed s).heldAccess (storeAt s 1 4))) = true := by decide +kernel

/-- g5 names a MIXED object of 4 words, PRIVATE to context 0 of core 0, at 0x3000. -/
def withObject : State :=
  { oneCtx { ctxS with
      work := { g := [(1, { val := 0x2000 }), (5, { val := 0x3000, tag := true }), (6, { val := 0x3008, tag := true })] } } with
    mem := { bytes := pages ++ [(0x80000003000, 4), (0x80000003003, 0x10)] } }

-- R161..R163: a reference load through an object; a store of an untagged word and of a tagged one that does not escape
theorem test_hyps_ReferenceResults :
    (let s := withObject
     passes (s.checkAccess s.party { loadOf (s.me.rgt 5) (ea (s.me.rg 5) 1 8) 8 with noSe := true }) (fun _ a => a.hdr.isSome) &&
     passes (s.checkAccess s.party { storeOf (s.me.rgt 5) (ea (s.me.rg 5) 1 8) 8 with noSe := true })
       (fun t a => t.hasTags a.pa && passes (t.escapes t.party (s.me.rg 5) (t.destOf a)) (fun _ e => !e))) = true ∧
    (withObject.me.rgt 1).tag = false ∧ (withObject.me.rgt 5).tag = true ∧ withObject.me.stores.length < 32 := by decide +kernel

-- R163, R164: the object's reference escapes to a word that no object holds, with autopub and without; a FLAT object takes no tag
theorem test_hyps_ReferenceStoreResults_escape :
    (let go (st : Word) : Bool :=
       let s := withObject.setMe { withObject.me with sreg := [(0x020, st), (0x060, 0x80000000000)] }
       let q : AccessReq := { storeOf (s.me.rgt 1) (ea (s.me.rg 1) 0 8) 8 with noSe := true }
       passes (s.checkAccess s.party q) (fun s1 acc => acc.hdr.isNone && s1.hasTags acc.pa && passes (s1.escapes s1.party (s.me.rg 5) (s1.destOf acc))
         (fun s3 e => e && s3.me.autopub == (st == 9) && passes (s3.checkAccess s3.party q) (fun s2 _ => decide (s2.me.stores.length < 32))))
     let flat : State := { withObject with mem := { bytes := pages ++ [(0x80000003000, 4)] } }
     go 1 && go 9 && passes (flat.checkAccess flat.party { storeOf (flat.me.rgt 5) (ea (flat.me.rg 5) 1 8) 8 with noSe := true })
       (fun s1 acc => (match acc.hdr with
         | some h => h.2.toNat / 2 ^ 28 % 4 != 1
         | none => false) || !s1.hasTags acc.pa)) = true := by decide +kernel

theorem test_hyps_AtomicResults :
    (let s := holds (.amoW .add .herd 5 1 4)
     let u := (((resumed s).pushWrites 0 0 0).release 0 0 1).1
     isHeld s (.amoW .add .herd 5 1 4) && (((resumed s).pushWrites 0 0 0).release 0 0 1).2 && (u.core 0).wq.all (fun g => g.ctx != 0 || !g.atPort) &&
     passes (u.heldAccess
       { va := 0x2000, size := 4, need := .both, origin := .atomic, base := s.me.rgt 1, noSe := true, reads := true, noTag := true, align := 4 }) &&
     (let a : Access := { va := 0x2000, pa := 0x80000002000, entry := 0x80000003F }
      let e := holds (.amoD .swap .rlx 0 1 4) { ctxS with acc := some a }
      isHeld e (.amoD .swap .rlx 0 1 4) && (resumed e).me.acc == some a)) = true ∧
    (oneCtx ctxS).region (8 * 0x10000000400) = .scratch 0 0x2000 ∧ mfind (oneCtx ctxS).mem.latent 0x10000000400 = none := by decide +kernel

theorem test_hyps_AtomicAtScratch : State.reset.memWf ∧ State.reset.region (8 * 0x1000000FFFF) = .scratch 0 0x7FFF8 ∧
    (∀ k, State.reset.shadowByte k = none) ∧ State.reset.mem.errs = [] ∧ State.reset.mem.latent = [] ∧ (State.reset.core 0).wq = [] :=
  ⟨State.reset_memWf, by decide +kernel, fun _ => rfl, rfl, rfl, rfl⟩

-- R372: a clean copy and a dirty one of a word that nothing else holds
theorem test_hyps_WriteBackEffect :
    (let c : Copy := { val := 7, dirty := some 0 }
     let s : State := { cores := [(0, { l1 := [(0x400, c)] })] }
     mfind (s.core 0).l1 0x400 = some c ∧ c.err = 0 ∧ (s.core 0).wq = [] ∧ (s.herd (herdOfCore 0)).pend = []) := by decide +kernel

/-- A command of the context's thread in its core's coprocessor queue. -/
def someCommand : Command :=
  { id := 1, major := 0x20, fn := 0, descA := [], descB := [], handle := 0x100001, core := 0, asid := 0, ptb := 0x80000000000, super := true, done := 0 }

theorem test_hyps_FenceAndFlushResults :
    (isHeld (holds (.fenceFull .device)) (.fenceFull .device) && ((resumed (holds (.fenceFull .device))).release 0 0 2).2 &&
     isHeld (holds (.fenceAcq .herd)) (.fenceAcq .herd) && isHeld (holds (.fenceRel .core)) (.fenceRel .core) &&
     isHeld (holds (.fenceRel .device)) (.fenceRel .device) && isHeld (holds (.fenceEng .core)) (.fenceEng .core) &&
     !(resumed (holds (.fenceEng .core))).commandsOf 0x100001 && isHeld (holds (.pub .herd 1)) (.pub .herd 1) &&
     isHeld (holds (.cflush 1 3)) (.cflush 1 3) && isHeld (holds (.cflushInv 1 3)) (.cflushInv 1 3) &&
     !((resumed (holds (.cflush 1 3))).pushWrites 0 0 0).heldAny 0 0 &&
     (let f : Flight := { id := 0, ctx := 0, va := 0x3000, walk := some 1, atPort := true, write := { word := 0x10000000600, mask := 0xFF, val := 1 } }
      ((holds (.cflush 1 3)).onCore 0 (fun c => { c with wq := [f, f] })).pushWrites 0 0 0 |>.heldAny 0 0)) = true ∧
    (let s : State := { holds (.fenceEng .core) with cores := [(0, { ctxs := [(0, { ctxS with phase := .exposed (.fenceEng .core) })], copq := [someCommand] })] }
     (resumed s).commandsOf s.me.handle = true) := by decide +kernel

-- R153: the largest length, an address that is tagged, one that is misaligned, and a length of 0
theorem test_hyps_MakeObjectResults :
    (let s := oneCtx ctxS
     passes (s.checkPages (storeOf { val := 0x2000 } 0x2000 8) (pagesOf 0x2000 (8 * (64 + 1))))
       (fun t _ => passes (t.checkAccess t.party (storeOf { val := 0x2000 } 0x2000 8)) (fun u _ => u.me.phase == .body && decide (u.me.stores.length < 32))) &&
     s.me.phase == .body && !(s.me.rgt 1).tag && decide ((s.me.rg 1).toNat % 8 = 0) && decide ((s.me.rg 2).toNat % 8 ≠ 0) &&
     decide ((s.me.rg 0).toNat = 0) && decide (0 < (s.me.rg 3).toNat)) = true ∧ (withObject.me.rgt 5).tag = true := by decide +kernel

-- R225, R226: an aligned vector address and one that is not; two active lanes load and store
theorem test_hyps_VectorMemoryResults :
    let s := oneCtx { ctxS with work := { g := [(1, { val := 0x2000 }), (2, { val := 0x2001 })], k := [(1, 0x8001)] } }
    (ea (s.me.rg 2) 0 64).toNat % 64 ≠ 0 ∧ (ea (s.me.rg 1) 0 64).toNat % 64 = 0 ∧
    passes (s.checkLanes (s.me.rgt 1) [(0, 0x2000), (15, 0x203C)]) (fun _ l => decide (l.length = 2)) = true ∧
    passes (s.storeLanes (s.me.rgt 1) (s.me.rv 3) [(0, 0x2000), (15, 0x203C)]) (fun t l => decide (t.me.stores.length + l.length ≤ 32)) = true := by
  decide +kernel

-- Control, traps, system and messages

/-- The part with one context that is at U. -/
def ctxU : Context := { ctxS with sreg := [(0x060, 0x80000000000)] }

theorem test_hyps_BlockCommitResults :
    (let s := oneCtx { ctxS with exit := some 0x5000 }
     s.me.live && s.me.phase == .body && s.me.exit == some 0x5000 && s.me.outst == [] && s.me.heldWrites == [] && (s.core 0).vuq == [] &&
     decide ((oneCtx { ctxS with pos := 4 }).me.words.length ≤ (oneCtx { ctxS with pos := 4 }).me.pos)) = true ∧
    (oneCtx ctxU).me.priv = 0 := by decide +kernel

-- R27, R38: nothing has arrived, with interrupts and without; a pre-emption request has arrived; a timer has run out
theorem test_hyps_Calm : Calm (oneCtx ctxS) ∧ Calm (oneCtx ctxU) ∧
    Calm (oneCtx { ctxS with sreg := [(0x020, 5), (0x060, 0x80000000000)], timerAt := some 9 }) ∧
    (oneCtx { ctxS with switchReq := true, exit := some 0x5000 }).me.switchReq = true ∧ (oneCtx { ctxS with switchReq := true }).me.heldWrites = [] ∧
    ¬ Calm (oneCtx { ctxS with sreg := [(0x020, 5), (0x060, 0x80000000000)], timerAt := some 0 }) := by
  refine ⟨⟨rfl, by decide +kernel⟩, ⟨rfl, by decide +kernel⟩, ⟨rfl, fun _ => ⟨rfl, fun c h => ?_⟩⟩, rfl, rfl, fun h => ?_⟩
  · have h2 : some 9 = some c := h
    simp only [Option.some.injEq] at h2
    exact h2 ▸ (by decide : (0 : Nat) < 9)
  · exact absurd ((h.2 (by decide +kernel)).2 0 rfl) (by decide)

-- R408: the first and the second branch of the entry
theorem test_hyps_TrapEntry : ¬ (Cause.priv ≠ Cause.trapCode ∧ ((oneCtx ctxU).ctxOf 0 0).priv = 1 ∧ ((oneCtx ctxU).ctxOf 0 0).ie = false) ∧
    (Cause.priv ≠ Cause.trapCode ∧ ((oneCtx ctxS).ctxOf 0 0).priv = 1 ∧ ((oneCtx ctxS).ctxOf 0 0).ie = false) := by decide +kernel

theorem test_hyps_TrapAndReturnResults : (oneCtx ctxU).me.phase = .body ∧ (oneCtx ctxU).me.outst = [] ∧ (oneCtx ctxU).me.implicitPubs = [] ∧
    (oneCtx ctxU).me.awaitWalks = [] ∧ (oneCtx ctxU).me.heldWrites = [] ∧ ((oneCtx ctxU).core 0).vuq = [] ∧ (oneCtx ctxU).me.stores = [] ∧
    isHeld (holds .eret) .eret = true := by decide +kernel

theorem test_hyps_PrivilegeTraps : (oneCtx ctxU).me.priv = 0 ∧ (oneCtx ctxU).me.phase = .body ∧ (oneCtx ctxU).me.outst = [] ∧
    (let s := oneCtx { ctxS with sreg := [(0x020, 1), (0x046, 2)] }
     s.me.priv = 1 ∧ s.assayer s.act.core = false ∧ (s.me.sr 0x046).getLsbD 1 = true) := by decide +kernel

-- R36: a number that is not assigned, one that U may not read, and one that S may; the refusals of R8, R36 and R39
theorem test_hyps_StateRegisterResults : ¬ Assigned 0x3FF ∧ Assigned 0x040 ∧ Assigned 0x0A0 ∧ ¬ Assigned 0x047 ∧ (oneCtx ctxU).me.super = false ∧
    srWriteU 0x040 = false ∧ (oneCtx ctxS).me.super = true ∧ isHeld (holds (.swr 0x040 3)) (.swr 0x040 3) = true ∧
    ((oneCtx ctxS).me.rg 2).toNat % 8 ≠ 0 ∧ ((oneCtx ctxS).me.rg 4).toNat % 4 = 3 ∧ ((oneCtx ctxS).me.rg 0).toNat % 256 = 0 ∧
    isHeld (holds (.swr 0x0A0 3)) (.swr 0x0A0 3) = true ∧ isHeld (holds (.swr 0x020 3)) (.swr 0x020 3) = true ∧
    2 ≤ ((oneCtx ctxS).me.rg 4).toNat % 4 ∧ 31 < ((oneCtx ctxS).me.rg 3).toNat ∧ (oneCtx ctxS).assayer (oneCtx ctxS).act.core = false ∧
    isHeld (holds (.swr 0x024 3)) (.swr 0x024 3) = true := by
  refine ⟨by unfold Assigned; omega, by unfold Assigned; omega, by unfold Assigned; omega, by unfold Assigned; omega, ?_⟩
  decide +kernel

theorem test_hyps_SystemResults : isHeld (holds (.repart false)) (.repart false) = true ∧ (holds (.repart false)).myCore.pmode = false ∧
    isHeld (holds (.repart true)) (.repart true) = true ∧ (holds (.repart true)).myCore.pmode ≠ true ∧
    isHeld (holds (.tlbinvPage 1 2)) (.tlbinvPage 1 2) = true ∧ ((resumed (holds (.tlbinvPage 1 2))).release 0 0 2).2 = true ∧
    (∀ c ∈ (holds (.tlbinvPage 1 2)).cores, c.2.wq = []) ∧ (holds (.tlbinvPage 1 2)).cores.length = 1 ∧
    (holds (.tlbinvPage 1 2)).fabric.sites = [] ∧ (holds (.tlbinvPage 1 2)).herds = [] ∧ isHeld (holds (.tlbinvAsid 2)) (.tlbinvAsid 2) = true ∧
    isHeld (holds .tlbinvAll) .tlbinvAll = true ∧ isHeld (holds (.retag 3 1)) (.retag 3 1) = true := by decide +kernel

/-- The part with a context that holds i, on a core with these ready queues and this send buffer. -/
def withCore (i : Instr) (f : Core → Core) : State :=
  { cores := [(0, f { ctxs := [(0, { ctxS with phase := .exposed i })] })], mem := { bytes := pages } }

-- R197..R207: an empty ready queue and one with 16 handles, a handle at priority 1, a free and a filled entry of the send buffer
theorem test_hyps_MessageResults :
    (isHeld (holds (.rqput 1 2 1)) (.rqput 1 2 1) && decide ((mget [] (holds (.rqput 1 2 1)).myCore.readyq 2).length < 16) &&
     (let s := withCore (.rqput 1 3 1) (fun c => { c with readyq := [(3, List.replicate 16 0)] })
      isHeld s (.rqput 1 3 1) && decide (16 ≤ (mget [] s.myCore.readyq 3).length)) &&
     isHeld (holds (.rqtake 5 3 1)) (.rqtake 5 3 1) &&
     (let s := withCore (.rqtake 5 3 1) (fun c => { c with readyq := [(1, [7, 8])] })
      isHeld s (.rqtake 5 3 1) && mget [] s.myCore.readyq 0 == ([] : List Word) && mget [] s.myCore.readyq 1 == [7, 8] &&
      s.myCore.ctxs.all (fun c => c.2.held == [])) &&
     isHeld (holds (.send 1 3 0 1)) (.send 1 3 0 1) && mfind (holds (.send 1 3 0 1)).myCore.sendbuf 1 == none &&
     (let s := withCore (.send 1 3 0 1) (fun c => { c with sendbuf := [(1, { src := 1, dst := 2, pri := 1, words := [], time := 0, evq := 0, core := 0 })] })
      isHeld s (.send 1 3 0 1) && mfind s.myCore.sendbuf 1 != none) &&
     isHeld (holds (.mbind 1 0 1)) (.mbind 1 0 1) && (mget ({} : Ring) (holds (.mbind 1 0 1)).me.rings 0).occ == 0 &&
     isHeld (holds (.sleep 5)) (.sleep 5) && (holds (.sleep 5)).me.rings.all (fun r => r.2.occ == 0) && !(holds (.sleep 5)).me.timerEvent &&
     (let s := holds (.sleep 4) { ctxS with timerEvent := true }
      isHeld s (.sleep 4) && s.me.timerEvent && (4 : BitVec 4).getLsbD 2 && !(4 : BitVec 4).getLsbD 3 && s.me.timerAt == none)) = true := by decide +kernel

/-- A context whose ring 2 lies at 0x8A00 and holds one message. -/
def ctxRing : Context :=
  { ctxS with sreg := [(0x020, 1), (0x060, 0x80000000000), (0x064, 0x8000)], rings := [(2, { head := 0, occ := 1 })] }

theorem test_hyps_ReceiveResults :
    (isHeld (holds (.recv 8 1 2)) (.recv 8 1 2) && isHeld (holds (.recvNb 8 1 2 1)) (.recvNb 8 1 2 1) && (mget ({} : Ring) (holds (.recv 8 1 2)).me.rings 2).occ == 0 &&
     (let s := holds (.recv 8 1 2) ctxRing
      isHeld s (.recv 8 1 2) && (mget ({} : Ring) s.me.rings 2).occ != 0 && passes ((resumed s).loadTagged (resumed s).party 0x8A00 10)) &&
     (let s := holds (.recvNb 8 1 2 1) ctxRing
      isHeld s (.recvNb 8 1 2 1) && passes ((resumed s).loadTagged (resumed s).party 0x8A00 10))) = true := by decide +kernel

/-- The part with a context bound to herd 0's event queue, which holds these records. -/
def withEvents (i : Instr) (l : List EventRec) : State :=
  { oneCtx { ctxS with phase := .exposed i, sreg := [(0x063, 0x100)] } with herds := [(0, { events := l })] }

/-- A launch of one thread, the acting context's. -/
def oneThread (i : Instr) : State :=
  { holds i with launch := { live := [(1, { queue := 0, record := [0x01, 0x4000, 1] })], threads := [(0x100001, { slot := 0, place := some (0, 0), pmode := false })] } }

theorem test_hyps_EventAndThreadResults :
    ((withEvents (.waitev 4) [[1, 2, 3, 4]]).me.sr 0x063).getLsbD 8 = true ∧ ((withEvents (.waitev 4) [[1, 2, 3, 4]]).herd 0).events = [[1, 2, 3, 4]] ∧
    isHeld (withEvents (.waitev 4) [[1, 2, 3, 4]]) (.waitev 4) = true ∧ isHeld (withEvents (.waitevNb 4 1) []) (.waitevNb 4 1) = true ∧
    ((withEvents (.waitevNb 4 1) []).herd 0).events = [] ∧
    (let s := holds (.spawn 5 1 1)
     passes (s.checkAccess s.party { loadOf (s.me.rgt 1) (s.me.rg 1) 64 with align := 64 })) = true ∧
    (let s : State := { oneCtx ctxS with mem := { bytes := pages ++ [(0x80000002000, 1)] } }
     passes (s.checkAccess s.party { loadOf (s.me.rgt 1) (s.me.rg 1) 64 with align := 64 }) (fun t acc =>
       let r := t.readWords t.act.core t.act.ctx acc.entry acc.herdObj (wordsOf acc.pa 64)
       decide ((r.2.getD 0 {}).val.toNat % 8 = 1) && (r.2.getD 6 {}).val == 0)) = true ∧
    (let s := holds (.spawn 5 1 1) { ctxS with snapCmd := some ([], [1, 0, 0, 0, 0, 0, 0, 0]) }
     let u : State := { s with launch := { live := [(2, { queue := 0, record := [], reserve := 4096 })] } }
     isHeld s (.spawn 5 1 1) && ((resumed s).release 0 0 2).2 && ((resumed s).release 0 0 2).1.me.snapCmd.isSome && s.poolEntry 1 == some (0, false) &&
     isHeld u (.spawn 5 1 1) && ((resumed u).release 0 0 2).2 && u.poolEntry 1 == none && u.poolEntry 2 == some (0, true)) = true ∧
    (let s := holds (.reply 1 0) { ctxS with ticket := some (64, 3, false) }
     isHeld s (.reply 1 0) && ((resumed s).release 0 0 2).2 && ((resumed s).release 0 0 2).1.me.ticket == some (64, 3, false)) = true ∧
    (let s := oneThread .exit
     let v := (resumed s).setMe { (resumed s).me with phase := .wait .exit, ticket := none }
     isHeld s .exit && s.me.sets == [] && s.me.ticket == none && s.me.live && !v.commandsOf s.me.handle && v.walksOf s.me.handle 1 == 0 &&
     !v.posterHeld (fun r => r.src == 0 && r.handle == s.me.handle) && (v.release 0 0 3).2 && (v.release 0 0 3).1.me.handle == s.me.handle) = true := by decide +kernel

-- Sets and barriers (R182..R196)

/-- The part with a context that holds i, a member of the set at 0x2000 whose record begins with these bytes; arrived as given. -/
def inSet (i : Instr) (b : List Nat) (m : Bool := false) : State :=
  { oneCtx { ctxS with phase := .exposed i, sets := [(0, { record := 0x2000, arrived := m })] } with
    mem := { bytes := pages ++ b.zipIdx.filterMap (fun x => if x.1 = 0 then none else some (0x80000002000 + x.2, BitVec.ofNat 8 x.1)) } }

/-- The same of a context in no set. -/
def nearSet (i : Instr) (b : List Nat) : State :=
  let s := inSet i b
  { s with cores := [(0, { ctxs := [(0, { ctxS with phase := .exposed i })] })] }

/-- The held instruction i finds the record of g1, with a property of the record. -/
def finds (s : State) (i : Instr) (p : State → SetRec → Bool) : Bool :=
  isHeld s i && passes ((resumed s).heldAccess (recordOf (s.me.rgt 1))) (fun t a =>
    let q := t.readRec t.act.core t.act.ctx a.pa
    p q.1 q.2)

/-- InRange, as a test, and membership. -/
def inRange (r : SetRec) : Bool :=
  !(r.w0.getLsbD 33 && decide (192 ≤ r.w0.toNat / 2 ^ 34 % 256)) && (r.w0.getLsbD 32 || r.w0.getLsbD 33) &&
    decide (r.w0.toNat / 2 ^ 16 % 65536 ≤ r.w0.toNat % 65536)
def isMember (s : State) : Bool := (s.me.sets.find? (fun x => x.2.record == (s.me.rg 1).toNat)).isSome

-- count 0; out of range; full; a set of herd 1; and one with room, of herd 0 (R185)
theorem test_hyps_MembershipResults_join :
    (finds (nearSet (.join 5 1) []) (.join 5 1) (fun _ r => count r == 0) &&
     finds (nearSet (.join 5 1) [1, 0, 2, 0, 1]) (.join 5 1) (fun _ r => count r != 0 && !inRange r) &&
     finds (nearSet (.join 5 1) [2, 0, 2, 0, 1]) (.join 5 1) (fun _ r => count r != 0 && inRange r && joined r == count r) &&
     finds (nearSet (.join 5 1) [2, 0, 1, 0, 7]) (.join 5 1) (fun t r => inRange r && decide (joined r < count r) && r.w0.getLsbD 33 &&
       herdOfCore t.act.core != r.w0.toNat / 2 ^ 34 % 256) &&
     finds (nearSet (.join 5 1) [2, 0, 1, 0, 3]) (.join 5 1) (fun t r => inRange r && decide (joined r < count r) && r.w0.getLsbD 32 &&
       herdOfCore t.act.core == r.w0.toNat / 2 ^ 34 % 256)) = true := by decide +kernel

-- a GANG set, bound, with a member on the core (R185)
theorem test_hyps_MembershipResults_gang :
    (let s : State := { nearSet (.join 5 1) [2, 0, 1, 0, 2] with sets := [(0x80000002000, { members := [(0x200000, 0)] })] }
     finds s (.join 5 1) (fun t r => inRange r && decide (joined r < count r) && !r.w0.getLsbD 32 &&
       (t.aux 0x80000002000).members.any (fun m => m.2 == t.act.core))) = true := by decide +kernel

-- a count of 0, of 64, and a record with members; no unit free, and one free (R185)
theorem test_hyps_MembershipResults_new :
    (finds (nearSet (.joinNew true true 5 1 0) []) (.joinNew true true 5 1 0) (fun _ _ => true) && (nearSet (.joinNew true true 5 1 0) []).me.rg 0 == 0 &&
     finds (nearSet (.joinNew true true 5 1 3) [2, 0, 1, 0, 3]) (.joinNew true true 5 1 3) (fun _ r => joined r != 0) &&
     finds (nearSet (.joinNew true false 5 1 3) []) (.joinNew true false 5 1 3) (fun t r => joined r == 0 && r.pend == 0 && t.herds == []) &&
     finds (nearSet (.joinNew false true 5 1 4) []) (.joinNew false true 5 1 4) (fun t r => joined r == 0 && decide ((t.me.rg 4).toNat ≤ 8)) &&
     finds (nearSet (.joinNew true true 5 1 3) []) (.joinNew true true 5 1 3) (fun t r => joined r == 0 && r.pend == 0 && ((t.herd 0).unit 0).record == none &&
       !t.herds.any (fun y => y.2.units.any (fun u => u.2.draining))) &&
     (let u : BarUnit := { record := some 64 }
      let s : State := { nearSet (.joinNew true true 5 1 3) [] with herds := [(0, { units := [(0, u), (1, u), (2, u), (3, u)] })] }
      finds s (.joinNew true true 5 1 3) (fun t r => joined r == 0 && r.pend == 0 &&
        (List.range 4).all (fun k => ((t.herd 0).unit k).record != none)))) = true := by decide +kernel

theorem test_hyps_MembershipResults_leave :
    (finds (inSet (.leave 1) []) (.leave 1) (fun t r => joined r == 0 && t.me.sets == (inSet (.leave 1) []).me.sets) && isMember (inSet (.leave 1) []) &&
     finds (inSet (.leave 1) [2, 0, 1, 0, 1]) (.leave 1) (fun _ r => inRange r && joined r == 1)) = true ∧ Calm (oneCtx ctxS) ∧
    (oneCtx ctxS).me.phase = .body ∧ (oneCtx ctxS).me.outst = [] ∧ (∀ x ∈ (oneCtx ctxS).me.sets, x.2.record ≠ ((oneCtx ctxS).me.rg 1).toNat) := by
  refine ⟨by decide +kernel, ⟨rfl, by decide +kernel⟩, by decide +kernel⟩

-- a live set that is not broken and one that is; an arrived member and one that has not arrived; a completed phase (R188)
theorem test_hyps_BarrierResults :
    (finds (inSet (.bar 1) [2, 0, 1, 0, 1]) (.bar 1) (fun t r => inRange r && count r != 0 && !r.broken && (t.release 0 0 2).2) &&
     isMember (inSet (.bar 1) [2, 0, 1, 0, 1]) &&
     finds (inSet (.barWait 1) [2, 0, 1, 0, 1, 0x20]) (.barWait 1) (fun _ r => inRange r && r.broken) &&
     finds (inSet (.barArr 1) [2, 0, 1, 0, 1] true) (.barArr 1) (fun _ r => inRange r && !r.broken && !r.phase) &&
     finds (inSet (.barWait 1) [2, 0, 1, 0, 1] true) (.barWait 1) (fun _ r => inRange r && !r.broken && !r.phase) &&
     finds (inSet (.barWait 1) [2, 0, 1, 0, 1, 0x10] true) (.barWait 1) (fun _ r => inRange r && !r.broken && r.phase)) = true := by decide +kernel

-- R189: the last arrival, and one that is not
theorem test_hyps_ArrivalCounts :
    (let r : SetRec := { w0 := 2, cnt0 := 1, cnt1 := 0, phase := false, broken := false, pend := 0 }
     count r = (if r.phase then r.cnt1 else r.cnt0) + 1 ∧ r.pend = 0) ∧
    (let r : SetRec := { w0 := 2, cnt0 := 1, cnt1 := 0, phase := false, broken := false, pend := 8 }
     ¬ (count r = (if r.phase then r.cnt1 else r.cnt0) + 1 ∧ r.pend = 0)) := by decide

-- a POOL set, and a GANG set of two of which one waits at the gate (R191)
theorem test_hyps_CoupleResults :
    (finds (inSet (.couple 1) [2, 0, 2, 0, 1]) (.couple 1) (fun _ r => inRange r && count r != 0 && r.w0.getLsbD 32) &&
     isMember (inSet (.couple 1) [2, 0, 2, 0, 1]) &&
     finds (inSet (.coupleRe 1) [2, 0, 2, 0, 2]) (.coupleRe 1) (fun t r => inRange r && !r.w0.getLsbD 32 && t.me.gang == none &&
       (let v := t.setMe { t.me with phase := .wait (.gate 0) }
        let w := v.onAux 0x80000002000 (fun y => { y with gate := y.gate ++ [v.me.handle] })
        decide (((w.aux 0x80000002000).gate.filter (w.gateCounts 0x80000002000)).length < joined r))) &&
     finds (inSet (.couple 1) [1, 0, 1, 0, 2]) (.couple 1) (fun t r => inRange r && !r.w0.getLsbD 32 && t.me.gang == none &&
       (t.aux 0x80000002000).gate == [] && joined r == 1 && !t.me.locked &&
       (let v := t.setMe { t.me with phase := .wait (.gate 0) }
        let w := v.onAux 0x80000002000 (fun y => { y with gate := y.gate ++ [v.me.handle] })
        w.placeOf v.me.handle == some (0, 0))) &&
     (let s : State := { oneCtx { ctxS with phase := .exposed (.couple 1), sets := [(0, { record := 0x2000 })], gang := some 0x80000002000 } with
                         mem := (inSet (.couple 1) [2, 0, 2, 0, 2]).mem }
      finds s (.couple 1) (fun t r => inRange r && !r.w0.getLsbD 32 && t.me.gang == some 0x80000002000))) = true := by decide +kernel

-- a set that is no herd-bound POOL; an empty range and one that is not; an empty queue and one with a range (R194..R196)
theorem test_hyps_RejoinQueueResults :
    (finds (inSet (.rjput 1 4 3) [2, 0, 1, 0, 1]) (.rjput 1 4 3) (fun _ r => inRange r && !(r.w0.getLsbD 32 && r.w0.getLsbD 33)) &&
     finds (inSet (.rjput 1 4 3) [2, 0, 1, 0, 3]) (.rjput 1 4 3) (fun t r => inRange r && r.w0.getLsbD 32 && r.w0.getLsbD 33 && (t.release 0 0 1).2) &&
     decide (((inSet (.rjput 1 4 3) []).me.rg 4).toNat < ((inSet (.rjput 1 4 3) []).me.rg 3).toNat) &&
     finds (inSet (.rjtake 5 1 2) [2, 0, 1, 0, 3]) (.rjtake 5 1 2) (fun t _ => ((t.herd 0).unit 0).ranges == []) &&
     (let s : State := { inSet (.rjtake 5 1 2) [2, 0, 1, 0, 3] with herds := [(0, { units := [(0, { ranges := [(7, 9)] })] })] }
      finds s (.rjtake 5 1 2) (fun t r => inRange r && ((t.herd 0).unit 0).ranges == [(7, 9)]))) = true := by decide +kernel

-- Engines and matrix elements (R242..R273)

/-- Core 0 has a command at the head of its coprocessor queue. -/
def engineQueue (c : Command) : State := { cores := [(0, { ctxs := [(0, ctxS)], copq := [c] })], mem := { bytes := pages } }
/-- An exchange of id 5 with the device 1, of 8-byte entries, 4 of them, from 0x5000. -/
def exchange : Xchg :=
  { id := 5, start := 0, cmd := { someCommand with major := 0x23, descA := [0, 0, 0x5000, 0x80005, 2, 4] } }

theorem test_hyps_EngineCommandResults :
    (let s := holds (.cpy 1 0)
     isHeld s (.cpy 1 0) && s.me.snapCmd == none && decide (s.myCore.copq.length < 2) && decide ((s.me.rg 0).toNat < 64) &&
     passes ((resumed s).heldAccess { loadOf (s.me.rgt 1) (s.me.rg 1) 64 with align := 64 }) (fun t _ => t.me.phase == .fetch)) = true ∧
    (let s := holds (.gath 1 0) { ctxS with snapCmd := some ([], []) }
     let p := (resumed s).pushWrites 0 0 0
     isHeld s (.gath 1 0) = true ∧ s.me.snapCmd = some ([], []) ∧ p.myCore.copq.length < 2 ∧ p.heldAny 0 0 = false ∧
     p.setMoves (p.mkCommand 0x21 0 (p.me.rgt 1) (p.me.rg 0) [] []) = false ∧ (s.me.rg 0).toNat < 64) ∧
    (let c : Command := { exchange.cmd with id := 9 }
     ({ engineQueue c with dev := { xchgs := [exchange] } } : State).xchgLive (c.w 3 % 65536) = true) ∧
    (let s : State := { cores := [(0, { ctxs := [(0, { ctxS with phase := .exposed (.mxc 1 0), snapCmd := some ([], []) })], copq := [someCommand, someCommand] })] }
     isHeld s (.mxc 1 0) = true ∧ s.me.snapCmd = some ([], []) ∧ 2 ≤ s.myCore.copq.length) := by decide +kernel

-- R243: a failing access, a handle of 7, a handle that names no set, and a descriptor whose first word is wrong
theorem test_hyps_EngineCheckOrder :
    (let s := oneCtx ctxS
     let q (a : RegNo) : AccessReq := { loadOf (s.me.rgt a) (s.me.rg a) 64 with align := 64 }
     fails (s.checkAccess s.party (q 2)) (memCause .align .load) && passes (s.checkAccess s.party (q 1)) (fun t a =>
       t.me.sets == [] && (t.descError 0x20 0 ((t.readWords 0 0 a.entry a.herdObj (wordsOf a.pa 64)).2.map (·.val))).isSome) &&
     decide (s.me.rg 4 ≠ 0 ∧ s.me.rg 4 ≠ 1 ∧ (s.me.rg 4).toNat % 64 ≠ 0) && decide (64 ≤ (s.me.rg 3).toNat ∧ (s.me.rg 3).toNat % 64 = 0)) = true := by
  decide +kernel

/-- A copy of 100 bytes from 0x2000 to 0x3000. -/
def someCopy : Command := { someCommand with descA := [0, 0x2000, 0x3000, 100, 1, 0, 0, 0], boxes := 1 }

theorem test_hyps_BoxSegments : 0 < someCopy.rowBytes ∧ 4096 * 0 < someCopy.total := by decide +kernel

/-- Core 0 runs a command in its copy engine. -/
def engineRuns (c : Command) (args : List Nat) : State :=
  { act := { args := args }, cores := [(0, { ctxs := [(0, ctxS)], engine := some c })], mem := { bytes := pages } }
/-- A command that runs. -/
def runs (s : State) (c : Command) : Bool :=
  (s.core 0).engine == some c && c.status == 0 && !c.stopped
/-- A command whose segment faults. -/
def segFaults (s : State) (c : Command) (g : Nat × Nat) : Bool := match s.segment c g.1 g.2 with
  | .fault _ _ _ _ => true
  | _ => false
-- nothing queued; a copy with the engine free, and busy; a message behind a walk of its thread; an exchange of an id that is live, of
-- another, and one that has ended; a message to an MXE with room, without, and one that was refused before
theorem test_hyps_EngineEventResults_queue :
    ((oneCtx ctxS).core 0).copq = [] ∧ (oneCtx ctxS).dev.finishing = [] ∧ (∀ y ∈ (oneCtx ctxS).dev.xchgs, y.todo = []) ∧
    (let s : State := { cores := [(0, { ctxs := [(0, ctxS)], engine := some someCopy, copq := [someCopy] })] }
     (s.pumpFinish.pumpXchgs.core 0).copq = [someCopy] ∧ (s.pumpFinish.pumpXchgs.core 0).engine ≠ none) ∧
    (let c : Command := { someCommand with major := 0x24, descA := [2, 1] }
     let w : Walk := { id := 1, scope := 2, handle := 0x100001, core := 0, ctx := 0, asid := 0, ptb := 0, root := 0x2000, queue := [] }
     let s : State := { engineQueue c with herds := [(0, { walks := [w] })] }
     (s.release 0 0 2).2 = false) ∧
    (let c : Command := { someCommand with major := 0x24, descA := [2, 1] }
     let s : State := { engineQueue c with fabric := { mxes := [(2, { queue := List.replicate 17 someCommand })] } }
     (s.release 0 0 2).2 = true ∧ (s.release 0 0 2).1.mxeRoom 2 = false ∧ c.heldAt = none ∧ s.dev.retired.contains (siteOfMxe 2) = false) ∧
    exchange.cmd.status = 0 ∧ ({ exchange.cmd with status := 0x1C5 } : Command).status ≠ 0 ∧ exchange.cmd.major ≠ 0x24 ∧ 0x23 ≤ exchange.cmd.major ∧
    ((engineQueue exchange.cmd).release 0 0 2).2 = true ∧ ((engineQueue exchange.cmd).release 0 0 2).1.dev.xchgs = [] ∧
    ((engineQueue someCopy).core 0).copq = [someCopy] ∧ ((engineQueue someCopy).core 0).engine = none ∧ someCopy.major < 0x23 ∧
    (∀ h ∈ (engineQueue someCopy).launch.threads, h.2.cmds = []) ∧
    (let s := engineQueue { exchange.cmd with id := 9 }
     (s.release 0 0 2).2 = true) ∧
    (let s : State := { engineQueue exchange.cmd with dev := { xchgs := List.replicate 16 exchange } }
     (s.release 0 0 2).2 = true ∧ 16 ≤ (s.release 0 0 2).1.dev.xchgs.length) ∧
    (let c : Command := { someCommand with major := 0x24, descA := [2, 1] }
     let s := engineQueue c
     (s.release 0 0 2).2 = true ∧ (s.release 0 0 2).1.mxeRoom 2 = true ∧ (s.release 0 0 2).1.dev.refetch = [] ∧ (s.release 0 0 2).1.heldFor 2 = []) ∧
    (let c : Command := { someCommand with major := 0x24, descA := [2, 1], heldAt := some 0 }
     let s := engineQueue c
     c.heldAt ≠ none ∧ s.mxeRoom 2 = true ∧ s.dev.refetch = [] ∧ s.firstHeld 2 = some 0) := by decide +kernel

-- a box that lands, a segment that faults, one that faults again, and a command that is done
theorem test_hyps_EngineEventResults_boxes :
    (let s := engineRuns someCopy [0]
     runs s someCopy && !someCopy.full && !someCopy.own && !someCopy.adds && !someCopy.issued.contains 0 && decide (0 < someCopy.boxes ∧ 0 < someCopy.base + 32) && passes (s.segments someCopy (someCopy.todo 0)) &&
     (let c : Command := { someCopy with descA := [0, 0x40000000, 0x3000, 100, 1, 0, 0, 0] }
      let t := engineRuns c [0]
      runs t c && decide (c.fix.length < 16) && c.todo 0 == [(0, 100)] && segFaults t c (0, 100)) &&
     (let c : Command := { someCopy with descA := [0, 0x40000000, 0x3000, 100, 1, 0, 0, 0], issued := [0], fix := [{ start := 0, len := 100, cause := 0x44 }] }
      let t := engineRuns c []
      runs t c && c.noBox && segFaults t c (0, 100)) &&
     (let c : Command := { someCopy with issued := [0], fix := [{ start := 0, len := 100, cause := 0x44 }] }
      let t := engineRuns c []
      runs t c && c.noBox && passes (t.segment c 0 100)) &&
     (let c : Command := { someCommand with major := 0x22, fn := 1, boxes := 1 }
      runs (engineRuns c [0]) c && c.adds && !c.issued.contains 0 && decide (0 < c.boxes ∧ 0 < c.base + 32) && !c.full) &&
     (let f : Fixup := { start := 0, len := 100, cause := 0x44 }
      decide (16 ≤ (List.replicate 16 f).length)) &&
     (let c : Command := { someCommand with major := 0x21, fn := 1, descA := [0, 0x2000, 0, 0, 0, 0, 0, 0] }
      runs (engineRuns c [0]) c && c.aux == [] && passes ((engineRuns c [0]).sample c)) &&
     (let c : Command := { someCopy with status := Cause.engDesc }
      (engineRuns c []).arg 0 != 1 && ((engineRuns c []).core 0).engine == some c && c.status != 0) &&
     (let c : Command := { someCopy with issued := [0], landed := [0] }
      runs (engineRuns c []) c && c.allIssued && decide (c.fix = []) && decide (c.done.toNat < 64))) = true := by decide +kernel

theorem test_hyps_EngineEventResults_exchange :
    (let s : State := { oneCtx ctxS with act := { args := [5, 1, 1, 8, 1, 2, 3, 4, 5, 6, 7, 8] }, dev := { xchgs := [exchange] } }
     s.dev.xchgs.find? (fun y => y.id == s.arg 0) == some exchange && !exchange.todo.contains 64 && !exchange.arrived.contains (s.arg 1) && (exchange.cmd.w 4).testBit (s.arg 1) && !exchange.cmd.stopped &&
     exchange.cmd.status == 0 && s.arg 1 != s.deviceId && s.arg 3 == field (exchange.cmd.w 3) 47 16 &&
     passes (s.place exchange (s.arg 1) (s.arg 2) ((s.act.args.drop 4).map (fun b => BitVec.ofNat 8 b)))) = true ∧
    (let s : State := { oneCtx ctxS with act := { args := [5, 1, 1, 4, 1] }, dev := { xchgs := [exchange] } }
     s.arg 3 != field (exchange.cmd.w 3) 47 16 && passes (s.engWrite exchange.cmd (exchange.cmd.w 2 + 8 * s.arg 1) (bytesLE 8 0))) = true ∧
    (let done : Xchg := { exchange with arrived := [1] }
     let s : State := { act := { args := [1, 5] }, dev := { xchgs := [done] } }
     s.arg 0 = 1 ∧ s.dev.xchgs.find? (fun y => y.id == s.arg 1) = some done ∧ (s.dev.xchgs.map (·.cmd)).any (fun y => y.handle == done.cmd.handle && decide (y.id < done.cmd.id)) = false ∧ s.cores = [] ∧ s.launch.threads = [] ∧
     done.cmd.status = 0 ∧ done.cmd.stopped = false ∧ done.todo = [] ∧ (∀ k, k < 64 → (done.cmd.w 4).testBit k = true → k ∈ done.arrived)) ∧
    (let behind (s : State) (d : Command) : Bool :=
       (s.dev.xchgs.map (·.cmd) ++ (s.cores.flatMap (fun k => k.2.copq)).filter (fun d => d.major == 0x23)).any (fun y =>
         y.handle == d.handle && decide (y.id < d.id))
     let late (s : State) (y : Xchg) : Bool := y.id == s.arg 0 && (decide (y.start + 2 ^ 32 ≤ s.time) && !behind s y.cmd)
     let s (t : Nat) : State := { time := t, act := { args := [5] }, dev := { xchgs := [exchange] } }
     let w : Xchg := { exchange with todo := [64] }
     let sw : State := { oneCtx ctxS with time := 2 ^ 32, act := { args := [5] }, dev := { xchgs := [w] } }
     exchange.todo = [] ∧ sw.dev.xchgs.find? (late sw) = some w ∧ passes (sw.clearCounts w.cmd [0, 1]) = true ∧
     (s (2 ^ 32)).dev.xchgs.find? (late (s (2 ^ 32))) = some exchange ∧ (s 0).dev.xchgs.find? (late (s 0)) = none ∧
     (let c : Command := { exchange.cmd with aux := [0] }
      let q : State := { engineQueue c with time := 2 ^ 32, act := { args := [5] } }
      q.dev.xchgs.find? (late q) = none ∧ c.aux.getD 1 0 ≠ 1 ∧ ({ c with aux := [0, 1] } : Command).aux.getD 1 0 = 1 ∧ q.launch.threads = [] ∧
        ((q.cores.flatMap (fun k => k.2.copq)).filter (fun d => d.major == 0x23)).find? (fun d =>
          d.w 3 % 65536 == q.arg 0 && (decide (d.aux.getD 0 q.time + 2 ^ 32 ≤ q.time) && !behind q d)) = some c)) := by decide +kernel

theorem test_hyps_CompletionRecord : someCopy.done.toNat < 64 ∧ State.reset.dev.finishing = [] ∧ someCopy.done = 0 ∧ ({ someCopy with done := 1 } : Command).done = 1 ∧
    Cause.shape < 512 ∧ someCopy.extra < 2 ^ 32 ∧
    (let s : State := { oneCtx { ctxS with sreg := [(0x063, 0x100)] } with launch := { threads := [(0x100001, { slot := 0, place := some (0, 0), pmode := false })] } }
     s.eventHerd (s.evqOf 0x100001) 1 = some 0 ∧ (s.herd 0).posts = [] ∧ (s.herd 0).events.length < 256 ∧
     State.reset.eventHerd (State.reset.evqOf 0x100001) 1 = none) := by decide +kernel

/-- Matrix element 2 with a command at its head; the launch 1 holds it with every right, and its nonce is 7. -/
def matrix (c : Command) (b : Bank := {}) : State :=
  { oneCtx ctxS with
    act := { args := [2] }
    fabric := { mxes := [(2, { owner := some 1, rights := 15, nonce := 7, queue := [c], bank0 := b })] } }
/-- A command of operation op with a capability of that element: launch 1, all rights, nonce 7. -/
def matrixCommand (op : Nat) : Command :=
  { someCommand with
    major := 0x24
    descA := [BitVec.ofNat 64 (2 + 1 * 2 ^ 11 + 15 * 2 ^ 23 + 7 * 2 ^ 48), BitVec.ofNat 64 op, 0x2000, 0, 0, 0], descB := [3, 3, 0, 0, 0] }

-- refused by its nonce, by its right, by its bank's cell type and by its span; admitted, and a DRAIN of an empty bank
theorem test_hyps_MatrixCommandResults :
    (let s := matrix (matrixCommand 4)
     let m := s.mxe 2
     let c := matrixCommand 4
     m.queue == [c] && m.waiting == none && s.dev.retired == [] && !s.posterHeld (fun r => r.src == 5 && r.loc == siteOfMxe 2) && m.running != some c.id && c.w 1 % 16 == 4 && c.status == 0 && m.owner == some (c.w 0 / 2 ^ 11 % 4096) &&
     m.nonce.toNat == c.w 0 / 2 ^ 48 % 65536 && (c.w 0).testBit (22 + 4) && m.rights.testBit 3 && s.mxeRefuses 2 c == none &&
     (let d : Command := { c with descA := [c.descA.getD 0 0 + 2 ^ 48, 4] }
      m.nonce.toNat != d.w 0 / 2 ^ 48 % 65536) &&
     (let d : Command := { c with descA := [c.descA.getD 0 0 - 2 ^ 26, 4] }
      !(d.w 0).testBit (22 + 4)) &&
     (let t := matrix (matrixCommand 2) { cell := 2 }
      ((t.mxe 2).bank 0).cell == 2 && !intCode (wordN (matrixCommand 2).descB 0 % 32)) &&
     (let d : Command := { matrixCommand 1 with descA := [c.descA.getD 0 0, 1, 0x2000, BitVec.ofNat 64 (weightBytes 2), 1, 0] }
      decide (weightBytes 2 < d.w 3 + d.w 4)) &&
     (let t := matrix (matrixCommand 3)
      t.mxeRefuses 2 (matrixCommand 3) == none && ((t.mxe 2).bank 0).m == 0)) = true := by decide +kernel

-- R268, R270: a LOADW without tiles and with a codebook of zeros; the writes of a DRAIN; an MM of one row by one column in INT8; a command that
-- ends with a status
theorem test_hyps_MatrixCommandResults_operations :
    (let c : Command := { matrixCommand 1 with descA := [(matrixCommand 1).descA.getD 0 0, 1, 0x2000, 0, 0, 0x4000] }
     let s := matrix c
     s.mxeRefuses 2 c == none && passes (s.loadTiles c 2 0 (c.w 4 / 1024)) && passes (s.engRead c (c.w 5) 2048)) = true ∧
    (let c := matrixCommand 3
     passes ((matrix c { cell := 2, m := 1, n := 1 }).writeRows c 0 2 1 0 1) && passes ((matrix c { cell := 2, m := 1, n := 1 }).checkBank .copyEngine 2 0 64 128)) = true ∧
    (let c : Command := { matrixCommand 2 with descA := [(matrixCommand 2).descA.getD 0 0, 2, 0x2000, 0x2020, 0, 0] }
     let record : List Host.Cell := [(0x80000002000, 1), (0x80000002002, 1), (0x80000002004, 3), (0x80000002009, 0x30), (0x80000002020, 1), (0x80000002022, 1), (0x80000002024, 3)]
     let s : State := { matrix c with mem := { bytes := pages ++ record } }
     s.mxeRefuses 2 c == none && c.w 1 % 16 == 2 && passes (s.engRead c (c.w 2) 32) (fun s1 ra => passes (s1.engRead c (c.w 3) 32) (fun s2 rb =>
       let a := shapeOf ra
       let b := shapeOf rb
       decide (a.rows = 1 ∧ a.cols = 1 ∧ b.cols = 1) && passes (s2.fetchA c 3 a.rows a.cols a.base a.pitch (wordN c.descB 2)) (fun s3 _ =>
         passes (s3.fetchB 2 3 a.cols b.cols b.base (some (wordN c.descB 3)))))) &&
     ({ c with status := Cause.engDesc } : Command).status != 0) = true := by decide +kernel

/-- Every cell of bank 0 of the small state's matrix element is zero. -/
theorem cell_zero (c : Command) (b : Bank) (i j : Nat) (h1 : i < 64) (h2 : j < 128) : (matrix c b).cell 2 0 i j = 0 := by
  have h0 (k : Nat) (hk : k < 4) : (matrix c b).byteAt (cellAddr 2 0 i j + k) = 0 := by
    have hs : (matrix c b).shadowByte (cellAddr 2 0 i j + k) = none := by
      have e : ∀ x ∈ [0x1008, 0x1010, 0x1020, 0x1028], (matrix c b).creg x = 0 := by
        intro x hx
        simp only [List.mem_cons, List.not_mem_nil, or_false] at hx
        rcases hx with rfl | rfl | rfl | rfl <;> rfl
      unfold State.shadowByte
      simp [e, field]
    unfold State.byteAt
    rw [hs]
    show memGet pages (cellAddr 2 0 i j + k) = 0
    have ha : cellAddr 2 0 i j = 0x80200000000 + 8388608 + 3145728 + 4 * (128 * i + j) := rfl
    rw [ha]
    unfold pages
    simp only [memGet, Memory.background]
    rw [if_neg (by omega), if_neg (by omega), if_neg (by omega), if_neg (by omega), if_neg (by omega), if_neg (by omega)]
  have h : (matrix c b).bytesAt (cellAddr 2 0 i j) 4 = [0, 0, 0, 0] := by
    show [(matrix c b).byteAt (cellAddr 2 0 i j + 0), (matrix c b).byteAt (cellAddr 2 0 i j + 1), (matrix c b).byteAt (cellAddr 2 0 i j + 2),
      (matrix c b).byteAt (cellAddr 2 0 i j + 3)] = _
    rw [h0 0 (by omega), h0 1 (by omega), h0 2 (by omega), h0 3 (by omega)]
  unfold State.cell
  rw [h]
  rfl
theorem bankCells_zero (c : Command) (b : Bank) : (matrix c b).bankCells 2 0 = List.replicate 64 (List.replicate 128 0) := by
  show (List.range 64).map (fun i => (List.range 128).map (fun j => (matrix c b).cell 2 0 i j)) = _
  rw [List.map_congr_left (g := fun _ => List.replicate 128 0) (fun i hi => by
    rw [List.map_congr_left (g := fun _ => 0) (fun j hj => cell_zero c b i j (List.mem_range.mp hi) (List.mem_range.mp hj))]
    simp [List.map_const'])]
  simp [List.map_const']
theorem settles (c : Command) (b : Bank) (run : Option Nat) (r : Settled) (h : b.settle 0 (List.replicate 64 (List.replicate 128 0)) = r) :
    (((matrix c b).onMxe 2 (fun m => { m with running := run })).settleBank 2 0 0).2 = r := by
  have e1 : ((((matrix c b).onMxe 2 (fun m => { m with running := run })).mxe 2).bank 0) = b := rfl
  have e2 : ((matrix c b).onMxe 2 (fun m => { m with running := run })).bankCells 2 0 = (matrix c b).bankCells 2 0 := rfl
  unfold State.settleBank
  rw [e1, e2, bankCells_zero, h]
  cases r <;> rfl

-- R116, R272: a bank without an altered cell settles; one whose row sum is wrong and whose column sums are right does not; where both are
-- wrong by as much, the cell is rebuilt
theorem test_hyps_MatrixCommandResults_settle (run : Option Nat) :
    (matrix (matrixCommand 3) { cell := 2, m := 1, n := 1 }).mxeRefuses 2 (matrixCommand 3) = none ∧
    (((matrix (matrixCommand 3) { cell := 2, m := 1, n := 1 }).onMxe 2 (fun m => { m with running := run })).settleBank 2 0 0).2 = .ok false ∧
    (((matrix (matrixCommand 3) { cell := 2, m := 1, n := 1, rows := [(0, 1)] }).onMxe 2 (fun m => { m with running := run })).settleBank 2 0 0).2 =
      .mismatch false ∧
    (((matrix (matrixCommand 3) { cell := 2, m := 1, n := 1, rows := [(0, 1)], cols := [(0, 1)] }).onMxe 2
      (fun m => { m with running := run })).settleBank 2 0 0).2 = .rebuilt false 0 0 0 1 :=
  ⟨by decide +kernel, settles _ _ run _ (by decide +kernel), settles _ _ run _ (by decide +kernel), settles _ _ run _ (by decide +kernel)⟩

theorem test_hyps_TileOperation : (2 : Nat) < 1536 ∧ State.reset.memWf ∧ (∀ k, State.reset.shadowByte k = none) ∧
    ([[]] : List (List MElem)).length ≤ bankRows 2 ∧ 1 ≤ bankRows 2 ∧ 1 ≤ bankCols 2 :=
  ⟨by decide, State.reset_memWf, fun _ => rfl, by decide, by decide, by decide⟩

-- Fabric elements and sequencers (R274..R324)

/-- A plane of operation op with these formats, constant and read ports, and further bits (R66). -/
def planeOf (op fin fout imm : Nat) (reads : List Nat) (more : Nat := 0) : BitVec 256 :=
  BitVec.ofNat 256 (op + fin * 2 ^ 8 + fout * 2 ^ 13 + imm * 2 ^ 24 + (reads.length - 1) * 2 ^ 56 +
    (reads.zipIdx.map (fun x => x.1 * 2 ^ (59 + 2 * x.2))).sum + more)
/-- A site that runs that plane. -/
def siteOf (w : BitVec 256) : Site := { slots := [(0, { word := w, loaded := true })], running := true }
/-- The part with that site as number 64, which is to act. -/
def fabricOf (x : Site) (args : List Nat := []) : State := { act := { site := 64, args := args }, fabric := { sites := [(64, x)] } }
/-- A token on a link that the element has still to take. -/
def onLink (t : Token) : PortTok := { tok := t, todo := [6] }
/-- A site whose element finds these tokens at its read ports, 0 first. -/
def fedSite (op fin fout imm : Nat) (ts : List Token) (more : Nat := 0) : Site :=
  { siteOf (planeOf op fin fout imm (List.range ts.length) more) with ports := ts.zipIdx.map (fun x => (x.2, onLink x.1)) }

/-- Fires, as a test, with the element's output free and a property of the plane and the state after the reads. -/
def firesOn (x : Site) (ts : List Token) (p : PlaneSlot → State → Bool := fun _ _ => true) : Bool :=
  let s := fabricOf x
  let s1 := s.takeReads 64 (x.plane.reads.drop x.taken.length) x.taken.length
  let y := s1.site 64
  x.acts && !y.stopped && y.taken == ts && decide (y.plane.reads.length ≤ ts.length) && y.outFree && p y.plane s1

/-- A DATA token of sixteen valid words. -/
def someToken : Token := { payload := 0x3F800000, last := true }

-- what firesOn says
theorem fires_of_firesOn (x : Site) (ts : List Token) (p : PlaneSlot → State → Bool) (h : firesOn x ts p = true) :
    ∃ s1, Fires (fabricOf x) s1 ts ∧ (s1.site 64).outFree = true ∧ p (s1.site 64).plane s1 = true := by
  have hx : (fabricOf x).site (fabricOf x).act.site = x := rfl
  simp only [firesOn, Bool.and_eq_true, Bool.not_eq_true', beq_iff_eq, decide_eq_true_eq] at h
  obtain ⟨⟨⟨⟨⟨h1, h2⟩, h3⟩, h4⟩, h5⟩, h6⟩ := h
  exact ⟨_, ⟨by rw [hx]; exact h1, rfl, by rw [hx]; exact h2, by rw [hx]; exact h3, by rw [hx]; exact h4⟩, h5, h6⟩

-- two, one and three operands, of signed lanes, of unsigned bytes and of FP32 lanes (R279, R282..R285)
theorem test_hyps_LaneResults :
    (firesOn (fedSite 0x01 0x0A 0x0A 0 [someToken, someToken]) [someToken, someToken] (fun p _ => laneOf true p.fin == .int 4 true) &&
     firesOn (fedSite 0x01 0x09 0x09 0 [someToken, someToken]) [someToken, someToken] (fun p _ => laneOf false p.fin == .int 8 false) &&
     firesOn (fedSite 0x01 0 0 5 [someToken]) [someToken] (fun p _ => laneOf false p.fin == .flt fp32) &&
     firesOn (fedSite 0x04 1 1 5 [someToken, someToken, someToken]) [someToken, someToken, someToken] (fun p _ => laneOf false p.fin == .flt bf16)) = true ∧
    (∀ t ∈ [someToken, someToken], t.kind = 0) ∧ (4 ∣ 32 ∧ 8 ∣ 32 ∧ fp32.width ∣ 32 ∧ bf16.width ∣ 32) ∧ fp32.e + fp32.m + 1 = fp32.width := by
  decide +kernel

theorem test_hyps_PoisonAndSparse :
    (let q : Token := { someToken with kind := 6 }
     firesOn (fedSite 0x01 0 0 0 [q, someToken]) [q, someToken] && [q, someToken].find? (fun t => t.kind == 6) == some q &&
     [q, someToken].all (fun t => t.kind != 1)) = true ∧
    (let q : Token := { someToken with kind := 1 }
     firesOn (fedSite 0x01 0 0 0 [q, someToken]) [q, someToken] && firesOn (fedSite 0x33 0 0 0 [q, someToken]) [q, someToken] &&
     [q, someToken].any (fun t => t.kind == 1)) = true ∧
    (let q : Token := { someToken with kind := 6 }
     firesOn (fedSite 0x33 0 0x14 0x3F800000 [q, someToken]) [q, someToken] (fun p _ => tensorScaleOk (fp32.decode p.imm)) = true) := by decide +kernel

theorem test_hyps_ReadSequence :
    mfind ((fabricOf (fedSite 0x01 0 0 0 [someToken])).site 64).ports 0 = some (onLink someToken) ∧ (onLink someToken).todo.contains 6 = true ∧
    (onLink someToken).tok.kind = 0 ∧
    (let t := onLink { kind := 5 }
     2 ≤ t.tok.kind ∧ t.tok.kind ≤ 5 ∧ (1 : Nat) ≠ 0 ∧ ((fabricOf (fedSite 0x01 0 0 0 [someToken])).site 64).op ∉ [0x32, 0x33, 0x55, 0x63]) := by decide +kernel

-- FP32 to BF16, a group of INT8 codes, a scale that SX4 cannot use and one that it can, and BX8 codes (R286, R295..R297)
theorem test_hyps_ConversionResults :
    (firesOn (fedSite 0x30 0 1 0 [someToken, someToken]) [someToken, someToken] (fun p _ => (laneOf false p.fin).width == 32 && (laneOf false p.fout).width == 16) &&
     firesOn (fedSite 0x31 0 1 0 [someToken]) [someToken] (fun p _ => laneOf false p.fin == .flt fp32 && laneOf false p.fout == .flt bf16) &&
     firesOn (fedSite 0x32 0 8 0 [someToken]) [someToken] (fun p s1 => decide (((fired s1 64).groupBlocks p [someToken]).length ≤ 16)) &&
     firesOn (fedSite 0x33 0 0x14 0 [someToken, someToken]) [someToken, someToken] (fun p _ => p.fout == 0x14 && !tensorScaleOk (fp32.decode p.imm)) &&
     firesOn (fedSite 0x33 0 0x14 0x3F800000 [someToken, someToken]) [someToken, someToken] (fun p _ => p.fout == 0x14 && tensorScaleOk (fp32.decode p.imm)) &&
     firesOn (fedSite 0x34 0x0E 0 0 [someToken]) [someToken] (fun p _ => codeFloat p.fout == some fp32)) = true ∧
    (32 ∣ 32 ∧ 16 ∣ 32) ∧ ([someToken] : List Token).length = 1 := by decide +kernel

-- a segment that ends, one that does not, and an accumulator in use (R287)
theorem test_hyps_ReductionResults :
    (let t : Token := { someToken with last := false }
     firesOn (fedSite 0x20 0 0 0 [someToken]) [someToken] (fun p s1 => laneOf false p.fin == .flt fp32 && (s1.site 64).elem.poison == none && (s1.site 64).elem.acc == []) &&
     firesOn (fedSite 0x20 8 8 1 [someToken]) [someToken] (fun p _ => p.imm % 2 == 1 && laneOf false p.fin == .int 8 true) &&
     firesOn { fedSite 0x20 0 0 0 [t] (5 * 2 ^ 114) with elem := { acc := List.replicate 16 1, cnt := 1 } } [t] (fun p s1 =>
       (s1.site 64).elem.acc.length == 512 / 32 && p.depth != 0 && !decide (p.depth ≤ (s1.site 64).elem.cnt + 1))) = true := by decide +kernel

-- the structure operations, each with as many tokens as it reads (R288..R290)
theorem test_hyps_StructureResults :
    (let one (op fin fout imm more : Nat) (p : PlaneSlot → State → Bool) : Bool := firesOn (fedSite op fin fout imm [someToken] more) [someToken] p
     one 0x50 0 0 15 0 (fun p _ => decide (p.imm % 64 < 512 / (laneOf false p.fin).width)) &&
     one 0x51 0 0 4 0 (fun p _ => p.imm % 8 == 4) && one 0x51 0 0 13 0 (fun p _ => p.imm % 8 == 5) &&
     one 0x52 8 0x0A 0 0 (fun p _ => (laneOf true p.fin).width == 8 && (laneOf true p.fout).width == 4) &&
     one 0x53 0x09 0 0 0 (fun p _ => (laneOf true p.fin).width == 8 && (laneOf true p.fout).width == 32) &&
     one 0x54 0 0 0 (2 ^ 114) (fun p s1 => decide ((s1.site 64).outCount < max 1 p.depth)) &&
     one 0x55 8 8 0 0 (fun p s1 => (laneOf true p.fin).width == 8 && decide (((s1.site 64).elem.buf ++ [someToken]).length < 8 / 2)) &&
     one 0x56 0 0 0 (2 ^ 114) (fun p _ => decide (1 ≤ p.depth))) = true ∧
    (let x : Site := { fedSite 0x55 8 8 0 [someToken] with elem := { buf := [someToken, someToken, someToken] } }
     firesOn x [someToken] (fun _ s1 => ((s1.site 64).elem.buf ++ [someToken]).length == 8 / 2 && ((s1.site 64).elem.buf ++ [someToken]).all (fun t => t.kind == 0)) &&
     !((fabricOf { x with outreg := some (someToken, []) }).site 64).outFree) = true ∧
    (let s := fabricOf { fedSite 0x66 0 0 0 [someToken] with launch := some 1 }
     let g : Launch := { queue := 0, record := [] }
     let v : State := { s with launch := { s.launch with live := [(1, g)] } }
     mfind v.launch.live ((v.site 64).launch.getD 0) = some g ∧ g.status.toNat / 2 ^ 32 + 1 < 2 ^ 32) := by decide +kernel

-- a source with an invocation to make, one that has made all, and one that a drain stops (R288, R424)
theorem test_hyps_SourceResults :
    (let s := fabricOf (siteOf (planeOf 0x57 0 0 7 [0] (2 ^ 114 + 2 ^ 128)))
     let x := s.site 64
     x.acts && x.outFree && decide (x.elem.inv < x.plane.bits 143 128) && !(s.draining 64) &&
     (let t := fabricOf { x with elem := { inv := 1 } }
      decide ((t.site 64).plane.bits 143 128 ≤ (t.site 64).elem.inv)) &&
     (let t : State := { fabricOf { x with launch := some 3 } with
        fabric := { sites := [(64, { x with launch := some 3 })], placed := [(3, { mode := .draining, broad := false, x0 := 0, r0 := 0, w := 1, h := 1, image := 0 })] } }
      t.draining 64 && (t.site 64).acts && (t.site 64).elem.cnt == 0) &&
     (let t := fabricOf { siteOf (planeOf 0x65 0 0 0 [0] (2 ^ 114 + 2 ^ 128)) with elem := { args := (List.range 8).map (fun k => (k, 5)) } }
      (t.site 64).plane.argIndexes.all (fun k => (mfind (t.site 64).elem.args k).isSome))) = true := by decide +kernel

theorem test_hyps_SynchronisingResults :
    (let t : Token := { someToken with payload := 3 }
     firesOn (fedSite 0x62 0 0 1 [someToken]) [someToken] && firesOn (fedSite 0x63 0 0 0 [someToken, someToken]) [someToken, someToken] &&
     firesOn (fedSite 0x63 0 0 0 [someToken, t]) [someToken, t] (fun p _ => p.bits 23 23 == 0) &&
     firesOn (fedSite 0x63 0 0 0 [someToken, t] (2 ^ 23)) [someToken, t] (fun p _ => p.bits 23 23 == 1) && someToken != t) = true := by decide +kernel

-- a payload to dispatch, a ticket to emit, and replies that meet and miss their launch (R299..R301)
theorem test_hyps_EscapeResults :
    (let x : Site := { siteOf (planeOf 0x60 0 0 0 [0]) with taken := [someToken], elem := { args := [(0, 0)] } }
     let s := fabricOf x
     (s.site 64).acts && (s.site 64).plane.reads.length == 1 && (mfind x.elem.args (x.plane.imm / 65536)).isSome && x.plane.imm % 256 == 0 &&
     decide ((s.herd (s.escHerd 64)).escq.length < 256) && someToken.kind == 0) = true ∧
    (let k : Ticket := { num := 3, last := false, tok := some someToken }
     let x : Site := { siteOf (planeOf 0x60 0 0 0 [0]) with elem := { tickets := [k] } }
     (x.acts && x.outFree && x.plane.bits 164 164 == 0 && x.taken == [] && x.ports == []) = true ∧ x.elem.tickets = k :: [] ∧ k.waiting = none) ∧
    (let r : EscReply := { handle := 0x100001, evq := 0x100, launch := 1, site := 64, ticket := 3, words := [5] }
     let k : Ticket := { num := 3, last := false }
     let s : State := { fabric := { replies := [r], sites := [(64, { launch := some 1, elem := { tickets := [k] } })] } }
     s.fabric.replies = [r] ∧ s.arg 0 = 0 ∧ r.cause = 0 ∧ (s.site r.site).launch = some r.launch ∧ (s.site r.site).elem.tickets = [k] ∧
     k.num % 65536 = r.ticket ∧ k.tok = none ∧ (({ fabric := { replies := [r] } } : State).site r.site).launch ≠ some r.launch ∧
     r.evq.getLsbD 8 = true) := by decide +kernel

-- a marker at the only port, two that differ, and changes to a slot that is loaded and to one that is not (R280, R308, R309)
theorem test_hyps_MarkerResults :
    (let x := fedSite 0x01 0 0 0 [{ kind := 5 }]
     (x.acts && x.outFree && x.taken == [] && x.op == 0x01 && x.plane.reads == [0] && mfind x.ports 0 == some (onLink { kind := 5 })) = true) ∧
    (let x := fedSite 0x01 0 0 0 [{ kind := 2 }, { kind := 3 }]
     (x.acts && x.outFree && x.plane.reads == [0, 1] && mfind x.ports 0 == some (onLink { kind := 2 }) &&
      mfind x.ports 1 == some (onLink { kind := 3 })) = true) ∧
    (let x := fedSite 0x63 0 0 0 [{ kind := 2 }, { kind := 3 }]
     (x.acts && x.outFree && x.taken == [] && x.op == 0x63 && x.plane.bits 23 23 == 0 && x.plane.reads == [0, 1] &&
      mfind x.ports 0 == some (onLink { kind := 2 }) && mfind x.ports 1 == some (onLink { kind := 3 })) = true) ∧
    (let x : Site := { siteOf (planeOf 0x01 0 0 0 [0]) with change := some 1 }
     x.change = some 1 ∧ x.stopped = false ∧ (mget {} x.slots 1).loaded = false) ∧
    (let x : Site := { siteOf 0 with change := some 0 }
     (mget {} x.slots 0).loaded = true ∧ planeOk (mget {} x.slots 0).word = true ∧ (mget {} x.slots 0).argIndexes = []) := by decide +kernel

-- steer with a control token, and with a marker; merge of two markers, and of one beside data; carry in each of its states (R291..R293)
theorem test_hyps_RouterResults :
    (let w (rop : Nat) : BitVec 256 := planeOf 0x00 0 0 0 [] (rop * 2 ^ 90)
     let x : Site := { siteOf (w 1) with rin0 := some someToken, ctl := [(0, (false, [4]))] }
     x.running = true ∧ x.rstopped = false ∧ x.change = none ∧ x.rin0 = some someToken ∧ someToken.marker = false ∧
     mfind x.ctl (x.plane.bits 97 96) = some (false, [4]) ∧ (false = (x.plane.bits 95 95 == 1)) ∧ x.op0 = none ∧ x.op1 = none) ∧
    (({ kind := 3 } : Token).marker = true ∧ ({} : Site).awaitMarker = false ∧ ({} : Site).atEntry = true ∧
     ({ atEntry := false } : Site).atEntry = false ∧ ({ awaitMarker := true } : Site).awaitMarker = true) := by decide +kernel

/-- A sequencer that is to run a word, with base register 0 at its own memory tile and argument word 1 as given. -/
def seqSite (q : Seq := {}) (a : Word := 7) (more : Nat := 0) : Site :=
  { siteOf (planeOf 0x80 0 0 0 [0] more) with
    seq := { q with mode := .run, r := { pc := 5, b := [(0, BitVec.ofNat 64 ownTile)], lim := [(1, 3)] } }, elem := { args := [(1, a)] } }
/-- Sequences, as a test, with a property of the state. -/
def sequencesOn (x : Site) (p : State → Bool := fun _ => true) : Bool :=
  let s := fabricOf x
  (s.site 64).seqActs && (s.site 64).plane.argIndexes.all (fun k => (mfind (s.site 64).elem.args k).isSome) && !((s.site 64).atBoundary && s.seqDrains 64) && p s

theorem sequences_of_sequencesOn (x : Site) (p : State → Bool) (h : sequencesOn x p = true) : Sequences (fabricOf x) := by
  simp only [sequencesOn, Bool.and_eq_true, Bool.not_eq_true', Bool.and_eq_false_iff, List.all_eq_true] at h
  obtain ⟨⟨⟨h1, h3⟩, h2⟩, -⟩ := h
  refine ⟨h1, fun k hk hn => ?_, fun hc => ?_⟩
  · exact absurd (h3 k hk) (by rw [show mfind ((fabricOf x).site 64).elem.args k = none from hn]; simp)
  have hx : (fabricOf x).act.site = 64 := rfl
  rw [hx] at hc
  rcases h2 with h2 | h2 <;> simp [h2] at hc

-- any word of the program; an argument that a loop takes and one that it does not (R311, R314)
theorem test_hyps_RegisterWords : sequencesOn (seqSite) = true := by decide +kernel
-- a word whose argument 2 has not been read (R314)
theorem test_hyps_ArgumentReads :
    (let x : Site := { seqSite with slots := [(0, { word := planeOf 0x80 0 0 0 [0], seq := [0x08000002], loaded := true })] }
     x.seqActs = true ∧ x.plane.argIndexes = [2] ∧ mfind x.elem.args 2 = none) := by decide +kernel
theorem test_hyps_LoopWords :
    sequencesOn (seqSite) (fun s => decide ((mget 0 (s.site 64).elem.args 1).toNat < 2 ^ 32)) = true ∧
    sequencesOn (seqSite {} (2 ^ 40)) (fun s => decide (2 ^ 32 ≤ (mget 0 (s.site 64).elem.args 1).toNat)) = true ∧
    sequencesOn (seqSite { held := [{ va := 0, pa := 8, bytes := [0] }] }) (fun s =>
      ({ s with mem := { converting := [(0, 0, 0)] } } : State).convertingAt 8 && (s.site 64).seq.held.any (fun x => x.pa == 8)) = true := by decide +kernel

-- loads that are made, misaligned and held back; stores with a token at hand, of POISON, and with 256 held; one lane left (R312..R317)
theorem test_hyps_EmitWords :
    sequencesOn (seqSite) (fun s =>
      mget 0 (s.site 64).seq.skipNow 2 == 0 &&
      passes (s.seqAddr 64 false (BitVec.ofNat 64 ownTile) 8) (fun s1 pa =>
        let v := s1.append 64 2 (heldBytes (s1.site 64).seq.held pa (s1.homeBytes [(pa, 8)]))
        !(v.site 64).stopped && v.agenda == s.agenda) &&
      (match s.seqAddr 64 false (BitVec.ofNat 64 (ownTile + 1)) 8 with
       | .fault s1 _ _ _ => s1.agenda == s.agenda
       | _ => false) &&
      (match ({ s with mem := { converting := [(mtBase 64, 0, 0)] } } : State).seqAddr 64 false (BitVec.ofNat 64 ownTile) 8 with
       | .wait => true
       | _ => false)) = true ∧
    (let store (q : Seq) (p : State → Bool) : Bool := sequencesOn (seqSite q) (fun s =>
       let t := s.takeData 64 2 8
       t.whole && !t.poison && passes (t.s.seqAddr 64 true (BitVec.ofNat 64 ownTile) t.bytes.length) (fun s1 _ =>
         s1.agenda == s.agenda && !(s1.site 64).stopped && p s1))
     (store { iq := [(2, [someToken])], lanes := some [0] } (fun s1 => decide ((s1.site 64).seq.held.length < 256) && (s1.site 64).seq.lanes == some [0]) &&
      store { iq := [(2, [someToken])], held := List.replicate 256 { va := 0, pa := 0, bytes := [] } } (fun s1 => decide (256 ≤ (s1.site 64).seq.held.length)) &&
      sequencesOn (seqSite { iq := [(2, [{ someToken with kind := 6 }])] } 7 (2 ^ 23)) (fun s =>
        let t := s.takeData 64 2 8
        t.whole && t.poison) &&
      sequencesOn (seqSite) (fun s => !(s.takeData 64 2 8).whole) &&
      sequencesOn (seqSite { lanes := some [0] }) (fun s => match s.seqLoad 64 2 (BitVec.ofNat 64 ownTile) 8 with
        | some v => !(v.site 64).stopped && v.agenda == s.agenda
        | none => false) &&
      sequencesOn (seqSite { iq := [(2, [{ kind := 4, payload := 1 }])], lanes := some [0, 1] }) (fun s =>
        let t := s.takeData 64 2 8
        !t.whole && !(t.s.site 64).stopped && t.s.agenda == s.agenda)) = true) := by decide +kernel

-- an outcome at hand, a control token, a link that takes one, a sync that others have and have not met, a fence and a fault (R313..R319)
theorem test_hyps_ControlWords :
    (sequencesOn (seqSite { brq := [true] }) && sequencesOn (seqSite) (fun s => (s.site 64).seq.brq == [] && decide ((s.site 64).seq.skipCtls ≤ (s.site 64).seq.ctls) &&
       mfind (s.site 64).ctl 2 == none && (s.sendCtl 64 2 true).isNone && (s.site 64).op != 0x82 &&
       (List.range 4).all (fun q => mget [] (s.site 64).seq.oq q == []) && (s.site 64).plane.reads == [] && (s.site 64).seq.held == []) &&
     sequencesOn { seqSite with ctl := [(2, (true, []))] } (fun s => (mfind (s.site 64).ctl 2).isSome) &&
     sequencesOn { seqSite with launch := some 1 } (fun s => (s.sendCtl 64 2 true).isSome) &&
     sequencesOn (seqSite { passed := true }) (fun s => (s.site 64).seq.passed) && sequencesOn (seqSite { skipCtls := 1 }) (fun s => decide ((s.site 64).seq.ctls < (s.site 64).seq.skipCtls)) &&
     (let c := Cause.hallmarkUncorrectable
      c != 64 && decide (64 ≤ 71 ∧ 71 < 128 ∧ 71 % 8 = 7) && !(decide (64 ≤ 5)) && c != 5) && sequencesOn (seqSite { counted := true }) (fun s => (s.site 64).seq.counted) &&
     (let x := seqSite { fence := some (2, true) }
      !x.stopped && x.outFree && x.running && x.seq.mode == .run)) = true := by decide +kernel

-- Device events: contexts and memory (R38, R42, R54, R171, R224, R336, R362, R367)

/-- The part with a context that is to fetch its block, whose first word is w, in the memory at 0x4000. -/
def fetches (w : Nat) (c : Context := ctxS) (addr : Nat := 0x4000) : State :=
  let bytes := ((List.range 4).map (fun k => (0x80000004000 + k, BitVec.ofNat 8 (w / 2 ^ (8 * k))))).filter (fun x => x.2 != 0)
  { oneCtx { c with phase := .fetch, addr := BitVec.ofNat 64 addr } with mem := { bytes := pages ++ bytes } }
/-- The state in which a fetch is made: held window writes have taken effect, and the timer's event is raised. -/
def begins (s : State) : State := (s.applyWindow 0 0).onCtx 0 0 (fun c => c.raise s.time)
/-- The party that fetches for the acting context. -/
def fetchParty (s : State) : Party := { ptb := (s.me.sr 0x060).toNat, asid := (s.me.sr 0x061).toNat, super := s.me.super, core := 0, ctx := 0 }

-- a pending fault, a request, the timer; a misaligned address; a page that is not mapped; words that fail each check; and one that passes
theorem test_hyps_BlockFetch :
    (let ready (s : State) : Bool := s.me.live && s.me.phase == .fetch && (let c := (begins s).me
       c.pendFault == none && c.qntInf == none && !c.switchReq && !(c.timerEvent && c.ie) && (begins s).leaderOf 0 0 == (0, 0))
     let words (s : State) (p : BitVec 32 → BitVec 32 → Bool) : Bool := ready s && s.me.addr.toNat % 8 == 0 && (match (begins s).fetchAt (fetchParty s) s.me.addr with
       | .words _ w0 w1 => p w0 w1
       | _ => false)
     let good (w0 : BitVec 32) : Bool := isBlkWord w0 && wordTop w0 && headerReserved w0 == 0
     ready (fetches 0 ctxS 0x4004) && (fetches 0 ctxS 0x4004).me.addr.toNat % 8 == 4 &&
     ready (fetches 0 ctxS 0x40000000) && (match (begins (fetches 0 ctxS 0x40000000)).fetchAt (fetchParty (fetches 0)) 0x40000000 with
       | .fault _ => true
       | _ => false) &&
     (let s : State := { fetches 0 with mem := { bytes := pages, converting := [(0x80000000000, 0, 0)] } }
      ready s && (match (begins s).fetchAt (fetchParty s) 0x4000 with
       | .wait => true
       | _ => false)) &&
     (let l : Context := { ctxS with gang := some 0x2000, pos := 0, words := [0xBF00C000, 0] }
      let s : State := { cores := [(0, { ctxs := [(0, l), (1, { l with phase := .fetch })] })], mem := { bytes := pages }, act := { ctx := 1 } }
      let b := (s.applyWindow 0 1).onCtx 0 1 (fun c => c.raise s.time)
      s.me.live && s.me.phase == .fetch && b.leaderOf 0 1 == (0, 0) && (b.ctxOf 0 0).phase == .body && (b.ctxOf 0 0).pos == 0 && (b.ctxOf 0 0).addr == b.me.addr) &&
     words (fetches 0) (fun w0 _ => !(isBlkWord w0 && wordTop w0)) &&
     words (fetches 0xBF00C001) (fun w0 _ => isBlkWord w0 && wordTop w0 && headerReserved w0 != 0) &&
     words (fetches 0xBF01C000 { ctxS with sreg := [(0x060, 0x80000000000)] }) (fun w0 _ => good w0 && w0.getLsbD 16) &&
     !(fetches 0 { ctxS with sreg := [(0x060, 0x80000000000)] }).me.super &&
     words (fetches 0xBF004000) (fun w0 _ => good w0 && !w0.getLsbD 15) &&
     words (fetches 0xBF02C000) (fun w0 w1 => good w0 && (blockCheck [w0, w1] false).isSome) &&
     words (fetches 0xBF00C000) (fun w0 w1 => good w0 && blockCheck [w0, w1] false == none && field w0.toNat 23 18 == 0)) = true ∧
    (let f : StateFault := { cause := 1, tval := 0, tval2 := 0 }
     (fetches 0 { ctxS with pendFault := some f }).me.pendFault = some f ∧ (fetches 0 { ctxS with qntInf := some f }).me.qntInf = some f ∧
     (fetches 0 { ctxS with switchReq := true }).me.switchReq = true ∧
     (let c := (fetches 0 { ctxS with timerEvent := true, sreg := [(0x020, 5), (0x060, 0x80000000000)] }).me
      c.timerEvent = true ∧ c.ie = true ∧ c.switchReq = false)) := by decide +kernel

-- Admits: a block at U that only S may run, one for the other mode, one whose words are refused, and one that runs
theorem test_hyps_Admits :
    (let v := oneCtx ctxS
     let w (x : BitVec 32) : BitVec 32 := [x, (0 : BitVec 32)].getD 0 0
     (w 0xBF01C000).getLsbD 16 && !((oneCtx ctxU).ctxOf 0 0).super && !((w 0xBF00C000).getLsbD 16 && !(v.ctxOf 0 0).super) && !(w 0xBF004000).getLsbD 15 &&
     !(v.core 0).pmode && (w 0xBF00C000).getLsbD 15 && (blockCheck [0xBF02C000, 0] false).isSome && blockCheck [0xBF00C000, 0] false == none) = true := by decide +kernel

-- the end of the words is not mapped, and the block is of two bundles
theorem test_hyps_BlockFetch_more :
    (let s := fetches 0xBF04C000 ctxS 0x3FFFFFF8
     (match ({ s with mem := { bytes := pages ++ [(0x8003FFFFFF9, 0xC0), (0x8003FFFFFFA, 4), (0x8003FFFFFFB, 0xBF)] } } : State).fetchMore (fetchParty s) s.me.addr 1 1 with
      | (_, .fault _ _) => true
      | _ => false) &&
     (match (fetches 0xBF04C000).fetchMore (fetchParty (fetches 0)) 0x4000 1 1 with
      | (_, .words ws) => ws == [0, 0]
      | _ => false)) = true := by decide +kernel

theorem test_hyps_ReturnsAndTimer :
    (let s : State := { oneCtx { ctxS with outst := [[]], timerAt := some 5 } with act := { args := [0] }, time := 5 }
     s.act.args = [0] ∧ s.me.outst[0]? = some [] ∧ s.me.timerAt = some 5 ∧ 5 ≤ s.time ∧ ({ s with time := 4 } : State).time < 5 ∧ s.me.timerEvent = false ∧ s.me.ie = false) ∧
    (let s := oneCtx { ctxS with timerAt := some 0, sreg := [(0x020, 5), (0x060, 0x80000000000)] }
     s.me.timerAt = some 0 ∧ 0 ≤ s.time ∧ s.me.live = true ∧ s.me.phase = .body ∧ s.me.switchReq = false ∧ s.me.ie = true ∧ s.me.setsTimer = false ∧
     s.me.heldWrites = []) := by decide +kernel

-- a block that stands, one that was discarded, and a trap
theorem test_hyps_VectorIssue :
    (let e : VuEntry := { ctx := 0, epoch := 0, writes := [], trap := none, inf := none }
     let s : State := { cores := [(0, { ctxs := [(0, ctxS)], vuq := [e] })] }
     let c := s.ctxOf 0 0
     s.vuNext 0 = some 0 ∧ (s.core 0).vuq = e :: [] ∧ 1 ≤ (s.core 0).vshare ∧ c.epoch = e.epoch ∧ c.live = true ∧ e.trap = none ∧
     c.epoch ≠ ({ e with epoch := 1 } : VuEntry).epoch) := by decide +kernel

-- a write that is to go to each recipient in turn, one that is not ready, and updates to drain (R336)
theorem test_hyps_Updates :
    (let w : WordWrite := { word := 0x10000000400, mask := 0xFF, val := 5 }
     let at0 (f : Flight) : State := { cores := [(0, { wq := [f] })], dev := { creg := [(0x1030, 1)] } }
     let ready (f : Flight) : Bool := (at0 f).myCore.wq[0]? == some f && !f.atPort && (at0 f).turnOf 0 f == (0, f) && (at0 f).flightReady 0 f
     let f : Flight := { id := 1, ctx := 0, write := w, atHerd := false, atHome := false, toSlices := [3] }
     let held (s : State) (f : Flight) (leaves : Bool) : Bool := s.myCore.wq[0]? == some f && f.atPort && s.mayLeave 0 f == leaves
     let left (s : State) (f : Flight) : State := s.setCore 0 { s.myCore with wq := s.myCore.wq.filter (fun g => g.id != f.id) }
     let p : Flight := { f with atPort := true, write := { w with word := 0x400 } }
     (let lost : Flight := { p with reads := true, write := { w with mask := 0x0F } }
      let s : State := { at0 lost with mem := { poison := [w.word] } }
      held s lost true && (match s.lostCause 0 lost with
        | (_, some c) => c != 0
        | _ => false)) &&
     w.word != fenceWord && held (at0 { p with walk := some 1 }) { p with walk := some 1 } false &&
     (let r : Flight := { p with write := { w with word := fenceWord }, rel := 2 }
      held (at0 r) r true && !r.reads) &&
     held (at0 p) p true && ((at0 p).region (8 * 0x400)).cached && !(left (at0 p) p).keepsDirty 0 0 0x400 p.obj && p.amo == none && p.rel == 0 && !p.reads && (left (at0 p) p).myCore.l1.length == 0 && p.write.word != fenceWord &&
     (let s : State := { at0 p with cores := [(0, { wq := [p], l1 := [(0x400, { val := 3, dirty := some (ownerOf 0 0) })] })] }
      held s p true && (left s p).keepsDirty 0 0 0x400 p.obj && p.write.mask != 0) &&
     (let u : Update := { id := 1, src := 0, write := w }
      let g : Flight := { f with toL1 := [2] }
      let s : State := { cores := [(0, { wq := [g] }), (2, { net := [u] })] }
      s.flightReady 0 g && s.turnOf 0 g == (0, g) && (s.core 2).net == [u] && u.id == g.id) &&
     (let u : Update := { id := 1, src := ({} : State).homeSlice w.word, write := w }
      let s : State := { cores := [(0, { wq := [f] })], herds := [(3, { net := [u] })] }
      s.flightReady 0 f && s.turnOf 0 f == (0, f) && (s.herd 3).net == [u] && u.id == f.id && u.src == s.homeSlice w.word) &&
     ready { f with atHerd := true } && ready { f with toL1 := [2] } &&
     ready { f with atHome := true } && ready f && (at0 { f with toSlices := [] }).myCore.wq[0]? == some { f with toSlices := [] } &&
     !(at0 { f with toSlices := [] }).flightReady 0 { f with toSlices := [] }) = true ∧
    (let w : WordWrite := { word := 0x10000000400, mask := 0xFF, val := 5 }
     let s : State := { cores := [(0, { inq := [w], l1 := [(w.word, { val := 3 })] })], herds := [(0, { inq := [w] })] }
     s.arg 0 ≠ 1 ∧ s.myCore.inq = w :: [] ∧ (s.herd 0).inq = w :: [] ∧ ({ s with act := { args := [1] } } : State).arg 0 = 1 ∧
     mfind s.myCore.l1 w.word = some { val := 3 } ∧ ({ val := 3 } : Copy).dirty = none ∧ (∀ z ∈ s.myCore.ownWrites, z.word ≠ w.word) ∧
     mfind (s.herd 0).copies w.word = none ∧ ({ val := 3, dirty := some 0 } : Copy).dirty.isSome = true ∧
     (let t : State := { cores := [(0, { l1 := [(w.word, { val := 3 })] })], herds := [(0, { inq := [w], copies := [(w.word, { val := 3 })] })] }
      mfind (t.herd 0).copies w.word = some { val := 3 } ∧ (t.herd 0).pend = [] ∧ (mfind (t.core 0).l1 w.word).isSome = true ∧ (3 : Word) ≠ w.val)) := by
  decide +kernel

-- a pointer, a leaf and no valid entry; a line without and with an error, correctable and not (R362, R367)
theorem test_hyps_WalksOfTables :
    (let x (l t : Nat) : TlbWalk := { slice := 0, asid := 0, va := 0x4000, level := l, table := t }
     let s (w : TlbWalk) : State := { oneCtx ctxS with mem := { bytes := pages, tlbWalks := [w] } }
     let entry (w : TlbWalk) : Word := ((s w).homeWord ((s w).localPa (w.table + 8 * tableIndex w.va w.level) / 8)).val
     let w0 := x 0 0x80000000000
     let w1 := x 1 0x80000001000
     let w2 := x 1 0x80000002000
     (s w0).mem.tlbWalks[0]? == some w0 && !w0.waits && !(s w0).sliceDown 0 && (s w0).mem.latent == [] && (s w0).mem.errs == [] && (s w0).mem.poison == [] && (s w0).entryOk (entry w0) 0 && !(entry w0).getLsbD 1 &&
     (s w1).entryOk (entry w1) 1 && (entry w1).getLsbD 1 && (s w1).mem.tlb == [] && !(s w2).entryOk (entry w2) 1 &&
     (let ew := (s w0).localPa (0x80000000000 + 8 * tableIndex 0x4000 0) / 8
      ({ s w0 with mem := { (s w0).mem with poison := [ew] } } : State).mem.poison.contains ew)) = true ∧
    (let s (e : Word) : State := { mem := { latent := [(0, e)] }, dev := { creg := [(0x1030, 1024), (0x1038, 128)] } }
     (s 1).patrolLine ((s 1).homeSlice 0) 8192 0 = some 0 ∧ (s 1).patrolNext 0 = 0 ∧ mfind (s 1).mem.latent 0 = some 1 ∧ (s 1).mem.errs = [] ∧
     (s 1).uncorrectable 0 = false ∧ (s 0x11).uncorrectable 0 = true ∧
     (let e : ArrayErr := { array := 0x0D, unit := (s 1).homeSlice 1, word := 1, flips := 0x11 }
      let t : State := { s 1 with mem := { errs := [e] } }
      t.mem.errOf 0x0D (t.homeSlice 1) 1 = some e ∧ 2 ≤ popCount 64 e.flips.toNat ∧ mfind t.mem.latent 1 = none) ∧
     (∀ i, i < 8 → mfind ({} : State).mem.latent (0 + i) = none)) := by decide +kernel
-- no line of the next 8,192 is the slice's own: the part without channels has none
theorem test_hyps_WalksOfTables_none : State.reset.patrolLine 500 8192 0 = none := by decide +kernel

-- the head of the mark stack has the state, may not be published, is not mapped, and is entered; nothing is left (R152, R171..R173)
theorem test_hyps_PublishWalks :
    (let w : Walk := { id := 1, scope := 2, handle := 0x100001, core := 0, ctx := 0, asid := 0, ptb := 0x80000000000, root := 0x2000, queue := [0x2000] }
     let s (hdr : List Host.Cell) (w : Walk) : State := { oneCtx ctxS with mem := { bytes := pages ++ hdr }, herds := [(0, { walks := [w] })] }
     let meets (hdr : List Host.Cell) (w : Walk) (p : Visit → Bool) : Bool :=
       let t := s hdr w
       t.act.args == [] && (t.herd 0).walks == [w] && !w.waits && w.held == none && !t.heldBefore w && !w.retrying && decide (w.spilled ≤ w.refilled) && w.takeover == [] &&
         (let v := t.pushHeader { w with queue := [] } (w.queue.headD 0)
          let u := v.walkDetect { w with queue := [] } (match v.translate w.ptb w.asid w.super .read (BitVec.ofNat 64 (w.queue.headD 0)) with
            | .ok l => [l.pa / 8]
            | .error _ => [])
          p (u.visit { w with queue := [] } (w.queue.headD 0) false))
     let bytes (x : Nat) : List Host.Cell := ((List.range 8).map (fun k => (0x80000002000 + k, BitVec.ofNat 8 (x / 2 ^ (8 * k))))).filter (fun x => x.2 != 0)
     let owned := ownerOf 0 0 * 2 ^ 33
     meets (bytes (owned + 2 * 2 ^ 30)) w (fun v => match v with
       | .skip hpa => (s [] w).setBy 1 hpa == none
       | _ => false) &&
     meets (bytes (3 * 2 ^ 28)) w (fun v => match v with
       | .stop c => c == memCause .tag .walker
       | _ => false) &&
     meets [] { w with queue := [0x40000000] } (fun v => match v with
       | .fault _ _ => true
       | _ => false) &&
     meets (bytes owned) w (fun v => match v with
       | .enter hpa h => h == owned && ((s (bytes owned) w).scanObj 0 { w with queue := [] } 0x2000 hpa h false false).isSome
       | _ => false) &&
     (let e : Walk := { w with queue := [] }
      e.fix == [] && (s [] e).walkCompletes e) && w.site == none &&
     ({ s [] w with launch := { threads := [(0x100001, { slot := 0, place := some (0, 0) })] } } : State).placeOf w.handle == some (0, 0)) = true := by
  decide +kernel

-- Device events: messages, fault records and control registers (R145, R197..R206, R369, R380, R402, R410..R422, R493)

/-- The part with thread 0x100001 in context 0 of core 0, and this message. -/
def arrives (m : Msg) (c : Context := ctxS) : State :=
  { oneCtx c with launch := { threads := [(0x100001, { slot := 0, place := some (0, 0) })], msgs := [m] } }
/-- A message for it. -/
def someMsg : Msg := { src := 0x100002, dst := 0x100001, pri := 0, words := [], time := 0, evq := 0, core := 1 }

-- the ring has room, is full, or is not mapped; the thread is gone; it is switched out (R199, R201, R422)
theorem test_hyps_MessageEvents :
    (let full : Ring := { occ := 16 }
     let at64 (a : Nat) : Context := { ctxS with sreg := [(0x020, 1), (0x060, 0x80000000000), (0x064, BitVec.ofNat 64 a)] }
     let meets (s : State) (p : Bool) : Bool := s.launch.msgs[0]? == some someMsg && !s.msgBehind someMsg && !s.msgFollows someMsg && !s.unstarted someMsg.dst && p
     let here (s : State) : Bool := s.hasRings someMsg.dst && s.placeOf someMsg.dst == some (0, 0) && !(s.ctxOf 0 0).locked
     let writes (s : State) : Bool := match s.writable 0x80000000000 0 true ((s.ctxOf 0 0).sr 0x064).toNat 10 with
       | .ok ws => ws.length == 10
       | .error _ => false
     let s := arrives someMsg (at64 0x3000)
     meets s (here s && decide ((mget {} (s.ctxOf 0 0).rings 0 : Ring).occ < 16) && writes s && !s.routeWaits 0 &&
       !s.writeWaits 0x80000000000 0 true 0x3000 10) &&
     (let t : State := { s with mem := { s.mem with converting := [(0x80000000000, 0, true)] } }
      meets t (here t && t.writeWaits 0x80000000000 0 true 0x3000 10)) &&
     (let t : State := { s with dev := { refetch := [0] } }
      meets t (here t && t.routeWaits 0)) &&
     (let t := arrives someMsg { at64 0x3000 with rings := [(0, full)] }
      meets t (here t && !t.routeWaits 0 && (mget {} (t.ctxOf 0 0).rings 0 : Ring).occ == 16)) &&
     (let t := arrives someMsg (at64 0x40000000)
      meets t (here t && !t.routeWaits 0 && !t.writeWaits 0x80000000000 0 true 0x40000000 10 && (match t.writable 0x80000000000 0 true 0x40000000 10 with
        | .error _ => true
        | .ok _ => false))) &&
     (let t : State := { launch := { msgs := [someMsg] } }
      meets t (!t.hasRings someMsg.dst)) &&
     (let t : State := { launch := { msgs := [someMsg], live := [(1, { queue := 0, record := [0x200] })] } }
      t.launch.msgs[0]? == some someMsg && t.unstarted someMsg.dst) &&
     (let t : State := { launch := { msgs := [{ someMsg with seq := 4 }] }, cores := [(2, { sendbuf := [(0, { someMsg with seq := 3 })] })] }
      t.launch.msgs[0]? == some { someMsg with seq := 4 } && t.msgFollows { someMsg with seq := 4 }) &&
     (let t : State := { launch := { msgs := [someMsg], threads := [(0x100001, { slot := 0 })] } }
      meets t (t.hasRings someMsg.dst && t.launch.threads == [(0x100001, { slot := 0 })])) &&
     (let t : State := { cores := [(0, { sendbuf := [(0, someMsg)] })] }
      mfind t.myCore.sendbuf 0 == some someMsg && mfind t.myCore.sendbuf 1 == none && t.launch.msgs == [])) = true := by decide +kernel

-- a saved ring that is full, and one with room whose slot is at scratch (R422)
theorem test_hyps_MessageEvents_saved :
    (let save (b : List Host.Cell) : State :=
       { act := { args := [0] }, mem := { bytes := pages ++ b }, dev := { creg := [(0x3040, 0x80000010000)] }
         launch := { msgs := [someMsg], threads := [(0x100001, { slot := 0 })] } }
     (save [(0x80000010E21, 1)]).slotWord 0x100001 0xE20 = 0x100 ∧
     (let s := save [(0x80000010900, 1), (0x80000010B05, 8), (0x80000010B21, 0x30)]
      s.slotWord 0x100001 0x900 = 1 ∧ s.slotWord 0x100001 0xB00 = 0x80000000000 ∧ s.slotWord 0x100001 0xB20 = 0x3000 ∧
      (match s.writable 0x80000000000 0 true 0x3000 10 with
       | .ok ws => ws.length == 10
       | .error _ => false) = true ∧ s.writeWaits 0x80000000000 0 true 0x3000 10 = false ∧
      ({ s with mem := { s.mem with converting := [(0x80000000000, 0, true)] } } : State).writeWaits 0x80000000000 0 true 0x3000 10 = true)) := by decide +kernel

theorem test_hyps_EventPosts :
    (let s : State := { herds := [(0, { posts := [(2, [5])], lastPoster := 1 })] }
     (s.herd 0).events.length < 256 ∧ nextPost (s.herd 0).posts (s.herd 0).lastPoster = some (2, [5]) ∧ (s.herd 0).posts = (2, [5]) :: [] ∧
     (2 : Nat) < 6 ∧ (s.herd 0).lastPoster < 6 ∧ s.dev.finishing = [] ∧
     (let f : Finish := { unit := 2, cmd := someCommand, post := some (0, [5]), queued := true }
      f.queued = true ∧ f.unit = 2 ∧ f.post = some (0, [5]) ∧ f.cmd.pend = 0)) ∧
    256 ≤ (({ herds := [(0, { events := List.replicate 256 [] })] } : State).herd 0).events.length := by decide +kernel

-- the ring is off, has room, and is full; records of each severity and of each agent (R402, R410..R412)
theorem test_hyps_FaultRecords :
    (let r : FaultRec := { cause := 1, sev := 0, src := 3 }
     let s (fq : Word) (tail : Word) : State := { fault := { waiting := [r] }, dev := { creg := [(0x3008, fq), (0x3010, tail)] } }
     (s 0 0).fqOn = false ∧ (s 0x26 0).fqOn = true ∧ (s 0x26 0).fqFull = false ∧ (s 0x26 0).fqSource = some 3 ∧
     takeFirst (fun x => x.src % 8 == 3) (s 0x26 0).fault.waiting = some (r, []) ∧ r.agent = .none ∧ (s 0x26 64).fqFull = true ∧
     takeFirst (fun x => x.sev == 0) (s 0x26 64).fault.waiting = some (r, [])) ∧
    (let s (r : FaultRec) : State := { oneCtx { ctxS with lost := some .exit } with fault := { posted := [(0, r)] } }
     let r (sev : Nat) (a : Agent) : FaultRec := { cause := 1, sev := sev, src := 3, agent := a }
     mfind (s (r 1 (.mxe 2))).fault.posted 0 = some (r 1 (.mxe 2)) ∧ (r 1 (.mxe 2)).sev = 1 ∧ (r 2 .none).sev = 2 ∧ (r 3 .none).sev ≠ 1 ∧
     (s (r 1 (.trap 0x100001))).placeOf 0x100001 = some (0, 0) ∧ ((s (r 1 (.access 0x100001))).ctxOf 0 0).lost = some .exit ∧
     ((s (r 1 (.access 0x100001))).ctxOf 0 0).stall = none ∧ (oneCtx { ctxS with stall := some 0 }).me.stall = some 0) := by decide +kernel

theorem test_hyps_ThreadControls :
    (oneCtx ctxS).me.live = true ∧ (oneCtx ctxS).me.locked = false ∧ ({} : State).me.live = false ∧
    (let x : Placed := { mode := .running, broad := false, x0 := 0, r0 := 0, w := 1, h := 1, image := 0 }
     let s : State := { fabric := { placed := [(0, x)] }, launch := { live := [(0, { queue := 0, record := [3] })] }, dev := { creg := [(0x3058, 1024)] } }
     mfind s.fabric.placed (s.arg 0) = some x ∧ s.graphLive 0 = true ∧ x.mode = .running ∧ s.poolHolds x = true ∧ s.graphLive 1 = false) := by
  decide +kernel

-- R145, R360, R363, R380, R410, R419
theorem test_hyps_ControlWrites :
    ((oneCtx ctxS).windowHole 0 0 8 = false ∧ (8 : Nat) < 0x800 ∧ (oneCtx ctxS).me.phase = .body ∧ (oneCtx ctxS).me.holdsWindow = true ∧ ({} : State).me.holdsWindow = false ∧ ({} : State).windowHole 0 0 8 = false ∧
     ({} : State).me.live = false ∧ ({} : State).me.heldWrites = [] ∧ (oneCtx ctxS).windowHole 0 0 0xFF8 = true) ∧
    ((oneCtx ctxS).windowHole 0 0 (0x800 + 8 * 0x040) = false ∧ srWriteS 0x040 = true ∧ (oneCtx ctxS).srRefuses 0 0x040 8 = false ∧
     ({} : State).windowHole 0 0 (0x800 + 8 * 0x040) = false ∧ ({} : State).srRefuses 0 0x040 8 = false) ∧
    (let s : State := { time := 9, mem := { converting := [(0x80000000000, 5, true)] } }
     s.mem.converting.find? (fun e => decide (e.2.1 ≤ s.time)) = some (0x80000000000, 5, true) ∧ s.mem.latent = [] ∧ s.mem.errs = []) ∧
    (({} : State).fqOn = false ∧ ({ dev := { creg := [(0x3008, 32)] } } : State).fqOn = true ∧ ({} : State).launch.threads = [] ∧
     (({} : State).queue 5).en = false ∧ (({ launch := { queues := [(5, { en := true })] } } : State).queue 5).en = true ∧ ((oneCtx ctxS).ctxOf 0 0).live = true) := by
  decide +kernel

theorem test_hyps_TablePort :
    (let bad (s : State) (v : Nat) : Bool :=
       v / 2 ^ 9 % 2 ^ 7 != 0 || v / 2 ^ 27 % 2 ^ 36 != 0 || (!v.testBit 63 && (decide (1536 ≤ v / 2 ^ 16 % 2 ^ 11) || !s.inWindow))
     bad {} 5 = true ∧ bad {} (2 ^ 63 + 5) = false ∧ bad { dev := { window := true } } 5 = false ∧ ({} : State).dev.go = false ∧
     ({ dev := { go := true } } : State).dev.go = true ∧ ({} : State).inWindow = false ∧ ({ dev := { window := true } } : State).inWindow = true ∧ ({} : State).dev.acks = 0 ∧ ({ dev := { acks := 2, closing := [7] } } : State).dev.acks ≠ 0) := by
  decide +kernel

-- Device events: launches, threads and their switch (R20, R21, R190, R300, R380..R395, R419..R423)

/-- A queue with one record in its ring at 0x6000 and rights of address space 0. -/
def someQueue : LaunchQueue := { base := 0x80000006000, weight := 1, lsize := 4, en := true, tail := 1, ptb := 0x80000000000 }
/-- A record of a kind with two members, whose arguments stand at 0x5000: kinds 1 thread, 2 herd (R382). -/
def someRecord (kind : Nat) : List Word := [BitVec.ofNat 64 (kind + 512), 0x4000, 0, 0, 0, 0, 0x5000, 0]
/-- The bytes of that record in the ring, and a mailbox base and a set record among the arguments. -/
def launchBytes (kind : Nat) : List Host.Cell :=
  pages ++ [(0x80000004001, 0xC0), (0x80000005040, 0x40), (0x80000005049, 0x70), (0x80000006000, BitVec.ofNat 8 kind), (0x80000006001, 2), (0x80000006009, 0x40),
    (0x80000006031, 0x50)]
/-- The part with that queue as number 3, a save area of 16 slots, and event 3. -/
def launches (kind : Nat) (q : LaunchQueue := someQueue) : State :=
  { act := { args := [3] }, mem := { bytes := launchBytes kind }, launch := { queues := [(3, q)] }
    dev := { creg := [(0x3040, 0x80000010000), (0x3048, 16)] } }
/-- The same with a live launch 5 of it, which an event names. -/
def lives (kind : Nat) (f : Launch → Launch := fun x => x) (args : List Nat := [5]) : State :=
  let s := launches kind
  { s with act := { args := args }, launch := { s.launch with
      live := [(5, f { queue := 3, record := someRecord kind, args := [1, 2, 3, 4, 5, 6, 7, 8, 0x40, 0x7000] })] } }

/-- The distributor's record waits for the full fault ring (R410). -/
def heldBack : State := { fault := { waiting := [{ cause := 1, sev := 3, src := 7 }] }, dev := { creg := [(0x3008, 0x26), (0x3010, 64)] } }

-- a queue that is past its size; records that pass and fail; each reason for waiting (R380, R381, R384, R385)
theorem test_hyps_Admission :
    (let past (s : State) : Bool := let y := s.queue 3
       y.en && !y.ovf && decide (2 ^ y.lsize < ((17 : BitVec 32) - y.head).toNat)
     let s := launches 1
     past s && !past (launches 1 { someQueue with ovf := true }) && (s.queue 3).en && decide ((s.queue 3).weight ≠ 0) && !(s.queue 3).ovf &&
     !s.launch.stopped && !s.distributorHeld && !s.outranked 0 3 && !s.resumeServed 0 3 && !s.startServed 0 3 && s.launch.live.isEmpty && s.candidate 3 == some (none, someRecord 1) && passes (s.recordOk 3 (someRecord 1)) (fun t args =>
       let u := t.takeCandidate 3 none
       args.length == 10 && decide (u.launch.pool.length + u.reservedEntries + recChildren (someRecord 1) ≤ 4096) && decide (u.launch.fresh < 4096) &&
       recMxes (someRecord 1) == 0) &&
     passes ((launches 2).recordOk 3 (someRecord 2)) && (launches 0).candidate 3 == some (none, someRecord 0) &&
     fails ((launches 0).recordOk 3 (someRecord 0)) Cause.launchField && (launches 0).targetReady 3 (someRecord 0) &&
     !recFieldsOk ((launches 0).ringRecord 3) && (launches 1 { someQueue with tail := 0 }).candidate 3 == none) = true ∧
    (let r : List Word := [0x0000000000000001, 0, 0, 0, 0, 0, 0, 2]
     let s : State := { herds := [(0, { posts := [(0, [])] })] }
     s.targetReady 3 r = false ∧ heldBack.distributorHeld = true ∧ recChildren [BitVec.ofNat 64 (2 ^ 28 * 4000)] = 4000) := by decide +kernel

theorem test_hyps_Placement :
    (let s := lives 1
     let x := s.liveLaunch 5
     !s.distributorHeld && !s.resumeServed (fieldOfCore 0) x.queue && heldBack.distributorHeld && (mfind s.launch.live 5).isSome && !(s.core 0).reservedCtx 0 && s.slotOpen x.queue 0 0 && s.resuming x.queue 0 0 == [] && s.startFits 5 0 0 &&
     s.freeSlot == some 0 && !(lives 1 (fun x => { x with next := 2 })).startFits 5 0 0) = true ∧
    (let s : State := { lives 1 with launch := { (lives 1).launch with threads := [(0x500000, { slot := 0 })] } }
     let q := (s.liveLaunch 5).queue
     (s.resuming q 0 0).find? (fun y => launchOfHandle y == 5) = some 0x500000 ∧ s.resumeFits 0x500000 0 0 = true ∧ s.slotOpen q 0 0 = true ∧
     s.resumeFits 0x500001 0 0 = false) := by decide +kernel

theorem test_hyps_HerdPlacement :
    (let s := lives 2 (fun x => x) [5, 0]
     let x := s.liveLaunch 5
     s.herdFits 5 0 && !(lives 1).herdFits 5 0 && x.trans == none && s.launch.live.all (fun y => y.1 == 5) && !s.distributorHeld && !s.outranked (fieldOfHerd 0) x.queue &&
     !s.resumeServed (fieldOfHerd 0) x.queue && !s.transacting (fieldOfHerd 0) &&
     (match s.herdClaims 5 0 with
      | some cs => cs.length == 2
      | none => false) &&
     (let t := lives 2 (fun x => { x with trans := some (0, 0), claims := [(0, 0), (1, 0)] }) [5, 0]
      (t.liveLaunch 5).trans == some (0, 0) && decide (t.time < 0 + 96) && t.herdFits 5 0 && (t.placeHerd 5 0).isSome &&
      (({ t with herds := [(0, { units := (List.range 4).map (fun k => (k, { record := some 64 })) })] } : State).placeHerd 5 0).isNone)) = true ∧
    0 + 96 ≤ ({ time := 96 } : State).time := by decide +kernel

-- a slot that another queue has borrowed, with a thread of its owner to place; a launch of which all have retired (R391..R393, R386)
theorem test_hyps_SlotsAndDone :
    (let s : State := { lives 1 with
       cores := [(0, { ctxs := [(0, { ctxS with handle := 0x600000 })], slots := [(0, { owner := some 3, asg := some 4 })] })] }
     let s : State := { s with launch := { s.launch with live := s.launch.live ++ [(6, { queue := 4, record := someRecord 1 })] } }
     s.borrowed 0 0 == some (3, 4) && !s.me.switchReq && ({} : State).borrowed 0 0 == none && s.queueOf 0 0 == some 4 &&
     ((s.fieldSlots (fieldOfCore 0)).filter (fun c => (mget {} (s.core c.1).slots c.2).owner == some 3)) == [(0, 0)] && (s.ctxOf 0 0).live) = true ∧
    (let s := lives 1 (fun x => { x with next := 2, retired := 2 })
     let x := s.liveLaunch 5
     mfind s.launch.live 5 = some x ∧ recKind x.record ≠ 3 ∧ x.next = recCount x.record ∧ x.retired = recCount x.record ∧ s.targetReady x.queue x.record = true ∧
     (let t := lives 1 (fun y => { y with record := [0x201, 0, 0, 0, 0, 0, 0, 2] })
      ({ t with herds := [(0, { posts := [(0, [])] })] } : State).targetReady 3 (t.liveLaunch 5).record = false) ∧
     x.mxes = [] ∧ recDone x.record = 0 ∧ ((lives 1).liveLaunch 5).retired ≠ recCount x.record) ∧
    (recDone [0, 0, 0, 0, 0, 0, 0, 2] = 2 ∧ (({} : State).herd 0).events.length < 256 ∧ (({} : State).herd 0).posts = []) ∧
    (({} : State).time % 16384 = 0 ∧ ({ time := 1 } : State).time % 16384 ≠ 0) := by decide +kernel

-- the owner's thread may start in a context, as the reclaim asks (R393)
theorem test_hyps_SlotReclaim_start : (∃ y ∈ (lives 1).launch.live, y.2.queue = 3 ∧ (lives 1).startFits y.1 0 0 = true) :=
  ⟨_, List.mem_singleton_self _, by decide +kernel, by decide +kernel⟩

-- a herd launch of as many threads as the herd has contexts, one of which a borrower holds (R393)
theorem test_hyps_SlotReclaim_herd :
    (let s := lives 2 (fun x => { x with record := [BitVec.ofNat 64 (2 + 128 * 2 ^ 8), 0x4000, 0, 0, 0, 0, 0x5000, 0] }) [5, 0]
     let s : State := { s with
       cores := [(0, { ctxs := [(0, { ctxS with handle := 0x600000 })], slots := [(0, { owner := some 3, asg := some 4 })] })]
       launch := { s.launch with live := s.launch.live ++ [(6, { queue := 4, record := someRecord 1 })] } }
     s.usable 0 0 && s.herdFits 5 0 && (s.liveLaunch 5).trans == none && s.modeFits 3 ((s.liveLaunch 5).record.getD 1 0) (s.core 0).pmode &&
     s.herdClaims 5 0 == none && s.borrowed 0 0 == some (3, 4)) = true := by decide +kernel

theorem test_hyps_EscapeThreads :
    (let s (q : List (Nat × Nat × Nat × List Tagged)) : State :=
       { cores := [(0, { escres := 1 })], herds := [(0, { escq := q })], dev := { creg := [(0x3048, 16)] } }
     let k := 15
     let t (q) : State := { s q with act := { ctx := k } }
     ((t []).core 0).reservedCtx k = true ∧ (t []).me.live = false ∧ (t []).absent 0 = false ∧ ((t []).herd 0).window = false ∧ ((t []).herd 0).escq = [] ∧
     ((t [(64, 3, 1, [])]).herd 0).escq = (64, 3, 1, []) :: [] ∧ (t [(64, 3, 1, [])]).thread (1 * 2 ^ 20 + (2 ^ 19 + 64 * 64 + 3 % 64)) = none ∧ (t [(64, 3, 1, [])]).freeSlot = some 0) ∧
    (let s : State := { cores := [(0, { ctxs := [(0, { ctxS with phase := .wait (.sleep 8), ticket := some (64, 2, true) })] })], herds := [(0, { escq := [(64, 3, 1, [])] })] }
     s.me.live = true ∧ s.me.phase = .wait (.sleep 8) ∧ (8 : Nat).testBit 3 = true) := by decide +kernel

theorem test_hyps_SwitchOut :
    (let c : Context := { ctxS with switchReq := true }
     let th : Thread := { slot := 0, place := some (0, 0) }
     let s (c : Context) : State := { oneCtx c with launch := { threads := [(0x100001, th)] } }
     (s c).thread (s c).me.handle = some th ∧ (s c).me.live = true ∧ (s c).me.switchReq = true ∧ (s c).me.locked = false ∧ (s c).me.phase = .body ∧
     (s c).myCore.engine = none ∧ (s c).me.heldWrites = [] ∧ (s c).me.pendFault = none ∧ (s c).me.qntInf = none ∧
     (let f : StateFault := { cause := 1, tval := 0, tval2 := 0 }
      (s { c with pendFault := some f }).me.pendFault ≠ none ∧ (s { c with phase := .fetch, qntInf := some f }).me.phase = .fetch) ∧ (s ctxS).me.switchReq = false ∧ (s { c with locked := true }).me.locked = true ∧
     (s c).myCore.wq = []) := by decide +kernel

-- R190: no arrival; one that is not old enough; one that is, of a set with one member
theorem test_hyps_Watchdog :
    (let s (t : Nat) (x : SetAux) : State :=
       { inSet .exit [2, 0, 1, 0, 1] with act := { args := [0x80000002000] }, time := t, sets := [(0x80000002000, x)] }
     let x : SetAux := { start0 := some 0 }
     let r (t : Nat) (x : SetAux) := ((s t x).readRec 0 0 0x80000002000).2
     (r 0 x).phase = false ∧ (r 0 x).broken = false ∧ (r 0 x).joined ≠ 0 ∧ ((s 0 {}).aux 0x80000002000).start0 = none ∧
     (0 < 0 + 2 ^ (r 0 x).wdog) ∧ 0 + 2 ^ (r 0 x).wdog ≤ (s (2 ^ (r 0 x).wdog) x).time) := by decide +kernel

theorem test_hyps_Watchdog_member :
    (let c : Context := { ctxS with phase := .wait (.bar 0), sets := [(0, { record := 0x2000 })] }
     let s : State := { oneCtx c with sets := [(0x80000002000, { members := [(0x100001, 0)] })] }
     s.placeOf 0x100001 == some (0, 0) && (s.ctxOf 0 0).phase == .wait (.bar 0) && mfind (s.ctxOf 0 0).sets 0 == some { record := 0x2000 } && !({ record := 0x2000 } : Member).phase && ({ record := 0x2000, phase := true } : Member).phase &&
     (match s.translate 0x80000000000 0 true .read 0x2000 with
      | .ok l => l.pa == 0x80000002000
      | .error _ => false)) = true ∧
    (let s : State :=
       { act := { args := [0x80000002000] }, sets := [(0x80000002000, { members := [(0x100001, 0)] })], dev := { creg := [(0x3040, 0x80000010000)] }
         mem := { bytes := pages ++ [(0x80000010900, 1), (0x80000010B05, 8), (0x80000010EC1, 0x20)] }
         launch := { threads := [(0x100001, { slot := 0, wait := some (.bar 0) })] } }
     s.placeOf 0x100001 = none ∧ (s.thread 0x100001).map (·.wait) = some (some (.bar 0)) ∧ s.savedSetPa 0x100001 0 = some 0x80000002000 ∧ (s.slotWord 0x100001 0xEC0).getLsbD 0 = false) := by decide +kernel

-- Device events: the fabric as a system (R68, R294, R308, R351, R396..R400, R418, R424..R427, R436..R442)

/-- An image at 0x8000 of two by one sites, one of them with an idle plane (R441). -/
def imageBytes : List Host.Cell :=
  pages ++ [(0x80000008000, 4), (0x80000008001, 2), (0x80000008008, 1), (0x80000008040, 1), (0x80000008041, 0x20), (0x80000008049, 1)]
/-- The part with a live graph launch 5 of that image, and this of the fabric. -/
def graphs (f : FabricSys := {}) (args : List Nat := [5]) (entry : Word := 0x8000) : State :=
  { act := { args := args }, mem := { bytes := imageBytes }, fabric := f, dev := { creg := [(0x3050, 0x80000020000), (0x3058, 64)] }
    launch := { queues := [(3, someQueue)], live := [(5, { queue := 3, record := [3, entry, 0, 0, 0, 0, 0x5000, 0] })] } }
/-- The place of that image. -/
def somePlaced : Placed := { broad := false, x0 := 0, r0 := 0, w := 2, h := 1, image := 0x8000 }

-- a launch whose image passes and one whose image does not (R396, R442)
theorem test_hyps_FabricAdmission :
    (let image (s : State) : Bool := match s.bidImage 5 with
       | .fault _ _ _ _ => false
       | _ => true
     let s := graphs
     (s.liveLaunch 5).bids && image s && !image (graphs {} [5] 0x40000000) && (graphs {} [5] 0x40000000).bidsOf true == [] &&
     passes (s.bidImage 5) (fun _ g => g.w == 2 && g.h == 1) && (s.bidsOf true) == [] && (match s.bidsOf false with
       | [b] => b.launch == 5 && decide (b.rank ≤ 2 ^ 200) && (match b.image with
         | some g => s.regionSound 5 g (g.at 0 0) && (s.standing (g.at 0 0)).isEmpty
         | none => false)
       | _ => false) && s.reserved (s.bidsOf false) == none) = true ∧
    (let s : State := { launch := { live := [(5, { queue := 3, record := [3], byp := 4 }), (6, { queue := 4, record := [3], byp := 1 })] } }
     let b : Bid := { launch := 5, rank := 7, broad := false, image := none }
     let d : Bid := { b with launch := 6, rank := 9 }
     s.reserved [b, d] = some b ∧ ([b, d].find? (fun e => decide (e.rank ≤ 7) && false)) = none ∧ d.rank < 11 ∧ (mfind s.launch.live 6).isSome = true ∧
     [b, d].Pairwise (fun a c => a.launch ≠ c.launch)) := by decide +kernel

-- a placed image, with a drain of a matrix element and without, which performs a command; one that is loading (R269, R442)
theorem test_hyps_FabricAdmission_load :
    (let c (op : Nat) : Placed := { somePlaced with planes := [(0, 0, { word := planeOf op 0 0 0 [0], addr := 0x8100 })] }
     let s (op : Nat) : State := graphs { placed := [(5, c op)], mxes := [(0, { running := some 1 })] }
     mfind (s 0x92).fabric.placed ((s 0x92).arg 0) = some (c 0x92) ∧ (c 0x92).mode = .placed ∧
     (c 0x92).planes.any (fun e => decide (0x90 ≤ e.2.2.bits 7 0) && ((s 0x92).mxe (mxeOfSite e.1)).running != none) = true ∧
     (c 1).planes.all (fun e => decide (e.2.2.bits 7 0 < 0x90)) = true ∧ ({ c 1 with mode := .loading } : Placed).mode ≠ .placed) := by decide +kernel

-- a site with a plane to be written, and one whose check byte is wrong (R68, R308, R442)
theorem test_hyps_PlaneWrites :
    (let p : PlaneSlot := { word := planeOf 1 0 0 0 [0], addr := 0x8100 }
     let c : Placed := { somePlaced with mode := .loading, planes := [(64, 0, p)] }
     let s (run : Bool) : State := { graphs { placed := [(5, c)], sites := [(64, { launch := some 5, running := run })] } [0] with
                                     act := { site := 64, args := [0] } }
     mfind (s true).fabric.placed ((s true).launchOf 64) = some c ∧ c.mode = .loading ∧ ({ c with mode := .draining } : Placed).mode = .draining ∧ c.restored = false ∧ c.planes[c.written]? = some (64, 0, p) ∧
     (s true).arg 0 = 0 ∧ ((s true).site 64).launch = some 5 ∧ ((s true).site 64).running = true ∧ ((s false).site 64).running = false ∧
     mfind ({} : State).fabric.placed 0 = none) ∧
    (let p : PlaneSlot := { word := planeOf 1 0 0 0 [0], addr := 0x8100, loaded := true }
     let s (x : Word) : State := { graphs { sites := [(64, { launch := some 5, change := some 1, slots := [(1, { p with addr := x })] })] } with act := { site := 64 } }
     ((s 0x8100).site 64).change = some 1 ∧ mget {} ((s 0x8100).site 64).slots 1 = p ∧ ((s 0x8100).site 64).stopped = false ∧ planeOk p.word = false ∧
     passes ((s 0x8100).agentCheck ((s 0x8100).graphParty 5) .read .fabric 0 0x8100 32) (fun t ps =>
       planeOk (BitVec.ofNat 256 (valueLE (t.homeBytes ps)))) = true ∧
     passes ((s 0x8000).agentCheck ((s 0x8000).graphParty 5) .read .fabric 0 0x8000 32) (fun t ps =>
       !planeOk (BitVec.ofNat 256 (valueLE (t.homeBytes ps)))) = true ∧
     fails ((s 0x40000000).agentCheck ((s 0x40000000).graphParty 5) .read .fabric 0 0x40000000 32) (memCause .notMapped .fabric) = true) := by
  decide +kernel

theorem test_hyps_Seams :
    (let x : SeamToken := { site := 64, port := 1, tok := someToken }
     let s (y : Site) : State := { act := { args := [0] }, fabric := { seams := [x], sites := [(64, y)] } }
     (s { running := true }).fabric.seams[0]? = some x ∧ ((s { running := true }).site 64).running = true ∧ ((s { running := true }).site 64).change = none ∧
     mfind ((s { running := true }).site 64).ports 1 = none ∧ (mfind ((s { ports := [(1, {})] }).site 64).ports 1).isSome = true ∧ x.ctl = none ∧ mget 0 (s {}).fabric.seamFails (4 * 64 + 1) + 1 < 8 ∧
     (let y : SeamToken := { x with ctl := some true }
      y.ctl = some true ∧ mfind ((s { running := true }).site 64).ctl 1 = none ∧ y.ctl.isSome ≠ x.ctl.isSome) ∧
     8 ≤ mget 0 ([(4 * 64 + 1, 7)] : Map Nat) (4 * 64 + 1) + 1 ∧ (neighbour 64 1).isSome = true ∧ (s {}).fabric.deadSeams = [] ∧
     (({ fabric := { seams := [x, x] } } : State).fabric.seams.take 1).any (fun y => y.site == x.site && y.port == x.port) = true) := by decide +kernel

-- a graph that stalls, one that is done, one whose stripe is in its window, one that has drained and one that is late (R294, R351, R424)
theorem test_hyps_GraphEnds :
    (let c : Placed := { somePlaced with mode := .running }
     let s (c : Placed) (x : Site) (t : Nat) : State := { graphs { placed := [(5, c)], sites := [(64, { x with launch := some 5 })] } with time := t }
     let held : Site := { rin0 := some someToken }
     mfind (s c held 0).fabric.placed ((s c held 0).arg 0) == some c && ((s c held 0).sitesOf 5) == [64] && ((s c held 0).site 64).holds &&
     decide (c.lastFire + 2 ^ 28 ≤ (s c held (2 ^ 28)).time) && decide ((s c held 0).time < c.lastFire + 2 ^ 28) && !((s c held 0).site 64).accesses && ((s c held 0).site 64).elem.tickets == [] && (s c {} 0).graphDone 5 && !(s c held 0).graphDone 5 &&
     recKind ((s c {} 0).liveLaunch 5).record == 3 && (s c {} 0).launchReady ((s c {} 0).liveLaunch 5) && (s c {} 0).poolHolds c && ((s c {} 0).liveLaunch 5).outcome == 0 &&
     (let t := s c {} 0
      let u : State := { t with launch := { t.launch with live := [(5, { queue := 3, record := [3, 0, 0, 0, 0, 0, 0, 2], outcome := 2 })] } }
      (u.liveLaunch 5).outcome != 0 && recKind (u.liveLaunch 5).record == 3 && u.launchReady (u.liveLaunch 5) && !u.launchReady { u.liveLaunch 5 with started := 1 } &&
      !(({ u with herds := [(0, { posts := [(0, [])] })] } : State).launchReady (u.liveLaunch 5))) &&
     somePlaced.mode == .placed && (let d : Placed := { c with mode := .loading, planes := [(64, 0, { word := planeOf 1 0 0 0 [0], addr := 0x8100 })] }
      d.mode == .loading && !(s d {} 0).allActive 5) &&
     (let d : Placed := { c with mode := .draining, drainAt := some 0 }
      (s d {} 0).isDrained 5 && ((s d {} 0).freeRegion (poolUnits d.saveBound)).isSome && decide (0 + 16777216 ≤ (s d {} 16777216).time) &&
      !(s d { elem := { walk := some 1 } } 0).isDrained 5)) = true ∧
    (let c : Placed := { somePlaced with mode := .running }
     let s : State := { fabric := { placed := [(5, c)] }, dev := { stripes := [stripeOfSite c.corner] } }
     s.drainWanted 5 = true ∧ ({ s with dev := {} } : State).drainWanted 5 = false) := by decide +kernel

-- Device events: the device's management (R376, R377, R428..R435, R443..R463, R497..R507)

theorem test_hyps_RetireRequests :
    (({} : State).absent 0 = false ∧ (({} : State).herd 0).retired = false ∧ (0 : Nat) ∉ ({} : State).dev.retired ∧ ({} : State).dev.reqRing = none) := by
  decide +kernel

-- a record in its turn, of a code and of none; one that has asked for a change, and one out of turn (R454)
theorem test_hyps_Served :
    (let s (code : Nat) (doors : List Nat) : State :=
       { act := { args := [7, 0] }, mem := { bytes := if code = 0 then [] else [(0, BitVec.ofNat 8 code)] }
         dev := { creg := [(0x1030, 1024), (0x1038, 128)], reqRing := some 0, doors := doors } }
     let code (s : State) : Nat := (s.homeWord (s.localPa 0 / 8 + 0)).val.toNat
     (s 1 [0]).act.args[1]? = some 0 ∧ (s 1 [0]).act.args[2]? = none ∧ (s 1 [0]).dev.reqRing = some 0 ∧ (s 1 [0]).dev.doors.head? = some 0 ∧
     (s 1 [0]).dev.due = [] ∧ code (s 1 [0]) = 1 ∧ code (s 0 [0]) = 0 ∧ 8 < code (s 9 [0]) ∧ code (s 2 [0]) ≠ 1 ∧ (s 1 [3, 0]).dev.doors.head? ≠ some 0 ∧
     (let d : Due := { code := 1, unit := 7, req := some 0 }
      d.req = some 0)) := by decide +kernel

-- a window to open, one with a thread, one without (R448, R456)
theorem test_hyps_HerdWindow :
    (let d (code unit : Nat) : Due := { code := code, unit := unit }
     let s (d : Due) (w : Bool) (c : Context) : State := { oneCtx c with herds := [(0, { window := w })], dev := { due := [d] } }
     (s (d 1 0) false ctxS).dev.due = [d 1 0] ∧ herdOfCore (d 1 0).unit = 0 ∧ ((s (d 1 0) false ctxS).dev.closing.contains 0) = false ∧
     ((s (d 1 0) true ctxS).herd 0).window = true ∧ 0 ∈ coresOfHerd 0 ∧ (0, ctxS) ∈ ((s (d 1 0) true ctxS).core 0).ctxs ∧ ctxS.live = true ∧
     (∀ c ∈ coresOfHerd 0, ∀ x ∈ ((s (d 2 0) true {}).core c).ctxs, x.2.live = false) ∧ (d 2 0).cause = 0 ∧
     (coresOfHerd 0).any (fun c => !((s (d 1 0) true {}).replaceCore 0).absent c) = true ∧ (s (d 1 0) true {}).absent 0 = false ∧
     (let gone : State := { s (d 1 0) true {} with dev := { cmap := (coresOfHerd 0).map (fun c => (c, 128)) } }
      (coresOfHerd 0).all (gone.replaceCore 0).absent = true ∧ gone.absent 0 = true ∧ ({ d 1 0 with cause := Cause.niFail } : Due).cause ≠ 0)) ∧
    (let s : State := { launch := { msgs := [{ src := 1, dst := 2, pri := 0, words := [], time := 0, evq := 0, core := 0 }] } }
     (s.launch.msgs.find? (fun m => m.core == 0 && m.pri == 0 && !m.blocked)).isSome = true ∧ ({} : State).launch.msgs = []) := by decide +kernel

theorem test_hyps_StripesAndRails :
    (let d : Due := { code := 4, unit := 3 }
     let e : Due := { code := 3, unit := 64 }
     let f : Due := { code := 5, unit := 256 * 5 + 4 }
     d.unit / 16 = 0 ∧ stripeOfSite e.unit = 0 ∧ f.unit % 256 / 8 = 0 ∧ ({ dev := { due := [d], stripes := [0] } } : State).dev.stripes.contains 0 = true ∧
     ({ dev := { due := [d] } } : State).dev.stripes.contains 0 = false ∧ ({} : State).fabric.placed = [] ∧ ({} : State).substitute 64 = none ∧
     ({ fabric := { placed := [(5, somePlaced)] } } : State).fabric.placed.any (fun c => c.2.area.any (fun n => stripeOfSite n == 0)) = true) ∧
    (mget 0 ({} : State).dev.phases 0 + 1 < 3 ∧ mget 0 ({ dev := { phases := [(0, 2)] } } : State).dev.phases 0 + 1 = 3 ∧
     (mget 0 ({} : State).dev.fdom 0).testBit 0 = false ∧ (mget 0 ({ dev := { fdom := [(0, 0x201)] } } : State).dev.fdom 0).testBit 0 = true ∧
     (mget 0 ({ dev := { fdom := [(0, 0x201)] } } : State).dev.fdom 0).testBit 9 = true) ∧
    (let w : TlbWalk := { slice := 5, asid := 0, va := 0x4000, level := 0, table := 0 }
     ({} : State).spareFree (stripeOfSite (sliceSite 5)) 4 = true ∧ ({} : State).mem.tlbWalks = [] ∧ w.slice = 5 ∧ w.waits = false) := by decide +kernel

-- every MT spare slot is in use (R435)
theorem test_hyps_MoveSlice_none :
    (let s : State := { dev := { tlbHome := (List.range 48).map (fun k => (k, 8 * (k / 2) + 4 + k % 2)) } }
     (List.range 24).all (fun m => !s.spareFree m 4 && !s.spareFree m 5) && mfind s.dev.tlbHome 383 == none) = true := by decide +kernel

theorem test_hyps_ChannelsAndTables :
    (let s (args : List Nat) : State := { act := { args := args }, dev := { creg := [(0x1030, 1024), (0x1038, 128)] } }
     5 < (s []).channels false ∧ 5 < (s []).channels true ∧ (s []).mem.deadChan.contains 10 = false ∧ (s []).mem.copying = [] ∧
     (s []).spareChannel ((s []).hbmPhysical 5 / 68) = some 64 ∧
     ({ s [] with mem := { copying := [(5, 262143, 64)] } } : State).mem.copying = [(5, 262143, 64)] ∧ 262143 + 1 = 262144 ∧
     ({ s [] with mem := { chanMap := [(60, 64), (61, 65), (62, 66), (63, 67)] } } : State).spareChannel 0 = none ∧
     (s [0, 0]).arg 1 = 0 ∧ (s [0, 1]).arg 1 ≠ 0 ∧ (s []).dev.ccFailed.contains 0 = false ∧ (s [1]).arg 0 = 1 ∧ (s [1]).dev.ccFailed.contains 1 = false ∧
     (insertNum (s [1]).dev.ccFailed 1).contains 4 = false ∧ ((s [1]).ctxOf 1540 0).live = false ∧
     ({ s [0] with dev := { ccFailed := [0] } } : State).dev.ccFailed.contains 0 = true) := by decide +kernel

-- a port that is up and one that is down; flits that are expected and not; a path to a port out of service (R458..R461)
theorem test_hyps_Links :
    (let p : LinkPort := { up := true, lanes := 8, expect := 7 }
     let s (p : LinkPort) (args : List Nat) : State := { act := { args := args }, dev := { ports := [(0, p)] } }
     let at0 (s : State) : LinkPort := mget {} s.dev.ports (s.arg 0)
     (at0 (s p [0, 7, 1])).up = true ∧ (at0 (s p [0, 7, 1])).spare = false ∧ (at0 (s { p with spare := true } [0])).spare = true ∧ (at0 (s {} [0])).up = false ∧
     (s p [0, 7, 1]).arg 2 ≠ 0 ∧ (s p [0, 7, 1]).arg 1 % 4096 = (at0 (s p [0, 7, 1])).expect ∧ (s p [0, 8, 1]).arg 1 % 4096 ≠ p.expect ∧
     p.fails + 1 < 16 ∧ 16 ≤ ({ p with fails := 15 } : LinkPort).fails + 1 ∧ p.unacked = [] ∧
     (mget {} (s p [5, 1, 0]).dev.ports ((s p [5, 1, 0]).arg 2) : LinkPort).fails < 16 ∧
     ¬ (mget {} (s { p with fails := 16 } [5, 1, 0]).dev.ports 0 : LinkPort).fails < 16) := by decide +kernel

-- accesses before and after the boot, of registers, of both memories and of a hole; an error in and out of a tile (R362, R463, R502)
theorem test_hyps_HostAndErrors :
    (let s (done : Bool) (args : List Nat) : State :=
       { act := { args := args }, dev := { powered := true, done := done, creg := [(0x1030, 1024), (0x1038, 128)] } }
     let good (s : State) : Bool := [1, 2, 4, 8].contains (s.arg 2) && decide (s.arg 1 % 8 + s.arg 2 ≤ 8) && s.dev.powered
     let off (s : State) : Nat := (s.arg 1 - Config.controlBase) / 8 * 8
     good (s true [0, Config.controlBase + 0x3008, 8]) && off (s true [0, Config.controlBase + 0x3008, 8]) == 0x3008 && !good (s true [0, 0, 3]) &&
     (s true [0, 64, 8]).region 64 == .hbm && (s true [0, 0x10000000040, 8]).region 0x10000000040 == .lpddr && decide (0x10000000040 < 2 ^ 42) &&
     (s true []).region 0x38000000000 == .hole && decide (0x38000000000 < Config.controlBase) && !(s false []).dev.done &&
     (s true []).localPa 64 == 64 && !(s true []).inTile 64 && mget 0 (s true []).mem.latent 8 == 0 &&
     (s true []).region ((s true []).localPa 0x80200000008) == .weights 0 8 && (s true []).region ((s true []).localPa 0x80200300000) == .accum 0 0 0 &&
     ((0 : Word) ^^^ BitVec.ofNat 64 (5 % 2 ^ 64)) != 0 && ((5 : Word) ^^^ BitVec.ofNat 64 (5 % 2 ^ 64)) == 0 &&
     ({ s true [] with dev := { creg := [(0x1030, 1024), (0x1008, 1)] } } : State).inTile 64) = true ∧ ((BitVec.ofNat 64 (5 % 2 ^ 64) : Word) ≠ 0) ∧
    (let s : State := { act := { args := [3, 5, 8] } }
     s.arg 2 = 0x08 ∧ s.mem.errOf (s.arg 2) s.act.core (s.arg 0) = none ∧ s.arg 1 = 5) := by
  decide +kernel

-- a part without power, one with it; each range of the temperature (R446, R451, R500)
theorem test_hyps_PowerAndBoot :
    (let s : State := {}
     s.dev.powered = false ∧ s.dev.ccFailed = [] ∧ s.dev.fuseSites = [] ∧ s.dev.logSites = [] ∧ s.dev.fdom = [] ∧ s.dev.fuseChans = [] ∧ s.act.args = [] ∧ s.arg 0 = 0 ∧
     ({ s with act := { args := [3] } } : State).arg 0 = 2 + 1 ∧ ({ s with act := { args := [8] } } : State).arg 0 = 7 + 1 ∧ s.arg 2 ≠ 1 ∧
     ({ s with act := { args := [0, 0, 1] } } : State).arg 2 = 1 ∧
     (let f : State := { dev := { ccFailed := [0, 4] } }
      f.dev.ccFailed.contains 0 = true ∧ f.dev.ccFailed.contains 4 = true) ∧ ({ s with dev := { powered := true } } : State).dev.powered = true ∧
     ({ s with dev := { tripped := true } } : State).dev.tripped = true ∧ s.dev.demand < 2 ∧ 2 ≤ ({ s with dev := { demand := 2 } } : State).dev.demand ∧
     (94 : Nat) % 256 < 95 ∧ 95 ≤ 100 % 256 ∧ 100 % 256 < 110 ∧ 110 ≤ 115 % 256) := by decide +kernel

-- The machine as a whole

/-- The state that an outcome answers, with a property of it. -/
def answers (o : Out) (p : State → Bool) : Bool := match o with
  | .next s => p s
  | _ => false

theorem test_hyps_EncodedInstructionsDecode :
    (Instr.ld .w 3 4 5).wellFormed = true ∧ (encodeWord (.ld .w 3 4 5)).isSome = true ∧ encodeElement .feAdd = some 1 ∧ encodeRouter .merge = some 2 := by
  decide +kernel

/-- The part in which a context of core 0 is to take a turn, two cycles from now, in a block of these words. -/
def turnOf (ws : List (BitVec 32)) (pos : Nat) : State :=
  { oneCtx { ctxS with words := ws, pos := pos, sreg := [(0x020, 0x21), (0x060, 0x80000000000)] } with agenda := [(2, .context 0 0)] }

-- a lone word at an odd position, one with its top bit set, a pair, and a word that decodes to nothing (R23, R46, R47)
theorem test_hyps_StepRunsDecoded_context :
    (let s := turnOf [0xBF00C000, 0xC7140048, 0, 0] 1
     let c := s.ctxOf 0 0
     s.agenda = (2, .context 0 0) :: [] ∧ c.live = true ∧ c.locked = false ∧ c.gang = none ∧ c.phase = .body ∧ c.exit = none ∧ c.pos < c.words.length ∧
     c.switchReq = false ∧ c.interrupted (s.time + 2) = false ∧ c.stall = none ∧ s.mem.errs = [] ∧ c.aDone = false ∧
     ({ s with tick := 1, agenda := [], time := 2 } : State).issuer 0 = some 0 ∧ c.parked = false ∧ (s.core 0).vuq.length < 8 ∧ c.pos % 2 = 1 ∧ (decodeWord (c.words.getD c.pos 0)).toOption = some (.li 5 72) ∧
     wordTop 0x81000000 = true ∧ (decodeWord 0x01000007).toOption = none ∧ wordTop 0x01000007 = false ∧
     (decodeWord 0x01000000).toOption.isSome = true ∧ (decodeWord 0x47140048).toOption = some (.li 5 72)) := by decide +kernel

-- a core that has issued in the cycle, a second word that goes first, and a context whose slot is another queue's (R40, R41, R48)
theorem test_hyps_StepRunsDecoded_scan :
    (let s := turnOf [0xBF00C000, 0xC7140048, 0, 0] 1
     let on (f : Core → Core) (c : Context) : State := { s with cores := [(0, f { ctxs := [(0, c)] })] }
     let c := s.ctxOf 0 0
     (on (fun k => { k with issuedAt := some 0 }) c).issuer 0 = none ∧ (on id { c with sreg := [(0x020, 1)] }).issuer 0 = none ∧
     (on id { c with split := true, lastIssue := some 0 }).issuer 0 = some 0 ∧ (on id { c with split := true }).secondWord 0 0 = true ∧
     (on id { c with lastIssue := some 0 }).issuer 0 = none ∧ 0 < (s.core 0).nctx) := by decide +kernel

-- a bundle of the buffer whose bits have changed (R361), and two members of a gang that issue together (R192)
theorem test_hyps_StepRunsDecoded_buffer :
    (let s := turnOf [0xBF00C000, 0xC7140048, 0, 0] 1
     let e : ArrayErr := { array := 0x0A, unit := 0, word := 0, flips := 3 }
     let t : State := { s with mem := { s.mem with errs := [e] } }
     t.mem.errOf 0x0A 0 (64 * 0 + (s.ctxOf 0 0).pos / 2) = some e ∧ 2 ≤ popCount 64 e.flips.toNat) ∧
    (let c : Context := { (turnOf [0xBF00C000, 0xC7140048, 0, 0] 1).ctxOf 0 0 with gang := some 0x2000 }
     let s : State := { cores := [(0, { ctxs := [(0, c)] }), (1, { ctxs := [(0, c)] })] }
     s.issuer 0 = some 0 ∧ s.secondWord 0 0 = false ∧ (1, 0) ∈ s.gangOf 0 0 ∧ (s.ctxAct 1 0).issues = true ∧
     (s.gangTurn 0 0).2 = [(0, 0), (1, 0)] ∧ ({ s with cores := [(0, { ctxs := [(0, c)] }), (1, { ctxs := [(0, c)], issuedAt := some 0 })] } : State).issuer 0 = none) := by
  decide +kernel

-- an exposed M word waits for the vector word beside it and issues again alone; an A word that waits leaves the pair as it was (R26, R47)
theorem test_step_pair_waits : answers (step (turnOf [0xBF00C000, 0, 0x0D000004, 0x60312580] 2)) (fun s =>
    s.me.aDone && s.me.pos == 2 && !s.me.parked && (s.core 0).vuq.length == 1) = true ∧
    (let e : VuEntry := { ctx := 0, epoch := 0, writes := [], trap := none, inf := none }
     let s := turnOf [0xBF00C000, 0, 0x47140048, 0x0D000004] 2
     answers (step { s with cores := [(0, { ctxs := [(0, s.ctxOf 0 0)], vuq := [e] })] }) (fun s =>
       s.me.pos == 2 && !s.me.aDone && (s.me.work.getG 5).val == 0 && s.tick == 1)) = true := by decide +kernel

-- the lone word runs; so does a pair, its A word with the registers from before the bundle (R47): g1 is loaded and g5 gets the old g1
theorem test_step_lone : answers (step (turnOf [0xBF00C000, 0xC7140048, 0, 0] 1)) (fun s =>
    (s.me.work.getG 5).val == 72 && s.me.pos == 2 && s.time == 2 && s.tick == 1) = true := by decide +kernel
theorem test_step_pair : answers (step (turnOf [0xBF00C000, 0, 0, 0x47140048] 2)) (fun s => (s.me.work.getG 5).val == 72 && s.me.pos == 4) = true := by
  decide +kernel
theorem test_step_undecodable : (match step (turnOf [0xBF00C000, 0x01000007, 0, 0] 1) with
    | .fault (.blockWord w) => w == 0x01000007
    | _ => false) = true := by decide +kernel

-- an event, an element with a token taken, a router operator and a sequencer take their turns
theorem test_hyps_StepRunsDecoded_fabric :
    (let s (x : Site) (t : Turn) : State := { fabricOf x with agenda := [(0, t)] }
     let e : Site := { fedSite 0x01 0 0 0 [someToken] with taken := [someToken], elem := { words := 1 } }
     let r := siteOf (planeOf 0 0 0 0 [] (2 * 2 ^ 90))
     let at64 (s : State) : Site := s.flowAll.site 64
     (at64 (s e (.element 64))).running = true ∧ (at64 (s e (.element 64))).change = none ∧ (at64 (s e (.element 64))).taken ≠ [] ∧
     (at64 (s e (.element 64))).elem.words ≠ 0 ∧ decodeElement (at64 (s e (.element 64))).op = some .feAdd ∧
     decodeRouter ((at64 (s r (.router 64))).plane.bits 91 90) = some .merge ∧ (at64 (s seqSite (.sequencer 64))).seq.fence = none ∧
     (at64 (s seqSite (.sequencer 64))).seq.mode = .run ∧ decodeSeq ((at64 (s seqSite (.sequencer 64))).plane.seq.getD 5 0) = some .seqNop ∧
     decodeSeq 0x90000000 = none) := by decide +kernel

-- R71: a word of a reserved operation stops the model by name; a word placed as the host places it runs at the next step
theorem test_step_seqWord : (match step (State.reset.withFetchWord 32 0x90000000) with
    | .fault (.seqWord w) => w == 0x90000000
    | _ => false) = true := by decide +kernel
theorem test_step_placed : answers (step (State.reset.withFetchWord 32 0x11000010)) (fun s => mget 0 (s.site 64).seq.r.b 0 == 16) = true := by decide +kernel

-- the invariant holds at reset and a step answers a next state there
theorem test_hyps_StepKeepsMemoryForm : State.reset.memWf ∧ answers (step State.reset) (fun _ => true) = true :=
  ⟨State.reset_memWf, by decide +kernel⟩

-- Values of the specification's own worked examples

-- the example of amo.w.fadd.bf2, and the encodings of U4M4 (R86)
theorem test_example_lanes : amoValue .faddBf2 32 0x40003F80 0x3F803B80 = 0x40403F80 ∧
    (u4m4.deliver {} (fp32.decode 0x3F800000)).bits = 0x70 ∧ (u4m4.deliver {} (fp32.decode 0x3FC00000)).bits = 0x78 ∧
    (u4m4.deliver {} (fp32.decode 0x3F000000)).bits = 0x60 ∧ (u4m4.deliver {} (fp32.decode 0x3ED80000)).bits = 0x5B := by decide +kernel
-- the examples of R106 and R108
theorem test_example_bx8e4 :
    (let q := bxQuantise 0x0E (fun _ => {}) ([0x3F40, 0xBD20, 0x3EBC].map bf16.decode ++ List.replicate 29 (bf16.decode 0))
     q.scale = 0x76 ∧ q.codes.take 4 = [0x7C, 0xDA, 0x74, 0]) := by decide +kernel
theorem test_example_sx4 :
    (let q := sx4Quantise (fp32.decode 0x3F800000) (fun _ => {}) ([0x40400000, 0x3F8CCCCD, 0xBF000000].map fp32.decode ++ List.replicate 5 (fp32.decode 0))
     q.scale = 0x60 ∧ q.codes = [7, 4, 0xA, 0, 0, 0, 0, 0]) ∧
    (sx4Quantise (fp32.decode 0x3F800000) (fun _ => {}) (fp32.decode 0x40200000 :: List.replicate 7 (fp32.decode 0))).scale = 0x5B := by decide +kernel
-- the examples of the core at (37, 5), of translation, of fault codes, of MXE numbers and of link costs (R15, R358, R364, R403, R431, R437)
theorem test_example_numbers :
    fieldOfCore 517 = 1 ∧ quadOfCore 517 = 114 ∧ herdOfCore 517 = 57 ∧ ({} : State).region 0x80010280000 = .scratch 517 0 ∧
    ({} : State).region 0x8004440A3028 = .hole ∧ ({} : State).region 0x800440A3028 = .regs 517 3 0x028 ∧
    (List.range 4).map (tableIndex 0x7F1234567890) = [254, 72, 418, 22] ∧ memCause .bounds .load = 0x058 ∧ memCause .tier .fabric = 0x07F ∧
    Cause.barTimeout = 0x0D6 ∧ mxeOfSite (32 * 64 + 4) = 208 ∧
    fieldOfSite (32 * 64 + 4) = 1 ∧ classRow (32 * 64 + 4) = 4 ∧ siteFine (32 * 64 + 4) = true ∧ portOrder 1 0 2 = 0b01000001 ∧
    ({} : State).pathCost 3 (siteAt false 63 3) (siteAt false 64 3) = 4 ∧ ({} : State).pathCost 3 (siteAt false 58 3) (siteAt false 58 4) = 3 := by decide +kernel

-- the probe of a tile, a token of weights, rows of an MM, drains and a message (R323, R327, R328)
theorem test_hyps_MatrixModeResults :
    (firesOn (fedSite 0x85 0 0 0 [{ someToken with vcnt := 1 }, { someToken with vcnt := 1 }]) [{ someToken with vcnt := 1 }, { someToken with vcnt := 1 }]
       (fun _ s1 => passes ((fired s1 64).probeAll 64 [(0x3F800000, 0x3F800000)])) &&
     firesOn (fedSite 0x90 0 0 0 [{ someToken with last := false }]) [{ someToken with last := false }] (fun p s1 =>
       !p.imm.testBit 12 && !(s1.site 64).stopped && decide (p.imm % 4096 * 1024 + 64 * (s1.site 64).elem.cnt + 64 ≤ weightBytes 0)) &&
     firesOn { fedSite 0x90 0 0 0 [someToken] with elem := { cnt := 15 } } [someToken] (fun _ s1 => ((s1.site 64).elem.cnt + 1) % 16 == 0) &&
     firesOn (fedSite 0x90 0 0 4095 [someToken]) [someToken] (fun p _ => decide (weightBytes 0 < p.imm % 4096 * 1024 + 64) && !p.imm.testBit 12) &&
     firesOn (fedSite 0x91 0 0 0 [someToken] (2 ^ 114)) [someToken] (fun p s1 =>
       p.bits 127 114 == 1 && p.imm == 0 && !isBx (p.bits 196 192) && [0, 1].contains (((fired s1 64).mxe 0).bank 0).cell &&
       passes ((fired s1 64).fetchB 0 (p.bits 201 197) 1 1 0 none) (fun s2 _ => passes (s2.checkBank .fabric 0 0 1 1))) &&
     firesOn (fedSite 0x90 0 0 4095 [{ someToken with last := false }]) [{ someToken with last := false }] (fun p _ => decide (weightBytes 0 < p.imm % 4096 * 1024 + 64)) &&
     firesOn (fedSite 0x91 0 0 0 [someToken] (17 * 2 ^ 114)) [someToken] (fun p _ => p.bits 127 114 == 17 && decide (1 < (17 * codeBits (p.bits 196 192) + 511) / 512)) &&
     (let x : Site := { fedSite 0x91 0 0 0 [{ kind := 3 }] (17 * 2 ^ 114) with elem := { buf := [someToken] } }
      x.acts && x.op == 0x91 && x.taken == [] && x.plane.reads == [0] && mfind x.ports 0 == some (onLink { kind := 3 }) &&
      decide (x.elem.buf.length < max 1 x.plane.aTokens)) &&
     firesOn (fedSite 0x91 0 0 (2 ^ 12) [{ someToken with last := false }] (2 ^ 114)) [{ someToken with last := false }] (fun p _ => p.imm / 2 ^ 12 % 64 == 1) &&
     firesOn { fedSite 0x93 0 0 0 [someToken] with elem := { words := 1 } } [someToken]) = true ∧ State.reset.memWf := by
  exact ⟨by decide +kernel, State.reset_memWf⟩
theorem test_hyps_MatrixModeResults_drain :
    (let s := fabricOf (siteOf (planeOf 0x92 0 0 0 [0] (2 ^ 128)))
     let x := s.site 64
     x.acts && x.outFree && x.plane.bits 143 128 == 1 && decide (x.elem.inv < 1) && !(s.draining 64) &&
     decide ((fabricOf { x with elem := { inv := 1 } } |>.site 64).plane.bits 143 128 ≤ ({ x with elem := { inv := 1 } } : Site).elem.inv) &&
     (let t := graphs {} [5] 0x8000
      let g := { t with fabric := { sites := [(64, { siteOf (planeOf 0x93 0 0 0 [0]) with launch := some 5 })] } }.assignMxe 0 (some 5) 0 true
      passes (g.agentCheck (g.graphParty 5) .write .fabric 0 ((g.liveLaunch 5).record.getD 6 0).toNat 8) &&
      ((g.onElem 64 (fun z => { z with words := 2 })).site 64).acts)) = true := by decide +kernel

-- R97, R144: a NaN, an infinity and a finite value
theorem test_hyps_FloatConversionResults :
    (fp32.read false 0x7FC00000).isNan = true ∧ fp32.read false 0xFF800000 = .inf true ∧ fp64.read false 0x3FF0000000000000 ≠ .inf false := by decide +kernel

end Sys2Proof.Tests
end

section
/-!
PROOFS of O58: every step keeps memory canonical. One lemma per operation `f` of the model, `f_memWf`, in the order of
the model's files: from a canonical state `f` leaves a canonical state. It cites the lemmas of the operations that `f`
is made of, and never their bodies; an operation that does not touch the byte map keeps the hypothesis as it is.

Some proofs first abstract a function (`generalize State.region = region`, or `readRec` with its lemma): the kernel
would otherwise compare two uses of it by evaluating them down to the bounds of the address map. Where already the
unfolding would do so, the function is unfolded away from the goal (`delta … at hf`). A `!` before a lemma lets `grind`
use it wherever the operation's result occurs, where the lemma's predicate does not show.
-/

namespace Sys2Proof.Machine

-- One proof after another: elaborated side by side, the many lemmas below would need too much memory.
set_option Elab.async false

/-! ### What it means for a result to keep memory canonical -/

/-- A successor state, where there is one, has canonical memory. -/
def OutWf (o : Out) : Prop := ∀ t, o = .next t → t.memWf

/-- A state that an operation may give back has canonical memory. -/
def OptWf (o : Option State) : Prop := ∀ t, o = some t → t.memWf

/-- The state that a check ends in, passed or failed, has canonical memory. -/
def ChkWf {α : Type} : Chk α → Prop
  | .ok s _ => s.memWf
  | .fault s _ _ _ => s.memWf
  | .wait => True

/-- The state that a performed instruction leaves has canonical memory. -/
def PerfWf : Perf → Prop
  | .done s => s.memWf
  | .later s => s.memWf

/-- The state after a fetch that found its words has canonical memory. -/
def FetchedWf : Fetched → Prop
  | .words s _ _ => s.memWf
  | .fault _ => True
  | .wait => True

/-- The state in which a port's head stops the element has canonical memory. -/
def HeadWf : Head → Prop
  | .data _ => True
  | .none => True
  | .stop s => s.memWf

/-- The state after a spill of a walk's stack that succeeds has canonical memory. -/
def SpilledWf : Spilled → Prop
  | .ok s _ => s.memWf
  | .full => True
  | .wait => True
  | .fault _ _ => True

@[simp] theorem outWf_next {s : State} : OutWf (.next s) ↔ s.memWf := by simp [OutWf]
@[simp] theorem outWf_fault {r : Fault} : OutWf (.fault r) := fun _ h => nomatch h
@[simp] theorem outWf_refused {r : Refusal} : OutWf (.refused r) := fun _ h => nomatch h
@[simp] theorem optWf_some {s : State} : OptWf (some s) ↔ s.memWf := by simp [OptWf]
@[simp] theorem optWf_none : OptWf none := fun _ h => nomatch h
@[simp] theorem chkWf_ok {α : Type} {s : State} {x : α} : ChkWf (.ok s x) ↔ s.memWf := Iff.rfl
@[simp] theorem chkWf_fault {α : Type} {s : State} {c : Nat} {t u : Word} :
    ChkWf (.fault s c t u : Chk α) ↔ s.memWf := Iff.rfl
@[simp] theorem chkWf_wait {α : Type} : ChkWf (.wait : Chk α) := trivial
@[simp] theorem perfWf_done {s : State} : PerfWf (.done s) ↔ s.memWf := Iff.rfl
@[simp] theorem perfWf_later {s : State} : PerfWf (.later s) ↔ s.memWf := Iff.rfl
@[simp] theorem fetchedWf_words {s : State} {a b} : FetchedWf (.words s a b) ↔ s.memWf := Iff.rfl
@[simp] theorem fetchedWf_fault {k} : FetchedWf (.fault k) := trivial
@[simp] theorem fetchedWf_wait : FetchedWf .wait := trivial
@[simp] theorem headWf_stop {s : State} : HeadWf (.stop s) ↔ s.memWf := Iff.rfl
@[simp] theorem headWf_data {s : Token} : HeadWf (.data s) := trivial
@[simp] theorem headWf_none : HeadWf .none := trivial
@[simp] theorem spilledWf_ok {s : State} {w} : SpilledWf (.ok s w) ↔ s.memWf := Iff.rfl
@[simp] theorem spilledWf_full : SpilledWf .full := trivial
@[simp] theorem spilledWf_wait : SpilledWf .wait := trivial
@[simp] theorem spilledWf_fault {k v} : SpilledWf (.fault k v) := trivial

/-- Only the byte map of a state counts: the other fields of a record built anew are free. -/
@[simp] theorem State.memWf_mk {act agenda time tick cores herds sets mem launch fault fabric dev} :
    (State.mk act agenda time tick cores herds sets mem launch fault fabric dev).memWf ↔
      Memory.wf mem.bytes = true := Iff.rfl
@[simp] theorem State.wf_bytes {s : State} : Memory.wf s.mem.bytes = true ↔ s.memWf := Iff.rfl

/-! ### The combinators through which operations are composed -/

/-- Both branches have the property, whatever the condition says. -/
theorem ite_both {α : Sort*} {motive : α → Prop} {c : Prop} [Decidable c] {a b : α} (ha : motive a) (hb : motive b) :
    motive (if c then a else b) :=
  iteInduction (fun _ => ha) (fun _ => hb)

theorem fst_ite_memWf {β : Type} {c : Prop} [Decidable c] {a b : State × β} (ha : a.1.memWf) (hb : b.1.memWf) :
    (if c then a else b).1.memWf :=
  ite_both (motive := fun r : State × β => r.1.memWf) ha hb

theorem Perf.state_memWf {p : Perf} (h : PerfWf p) : p.state.memWf := by
  cases p with
  | done s => exact h
  | later s => exact h

theorem Chk.andThen_memWf {α β : Type} {c : Chk α} {f : State → α → Chk β} (h : ChkWf c)
    (hf : ∀ s x, s.memWf → ChkWf (f s x)) : ChkWf (c.andThen f) := by
  cases c with
  | ok s x => exact hf s x h
  | fault => exact h
  | wait => trivial

theorem Chk.atAddr_memWf {α : Type} {c : Chk α} (va : Word) (h : ChkWf c) : ChkWf (c.atAddr va) := by
  cases c with
  | ok s x => exact h
  | fault s => exact h
  | wait => trivial

theorem noChecks_memWf (s : State) (h : s.memWf) : ChkWf (noChecks s) := by
  unfold noChecks
  exact h

theorem foldl_memWf {α : Type} (f : State → α → State) (hf : ∀ s x, s.memWf → (f s x).memWf) (l : List α) (s : State)
    (h : s.memWf) : (l.foldl f s).memWf :=
  List.foldlRecOn (motive := State.memWf) l f h (fun t ht x _ => hf t x ht)

theorem foldl_fst_memWf {α β : Type} (f : State × β → α → State × β) (hf : ∀ r x, r.1.memWf → (f r x).1.memWf)
    (l : List α) (r : State × β) (h : r.1.memWf) : (l.foldl f r).1.memWf :=
  List.foldlRecOn (motive := fun r : State × β => r.1.memWf) l f h (fun t ht x _ => hf t x ht)

theorem iter_memWf (f : State → State) (hf : ∀ s, s.memWf → (f s).memWf) (n : Nat) :
    ∀ s : State, s.memWf → (iter f n s).memWf := by
  induction n with
  | zero => exact fun s h => h
  | succ n ih => exact fun s h => ih _ (hf s h)

theorem getD_memWf {o : Option State} {s : State} (ho : OptWf o) (h : s.memWf) : (o.getD s).memWf := by
  cases o with
  | none => exact h
  | some t => exact ho t rfl

theorem bind_memWf {α : Type} {o : Option α} {f : α → Option State} (hf : ∀ x, OptWf (f x)) : OptWf (o.bind f) := by
  cases o with
  | none => exact optWf_none
  | some x => exact hf x

theorem findSome_memWf {α : Type} {l : List α} {f : α → Option State} (hf : ∀ x, OptWf (f x)) :
    OptWf (l.findSome? f) :=
  fun _ ht => (List.exists_of_findSome?_eq_some ht).elim fun x hx => hf x _ hx.2

/-! ### Memory form: the operations of Machine/Ops.lean -/

theorem State.setCore_memWf (s : State) (n : Nat) (x : Core) (h : s.memWf) : (s.setCore n x).memWf :=
  h

theorem State.onCore_memWf (s : State) (n : Nat) (f : Core → Core) (h : s.memWf) : (s.onCore n f).memWf :=
  h

theorem State.setCtx_memWf (s : State) (n k : Nat) (x : Context) (h : s.memWf) : (s.setCtx n k x).memWf :=
  h

theorem State.onCtx_memWf (s : State) (n k : Nat) (f : Context → Context) (h : s.memWf) : (s.onCtx n k f).memWf :=
  h

theorem State.setMe_memWf (s : State) (x : Context) (h : s.memWf) : (s.setMe x).memWf :=
  h

theorem State.onMe_memWf (s : State) (f : Context → Context) (h : s.memWf) : (s.onMe f).memWf :=
  h

theorem State.onHerd_memWf (s : State) (h : Nat) (f : Herd → Herd) (hs : s.memWf) : (s.onHerd h f).memWf :=
  hs

theorem State.short_memWf (s : State) (f : Regs → Regs) (h : s.memWf) : (s.short f).memWf :=
  h

theorem State.shortG_memWf (s : State) (d : RegNo) (x : Word) (h : s.memWf) : (s.shortG d x).memWf :=
  h

theorem State.long_memWf (s : State) (ws : List RegWrite) (h : s.memWf) : (s.long ws).memWf :=
  h

theorem State.longG_memWf (s : State) (d : RegNo) (x : Word) (h : s.memWf) : (s.longG d x).memWf :=
  h

theorem State.postFault_memWf (s : State) (r : FaultRec) (h : s.memWf) : (s.postFault r).memWf :=
  h

theorem State.postEvent_memWf (s : State) (unit herd : Nat) (e : EventRec) (h : s.memWf) :
    (s.postEvent unit herd e).memWf :=
  h

theorem State.postToLaunch_memWf (s : State) (unit launch : Nat) (e : EventRec) (h : s.memWf) :
    (s.postToLaunch unit launch e).memWf := by
  grind [State.postToLaunch, State.memWf_mk, State.wf_bytes, State.postEvent_memWf]

theorem State.postEvq_memWf (s : State) (unit : Nat) (evq : Word) (launch : Nat) (e : EventRec) (h : s.memWf) :
    (s.postEvq unit evq launch e).memWf := by
  grind [State.postEvq, State.postEvent_memWf, State.postToLaunch_memWf]

theorem State.takeTrap_memWf (s : State) (n k : Nat) (t : TrapInfo) (h : s.memWf) : (s.takeTrap n k t).memWf := by
  grind [State.takeTrap, State.setCtx_memWf, State.postFault_memWf]

theorem State.trapMe_memWf (s : State) (cause : Nat) (tval tval2 : Word) (h : s.memWf) :
    (s.trapMe cause tval tval2).memWf := by
  grind [State.trapMe, State.takeTrap_memWf]

theorem State.trapInstr_memWf (s : State) (cause : Nat) (h : s.memWf) : (s.trapInstr cause).memWf := by
  grind [State.trapInstr, State.trapMe_memWf]

theorem State.boundary_memWf (s : State) (n k : Nat) (h : s.memWf) : (s.boundary n k).1.memWf := by
  grind [State.boundary, State.onCtx_memWf, State.setCtx_memWf, State.takeTrap_memWf]

/-! ### Memory form: the operations of Machine/Flags.lean -/

theorem State.floatResult_memWf (s : State) (d : RegNo) (r : FRes) (h : s.memWf) : (s.floatResult d r).memWf := by
  grind [State.floatResult, State.trapMe_memWf, State.long_memWf]

/-! ### Memory form: the operations of Machine/Memory.lean -/

theorem State.setCreg_memWf (s : State) (off : Nat) (v : Word) (h : s.memWf) : (s.setCreg off v).memWf :=
  h

theorem State.corrected_memWf (s : State) (detail unit : Nat) (addr : Word) (h : s.memWf) :
    (s.corrected detail unit addr).memWf :=
  h

theorem State.exposeFlips_memWf (s : State) (t : Nat) (h : s.memWf) : (s.exposeFlips t).memWf := by
  unfold State.exposeFlips
  split
  · exact h
  · refine foldl_memWf _ (fun s e hs => ?_) _ _ h
    exact memPutAll_wf _ _ _ hs

theorem State.dropFlips_memWf (s : State) (pa n : Nat) (h : s.memWf) : (s.dropFlips pa n).memWf :=
  h

theorem State.arrayLost_memWf (s : State) (array unit : Nat) (addr : Word) (h : s.memWf) :
    (s.arrayLost array unit addr).memWf :=
  h

theorem State.readArray_memWf (s : State) (array unit word : Nat) (addr : Word) (h : s.memWf) :
    (s.readArray array unit word addr).1.memWf := by
  unfold State.memWf
  rw [State.readArray_bytes]
  exact h

theorem State.startTlbWalk_memWf (s : State) (ptb asid va : Nat) (h : s.memWf) :
    (s.startTlbWalk ptb asid va).memWf := by
  grind [State.startTlbWalk, State.memWf_mk, State.wf_bytes]

theorem State.fillMicro_memWf (s : State) (core : Nat) (t : TlbEntry) (h : s.memWf) :
    (s.fillMicro core t).memWf := by
  grind [State.fillMicro, State.memWf_mk, State.wf_bytes]

theorem State.readTlb_memWf (s : State) (t : TlbEntry) (h : s.memWf) : (s.readTlb t).memWf := by
  grind [State.readTlb, State.memWf_mk, State.wf_bytes, State.readArray_memWf]

theorem State.touchTlb_memWf (s : State) (p : Party) (va : Nat) (h : s.memWf) : (s.touchTlb p va).memWf := by
  grind [State.touchTlb, State.readTlb_memWf, State.fillMicro_memWf, State.startTlbWalk_memWf, State.detectAll_memWf]

/-! ### Memory form: the operations of Machine/Port.lean -/

theorem State.follow_memWf (s : State) (core ctx site : Nat) (args : List Nat) (i : Instr) (h : s.memWf) :
    (s.follow core ctx site args i).memWf :=
  h

theorem State.srWrite_memWf (s : State) (core ctx n : Nat) (v : Word) (super : Bool) (h : s.memWf) :
    (s.srWrite core ctx n v super).memWf := by
  unfold State.srWrite
  grind [State.memWf_mk, State.wf_bytes, State.onCtx_memWf, State.onCore_memWf]

theorem State.readReg_memWf (s : State) (core ctx r : Nat) (h : s.memWf) : (s.readReg core ctx r).memWf := by
  grind [State.readReg, State.readArray_memWf, State.onCtx_memWf]

theorem State.readAllRegs_memWf (s : State) (core ctx : Nat) (h : s.memWf) : (s.readAllRegs core ctx).memWf := by
  grind [State.readAllRegs, foldl_memWf, State.readReg_memWf]

theorem State.detectSpan_memWf (s : State) (pa n : Nat) (h : s.memWf) : (s.detectSpan pa n).memWf := by
  grind [State.detectSpan, State.detectAll_memWf]

theorem State.windowSr_memWf (s : State) (core ctx n : Nat) (v : Word) (h : s.memWf) :
    (s.windowSr core ctx n v).memWf := by
  grind [State.windowSr, State.srWrite_memWf]

theorem State.applyWindow_memWf (s : State) (core ctx : Nat) (h : s.memWf) : (s.applyWindow core ctx).memWf := by
  grind [State.applyWindow, foldl_memWf, State.onCtx_memWf, State.windowSr_memWf]

/-! ### Memory form: the operations of Machine/Coherence.lean -/

theorem State.readL1_memWf (s : State) (core w : Nat) (h : s.memWf) : (s.readL1 core w).memWf := by
  grind [State.readL1, State.corrected_memWf, State.onCore_memWf, State.onHerd_memWf, State.arrayLost_memWf,
    State.poisonWord_memWf]

theorem State.readSlice_memWf (s : State) (h w : Nat) (hs : s.memWf) : (s.readSlice h w).memWf := by
  grind [State.readSlice, State.corrected_memWf, State.onHerd_memWf, State.arrayLost_memWf, State.poisonWord_memWf]

theorem State.readCopy_memWf (s : State) (core w : Nat) (h : s.memWf) : (s.readCopy core w).memWf := by
  grind [State.readCopy, State.readL1_memWf, State.readSlice_memWf]

theorem State.readICache_memWf (s : State) (h w : Nat) (hs : s.memWf) : (s.readICache h w).memWf := by
  grind [State.readICache, State.readArray_memWf, State.onHerd_memWf]

theorem State.accepted_memWf (s : State) (ids : List Nat) (f : Flight → Flight) (h : s.memWf) :
    (s.accepted ids f).memWf := by
  grind [State.accepted, State.memWf_mk, State.wf_bytes]

theorem State.acceptL1_memWf (s : State) (core n : Nat) (h : s.memWf) : (s.acceptL1 core n).memWf := by
  grind [State.acceptL1, State.onCore_memWf, State.accepted_memWf]

theorem State.acceptSlice_memWf (s : State) (h src n : Nat) (hs : s.memWf) : (s.acceptSlice h src n).memWf := by
  grind [State.acceptSlice, State.onHerd_memWf, State.accepted_memWf]

theorem State.forward_memWf (s : State) (x : WordWrite) (core : Nat) (h : s.memWf) : (s.forward x core).memWf := by
  grind [State.forward, State.acceptL1_memWf, State.onCore_memWf]

theorem State.forwardAll_memWf (s : State) (h : Nat) (x : WordWrite) (hs : s.memWf) : (s.forwardAll h x).memWf := by
  grind [State.forwardAll, foldl_memWf, State.forward_memWf]

theorem State.sliceApplyUpdate_memWf (s : State) (h : Nat) (x : WordWrite) (hs : s.memWf) :
    (s.sliceApplyUpdate h x).memWf := by
  grind [State.sliceApplyUpdate, State.forwardAll_memWf, State.onHerd_memWf]

theorem State.drainL1One_memWf (s : State) (core : Nat) (h : s.memWf) : (s.drainL1One core).memWf :=
  h

theorem State.drainSliceOne_memWf (s : State) (h : Nat) (hs : s.memWf) : (s.drainSliceOne h).memWf := by
  grind [State.drainSliceOne, State.sliceApplyUpdate_memWf, State.onHerd_memWf]

theorem State.drainWordL1_memWf (s : State) (core w : Nat) (h : s.memWf) : (s.drainWordL1 core w).memWf :=
  h

theorem State.drainWordSlice_memWf (s : State) (h w : Nat) (hs : s.memWf) : (s.drainWordSlice h w).memWf := by
  grind [State.drainWordSlice, foldl_memWf, State.sliceApplyUpdate_memWf, State.onHerd_memWf]

theorem State.passL1_memWf (s : State) (core w : Nat) (h : s.memWf) : (s.passL1 core w).memWf := by
  grind [State.passL1, State.onCore_memWf, State.accepted_memWf]

theorem State.passSlice_memWf (s : State) (h w : Nat) (hs : s.memWf) : (s.passSlice h w).memWf := by
  grind [State.passSlice, State.onHerd_memWf, State.accepted_memWf]

theorem State.acquire_memWf (s : State) (core scope : Nat) (h : s.memWf) : (s.acquire core scope).memWf := by
  unfold State.acquire
  grind [iter_memWf, State.drainSliceOne_memWf, State.drainL1One_memWf]

theorem State.homeRead_memWf (s : State) (w : Nat) (h : s.memWf) : (s.homeRead w).1.memWf := by
  grind [State.homeRead, State.detect_memWf]

theorem State.fillSlice_memWf (s : State) (h w : Nat) (hs : s.memWf) : (s.fillSlice h w).memWf := by
  grind [State.fillSlice, State.homeRead_memWf, State.passSlice_memWf, State.onHerd_memWf]

theorem State.sliceRead_memWf (s : State) (h w : Nat) (hs : s.memWf) : (s.sliceRead h w).1.memWf := by
  grind [State.sliceRead, State.fillSlice_memWf, State.readSlice_memWf]

theorem State.fillL1_memWf (s : State) (core w : Nat) (obj : Bool) (h : s.memWf) : (s.fillL1 core w obj).memWf := by
  grind [State.fillL1, State.sliceRead_memWf, State.onHerd_memWf, State.passL1_memWf, State.onCore_memWf]

theorem State.loadWord_memWf (s : State) (core ctx w : Nat) (obj : Bool) (h : s.memWf) :
    (s.loadWord core ctx w obj).1.memWf := by
  generalize hf : @State.loadWord = f
  delta State.loadWord at hf
  subst hf
  beta_reduce
  generalize State.region = region
  grind [State.fillL1_memWf, State.readReg_memWf, State.homeRead_memWf]

theorem State.noteSeen_memWf (s : State) (core ctx w : Nat) (h : s.memWf) : (s.noteSeen core ctx w).memWf := by
  grind [State.noteSeen, State.onCtx_memWf]

theorem State.loadWords_memWf (s : State) (core ctx : Nat) (entry : Word) (obj : Bool) (l : List Nat) (h : s.memWf) :
    (s.loadWords core ctx entry obj l).1.memWf := by
  induction l generalizing s core ctx entry obj with
  | nil => exact h
  | cons x xs ih =>
    unfold State.loadWords
    obtain ⟨region, he⟩ : ∃ f, f = State.region := ⟨_, rfl⟩
    rw [← he]
    refine ih _ _ _ _ _ (ite_both ?_ ?_)
    · exact foldl_memWf _ (fun s y hs => s.fillL1_memWf _ _ _ hs) _ _
        (State.noteSeen_memWf _ _ _ _ (s.loadWord_memWf _ _ _ _ h))
    · exact State.noteSeen_memWf _ _ _ _ (s.loadWord_memWf _ _ _ _ h)

theorem State.readWords_memWf (s : State) (core ctx : Nat) (entry : Word) (obj : Bool) (ws : List Nat)
    (h : s.memWf) :
    (s.readWords core ctx entry obj ws).1.memWf := by
  grind [State.readWords, State.loadWords_memWf]

theorem State.loadSpan_memWf (s : State) (core ctx : Nat) (a : Access) (n : Nat) (h : s.memWf) :
    (s.loadSpan core ctx a n).1.memWf := by
  grind [State.loadSpan, State.readWords_memWf]

theorem State.putFlight_memWf (s : State) (core : Nat) (f : Flight) (h : s.memWf) : (s.putFlight core f).memWf :=
  h

theorem State.shareL1_memWf (s : State) (core id w : Nat) (h : s.memWf) : (s.shareL1 core id w).1.memWf := by
  grind [State.shareL1, foldl_memWf, State.onCore_memWf, State.passL1_memWf]

theorem State.shareSlices_memWf (s : State) (h id w : Nat) (hs : s.memWf) : (s.shareSlices h id w).1.memWf := by
  grind [State.shareSlices, foldl_memWf, State.onHerd_memWf]

theorem State.herdApply_memWf (s : State) (core : Nat) (f : Flight) (h : s.memWf) : (s.herdApply core f).memWf := by
  grind [State.herdApply, State.fillSlice_memWf, State.readSlice_memWf, State.onHerd_memWf, State.shareL1_memWf,
    State.putFlight_memWf]

theorem State.renewSlice_memWf (s : State) (h w : Nat) (hs : s.memWf) : (s.renewSlice h w).memWf := by
  grind [State.renewSlice, State.sliceApplyUpdate_memWf, State.passSlice_memWf]

theorem State.homeApply_memWf (s : State) (core : Nat) (f : Flight) (h : s.memWf) : (s.homeApply core f).memWf := by
  grind [State.homeApply, State.homeWrite_memWf, State.onHerd_memWf, State.shareSlices_memWf, State.renewSlice_memWf,
    State.putFlight_memWf]

theorem State.homeStore_memWf (s : State) (x : WordWrite) (h : s.memWf) : (s.homeStore x).memWf := by
  grind [State.homeStore, foldl_memWf, State.homeWrite_memWf, State.acceptSlice_memWf, State.onHerd_memWf]

theorem State.flightStep_memWf (s : State) (core : Nat) (f : Flight) (h : s.memWf) :
    (s.flightStep core f).memWf := by
  grind [State.flightStep, State.herdApply_memWf, State.accepted_memWf, State.acceptL1_memWf, State.homeApply_memWf,
    State.acceptSlice_memWf]

theorem State.pushFlight_memWf (s : State) (core id scope n : Nat) (h : s.memWf) :
    (s.pushFlight core id scope n).memWf := by
  induction n generalizing s core id scope with
  | zero => exact h
  | succ m ih =>
    unfold State.pushFlight
    grind [State.flightStep_memWf]

theorem State.push_memWf (s : State) (core id scope : Nat) (h : s.memWf) : (s.push core id scope).memWf := by
  grind [State.push, State.pushFlight_memWf]

theorem State.pushWord_memWf (s : State) (core w : Nat) (h : s.memWf) : (s.pushWord core w).memWf := by
  grind [State.pushWord, foldl_memWf, State.push_memWf]

theorem State.writeBack_memWf (s : State) (core w : Nat) (h : s.memWf) : (s.writeBack core w).memWf := by
  grind [State.writeBack, foldl_memWf, State.pushWord_memWf, State.readL1_memWf, State.onCore_memWf,
    State.onHerd_memWf, State.forward_memWf]

theorem State.evictL1_memWf (s : State) (core w : Nat) (h : s.memWf) : (s.evictL1 core w).memWf := by
  grind [State.evictL1, State.writeBack_memWf, State.onCore_memWf]

theorem State.evictSlice_memWf (s : State) (h w : Nat) (hs : s.memWf) : (s.evictSlice h w).memWf := by
  grind [State.evictSlice, foldl_memWf, State.evictL1_memWf, State.readSlice_memWf, State.onHerd_memWf,
    State.homeStore_memWf]

theorem State.emptyL1_memWf (s : State) (core : Nat) (h : s.memWf) : (s.emptyL1 core).memWf := by
  grind [State.emptyL1, foldl_memWf, State.evictL1_memWf, State.onCore_memWf, State.acceptL1_memWf]

theorem State.emptySlice_memWf (s : State) (h : Nat) (hs : s.memWf) : (s.emptySlice h).memWf := by
  grind [State.emptySlice, foldl_memWf, State.evictSlice_memWf, State.acceptSlice_memWf, State.onHerd_memWf]

theorem State.flushWord_memWf (s : State) (core w : Nat) (h : s.memWf) : (s.flushWord core w).memWf := by
  grind [State.flushWord, State.writeBack_memWf, State.readSlice_memWf, State.onHerd_memWf, State.homeStore_memWf]

theorem State.portPut_memWf (s : State) (core ctx : Nat) (x : WordWrite) (h : s.memWf) :
    (s.portPut core ctx x).memWf := by
  generalize hf : @State.portPut = f
  delta State.portPut at hf
  subst hf
  beta_reduce
  generalize State.region = region
  grind [State.follow_memWf, State.homeWrite_memWf]

theorem State.shareWrite_memWf (s : State) (core ctx scope : Nat) (x : WordWrite) (h : s.memWf) :
    (s.shareWrite core ctx scope x).memWf := by
  grind [State.shareWrite, State.memWf_mk, State.wf_bytes, State.homeWrite_memWf, State.shareSlices_memWf,
    State.onHerd_memWf, State.passSlice_memWf, State.shareL1_memWf, State.onCore_memWf, State.push_memWf]

theorem State.rmw_memWf (s : State) (core ctx w : Nat) (priv : Bool) (scope : Nat)
    (f : Word → Option (Word × BitVec 8)) (h : s.memWf) :
    (s.rmw core ctx w priv scope f).1.memWf := by
  unfold State.rmw
  generalize State.region = region
  grind [State.flushWord_memWf, State.pushWord_memWf, State.homeRead_memWf, State.noteSeen_memWf,
    State.shareWrite_memWf, State.loadWord_memWf, State.onCore_memWf, State.portPut_memWf]

theorem State.leavePort_memWf (s : State) (core : Nat) (f : Flight) (h : s.memWf) : (s.leavePort core f).memWf := by
  unfold State.leavePort
  generalize State.region = region
  grind [State.onCore_memWf, State.rmw_memWf, State.readL1_memWf, State.fillL1_memWf, State.portPut_memWf]

theorem State.postLost_memWf (s : State) (core ctx cause : Nat) (va : Word) (h : s.memWf) :
    (s.postLost core ctx cause va).memWf :=
  h

theorem State.lostCause_memWf (s : State) (core : Nat) (f : Flight) (h : s.memWf) : (s.lostCause core f).1.memWf := by
  unfold State.lostCause
  have hd := fun w => s.detect_memWf w h
  generalize s.detect = d at hd ⊢
  generalize State.inTile = it
  exact fst_ite_memWf (hd _) (fst_ite_memWf (State.checkRows_memWf _ _ _ _ (hd _)) (hd _))

theorem State.tryLeave_memWf (s : State) (core : Nat) (f : Flight) (h : s.memWf) : (s.tryLeave core f).memWf := by
  grind [State.tryLeave, State.lostCause_memWf, State.putFlight_memWf, State.postLost_memWf, State.onCtx_memWf,
    State.leavePort_memWf, State.push_memWf]

theorem State.pushNeeds_memWf (s : State) (core : Nat) (f : Flight) (h : s.memWf) : (s.pushNeeds core f).memWf := by
  grind [State.pushNeeds, foldl_memWf, State.push_memWf]

theorem State.pushWrites_memWf (s : State) (core ctx scope : Nat) (h : s.memWf) :
    (s.pushWrites core ctx scope).memWf := by
  grind [State.pushWrites, foldl_memWf, State.tryLeave_memWf, State.pushNeeds_memWf, State.push_memWf]

theorem State.openWords_memWf (s : State) (core ctx : Nat) (ws : List Nat) (h : s.memWf) :
    (s.openWords core ctx ws).1.memWf := by
  grind [State.openWords, foldl_memWf, State.pushWrites_memWf]

theorem State.release_memWf (s : State) (core ctx scope : Nat) (h : s.memWf) :
    (s.release core ctx scope).1.memWf := by
  grind [State.release, foldl_memWf, State.pushWrites_memWf, State.push_memWf, State.onCtx_memWf]

theorem State.portEnter_memWf (s : State) (core : Nat) (f : Flight) (h : s.memWf) : (s.portEnter core f).memWf := by
  grind [State.portEnter, State.memWf_mk, State.wf_bytes, State.onCore_memWf, State.tryLeave_memWf]

theorem State.portStore_memWf (s : State) (core ctx : Nat) (st : StoreReq) (walk : Option Nat) (h : s.memWf) :
    (s.portStore core ctx st walk).memWf := by
  grind [State.portStore, foldl_memWf, State.portEnter_memWf, State.onCore_memWf]

/-! ### Memory form: the operations of Machine/Checks.lean -/

theorem State.checkData_memWf (s : State) (p : Party) (pa size : Nat) (h : s.memWf) :
    (s.checkData p pa size).1.memWf := by
  unfold State.checkData
  generalize State.inTile = inTile
  generalize State.region = region
  extract_lets ws t u c
  have ht : t.memWf := by
    unfold t
    split
    · exact State.exposeFlips_memWf _ _ h
    · exact ite_both (foldl_memWf _ (fun s w hs => s.readCopy_memWf _ _ hs) _ _ h) h
  have hu : u.memWf := State.detectAll_memWf _ _ ht
  have hc : c.1.memWf := State.checkRows_memWf _ _ _ _ hu
  clear_value c u t
  split
  · exact State.detectAll_memWf _ _ ht
  · split
    · exact hc
    · exact hu

theorem State.checkSpan_memWf (s : State) (p : Party) (q : AccessReq) (tval2 : Word) (h : s.memWf) :
    ChkWf (s.checkSpan p q tval2) := by
  have ht := s.touchTlb_memWf p (q.va.toNat % 2 ^ 57) h
  unfold State.checkSpan
  generalize s.touchTlb p (q.va.toNat % 2 ^ 57) = t at ht
  dsimp only
  split
  · exact ht
  · refine ite_both ht (ite_both ht (ite_both ht (ite_both trivial (ite_both ht (ite_both ht ?_)))))
    have ho : ∀ ws, (if p.isCtx || p.viaPort then t.openWords p.core p.ctx ws else (t, true)).1.memWf :=
      fun ws => fst_ite_memWf (t.openWords_memWf p.core p.ctx ws ht) ht
    refine ite_both trivial (ite_both ?_ (ho _))
    have hc := fun ws pa => State.checkData_memWf _ p pa q.size (ho ws)
    split
    · exact hc _ _
    · exact hc _ _
    · exact hc _ _

theorem State.headerWord_memWf (s : State) (core ctx : Nat) (entry : Word) (w : Nat) (h : s.memWf) :
    (s.headerWord core ctx entry w).1.memWf := by
  grind [State.headerWord, State.readWords_memWf, State.acceptSlice_memWf, State.drainWordSlice_memWf,
    State.drainWordL1_memWf, State.acceptL1_memWf]

theorem State.readHeader_memWf (s : State) (p : Party) (h : Word) (origin : Origin) (hs : s.memWf) :
    ChkWf (s.readHeader p h origin) := by
  unfold State.readHeader
  have ht := s.touchTlb_memWf p (h.toNat % 2 ^ 57) hs
  generalize s.touchTlb p (h.toNat % 2 ^ 57) = t at ht ⊢
  have ho := t.openWords_memWf p.core p.ctx
  have hr := @State.headerWord_memWf
  extract_lets flt
  split
  · exact chkWf_fault.2 ht
  · refine ite_both ht (ite_both ht (ite_both ht (ite_both trivial (ite_both trivial ?_))))
    exact chkWf_ok.2 (hr _ _ _ _ _ (ho _ ht))

theorem State.checkAccess_memWf (s : State) (p : Party) (q : AccessReq) (h : s.memWf) :
    ChkWf (s.checkAccess p q) := by
  grind [State.checkAccess, chkWf_ok, chkWf_fault, chkWf_wait, !State.readHeader_memWf, !State.checkSpan_memWf]

/-! ### Memory form: the operations of Machine/Commit.lean -/

theorem State.retryMe_memWf (s : State) (h : s.memWf) : (s.retryMe).memWf :=
  h

theorem State.checked_memWf {α : Type} (s : State) (c : Chk α) (k : State → α → State) (h : s.memWf)
    (hc : ChkWf c) (hk : ∀ s u', s.memWf → (k s u').memWf) :
    (s.checked c k).memWf := by
  unfold State.checked
  grind [chkWf_ok, chkWf_fault, State.trapMe_memWf, State.retryMe_memWf]

theorem State.startWalk_memWf (s : State) (core ctx scope root : Nat) (h : s.memWf) :
    (s.startWalk core ctx scope root).1.memWf :=
  h

theorem State.releaseStore_memWf (s : State) (core ctx : Nat) (st : StoreReq) (h : s.memWf) :
    (s.releaseStore core ctx st).memWf := by
  grind [State.releaseStore, State.startWalk_memWf, State.portStore_memWf]

theorem State.commitBlock_memWf (s : State) (core ctx : Nat) (a : Word) (h : s.memWf) :
    (s.commitBlock core ctx a).memWf := by
  grind [State.commitBlock, foldl_memWf, State.setCtx_memWf, State.releaseStore_memWf, State.startWalk_memWf,
    State.onCtx_memWf]

theorem State.settleWindow_memWf (s : State) (core ctx : Nat) (h : s.memWf) : (s.settleWindow core ctx).memWf := by
  grind [State.settleWindow, State.applyWindow_memWf]

theorem State.exposed_memWf (s : State) (i : Instr) (checks : State → Chk Unit) (perform : State → Perf)
    (h : s.memWf) (hchecks : ∀ s, s.memWf → ChkWf (checks s)) (hperform : ∀ s, s.memWf → PerfWf (perform s)) :
    (s.exposed i checks perform).memWf := by
  unfold State.exposed
  grind [chkWf_ok, chkWf_fault, perfWf_done, perfWf_later, State.onMe_memWf, State.settleWindow_memWf,
    State.retryMe_memWf, State.trapMe_memWf, State.commitBlock_memWf]

theorem State.result_memWf (s : State) (ws : List RegWrite) (h : s.memWf) : (s.result ws).memWf :=
  h

theorem State.resultG_memWf (s : State) (d : RegNo) (x : Word) (h : s.memWf) : (s.resultG d x).memWf :=
  h

theorem State.escapes_memWf (s : State) (p : Party) (ref : Word) (d : Dest) (h : s.memWf) :
    ChkWf (s.escapes p ref d) := by
  grind [State.escapes, chkWf_ok, chkWf_wait, Chk.andThen_memWf, !State.readHeader_memWf]

theorem State.noEscape_memWf (s : State) (p : Party) (d : Dest) (tval : Word) (l : List Tagged) (h : s.memWf) :
    ChkWf (s.noEscape p d tval l) := by
  induction l generalizing s p d tval with
  | nil => exact chkWf_ok.2 h
  | cons x xs ih =>
    unfold State.noEscape
    grind [chkWf_fault, Chk.andThen_memWf, !State.escapes_memWf]

theorem State.escapeAll_memWf (s : State) (p : Party) (d : Dest) (tval : Word) (l : List Tagged) (h : s.memWf) :
    ChkWf (s.escapeAll p d tval l) := by
  induction l generalizing s p d tval with
  | nil => exact chkWf_ok.2 h
  | cons x xs ih =>
    unfold State.escapeAll
    grind [chkWf_fault, Chk.andThen_memWf, !State.escapes_memWf, State.onMe_memWf]

/-! ### Memory form: the operations of Machine/Operands.lean -/

theorem State.shortRR_memWf (s : State) (d a b : RegNo) (f : Word → Word → Word) (h : s.memWf) :
    OutWf (s.shortRR d a b f) :=
  outWf_next.2 h

theorem State.longRR_memWf (s : State) (d a b : RegNo) (f : Word → Word → Word) (h : s.memWf) :
    OutWf (s.longRR d a b f) :=
  outWf_next.2 h

theorem State.shortR_memWf (s : State) (d a : RegNo) (f : Word → Word) (h : s.memWf) : OutWf (s.shortR d a f) :=
  outWf_next.2 h

theorem State.shortP_memWf (s : State) (d : PredNo) (b : Bool) (flags : Nat) (h : s.memWf) :
    (s.shortP d b flags).memWf := by
  grind [State.shortP, State.short_memWf]

/-! ### Memory form: the operations of Machine/Mem.lean -/

theorem State.accessLost_memWf (s : State) (cause pa : Nat) (va : Word) (h : s.memWf) :
    (s.accessLost cause pa va).memWf :=
  h

theorem State.heldAccess_memWf (s : State) (q : AccessReq) (h : s.memWf) : ChkWf (s.heldAccess q) := by
  grind [State.heldAccess, chkWf_ok, chkWf_fault, chkWf_wait, !State.checkAccess_memWf, State.openWords_memWf,
    State.checkData_memWf]

theorem State.performAccess_memWf (s : State) (q : AccessReq) (k : State → Access → Perf) (h : s.memWf)
    (hk : ∀ s u', s.memWf → PerfWf (k s u')) :
    PerfWf (s.performAccess q k) := by
  grind [State.performAccess, chkWf_ok, chkWf_fault, perfWf_done, perfWf_later, !State.heldAccess_memWf,
    State.accessLost_memWf]

theorem State.accessOk_memWf (s : State) (q : AccessReq) (h : s.memWf) : ChkWf (s.accessOk q) := by
  grind [State.accessOk, chkWf_ok, Chk.andThen_memWf, !State.checkAccess_memWf, State.onMe_memWf]

theorem State.loadInstr_memWf (s : State) (i : Instr) (q : AccessReq)
    (fin : Access → List Byte → Bool → List RegWrite) (h : s.memWf) :
    (s.loadInstr i q fin).memWf := by
  grind [State.loadInstr, chkWf_ok, perfWf_done, !State.performAccess_memWf, State.loadSpan_memWf, State.result_memWf,
    State.exposed_memWf, State.checked_memWf, !State.checkAccess_memWf, State.trapInstr_memWf, State.onMe_memWf,
    State.long_memWf]

theorem execLd_memWf (z : LoadKind) (d a : RegNo) (off : BitVec 9) (s : State) (h : s.memWf) :
    OutWf (execLd z d a off s) := by
  grind [execLd, outWf_next, State.loadInstr_memWf]

theorem execLdx_memWf (z : LoadKind) (d a b : RegNo) (sh : BitVec 3) (s : State) (h : s.memWf) :
    OutWf (execLdx z d a b sh s) := by
  grind [execLdx, outWf_next, State.loadInstr_memWf]

theorem State.narrowOk_memWf (s : State) (q : AccessReq) (pa : Nat) (h : s.memWf) : ChkWf (s.narrowOk q pa) := by
  grind [State.narrowOk, chkWf_ok, chkWf_fault, State.detectAll_memWf]

theorem State.storeInstr_memWf (s : State) (q : AccessReq) (bs : List Byte) (tag : Bool)
    (more : State → StoreReq → StoreReq) (h : s.memWf) :
    (s.storeInstr q bs tag more).memWf := by
  grind [State.storeInstr, chkWf_ok, State.checked_memWf, !State.checkAccess_memWf, !State.narrowOk_memWf,
    State.trapInstr_memWf, State.onMe_memWf]

theorem execSt_memWf (z : StoreKind) (d a : RegNo) (off : BitVec 9) (s : State) (h : s.memWf) :
    OutWf (execSt z d a off s) := by
  grind [execSt, outWf_next, State.storeInstr_memWf]

theorem execStx_memWf (z : StoreKind) (d a b : RegNo) (sh : BitVec 3) (s : State) (h : s.memWf) :
    OutWf (execStx z d a b sh s) := by
  grind [execStx, outWf_next, State.storeInstr_memWf]

theorem execLda_memWf (z : WordKind) (sc : Scope) (d a : RegNo) (off : BitVec 9) (s : State) (h : s.memWf) :
    OutWf (execLda z sc d a off s) := by
  grind [execLda, outWf_next, perfWf_done, State.exposed_memWf, !State.accessOk_memWf, !State.performAccess_memWf,
    State.loadSpan_memWf, State.resultG_memWf, State.acquire_memWf]

theorem execStl_memWf (z : WordKind) (sc : Scope) (d a : RegNo) (off : BitVec 9) (s : State) (h : s.memWf) :
    OutWf (execStl z sc d a off s) := by
  grind [execStl, outWf_next, chkWf_ok, perfWf_done, Chk.andThen_memWf, State.exposed_memWf, !State.checkAccess_memWf,
    !State.narrowOk_memWf, State.onMe_memWf, !State.performAccess_memWf, State.portStore_memWf]

theorem execLdref_memWf (o : Ord) (d a : RegNo) (off : BitVec 9) (s : State) (h : s.memWf) :
    OutWf (execLdref o d a off s) := by
  grind [execLdref, outWf_next, State.checked_memWf, !State.checkAccess_memWf, State.loadSpan_memWf, State.long_memWf,
    State.acquire_memWf, State.onMe_memWf]

theorem execStref_memWf (o : Ord) (d a : RegNo) (off : BitVec 9) (s : State) (h : s.memWf) :
    OutWf (execStref o d a off s) := by
  grind [execStref, outWf_next, State.storeInstr_memWf, State.checked_memWf, !State.checkAccess_memWf,
    State.trapMe_memWf, !State.escapes_memWf]

theorem State.checkPages_memWf (s : State) (q : AccessReq) (l : List Nat) (h : s.memWf) :
    ChkWf (s.checkPages q l) := by
  induction l generalizing s q with
  | nil => exact chkWf_ok.2 h
  | cons x xs ih =>
    unfold State.checkPages
    grind [Chk.andThen_memWf, !State.checkSpan_memWf]

theorem execMkobj_memWf (k : ObjKind) (d a b : RegNo) (s : State) (h : s.memWf) : OutWf (execMkobj k d a b s) := by
  grind [execMkobj, outWf_next, State.trapMe_memWf, State.checked_memWf, !State.checkPages_memWf,
    State.storeInstr_memWf, State.long_memWf]

theorem State.atomic_memWf (s : State) (i : Instr) (d : RegNo) (q : AccessReq) (sc : Nat) (f : Nat → Option Nat)
    (fin : Nat → Word) (h : s.memWf) :
    (s.atomic i d q sc f fin).memWf := by
  grind [State.atomic, perfWf_done, perfWf_later, State.exposed_memWf, !State.accessOk_memWf, State.pushWrites_memWf,
    State.release_memWf, !State.performAccess_memWf, State.rmw_memWf, State.acquire_memWf, State.resultG_memWf]

theorem State.amoPost.post_memWf (op : AmoOp) (q : AccessReq) (b : Nat) (s : State) (acc : Access) (h : s.memWf) :
    (State.amoPost.post op q b s acc).memWf := by
  grind [State.amoPost.post, State.portEnter_memWf]

theorem State.amoPost_memWf (s : State) (i : Instr) (op : AmoOp) (q : AccessReq) (b : Nat) (h : s.memWf) :
    (s.amoPost i op q b).memWf := by
  grind [State.amoPost, perfWf_done, State.exposed_memWf, !State.accessOk_memWf, !State.performAccess_memWf,
    State.amoPost.post_memWf]

theorem execAmoW_memWf (op : AmoOp) (o : Ord) (d a b : RegNo) (s : State) (h : s.memWf) :
    OutWf (execAmoW op o d a b s) := by
  grind [execAmoW, outWf_next, State.amoPost_memWf, State.atomic_memWf]

theorem execAmoD_memWf (op : AmoOp) (o : Ord) (d a b : RegNo) (s : State) (h : s.memWf) :
    OutWf (execAmoD op o d a b s) := by
  grind [execAmoD, outWf_next, State.amoPost_memWf, State.atomic_memWf]

theorem execCasW_memWf (d a b c : RegNo) (s : State) (h : s.memWf) : OutWf (execCasW d a b c s) := by
  grind [execCasW, outWf_next, State.atomic_memWf]

theorem execCasD_memWf (d a b c : RegNo) (s : State) (h : s.memWf) : OutWf (execCasD d a b c s) := by
  grind [execCasD, outWf_next, State.atomic_memWf]

theorem execFenceFull_memWf (sc : Scope) (s : State) (h : s.memWf) : OutWf (execFenceFull sc s) := by
  unfold execFenceFull
  grind [outWf_next, perfWf_done, perfWf_later, noChecks_memWf, State.exposed_memWf, State.release_memWf,
    State.acquire_memWf]

theorem execFenceRel_memWf (sc : Scope) (s : State) (h : s.memWf) : OutWf (execFenceRel sc s) := by
  unfold execFenceRel
  grind [outWf_next, perfWf_done, noChecks_memWf, State.exposed_memWf, State.portEnter_memWf]

theorem execFenceAcq_memWf (sc : Scope) (s : State) (h : s.memWf) : OutWf (execFenceAcq sc s) := by
  unfold execFenceAcq
  grind [outWf_next, perfWf_done, noChecks_memWf, State.exposed_memWf, State.acquire_memWf]

theorem execFenceEng_memWf (sc : Scope) (s : State) (h : s.memWf) : OutWf (execFenceEng sc s) := by
  unfold execFenceEng
  grind [outWf_next, perfWf_done, perfWf_later, noChecks_memWf, State.exposed_memWf]

theorem execPub_memWf (sc : Scope) (a : RegNo) (s : State) (h : s.memWf) : OutWf (execPub sc a s) := by
  unfold execPub
  grind [outWf_next, perfWf_done, perfWf_later, chkWf_ok, chkWf_fault, State.exposed_memWf, State.startWalk_memWf]

theorem State.flushPages_memWf (s : State) (h : Word) (l : List Nat) (hs : s.memWf) :
    ChkWf (s.flushPages h l) := by
  induction l generalizing s h with
  | nil => exact chkWf_ok.2 hs
  | cons x xs ih =>
    unfold State.flushPages
    grind [chkWf_fault]

theorem State.flushOk_memWf (s : State) (x : Tagged) (n : Nat) (h : s.memWf) : ChkWf (s.flushOk x n) := by
  grind [State.flushOk, chkWf_ok, chkWf_fault, chkWf_wait, Chk.andThen_memWf, !State.flushPages_memWf,
    !State.readHeader_memWf]

theorem execCflush_memWf (a b : RegNo) (s : State) (h : s.memWf) : OutWf (execCflush a b s) := by
  unfold execCflush
  grind [outWf_next, foldl_memWf, perfWf_done, perfWf_later, State.exposed_memWf, !State.flushOk_memWf,
    State.pushWrites_memWf, State.writeBack_memWf]

theorem execCflushInv_memWf (a b : RegNo) (s : State) (h : s.memWf) : OutWf (execCflushInv a b s) := by
  unfold execCflushInv
  grind [outWf_next, perfWf_done, perfWf_later, State.exposed_memWf, !State.flushOk_memWf, State.pushWrites_memWf,
    State.onCore_memWf]

/-! ### Memory form: the operations of Machine/Schedule.lean -/

theorem State.actAs_memWf (s : State) (core ctx site : Nat) (args : List Nat) (h : s.memWf) :
    (s.actAs core ctx site args).memWf :=
  h

theorem State.readNamed_memWf (s : State) (core ctx : Nat) (paired : Bool) (h : s.memWf) :
    (s.readNamed core ctx paired).memWf := by
  grind [State.readNamed, foldl_memWf, State.readReg_memWf]

theorem State.readBuffer_memWf (s : State) (core ctx : Nat) (h : s.memWf) : (s.readBuffer core ctx).memWf := by
  grind [State.readBuffer, State.readArray_memWf, State.onCtx_memWf]

theorem State.issueAt_memWf (s : State) (core ctx : Nat) (paired : Bool) (h : s.memWf) :
    (s.issueAt core ctx paired).memWf := by
  grind [State.issueAt, State.readNamed_memWf, State.onCtx_memWf, State.actAs_memWf, State.onCore_memWf]

theorem State.waitPair_memWf (s s0 : State) (h : s.memWf) : (s.waitPair s0).memWf :=
  h

theorem State.onAWord_memWf (s : State) (h : s.memWf) : (s.onAWord).memWf :=
  h

theorem State.onMWord_memWf (s : State) (h : s.memWf) : (s.onMWord).memWf :=
  h

theorem State.gangMembers_memWf (s : State) (core ctx : Nat) (h : s.memWf) : (s.gangMembers core ctx).1.memWf := by
  grind [State.gangMembers, foldl_memWf, State.onCtx_memWf]

theorem State.gangTurn_memWf (s : State) (core ctx : Nat) (h : s.memWf) : (s.gangTurn core ctx).1.memWf := by
  grind [State.gangTurn, State.gangMembers_memWf]

theorem State.shareBlock_memWf (s : State) (l : List (Nat × Nat)) (h : s.memWf) : (s.shareBlock l).memWf := by
  unfold State.shareBlock
  grind [foldl_memWf, State.onCtx_memWf]

theorem State.onSite_memWf (s : State) (n : Nat) (f : Site → Site) (h : s.memWf) : (s.onSite n f).memWf :=
  h

/-! ### Memory form: the operations of Machine/Blocks.lean -/

theorem State.fetchBundle_memWf (s : State) (core pa : Nat) (h : s.memWf) : (s.fetchBundle core pa).1.memWf := by
  generalize hf : @State.fetchBundle = f
  delta State.fetchBundle at hf
  subst hf
  beta_reduce
  generalize State.region = region
  grind [State.readICache_memWf, State.sliceRead_memWf, State.onHerd_memWf, State.homeRead_memWf]

theorem State.fetchAt_memWf (s : State) (p : Party) (va : Word) (h : s.memWf) : FetchedWf (s.fetchAt p va) := by
  unfold State.fetchAt
  have ht := s.touchTlb_memWf p (va.toNat % 2 ^ 57) h
  have hb := @State.fetchBundle_memWf
  generalize @State.fetchBundle = f at hb ⊢
  generalize s.touchTlb p (va.toNat % 2 ^ 57) = t at ht ⊢
  dsimp only
  split
  · trivial
  · exact ite_both trivial (ite_both trivial (ite_both trivial (ite_both trivial (fetchedWf_words.2 (hb t _ _ ht)))))

theorem State.fetchMore_memWf (s : State) (p : Party) (va : Word) (n k : Nat) (h : s.memWf) :
    (s.fetchMore p va n k).1.memWf := by
  induction n generalizing s p va k with
  | zero => exact h
  | succ m ih =>
    unfold State.fetchMore
    grind [fetchedWf_words, !State.fetchAt_memWf]

theorem State.fetchTrap_memWf (s : State) (core ctx cause tidx : Nat) (tval : Word) (h : s.memWf) :
    (s.fetchTrap core ctx cause tidx tval).memWf := by
  grind [State.fetchTrap, State.takeTrap_memWf]

theorem State.admitBlock_memWf (s : State) (core ctx : Nat) (ws : List (BitVec 32)) (h : s.memWf) :
    (s.admitBlock core ctx ws).memWf := by
  grind [State.admitBlock, State.fetchTrap_memWf, State.setCtx_memWf]

theorem State.fetchBlock_memWf (s : State) (core ctx : Nat) (h : s.memWf) : (s.fetchBlock core ctx).memWf := by
  grind [State.fetchBlock, fetchedWf_words, State.fetchTrap_memWf, !State.fetchAt_memWf, State.fetchMore_memWf,
    State.admitBlock_memWf]

theorem execBlockFetch_memWf (s : State) (h : s.memWf) : OutWf (execBlockFetch s) := by
  grind [execBlockFetch, outWf_next, State.boundary_memWf, State.applyWindow_memWf, State.admitBlock_memWf,
    State.fetchBlock_memWf]

theorem execLoadReturn_memWf (s : State) (h : s.memWf) : OutWf (execLoadReturn s) := by
  grind [execLoadReturn, outWf_next, State.onMe_memWf, State.evictL1_memWf, State.evictSlice_memWf,
    State.onHerd_memWf]

theorem execBlockCommit_memWf (s : State) (h : s.memWf) : OutWf (execBlockCommit s) := by
  grind [execBlockCommit, outWf_next, State.onMe_memWf, State.settleWindow_memWf, State.commitBlock_memWf]

theorem State.vuPush_memWf (s : State) (core : Nat) (e : VuEntry) (h : s.memWf) : (s.vuPush core e).memWf :=
  h

theorem execVuIssue_memWf (s : State) (h : s.memWf) : OutWf (execVuIssue s) := by
  grind [execVuIssue, outWf_next, State.onCore_memWf, State.takeTrap_memWf, State.setCtx_memWf]

/-! ### Memory form: the operations of Machine/Control.lean -/

theorem State.exitTo_memWf (s : State) (t : Word) (h : s.memWf) : (s.exitTo t).memWf :=
  h

theorem execB_memWf (p : PredNo) (n : Bool) (off : BitVec 20) (s : State) (h : s.memWf) :
    OutWf (execB p n off s) := by
  grind [execB, outWf_next, State.exitTo_memWf]

/-! ### Memory form: the operations of Machine/Sets.lean -/

theorem State.onThread_memWf (s : State) (h : Nat) (f : Thread → Thread) (hs : s.memWf) :
    (s.onThread h f).memWf := by
  grind [State.onThread, State.memWf_mk, State.wf_bytes]

theorem State.agentWrite_memWf (s : State) (pa : Nat) (x : Tagged) (h : s.memWf) : (s.agentWrite pa x).memWf := by
  grind [State.agentWrite, State.homeStore_memWf]

theorem State.putSlotWord_memWf (s : State) (handle off : Nat) (x : Word) (h : s.memWf) :
    (s.putSlotWord handle off x).memWf := by
  grind [State.putSlotWord, State.agentWrite_memWf]

theorem State.savedFault_memWf (s : State) (handle cause : Nat) (tval tval2 : Word) (h : s.memWf) :
    (s.savedFault handle cause tval tval2).memWf := by
  grind [State.savedFault, State.putSlotWord_memWf]

theorem State.endSavedWait_memWf (s : State) (h : Nat) (hs : s.memWf) : (s.endSavedWait h).memWf := by
  grind [State.endSavedWait, State.putSlotWord_memWf, State.onThread_memWf]

theorem State.readAt_memWf (s : State) (core ctx w : Nat) (h : s.memWf) : (s.readAt core ctx w).1.memWf := by
  grind [State.readAt, State.rmw_memWf]

theorem State.writeAt_memWf (s : State) (core ctx w : Nat) (v : Word) (h : s.memWf) :
    (s.writeAt core ctx w v).memWf := by
  generalize hf : @State.writeAt = f
  delta State.writeAt at hf
  subst hf
  beta_reduce
  generalize State.region = region
  grind [State.rmw_memWf]

theorem State.onUnit_memWf (s : State) (h u : Nat) (f : BarUnit → BarUnit) (hs : s.memWf) :
    (s.onUnit h u f).memWf :=
  hs

theorem State.readRec_memWf (s : State) (core ctx pa : Nat) (h : s.memWf) : (s.readRec core ctx pa).1.memWf := by
  generalize hf : @State.readRec = f
  delta State.readRec at hf
  subst hf
  beta_reduce
  have hreadAt := @State.readAt_memWf
  generalize @State.readAt = readAt at hreadAt ⊢
  grind

theorem State.writeRec_memWf (s : State) (core ctx pa : Nat) (r : SetRec) (h : s.memWf) :
    (s.writeRec core ctx pa r).memWf := by
  grind [State.writeRec, State.writeAt_memWf, State.onUnit_memWf]

theorem State.onAux_memWf (s : State) (pa : Nat) (f : SetAux → SetAux) (h : s.memWf) : (s.onAux pa f).memWf :=
  h

theorem State.testRec_memWf (s : State) (pa : Nat) (r : SetRec) (h : s.memWf) : (s.testRec pa r).1.memWf := by
  grind [State.testRec, State.onAux_memWf]

theorem State.freeUnit_memWf (s : State) (h u : Nat) (record : Word) (handle : Nat) (evq : Word) (hs : s.memWf) :
    (s.freeUnit h u record handle evq).memWf := by
  grind [State.freeUnit, State.postEvq_memWf, State.onUnit_memWf]

theorem State.deliver_memWf (s : State) (cause : Nat) (tval tval2 : Word) (h : s.memWf) :
    (s.deliver cause tval tval2).memWf :=
  h

theorem State.setInstr_memWf (s : State) (i : Instr) (a : RegNo) (k : State → Nat → Member → Nat → SetRec → Perf)
    (h : s.memWf) (hk : ∀ s u' v' w' x', s.memWf → PerfWf (k s u' v' w' x')) :
    (s.setInstr i a k).memWf := by
  grind [State.setInstr, chkWf_fault, perfWf_done, State.exposed_memWf, !State.accessOk_memWf,
    !State.performAccess_memWf, State.readRec_memWf]

theorem State.joinOk_memWf (s : State) (x : Tagged) (h : s.memWf) : ChkWf (s.joinOk x) := by
  grind [State.joinOk, chkWf_fault, !State.accessOk_memWf]

theorem State.enter_memWf (s : State) (pa : Nat) (record : Word) (phase : Bool) (h : s.memWf) :
    (s.enter pa record phase).memWf :=
  h

theorem execJoin_memWf (d a : RegNo) (s : State) (h : s.memWf) : OutWf (execJoin d a s) := by
  unfold execJoin
  have hread := @State.readRec_memWf
  generalize @State.readRec = read at hread ⊢
  grind [outWf_next, perfWf_done, State.exposed_memWf, !State.joinOk_memWf, !State.performAccess_memWf,
    State.deliver_memWf, State.writeRec_memWf, State.resultG_memWf, State.enter_memWf]

theorem execJoinNew_memWf (pool bound : Bool) (d a b : RegNo) (s : State) (h : s.memWf) :
    OutWf (execJoinNew pool bound d a b s) := by
  unfold execJoinNew
  have hread := @State.readRec_memWf
  generalize @State.readRec = read at hread ⊢
  grind [outWf_next, perfWf_done, State.memWf_mk, State.wf_bytes, State.exposed_memWf, !State.joinOk_memWf,
    !State.performAccess_memWf, State.deliver_memWf, State.onUnit_memWf, State.writeRec_memWf, State.resultG_memWf,
    State.enter_memWf]

theorem State.faultWait_memWf (s : State) (h cause : Nat) (tval tval2 : Word) (hs : s.memWf) :
    (s.faultWait h cause tval tval2).memWf := by
  grind [State.faultWait, State.onCtx_memWf, State.endSavedWait_memWf, State.savedFault_memWf]

theorem State.passGate_memWf (s : State) (pa : Nat) (addr : Word) (h : Nat) (hs : s.memWf) :
    (s.passGate pa addr h).memWf := by
  grind [State.passGate, State.onCtx_memWf, State.endSavedWait_memWf, State.putSlotWord_memWf]

theorem State.testGate_memWf (s : State) (pa : Nat) (record : Word) (joined : Nat) (w0 : Word) (h : s.memWf) :
    (s.testGate pa record joined w0).memWf := by
  grind [State.testGate, foldl_memWf, State.onAux_memWf, State.faultWait_memWf, State.passGate_memWf]

theorem State.leaveSet_memWf (s : State) (core ctx e : Nat) (m : Member) (pa : Nat) (r : SetRec) (h : s.memWf) :
    (s.leaveSet core ctx e m pa r).memWf := by
  grind [State.leaveSet, State.onCtx_memWf, State.onAux_memWf, State.testRec_memWf, State.writeRec_memWf,
    State.testGate_memWf, State.freeUnit_memWf]

theorem execLeave_memWf (a : RegNo) (s : State) (h : s.memWf) : OutWf (execLeave a s) := by
  unfold execLeave
  grind [outWf_next, perfWf_done, State.setInstr_memWf, State.deliver_memWf, State.leaveSet_memWf]

theorem State.arrive_memWf (s : State) (e : Nat) (m : Member) (pa : Nat) (r : SetRec) (h : s.memWf) :
    (s.arrive e m pa r).1.memWf := by
  grind [State.arrive, State.onMe_memWf, State.onAux_memWf, State.testRec_memWf, State.writeRec_memWf]

theorem State.passBar_memWf (s : State) (core ctx e scope : Nat) (h : s.memWf) :
    (s.passBar core ctx e scope).memWf := by
  grind [State.passBar, State.acquire_memWf, State.onCtx_memWf]

theorem State.barWait_memWf (s : State) (e : Nat) (m : Member) (r : SetRec) (h : s.memWf) :
    (s.barWait e m r).memWf := by
  grind [State.barWait, State.passBar_memWf, State.onMe_memWf]

theorem State.barrier_memWf (s : State) (i : Instr) (a : RegNo) (arrives waits : Bool) (h : s.memWf) :
    (s.barrier i a arrives waits).memWf := by
  unfold State.barrier
  grind [perfWf_done, perfWf_later, State.setInstr_memWf, State.deliver_memWf, State.release_memWf,
    State.arrive_memWf, State.barWait_memWf]

theorem State.timeOut_memWf (s : State) (pa : Nat) (ph : Bool) (n : Word) (h : Nat) (hs : s.memWf) :
    (s.timeOut pa ph n h).memWf := by
  grind [State.timeOut, State.faultWait_memWf]

theorem execBarWatchdog_memWf (s : State) (h : s.memWf) : OutWf (execBarWatchdog s) := by
  generalize hf : @execBarWatchdog = f
  delta execBarWatchdog at hf
  subst hf
  beta_reduce
  obtain ⟨readRec, hr, he⟩ : ∃ f, (∀ s core ctx pa, s.memWf → (f s core ctx pa).1.memWf) ∧ f = State.readRec :=
    ⟨_, State.readRec_memWf, rfl⟩
  rw [← he]
  extract_lets +onlyGivenNames pa q r start
  have hq : q.1.memWf := hr _ _ _ _ h
  clear_value start r q
  cases start with
  | none => exact outWf_next.2 h
  | some t =>
    refine ite_both (outWf_next.2 (foldl_memWf _ (fun s m hs => ?_) _ _ ?_)) (outWf_next.2 h)
    · exact s.timeOut_memWf _ _ _ _ hs
    · exact State.writeRec_memWf _ _ _ _ _ hq

theorem State.coupleAt_memWf (s : State) (i : Instr) (a : RegNo) (again : Bool) (h : s.memWf) :
    (s.coupleAt i a again).memWf := by
  unfold State.coupleAt
  grind [perfWf_done, State.setInstr_memWf, State.deliver_memWf, State.onMe_memWf, State.onAux_memWf,
    State.testGate_memWf]

theorem execRjput_memWf (a b c : RegNo) (s : State) (h : s.memWf) : OutWf (execRjput a b c s) := by
  unfold execRjput
  grind [outWf_next, perfWf_done, perfWf_later, State.setInstr_memWf, State.deliver_memWf, State.release_memWf,
    State.onUnit_memWf]

theorem execRjtake_memWf (d a : RegNo) (p : PredNo) (s : State) (h : s.memWf) : OutWf (execRjtake d a p s) := by
  unfold execRjtake
  grind [outWf_next, perfWf_done, State.setInstr_memWf, State.deliver_memWf, State.result_memWf, State.onUnit_memWf,
    State.acquire_memWf]

/-! ### Memory form: the operations of Machine/Messages.lean -/

theorem State.loadTagged_memWf (s : State) (p : Party) (va n : Nat) (h : s.memWf) :
    ChkWf (s.loadTagged p va n) := by
  induction n generalizing s p va with
  | zero => exact chkWf_ok.2 h
  | succ m ih =>
    unfold State.loadTagged
    grind [chkWf_ok, Chk.andThen_memWf, !State.checkSpan_memWf, State.readWords_memWf]

theorem State.flushHeld_memWf (s : State) (core : Nat) (h : s.memWf) : (s.flushHeld core).memWf :=
  h

theorem execRqput_memWf (a : RegNo) (pri : BitVec 2) (p : PredNo) (s : State) (h : s.memWf) :
    OutWf (execRqput a pri p s) := by
  unfold execRqput
  grind [outWf_next, perfWf_done, noChecks_memWf, State.exposed_memWf, State.result_memWf, State.onCore_memWf]

theorem execRqtake_memWf (d : RegNo) (pri : BitVec 2) (p : PredNo) (s : State) (h : s.memWf) :
    OutWf (execRqtake d pri p s) := by
  unfold execRqtake
  grind [outWf_next, perfWf_done, noChecks_memWf, State.exposed_memWf, State.result_memWf, State.onCore_memWf,
    State.flushHeld_memWf]

theorem State.bindPush_memWf (s : State) (core ctx ring : Nat) (h : s.memWf) : (s.bindPush core ctx ring).memWf := by
  grind [State.bindPush, State.onCtx_memWf, State.flushHeld_memWf]

theorem execMbind_memWf (a : RegNo) (ring pri : BitVec 2) (s : State) (h : s.memWf) :
    OutWf (execMbind a ring pri s) := by
  unfold execMbind
  grind [outWf_next, perfWf_done, noChecks_memWf, State.exposed_memWf, State.onMe_memWf, State.bindPush_memWf]

theorem execSend_memWf (d a : RegNo) (n1 : BitVec 3) (pri : BitVec 2) (s : State) (h : s.memWf) :
    OutWf (execSend d a n1 pri s) := by
  unfold execSend
  grind [outWf_next, chkWf_fault, perfWf_done, perfWf_later, State.exposed_memWf, !State.escapeAll_memWf,
    State.onCore_memWf]

theorem State.takeMsg_memWf (s : State) (core ctx ring d a : Nat) (ws : List RegWrite) (h : s.memWf) :
    PerfWf (s.takeMsg core ctx ring d a ws) := by
  grind [State.takeMsg, chkWf_ok, chkWf_fault, perfWf_done, perfWf_later, !State.loadTagged_memWf, State.onCtx_memWf]

theorem execRecv_memWf (d a : RegNo) (ring : BitVec 2) (s : State) (h : s.memWf) : OutWf (execRecv d a ring s) := by
  unfold execRecv
  grind [outWf_next, perfWf_done, noChecks_memWf, State.exposed_memWf, State.onMe_memWf, !State.takeMsg_memWf]

theorem execRecvNb_memWf (d a : RegNo) (ring : BitVec 2) (p : PredNo) (s : State) (h : s.memWf) :
    OutWf (execRecvNb d a ring p s) := by
  unfold execRecvNb
  grind [outWf_next, perfWf_done, noChecks_memWf, State.exposed_memWf, State.result_memWf, !State.takeMsg_memWf]

theorem State.refuseMsg_memWf (s : State) (m : Msg) (h : s.memWf) : (s.refuseMsg m).memWf :=
  h

theorem State.dropMsg_memWf (s : State) (m : Msg) (h : s.memWf) : (s.dropMsg m).memWf :=
  h

theorem State.deadMsg_memWf (s : State) (m : Msg) (h : s.memWf) : (s.deadMsg m).memWf := by
  grind [State.deadMsg, State.postEvq_memWf, State.dropMsg_memWf]

theorem State.agentWrites_memWf (s : State) (l : List Nat) (l2 : List Tagged) (h : s.memWf) :
    (s.agentWrites l l2).memWf := by
  induction l generalizing s l2 with
  | nil => exact h
  | cons x xs ih =>
    unfold State.agentWrites
    grind [State.agentWrite_memWf]

theorem State.holdMsg_memWf (s : State) (m : Msg) (k : MemKind) (va where_ : Nat) (h : s.memWf) :
    (s.holdMsg m k va where_).memWf :=
  h

theorem execSendInject_memWf (s : State) (h : s.memWf) : OutWf (execSendInject s) := by
  grind [execSendInject, outWf_next, State.memWf_mk, State.wf_bytes]

theorem State.writeRing_memWf (s : State) (core ctx : Nat) (m : Msg) (h : s.memWf) :
    (s.writeRing core ctx m).memWf := by
  grind [State.writeRing, State.refuseMsg_memWf, State.holdMsg_memWf, State.agentWrites_memWf, State.onCtx_memWf,
    State.bindPush_memWf, State.dropMsg_memWf]

theorem execMessageArrival_memWf (s : State) (h : s.memWf) : OutWf (execMessageArrival s) := by
  grind [execMessageArrival, outWf_next, State.deadMsg_memWf, State.writeRing_memWf]

theorem execSavedRingDelivery_memWf (s : State) (h : s.memWf) : OutWf (execSavedRingDelivery s) := by
  grind [execSavedRingDelivery, outWf_next, State.deadMsg_memWf, State.refuseMsg_memWf, State.holdMsg_memWf,
    State.agentWrites_memWf, State.putSlotWord_memWf, State.dropMsg_memWf]

theorem State.takeEvent_memWf (s : State) (core ctx d : Nat) (ws : List RegWrite) (h : Nat) (hs : s.memWf) :
    OptWf (s.takeEvent core ctx d ws h) := by
  grind [State.takeEvent, optWf_some, optWf_none, State.onHerd_memWf, State.onCtx_memWf]

theorem execWaitev_memWf (d : RegNo) (s : State) (h : s.memWf) : OutWf (execWaitev d s) := by
  unfold execWaitev
  grind [outWf_next, optWf_some, perfWf_done, bind_memWf, chkWf_ok, chkWf_fault, State.exposed_memWf,
    !State.takeEvent_memWf, State.onMe_memWf]

theorem execWaitevNb_memWf (d : RegNo) (p : PredNo) (s : State) (h : s.memWf) : OutWf (execWaitevNb d p s) := by
  unfold execWaitevNb
  grind [outWf_next, optWf_some, perfWf_done, noChecks_memWf, bind_memWf, State.exposed_memWf, !State.takeEvent_memWf,
    State.result_memWf]

theorem State.takePayload_memWf (s : State) (core ctx : Nat) (h : s.memWf) : OptWf (s.takePayload core ctx) := by
  grind [State.takePayload, optWf_some, optWf_none, State.onHerd_memWf, State.onCtx_memWf]

theorem State.wakeSleep_memWf (s : State) (core ctx mask : Nat) (h : s.memWf) :
    OptWf (s.wakeSleep core ctx mask) := by
  grind [State.wakeSleep, optWf_some, optWf_none, State.onCtx_memWf, !State.takePayload_memWf]

theorem execSleep_memWf (mask : BitVec 4) (s : State) (h : s.memWf) : OutWf (execSleep mask s) := by
  unfold execSleep
  grind [outWf_next, optWf_some, perfWf_done, chkWf_ok, chkWf_fault, State.exposed_memWf, !State.wakeSleep_memWf,
    State.onMe_memWf]

/-! ### Memory form: the operations of Machine/Agents.lean -/

theorem State.withOwned_memWf (s : State) (o : List (Nat × Nat × Nat × Nat)) (h : s.memWf) :
    (s.withOwned o).memWf :=
  h

theorem State.agentSpan_memWf (s : State) (p : Party) (need : Need) (origin : Origin) (cmd : Nat) (x : Nat × Nat)
    (h : s.memWf) :
    ChkWf (s.agentSpan p need origin cmd x) := by
  grind [State.agentSpan, chkWf_ok, chkWf_fault, !State.checkSpan_memWf, State.withOwned_memWf]

theorem State.agentPieces_memWf (s : State) (p : Party) (need : Need) (origin : Origin) (cmd : Nat)
    (l : List (Nat × Nat)) (h : s.memWf) :
    ChkWf (s.agentPieces p need origin cmd l) := by
  induction l generalizing s p need origin cmd with
  | nil => exact chkWf_ok.2 h
  | cons x xs ih =>
    unfold State.agentPieces
    grind [chkWf_ok, Chk.andThen_memWf, !State.agentSpan_memWf]

theorem State.agentCheck_memWf (s : State) (p : Party) (need : Need) (origin : Origin) (cmd va n : Nat)
    (h : s.memWf) :
    ChkWf (s.agentCheck p need origin cmd va n) := by
  grind [State.agentCheck, !State.agentPieces_memWf]

theorem State.agentPut_memWf (s : State) (x : WordWrite) (h : s.memWf) : (s.agentPut x).memWf := by
  generalize hf : @State.agentPut = f
  delta State.agentPut at hf
  subst hf
  beta_reduce
  generalize State.region = region
  grind [State.follow_memWf, State.homeStore_memWf]

theorem State.agentBytes_memWf (s : State) (l : List (Nat × Nat)) (l2 : List Byte) (h : s.memWf) :
    (s.agentBytes l l2).memWf := by
  induction l generalizing s l2 with
  | nil => exact h
  | cons x xs ih =>
    unfold State.agentBytes
    grind [foldl_memWf, State.agentPut_memWf]

theorem State.recall_memWf (s : State) (w : Nat) (h : s.memWf) : (s.recall w).memWf := by
  grind [State.recall, foldl_memWf, State.pushWord_memWf, State.passSlice_memWf, State.evictSlice_memWf]

theorem State.enginePut_memWf (s : State) (x : WordWrite) (h : s.memWf) : (s.enginePut x).memWf := by
  generalize hf : @State.enginePut = f
  delta State.enginePut at hf
  subst hf
  beta_reduce
  generalize State.region = region
  grind [State.agentPut_memWf, State.homeWrite_memWf, State.recall_memWf]

theorem State.engineBytes_memWf (s : State) (l : List (Nat × Nat)) (l2 : List Byte) (h : s.memWf) :
    (s.engineBytes l l2).memWf := by
  induction l generalizing s l2 with
  | nil => exact h
  | cons x xs ih =>
    unfold State.engineBytes
    grind [foldl_memWf, State.enginePut_memWf]

/-! ### Memory form: the operations of Machine/Graph.lean -/

theorem State.onLaunch_memWf (s : State) (l : Nat) (f : Launch → Launch) (h : s.memWf) : (s.onLaunch l f).memWf := by
  grind [State.onLaunch, State.memWf_mk, State.wf_bytes]

theorem State.graphFlags_memWf (s : State) (n f : Nat) (h : s.memWf) : (s.graphFlags n f).memWf := by
  grind [State.graphFlags, State.onLaunch_memWf]

theorem State.addPoison_memWf (s : State) (n k : Nat) (h : s.memWf) : (s.addPoison n k).memWf := by
  grind [State.addPoison, State.onLaunch_memWf]

theorem State.addSunk_memWf (s : State) (n : Nat) (h : s.memWf) : (s.addSunk n).memWf := by
  grind [State.addSunk, State.onLaunch_memWf]

theorem State.graphFault_memWf (s : State) (n cause sev : Nat) (tval tval2 iter : Word) (h : s.memWf) :
    (s.graphFault n cause sev tval tval2 iter).memWf :=
  h

theorem State.onPlaced_memWf (s : State) (l : Nat) (f : Placed → Placed) (h : s.memWf) : (s.onPlaced l f).memWf := by
  grind [State.onPlaced, State.memWf_mk, State.wf_bytes]

theorem State.stopSites_memWf (s : State) (l : Nat) (h : s.memWf) : (s.stopSites l).memWf := by
  grind [State.stopSites, foldl_memWf, State.onPlaced_memWf, State.onSite_memWf]

theorem State.loadFault_memWf (s : State) (n cause : Nat) (tval tval2 : Word) (h : s.memWf) :
    (s.loadFault n cause tval tval2).memWf := by
  grind [State.loadFault, State.postFault_memWf, State.stopSites_memWf]

theorem State.argWord_memWf (s : State) (l k : Nat) (h : s.memWf) : ChkWf (s.argWord l k) := by
  grind [State.argWord, chkWf_ok, Chk.andThen_memWf, !State.agentCheck_memWf]

theorem State.arrivePort_memWf (s : State) (m p : Nat) (t : Token) (h : s.memWf) : OptWf (s.arrivePort m p t) := by
  grind [State.arrivePort, optWf_some, optWf_none, State.onSite_memWf]

theorem State.sendData_memWf (s : State) (n o : Nat) (t : Token) (h : s.memWf) : OptWf (s.sendData n o t) := by
  grind [State.sendData, optWf_some, optWf_none, State.memWf_mk, State.wf_bytes, !State.arrivePort_memWf]

theorem State.arriveCtl_memWf (s : State) (m p : Nat) (v : Bool) (h : s.memWf) : OptWf (s.arriveCtl m p v) := by
  grind [State.arriveCtl, optWf_some, optWf_none, State.onSite_memWf]

theorem State.sendCtl_memWf (s : State) (n o : Nat) (v : Bool) (h : s.memWf) : OptWf (s.sendCtl n o v) := by
  grind [State.sendCtl, optWf_some, optWf_none, State.memWf_mk, State.wf_bytes, !State.arriveCtl_memWf]

theorem State.give_memWf (s : State) (n c : Nat) (t : Token) (h : s.memWf) : OptWf (s.give n c t) := by
  unfold State.give
  grind [optWf_some, optWf_none, State.onSite_memWf, !State.sendData_memWf]

theorem State.enqueue_memWf (s : State) (n p : Nat) (t : Token) (h : s.memWf) : OptWf (s.enqueue n p t) := by
  grind [State.enqueue, optWf_some, optWf_none, State.onSite_memWf]

theorem State.flowPort_memWf (s : State) (n p : Nat) (h : s.memWf) : (s.flowPort n p).memWf := by
  grind [State.flowPort, optWf_some, foldl_memWf, !State.enqueue_memWf, !State.give_memWf, State.onSite_memWf]

theorem State.giveAll_memWf (s : State) (n : Nat) (t : Token) (l : List Nat) (h : s.memWf) :
    (s.giveAll n t l).1.memWf := by
  induction l generalizing s n t with
  | nil => exact h
  | cons x xs ih =>
    unfold State.giveAll
    grind [optWf_some, !State.give_memWf]

theorem State.flowOut_memWf (s : State) (n : Nat) (h : s.memWf) : (s.flowOut n).memWf := by
  grind [State.flowOut, State.giveAll_memWf, State.onSite_memWf]

theorem State.flowCtl_memWf (s : State) (n : Nat) (h : s.memWf) : (s.flowCtl n).memWf := by
  unfold State.flowCtl
  extract_lets t
  have ht : t.memWf := foldl_memWf _ (fun s e hs => foldl_memWf _ (fun s c hs => by
    grind [State.onSite_memWf, !State.sendCtl_memWf, optWf_some]) _ _ hs) _ _ h
  split
  · exact ht
  · refine State.onSite_memWf _ _ _ (foldl_fst_memWf _ (fun r o hr => ?_) _ _ ht)
    grind [!State.sendCtl_memWf, optWf_some]

theorem State.readArgs_memWf (s : State) (n : Nat) (l : List Nat) (h : s.memWf) : (s.readArgs n l).memWf := by
  induction l generalizing s n with
  | nil => exact h
  | cons x xs ih =>
    unfold State.readArgs
    grind [chkWf_ok, chkWf_fault, !State.argWord_memWf, State.onSite_memWf, State.graphFault_memWf]

theorem State.activate_memWf (s : State) (n slot : Nat) (h : s.memWf) : (s.activate n slot).memWf := by
  grind [State.activate, State.onSite_memWf, State.readArgs_memWf]

theorem State.endRound_memWf (s : State) (n : Nat) (h : s.memWf) : (s.endRound n).memWf := by
  grind [State.endRound, State.activate_memWf, State.onSite_memWf]

theorem State.closeRound_memWf (s : State) (n : Nat) (h : s.memWf) : (s.closeRound n).memWf := by
  grind [State.closeRound, State.endRound_memWf]

theorem State.flowSite_memWf (s : State) (n : Nat) (h : s.memWf) : (s.flowSite n).memWf := by
  grind [State.flowSite, foldl_memWf, State.flowPort_memWf, State.closeRound_memWf, State.flowCtl_memWf,
    State.flowOut_memWf]

theorem State.flowAll_memWf (s : State) (h : s.memWf) : (s.flowAll).memWf := by
  unfold State.flowAll
  grind [foldl_memWf, iter_memWf, State.flowSite_memWf]

/-! ### Memory form: the operations of Machine/Vector.lean -/

theorem State.vecDone_memWf (s : State) (ws : List RegWrite) (fl : List (Nat × Nat)) (h : s.memWf) :
    (s.vecDone ws fl).memWf :=
  h

theorem State.vEach_memWf (s : State) (w : Nat) (vd : BitVec 4) (k : BitVec 2) (f : Nat → FRes) (h : s.memWf) :
    OutWf (s.vEach w vd k f) :=
  outWf_next.2 h

theorem State.vInt_memWf (s : State) (t : VType) (vd va vb : BitVec 4) (k : BitVec 2) (g : Nat → Nat → Nat → Nat)
    (h : s.memWf) :
    OutWf (s.vInt t vd va vb k g) :=
  outWf_next.2 h

theorem State.vArith_memWf (s : State) (t : VType) (vd va vb : BitVec 4) (k : BitVec 2)
    (g : Nat → Nat → Nat → Nat) (f : Fmt → FEnv → FVal → FVal → FRes) (h : s.memWf) :
    OutWf (s.vArith t vd va vb k g f) := by
  grind [State.vArith, State.vInt_memWf, State.vEach_memWf]

theorem State.vFlt_memWf (s : State) (t : VType) (vd va : BitVec 4) (k : BitVec 2) (f : Fmt → FEnv → FVal → FRes)
    (h : s.memWf) :
    OutWf (s.vFlt t vd va k f) := by
  grind [State.vFlt, State.vArith_memWf]

theorem execVsub_memWf (t : VType) (vd va vb : BitVec 4) (k : BitVec 2) (s : State) (h : s.memWf) :
    OutWf (execVsub t vd va vb k s) := by
  grind [execVsub, State.vArith_memWf]

theorem execVmin_memWf (t : VType) (vd va vb : BitVec 4) (k : BitVec 2) (s : State) (h : s.memWf) :
    OutWf (execVmin t vd va vb k s) := by
  grind [execVmin, State.vArith_memWf]

theorem execVmax_memWf (t : VType) (vd va vb : BitVec 4) (k : BitVec 2) (s : State) (h : s.memWf) :
    OutWf (execVmax t vd va vb k s) := by
  grind [execVmax, State.vArith_memWf]

theorem State.vSign_memWf (s : State) (t : VType) (vd va : BitVec 4) (k : BitVec 2) (g : Nat → Nat → Nat)
    (f : Fmt → Nat → Nat) (h : s.memWf) :
    OutWf (s.vSign t vd va k g f) :=
  outWf_next.2 h

theorem State.vDot_memWf (s : State) (t : VType) (vd va vb : BitVec 4) (k : BitVec 2) (h : s.memWf) :
    OutWf (s.vDot t vd va vb k) :=
  outWf_next.2 h

theorem execVfma_memWf (f : VFmaOp) (t : VType) (vd va vb : BitVec 4) (k : BitVec 2) (s : State) (h : s.memWf) :
    OutWf (execVfma f t vd va vb k s) := by
  unfold execVfma
  grind [State.vEach_memWf, State.vDot_memWf]

theorem execVcvt_memWf (dst src : VFmt) (vd va part : BitVec 4) (k : BitVec 2) (s : State) (h : s.memWf) :
    OutWf (execVcvt dst src vd va part k s) := by
  grind [execVcvt, State.vEach_memWf]

theorem execVqnt_memWf (f : BxFmt) (t : VType) (vd va vb : BitVec 4) (s : State) (h : s.memWf) :
    OutWf (execVqnt f t vd va vb s) :=
  outWf_next.2 h

theorem execVdq_memWf (f : BxFmt) (t : VType) (part : Bool) (vd va : BitVec 4) (k : BitVec 2) (s : State)
    (h : s.memWf) :
    OutWf (execVdq f t part vd va k s) := by
  grind [execVdq, State.vEach_memWf]

theorem execVred_memWf (f : VRedOp) (t : VType) (vd va : BitVec 4) (k : BitVec 2) (s : State) (h : s.memWf) :
    OutWf (execVred f t vd va k s) :=
  outWf_next.2 h

theorem execVshuf_memWf (kind : VShufKind) (sh : BitVec 4) (t : VType) (vd va vb : BitVec 4) (k : BitVec 2)
    (s : State) (h : s.memWf) :
    OutWf (execVshuf kind sh t vd va vb k s) := by
  unfold execVshuf
  grind [State.vEach_memWf]

theorem State.vMask_memWf (s : State) (kd : BitVec 2) (x : BitVec 16) (h : s.memWf) : OutWf (s.vMask kd x) :=
  outWf_next.2 h

theorem State.vMaskG_memWf (s : State) (d : RegNo) (x : Nat) (h : s.memWf) : OutWf (s.vMaskG d x) :=
  outWf_next.2 h

theorem State.laneCheck_memWf (s : State) (base : Tagged) (va : Word) (store : Bool) (h : s.memWf) :
    ChkWf (s.laneCheck base va store) := by
  grind [State.laneCheck, Chk.atAddr_memWf, !State.checkAccess_memWf]

theorem State.checkLanes_memWf (s : State) (base : Tagged) (l : List (Nat × Word)) (h : s.memWf) :
    ChkWf (s.checkLanes base l) := by
  induction l generalizing s base with
  | nil => exact chkWf_ok.2 h
  | cons x xs ih =>
    unfold State.checkLanes
    grind [chkWf_ok, Chk.andThen_memWf, !State.laneCheck_memWf]

theorem State.readLanes_memWf (s : State) (l : List (Nat × Access)) (h : s.memWf) : (s.readLanes l).1.memWf := by
  induction l generalizing s with
  | nil => exact h
  | cons x xs ih =>
    unfold State.readLanes
    grind [State.loadSpan_memWf]

theorem State.vecLoad_memWf (s : State) (base : Tagged) (z whole : Bool) (vd : BitVec 4)
    (lanes : List (Nat × Word)) (h : s.memWf) :
    (s.vecLoad base z whole vd lanes).memWf := by
  grind [State.vecLoad, State.checked_memWf, !State.checkLanes_memWf, State.readLanes_memWf, State.long_memWf]

theorem State.storeLanes_memWf (s : State) (base : Tagged) (data : Vec) (l : List (Nat × Word)) (h : s.memWf) :
    ChkWf (s.storeLanes base data l) := by
  induction l generalizing s base data with
  | nil => exact chkWf_ok.2 h
  | cons x xs ih =>
    unfold State.storeLanes
    grind [chkWf_ok, chkWf_fault, Chk.andThen_memWf, !State.laneCheck_memWf, State.detectAll_memWf]

theorem State.vecStore_memWf (s : State) (base : Tagged) (vd : BitVec 4) (lanes : List (Nat × Word)) (one : Bool)
    (h : s.memWf) :
    (s.vecStore base vd lanes one).memWf := by
  grind [State.vecStore, State.checked_memWf, !State.storeLanes_memWf, State.trapInstr_memWf, State.onMe_memWf]

theorem State.vecAligned_memWf (s : State) (base : Tagged) (ea : Word) (o : Origin) (k : State) (h : s.memWf)
    (hk : k.memWf) :
    (s.vecAligned base ea o k).memWf := by
  grind [State.vecAligned, State.trapMe_memWf]

theorem execVld_memWf (z : Bool) (vd : BitVec 4) (k : BitVec 2) (a : RegNo) (off : BitVec 9) (s : State)
    (h : s.memWf) :
    OutWf (execVld z vd k a off s) := by
  grind [execVld, outWf_next, State.vecAligned_memWf, State.vecLoad_memWf]

theorem execVst_memWf (vd : BitVec 4) (k : BitVec 2) (a : RegNo) (off : BitVec 9) (s : State) (h : s.memWf) :
    OutWf (execVst vd k a off s) := by
  grind [execVst, outWf_next, State.vecAligned_memWf, State.vecStore_memWf]

theorem execVlds_memWf (z : Bool) (vd : BitVec 4) (k : BitVec 2) (a b : RegNo) (s : State) (h : s.memWf) :
    OutWf (execVlds z vd k a b s) := by
  grind [execVlds, outWf_next, State.vecLoad_memWf]

theorem execVgth_memWf (z : Bool) (vd : BitVec 4) (k : BitVec 2) (a : RegNo) (vb : BitVec 4) (sh : BitVec 3)
    (s : State) (h : s.memWf) :
    OutWf (execVgth z vd k a vb sh s) := by
  grind [execVgth, outWf_next, State.vecLoad_memWf]

theorem execVsct_memWf (vd : BitVec 4) (k : BitVec 2) (a : RegNo) (vb : BitVec 4) (sh : BitVec 3) (s : State)
    (h : s.memWf) :
    OutWf (execVsct vd k a vb sh s) := by
  grind [execVsct, outWf_next, State.vecStore_memWf]

/-! ### Memory form: the operations of Machine/Elements.lean -/

theorem State.takeReads_memWf (s : State) (n : Nat) (l : List Nat) (k : Nat) (h : s.memWf) :
    (s.takeReads n l k).memWf := by
  induction l generalizing s n k with
  | nil => exact h
  | cons x xs ih =>
    unfold State.takeReads
    grind [State.graphFault_memWf, State.onSite_memWf]

theorem State.noteFire_memWf (s : State) (n : Nat) (h : s.memWf) : (s.noteFire n).memWf := by
  grind [State.noteFire, State.memWf_mk, State.wf_bytes]

theorem State.firing_memWf (s : State) (room : Site → Bool) (sparse : Bool) (k : State → Nat → List Token → State)
    (h : s.memWf) (hk : ∀ s u' v', s.memWf → (k s u' v').memWf) :
    OutWf (s.firing room sparse k) := by
  grind [State.firing, outWf_next, State.takeReads_memWf, State.graphFault_memWf, State.noteFire_memWf,
    State.onSite_memWf]

theorem State.emit_memWf (s : State) (n : Nat) (ts : List Token) (h : s.memWf) : (s.emit n ts).memWf :=
  h

theorem State.value_memWf (s : State) (n : Nat) (ts : List Token) (outs : Nat) (ctl : Bool) (k : State)
    (h : s.memWf) (hk : k.memWf) :
    (s.value n ts outs ctl k).memWf := by
  grind [State.value, State.emit_memWf, State.onSite_memWf]

theorem State.lanes_memWf (s : State) (r : Nat) (isInt ctl : Bool) (g : Lane → FEnv → List Nat → FRes)
    (h : s.memWf) :
    OutWf (s.lanes r isInt ctl g) := by
  grind [State.lanes, State.firing_memWf, State.value_memWf, State.emit_memWf, State.graphFlags_memWf,
    State.onSite_memWf]

theorem execFeFma_memWf (s : State) (h : s.memWf) : OutWf (execFeFma s) := by
  grind [execFeFma, State.lanes_memWf]

theorem execFeFms_memWf (s : State) (h : s.memWf) : OutWf (execFeFms s) := by
  grind [execFeFms, State.lanes_memWf]

theorem State.lanesSparse_memWf (s : State) (isInt : Bool) (g : Lane → FEnv → Nat → FRes) (h : s.memWf) :
    OutWf (s.lanesSparse isInt g) := by
  grind [State.lanesSparse, State.firing_memWf, State.value_memWf, State.emit_memWf, State.graphFlags_memWf]

theorem execFeAbs_memWf (s : State) (h : s.memWf) : OutWf (execFeAbs s) := by
  grind [execFeAbs, State.lanesSparse_memWf]

theorem execFeNeg_memWf (s : State) (h : s.memWf) : OutWf (execFeNeg s) := by
  grind [execFeNeg, State.lanesSparse_memWf]

theorem execFeSel_memWf (s : State) (h : s.memWf) : OutWf (execFeSel s) := by
  grind [execFeSel, State.lanes_memWf]

theorem execFeCvt_memWf (s : State) (h : s.memWf) : OutWf (execFeCvt s) := by
  grind [execFeCvt, State.firing_memWf, State.value_memWf, State.emit_memWf, State.graphFlags_memWf,
    State.graphFault_memWf]

theorem execFeSround_memWf (s : State) (h : s.memWf) : OutWf (execFeSround s) := by
  grind [execFeSround, State.firing_memWf, State.value_memWf, State.emit_memWf, State.graphFlags_memWf]

theorem execFeQmax_memWf (s : State) (h : s.memWf) : OutWf (execFeQmax s) := by
  grind [execFeQmax, State.firing_memWf, State.value_memWf, State.emit_memWf]

theorem execFeQcvt_memWf (s : State) (h : s.memWf) : OutWf (execFeQcvt s) := by
  grind [execFeQcvt, State.firing_memWf, State.graphFault_memWf, State.value_memWf, State.emit_memWf,
    State.graphFlags_memWf]

theorem execFeDq_memWf (s : State) (h : s.memWf) : OutWf (execFeDq s) := by
  grind [execFeDq, State.firing_memWf, State.value_memWf, State.emit_memWf, State.graphFlags_memWf]

theorem State.segmentTok_memWf (s : State) (n : Nat) (r : RedOp) (fold last : Bool) (h : s.memWf) :
    (s.segmentTok n r fold last).1.memWf := by
  grind [State.segmentTok, State.graphFlags_memWf]

theorem State.accumulate_memWf (s : State) (n : Nat) (r : RedOp) (t : Token) (h : s.memWf) :
    (s.accumulate n r t).memWf := by
  grind [State.accumulate, State.onSite_memWf, State.graphFlags_memWf]

theorem State.clearSegment_memWf (s : State) (n : Nat) (h : s.memWf) : (s.clearSegment n).memWf :=
  h

theorem State.reduce_memWf (s : State) (r : RedOp) (always : Bool) (h : s.memWf) : OutWf (s.reduce r always) := by
  grind [State.reduce, State.firing_memWf, State.accumulate_memWf, State.segmentTok_memWf, State.emit_memWf,
    State.clearSegment_memWf]

theorem execFeScan_memWf (s : State) (h : s.memWf) : OutWf (execFeScan s) := by
  grind [execFeScan, State.firing_memWf, State.value_memWf, State.emit_memWf, State.graphFlags_memWf]

theorem execFeBcast_memWf (s : State) (h : s.memWf) : OutWf (execFeBcast s) := by
  grind [execFeBcast, State.firing_memWf, State.value_memWf, State.emit_memWf]

theorem execFeShuf_memWf (s : State) (h : s.memWf) : OutWf (execFeShuf s) := by
  grind [execFeShuf, State.firing_memWf, State.value_memWf, State.emit_memWf]

theorem execFePack_memWf (s : State) (h : s.memWf) : OutWf (execFePack s) := by
  grind [execFePack, State.firing_memWf, State.value_memWf, State.emit_memWf]

theorem execFeUnpack_memWf (s : State) (h : s.memWf) : OutWf (execFeUnpack s) := by
  grind [execFeUnpack, State.firing_memWf, State.value_memWf, State.emit_memWf]

theorem execFeDelay_memWf (s : State) (h : s.memWf) : OutWf (execFeDelay s) := by
  grind [execFeDelay, State.firing_memWf, State.emit_memWf]

theorem execFeCturn_memWf (s : State) (h : s.memWf) : OutWf (execFeCturn s) := by
  grind [execFeCturn, outWf_next, State.firing_memWf, State.onSite_memWf, State.value_memWf, State.emit_memWf]

theorem execFeRepl_memWf (s : State) (h : s.memWf) : OutWf (execFeRepl s) := by
  grind [execFeRepl, State.firing_memWf, State.emit_memWf]

theorem execFeZip_memWf (s : State) (h : s.memWf) : OutWf (execFeZip s) := by
  grind [execFeZip, State.firing_memWf, State.value_memWf, State.emit_memWf]

theorem execFeSplit_memWf (s : State) (h : s.memWf) : OutWf (execFeSplit s) := by
  grind [execFeSplit, State.firing_memWf, State.onSite_memWf, State.emit_memWf]

theorem State.source_memWf (s : State) (g : State → PlaneSlot → Nat → Nat → State × Option Nat) (h : s.memWf)
    (hg : ∀ s u' v' w', s.memWf → (g s u' v' w').1.memWf) :
    OutWf (s.source g) := by
  grind [State.source, outWf_next, State.onSite_memWf, State.emit_memWf, State.noteFire_memWf]

theorem execFeIota_memWf (s : State) (h : s.memWf) : OutWf (execFeIota s) := by
  grind [execFeIota, State.source_memWf]

theorem execFeConst_memWf (s : State) (h : s.memWf) : OutWf (execFeConst s) := by
  grind [execFeConst, State.source_memWf]

theorem execFeSrc_memWf (s : State) (h : s.memWf) : OutWf (execFeSrc s) := by
  grind [execFeSrc, State.source_memWf, State.readArgs_memWf]

theorem execFeHash_memWf (s : State) (h : s.memWf) : OutWf (execFeHash s) := by
  grind [execFeHash, State.firing_memWf, State.value_memWf, State.emit_memWf]

theorem State.poisonSink_memWf (s : State) (n : Nat) (t : Token) (h : s.memWf) : (s.poisonSink n t).memWf := by
  grind [State.poisonSink, State.addPoison_memWf, State.graphFault_memWf]

theorem execFeSink_memWf (s : State) (h : s.memWf) : OutWf (execFeSink s) := by
  grind [execFeSink, foldl_memWf, State.firing_memWf, State.poisonSink_memWf, State.addSunk_memWf]

/-! ### Memory form: the operations of Machine/System.lean -/

theorem State.spawnOk_memWf (s : State) (x : Tagged) (h : s.memWf) : ChkWf (s.spawnOk x) := by
  grind [State.spawnOk, chkWf_ok, chkWf_fault, Chk.andThen_memWf, !State.checkAccess_memWf, State.readWords_memWf,
    State.onMe_memWf, !State.loadTagged_memWf, !State.escapeAll_memWf]

theorem execSpawn_memWf (d a : RegNo) (p : PredNo) (s : State) (h : s.memWf) : OutWf (execSpawn d a p s) := by
  unfold execSpawn
  grind [outWf_next, State.memWf_mk, State.wf_bytes, perfWf_done, perfWf_later, State.exposed_memWf,
    !State.spawnOk_memWf, State.release_memWf, State.onMe_memWf, State.result_memWf]

theorem State.sendReply_memWf (s : State) (c : Context) (site ticket : Nat) (words : List Word) (cause : Nat)
    (h : s.memWf) :
    (s.sendReply c site ticket words cause).memWf :=
  h

theorem execReply_memWf (d : RegNo) (n1 : BitVec 3) (s : State) (h : s.memWf) : OutWf (execReply d n1 s) := by
  unfold execReply
  grind [outWf_next, chkWf_fault, perfWf_done, perfWf_later, State.exposed_memWf, !State.noEscape_memWf,
    State.release_memWf, State.sendReply_memWf, State.onMe_memWf]

theorem State.leaveAll_memWf (s : State) (core ctx : Nat) (h : s.memWf) : (s.leaveAll core ctx).memWf := by
  unfold State.leaveAll
  have hread := @State.readRec_memWf
  generalize @State.readRec = read at hread ⊢
  grind [foldl_memWf, State.postFault_memWf, State.leaveSet_memWf]

theorem State.freeThread_memWf (s : State) (core ctx : Nat) (h : s.memWf) : (s.freeThread core ctx).memWf :=
  h

theorem State.tryRetire_memWf (s : State) (core ctx : Nat) (h : s.memWf) : OptWf (s.tryRetire core ctx) := by
  grind [State.tryRetire, optWf_some, optWf_none, State.release_memWf, State.freeThread_memWf]

theorem State.retire_memWf (s : State) (core ctx cause : Nat) (h : s.memWf) : (s.retire core ctx cause).memWf := by
  unfold State.retire
  grind [getD_memWf, State.leaveAll_memWf, State.sendReply_memWf, State.onCtx_memWf, !State.tryRetire_memWf]

theorem execExit_memWf (s : State) (h : s.memWf) : OutWf (execExit s) := by
  unfold execExit
  grind [outWf_next, perfWf_done, noChecks_memWf, State.exposed_memWf, State.retire_memWf]

theorem execSrd_memWf (d : RegNo) (num : BitVec 10) (s : State) (h : s.memWf) : OutWf (execSrd d num s) := by
  grind [execSrd, outWf_next, State.trapInstr_memWf, State.shortG_memWf]

theorem State.swrOk_memWf (s : State) (n : Nat) (v : Word) (h : s.memWf) : ChkWf (s.swrOk n v) := by
  grind [State.swrOk, chkWf_ok, chkWf_fault]

theorem execSwr_memWf (num : BitVec 10) (a : RegNo) (s : State) (h : s.memWf) : OutWf (execSwr num a s) := by
  unfold execSwr
  grind [outWf_next, perfWf_done, State.exposed_memWf, !State.swrOk_memWf, State.srWrite_memWf]

theorem execTrap_memWf (code : BitVec 12) (s : State) (h : s.memWf) : OutWf (execTrap code s) := by
  unfold execTrap
  grind [outWf_next, perfWf_done, noChecks_memWf, State.exposed_memWf, State.onMe_memWf, State.takeTrap_memWf]

theorem State.privOk_memWf (s : State) (h : s.memWf) : ChkWf (s.privOk) := by
  grind [State.privOk, chkWf_ok, chkWf_fault]

theorem execEret_memWf (s : State) (h : s.memWf) : OutWf (execEret s) := by
  unfold execEret
  grind [outWf_next, chkWf_ok, chkWf_fault, Chk.andThen_memWf, perfWf_done, State.exposed_memWf, !State.privOk_memWf,
    State.onMe_memWf]

theorem State.repartTo_memWf (s : State) (core ctx : Nat) (mode : Bool) (h : s.memWf) :
    (s.repartTo core ctx mode).memWf :=
  h

theorem execRepart_memWf (mode : Bool) (s : State) (h : s.memWf) : OutWf (execRepart mode s) := by
  unfold execRepart
  grind [outWf_next, chkWf_ok, chkWf_fault, Chk.andThen_memWf, perfWf_done, State.exposed_memWf, !State.privOk_memWf,
    State.repartTo_memWf]

theorem State.pushAll_memWf (s : State) (h : s.memWf) : (s.pushAll).memWf := by
  grind [State.pushAll, foldl_memWf, State.release_memWf]

theorem State.tlbInvalidate_memWf (s : State) (i : Instr) (f : TlbEntry → Bool) (g : Nat → Bool) (h : s.memWf) :
    (s.tlbInvalidate i f g).memWf := by
  unfold State.tlbInvalidate
  grind [State.memWf_mk, State.wf_bytes, perfWf_done, perfWf_later, State.exposed_memWf, !State.privOk_memWf,
    State.release_memWf, State.pushAll_memWf]

theorem execTlbinvPage_memWf (a b : RegNo) (s : State) (h : s.memWf) : OutWf (execTlbinvPage a b s) := by
  grind [execTlbinvPage, outWf_next, State.tlbInvalidate_memWf]

theorem execTlbinvAsid_memWf (b : RegNo) (s : State) (h : s.memWf) : OutWf (execTlbinvAsid b s) := by
  grind [execTlbinvAsid, outWf_next, State.tlbInvalidate_memWf]

theorem execRetag_memWf (d a : RegNo) (s : State) (h : s.memWf) : OutWf (execRetag d a s) := by
  unfold execRetag
  grind [outWf_next, chkWf_ok, chkWf_fault, chkWf_wait, Chk.andThen_memWf, perfWf_done, State.exposed_memWf,
    !State.privOk_memWf, !State.readHeader_memWf, State.result_memWf]

/-! ### Memory form: the operations of Machine/Engines.lean -/

theorem State.engineChecks_memWf (s : State) (x : Tagged) (gb : Word) (err : State → List Word → Option Nat)
    (more : State → List Word → Chk Unit) (dest : Dest) (h : s.memWf)
    (hmore : ∀ s u', s.memWf → ChkWf (more s u')) :
    ChkWf (s.engineChecks x gb err more dest) := by
  grind [State.engineChecks, chkWf_ok, chkWf_fault, chkWf_wait, Chk.andThen_memWf, !State.checkAccess_memWf,
    State.readWords_memWf, !State.escapeAll_memWf]

theorem State.tileFault_memWf {α : Type} (s : State) (c : Command) (va : Word) (t : Nat) (h : s.memWf) :
    ChkWf (s.tileFault c va t : Chk α) := by
  grind [State.tileFault, chkWf_fault]

theorem State.engTiles_memWf (c : Command) (need : Need) (va : Nat) (spans : Chk (List (Nat × Nat)))
    (hspans : ChkWf spans) : ChkWf (State.engTiles c need va spans) := by
  unfold State.engTiles
  split
  · extract_lets whole r
    have hr : r.1.memWf := by
      refine foldl_fst_memWf _ (fun r t hr => ?_) _ _ hspans
      exact State.checkTile_memWf _ _ hr
    split
    · exact hr
    · exact State.tileFault_memWf _ _ _ _ hr
  · split
    · exact State.tileFault_memWf _ _ _ _ hspans
    · exact hspans
  · trivial

theorem State.engCheck_memWf (s : State) (c : Command) (need : Need) (va n : Nat) (h : s.memWf) :
    ChkWf (s.engCheck c need va n) := by
  grind [State.engCheck, chkWf_ok, chkWf_fault, !State.engTiles_memWf, !State.agentCheck_memWf, State.withOwned_memWf]

theorem State.engRead_memWf (s : State) (c : Command) (va n : Nat) (h : s.memWf) : ChkWf (s.engRead c va n) := by
  grind [State.engRead, chkWf_ok, Chk.andThen_memWf, !State.engCheck_memWf]

theorem State.engWrite_memWf (s : State) (c : Command) (va : Nat) (bs : List Byte) (h : s.memWf) :
    ChkWf (s.engWrite c va bs) := by
  grind [State.engWrite, chkWf_ok, State.memWf_mk, State.wf_bytes, Chk.andThen_memWf, !State.engCheck_memWf,
    State.engineBytes_memWf]

theorem State.indexAt_memWf (s : State) (c : Command) (i : Nat) (h : s.memWf) : ChkWf (s.indexAt c i) := by
  grind [State.indexAt, chkWf_ok, Chk.andThen_memWf, !State.engRead_memWf]

theorem State.indicesFrom_memWf (s : State) (c : Command) (i n : Nat) (h : s.memWf) :
    ChkWf (s.indicesFrom c i n) := by
  induction n generalizing s c i with
  | zero => exact chkWf_ok.2 h
  | succ m ih =>
    unfold State.indicesFrom
    grind [chkWf_ok, Chk.andThen_memWf, !State.indexAt_memWf]

theorem State.takeOwned_memWf (s : State) (c : Command) (h : s.memWf) : (s.takeOwned c).memWf :=
  h

theorem State.freeOwned_memWf (s : State) (id va n : Nat) (h : s.memWf) : (s.freeOwned id va n).memWf :=
  h

theorem State.changePend_memWf (s : State) (core ctx pa : Nat) (f : Nat → Nat) (h : s.memWf) :
    (s.changePend core ctx pa f).memWf := by
  unfold State.changePend
  have hread := @State.readRec_memWf
  generalize @State.readRec = read at hread ⊢
  grind [State.testRec_memWf, State.writeRec_memWf, State.onUnit_memWf]

theorem State.lowerPend_memWf (s : State) (c : Command) (n : Nat) (h : s.memWf) : (s.lowerPend c n).1.memWf := by
  grind [State.lowerPend, State.changePend_memWf]

theorem State.raisePend_memWf (s : State) (c : Command) (n : Nat) (h : s.memWf) : (s.raisePend c n).1.memWf := by
  grind [State.raisePend, State.changePend_memWf]

theorem State.charge_memWf (s : State) (c : Command) (h : s.memWf) : (s.charge c).1.memWf := by
  grind [State.charge, State.raisePend_memWf, State.takeOwned_memWf]

theorem State.sample_memWf (s : State) (c : Command) (h : s.memWf) : ChkWf (s.sample c) := by
  grind [State.sample, chkWf_ok, Chk.andThen_memWf, !State.engRead_memWf, State.charge_memWf]

theorem State.cpySeg_memWf (s : State) (c : Command) (pos len : Nat) (h : s.memWf) : ChkWf (s.cpySeg c pos len) := by
  grind [State.cpySeg, chkWf_ok, Chk.andThen_memWf, !State.engRead_memWf, !State.engWrite_memWf]

theorem State.rowAt_memWf (s : State) (c : Command) (x : Nat) (h : s.memWf) : ChkWf (s.rowAt c x) := by
  grind [State.rowAt, chkWf_ok, Chk.andThen_memWf, !State.engRead_memWf]

theorem State.gathSeg_memWf (s : State) (c : Command) (pos len : Nat) (h : s.memWf) :
    ChkWf (s.gathSeg c pos len) := by
  grind [State.gathSeg, chkWf_ok, Chk.andThen_memWf, !State.indexAt_memWf, !State.rowAt_memWf, !State.engWrite_memWf,
    !State.engRead_memWf]

theorem State.scatPieces_memWf (s : State) (c : Command) (i x col : Nat) (l : List Byte) (n : Nat) (h : s.memWf) :
    ChkWf (s.scatPieces c i x col l n) := by
  induction n generalizing s c i x col l with
  | zero => exact chkWf_ok.2 h
  | succ m ih =>
    unfold State.scatPieces
    grind [chkWf_ok, Chk.andThen_memWf, !State.engWrite_memWf]

theorem State.scatSeg_memWf (s : State) (c : Command) (pos len : Nat) (h : s.memWf) :
    ChkWf (s.scatSeg c pos len) := by
  grind [State.scatSeg, chkWf_ok, Chk.andThen_memWf, !State.indexAt_memWf, !State.engRead_memWf,
    !State.engCheck_memWf, !State.scatPieces_memWf]

theorem State.addElems_memWf (s : State) (c : Command) (va : Nat) (l : List Nat) (h : s.memWf) :
    ChkWf (s.addElems c va l) := by
  induction l generalizing s c va with
  | nil => exact chkWf_ok.2 h
  | cons x xs ih =>
    unfold State.addElems
    refine Chk.andThen_memWf (s.engCheck_memWf _ _ _ _ h) fun s ps hs => ?_
    extract_lets pa s1 s2
    have hs2 : s2.memWf := s1.flushWord_memWf _ _ (s.pushWord_memWf _ _ hs)
    clear_value s2
    refine ite_both (chkWf_fault.2 hs2) ?_
    extract_lets
    exact ih _ _ _ (s2.engineBytes_memWf _ _ hs2)

theorem State.scatAddSeg_memWf (s : State) (c : Command) (pos len : Nat) (h : s.memWf) :
    ChkWf (s.scatAddSeg c pos len) := by
  grind [State.scatAddSeg, chkWf_ok, chkWf_fault, Chk.andThen_memWf, !State.indexAt_memWf, !State.engRead_memWf,
    !State.engCheck_memWf, !State.addElems_memWf]

theorem State.segment_memWf (s : State) (c : Command) (pos len : Nat) (h : s.memWf) :
    ChkWf (s.segment c pos len) := by
  grind [State.segment, chkWf_ok, Chk.andThen_memWf, !State.cpySeg_memWf, !State.gathSeg_memWf,
    !State.scatAddSeg_memWf, !State.scatSeg_memWf, State.freeOwned_memWf]

theorem State.remoteRows_memWf (s : State) (c : Command) (l : List Nat) (h : s.memWf) :
    ChkWf (s.remoteRows c l) := by
  induction l generalizing s c with
  | nil => exact chkWf_ok.2 h
  | cons x xs ih =>
    unfold State.remoteRows
    grind [chkWf_ok, Chk.andThen_memWf, !State.indexAt_memWf, !State.rowAt_memWf]

theorem State.bucketArea_memWf (s : State) (c : Command) (h : s.memWf) : ChkWf (s.bucketArea c) := by
  grind [State.bucketArea, chkWf_ok, Chk.andThen_memWf, !State.remoteRows_memWf, !State.engWrite_memWf]

theorem State.segments_memWf (s : State) (c : Command) (l : List (Nat × Nat)) (h : s.memWf) :
    ChkWf (s.segments c l) := by
  induction l generalizing s c with
  | nil => exact chkWf_ok.2 h
  | cons x xs ih =>
    unfold State.segments
    grind [Chk.andThen_memWf, !State.segment_memWf]

theorem State.addSegments_memWf (s : State) (c : Command) (l : List (Nat × Nat)) (h : s.memWf) :
    (s.addSegments c l).1.memWf := by
  induction l generalizing s c with
  | nil => exact h
  | cons x xs ih =>
    unfold State.addSegments
    grind [chkWf_ok, !State.segment_memWf]

theorem State.settleBox_memWf (s : State) (c : Command) (k : Nat) (h : s.memWf) : (s.settleBox c k).1.memWf := by
  grind [State.settleBox, State.lowerPend_memWf]

theorem State.putEngine_memWf (s : State) (core : Nat) (c : Command) (h : s.memWf) : (s.putEngine core c).memWf :=
  h

theorem State.box_memWf (s : State) (c : Command) (k : Nat) (h : s.memWf) : ChkWf (s.box c k) := by
  grind [State.box, chkWf_ok, Chk.andThen_memWf, !State.sample_memWf, !State.bucketArea_memWf, !State.segments_memWf]

theorem execBoxLand_memWf (s : State) (h : s.memWf) : OutWf (execBoxLand s) := by
  grind [execBoxLand, outWf_next, chkWf_ok, !State.sample_memWf, State.putEngine_memWf, State.addSegments_memWf,
    State.settleBox_memWf, !State.box_memWf]

theorem State.engineRecord_memWf (s : State) (c : Command) (src cause : Nat) (va : Word) (h : s.memWf) :
    (s.engineRecord c src cause va).1.memWf :=
  h

theorem execEngineSegmentFault_memWf (s : State) (h : s.memWf) : OutWf (execEngineSegmentFault s) := by
  grind [execEngineSegmentFault, outWf_next, chkWf_fault, State.engineRecord_memWf, State.putEngine_memWf,
    !State.sample_memWf, !State.bucketArea_memWf, !State.segment_memWf]

theorem State.replayFix_memWf (s : State) (c : Command) (n : Nat) (h : s.memWf) : (s.replayFix c n).1.memWf := by
  induction n generalizing s c with
  | zero => exact h
  | succ m ih =>
    unfold State.replayFix
    grind [chkWf_ok, chkWf_fault, !State.segment_memWf, State.settleBox_memWf, State.engineRecord_memWf]

theorem execFixupReplay_memWf (s : State) (h : s.memWf) : OutWf (execFixupReplay s) := by
  grind [execFixupReplay, outWf_next, State.replayFix_memWf, State.putEngine_memWf]

theorem State.closeCommand_memWf (s : State) (c : Command) (h : s.memWf) : (s.closeCommand c).memWf := by
  grind [State.closeCommand, State.lowerPend_memWf, State.withOwned_memWf]

theorem State.holdFinish_memWf (s : State) (f : Finish) (h : s.memWf) : (s.holdFinish f).memWf :=
  h

theorem State.finish_memWf (s : State) (f : Finish) (h : s.memWf) : (s.finish f).memWf := by
  grind [State.finish, State.holdFinish_memWf, State.closeCommand_memWf, State.postEvent_memWf]

theorem State.pumpFinish_memWf (s : State) (h : s.memWf) : (s.pumpFinish).memWf := by
  grind [State.pumpFinish, State.memWf_mk, State.wf_bytes, foldl_memWf, State.holdFinish_memWf, State.finish_memWf]

theorem State.completeCommand_memWf (s : State) (unit : Nat) (c : Command) (status landed extra : Nat)
    (h : s.memWf) :
    (s.completeCommand unit c status landed extra).memWf := by
  grind [State.completeCommand, State.finish_memWf, State.postToLaunch_memWf, State.holdFinish_memWf]

theorem State.posted_memWf (s : State) (h unit : Nat) (e : EventRec) (hs : s.memWf) : (s.posted h unit e).memWf := by
  grind [State.posted, State.memWf_mk, State.wf_bytes, State.pumpFinish_memWf]

theorem execEventPost_memWf (s : State) (h : s.memWf) : OutWf (execEventPost s) := by
  grind [execEventPost, outWf_next, State.posted_memWf, State.onHerd_memWf]

theorem State.endXchg_memWf (s : State) (x : Xchg) (status : Nat) (h : s.memWf) : (s.endXchg x status).memWf := by
  grind [State.endXchg, State.memWf_mk, State.wf_bytes, State.completeCommand_memWf]

theorem execEngineComplete_memWf (s : State) (h : s.memWf) : OutWf (execEngineComplete s) := by
  grind [execEngineComplete, outWf_next, State.endXchg_memWf, State.onCore_memWf, State.completeCommand_memWf]

theorem State.putCount_memWf (s : State) (c : Command) (k v : Nat) (h : s.memWf) : ChkWf (s.putCount c k v) := by
  grind [State.putCount, !State.engWrite_memWf]

theorem State.clearCounts_memWf (s : State) (c : Command) (l : List Nat) (h : s.memWf) :
    ChkWf (s.clearCounts c l) := by
  induction l generalizing s c with
  | nil => exact chkWf_ok.2 h
  | cons x xs ih =>
    unfold State.clearCounts
    grind [Chk.andThen_memWf, !State.putCount_memWf]

theorem State.place_memWf (s : State) (x : Xchg) (k count : Nat) (bs : List Byte) (h : s.memWf) :
    ChkWf (s.place x k count bs) := by
  grind [State.place, chkWf_ok, Chk.andThen_memWf, !State.engWrite_memWf, !State.putCount_memWf,
    State.freeOwned_memWf, State.lowerPend_memWf]

theorem State.sendOne_memWf (s : State) (x : Xchg) (k : Nat) (h : s.memWf) : ChkWf (s.sendOne x k) := by
  grind [State.sendOne, chkWf_ok, State.memWf_mk, State.wf_bytes, Chk.andThen_memWf, !State.clearCounts_memWf,
    State.freeOwned_memWf, !State.engRead_memWf, !State.place_memWf]

theorem State.sendAll_memWf (s : State) (x : Xchg) (l : List Nat) (h : s.memWf) : (s.sendAll x l).1.memWf := by
  induction l generalizing s x with
  | nil => exact h
  | cons x xs ih =>
    unfold State.sendAll
    grind [chkWf_ok, chkWf_fault, !State.sendOne_memWf, State.engineRecord_memWf]

theorem State.putXchg_memWf (s : State) (y : Xchg) (h : s.memWf) : (s.putXchg y).memWf :=
  h

theorem State.pumpXchgs_memWf (s : State) (h : s.memWf) : (s.pumpXchgs).memWf := by
  grind [State.pumpXchgs, foldl_memWf, State.sendAll_memWf, State.putXchg_memWf]

theorem State.acceptXchg_memWf (s : State) (c : Command) (h : s.memWf) : (s.acceptXchg c).memWf := by
  grind [State.acceptXchg, State.memWf_mk, State.wf_bytes, State.pumpXchgs_memWf]

theorem execXchgReceive_memWf (s : State) (h : s.memWf) : OutWf (execXchgReceive s) := by
  grind [execXchgReceive, outWf_next, chkWf_ok, chkWf_fault, Chk.andThen_memWf, !State.putCount_memWf,
    !State.place_memWf, State.putXchg_memWf, State.engineRecord_memWf]

theorem State.dropCommand_memWf (s : State) (id : Nat) (h : s.memWf) : (s.dropCommand id).memWf :=
  h

theorem State.onesLeft_memWf (s : State) (c : Command) (left : Bool) (h : s.memWf) : OptWf (s.onesLeft c left) := by
  grind [State.onesLeft, optWf_some, optWf_none, chkWf_ok, chkWf_fault, !State.clearCounts_memWf]

theorem execXchgTimeout_memWf (s : State) (h : s.memWf) : OutWf (execXchgTimeout s) := by
  unfold execXchgTimeout
  extract_lets late
  clear_value late
  split
  · split
    · rename_i hs
      exact outWf_next.2 (State.endXchg_memWf _ _ _ (State.onesLeft_memWf _ _ _ h _ hs))
    · exact outWf_next.2 h
  · split
    · split
      · rename_i hs
        exact outWf_next.2 (State.completeCommand_memWf _ _ _ _ _ _
          (State.dropCommand_memWf _ _ (State.onesLeft_memWf _ _ _ h _ hs)))
      · exact outWf_next.2 h
    · exact outWf_next.2 h

theorem State.startXchg_memWf (s : State) (c : Command) (h : s.memWf) : (s.startXchg c).1.memWf := by
  grind [State.startXchg, chkWf_ok, State.charge_memWf, !State.clearCounts_memWf, State.freeOwned_memWf]

theorem State.enterQueue_memWf (s : State) (c : Command) (h : s.memWf) : (s.enterQueue c).memWf := by
  grind [State.enterQueue, chkWf_ok, State.memWf_mk, State.wf_bytes, State.completeCommand_memWf, !State.sample_memWf,
    State.raisePend_memWf, State.takeOwned_memWf, State.startXchg_memWf, State.charge_memWf, State.onCore_memWf]

theorem State.performEngine_memWf (s : State) (major fn : Nat) (x : Tagged) (gb : Word) (samples : List Word)
    (h : s.memWf) :
    PerfWf (s.performEngine major fn x gb samples) := by
  grind [State.performEngine, perfWf_done, perfWf_later, State.pushWrites_memWf, State.onMe_memWf,
    State.enterQueue_memWf, !State.performAccess_memWf, State.readWords_memWf]

theorem State.engineInstr_memWf (s : State) (i : Instr) (major fn : Nat) (a b : RegNo) (dest : Dest) (h : s.memWf) :
    OutWf (s.engineInstr i major fn a b dest) := by
  grind [State.engineInstr, outWf_next, chkWf_ok, State.exposed_memWf, !State.engineChecks_memWf,
    !State.performEngine_memWf]

theorem State.injectMxc_memWf (s : State) (core : Nat) (c : Command) (h : s.memWf) : (s.injectMxc core c).memWf := by
  grind [State.injectMxc, State.memWf_mk, State.wf_bytes, State.onCore_memWf, State.completeCommand_memWf]

theorem State.refill_memWf (s : State) (core n : Nat) (h : s.memWf) : (s.refill core n).memWf := by
  induction n generalizing s core with
  | zero => exact h
  | succ m ih =>
    unfold State.refill
    grind [State.memWf_mk, State.wf_bytes, State.onCore_memWf]

theorem State.takeHead_memWf (s : State) (core : Nat) (h : s.memWf) : (s.takeHead core).memWf := by
  grind [State.takeHead, State.onCore_memWf, State.release_memWf, State.injectMxc_memWf, State.completeCommand_memWf,
    State.acceptXchg_memWf]

theorem execEngineTake_memWf (s : State) (h : s.memWf) : OutWf (execEngineTake s) := by
  grind [execEngineTake, outWf_next, State.refill_memWf, State.takeHead_memWf, State.pumpXchgs_memWf,
    State.pumpFinish_memWf]

theorem execMxcInject_memWf (s : State) (h : s.memWf) : OutWf (execMxcInject s) := by
  grind [execMxcInject, outWf_next, State.refill_memWf, State.injectMxc_memWf]

/-! ### Memory form: the operations of Machine/Markers.lean -/

theorem State.syncWalk_memWf (s : State) (n scope root : Nat) (h : s.memWf) : (s.syncWalk n scope root).1.memWf :=
  h

theorem State.syncStore_memWf (s : State) (n : Nat) (h : s.memWf) : OptWf (s.syncStore n) := by
  grind [State.syncStore, optWf_some, optWf_none, chkWf_ok, chkWf_fault, !State.agentCheck_memWf,
    State.agentBytes_memWf, State.graphFault_memWf]

theorem State.syncEor_memWf (s : State) (n : Nat) (h : s.memWf) : (s.syncEor n).1.memWf := by
  grind [State.syncEor, optWf_some, chkWf_ok, chkWf_fault, !State.argWord_memWf, State.syncWalk_memWf,
    State.onSite_memWf, State.graphFault_memWf, !State.syncStore_memWf]

theorem State.pendingOut_memWf (s : State) (n : Nat) (h : s.memWf) : (s.pendingOut n).memWf := by
  grind [State.pendingOut, State.segmentTok_memWf, State.clearSegment_memWf, State.emit_memWf, State.onSite_memWf]

theorem State.mismatch_memWf (s : State) (n : Nat) (last : Bool) (h : s.memWf) : (s.mismatch n last).memWf := by
  grind [State.mismatch, State.emit_memWf, State.graphFault_memWf]

theorem State.forwardMarker_memWf (s : State) (n kind : Nat) (ports : List Nat) (heads : List Token) (h : s.memWf) :
    (s.forwardMarker n kind ports heads).memWf := by
  unfold State.forwardMarker
  grind [State.memWf_mk, State.wf_bytes, foldl_memWf, State.noteFire_memWf, State.onSite_memWf,
    State.pendingOut_memWf, State.emit_memWf]

theorem execMarkerFiring_memWf (s : State) (h : s.memWf) : OutWf (execMarkerFiring s) := by
  grind [execMarkerFiring, outWf_next, foldl_memWf, State.graphFault_memWf, State.mismatch_memWf, State.onSite_memWf,
    State.syncEor_memWf, State.forwardMarker_memWf]

theorem execPlaneChange_memWf (s : State) (h : s.memWf) : OutWf (execPlaneChange s) := by
  grind [execPlaneChange, outWf_next, State.activate_memWf]

theorem execPlaneRefetch_memWf (s : State) (h : s.memWf) : OutWf (execPlaneRefetch s) := by
  grind [execPlaneRefetch, outWf_next, chkWf_ok, chkWf_fault, !State.agentCheck_memWf, State.activate_memWf,
    State.onSite_memWf, State.loadFault_memWf]

theorem State.pushPayload_memWf (s : State) (n ticket : Nat) (ws : List Tagged) (h : s.memWf) :
    OptWf (s.pushPayload n ticket ws) := by
  grind [State.pushPayload, optWf_some, optWf_none, State.onHerd_memWf]

theorem State.onTickets_memWf (s : State) (n : Nat) (f : List Ticket → List Ticket) (h : s.memWf) :
    (s.onTickets n f).memWf :=
  h

theorem State.dispatchWaiting_memWf (s : State) (n : Nat) (l : List Ticket) (h : s.memWf) :
    (s.dispatchWaiting n l).memWf := by
  induction l generalizing s n with
  | nil => exact h
  | cons x xs ih =>
    unfold State.dispatchWaiting
    grind [optWf_some, !State.pushPayload_memWf, State.onTickets_memWf]

theorem State.emitTicket_memWf (s : State) (n : Nat) (h : s.memWf) : (s.emitTicket n).memWf := by
  grind [State.emitTicket, State.emit_memWf, State.onTickets_memWf]

theorem State.escRef_memWf (s : State) (n v : Nat) (h : s.memWf) : ∀ t b, s.escRef n v = some (t, b) → t.memWf := by
  grind [State.escRef, chkWf_ok, chkWf_fault, !State.agentCheck_memWf]

theorem State.escRefs_memWf (s : State) (n : Nat) (l : List Tagged) (h : s.memWf) :
    ∀ t b, s.escRefs n l = some (t, b) → t.memWf := by
  induction l generalizing s n with
  | nil => rintro t b ⟨⟩; exact h
  | cons x xs ih =>
    unfold State.escRefs
    grind [!State.escRef_memWf]

theorem State.takeTicket_memWf (s : State) (n : Nat) (t : Token) (h : s.memWf) : (s.takeTicket n t).memWf := by
  unfold State.takeTicket
  grind [State.onSite_memWf, State.graphFault_memWf, State.readArgs_memWf, → State.escRefs_memWf,
    !State.pushPayload_memWf, optWf_some]

theorem execFeEsc_memWf (s : State) (h : s.memWf) : OutWf (execFeEsc s) := by
  grind [execFeEsc, outWf_next, State.emitTicket_memWf, State.dispatchWaiting_memWf, State.takeReads_memWf,
    State.takeTicket_memWf, State.noteFire_memWf]

theorem execEscReplyArrival_memWf (s : State) (h : s.memWf) : OutWf (execEscReplyArrival s) := by
  grind [execEscReplyArrival, outWf_next, State.memWf_mk, State.wf_bytes, State.postEvq_memWf, State.onSite_memWf]

theorem execFeSync_memWf (s : State) (h : s.memWf) : OutWf (execFeSync s) := by
  grind [execFeSync, State.firing_memWf, State.emit_memWf]

theorem execFeFence_memWf (s : State) (h : s.memWf) : OutWf (execFeFence s) := by
  grind [execFeFence, State.firing_memWf, State.onSite_memWf, State.emit_memWf]

theorem execFeCmpk_memWf (s : State) (h : s.memWf) : OutWf (execFeCmpk s) := by
  grind [execFeCmpk, State.firing_memWf, State.mismatch_memWf, State.onSite_memWf, State.emit_memWf]

/-! ### Memory form: the operations of Machine/Matrix.lean -/

theorem State.onMxe_memWf (s : State) (e : Nat) (f : Mxe → Mxe) (h : s.memWf) : (s.onMxe e f).memWf :=
  h

theorem State.putCell_memWf (s : State) (e bank i j v : Nat) (h : s.memWf) : (s.putCell e bank i j v).memWf := by
  grind [State.putCell, State.putBytes_memWf]

theorem State.clearBank_memWf (s : State) (e bank : Nat) (h : s.memWf) : (s.clearBank e bank).memWf :=
  filter_wf _ _ h

theorem State.assignMxe_memWf (s : State) (e : Nat) (owner : Option Nat) (rights : Nat) (fabric : Bool)
    (h : s.memWf) :
    (s.assignMxe e owner rights fabric).memWf := by
  grind [State.assignMxe, State.onMxe_memWf, State.clearBank_memWf]

theorem State.tileOp_memWf (s : State) (e bank : Nat) (o : TileOp) (h : s.memWf) : (s.tileOp e bank o).1.memWf := by
  unfold State.tileOp
  refine (State.onMxe_memWf _ _ _ (foldl_fst_memWf _ (fun r a hr => foldl_fst_memWf _ (fun q b hq => ?_) _ _ hr) _ _ h))
  split
  · exact State.putCell_memWf _ _ _ _ _ _ hq
  · exact State.putCell_memWf _ _ _ _ _ _ hq

theorem State.settleBank_memWf (s : State) (e bank tau : Nat) (h : s.memWf) : (s.settleBank e bank tau).1.memWf := by
  grind [State.settleBank, State.corrected_memWf, State.putCell_memWf]

theorem State.fetchRow_memWf (s : State) (c : Command) (fa k base scl : Nat) (t : FVal) (h : s.memWf) :
    ChkWf (s.fetchRow c fa k base scl t) := by
  grind [State.fetchRow, chkWf_ok, Chk.andThen_memWf, !State.engRead_memWf]

theorem State.fetchRows_memWf (s : State) (c : Command) (fa k base pitch scl : Nat) (t : FVal) (i n : Nat)
    (h : s.memWf) :
    ChkWf (s.fetchRows c fa k base pitch scl t i n) := by
  induction n generalizing s c fa k base pitch scl t i with
  | zero => exact chkWf_ok.2 h
  | succ m ih =>
    unfold State.fetchRows
    grind [chkWf_ok, Chk.andThen_memWf, !State.fetchRow_memWf]

theorem State.checkWhole_memWf (s : State) (c : Command) (l : List Nat) (h : s.memWf) :
    ChkWf (s.checkWhole c l) := by
  induction l generalizing s c with
  | nil => exact chkWf_ok.2 h
  | cons x xs ih =>
    unfold State.checkWhole
    grind [Chk.andThen_memWf, !State.engCheck_memWf]

theorem State.fetchA_memWf (s : State) (c : Command) (fa m k base pitch scl : Nat) (h : s.memWf) :
    ChkWf (s.fetchA c fa m k base pitch scl) := by
  grind [State.fetchA, Chk.andThen_memWf, !State.checkWhole_memWf, !State.engRead_memWf, !State.fetchRows_memWf]

theorem State.checkScales_memWf (s : State) (o : Origin) (used : Nat → Bool) (h : s.memWf) :
    ChkWf (s.checkScales o used) := by
  grind [State.checkScales, chkWf_ok, chkWf_fault, State.detectAll_memWf]

theorem State.checkWeights_memWf (s : State) (e off nt : Nat) (h : s.memWf) : ChkWf (s.checkWeights e off nt) := by
  unfold State.checkWeights
  generalize hr : List.foldl _ (s, none) _ = r
  have hw : r.1.memWf := by
    subst hr
    refine foldl_fst_memWf _ (fun r t hr => ?_) _ _ h
    split
    · exact hr
    · refine fst_ite_memWf hr ?_
      exact State.checkTile_memWf _ _ (State.exposeFlips_memWf _ _ hr)
  dsimp only
  split
  · exact chkWf_ok.2 hw
  · exact chkWf_fault.2 hw

theorem State.fetchB_memWf (s : State) (e fb k n off : Nat) (scl : Option Nat) (h : s.memWf) :
    ChkWf (s.fetchB e fb k n off scl) := by
  grind [State.fetchB, chkWf_ok, Chk.andThen_memWf, !State.checkWeights_memWf, !State.checkScales_memWf]

theorem State.checkBank_memWf (s : State) (o : Origin) (e b m n : Nat) (h : s.memWf) :
    ChkWf (s.checkBank o e b m n) := by
  grind [State.checkBank, !State.checkScales_memWf]

theorem State.readShape_memWf (s : State) (x : Tagged) (va : Word) (k : Nat) (h : s.memWf) :
    ChkWf (s.readShape x va k) := by
  grind [State.readShape, chkWf_ok, chkWf_fault, chkWf_wait, !State.checkAccess_memWf, State.readWords_memWf]

theorem State.mmChecks_memWf (s : State) (x : Tagged) (fa fb : Nat) (ws : List Word) (h : s.memWf) :
    ChkWf (s.mmChecks x fa fb ws) := by
  grind [State.mmChecks, chkWf_ok, chkWf_fault, Chk.andThen_memWf, !State.readShape_memWf]

theorem execMxc_memWf (a b : RegNo) (s : State) (h : s.memWf) : OutWf (execMxc a b s) := by
  grind [execMxc, outWf_next, State.exposed_memWf, !State.engineChecks_memWf, !State.mmChecks_memWf,
    !State.performEngine_memWf]

theorem State.mxeDone_memWf (s : State) (e : Nat) (c : Command) (status : Nat) (h : s.memWf) :
    (s.mxeDone e c status).memWf := by
  grind [State.mxeDone, State.onMxe_memWf, State.completeCommand_memWf]

theorem State.mxeRecord_memWf (s : State) (e : Nat) (c : Command) (cause : Nat) (va : Word) (h : s.memWf) :
    (s.mxeRecord e c cause va).memWf :=
  h

theorem State.mxeCommand_memWf (s : State) (op : Nat) (run : State → Nat → Command → Chk Nat) (h : s.memWf)
    (hrun : ∀ s u' v', s.memWf → ChkWf (run s u' v')) :
    OutWf (s.mxeCommand op run) := by
  grind [State.mxeCommand, outWf_next, chkWf_ok, State.mxeDone_memWf, State.onMxe_memWf, State.mxeRecord_memWf]

theorem State.loadTiles_memWf (s : State) (c : Command) (e i n : Nat) (h : s.memWf) :
    ChkWf (s.loadTiles c e i n) := by
  induction n generalizing s c e i with
  | zero => exact chkWf_ok.2 h
  | succ m ih =>
    unfold State.loadTiles
    grind [State.memWf_mk, State.wf_bytes, Chk.andThen_memWf, !State.engRead_memWf, State.putBytes_memWf,
      State.dropFlips_memWf]

theorem State.loadCodebook_memWf (s : State) (e : Nat) (bs : List Byte) (h : s.memWf) :
    (s.loadCodebook e bs).1.memWf := by
  grind [State.loadCodebook, State.putBytes_memWf]

theorem execLoadw_memWf (s : State) (h : s.memWf) : OutWf (execLoadw s) := by
  grind [execLoadw, chkWf_ok, Chk.andThen_memWf, State.mxeCommand_memWf, !State.loadTiles_memWf,
    State.loadCodebook_memWf, !State.engRead_memWf]

theorem State.mxeFlags_memWf (s : State) (e flags : Nat) (h : s.memWf) : (s.mxeFlags e flags).memWf := by
  grind [State.mxeFlags, State.graphFlags_memWf]

theorem execMm_memWf (s : State) (h : s.memWf) : OutWf (execMm s) := by
  grind [execMm, chkWf_ok, Chk.andThen_memWf, State.mxeCommand_memWf, !State.engRead_memWf, !State.fetchA_memWf,
    !State.fetchB_memWf, !State.checkBank_memWf, State.tileOp_memWf, State.mxeFlags_memWf]

theorem State.writeRows_memWf (s : State) (c : Command) (bank e n i k : Nat) (h : s.memWf) :
    ChkWf (s.writeRows c bank e n i k) := by
  induction k generalizing s c bank e n i with
  | zero => exact chkWf_ok.2 h
  | succ m ih =>
    unfold State.writeRows
    grind [Chk.andThen_memWf, !State.engWrite_memWf, State.mxeFlags_memWf]

theorem execDrain_memWf (s : State) (h : s.memWf) : OutWf (execDrain s) := by
  grind [execDrain, chkWf_ok, Chk.andThen_memWf, State.mxeCommand_memWf, !State.checkBank_memWf,
    State.settleBank_memWf, State.mxeFlags_memWf, State.postFault_memWf, State.postEvq_memWf, !State.writeRows_memWf,
    State.clearBank_memWf]

theorem execClear_memWf (s : State) (h : s.memWf) : OutWf (execClear s) := by
  unfold execClear
  grind [chkWf_ok, State.mxeCommand_memWf, State.clearBank_memWf]

theorem State.mxToken_memWf (s : State) (n : Nat) (t : Token) (h : s.memWf) : (s.mxToken n t).1.memWf := by
  grind [State.mxToken, State.poisonSink_memWf]

theorem State.onElem_memWf (s : State) (n : Nat) (f : Elem → Elem) (h : s.memWf) : (s.onElem n f).memWf :=
  h

theorem execMxLoadb_memWf (s : State) (h : s.memWf) : OutWf (execMxLoadb s) := by
  grind [execMxLoadb, State.memWf_mk, State.wf_bytes, State.firing_memWf, State.mxToken_memWf, State.graphFault_memWf,
    State.onElem_memWf, State.onMxe_memWf, State.putBytes_memWf, State.dropFlips_memWf, State.loadCodebook_memWf]

theorem State.mmEnd_memWf (s : State) (n : Nat) (buf : List Token) (cause : Nat) (h : s.memWf) :
    ChkWf (s.mmEnd n buf cause) := by
  grind [State.mmEnd, chkWf_ok, Chk.andThen_memWf, State.graphFault_memWf, State.onElem_memWf, !State.fetchB_memWf,
    !State.checkBank_memWf, State.tileOp_memWf, State.graphFlags_memWf]

theorem State.mmResult_memWf (s0 : State) (n : Nat) (c : Chk Unit) (hs0 : s0.memWf) (hc : ChkWf c) :
    (State.mmResult s0 n c).memWf := by
  unfold State.mmResult
  grind [chkWf_ok, State.graphFault_memWf]

theorem execMxMm_memWf (s : State) (h : s.memWf) : OutWf (execMxMm s) := by
  grind [execMxMm, outWf_next, State.mmResult_memWf, !State.mmEnd_memWf, State.firing_memWf, State.mxToken_memWf,
    State.onSite_memWf, State.onElem_memWf]

theorem State.mxDrainOnce_memWf (s : State) (n : Nat) (h : s.memWf) : (s.mxDrainOnce n).memWf := by
  grind [State.mxDrainOnce, chkWf_ok, chkWf_fault, !State.checkBank_memWf, State.graphFault_memWf,
    State.settleBank_memWf, State.graphFlags_memWf, State.emit_memWf, State.postToLaunch_memWf, State.clearBank_memWf]

theorem execMxDrain_memWf (s : State) (h : s.memWf) : OutWf (execMxDrain s) := by
  grind [execMxDrain, outWf_next, State.onSite_memWf, State.emit_memWf, State.mxDrainOnce_memWf, State.noteFire_memWf,
    State.onElem_memWf]

theorem State.mxGrant_memWf (s : State) (n : Nat) (h : s.memWf) : (s.mxGrant n).memWf := by
  grind [State.mxGrant, chkWf_ok, State.assignMxe_memWf, !State.agentCheck_memWf, State.agentBytes_memWf,
    State.onElem_memWf, State.graphFault_memWf]

theorem execMxMsg_memWf (s : State) (h : s.memWf) : OutWf (execMxMsg s) := by
  grind [execMxMsg, outWf_next, State.mxGrant_memWf, State.firing_memWf, State.poisonSink_memWf,
    State.graphFault_memWf]

/-! ### Memory form: the operations of Machine/Router.lean -/

theorem execSteer_memWf (s : State) (h : s.memWf) : OutWf (execSteer s) := by
  grind [execSteer, outWf_next, State.onSite_memWf]

theorem State.routerFault_memWf (s : State) (n input kind : Nat) (h : s.memWf) :
    (s.routerFault n input kind).memWf :=
  h

theorem execMerge_memWf (s : State) (h : s.memWf) : OutWf (execMerge s) := by
  grind [execMerge, outWf_next, State.onSite_memWf, State.routerFault_memWf]

theorem execCarry_memWf (s : State) (h : s.memWf) : OutWf (execCarry s) := by
  grind [execCarry, outWf_next, State.onSite_memWf]

/-! ### Memory form: the operations of Machine/Sequencer.lean -/

theorem State.onSeq_memWf (s : State) (n : Nat) (f : Seq → Seq) (h : s.memWf) : (s.onSeq n f).memWf :=
  h

theorem State.seqFault_memWf (s : State) (n cause sev : Nat) (tval tval2 : Word) (h : s.memWf) :
    (s.seqFault n cause sev tval tval2).memWf :=
  h

theorem State.accessFault_memWf (s : State) (n cause : Nat) (tval : Word) (h : s.memWf) :
    (s.accessFault n cause tval).memWf :=
  h

theorem State.siteFault_memWf (s : State) (n cause : Nat) (h : s.memWf) : (s.siteFault n cause).memWf :=
  h

theorem execGeneratorFault_memWf (s : State) (h : s.memWf) : OutWf (execGeneratorFault s) := by
  grind [execGeneratorFault, outWf_next, State.accessFault_memWf]

theorem State.genFault_memWf (s : State) (n cause : Nat) (a : Word) (h : s.memWf) :
    (s.genFault n cause a).memWf :=
  h

theorem State.ownCheck_memWf (s : State) (pa size : Nat) (reads : Bool) (va : Word) (h : s.memWf) :
    ChkWf (s.ownCheck pa size reads va) := by
  unfold State.ownCheck
  generalize State.inTile = inTile
  extract_lets ws t c
  have ht : t.memWf := State.detectAll_memWf _ _ h
  have hc : c.1.memWf := State.checkRows_memWf _ _ _ _ ht
  clear_value c t
  exact ite_both trivial (ite_both h (ite_both (State.detectAll_memWf _ _ h) (ite_both (ite_both hc hc) ht)))

theorem State.seqAddr_memWf (s : State) (n : Nat) (write : Bool) (ea : Word) (size : Nat) (h : s.memWf) :
    ChkWf (s.seqAddr n write ea size) := by
  grind [State.seqAddr, chkWf_ok, chkWf_fault, Chk.andThen_memWf, !State.ownCheck_memWf, !State.agentSpan_memWf,
    State.detectAll_memWf]

theorem State.closeQueue_memWf (s : State) (n q : Nat) (last : Bool) (h : s.memWf) :
    (s.closeQueue n q last).memWf := by
  grind [State.closeQueue, State.onSeq_memWf, State.emit_memWf]

theorem State.appendDense_memWf (s : State) (n q : Nat) (bs : List Byte) (h : s.memWf) :
    (s.appendDense n q bs).memWf := by
  grind [State.appendDense, State.onSeq_memWf, State.closeQueue_memWf]

theorem State.packElem_memWf (s : State) (n q : Nat) (bs : List Byte) (h : s.memWf) : (s.packElem n q bs).memWf := by
  grind [State.packElem, State.closeQueue_memWf, State.onSeq_memWf]

theorem State.appendPack_memWf (s : State) (n q w k : Nat) (l : List Byte) (h : s.memWf) :
    (s.appendPack n q w k l).memWf := by
  induction k generalizing s n q w l with
  | zero => exact h
  | succ m ih =>
    unfold State.appendPack
    grind [State.onSeq_memWf, State.packElem_memWf]

theorem State.append_memWf (s : State) (n q : Nat) (bs : List Byte) (h : s.memWf) : (s.append n q bs).memWf := by
  grind [State.append, State.onSeq_memWf, State.appendPack_memWf, State.appendDense_memWf]

theorem State.seqLoad_memWf (s : State) (n q : Nat) (ea : Word) (size : Nat) (h : s.memWf) :
    OptWf (s.seqLoad n q ea size) := by
  grind [State.seqLoad, optWf_some, optWf_none, chkWf_ok, chkWf_fault, State.append_memWf, !State.seqAddr_memWf,
    State.genFault_memWf]

theorem State.inHead_memWf (s : State) (n q : Nat) (h : s.memWf) : HeadWf (s.inHead n q) := by
  grind [State.inHead, headWf_stop, headWf_data, headWf_none, State.onSeq_memWf, State.seqFault_memWf]

theorem State.releaseTok_memWf (s : State) (n q : Nat) (h : s.memWf) : (s.releaseTok n q).memWf := by
  grind [State.releaseTok, State.siteFault_memWf, State.onSeq_memWf]

theorem State.takeBytes_memWf (s : State) (n q k j : Nat) (h : s.memWf) : (s.takeBytes n q k j).s.memWf := by
  induction k generalizing s n q j with
  | zero => exact h
  | succ m ih =>
    unfold State.takeBytes
    grind [headWf_stop, !State.inHead_memWf, State.onSeq_memWf, State.releaseTok_memWf]

theorem State.takeFor_memWf (s : State) (n q size : Nat) (h : s.memWf) : (s.takeFor n q size).s.memWf := by
  grind [State.takeFor, State.takeBytes_memWf, State.onSeq_memWf]

theorem State.fillImage_memWf (s : State) (n q k : Nat) (h : s.memWf) : (s.fillImage n q k).memWf := by
  induction k generalizing s n q with
  | zero => exact h
  | succ m ih =>
    unfold State.fillImage
    grind [headWf_stop, !State.inHead_memWf, State.onSeq_memWf, State.releaseTok_memWf]

theorem State.takeImage_memWf (s : State) (n q size : Nat) (h : s.memWf) : (s.takeImage n q size).s.memWf := by
  grind [State.takeImage, State.fillImage_memWf, State.onSeq_memWf]

theorem State.takeData_memWf (s : State) (n q size : Nat) (h : s.memWf) : (s.takeData n q size).s.memWf := by
  grind [State.takeData, State.takeImage_memWf, State.takeFor_memWf]

theorem State.holdStore_memWf (s : State) (n q : Nat) (ea : Word) (bs : List Byte) (h : s.memWf) :
    OptWf (s.holdStore n q ea bs) := by
  grind [State.holdStore, optWf_some, optWf_none, chkWf_ok, chkWf_fault, !State.seqAddr_memWf, State.genFault_memWf,
    State.siteFault_memWf, State.onSeq_memWf]

theorem State.addElem_memWf (s : State) (isInt : Bool) (fmt pa w : Nat) (bs : List Byte) (h : s.memWf) :
    (s.addElem isInt fmt pa w bs).memWf := by
  grind [State.addElem, State.agentBytes_memWf]

theorem State.addStore_memWf (s : State) (isInt : Bool) (fmt : Nat) (st : SeqStore) (h : s.memWf) :
    (s.addStore isInt fmt st).memWf := by
  grind [State.addStore, foldl_memWf, State.agentBytes_memWf, State.addElem_memWf]

theorem State.performStore_memWf (s : State) (n : Nat) (st : SeqStore) (h : s.memWf) :
    (s.performStore n st).memWf := by
  grind [State.performStore, State.addStore_memWf, State.agentBytes_memWf]

theorem State.endQueue_memWf (s : State) (n q : Nat) (h : s.memWf) : (s.endQueue n q).memWf := by
  grind [State.endQueue, State.emit_memWf, State.closeQueue_memWf]

theorem State.commitInvocation_memWf (s : State) (n : Nat) (h : s.memWf) : (s.commitInvocation n).memWf := by
  grind [State.commitInvocation, foldl_memWf, State.performStore_memWf, State.endQueue_memWf, State.addPoison_memWf,
    State.onSeq_memWf]

theorem State.replaySeq_memWf (s : State) (n : Nat) (h : s.memWf) : (s.replaySeq n).memWf :=
  h

theorem State.drainSeq_memWf (s : State) (n : Nat) (h : s.memWf) : (s.drainSeq n).memWf :=
  h

theorem State.seqWordStep_memWf (s : State) (k : State → Nat → State) (h : s.memWf)
    (hk : ∀ s u', s.memWf → (k s u').memWf) :
    OutWf (s.seqWordStep k) := by
  grind [State.seqWordStep, outWf_next, State.readArgs_memWf, State.drainSeq_memWf, State.noteFire_memWf,
    State.onSeq_memWf]

theorem State.seqRegs_memWf (s : State) (f : Site → SeqRegs → SeqRegs) (h : s.memWf) : OutWf (s.seqRegs f) := by
  grind [State.seqRegs, State.seqWordStep_memWf, State.onSite_memWf]

theorem State.seqLoop_memWf (s : State) (n k count : Nat) (h : s.memWf) : (s.seqLoop n k count).memWf := by
  grind [State.seqLoop, State.onSeq_memWf, State.commitInvocation_memWf]

theorem execLoopImm_memWf (n : BitVec 2) (c : BitVec 24) (s : State) (h : s.memWf) : OutWf (execLoopImm n c s) := by
  grind [execLoopImm, State.seqWordStep_memWf, State.seqLoop_memWf]

theorem execLoopArg_memWf (n : BitVec 2) (a : BitVec 24) (s : State) (h : s.memWf) : OutWf (execLoopArg n a s) := by
  grind [execLoopArg, State.seqWordStep_memWf, State.seqFault_memWf, State.seqLoop_memWf]

theorem execEndl_memWf (n : BitVec 2) (top : BitVec 6) (s : State) (h : s.memWf) : OutWf (execEndl n top s) := by
  grind [execEndl, State.seqWordStep_memWf, State.onSeq_memWf, State.commitInvocation_memWf]

theorem State.stepUnless_memWf (s t : State) (n : Nat) (ht : t.memWf) : (s.stepUnless t n).memWf := by
  grind [State.stepUnless, State.onSeq_memWf]

theorem execEmitLd_memWf (b q : BitVec 2) (sz : BitVec 3) (off : BitVec 16) (s : State) (h : s.memWf) :
    OutWf (execEmitLd b q sz off s) := by
  grind [execEmitLd, optWf_some, State.seqWordStep_memWf, !State.seqLoad_memWf, State.stepUnless_memWf]

theorem execEmitSt_memWf (b q : BitVec 2) (sz : BitVec 3) (off : BitVec 16) (s : State) (h : s.memWf) :
    OutWf (execEmitSt b q sz off s) := by
  grind [execEmitSt, optWf_some, State.seqWordStep_memWf, State.takeData_memWf, State.onSeq_memWf,
    !State.holdStore_memWf, State.stepUnless_memWf]

theorem State.takeLanes_memWf (s : State) (n q : Nat) (h : s.memWf) : (s.takeLanes n q).memWf := by
  grind [State.takeLanes, headWf_stop, !State.inHead_memWf, State.siteFault_memWf, State.releaseTok_memWf,
    State.onSeq_memWf]

theorem State.serveLanes_memWf (s : State) (n : Nat) (f : State → Nat → State × Bool) (l : List Nat)
    (h : s.memWf) (hf : ∀ s u', s.memWf → (f s u').1.memWf) :
    (s.serveLanes n f l).memWf := by
  induction l generalizing s n with
  | nil => exact h
  | cons x xs ih =>
    unfold State.serveLanes
    grind [State.onSeq_memWf]

theorem State.indexed_memWf (s : State) (n q : Nat) (f : State → Nat → State × Bool) (h : s.memWf)
    (hf : ∀ s u', s.memWf → (f s u').1.memWf) :
    (s.indexed n q f).memWf := by
  grind [State.indexed, State.takeLanes_memWf, State.serveLanes_memWf, State.stepUnless_memWf]

theorem execEmitGth_memWf (b iq : BitVec 2) (sz : BitVec 3) (oq : BitVec 2) (sh : BitVec 3) (s : State)
    (h : s.memWf) :
    OutWf (execEmitGth b iq sz oq sh s) := by
  grind [execEmitGth, optWf_some, State.seqWordStep_memWf, State.indexed_memWf, !State.seqLoad_memWf]

theorem execEmitSct_memWf (b iq : BitVec 2) (sz : BitVec 3) (dq : BitVec 2) (sh : BitVec 3) (s : State)
    (h : s.memWf) :
    OutWf (execEmitSct b iq sz dq sh s) := by
  grind [execEmitSct, optWf_some, State.seqWordStep_memWf, State.indexed_memWf, State.takeData_memWf,
    !State.holdStore_memWf]

theorem execBrc_memWf (pol : Bool) (top : BitVec 6) (s : State) (h : s.memWf) : OutWf (execBrc pol top s) := by
  grind [execBrc, State.seqWordStep_memWf, State.onSeq_memWf]

theorem State.ctlWord_memWf (s : State) (n : Nat) (f : State → Option State) (h : s.memWf)
    (hf : ∀ s, s.memWf → OptWf (f s)) : (s.ctlWord n f).memWf := by
  have hs := hf s h
  grind [State.ctlWord, State.onSeq_memWf, optWf_some]

theorem execWaitc_memWf (link : BitVec 2) (s : State) (h : s.memWf) : OutWf (execWaitc link s) := by
  unfold execWaitc
  refine State.seqWordStep_memWf _ _ h fun s n hs => State.ctlWord_memWf _ _ _ hs fun s hs => ?_
  split
  · exact optWf_some.2 (State.onSite_memWf _ _ _ hs)
  · exact optWf_none

theorem execSignal_memWf (link : BitVec 2) (v : Bool) (s : State) (h : s.memWf) : OutWf (execSignal link v s) := by
  grind [execSignal, State.seqWordStep_memWf, State.ctlWord_memWf, !State.sendCtl_memWf]

theorem execSeqFence_memWf (s : State) (h : s.memWf) : OutWf (execSeqFence s) := by
  grind [execSeqFence, State.seqWordStep_memWf, State.onSeq_memWf]

theorem State.acceptAll_memWf (s : State) (scope : Nat) (h : s.memWf) : (s.acceptAll scope).memWf := by
  unfold State.acceptAll
  grind [foldl_memWf, iter_memWf, State.drainSliceOne_memWf]

theorem execFenceRetire_memWf (s : State) (h : s.memWf) : OutWf (execFenceRetire s) := by
  grind [execFenceRetire, outWf_next, State.onSeq_memWf, State.acceptAll_memWf, State.emit_memWf]

theorem execEor_memWf (qmask : BitVec 4) (s : State) (h : s.memWf) : OutWf (execEor qmask s) := by
  grind [execEor, foldl_memWf, State.seqWordStep_memWf, State.closeQueue_memWf, State.emit_memWf, State.onSeq_memWf]

theorem execSeqSync_memWf (level sc : BitVec 2) (s : State) (h : s.memWf) : OutWf (execSeqSync level sc s) := by
  grind [execSeqSync, foldl_memWf, State.seqWordStep_memWf, State.onSeq_memWf, State.acceptAll_memWf]

theorem State.takeMarkers_memWf (s : State) (n : Nat) (ports : List Nat) (h : s.memWf) :
    (s.takeMarkers n ports).memWf := by
  grind [State.takeMarkers, foldl_memWf, State.onSeq_memWf]

theorem execHalt_memWf (s : State) (h : s.memWf) : OutWf (execHalt s) := by
  grind [execHalt, State.seqWordStep_memWf, State.onSite_memWf, State.commitInvocation_memWf, State.seqFault_memWf,
    State.takeMarkers_memWf, State.emit_memWf, State.onSeq_memWf, State.drainSeq_memWf]

/-! ### Memory form: the operations of Machine/Tiles.lean -/

theorem State.probeAll_memWf (s : State) (n : Nat) (l : List (Nat × Nat)) (h : s.memWf) :
    ChkWf (s.probeAll n l) := by
  induction l generalizing s n with
  | nil => exact chkWf_ok.2 h
  | cons x xs ih =>
    unfold State.probeAll
    grind [chkWf_ok, Chk.andThen_memWf, !State.ownCheck_memWf]

theorem execMtProbe_memWf (s : State) (h : s.memWf) : OutWf (execMtProbe s) := by
  grind [execMtProbe, outWf_next, chkWf_ok, chkWf_fault, foldl_memWf, State.firing_memWf, State.onSite_memWf,
    State.value_memWf, !State.probeAll_memWf, State.graphFault_memWf, State.emit_memWf]

/-! ### Memory form: the operations of Machine/Loader.lean -/

theorem State.imageBytes_memWf (s : State) (p : Party) (va n : Nat) (h : s.memWf) : ChkWf (s.imageBytes p va n) := by
  grind [State.imageBytes, chkWf_ok, Chk.andThen_memWf, !State.agentCheck_memWf]

theorem State.readPlanes_memWf (s : State) (p : Party) (base poff soff : Nat) (mt : Bool) (l : List Nat)
    (n : Nat) (h : s.memWf) :
    ChkWf (s.readPlanes p base poff soff mt l n) := by
  induction l generalizing s p base poff soff mt n with
  | nil => exact chkWf_ok.2 h
  | cons x xs ih =>
    unfold State.readPlanes
    grind [chkWf_ok, Chk.andThen_memWf, !State.imageBytes_memWf]

theorem State.readSites_memWf (s : State) (p : Party) (base w h : Nat) (last : Option Nat) (n k : Nat)
    (hs : s.memWf) :
    ChkWf (s.readSites p base w h last n k) := by
  induction n generalizing s p base w h last k with
  | zero => exact chkWf_ok.2 hs
  | succ m ih =>
    unfold State.readSites
    grind [chkWf_ok, chkWf_fault, Chk.andThen_memWf, !State.imageBytes_memWf, !State.readPlanes_memWf]

theorem State.readImage_memWf (s : State) (p : Party) (base : Nat) (h : s.memWf) : ChkWf (s.readImage p base) := by
  grind [State.readImage, chkWf_ok, chkWf_fault, Chk.andThen_memWf, !State.imageBytes_memWf, !State.readSites_memWf]

/-! ### Memory form: the operations of Machine/Waits.lean -/

theorem State.testBar_memWf (s : State) (core ctx e : Nat) (h : s.memWf) : (s.testBar core ctx e).memWf := by
  unfold State.testBar
  have hread := @State.readRec_memWf
  generalize @State.readRec = read at hread ⊢
  grind [State.onCtx_memWf, State.passBar_memWf]

theorem State.retestWait_memWf (s : State) (core ctx : Nat) (h : s.memWf) : (s.retestWait core ctx).memWf := by
  unfold State.retestWait
  grind [Perf.state_memWf, getD_memWf, bind_memWf, State.testBar_memWf, !State.takeMsg_memWf, !State.takeEvent_memWf,
    !State.wakeSleep_memWf, !State.tryRetire_memWf, State.readBuffer_memWf]

/-! ### Memory form: the operations of Machine/Switch.lean -/

theorem State.suspendCommands_memWf (s : State) (core handle : Nat) (h : s.memWf) :
    (s.suspendCommands core handle).memWf := by
  grind [State.suspendCommands, State.onCore_memWf, State.onThread_memWf]

theorem execSwitchOut_memWf (s : State) (h : s.memWf) : OutWf (execSwitchOut s) := by
  grind [execSwitchOut, outWf_next, State.onCtx_memWf, State.applyWindow_memWf, State.suspendCommands_memWf,
    State.onThread_memWf]

theorem execSaveComplete_memWf (s : State) (h : s.memWf) : OutWf (execSaveComplete s) := by
  grind [execSaveComplete, outWf_next, foldl_memWf, State.pushWrites_memWf, State.onCtx_memWf,
    State.readAllRegs_memWf, State.putSlotWord_memWf, State.onThread_memWf, State.onCore_memWf]

theorem State.resumeAt_memWf (s : State) (h core ctx : Nat) (hs : s.memWf) : (s.resumeAt h core ctx).memWf := by
  grind [State.resumeAt, State.detectSpan_memWf, State.setCtx_memWf, State.onThread_memWf, State.refill_memWf,
    State.flushHeld_memWf, State.acquire_memWf, State.retire_memWf]

/-! ### Memory form: the operations of Machine/Launch.lean -/

theorem State.onQueue_memWf (s : State) (q : Nat) (f : LaunchQueue → LaunchQueue) (h : s.memWf) :
    (s.onQueue q f).memWf :=
  h

theorem State.writeTail_memWf (s : State) (q v : Nat) (h : s.memWf) : (s.writeTail q v).memWf := by
  grind [State.writeTail, State.onQueue_memWf, State.postFault_memWf]

theorem State.unitWords_memWf (s : State) (p : Party) (va n : Nat) (h : s.memWf) : ChkWf (s.unitWords p va n) := by
  grind [State.unitWords, chkWf_ok, Chk.andThen_memWf, !State.agentCheck_memWf]

theorem State.writeRecord_memWf (s : State) (p : Party) (va : Nat) (e : EventRec) (h : s.memWf) :
    (s.writeRecord p va e).memWf := by
  grind [State.writeRecord, chkWf_ok, chkWf_fault, !State.agentCheck_memWf, State.agentBytes_memWf]

theorem State.toTarget_memWf (s : State) (q : Nat) (r : List Word) (e : EventRec) (h : s.memWf) :
    (s.toTarget q r e).memWf := by
  grind [State.toTarget, State.writeRecord_memWf, State.postEvent_memWf]

theorem State.completeLaunch_memWf (s : State) (l outcome cause : Nat) (h : s.memWf) :
    (s.completeLaunch l outcome cause).memWf := by
  grind [State.completeLaunch, State.memWf_mk, State.wf_bytes, foldl_memWf, State.toTarget_memWf,
    State.assignMxe_memWf]

theorem State.setUsable_memWf (s : State) (p : Party) (va : Nat) (h : s.memWf) : ChkWf (s.setUsable p va) := by
  grind [State.setUsable, chkWf_ok, Chk.andThen_memWf, !State.agentCheck_memWf]

theorem State.recordOk_memWf (s : State) (q : Nat) (r : List Word) (h : s.memWf) : ChkWf (s.recordOk q r) := by
  grind [State.recordOk, chkWf_ok, chkWf_fault, chkWf_wait, Chk.andThen_memWf, !State.unitWords_memWf,
    !State.readImage_memWf, !State.setUsable_memWf]

theorem State.giveMxes_memWf (s : State) (l : Nat) (es : List Nat) (h : s.memWf) : (s.giveMxes l es).memWf := by
  grind [State.giveMxes, foldl_memWf, State.onLaunch_memWf, State.assignMxe_memWf]

theorem State.takeCandidate_memWf (s : State) (q : Nat) (child : Option Nat) (h : s.memWf) :
    (s.takeCandidate q child).memWf := by
  unfold State.takeCandidate
  grind [State.memWf_mk, State.wf_bytes, State.onQueue_memWf]

theorem State.takeIndex_memWf (s : State) (h : s.memWf) : ∀ l t, s.takeIndex = some (l, t) → t.memWf := by
  grind [State.takeIndex, State.memWf_mk, State.wf_bytes]

theorem State.bidImage_memWf (s : State) (l : Nat) (h : s.memWf) : ChkWf (s.bidImage l) := by
  grind [State.bidImage, !State.readImage_memWf]

theorem State.enrol_memWf (s : State) (q : Nat) (child : Option Nat) (r args : List Word) (h : s.memWf) :
    OptWf (s.enrol q child r args) := by
  unfold State.enrol
  extract_lets t
  have ht : t.memWf := s.takeCandidate_memWf q child h
  split
  · exact optWf_none
  · split
    next => exact optWf_none
    next l u hu =>
      have hv := t.takeIndex_memWf ht _ _ hu
      dsimp only
      split
      · split
        · exact optWf_some.2 (State.giveMxes_memWf _ _ _ hv)
        · exact optWf_some.2 hv
      · exact optWf_some.2 hv

theorem State.seat_memWf (s : State) (core ctx : Nat) (c : Context) (slot : Nat) (h : s.memWf) :
    (s.seat core ctx c slot).memWf := by
  grind [State.seat, State.memWf_mk, State.wf_bytes, State.onLaunch_memWf, State.setCtx_memWf]

theorem State.assignSlot_memWf (s : State) (core ctx q : Nat) (h : s.memWf) : (s.assignSlot core ctx q).memWf :=
  h

theorem State.served_memWf (s : State) (f q : Nat) (h : s.memWf) : (s.served f q).memWf :=
  h

theorem execLaunchAdmission_memWf (s : State) (h : s.memWf) : OutWf (execLaunchAdmission s) := by
  unfold execLaunchAdmission
  grind [outWf_next, chkWf_ok, chkWf_fault, getD_memWf, !State.recordOk_memWf, State.served_memWf, !State.enrol_memWf,
    State.toTarget_memWf, State.takeCandidate_memWf]

theorem State.resumeThread_memWf (s : State) (h core ctx : Nat) (hs : s.memWf) :
    (s.resumeThread h core ctx).memWf := by
  grind [State.resumeThread, State.resumeAt_memWf, State.served_memWf, State.assignSlot_memWf]

theorem execThreadPlacement_memWf (s : State) (h : s.memWf) : OutWf (execThreadPlacement s) := by
  grind [execThreadPlacement, outWf_next, State.resumeThread_memWf, State.served_memWf, State.assignSlot_memWf,
    State.seat_memWf, State.acquire_memWf, State.onLaunch_memWf]

theorem execResume_memWf (s : State) (h : s.memWf) : OutWf (execResume s) := by
  grind [execResume, outWf_next, State.resumeThread_memWf]

theorem State.startMembers_memWf (s : State) (l va : Nat) (l2 : List (Nat × Nat)) (ls : List Nat) (n : Nat)
    (h : s.memWf) :
    (s.startMembers l va l2 ls n).memWf := by
  induction l2 generalizing s l va ls n with
  | nil => exact h
  | cons x xs ih =>
    unfold State.startMembers
    grind [State.acquire_memWf, State.seat_memWf, State.assignSlot_memWf]

theorem State.formSet_memWf (s : State) (l h u pa : Nat) (claims : List (Nat × Nat)) (hs : s.memWf) :
    (s.formSet l h u pa claims).memWf := by
  unfold State.formSet
  have hread := @State.readRec_memWf
  generalize @State.readRec = read at hread ⊢
  grind [State.memWf_mk, State.wf_bytes, State.writeRec_memWf, State.onUnit_memWf]

theorem State.placeHerd_memWf (s : State) (l h : Nat) (hs : s.memWf) : OptWf (s.placeHerd l h) := by
  grind [State.placeHerd, optWf_some, optWf_none, chkWf_ok, !State.agentCheck_memWf, State.formSet_memWf,
    State.startMembers_memWf, State.served_memWf, State.onLaunch_memWf]

theorem execHerdPlacement_memWf (s : State) (h : s.memWf) : OutWf (execHerdPlacement s) := by
  unfold execHerdPlacement
  grind [outWf_next, getD_memWf, !State.placeHerd_memWf, State.onLaunch_memWf]

theorem execArbitrationPeriod_memWf (s : State) (h : s.memWf) : OutWf (execArbitrationPeriod s) := by
  grind [execArbitrationPeriod, outWf_next, foldl_memWf, State.onCore_memWf]

theorem execSlotReclaim_memWf (s : State) (h : s.memWf) : OutWf (execSlotReclaim s) := by
  grind [execSlotReclaim, outWf_next, State.onCtx_memWf, State.assignSlot_memWf]

theorem execLaunchDone_memWf (s : State) (h : s.memWf) : OutWf (execLaunchDone s) := by
  grind [execLaunchDone, outWf_next, State.completeLaunch_memWf]

theorem execEscDispatch_memWf (s : State) (h : s.memWf) : OutWf (execEscDispatch s) := by
  unfold execEscDispatch
  grind [outWf_next, getD_memWf, !State.takePayload_memWf, State.onHerd_memWf, State.acquire_memWf, State.seat_memWf]

/-! ### Memory form: the operations of Machine/FabricSys.lean -/

theorem State.clearConfig_memWf (s : State) (l : Nat) (h : s.memWf) : (s.clearConfig l).memWf := by
  grind [State.clearConfig, State.memWf_mk, State.wf_bytes, foldl_memWf, State.assignMxe_memWf]

theorem State.endGraph_memWf (s : State) (l outcome cause : Nat) (h : s.memWf) :
    (s.endGraph l outcome cause).memWf := by
  grind [State.endGraph, State.memWf_mk, State.wf_bytes, State.clearConfig_memWf, State.completeLaunch_memWf,
    State.onLaunch_memWf]

theorem State.settleBids_memWf (s : State) (broad : Bool) (h : s.memWf) : (s.settleBids broad).memWf := by
  grind [State.settleBids, foldl_memWf, State.onLaunch_memWf]

theorem State.admitBid_memWf (s : State) (b : Bid) (h : s.memWf) : (s.admitBid b).memWf := by
  grind [State.admitBid, State.memWf_mk, State.wf_bytes, State.onLaunch_memWf, State.giveMxes_memWf]

theorem State.passOver_memWf (s : State) (bs : List Bid) (rank : Nat) (h : s.memWf) :
    (s.passOver bs rank).memWf := by
  grind [State.passOver, foldl_memWf, State.onLaunch_memWf]

theorem execFabricAdmission_memWf (s : State) (h : s.memWf) : OutWf (execFabricAdmission s) := by
  grind [execFabricAdmission, outWf_next, chkWf_fault, !State.bidImage_memWf, State.endGraph_memWf,
    State.settleBids_memWf, State.passOver_memWf, State.admitBid_memWf]

theorem State.eraseArray_memWf (s : State) (base size : Nat) (h : s.memWf) : (s.eraseArray base size).memWf :=
  filter_wf _ _ h

theorem State.takeMxe_memWf (s : State) (n : Nat) (h : s.memWf) : (s.takeMxe n).memWf := by
  grind [State.takeMxe, State.assignMxe_memWf, State.onMxe_memWf, State.clearBank_memWf, State.eraseArray_memWf]

theorem State.putArray_memWf (s : State) (base : Nat) (a : SavedArray) (h : s.memWf) : (s.putArray base a).memWf :=
  List.foldlRecOn (motive := fun m => Memory.wf m = true) a.cells _ (s.eraseArray_memWf (base + a.off) a.size h)
    (fun m hm c _ => memPutAll_wf [c.2] m _ hm)

theorem State.restoreSite_memWf (s : State) (l n : Nat) (v : Saved) (rel : Nat) (h : s.memWf) :
    (s.restoreSite l n v rel).memWf := by
  grind [State.restoreSite, foldl_memWf, State.onSite_memWf, State.putArray_memWf, State.onMxe_memWf]

theorem State.startRestored_memWf (s : State) (l : Nat) (h : s.memWf) : (s.startRestored l).memWf := by
  grind [State.startRestored, State.memWf_mk, State.wf_bytes, foldl_memWf, State.restoreSite_memWf]

theorem State.loadConfig_memWf (s : State) (l : Nat) (c : Placed) (h : s.memWf) : (s.loadConfig l c).memWf := by
  grind [State.loadConfig, State.memWf_mk, State.wf_bytes, foldl_memWf, State.takeMxe_memWf,
    State.startRestored_memWf, State.onPlaced_memWf]

theorem execConfigLoad_memWf (s : State) (h : s.memWf) : OutWf (execConfigLoad s) := by
  grind [execConfigLoad, outWf_next, State.loadConfig_memWf]

theorem State.loaded_memWf (s : State) (l : Nat) (h : s.memWf) : (s.loaded l).memWf := by
  grind [State.loaded, State.onPlaced_memWf]

theorem execPlaneSlotWritten_memWf (s : State) (h : s.memWf) : OutWf (execPlaneSlotWritten s) := by
  grind [execPlaneSlotWritten, outWf_next, State.onSite_memWf, State.onPlaced_memWf, State.startRestored_memWf,
    State.activate_memWf, State.loaded_memWf]

theorem execSeamFlitReceive_memWf (s : State) (h : s.memWf) : OutWf (execSeamFlitReceive s) := by
  grind [execSeamFlitReceive, outWf_next, optWf_some, State.memWf_mk, State.wf_bytes, !State.arriveCtl_memWf,
    !State.arrivePort_memWf]

theorem State.stopConfig_memWf (s : State) (l cause sev loc : Nat) (tval : Word) (h : s.memWf) :
    (s.stopConfig l cause sev loc tval).memWf := by
  grind [State.stopConfig, foldl_memWf, State.stopSites_memWf, State.onSite_memWf, State.postFault_memWf]

theorem State.seamDown_memWf (s : State) (n o : Nat) (h : s.memWf) : (s.seamDown n o).memWf := by
  grind [State.seamDown, State.memWf_mk, State.wf_bytes, foldl_memWf, State.postFault_memWf, State.stopConfig_memWf]

theorem execSeamResend_memWf (s : State) (h : s.memWf) : OutWf (execSeamResend s) := by
  grind [execSeamResend, outWf_next, State.memWf_mk, State.wf_bytes, State.corrected_memWf, State.seamDown_memWf]

theorem execStall_memWf (s : State) (h : s.memWf) : OutWf (execStall s) := by
  grind [execStall, outWf_next, State.graphFault_memWf]

theorem execGraphCompletion_memWf (s : State) (h : s.memWf) : OutWf (execGraphCompletion s) := by
  grind [execGraphCompletion, outWf_next, State.completeLaunch_memWf, State.endGraph_memWf]

theorem State.rollBack_memWf (s : State) (l : Nat) (h : s.memWf) : (s.rollBack l).memWf := by
  grind [State.rollBack, State.settleBids_memWf, State.onLaunch_memWf, State.clearConfig_memWf]

theorem State.requestDrain_memWf (s : State) (l : Nat) (h : s.memWf) : (s.requestDrain l).memWf := by
  grind [State.requestDrain, State.rollBack_memWf, State.onPlaced_memWf]

theorem execDrainRequest_memWf (s : State) (h : s.memWf) : OutWf (execDrainRequest s) := by
  grind [execDrainRequest, outWf_next, State.requestDrain_memWf]

theorem State.putWords_memWf (s : State) (pa : Nat) (l : List Nat) (h : s.memWf) : (s.putWords pa l).memWf := by
  induction l generalizing s pa with
  | nil => exact h
  | cons x xs ih =>
    unfold State.putWords
    grind [State.agentWrite_memWf]

theorem State.saveConfig_memWf (s : State) (l : Nat) (c : Placed) (region : Nat) (h : s.memWf) :
    (s.saveConfig l c region).memWf := by
  grind [State.saveConfig, State.memWf_mk, State.wf_bytes, State.putWords_memWf, State.clearConfig_memWf,
    State.settleBids_memWf, State.onLaunch_memWf]

theorem execDrained_memWf (s : State) (h : s.memWf) : OutWf (execDrained s) := by
  grind [execDrained, outWf_next, State.saveConfig_memWf]

theorem execDrainTimeout_memWf (s : State) (h : s.memWf) : OutWf (execDrainTimeout s) := by
  grind [execDrainTimeout, outWf_next, State.stopConfig_memWf]

/-! ### Memory form: the operations of Machine/Walker.lean -/

theorem State.walkDetect_memWf (s : State) (w : Walk) (ws : List Nat) (h : s.memWf) : (s.walkDetect w ws).memWf := by
  grind [State.walkDetect, foldl_memWf, State.readCopy_memWf, State.detectAll_memWf]

theorem State.writeHdr_memWf (s : State) (w : Walk) (hpa h : Nat) (hs : s.memWf) : (s.writeHdr w hpa h).memWf := by
  grind [State.writeHdr, State.agentWrite_memWf, State.onCore_memWf, State.drainWordL1_memWf,
    State.drainWordSlice_memWf]

theorem State.onWalk_memWf (s : State) (h id : Nat) (f : Walk → Walk) (hs : s.memWf) : (s.onWalk h id f).memWf :=
  hs

theorem State.pushSpan_memWf (s : State) (w : Walk) (rs : List (Nat × Nat)) (h : s.memWf) :
    (s.pushSpan w rs).memWf := by
  grind [State.pushSpan, foldl_memWf, State.pushWord_memWf]

theorem State.pushHeader_memWf (s : State) (w : Walk) (o : Nat) (h : s.memWf) : (s.pushHeader w o).memWf := by
  grind [State.pushHeader, State.pushSpan_memWf]

theorem State.flushOwner_memWf (s : State) (w : Walk) (rs : List (Nat × Nat)) (h : s.memWf) :
    (s.flushOwner w rs).memWf := by
  grind [State.flushOwner, foldl_memWf, State.writeBack_memWf]

theorem State.flushHerd_memWf (s : State) (h : Nat) (rs : List (Nat × Nat)) (hs : s.memWf) :
    (s.flushHerd h rs).memWf := by
  grind [State.flushHerd, foldl_memWf, State.onHerd_memWf, State.homeStore_memWf]

theorem State.spillStack_memWf (s : State) (w : Walk) (n : Nat) (h : s.memWf) : SpilledWf (s.spillStack w n) := by
  induction n generalizing s w with
  | zero => exact spilledWf_ok.2 h
  | succ m ih =>
    unfold State.spillStack
    grind [spilledWf_ok, spilledWf_full, spilledWf_wait, spilledWf_fault, State.agentWrites_memWf]

theorem State.walkRecord_memWf (s : State) (h : Nat) (w : Walk) (k : MemKind) (va o : Nat) (hs : s.memWf) :
    (s.walkRecord h w k va o).memWf :=
  hs

theorem State.unmark_memWf (s : State) (w : Walk) (h : s.memWf) : (s.unmark w).memWf := by
  unfold State.unmark
  have hwrite := @State.writeHdr_memWf
  generalize @State.writeHdr = write at hwrite ⊢
  grind [State.memWf_mk, State.wf_bytes]

theorem State.freeWalks_memWf (s : State) (ids : List Nat) (h : s.memWf) : (s.freeWalks ids).memWf :=
  h

theorem State.walkDone_memWf (s : State) (w : Walk) (h : s.memWf) : (s.walkDone w).memWf :=
  h

theorem State.walkLost_memWf (s : State) (w : Walk) (h : s.memWf) : (s.walkLost w).memWf := by
  grind [State.walkLost, State.memWf_mk, State.wf_bytes, State.onCtx_memWf]

theorem State.stopWalk_memWf (s : State) (h : Nat) (w : Walk) (cause o : Nat) (hs : s.memWf) :
    (s.stopWalk h w cause o).memWf := by
  grind [State.stopWalk, State.memWf_mk, State.wf_bytes, State.unmark_memWf, State.onHerd_memWf, State.walkLost_memWf,
    State.onSite_memWf, State.graphFault_memWf, State.onCtx_memWf, State.savedFault_memWf]

theorem State.walkFault_memWf (s : State) (h : Nat) (w : Walk) (o : Nat) (last : Bool) (k : MemKind) (va : Nat)
    (hs : s.memWf) :
    (s.walkFault h w o last k va).memWf := by
  grind [State.walkFault, State.walkRecord_memWf, State.onWalk_memWf]

theorem State.markObj_memWf (s : State) (w : Walk) (hpa hdr : Nat) (h : s.memWf) : (s.markObj w hpa hdr).memWf := by
  unfold State.markObj
  have hwrite := @State.writeHdr_memWf
  generalize @State.writeHdr = write at hwrite ⊢
  grind [State.memWf_mk, State.wf_bytes]

theorem State.scanObj_memWf (s : State) (h : Nat) (w : Walk) (o hpa hdr : Nat) (last force : Bool) (hs : s.memWf) :
    OptWf (s.scanObj h w o hpa hdr last force) := by
  unfold State.scanObj
  split
  · exact optWf_some.2 (s.walkFault_memWf _ _ _ _ _ _ hs)
  next body shadow _ =>
    refine ite_both (optWf_none) ?_
    generalize hs0 : (State.walkDetect _ w _) = s0
    replace hs0 : s0.memWf := hs0 ▸ State.walkDetect_memWf _ _ _ (s.pushSpan_memWf _ _ hs)
    refine ite_both (optWf_some.2 (s0.walkFault_memWf _ _ _ _ _ _ hs0)) ?_
    extract_lets s1 s2 s3 own s4 kids w1
    have hs2 : s2.memWf := ite_both (s0.flushOwner_memWf _ _ hs0) hs0
    have hs3 : s3.memWf := ite_both (s2.flushHerd_memWf _ _ hs2) hs2
    have hs4 : s4.memWf :=
      ite_both (State.drainWordSlice_memWf _ _ _ (s3.flushHerd_memWf _ _ hs3)) hs3
    have hsp := s4.spillStack_memWf w1 (w1.queue.length / 64 + 1) hs4
    split
    · exact optWf_some.2 (s4.stopWalk_memWf _ _ _ _ hs4)
    · exact optWf_none
    · exact optWf_some.2 (State.walkRecord_memWf _ _ _ _ _ _ (s4.onWalk_memWf _ _ _ hs4))
    next t w2 heq =>
      have ht : t.memWf := spilledWf_ok.1 (heq ▸ hsp)
      refine optWf_some.2 (State.onWalk_memWf _ _ _ _ (ite_both ht ?_))
      exact State.writeHdr_memWf _ _ _ _ ht

theorem State.takeObj_memWf (s : State) (h : Nat) (w0 : Walk) (only : Bool) (hs : s.memWf) :
    OptWf (s.takeObj h w0 only) := by
  unfold State.takeObj
  have hwrite := @State.writeHdr_memWf
  generalize @State.writeHdr = write at hwrite ⊢
  grind [optWf_some, optWf_none, State.memWf_mk, State.wf_bytes, !State.scanObj_memWf, State.pushWrites_memWf,
    State.walkDetect_memWf, State.walkRecord_memWf, State.pushHeader_memWf, State.stopWalk_memWf,
    State.walkFault_memWf, State.onWalk_memWf, State.markObj_memWf]

theorem State.walkRun_memWf (s : State) (h : Nat) (w : Walk) (only : Bool) (hs : s.memWf) :
    OptWf (s.walkRun h w only) := by
  grind [State.walkRun, optWf_some, optWf_none, !State.takeObj_memWf, State.walkDone_memWf, State.onHerd_memWf]

theorem State.walkStep_memWf (s : State) (h : s.memWf) : (s.walkStep).memWf := by
  unfold State.walkStep
  grind [getD_memWf, findSome_memWf, !State.walkRun_memWf]

theorem execUpdateAccept_memWf (s : State) (h : s.memWf) : OutWf (execUpdateAccept s) := by
  grind [execUpdateAccept, outWf_next, State.tryLeave_memWf, State.flightStep_memWf]

theorem execUpdateDrain_memWf (s : State) (h : s.memWf) : OutWf (execUpdateDrain s) := by
  grind [execUpdateDrain, outWf_next, State.drainSliceOne_memWf, State.drainL1One_memWf]

theorem State.fillTlb_memWf (s : State) (t : TlbEntry) (h : s.memWf) : (s.fillTlb t).memWf :=
  h

theorem execTlbWalkStep_memWf (s : State) (h : s.memWf) : OutWf (execTlbWalkStep s) := by
  grind [execTlbWalkStep, outWf_next, State.memWf_mk, State.wf_bytes, State.detect_memWf, State.fillTlb_memWf]

theorem execPatrolRead_memWf (s : State) (h : s.memWf) : OutWf (execPatrolRead s) := by
  generalize hf : @execPatrolRead = f
  delta execPatrolRead at hf
  subst hf
  beta_reduce
  generalize @State.patrolLine = line
  extract_lets k from_ to_
  split
  · exact outWf_next.2 (State.detectAll_memWf _ _ h)
  · exact outWf_next.2 h

/-! ### Memory form: the operations of Machine/Resolve.lean -/

theorem State.noteIndex_memWf (s : State) (h index : Nat) (hs : s.memWf) : (s.noteIndex h index).memWf := by
  grind [State.noteIndex, State.onCtx_memWf, State.putSlotWord_memWf, State.onThread_memWf]

theorem State.writeFault_memWf (s : State) (r : FaultRec) (h : s.memWf) : (s.writeFault r).memWf := by
  grind [State.writeFault, State.memWf_mk, State.wf_bytes, State.agentWrites_memWf, State.setCreg_memWf,
    State.noteIndex_memWf]

theorem execFaultRecordPost_memWf (s : State) (h : s.memWf) : OutWf (execFaultRecordPost s) := by
  grind [execFaultRecordPost, outWf_next, State.memWf_mk, State.wf_bytes, State.setCreg_memWf, State.writeFault_memWf]

theorem State.writeHead_memWf (s : State) (v : Nat) (h : s.memWf) : (s.writeHead v).memWf := by
  unfold State.writeHead
  extract_lets
  split
  · exact State.setCreg_memWf _ _ _ h
  · exact h

theorem State.trapRetry_memWf (s : State) (h : Nat) (hs : s.memWf) : (s.trapRetry h).memWf := by
  grind [State.trapRetry, State.onCtx_memWf, State.putSlotWord_memWf, State.endSavedWait_memWf]

theorem State.freeFailed_memWf (s : State) (core ctx : Nat) (again : Bool) (h : s.memWf) :
    (s.freeFailed core ctx again).memWf :=
  h

theorem State.accessRetry_memWf (s : State) (h : Nat) (hs : s.memWf) : (s.accessRetry h).memWf := by
  grind [State.accessRetry, State.freeFailed_memWf, State.onCtx_memWf, State.endSavedWait_memWf]

theorem State.accessAbort_memWf (s : State) (h : Nat) (r : FaultRec) (hs : s.memWf) : (s.accessAbort h r).memWf := by
  grind [State.accessAbort, State.onCtx_memWf, State.freeFailed_memWf, State.endSavedWait_memWf,
    State.savedFault_memWf, State.onThread_memWf]

theorem State.abortThread_memWf (s : State) (h cause : Nat) (hs : s.memWf) : (s.abortThread h cause).memWf := by
  grind [State.abortThread, State.onThread_memWf, State.onCtx_memWf, State.freeFailed_memWf, State.retire_memWf,
    State.endSavedWait_memWf]

theorem State.onCommand_memWf (s : State) (id : Nat) (f : Command → Command) (h : s.memWf) :
    (s.onCommand id f).memWf :=
  h

theorem State.unblockMsg_memWf (s : State) (k : Nat) (h : s.memWf) : (s.unblockMsg k).memWf :=
  h

theorem State.reload_memWf (s : State) (l : Nat) (h : s.memWf) : (s.reload l).memWf := by
  grind [State.reload, foldl_memWf, State.onSite_memWf, State.onPlaced_memWf]

theorem State.bidAgain_memWf (s : State) (l : Nat) (ns : List Nat) (h : s.memWf) : (s.bidAgain l ns).memWf := by
  grind [State.bidAgain, State.memWf_mk, State.wf_bytes, State.rollBack_memWf]

theorem State.fabricRetry_memWf (s : State) (l n cause : Nat) (h : s.memWf) : (s.fabricRetry l n cause).memWf := by
  grind [State.fabricRetry, State.bidAgain_memWf, State.replaySeq_memWf, State.onSite_memWf]

theorem State.retryAgent_memWf (s : State) (r : FaultRec) (h : s.memWf) : (s.retryAgent r).memWf := by
  grind [State.retryAgent, State.memWf_mk, State.wf_bytes, State.trapRetry_memWf, State.accessRetry_memWf,
    State.onCommand_memWf, State.onMxe_memWf, State.onWalk_memWf, State.fabricRetry_memWf, State.reload_memWf,
    State.unblockMsg_memWf]

theorem State.abortAgent_memWf (s : State) (r : FaultRec) (h : s.memWf) : (s.abortAgent r).memWf := by
  grind [State.abortAgent, State.memWf_mk, State.wf_bytes, State.abortThread_memWf, State.accessAbort_memWf,
    State.onCommand_memWf, State.onMxe_memWf, State.stopWalk_memWf, State.endGraph_memWf, State.deadMsg_memWf]

theorem State.resolve_memWf (s : State) (index : Nat) (abort : Bool) (h : s.memWf) :
    (s.resolve index abort).memWf := by
  grind [State.resolve, State.memWf_mk, State.wf_bytes, State.abortAgent_memWf, State.retryAgent_memWf]

theorem State.ctxSwitchOut_memWf (s : State) (core ctx : Nat) (h : s.memWf) : (s.ctxSwitchOut core ctx).memWf := by
  grind [State.ctxSwitchOut, State.onCtx_memWf]

theorem State.ctxAbort_memWf (s : State) (core ctx : Nat) (h : s.memWf) : (s.ctxAbort core ctx).memWf := by
  grind [State.ctxAbort, State.abortThread_memWf]

theorem State.ctxForward_memWf (s : State) (core ctx : Nat) (h : s.memWf) : (s.ctxForward core ctx).memWf := by
  grind [State.ctxForward, State.onCtx_memWf, State.postFault_memWf]

theorem execGctlDrain_memWf (s : State) (h : s.memWf) : OutWf (execGctlDrain s) := by
  grind [execGctlDrain, outWf_next, State.requestDrain_memWf]

theorem execGctlAbort_memWf (s : State) (h : s.memWf) : OutWf (execGctlAbort s) := by
  grind [execGctlAbort, outWf_next, State.endGraph_memWf]

theorem State.windowStore_memWf (s : State) (core ctx off : Nat) (v : Word) (h : s.memWf) :
    (s.windowStore core ctx off v).memWf := by
  grind [State.windowStore, State.onCtx_memWf, State.settleWindow_memWf]

theorem State.convert_memWf (s : State) (off base n v : Nat) (h : s.memWf) : (s.convert off base n v).memWf :=
  h

theorem State.writeCtile_memWf (s : State) (core v : Nat) (h : s.memWf) : (s.writeCtile core v).memWf :=
  h

theorem State.writeMtile_memWf (s : State) (m v : Nat) (h : s.memWf) : (s.writeMtile m v).memWf :=
  h

theorem execCtileWrite_memWf (s : State) (h : s.memWf) : OutWf (execCtileWrite s) := by
  grind [execCtileWrite, outWf_next, State.writeCtile_memWf]

theorem execMtileWrite_memWf (s : State) (h : s.memWf) : OutWf (execMtileWrite s) := by
  grind [execMtileWrite, outWf_next, State.writeMtile_memWf]

theorem State.poisonTile_memWf (s : State) (t : Nat) (h : s.memWf) : (s.poisonTile t).memWf :=
  h

theorem State.convertSegment_memWf (s : State) (a : Nat) (toTile : Bool) (h : s.memWf) :
    (s.convertSegment a toTile).memWf := by
  grind [State.convertSegment, State.memWf_mk, State.wf_bytes, foldl_memWf, State.detectSpan_memWf,
    State.checkTile_memWf, State.postFault_memWf, State.poisonTile_memWf]

theorem execSegmentConversionDone_memWf (s : State) (h : s.memWf) : OutWf (execSegmentConversionDone s) := by
  grind [execSegmentConversionDone, outWf_next, State.memWf_mk, State.wf_bytes, State.convertSegment_memWf]

theorem State.writeClock_memWf (s : State) (v : Nat) (h : s.memWf) : (s.writeClock v).memWf := by
  grind [State.writeClock, State.setCreg_memWf]

theorem State.stageEntry_memWf (s : State) (v : Nat) (h : s.memWf) : (s.stageEntry v).memWf := by
  grind [State.stageEntry, State.memWf_mk, State.wf_bytes]

theorem State.broadcast_memWf (s : State) (h : s.memWf) : (s.broadcast).memWf := by
  grind [State.broadcast, State.memWf_mk, State.wf_bytes]

theorem execTableBroadcastAck_memWf (s : State) (h : s.memWf) : OutWf (execTableBroadcastAck s) := by
  grind [execTableBroadcastAck, outWf_next, State.memWf_mk, State.wf_bytes, foldl_memWf, State.onHerd_memWf]

theorem State.writeQueueReg_memWf (s : State) (q off v : Nat) (h : s.memWf) : (s.writeQueueReg q off v).memWf := by
  unfold State.writeQueueReg
  grind [State.onQueue_memWf, State.writeTail_memWf]

theorem State.writeFaultReg_memWf (s : State) (off v : Nat) (h : s.memWf) : (s.writeFaultReg off v).memWf := by
  unfold State.writeFaultReg
  have hwrite := @State.writeHead_memWf
  generalize @State.writeHead = write at hwrite ⊢
  grind [State.setCreg_memWf, State.resolve_memWf]

theorem State.writeSaveReg_memWf (s : State) (off v : Nat) (h : s.memWf) : (s.writeSaveReg off v).memWf := by
  grind [State.writeSaveReg, State.setCreg_memWf]

theorem State.writeCtxctl_memWf (s : State) (core ctx v : Nat) (h : s.memWf) : (s.writeCtxctl core ctx v).memWf := by
  grind [State.writeCtxctl, State.ctxSwitchOut_memWf, State.ctxAbort_memWf, State.ctxForward_memWf]

theorem State.writeGctl_memWf (s : State) (v : Nat) (h : s.memWf) : (s.writeGctl v).memWf := by
  grind [State.writeGctl, State.requestDrain_memWf, State.endGraph_memWf]

theorem State.ringDoor_memWf (s : State) (v : Nat) (h : s.memWf) : (s.ringDoor v).memWf := by
  grind [State.ringDoor, State.memWf_mk, State.wf_bytes]

theorem State.writeControl_memWf (s : State) (off v : Nat) (h : s.memWf) : (s.writeControl off v).memWf := by
  unfold State.writeControl
  refine ite_both (ite_both (s.stageEntry_memWf _ h) h) ?_
  refine ite_both (ite_both (s.broadcast_memWf h) h) ?_
  refine ite_both (s.writeQueueReg_memWf _ _ _ h) ?_
  refine ite_both (s.writeFaultReg_memWf _ _ h) ?_
  refine ite_both (s.writeSaveReg_memWf _ _ h) ?_
  refine ite_both (s.setCreg_memWf _ _ h) ?_
  refine ite_both (s.setCreg_memWf _ _ h) ?_
  refine ite_both (s.setCreg_memWf _ _ h) ?_
  refine ite_both (s.ringDoor_memWf _ h) ?_
  refine ite_both (s.writeGctl_memWf _ h) ?_
  refine ite_both (s.writeClock_memWf _ h) ?_
  refine ite_both (s.writeCtile_memWf _ _ h) ?_
  refine ite_both (s.writeMtile_memWf _ _ h) ?_
  exact ite_both (s.writeCtxctl_memWf _ _ _ h) h

/-! ### Memory form: the operations of Machine/Device.lean -/

theorem State.answer_memWf (s : State) (req : Option Nat) (status : Nat) (h : s.memWf) :
    (s.answer req status).memWf := by
  unfold State.answer
  grind [State.memWf_mk, State.wf_bytes, State.homeStore_memWf]

theorem State.serve_memWf (s : State) (code k : Nat) (f : List Nat → Option Nat → Out) (h : s.memWf)
    (hf : ∀ s' u', OutWf (f s' u')) :
    OutWf (s.serve code k f) := by
  grind [State.serve, outWf_next, State.answer_memWf]

theorem State.request_memWf (s : State) (req : Option Nat) (ok : Bool) (f : State → State) (h : s.memWf)
    (hf : ∀ s, s.memWf → (f s).memWf) :
    OutWf (s.request req ok f) := by
  grind [State.request, outWf_next, State.answer_memWf]

theorem State.dueAt_memWf (s : State) (d : Due) (h : s.memWf) : (s.dueAt d).memWf :=
  h

theorem State.requestDue_memWf (s : State) (req : Option Nat) (ok : Bool) (code unit : Nat) (h : s.memWf) :
    OutWf (s.requestDue req ok code unit) := by
  grind [State.requestDue, outWf_next, State.dueAt_memWf, State.answer_memWf]

theorem execRetireCore_memWf (s : State) (h : s.memWf) : OutWf (execRetireCore s) := by
  grind [execRetireCore, State.serve_memWf, State.requestDue_memWf]

theorem execRetireHerd_memWf (s : State) (h : s.memWf) : OutWf (execRetireHerd s) := by
  grind [execRetireHerd, State.serve_memWf, State.requestDue_memWf]

theorem execRetireSite_memWf (s : State) (h : s.memWf) : OutWf (execRetireSite s) := by
  grind [execRetireSite, State.serve_memWf, State.requestDue_memWf]

theorem execRetireDomain_memWf (s : State) (h : s.memWf) : OutWf (execRetireDomain s) := by
  grind [execRetireDomain, State.serve_memWf, State.requestDue_memWf]

theorem State.deadSpare_memWf (s : State) (i : Nat) (h : s.memWf) : (s.deadSpare i).memWf :=
  h

theorem State.logUnits_memWf (s : State) (us : List Nat) (h : s.memWf) : (s.logUnits us).memWf :=
  h

theorem State.setDomBit_memWf (s : State) (k b : Nat) (h : s.memWf) : (s.setDomBit k b).memWf :=
  h

theorem State.retire1_memWf (s : State) (n : Nat) (h : s.memWf) : (s.retire1 n).memWf := by
  grind [State.retire1, State.memWf_mk, State.wf_bytes, State.logUnits_memWf, State.setDomBit_memWf]

theorem State.substituteSite_memWf (s : State) (n : Nat) (h : s.memWf) : (s.substituteSite n).memWf := by
  grind [State.substituteSite, State.memWf_mk, State.wf_bytes, State.deadSpare_memWf, State.retire1_memWf]

theorem State.killSpares_memWf (s : State) (k : Nat) (h : s.memWf) : (s.killSpares k).memWf := by
  grind [State.killSpares, foldl_memWf, State.logUnits_memWf, State.deadSpare_memWf]

theorem State.retireDomain_memWf (s : State) (k g : Nat) (h : s.memWf) : (s.retireDomain k g).memWf := by
  grind [State.retireDomain, foldl_memWf, State.retire1_memWf, State.killSpares_memWf]

theorem State.stopWhere_memWf (s : State) (cause : Nat) (ns : List Nat) (p : Placed → Nat → Bool) (h : s.memWf) :
    (s.stopWhere cause ns p).memWf := by
  grind [State.stopWhere, foldl_memWf, State.stopConfig_memWf]

theorem State.railRecord_memWf (s : State) (cause sev k g : Nat) (h : s.memWf) :
    (s.railRecord cause sev k g).memWf :=
  h

theorem State.elementRail_memWf (s : State) (k g : Nat) (h : s.memWf) : (s.elementRail k g).memWf := by
  grind [State.elementRail, State.retireDomain_memWf, State.setDomBit_memWf, State.railRecord_memWf,
    State.stopWhere_memWf]

theorem State.failSlice_memWf (s : State) (k : Nat) (h : s.memWf) : (s.failSlice k).memWf := by
  grind [State.failSlice, State.memWf_mk, State.wf_bytes, foldl_memWf, State.logUnits_memWf, State.deadSpare_memWf,
    State.postFault_memWf]

theorem State.moveSlice_memWf (s : State) (k : Nat) (h : s.memWf) : (s.moveSlice k).memWf := by
  grind [State.moveSlice, State.memWf_mk, State.wf_bytes, State.failSlice_memWf, State.dueAt_memWf,
    State.postFault_memWf]

theorem State.putSlice_memWf (s : State) (k slot : Nat) (h : s.memWf) : (s.putSlice k slot).memWf :=
  h

theorem State.routingRail_memWf (s : State) (k g : Nat) (h : s.memWf) : (s.routingRail k g).memWf := by
  grind [State.routingRail, State.memWf_mk, State.wf_bytes, foldl_memWf, State.stopConfig_memWf,
    State.retireDomain_memWf, State.setDomBit_memWf, State.retire1_memWf, State.railRecord_memWf,
    State.moveSlice_memWf]

theorem execElementRailFailure_memWf (s : State) (h : s.memWf) : OutWf (execElementRailFailure s) := by
  grind [execElementRailFailure, outWf_next, State.elementRail_memWf]

theorem execRoutingRailFailure_memWf (s : State) (h : s.memWf) : OutWf (execRoutingRailFailure s) := by
  grind [execRoutingRailFailure, outWf_next, State.routingRail_memWf]

theorem execRegulatorPhase_memWf (s : State) (h : s.memWf) : OutWf (execRegulatorPhase s) := by
  grind [execRegulatorPhase, outWf_next, State.memWf_mk, State.wf_bytes, State.railRecord_memWf,
    State.routingRail_memWf, State.elementRail_memWf]

theorem execTlbSliceMove_memWf (s : State) (h : s.memWf) : OutWf (execTlbSliceMove s) := by
  grind [execTlbSliceMove, outWf_next, State.moveSlice_memWf]

theorem execStripeQuiescentWindow_memWf (s : State) (h : s.memWf) : OutWf (execStripeQuiescentWindow s) := by
  grind [execStripeQuiescentWindow, outWf_next, State.memWf_mk, State.wf_bytes, foldl_memWf,
    State.substituteSite_memWf, State.logUnits_memWf, State.putSlice_memWf, State.retireDomain_memWf,
    State.answer_memWf]

theorem State.replaceCore_memWf (s : State) (n : Nat) (h : s.memWf) : (s.replaceCore n).memWf := by
  grind [State.replaceCore, State.memWf_mk, State.wf_bytes, State.emptyL1_memWf]

theorem State.rebind_memWf (s : State) (h : Nat) (hs : s.memWf) : (s.rebind h).memWf := by
  grind [State.rebind, State.memWf_mk, State.wf_bytes, foldl_memWf, State.onHerd_memWf]

theorem State.retireHerd_memWf (s : State) (h cause : Nat) (hs : s.memWf) : (s.retireHerd h cause).memWf := by
  grind [State.retireHerd, State.memWf_mk, State.wf_bytes, foldl_memWf, State.onHerd_memWf, State.emptySlice_memWf,
    State.onLaunch_memWf, State.abortThread_memWf, State.rebind_memWf]

theorem State.applyDue_memWf (s : State) (h : Nat) (d : Due) (hs : s.memWf) : (s.applyDue h d).memWf := by
  grind [State.applyDue, State.replaceCore_memWf, State.retireHerd_memWf, State.answer_memWf]

theorem execHerdQuiescentWindow_memWf (s : State) (h : s.memWf) : OutWf (execHerdQuiescentWindow s) := by
  grind [execHerdQuiescentWindow, outWf_next, State.memWf_mk, State.wf_bytes, foldl_memWf, State.onHerd_memWf,
    State.onCtx_memWf, State.applyDue_memWf]

theorem execNiFail_memWf (s : State) (h : s.memWf) : OutWf (execNiFail s) := by
  grind [execNiFail, outWf_next, State.postFault_memWf, State.dropMsg_memWf, State.dueAt_memWf]

theorem execRetireChannel_memWf (s : State) (h : s.memWf) : OutWf (execRetireChannel s) := by
  grind [execRetireChannel, State.memWf_mk, State.wf_bytes, State.serve_memWf, State.request_memWf]

theorem execChannelSpareCopy_memWf (s : State) (h : s.memWf) : OutWf (execChannelSpareCopy s) := by
  grind [execChannelSpareCopy, outWf_next, State.memWf_mk, State.wf_bytes, State.detectAll_memWf]

theorem execTableEntryError_memWf (s : State) (h : s.memWf) : OutWf (execTableEntryError s) := by
  grind [execTableEntryError, outWf_next, State.memWf_mk, State.wf_bytes, State.corrected_memWf,
    State.postFault_memWf]

theorem State.startCore_memWf (s : State) (cc mode : Nat) (h : s.memWf) : (s.startCore cc mode).memWf :=
  h

theorem execControlCoreFailure_memWf (s : State) (h : s.memWf) : OutWf (execControlCoreFailure s) := by
  grind [execControlCoreFailure, outWf_next, State.memWf_mk, State.wf_bytes, State.onCtx_memWf, State.postFault_memWf,
    State.startCore_memWf]

theorem execAttest_memWf (s : State) (h : s.memWf) : OutWf (execAttest s) := by
  grind [execAttest, State.serve_memWf, State.request_memWf, State.putWords_memWf]

theorem State.onPort_memWf (s : State) (p : Nat) (f : LinkPort → LinkPort) (h : s.memWf) : (s.onPort p f).memWf :=
  h

theorem execLinkRoute_memWf (s : State) (h : s.memWf) : OutWf (execLinkRoute s) := by
  grind [execLinkRoute, State.memWf_mk, State.wf_bytes, State.serve_memWf, State.request_memWf]

theorem execLaneSpare_memWf (s : State) (h : s.memWf) : OutWf (execLaneSpare s) := by
  grind [execLaneSpare, State.serve_memWf, State.request_memWf, State.onPort_memWf]

theorem execLaneFailure_memWf (s : State) (h : s.memWf) : OutWf (execLaneFailure s) := by
  grind [execLaneFailure, outWf_next, State.memWf_mk, State.wf_bytes, State.postFault_memWf, State.onPort_memWf,
    State.corrected_memWf]

theorem execLinkFlitReceive_memWf (s : State) (h : s.memWf) : OutWf (execLinkFlitReceive s) := by
  grind [execLinkFlitReceive, outWf_next, State.onPort_memWf]

theorem State.failover_memWf (s : State) (k : Nat) (h : s.memWf) : (s.failover k).memWf := by
  grind [State.failover, foldl_memWf, State.onPort_memWf]

theorem execLinkReplay_memWf (s : State) (h : s.memWf) : OutWf (execLinkReplay s) := by
  grind [execLinkReplay, outWf_next, State.corrected_memWf, State.onPort_memWf, State.postFault_memWf,
    State.failover_memWf]

theorem execLinkTraining_memWf (s : State) (h : s.memWf) : OutWf (execLinkTraining s) := by
  grind [execLinkTraining, outWf_next, State.onPort_memWf]

theorem execHostAccess_memWf (s : State) (h : s.memWf) : OutWf (execHostAccess s) := by
  grind [execHostAccess, outWf_next, State.memWf_mk, State.wf_bytes, State.writeControl_memWf, State.homeRead_memWf,
    State.homeStore_memWf]

theorem State.flipArray_memWf (s : State) (array at_ : Nat) (mask : Word) (h : s.memWf) :
    (s.flipArray array at_ mask).memWf := by
  unfold State.flipArray
  obtain ⟨region, he⟩ : ∃ f, f = State.region := ⟨_, rfl⟩
  rw [← he]
  extract_lets n hd w flips copy new
  have hf : ∀ a b, (flips a b).memWf := by
    intro a b
    exact ite_both h h
  split
  · exact hf _ _
  · exact h
  · exact hf _ _
  · exact ite_both (hf _ _) h
  · exact h
  · exact hf _ _
  · split
    · exact h
    · exact h
  · exact hf _ _
  · exact h

theorem execSoftError_memWf (s : State) (h : s.memWf) : OutWf (execSoftError s) := by
  unfold execSoftError
  obtain ⟨region, he⟩ : ∃ f, f = State.region := ⟨_, rfl⟩
  rw [← he]
  extract_lets pa mask flip new mem latent
  have hf : ∀ t : State, t.memWf → (flip t).memWf := fun t ht => memPutAll_wf _ _ _ ht
  clear_value flip
  split
  · exact outWf_next.2 (State.flipArray_memWf _ _ _ _ h)
  · split
    · exact outWf_next.2 (hf s h)
    · exact outWf_next.2 h
    · exact outWf_next.2 h
    · exact outWf_next.2 h
    · exact outWf_next.2 h
    · split
      · exact outWf_next.2 (hf _ h)
      · exact outWf_next.2 h

theorem State.powerOff_memWf (s : State) : s.powerOff.memWf := State.reset_memWf

theorem execInputUndervoltage_memWf (s : State) : OutWf (execInputUndervoltage s) := by
  grind [execInputUndervoltage, outWf_next, State.memWf_mk, State.wf_bytes, State.powerOff_memWf]

theorem execThermalStep_memWf (s : State) (h : s.memWf) : OutWf (execThermalStep s) := by
  grind [execThermalStep, outWf_next, State.memWf_mk, State.wf_bytes, State.postFault_memWf]

theorem execThermalTrip_memWf (s : State) (h : s.memWf) : OutWf (execThermalTrip s) := by
  grind [execThermalTrip, outWf_next, State.memWf_mk, State.wf_bytes, State.postFault_memWf]

theorem execThermalPowerRemoval_memWf (s : State) (h : s.memWf) : OutWf (execThermalPowerRemoval s) := by
  grind [execThermalPowerRemoval, outWf_next, State.powerOff_memWf]

theorem execChainUnitTimeout_memWf (s : State) (h : s.memWf) : OutWf (execChainUnitTimeout s) := by
  grind [execChainUnitTimeout, outWf_next, State.memWf_mk, State.wf_bytes]

theorem State.placeSpares_memWf (s : State) (h : s.memWf) : (s.placeSpares).memWf := by
  grind [State.placeSpares, State.memWf_mk, State.wf_bytes, foldl_memWf, State.substituteSite_memWf]

theorem State.startControl_memWf (s : State) (h : s.memWf) : (s.startControl).memWf := by
  grind [State.startControl, State.memWf_mk, State.wf_bytes, foldl_memWf, State.startCore_memWf]

theorem State.bootAll_memWf (s : State) (h : s.memWf) : (s.bootAll).memWf := by
  grind [State.bootAll, State.memWf_mk, State.wf_bytes, foldl_memWf, State.setCreg_memWf, State.placeSpares_memWf,
    State.retireDomain_memWf, State.putSlice_memWf, State.onHerd_memWf, State.startControl_memWf]

theorem State.bootFails_memWf (s : State) (stage cause : Nat) (h : s.memWf) : (s.bootFails stage cause).memWf :=
  h

theorem execColdBoot_memWf (s : State) (h : s.memWf) : OutWf (execColdBoot s) := by
  unfold execColdBoot
  generalize hr : ({ State.reset with dev := s.dev, agenda := s.agenda, tick := s.tick, act := s.act } : State) = r
  have hw : r.memWf := by subst hr; exact State.reset_memWf
  grind [outWf_next, State.bootFails_memWf, State.bootAll_memWf]

/-! ### Memory form: the operations of Machine/Scalar.lean -/

theorem State.divide_memWf (s : State) (d a b : RegNo) (f : Word → Word → Word) (h : s.memWf) :
    (s.divide d a b f).memWf := by
  grind [State.divide, State.trapMe_memWf, State.long_memWf]

theorem execCmp_memWf (c : Cond) (k : Combine) (pd : PredNo) (a b : RegNo) (s : State) (h : s.memWf) :
    OutWf (execCmp c k pd a b s) := by
  grind [execCmp, outWf_next, State.trapMe_memWf, State.shortP_memWf]

/-! ### Memory form: the operations of Machine/Dispatch.lean -/

/-- Every instruction keeps memory canonical: instructions with one shared operation go by its lemma, the others by
their own; the first group changes registers, queues or records only. -/
theorem exec_memWf (i : Instr) (s : State) (h : s.memWf) : OutWf (exec i s) := by
  cases i with
  | nop | nopA | blk | call | jr | callr | ret | add | sub | and | or | xor | andn | orn | sll | srl | sra | rol
    | ror | mul | mulh | mulhu | min | max | minu | maxu | clz | ctz | popc | bswap | addw | subw | mulw | sllw
    | srlw | sraw | mov | hash64 | crc32c | addi | andi | ori | xori | slli | srli | srai | roli | rori | sllwi
    | srlwi | srawi | li | liu | scadd | bfx | bfi | ppack | punpack | sel | vminu | vmaxu | vadds | vsubs
    | vaddus | vsubus | vavg | vmulh | vand | vor | vxor | vandn | vshl | vshr | vsar | vabs | vneg | vpopc
    | vclz | vcmp | vsel | vscan | vperm | vbcast | vbcastG | vmovg | vins | vcmprC | vcmprE | vmaskAnd
    | vmaskOr | vmaskXor | vmaskAndn | vmaskNot | vmaskFromg | vmaskTog | vmaskPop | vmaskFirst | timerExpiry
    | placementTimeout | tableEntryRefetch =>
    exact outWf_next.2 h
  | cpy | gath | gathOwn | scat | scatAdd | xchg =>
    exact s.engineInstr_memWf _ _ _ _ _ _ h
  | bar | barArr | barWait =>
    exact outWf_next.2 (s.barrier_memWf _ _ _ _ h)
  | couple | coupleRe =>
    exact outWf_next.2 (s.coupleAt_memWf _ _ _ h)
  | tlbinvAll =>
    exact outWf_next.2 (s.tlbInvalidate_memWf _ _ _ h)
  | div | divu | rem | remu =>
    exact outWf_next.2 (s.divide_memWf _ _ _ _ h)
  | cmpi | pand | por | pxor | pandn | pnot | isref =>
    exact outWf_next.2 (s.shortP_memWf _ _ _ h)
  | faddS | fsubS | fmulS | fdivS | fsqrtS | fminS | fmaxS | fabsS | fnegS | faddD | fsubD | fmulD | fdivD
    | fsqrtD | fminD | fmaxD | fabsD | fnegD | fmaS | fmsS | fmaD | fmsD | fcvt =>
    exact outWf_next.2 (s.floatResult_memWf _ _ h)
  | vadd | vmul | vdiv =>
    exact s.vArith_memWf _ _ _ _ _ _ _ h
  | vrcp | vrsq | vsqrt | vexp2 | vlog2 | vtanh =>
    exact s.vFlt_memWf _ _ _ _ _ h
  | seqNop | seta | addaReg | addaImm | sets | setf | setfIn =>
    exact s.seqRegs_memWf _ h
  | feAdd | feSub | feMul | feMin | feMax | feDiv | feRcp | feRsq | feSqrt | feExp2 | feLog2 | feTanh | feAdds
    | feSubs | feAvg | feMulh | feCmpeq | feCmpne | feCmplt | feCmple | feAnd | feOr | feXor | feNot | feShl
    | feShr | feSar | fePopc | feClz =>
    exact s.lanes_memWf _ _ _ _ h
  | feRsum | feRmax | feRmin | feAcc =>
    exact s.reduce_memWf _ _ h
  | walkStep | walkerGrant =>
    exact outWf_next.2 (s.walkStep_memWf h)
  | lqtailWrite =>
    exact outWf_next.2 (s.writeTail_memWf _ _ h)
  | ctxctlSwitchOut =>
    exact outWf_next.2 (s.ctxSwitchOut_memWf _ _ h)
  | ctxctlAbort =>
    exact outWf_next.2 (s.ctxAbort_memWf _ _ h)
  | ctxctlForward =>
    exact outWf_next.2 (s.ctxForward_memWf _ _ h)
  | fqresRetry | fqresAbort =>
    exact outWf_next.2 (s.resolve_memWf _ _ h)
  | fqheadWrite =>
    exact outWf_next.2 (s.writeHead_memWf _ h)
  | contextWindowWrite =>
    exact outWf_next.2 (s.windowStore_memWf _ _ _ _ h)
  | clkctlWrite =>
    exact outWf_next.2 (s.writeClock_memWf _ h)
  | itportStage =>
    exact outWf_next.2 (s.stageEntry_memWf _ h)
  | itctlGo =>
    exact outWf_next.2 (s.broadcast_memWf h)
  | controlRegisterWrite =>
    exact outWf_next.2 (s.writeControl_memWf _ _ h)
  | ld _ _ _ _ => exact execLd_memWf _ _ _ _ s h
  | ldx _ _ _ _ _ => exact execLdx_memWf _ _ _ _ _ s h
  | st _ _ _ _ => exact execSt_memWf _ _ _ _ s h
  | stx _ _ _ _ _ => exact execStx_memWf _ _ _ _ _ s h
  | lda _ _ _ _ _ => exact execLda_memWf _ _ _ _ _ s h
  | stl _ _ _ _ _ => exact execStl_memWf _ _ _ _ _ s h
  | ldref _ _ _ _ => exact execLdref_memWf _ _ _ _ s h
  | stref _ _ _ _ => exact execStref_memWf _ _ _ _ s h
  | amoW _ _ _ _ _ => exact execAmoW_memWf _ _ _ _ _ s h
  | amoD _ _ _ _ _ => exact execAmoD_memWf _ _ _ _ _ s h
  | casW _ _ _ _ => exact execCasW_memWf _ _ _ _ s h
  | casD _ _ _ _ => exact execCasD_memWf _ _ _ _ s h
  | fenceFull _ => exact execFenceFull_memWf _ s h
  | fenceRel _ => exact execFenceRel_memWf _ s h
  | fenceAcq _ => exact execFenceAcq_memWf _ s h
  | fenceEng _ => exact execFenceEng_memWf _ s h
  | pub _ _ => exact execPub_memWf _ _ s h
  | mkobj _ _ _ _ => exact execMkobj_memWf _ _ _ _ s h
  | b _ _ _ => exact execB_memWf _ _ _ s h
  | cflush _ _ => exact execCflush_memWf _ _ s h
  | cflushInv _ _ => exact execCflushInv_memWf _ _ s h
  | vld _ _ _ _ _ => exact execVld_memWf _ _ _ _ _ s h
  | vst _ _ _ _ => exact execVst_memWf _ _ _ _ s h
  | vlds _ _ _ _ _ => exact execVlds_memWf _ _ _ _ _ s h
  | vgth _ _ _ _ _ _ => exact execVgth_memWf _ _ _ _ _ _ s h
  | vsct _ _ _ _ _ => exact execVsct_memWf _ _ _ _ _ s h
  | send _ _ _ _ => exact execSend_memWf _ _ _ _ s h
  | recv _ _ _ => exact execRecv_memWf _ _ _ s h
  | recvNb _ _ _ _ => exact execRecvNb_memWf _ _ _ _ s h
  | mbind _ _ _ => exact execMbind_memWf _ _ _ s h
  | rqput _ _ _ => exact execRqput_memWf _ _ _ s h
  | rqtake _ _ _ => exact execRqtake_memWf _ _ _ s h
  | waitev _ => exact execWaitev_memWf _ s h
  | waitevNb _ _ => exact execWaitevNb_memWf _ _ s h
  | sleep _ => exact execSleep_memWf _ s h
  | mxc _ _ => exact execMxc_memWf _ _ s h
  | join _ _ => exact execJoin_memWf _ _ s h
  | joinNew _ _ _ _ _ => exact execJoinNew_memWf _ _ _ _ _ s h
  | leave _ => exact execLeave_memWf _ s h
  | rjput _ _ _ => exact execRjput_memWf _ _ _ s h
  | rjtake _ _ _ => exact execRjtake_memWf _ _ _ s h
  | spawn _ _ _ => exact execSpawn_memWf _ _ _ s h
  | reply _ _ => exact execReply_memWf _ _ s h
  | exit => exact execExit_memWf s h
  | srd _ _ => exact execSrd_memWf _ _ s h
  | swr _ _ => exact execSwr_memWf _ _ s h
  | trap _ => exact execTrap_memWf _ s h
  | eret => exact execEret_memWf s h
  | repart _ => exact execRepart_memWf _ s h
  | tlbinvPage _ _ => exact execTlbinvPage_memWf _ _ s h
  | tlbinvAsid _ => exact execTlbinvAsid_memWf _ s h
  | retag _ _ => exact execRetag_memWf _ _ s h
  | cmp _ _ _ _ _ => exact execCmp_memWf _ _ _ _ _ s h
  | vsub _ _ _ _ _ => exact execVsub_memWf _ _ _ _ _ s h
  | vmin _ _ _ _ _ => exact execVmin_memWf _ _ _ _ _ s h
  | vmax _ _ _ _ _ => exact execVmax_memWf _ _ _ _ _ s h
  | vfma _ _ _ _ _ _ => exact execVfma_memWf _ _ _ _ _ _ s h
  | vcvt _ _ _ _ _ _ => exact execVcvt_memWf _ _ _ _ _ _ s h
  | vqnt _ _ _ _ _ => exact execVqnt_memWf _ _ _ _ _ s h
  | vdq _ _ _ _ _ _ => exact execVdq_memWf _ _ _ _ _ _ s h
  | vred _ _ _ _ _ => exact execVred_memWf _ _ _ _ _ s h
  | vshuf _ _ _ _ _ _ _ => exact execVshuf_memWf _ _ _ _ _ _ _ s h
  | loopImm _ _ => exact execLoopImm_memWf _ _ s h
  | loopArg _ _ => exact execLoopArg_memWf _ _ s h
  | endl _ _ => exact execEndl_memWf _ _ s h
  | emitLd _ _ _ _ => exact execEmitLd_memWf _ _ _ _ s h
  | emitSt _ _ _ _ => exact execEmitSt_memWf _ _ _ _ s h
  | emitGth _ _ _ _ _ => exact execEmitGth_memWf _ _ _ _ _ s h
  | emitSct _ _ _ _ _ => exact execEmitSct_memWf _ _ _ _ _ s h
  | brc _ _ => exact execBrc_memWf _ _ s h
  | waitc _ => exact execWaitc_memWf _ s h
  | signal _ _ => exact execSignal_memWf _ _ s h
  | seqFence => exact execSeqFence_memWf s h
  | eor _ => exact execEor_memWf _ s h
  | seqSync _ _ => exact execSeqSync_memWf _ _ s h
  | halt => exact execHalt_memWf s h
  | feFma => exact execFeFma_memWf s h
  | feFms => exact execFeFms_memWf s h
  | feAbs => exact execFeAbs_memWf s h
  | feNeg => exact execFeNeg_memWf s h
  | feSel => exact execFeSel_memWf s h
  | feCvt => exact execFeCvt_memWf s h
  | feSround => exact execFeSround_memWf s h
  | feQmax => exact execFeQmax_memWf s h
  | feQcvt => exact execFeQcvt_memWf s h
  | feDq => exact execFeDq_memWf s h
  | feScan => exact execFeScan_memWf s h
  | feBcast => exact execFeBcast_memWf s h
  | feShuf => exact execFeShuf_memWf s h
  | fePack => exact execFePack_memWf s h
  | feUnpack => exact execFeUnpack_memWf s h
  | feDelay => exact execFeDelay_memWf s h
  | feCturn => exact execFeCturn_memWf s h
  | feRepl => exact execFeRepl_memWf s h
  | feIota => exact execFeIota_memWf s h
  | feConst => exact execFeConst_memWf s h
  | feZip => exact execFeZip_memWf s h
  | feSplit => exact execFeSplit_memWf s h
  | feHash => exact execFeHash_memWf s h
  | feSrc => exact execFeSrc_memWf s h
  | feSink => exact execFeSink_memWf s h
  | feEsc => exact execFeEsc_memWf s h
  | feSync => exact execFeSync_memWf s h
  | feFence => exact execFeFence_memWf s h
  | feCmpk => exact execFeCmpk_memWf s h
  | markerFiring => exact execMarkerFiring_memWf s h
  | planeChange => exact execPlaneChange_memWf s h
  | steer => exact execSteer_memWf s h
  | merge => exact execMerge_memWf s h
  | carry => exact execCarry_memWf s h
  | mtProbe => exact execMtProbe_memWf s h
  | mxLoadb => exact execMxLoadb_memWf s h
  | mxMm => exact execMxMm_memWf s h
  | mxDrain => exact execMxDrain_memWf s h
  | mxMsg => exact execMxMsg_memWf s h
  | escDispatch => exact execEscDispatch_memWf s h
  | escReplyArrival => exact execEscReplyArrival_memWf s h
  | blockFetch => exact execBlockFetch_memWf s h
  | loadReturn => exact execLoadReturn_memWf s h
  | blockCommit => exact execBlockCommit_memWf s h
  | vuIssue => exact execVuIssue_memWf s h
  | updateAccept => exact execUpdateAccept_memWf s h
  | updateDrain => exact execUpdateDrain_memWf s h
  | patrolRead => exact execPatrolRead_memWf s h
  | tlbWalkStep => exact execTlbWalkStep_memWf s h
  | sendInject => exact execSendInject_memWf s h
  | messageArrival => exact execMessageArrival_memWf s h
  | savedRingDelivery => exact execSavedRingDelivery_memWf s h
  | eventPost => exact execEventPost_memWf s h
  | faultRecordPost => exact execFaultRecordPost_memWf s h
  | launchAdmission => exact execLaunchAdmission_memWf s h
  | threadPlacement => exact execThreadPlacement_memWf s h
  | herdPlacement => exact execHerdPlacement_memWf s h
  | arbitrationPeriod => exact execArbitrationPeriod_memWf s h
  | slotReclaim => exact execSlotReclaim_memWf s h
  | launchDone => exact execLaunchDone_memWf s h
  | fabricAdmission => exact execFabricAdmission_memWf s h
  | configLoad => exact execConfigLoad_memWf s h
  | planeSlotWritten => exact execPlaneSlotWritten_memWf s h
  | planeRefetch => exact execPlaneRefetch_memWf s h
  | generatorFault => exact execGeneratorFault_memWf s h
  | fenceRetire => exact execFenceRetire_memWf s h
  | stall => exact execStall_memWf s h
  | drainRequest => exact execDrainRequest_memWf s h
  | drained => exact execDrained_memWf s h
  | drainTimeout => exact execDrainTimeout_memWf s h
  | graphCompletion => exact execGraphCompletion_memWf s h
  | engineTake => exact execEngineTake_memWf s h
  | boxLand => exact execBoxLand_memWf s h
  | engineSegmentFault => exact execEngineSegmentFault_memWf s h
  | fixupReplay => exact execFixupReplay_memWf s h
  | engineComplete => exact execEngineComplete_memWf s h
  | xchgReceive => exact execXchgReceive_memWf s h
  | xchgTimeout => exact execXchgTimeout_memWf s h
  | mxcInject => exact execMxcInject_memWf s h
  | loadw => exact execLoadw_memWf s h
  | mm => exact execMm_memWf s h
  | drain => exact execDrain_memWf s h
  | clear => exact execClear_memWf s h
  | barWatchdog => exact execBarWatchdog_memWf s h
  | switchOut => exact execSwitchOut_memWf s h
  | saveComplete => exact execSaveComplete_memWf s h
  | resume => exact execResume_memWf s h
  | gctlDrain => exact execGctlDrain_memWf s h
  | gctlAbort => exact execGctlAbort_memWf s h
  | ctileWrite => exact execCtileWrite_memWf s h
  | mtileWrite => exact execMtileWrite_memWf s h
  | segmentConversionDone => exact execSegmentConversionDone_memWf s h
  | tableBroadcastAck => exact execTableBroadcastAck_memWf s h
  | retireCore => exact execRetireCore_memWf s h
  | retireHerd => exact execRetireHerd_memWf s h
  | retireSite => exact execRetireSite_memWf s h
  | retireDomain => exact execRetireDomain_memWf s h
  | retireChannel => exact execRetireChannel_memWf s h
  | linkRoute => exact execLinkRoute_memWf s h
  | laneSpare => exact execLaneSpare_memWf s h
  | attest => exact execAttest_memWf s h
  | herdQuiescentWindow => exact execHerdQuiescentWindow_memWf s h
  | stripeQuiescentWindow => exact execStripeQuiescentWindow_memWf s h
  | channelSpareCopy => exact execChannelSpareCopy_memWf s h
  | tlbSliceMove => exact execTlbSliceMove_memWf s h
  | niFail => exact execNiFail_memWf s h
  | regulatorPhase => exact execRegulatorPhase_memWf s h
  | elementRailFailure => exact execElementRailFailure_memWf s h
  | routingRailFailure => exact execRoutingRailFailure_memWf s h
  | controlCoreFailure => exact execControlCoreFailure_memWf s h
  | tableEntryError => exact execTableEntryError_memWf s h
  | seamFlitReceive => exact execSeamFlitReceive_memWf s h
  | seamResend => exact execSeamResend_memWf s h
  | linkFlitReceive => exact execLinkFlitReceive_memWf s h
  | linkReplay => exact execLinkReplay_memWf s h
  | laneFailure => exact execLaneFailure_memWf s h
  | hostAccess => exact execHostAccess_memWf s h
  | coldBoot => exact execColdBoot_memWf s h
  | chainUnitTimeout => exact execChainUnitTimeout_memWf s h
  | inputUndervoltage => exact execInputUndervoltage_memWf s
  | thermalStep => exact execThermalStep_memWf s h
  | thermalTrip => exact execThermalTrip_memWf s h
  | thermalPowerRemoval => exact execThermalPowerRemoval_memWf s h
  | linkTraining => exact execLinkTraining_memWf s h
  | softError => exact execSoftError_memWf s h

/-! ### Memory form: the operations of Machine/Step.lean -/

theorem stepMWord_memWf (s0 s1 : State) (m : Instr) (h : s1.memWf) :
    OutWf (stepMWord s0 s1 m) := by
  have hx := exec_memWf m s1.onMWord (s1.onMWord_memWf h)
  unfold stepMWord
  split
  · exact outWf_fault
  · exact outWf_refused
  next s2 heq =>
    have hs2 := hx _ heq
    exact ite_both (outWf_next.2 (s2.waitPair_memWf _ hs2)) (outWf_next.2 hs2)

theorem stepPair_memWf (s : State) (core ctx : Nat) (m a : Instr) (h : s.memWf) :
    OutWf (stepPair s core ctx m a) := by
  have h0 := s.issueAt_memWf core ctx true h
  unfold stepPair
  extract_lets s0
  have ha := s0.onAWord_memWf h0
  have hx := exec_memWf a s0.onAWord ha
  split
  · exact stepMWord_memWf _ _ _ ha
  · split
    · exact outWf_fault
    · exact outWf_refused
    next s1 heq =>
      have h1 := hx _ heq
      exact ite_both (outWf_next.2 h1) (ite_both (outWf_next.2 h) (stepMWord_memWf _ _ _ h1))

theorem stepContext_memWf (s : State) (core ctx : Nat) (h : s.memWf) :
    OutWf (stepContext s core ctx) := by
  unfold stepContext
  split
  · exact outWf_next.2 h
  · exact exec_memWf _ _ (s.actAs_memWf _ _ _ _ h)
  · exact outWf_next.2 (s.retestWait_memWf _ _ h)
  · exact exec_memWf _ _ (s.issueAt_memWf _ _ _ h)
  · exact stepPair_memWf _ _ _ _ _ h
  · exact outWf_fault

theorem stepGang_memWf (s : State) (l : List (Nat × Nat)) (h : s.memWf) :
    OutWf (stepGang s l) := by
  induction l generalizing s with
  | nil => exact outWf_next.2 h
  | cons x xs ih =>
    have hx := stepContext_memWf s x.1 x.2 h
    unfold stepGang
    split
    next t heq => exact ih t (hx t heq)
    · exact outWf_fault
    · exact outWf_refused

theorem runTurn_memWf (s : State) (turn : Turn) (h : s.memWf) :
    OutWf (runTurn s turn) := by
  cases turn with
  | context core ctx =>
    have hg := stepGang_memWf _ (s.gangTurn core ctx).2 (s.gangTurn_memWf core ctx h)
    rw [runTurn]
    split
    next t heq => exact outWf_next.2 (t.shareBlock_memWf _ (hg t heq))
    · exact outWf_fault
    · exact outWf_refused
  | element site =>
    have hf := s.flowAll_memWf h
    rw [runTurn]
    split
    · exact exec_memWf _ _ (State.actAs_memWf _ _ _ _ _ hf)
    · exact outWf_next.2 hf
  | router site =>
    have hf := s.flowAll_memWf h
    rw [runTurn]
    split
    · exact exec_memWf _ _ (State.actAs_memWf _ _ _ _ _ hf)
    · exact outWf_next.2 hf
  | sequencer site =>
    have hf := s.flowAll_memWf h
    rw [runTurn]
    split
    · exact exec_memWf _ _ (State.actAs_memWf _ _ _ _ _ hf)
    · exact outWf_next.2 hf
    · exact outWf_fault
  | event core ctx site args i => exact exec_memWf _ _ (s.actAs_memWf _ _ _ _ h)

theorem step_memWf (s : State) (h : s.memWf) : OutWf (step s) := by
  unfold step
  extract_lets s1
  split
  · exact runTurn_memWf _ _ h
  · split
    · exact runTurn_memWf _ _ h
    · exact outWf_next.2 h

/-- Settles O58: a step is a turn of one agent, and each instruction that a turn executes keeps memory canonical. -/
theorem stepKeepsMemoryForm : Obligations.StepKeepsMemoryForm :=
  fun s t h ht => step_memWf s h t ht

end Sys2Proof.Machine
end

section
/-!
PROOFS of O16: what st and stx do once their access check is known, and what the word writes of a store change at their
home. A word's write is first described byte by byte (`State.memGet_homeWrite`); the write of a span is then an
induction over its words, each byte of which is the span's where the span has one (`spanByte`).
-/

namespace Sys2Proof.Machine

open Claims

set_option Elab.async false

/-! ### Bytes of a word -/

theorem bytesLE_getElem? (n x i : Nat) :
    (bytesLE n x)[i]? = if i < n then some (BitVec.ofNat 8 (x >>> (8 * i))) else none := by
  unfold bytesLE
  split <;> simp_all

theorem valueLE_byte (l : List Byte) (i : Nat) (h : i < l.length) :
    BitVec.ofNat 8 (valueLE l >>> (8 * i)) = l[i] := by
  induction l generalizing i with
  | nil => simp at h
  | cons b l ih =>
    have hb := b.isLt
    cases i with
    | zero =>
      apply BitVec.eq_of_toNat_eq
      simp [valueLE]
      omega
    | succ i =>
      have hs : valueLE (b :: l) >>> (8 * (i + 1)) = valueLE l >>> (8 * i) := by
        have hd : (b.toNat + 256 * valueLE l) / 256 = valueLE l := by omega
        rw [Nat.mul_succ, Nat.add_comm, Nat.shiftRight_add, valueLE, Nat.shiftRight_eq_div_pow _ 8, hd]
      rw [hs, ih i (by simpa using h)]
      simp

theorem valueLE_lt (l : List Byte) : valueLE l < 256 ^ l.length := by
  induction l with
  | nil => simp [valueLE]
  | cons b l ih =>
    have hb := b.isLt
    simp only [valueLE, List.length_cons, pow_succ]
    omega

/-- Byte i of the word whose bytes are those of l. -/
theorem extract_valueLE (l : List Byte) (hl : l.length = 8) (i : Nat) (h : i < 8) :
    (BitVec.ofNat 64 (valueLE l)).extractLsb' (8 * i) 8 = l[i] := by
  have hv := valueLE_lt l
  rw [hl] at hv
  rw [← valueLE_byte l i (by omega)]
  show BitVec.ofNat 8 ((BitVec.ofNat 64 (valueLE l)).toNat >>> (8 * i)) = _
  rw [BitVec.toNat_ofNat, Nat.mod_eq_of_lt (by simpa using hv)]

theorem mergeBytes_byte (old new : Word) (mask : BitVec 8) (i : Nat) (h : i < 8) :
    BitVec.ofNat 8 ((mergeBytes old new mask).toNat >>> (8 * i)) =
      if mask.getLsbD i then new.extractLsb' (8 * i) 8 else old.extractLsb' (8 * i) 8 := by
  have hx := extract_valueLE ((List.range 8).map (fun i =>
    if mask.getLsbD i then new.extractLsb' (8 * i) 8 else old.extractLsb' (8 * i) 8)) (by simp) i h
  rw [List.getElem_map, List.getElem_range] at hx
  exact hx

theorem testBit_sum_two_pow (p : Nat → Bool) (n i : Nat) :
    (((List.range n).map (fun k => if p k then 2 ^ k else 0)).sum).testBit i = (decide (i < n) && p i) ∧
      ((List.range n).map (fun k => if p k then 2 ^ k else 0)).sum < 2 ^ n := by
  induction n with
  | zero => simp
  | succ n ih =>
    obtain ⟨hb, hlt⟩ := ih
    rw [List.range_succ, List.map_append, List.sum_append, List.map_singleton, List.sum_singleton]
    generalize ((List.range n).map (fun k => if p k then 2 ^ k else 0)).sum = x at hb hlt ⊢
    have hx : ∀ k, n ≤ k → x.testBit k = false := fun k hk =>
      Nat.testBit_lt_two_pow (Nat.lt_of_lt_of_le hlt (Nat.pow_le_pow_right (by decide) hk))
    refine ⟨?_, by rw [Nat.pow_succ]; split <;> omega⟩
    cases hp : p n with
    | false =>
      rw [if_neg (by simp), Nat.add_zero, hb]
      grind
    | true =>
      rw [if_pos rfl, Nat.add_comm]
      rcases Nat.lt_trichotomy i n with hi | rfl | hi
      · rw [Nat.testBit_two_pow_add_gt hi, hb]
        grind
      · rw [Nat.testBit_two_pow_add_eq, hx i (Nat.le_refl _)]
        simp [hp]
      · have : (2 ^ n + x).testBit i = false :=
          Nat.testBit_lt_two_pow
            (Nat.lt_of_lt_of_le (by rw [Nat.pow_succ]; omega) (Nat.pow_le_pow_right (by decide) hi))
        rw [this]
        grind

/-! ### Storage that a store's word write may enter without reading an error -/

theorem memGet_putByte (s : State) (a : Nat) (b : Byte) (x : Nat) (h : s.memWf) :
    memGet (s.putByte a b).mem.bytes x = if x = a then b else memGet s.mem.bytes x := by
  have hb : (s.putByte a b).mem.bytes = memPut s.mem.bytes a b := by
    unfold State.putByte
    dsimp only
    split <;> rfl
  rw [hb]
  split
  next hx => rw [hx, memGet_memPut_same _ _ _ h]
  next hx => exact memGet_memPut_other _ _ hx

theorem memGet_putBytes (bs : List Byte) (s : State) (a x : Nat) (h : s.memWf) :
    memGet (s.putBytes a bs).mem.bytes x =
      if x < a then memGet s.mem.bytes x else (bs[x - a]?).getD (memGet s.mem.bytes x) := by
  induction bs generalizing s a with
  | nil => simp [State.putBytes]
  | cons b bs ih =>
    rw [State.putBytes, ih _ _ (s.putByte_memWf a b h), memGet_putByte _ _ _ _ h]
    rcases Nat.lt_trichotomy x a with hx | rfl | hx
    · rw [if_pos (by omega), if_neg (by omega), if_pos hx]
    · simp
    · obtain ⟨k, rfl⟩ : ∃ k, x = a + 1 + k := ⟨x - (a + 1), by omega⟩
      have hk : a + 1 + k - a = (a + 1 + k - (a + 1)) + 1 := by omega
      rw [if_neg (by omega), if_neg (by omega), if_neg (by omega), hk, List.getElem?_cons_succ]

/-- The fields of a state that a write of bytes keeps. -/
theorem State.putBytes_frame (bs : List Byte) (s : State) (a : Nat) :
    (s.putBytes a bs).dev = s.dev ∧ (s.putBytes a bs).mem.tags = s.mem.tags ∧
      (s.putBytes a bs).mem.latent = s.mem.latent ∧ (s.putBytes a bs).mem.errs = s.mem.errs := by
  induction bs generalizing s a with
  | nil => exact ⟨rfl, rfl, rfl, rfl⟩
  | cons b bs ih =>
    have hb : (s.putByte a b).dev = s.dev ∧ (s.putByte a b).mem.tags = s.mem.tags ∧
        (s.putByte a b).mem.latent = s.mem.latent ∧ (s.putByte a b).mem.errs = s.mem.errs := by
      unfold State.putByte
      dsimp only
      split <;> exact ⟨rfl, rfl, rfl, rfl⟩
    rw [State.putBytes, ← hb.1, ← hb.2.1, ← hb.2.2.1, ← hb.2.2.2]
    exact ih _ _

/-- No error waits in word w: a read of it changes nothing (R361, R362). -/
def State.Sound (s : State) (w : Nat) : Prop := mfind s.mem.latent w = none ∧ ∀ u, s.mem.errOf 0x0D u w = none

/-- No address lies in a hallmark shadow (R370). -/
def State.NoShadow (s : State) : Prop := ∀ a, s.shadowByte a = none

/-- Whether an address lies in a shadow depends on the control registers only. -/
theorem State.NoShadow.of_dev {s t : State} (h : s.NoShadow) (hd : t.dev = s.dev) : t.NoShadow := by
  intro a
  have ha := h a
  unfold State.shadowByte State.creg at ha ⊢
  rw [hd]
  dsimp only at ha ⊢
  grind

theorem State.detect_of_sound (s : State) (w : Nat) (h : s.Sound w) : s.detect w = s := by
  obtain ⟨hl, he⟩ := h
  have hh : s.detectHome w = s := by
    unfold State.detectHome
    split
    · rfl
    · simp only [State.readArray, he]
  unfold State.detect State.detectStored
  rw [hh, hl]

theorem State.homeWord_byte (s : State) (h : s.NoShadow) (w i : Nat) (hi : i < 8) :
    (s.homeWord w).val.extractLsb' (8 * i) 8 = memGet s.mem.bytes (8 * w + i) := by
  unfold State.homeWord State.bytesAt
  rw [extract_valueLE _ (by simp) i hi, List.getElem_map, List.getElem_range]
  unfold State.byteAt
  rw [h]

theorem mfind_filter_none {α : Type} (m : Map α) (p : Nat × α → Bool) (k : Nat) (h : mfind m k = none) :
    mfind (m.filter p) k = none := by
  induction m with
  | nil => rfl
  | cons e m ih =>
    obtain ⟨j, x⟩ := e
    rw [mfind] at h
    split at h
    next => simp at h
    next hj =>
      rw [List.filter_cons]
      split
      · rw [mfind, if_neg hj, ih h]
      · exact ih h

/-- A word's write drops only the errors of the word that it covers. -/
theorem State.Sound.covered {s : State} {w : Nat} (h : s.Sound w) (x : Nat) :
    ({ s with mem := { s.mem with
        latent := mdel s.mem.latent x
        errs := s.mem.errs.filter (fun e => !(e.array == 0x0D && e.word == x)) } } : State).Sound w := by
  obtain ⟨hl, he⟩ := h
  refine ⟨mfind_filter_none _ _ _ hl, fun u => ?_⟩
  have hu := he u
  unfold MemSys.errOf at hu ⊢
  rw [List.find?_eq_none] at hu ⊢
  exact fun e hm => hu e (List.mem_filter.mp hm).1

/-- The write of a sound word: the state s1 in which its bytes enter storage differs from s in dropped errors only. -/
theorem State.homeWrite_of_sound (s : State) (x : WordWrite) (hs : s.Sound x.word) (ht : x.tag = false) :
    ∃ s1 : State, (s1.mem.bytes = s.mem.bytes ∧ s1.dev = s.dev ∧ s1.mem.tags = s.mem.tags ∧
        ∀ w, s.Sound w → s1.Sound w) ∧
      let p := s1.putBytes (8 * x.word) (bytesLE 8 (mergeBytes (s1.homeWord x.word).val x.val x.mask).toNat)
      let t := s.homeWrite x
      t.mem.bytes = p.mem.bytes ∧ t.dev = p.dev ∧ t.mem.tags = eraseNum p.mem.tags x.word ∧
        t.mem.latent = p.mem.latent ∧ t.mem.errs = p.mem.errs := by
  unfold State.homeWrite
  dsimp only
  rw [ht, s.detect_of_sound _ hs]
  refine ⟨_, ite_both (motive := fun s1 : State => s1.mem.bytes = s.mem.bytes ∧ s1.dev = s.dev ∧
    s1.mem.tags = s.mem.tags ∧ ∀ w, s.Sound w → s1.Sound w) ?_ ?_, rfl, rfl, rfl, rfl, rfl⟩
  · exact ⟨rfl, rfl, rfl, fun w hw => hw.covered _⟩
  · exact ⟨rfl, rfl, rfl, fun w hw => hw⟩

/-- A state whose listed words a store may write: memory canonical, no shadow, no waiting error. -/
structure State.Writable (s : State) (ws : List Nat) : Prop where
  wf : s.memWf
  noShadow : s.NoShadow
  sound : ∀ w ∈ ws, s.Sound w

theorem State.homeWrite_writable {s : State} {x : WordWrite} {ws : List Nat} (h : s.Writable ws) (hx : x.word ∈ ws)
    (ht : x.tag = false) : (s.homeWrite x).Writable ws := by
  obtain ⟨s1, ⟨-, hdev, -, hsound⟩, -, hd, -, hl, he⟩ := s.homeWrite_of_sound x (h.sound _ hx) ht
  obtain ⟨pd, -, pl, pe⟩ := State.putBytes_frame (bytesLE 8 (mergeBytes (s1.homeWord x.word).val x.val x.mask).toNat) s1
    (8 * x.word)
  refine ⟨s.homeWrite_memWf x h.wf, h.noShadow.of_dev (by rw [hd, pd, hdev]), fun w hw => ?_⟩
  obtain ⟨hwl, hwe⟩ := hsound w (h.sound w hw)
  unfold State.Sound MemSys.errOf
  rw [hl, he, pl, pe]
  exact ⟨hwl, hwe⟩

theorem State.homeWrite_tags {s : State} {x : WordWrite} (hs : s.Sound x.word) (ht : x.tag = false) :
    (s.homeWrite x).mem.tags = eraseNum s.mem.tags x.word := by
  obtain ⟨s1, ⟨-, -, htags, -⟩, -, -, hg, -⟩ := s.homeWrite_of_sound x hs ht
  rw [hg, (State.putBytes_frame _ _ _).2.1, htags]

/-- A word's write changes the bytes that its mask names, and no other. -/
theorem State.memGet_homeWrite {s : State} {x : WordWrite} {ws : List Nat} (h : s.Writable ws) (hx : x.word ∈ ws)
    (ht : x.tag = false) (a : Nat) :
    memGet (s.homeWrite x).mem.bytes a =
      if a / 8 = x.word ∧ x.mask.getLsbD (a % 8) = true then x.val.extractLsb' (8 * (a % 8)) 8
      else memGet s.mem.bytes a := by
  obtain ⟨s1, ⟨hbytes, hdev, -, -⟩, hb, -⟩ := s.homeWrite_of_sound x (h.sound _ hx) ht
  have hwf : s1.memWf := by unfold State.memWf; rw [hbytes]; exact h.wf
  rw [hb, memGet_putBytes _ _ _ _ hwf, hbytes, bytesLE_getElem?]
  by_cases hin : a / 8 = x.word
  · obtain ⟨i, hi, rfl⟩ : ∃ i, i < 8 ∧ a = 8 * x.word + i := ⟨a % 8, Nat.mod_lt _ (by decide), by omega⟩
    have hm : (8 * x.word + i) % 8 = i := by omega
    have hword := s1.homeWord_byte (h.noShadow.of_dev hdev) x.word i hi
    rw [if_neg (by omega), hm, show 8 * x.word + i - 8 * x.word = i by omega, if_pos hi, Option.getD_some,
      mergeBytes_byte _ _ _ _ hi, hword, hbytes]
    simp [hin]
  · have hout : ¬ (a / 8 = x.word ∧ x.mask.getLsbD (a % 8) = true) := fun hc => hin hc.1
    rw [if_neg hout]
    split
    · rfl
    · rw [if_neg (by omega), Option.getD_none]

/-! ### The word writes of a span of bytes -/

/-- The byte that a span of bytes from pa has for an address. -/
def spanByte (pa : Nat) (bs : List Byte) (a : Nat) : Option Byte := if a < pa then none else bs[a - pa]?

/-- The write of word w of the span. -/
def spanWrite (pa : Nat) (bs : List Byte) (tag : Bool) (w : Nat) : WordWrite where
  word := w
  mask := BitVec.ofNat 8 (((List.range 8).map (fun i => if (spanByte pa bs (8 * w + i)).isSome then 2 ^ i else 0)).sum)
  val := BitVec.ofNat 64 (valueLE ((List.range 8).map (fun i => (spanByte pa bs (8 * w + i)).getD 0)))
  tag := tag

theorem wordWrites_eq (pa : Nat) (bs : List Byte) (tag : Bool) :
    wordWrites pa bs tag = (wordsOf pa bs.length).map (spanWrite pa bs tag) := rfl

theorem spanWrite_mask (pa : Nat) (bs : List Byte) (tag : Bool) (w i : Nat) (h : i < 8) :
    (spanWrite pa bs tag w).mask.getLsbD i = (spanByte pa bs (8 * w + i)).isSome := by
  have hs := testBit_sum_two_pow (fun i => (spanByte pa bs (8 * w + i)).isSome) 8 i
  simp only [spanWrite, BitVec.getLsbD_ofNat, hs.1, h, decide_true, Bool.true_and]

theorem spanWrite_val (pa : Nat) (bs : List Byte) (tag : Bool) (w i : Nat) (h : i < 8) :
    (spanWrite pa bs tag w).val.extractLsb' (8 * i) 8 = (spanByte pa bs (8 * w + i)).getD 0 := by
  unfold spanWrite
  rw [extract_valueLE _ (by simp) i h, List.getElem_map, List.getElem_range]

theorem State.memGet_homeWrite_span {s : State} {ws : List Nat} (h : s.Writable ws) {w : Nat} (hw : w ∈ ws) (pa : Nat)
    (bs : List Byte) (a : Nat) :
    memGet (s.homeWrite (spanWrite pa bs false w)).mem.bytes a =
      if a / 8 = w then (spanByte pa bs a).getD (memGet s.mem.bytes a) else memGet s.mem.bytes a := by
  have hlt : a % 8 < 8 := Nat.mod_lt _ (by decide)
  have hbyte := @State.memGet_homeWrite s (spanWrite pa bs false w) ws h hw rfl a
  rw [hbyte, spanWrite_mask _ _ _ _ _ hlt, spanWrite_val _ _ _ _ _ hlt]
  by_cases ha : a / 8 = w
  · rw [if_pos ha, show 8 * w + a % 8 = a by omega]
    cases spanByte pa bs a with
    | none => simp
    | some b => simp [spanWrite, ha]
  · rw [if_neg ha, if_neg (fun hc => ha hc.1)]

theorem State.homeWrites_cons (s : State) (x : WordWrite) (xs : List WordWrite) :
    s.homeWrites (x :: xs) = (s.homeWrite x).homeWrites xs := by
  unfold State.homeWrites
  rw [List.foldl_cons]

/-- Words of a span, written at their home: each byte of them is the span's where it has one, their tags are clear, and
the rest of memory is as it was. -/
theorem State.homeWrites_span (pa : Nat) (bs : List Byte) (ws vs : List Nat) (s : State) (h : s.Writable ws)
    (hv : ∀ w ∈ vs, w ∈ ws) :
    (∀ a, memGet (s.homeWrites (vs.map (spanWrite pa bs false))).mem.bytes a =
      if a / 8 ∈ vs then (spanByte pa bs a).getD (memGet s.mem.bytes a) else memGet s.mem.bytes a) ∧
    (∀ w, w ∈ (s.homeWrites (vs.map (spanWrite pa bs false))).mem.tags ↔ w ∈ s.mem.tags ∧ w ∉ vs) := by
  induction vs generalizing s with
  | nil => simp [State.homeWrites]
  | cons v vs ih =>
    have hvw : v ∈ ws := hv v (by simp)
    have hbyte := fun a => State.memGet_homeWrite_span h hvw pa bs a
    have htag := @State.homeWrite_tags s (spanWrite pa bs false v) (h.sound v hvw) rfl
    obtain ⟨hb, hg⟩ := ih (s.homeWrite (spanWrite pa bs false v)) (State.homeWrite_writable h hvw rfl)
      (fun w hw => hv w (by simp [hw]))
    rw [List.map_cons, State.homeWrites_cons]
    refine ⟨fun a => ?_, fun w => ?_⟩
    · rw [hb, hbyte]
      cases spanByte pa bs a with
      | none => simp
      | some b =>
        simp only [Option.getD_some, List.mem_cons]
        grind
    · rw [hg, htag, eraseNum, List.mem_filter, List.mem_cons]
      simp only [spanWrite, bne_iff_ne, not_or]
      exact and_assoc

theorem mem_wordsOf (pa n w : Nat) : w ∈ wordsOf pa n ↔ pa / 8 ≤ w ∧ w ≤ pa / 8 + ((pa + n - 1) / 8 - pa / 8) := by
  unfold wordsOf
  rw [List.mem_map]
  constructor
  · rintro ⟨i, hi, rfl⟩
    have := List.mem_range.mp hi
    omega
  · rintro ⟨hl, hu⟩
    exact ⟨w - pa / 8, List.mem_range.mpr (by omega), by omega⟩

theorem storeWritesItsBytesOnly : StoreWritesItsBytesOnly := by
  intro s pa bs hwf hne hlen hsound hshadow t
  have hpos : 0 < bs.length := List.length_pos_iff.mpr hne
  obtain ⟨hb, hg⟩ := s.homeWrites_span pa bs _ (wordsOf pa bs.length) ⟨hwf, hshadow, hsound⟩ (fun _ hw => hw)
  rw [← wordWrites_eq] at hb hg
  refine ⟨fun a ha => ?_, fun k hk => ?_, fun w hw => ?_, fun w hw => ?_⟩
  · have hn : spanByte pa bs a = none := by
      unfold spanByte
      split
      · rfl
      · exact List.getElem?_eq_none (by omega)
    rw [hb, hn]
    simp
  · have hs : spanByte pa bs (pa + k) = some bs[k] := by
      unfold spanByte
      rw [if_neg (by omega), Nat.add_sub_cancel_left, List.getElem?_eq_getElem hk]
    rw [hb, hs, if_pos ((mem_wordsOf _ _ _).mpr (by omega)), Option.getD_some, List.getElem?_eq_getElem hk]
  · exact fun hc => ((hg w).mp hc).2 hw
  · exact (hg w).trans ⟨fun hc => hc.1, fun hc => ⟨hc, hw⟩⟩

/-! ### The store instructions -/

theorem effAddr_eq_ea (x : Word) (off : BitVec 9) (n : Nat) : effAddr x off n = ea x off n := by
  unfold effAddr ea
  rw [BitVec.ofInt_add, BitVec.ofInt_mul, BitVec.ofInt_toInt]
  rfl

theorem storeSize_eq (z : StoreKind) : storeSize z = bytesOfStore z := by
  cases z <;> rfl

/-- A store whose access check passes, with the check for a poisoned word, which only a narrow store makes. -/
theorem State.storeInstr_of_ok {s s1 : State} {q : AccessReq} {acc : Access} (h : s.checkAccess s.party q = .ok s1 acc)
    (bs : List Byte) (hn : q.size = bs.length) (more : State → StoreReq → StoreReq) :
    let poisoned := (wordsOf acc.pa bs.length).any (s1.poisonedFor s1.party)
    (bs.length = 8 ∨ poisoned = false → bs.length ≤ 8 →
      s.storeInstr q bs false more =
        if 32 ≤ s1.me.stores.length then s1.trapInstr Cause.blkStores
        else s1.onMe (fun c => { c with stores := c.stores ++ [more s1
          { writes := wordWrites acc.pa bs false, va := q.va.toNat % 2 ^ 57, asid := s1.party.asid, obj := acc.obj
            glob := acc.entry.getLsbD 6 }] })) ∧
    (bs.length < 8 → poisoned = true →
      s.storeInstr q bs false more = (s1.detectAll (wordsOf acc.pa bs.length)).trapMe (memCause .poison .store) q.va
        (if q.base.tag then q.base.val else 0)) := by
  unfold State.storeInstr
  rw [h]
  refine ⟨fun hp hl => ?_, fun hl hp => ?_⟩
  · have hc : (if bs.length < 8 then s1.narrowOk q acc.pa else .ok s1 ()) = .ok s1 () := by
      split
      next hlt =>
        unfold State.narrowOk
        rw [hn, if_neg (fun hc => ?_)]
        rcases hp with hp | hp
        · omega
        · exact absurd hc.2 (by simp [hp])
      next => rfl
    simp only [State.checked, hc]
  · simp only [State.checked, State.narrowOk, hn, hl, hp, and_self, if_true]

theorem storeEffects : StoreEffects := by
  intro s z d a b off sh n base x rule
  have hsize : n ≤ 8 := by cases z <;> decide
  have hrule : ∀ (i : Instr) (va : Word),
      exec i s = goes (s.storeInstr (storeOf base va n) (bytesLE n x.toNat) false (fun _ st => st)) → rule i va := by
    intro i va hi
    have hlen : (bytesLE n x.toNat).length = n := by simp [bytesLE]
    refine ⟨fun s1 acc hok => ?_, fun s1 c v w hfault => ?_⟩
    · obtain ⟨hpass, hpoison⟩ := State.storeInstr_of_ok hok (bytesLE n x.toNat) hlen.symm (fun _ st => st)
      rw [hlen] at hpass hpoison
      refine ⟨fun hp hroom => ?_, fun hp hfull => ?_, fun hn hp => ?_⟩
      · rw [hi, hpass hp hsize, if_neg (by omega)]
        rfl
      · rw [hi, hpass hp hsize, if_pos hfull]
      · rw [hi, hpoison hn hp]
        rfl
    · rw [hi, State.storeInstr, hfault]
      rfl
  have hz : n = storeSize z := (storeSize_eq z).symm
  refine ⟨hrule _ _ ?_, hrule _ _ ?_⟩
  · rw [← effAddr_eq_ea, hz]
    rfl
  · rw [hz]
    rfl

/-- Settles O16: what st and stx do once their checks are known, and what a store's word writes change at their home. -/
theorem storeResults : Obligations.StoreResults := ⟨storeEffects, storeWritesItsBytesOnly⟩

end Sys2Proof.Machine
end

section
/-!
PROOFS of O29: srd and swr. What an exposed instruction does is said once for its two simple courses: its checks fail at
the end of a settled block (`State.exposed_of_fault`), or it is held and performed at once (`State.exposed_of_held`).
-/

namespace Sys2Proof.Machine

open Claims

set_option Elab.async false

/-! ### The course of an exposed instruction -/

theorem mset_mset_same {α : Type} (m : Map α) (k : Nat) (x y : α) : mset (mset m k x) k y = mset m k y := by
  induction m with
  | nil => simp [mset]
  | cons e m ih =>
    obtain ⟨j, z⟩ := e
    by_cases hj : j = k
    · simp [mset, hj]
    · by_cases hk : k < j
      · simp [mset, hj, hk]
      · simp [mset, hj, hk, ih]

theorem State.core_setCtx (s : State) (n k : Nat) (x : Context) :
    (s.setCtx n k x).core n = { s.core n with ctxs := mset (s.core n).ctxs k x } :=
  State.core_setCore s n _

theorem State.setCtx_setCtx (s : State) (n k : Nat) (x y : Context) :
    (s.setCtx n k x).setCtx n k y = s.setCtx n k y := by
  rw [State.setCtx, State.onCore, State.core_setCtx, mset_mset_same]
  unfold State.setCtx State.onCore State.setCore
  rw [mset_mset_same]

/-- A context that is written back as it was takes its traps as before. -/
theorem State.takeTrap_setCtx_self (s : State) (n k : Nat) (t : TrapInfo) :
    (s.setCtx n k (s.ctxOf n k)).takeTrap n k t = s.takeTrap n k t := by
  have hstatus : (s.setCtx n k (s.ctxOf n k)).status n k = s.status n k := by
    unfold State.status State.escBit
    rw [State.ctxOf_setCtx, State.core_setCtx]
    rfl
  unfold State.takeTrap
  rw [State.ctxOf_setCtx, hstatus]
  dsimp only
  rw [State.setCtx_setCtx, State.setCtx_setCtx]

theorem State.trapMe_setMe_self (s : State) (c : Nat) (a b : Word) : (s.setMe s.me).trapMe c a b = s.trapMe c a b := by
  unfold State.trapMe
  rw [State.me_setMe, State.setMe_act]
  exact s.takeTrap_setCtx_self _ _ _

/-- A context that no result is on its way to has settled. -/
theorem Context.settle_of_outst {c : Context} (h : c.outst = []) : c.settle = c := by
  unfold Context.settle
  rw [h, List.foldl_nil, ← h]

/-- A calm context's block is not discarded (R27, R38). -/
theorem not_interrupted_of_calm {s : State} (h : Calm s) : s.me.interrupted s.time = false := by
  obtain ⟨hswitch, htimer⟩ := h
  unfold Context.interrupted
  rw [hswitch, Bool.false_or]
  cases hie : s.me.ie with
  | false => simp
  | true =>
    obtain ⟨hevent, hat⟩ := htimer hie
    have hraise : s.me.raise s.time = s.me := by
      unfold Context.raise
      split
      next t ht => rw [if_neg (by have := hat t ht; omega)]
      next => rfl
    rw [hraise, hevent]
    rfl

/-- An exposed instruction at the end of a settled block whose checks fail traps, and the block does not commit
(R26). -/
theorem State.exposed_of_fault {s : State} {i : Instr} {checks : State → Chk Unit} {c : Nat} {a b : Word}
    (hbody : s.me.phase = .body) (hcalm : Calm s) (houtst : s.me.outst = [])
    (hvu : ∀ e ∈ (s.core s.act.core).vuq, ¬ (e.ctx = s.act.ctx ∧ e.epoch = s.me.epoch))
    (h : checks (s.setMe s.me) = .fault (s.setMe s.me) c a b) (perform : State → Perf) :
    s.exposed i checks perform = s.trapMe c a b := by
  have hpending : s.vuPending s.act.core s.act.ctx = false := by
    unfold State.vuPending
    rw [List.any_eq_false]
    intro e he
    have := hvu e he
    simpa [State.me] using this
  have hsettle : s.onMe Context.settle = s.setMe s.me := by
    rw [State.onMe, Context.settle_of_outst houtst]
  unfold State.exposed
  dsimp only
  rw [if_neg (by rw [hbody]; exact nofun), if_neg (by rw [not_interrupted_of_calm hcalm]; exact nofun),
    if_neg (by rw [hpending]; exact nofun), hsettle, h]
  exact s.trapMe_setMe_self c a b

/-- A held exposed instruction that is performed at once (R26). -/
theorem State.exposed_of_held {s t : State} {i : Instr} {perform : State → Perf} (hheld : Held s i)
    (h : perform (resumed s) = .done t) (ht : t.me.phase = .fetch) (checks : State → Chk Unit) :
    s.exposed i checks perform = finished t := by
  obtain ⟨hphase, hwalks⟩ := hheld
  have hrun : s.onMe (fun c => { c with phase := .fetch, snap := some s.me.view }) = resumed s := by
    unfold State.onMe resumed
    dsimp only
    rw [hwalks]
  unfold State.exposed
  dsimp only
  rw [if_pos hphase, hrun, if_neg (by simp [resumed]), h]
  unfold State.onMe finished
  dsimp only
  rw [ht]

/-! ### srd -/

theorem srAssigned_iff (n : Nat) : srAssigned n = true ↔ Assigned n := by
  simp [srAssigned, Assigned, or_assoc]

/-- A short result in a general register (R43). -/
theorem State.shortG_wroteG (s : State) (d : RegNo) (x : Word) :
    WroteG s (s.shortG d x) d { val := x, tag := false } := by
  unfold State.shortG
  rw [State.short_eq]
  unfold WroteG
  rw [State.me_setMe]
  have hd : d ≠ 0 → d.toNat ≠ 0 := fun h hz => h (BitVec.eq_of_toNat_eq hz)
  refine ⟨rfl, fun h => Regs.getG_setG_same _ (hd h) _, fun n hn => Regs.getG_setG_other _ _ hn, ?_⟩
  have hg : ∀ r : Regs, ∀ n y, r.setG n y = { r with g := (r.setG n y).g } := by
    intro r n y
    unfold Regs.setG
    split <;> rfl
  exact congrArg (fun r => s.setMe { s.me with work := r }) (hg _ _ _)

/-- What srd reads is the register's value as the manual gives it. -/
theorem State.srRead_eq_srValue (s : State) (n : Nat) :
    (if n = 0x023 then s.me.view.fcsr else s.srRead s.act.core s.act.ctx n) = SrValue s n := by
  by_cases hn : n ∈ [0x002, 0x003, 0x004, 0x020, 0x021, 0x022, 0x023, 0x024, 0x025, 0x065, 0x066, 0x067, 0x0A0]
  · have hherd : herdOfCore s.act.core = 24 * (s.act.core / 192) + s.act.core % 96 / 4 := by
      unfold herdOfCore
      omega
    unfold SrValue
    rw [← hherd]
    fin_cases hn <;> rfl
  · simp only [List.mem_cons, List.not_mem_nil, or_false, not_or] at hn
    unfold SrValue State.srRead
    simp only [hn, if_false]
    split
    case h_14 => rfl
    all_goals simp at hn

theorem super_or_srReadU (s : State) (n : Nat) (h : Assigned n) :
    (s.me.super || srReadU n) = true ↔ s.me.priv = 1 ∨ s.me.priv = 2 ∨ ¬ (0x040 ≤ n ∧ n ≤ 0x060) := by
  have ha := (srAssigned_iff n).mpr h
  simp only [Context.super, srReadU, ha, Bool.true_and, Bool.or_eq_true, Bool.and_eq_true, decide_eq_true_eq,
    Bool.not_eq_true', Bool.and_eq_false_iff, decide_eq_false_iff_not]
  omega

theorem readStateRegister : ReadStateRegister := by
  intro s d num n open_
  refine ⟨fun ha ho => ⟨_, ?_, s.shortG_wroteG d _⟩, fun ha => ?_, fun ha ho => ?_⟩
  · show execSrd d num s = _
    unfold execSrd
    rw [if_neg (by simp [(srAssigned_iff n).mpr ha, n]), if_neg (by simp [(super_or_srReadU s n ha).mpr ho, n]),
      s.srRead_eq_srValue]
  · show execSrd d num s = _
    unfold execSrd
    rw [if_pos (by simpa [n] using mt (srAssigned_iff n).mp ha)]
  · show execSrd d num s = _
    unfold execSrd
    rw [if_neg (by simp [(srAssigned_iff n).mpr ha, n]), if_pos (by simpa [n] using mt (super_or_srReadU s n ha).mp ho)]

/-! ### swr -/

theorem resumed_me (s : State) :
    (resumed s).me = { s.me with phase := .fetch, snap := some s.me.view, awaitWalks := [] } :=
  s.me_setMe _

/-- swr performed: what it leaves is what the write of the register leaves, when the context stays at the next block. -/
theorem execSwr_of_held {s : State} {num : BitVec 10} {a : RegNo} (h : Held s (.swr num a))
    (ht : ((resumed s).srWrite s.act.core s.act.ctx num.toNat (s.me.rg a) s.me.super).me.phase = .fetch) :
    exec (.swr num a) s =
      goes (finished ((resumed s).srWrite s.act.core s.act.ctx num.toNat (s.me.rg a) s.me.super)) := by
  have hsuper : (resumed s).me.super = s.me.super := by
    rw [resumed_me]
    rfl
  show Host.Outcome.next _ = _
  refine congrArg Host.Outcome.next (State.exposed_of_held h ?_ ht _)
  rw [← hsuper]
  rfl

theorem srMask_eq (n : Nat) :
    srMask n = if n = 0x041 then 0x1FF else if n = 0x043 then 0x7F else if n = 0x046 then 0x3F
      else if n = 0x080 ∨ n = 0x081 ∨ n = 0x085 then 0x1F else -1 := by
  unfold srMask
  grind

/-- The registers that swr does not write as the bits of a state register of the context. -/
theorem State.srWrite_plain (s : State) (core ctx n : Nat) (v : Word) (super : Bool)
    (hn : n ∉ [0x020, 0x022, 0x023, 0x024, 0x025, 0x0A0]) :
    s.srWrite core ctx n v super = s.onCtx core ctx (fun c => c.setSr n (v &&& srMask n)) := by
  unfold State.srWrite
  split
  case h_7 => rfl
  all_goals simp at hn

/-- A core's registers that are no context's leave the acting context as it is. -/
theorem State.me_setCore (s : State) (x : Core) (h : x.ctxs = s.myCore.ctxs) : (s.setCore s.act.core x).me = s.me := by
  unfold State.me State.ctxOf
  rw [State.setCore_act, State.core_setCore, h]
  rfl

/-- A value that swr refuses, written to a register that is open to the level (R36, R212). -/
theorem State.swrOk_of_refused {s : State} {n : Nat} {v : Word} (ha : srAssigned n = true)
    (hw : (if s.me.super then srWriteS n else srWriteU n) = true) (hn : n ≠ 0x020)
    (hr : s.srRefuses s.act.core n v = true) : s.swrOk n v = .fault s Cause.sregValue s.me.curWord 0 := by
  unfold State.swrOk
  simp [ha, hw, hn, hr]

theorem writeStateRegister : WriteStateRegister := by
  intro s num a n v super i u fields
  refine ⟨fun hh => ?_, fun hbody hcalm houtst hvu => ?_⟩
  · have hphase : u.me.phase = .fetch := by rw [resumed_me]
    have hhandle : u.me.handle = s.me.handle := by rw [resumed_me]
    have performed : ∀ t, u.srWrite s.act.core s.act.ctx n v super = t → t.me.phase = .fetch →
        exec i s = goes (finished t) := by
      rintro _ rfl ht
      exact execSwr_of_held hh ht
    refine ⟨fun hn => ?_, fun hn => ?_, fun hn => ?_, fun hn => ?_, fun hn => ?_, fun hn => ?_, fun hn => ?_⟩
    · refine performed _ (by rw [hn]; rfl) ?_
      rw [State.me_setMe]
      exact ite_both (motive := fun c : Context => c.phase = .fetch) hphase hphase
    · refine performed _ (by rw [hn]; rfl) ?_
      rw [State.me_setMe]
      exact hphase
    · refine performed _ (by rw [hn]; rfl) ?_
      rw [State.me_setMe]
      exact hphase
    · refine performed _ (by rw [hn]; rfl) ?_
      exact (congrArg Context.phase (u.me_setCore (u.myCore.reserve (v.toNat % 64)) rfl)).trans hphase
    · refine performed _ (by rw [hn]; rfl) ?_
      exact (congrArg Context.phase (u.me_setCore { u.myCore with vshare := v.toNat % 256 } rfl)).trans hphase
    · refine performed _ ?_ ?_
      · rw [hn, ← hhandle]
        rfl
      · split
        · exact hphase
        · exact hphase
    · refine performed _ ((u.srWrite_plain _ _ _ _ _ hn).trans ?_) ?_
      · rw [srMask_eq]
        rfl
      · rw [State.me_setMe]
        exact hphase
  · let u0 := s.setMe s.me
    have hme : u0.me = s.me := s.me_setMe _
    have refused : ∀ c, u0.swrOk n v = .fault u0 c s.me.curWord 0 → exec i s = goes (s.trapInstr c) :=
      fun c hc => congrArg Host.Outcome.next (State.exposed_of_fault hbody hcalm houtst hvu hc _)
    have value : (if super then srWriteS n else srWriteU n) = true → srAssigned n = true → n ≠ 0x020 →
        u0.srRefuses u0.act.core n v = true → exec i s = goes (s.trapInstr Cause.sregValue) := by
      intro hw ha hne hr
      refine refused _ ((State.swrOk_of_refused ha ?_ hne hr).trans ?_)
      · rw [hme]
        exact hw
      · rw [hme]
    refine ⟨fun hn => refused _ ?_, fun ha hs hw => refused _ ?_, fun hs hn => refused _ ?_,
      fun hn hs ht hv => refused _ ?_, fun hn hv => ?_, fun hn hs hv => ?_, fun hn hv => ?_, fun hn hs hv => ?_⟩
    · unfold State.swrOk
      rw [hme, if_pos (by simpa using mt (srAssigned_iff n).mp hn)]
    · have ha' := (srAssigned_iff n).mpr ha
      have hsuper : s.me.super = false := hs
      unfold State.swrOk
      simp [hme, ha', hsuper, hw]
    · have hsuper : s.me.super = true := hs
      have hro : ∀ m ∈ [0x002, 0x003, 0x004, 0x021, 0x065, 0x066, 0x067], srAssigned m = true ∧ srWriteS m = false := by
        decide
      obtain ⟨ha, hw⟩ := hro n hn
      unfold State.swrOk
      simp [hme, ha, hsuper, hw]
    · have hsuper : s.me.super = true := hs
      have htop : u0.topLevel = 1 := by
        have hassayer : u0.assayer u0.act.core = false := ht
        simp [State.topLevel, hassayer]
      unfold State.swrOk
      rw [hn, hme, hsuper, htop]
      simp [show srAssigned 0x020 = true from rfl, show srWriteS 0x020 = true from rfl, show 1 < v.toNat % 4 from hv]
    · refine value ?_ (by rw [hn]; rfl) (by rw [hn]; decide) (by rw [hn]; simp [State.srRefuses, hv])
      rw [hn]
      exact ite_both (motive := fun b : Bool => b = true) rfl rfl
    · refine value ?_ (by rw [hn]; rfl) (by rw [hn]; decide) (by rw [hn]; simp [State.srRefuses, hv])
      rw [hn, hs]
      rfl
    · refine value ?_ (by rw [hn]; rfl) (by rw [hn]; decide) (by rw [hn]; simp [State.srRefuses, hv])
      rw [hn]
      exact ite_both (motive := fun b : Bool => b = true) rfl rfl
    · refine value ?_ (by rw [hn]; rfl) (by rw [hn]; decide) (by rw [hn]; simp [State.srRefuses, hv])
      rw [hn, hs]
      rfl

/-- Settles O29: srd gives the register's value, swr performed writes its fields, and both refuse what they must. -/
theorem stateRegisterResults : Obligations.StateRegisterResults := ⟨readStateRegister, writeStateRegister⟩

end Sys2Proof.Machine
end

section
/-!
PROOFS of O59: what the state right after reset holds. Every table is empty, so that a core and a context are those that
an unlisted number names.
-/

namespace Sys2Proof.Machine

/-- No core is listed at reset. -/
theorem State.core_reset (n : Nat) : State.reset.core n = {} := rfl

/-- No context is listed at reset. -/
theorem State.ctxOf_reset (n k : Nat) : State.reset.ctxOf n k = {} := rfl

theorem Regs.getG_empty (n : Nat) : ({} : Regs).getG n = {} := ite_self _
theorem Regs.getV_empty (n : Nat) : ({} : Regs).getV n = 0 := rfl
theorem Regs.getK_empty (n : Nat) : ({} : Regs).getK n = 0xFFFF := ite_self _

/-- A state register that nothing has written reads its reset value (R37, R117). -/
theorem Context.sr_empty (n : Nat) : ({} : Context).sr n = srReset n := rfl

theorem srReset_of_ne {n : Nat} (hstatus : n ≠ 0x020) (hvhtol : n ≠ 0x085) : srReset n = 0 := by
  unfold srReset
  rw [if_neg hstatus, if_neg hvhtol]

/-- Settles O59: every table is empty, and an unlisted register reads as R34..R37 and log entries 4 and 5 say. -/
theorem resetState : Obligations.ResetState := by
  refine ⟨State.reset_memWf, rfl, rfl, rfl, rfl, rfl, rfl, rfl, rfl, rfl, rfl, fun n k => ?_, fun q => ⟨rfl, rfl⟩⟩
  rw [State.ctxOf_reset, State.core_reset]
  exact ⟨rfl, Regs.getG_empty, Regs.getV_empty, Regs.getK_empty, rfl, rfl, rfl,
    fun r hstatus hvhtol => (Context.sr_empty r).trans (srReset_of_ne hstatus hvhtol), rfl, rfl, rfl⟩

end Sys2Proof.Machine
end

section
/-!
PROOFS of O28: the privileged instructions at U, and eret at S. Each is an exposed instruction whose check fails at the
end of a settled block (`State.exposed_of_fault`), so that only its check is looked at.
-/

namespace Sys2Proof.Machine

open Claims

/-- At U the check of a privileged instruction fails with PRIV, s.tval the word (R31). -/
theorem State.privOk_of_user {s : State} (h : s.me.priv = 0) : s.privOk = .fault s Cause.priv s.me.curWord 0 := by
  have hsuper : s.me.super = false := by simp [Context.super, h]
  rw [State.privOk, hsuper, if_neg Bool.false_ne_true]

/-- At S it passes. -/
theorem State.privOk_of_super {s : State} (h : s.me.priv = 1) : s.privOk = .ok s () := by
  have hsuper : s.me.super = true := by simp [Context.super, h]
  rw [State.privOk, hsuper, if_pos rfl]

/-- A check that begins with that of the level fails with it. -/
theorem State.andThen_privOk_of_user {α : Type} {s : State} (h : s.me.priv = 0) (k : State → Unit → Chk α) :
    s.privOk.andThen k = .fault s Cause.priv s.me.curWord 0 := by
  rw [State.privOk_of_user h]
  rfl

/-- Of a core other than the Assayer's, S is the highest level (R30, R452). -/
theorem State.topLevel_of_not_assayer {s : State} (h : s.assayer s.act.core = false) : s.topLevel = 1 := by
  rw [State.topLevel, h, if_neg Bool.false_ne_true]

/-- Bit 1 of a level field names the levels 2 and 3. -/
theorem two_le_level_of_bit_one {x : Word} (h : x.getLsbD 1 = true) : 1 < x.toNat % 4 := by
  have hbit : x.toNat / 2 ^ 1 % 2 = 1 := by simpa [BitVec.getLsbD, Nat.testBit_eq_decide_div_mod_eq] using h
  omega

/-- Settles O28: at U the level's check fails first; at S that of eret passes, and the level in s.tstat is refused. -/
theorem privilegeTraps : Obligations.PrivilegeTraps := by
  intro s mode d a b hbody hcalm houtst hvu denied
  have hme : (s.setMe s.me).me = s.me := s.me_setMe _
  have traps : ∀ (i : Instr) (checks : State → Chk Unit) (perform : State → Perf),
      checks (s.setMe s.me) = .fault (s.setMe s.me) Cause.priv (s.setMe s.me).me.curWord 0 →
      goes (s.exposed i checks perform) = denied := by
    intro i checks perform h
    rw [hme] at h
    exact congrArg goes (State.exposed_of_fault hbody hcalm houtst hvu h perform)
  refine ⟨fun huser => ?_, fun hsuper hassayer hlevel => traps .eret _ _ ?_⟩
  · have hpriv : (s.setMe s.me).me.priv = 0 := by rw [hme]; exact huser
    exact ⟨traps .eret _ _ (State.andThen_privOk_of_user hpriv _), traps (.repart mode) _ _ (State.andThen_privOk_of_user hpriv _),
      traps (.tlbinvPage a b) _ _ (State.privOk_of_user hpriv), traps (.tlbinvAsid b) _ _ (State.privOk_of_user hpriv),
      traps .tlbinvAll _ _ (State.privOk_of_user hpriv), traps (.retag d a) _ _ (State.andThen_privOk_of_user hpriv _)⟩
  · have htop : (s.setMe s.me).topLevel = 1 := State.topLevel_of_not_assayer hassayer
    rw [State.privOk_of_super (by rw [hme]; exact hsuper)]
    refine if_pos ?_
    rw [htop, hme]
    exact two_le_level_of_bit_one hlevel

end Sys2Proof.Machine
end

section
/-!
PROOFS of O44: the events of a context. What comes first at a block's boundary is said once (`State.boundary_…`), then
what the fetch finds and what the checks of its words say; a return, the timer and the vector queue follow.
-/

namespace Sys2Proof.Machine

open Claims

set_option Elab.async false

/-! ### The boundary of a block (R409) -/

theorem State.srWrite_time (s : State) (core ctx n : Nat) (v : Word) (super : Bool) :
    (s.srWrite core ctx n v super).time = s.time := by
  unfold State.srWrite
  dsimp only
  split
  case h_6 => split <;> rfl
  all_goals rfl

theorem State.windowSr_time (s : State) (core ctx n : Nat) (v : Word) : (s.windowSr core ctx n v).time = s.time := by
  unfold State.windowSr
  split
  · rfl
  · exact s.srWrite_time _ _ _ _ _

/-- Window writes that take effect leave the time as it is. -/
theorem State.applyWindow_time (s : State) (core ctx : Nat) : (s.applyWindow core ctx).time = s.time :=
  List.foldlRecOn (motive := fun t : State => t.time = s.time) _ _ rfl
    (fun t ht w _ => (t.windowSr_time core ctx _ w.2).trans ht)

section

variable {v b : State} {n k : Nat}

/-- A context as it stands at its block's boundary: a timer at zero has raised its event (R38). -/
def State.AtBoundary (v b : State) (n k : Nat) : Prop := b = v.onCtx n k (fun c => c.raise v.time)

theorem State.boundary_of_pendFault (hb : v.AtBoundary b n k) {f : StateFault} (hf : (b.ctxOf n k).pendFault = some f) :
    v.boundary n k = ((b.setCtx n k { b.ctxOf n k with pendFault := none }).takeTrap n k
      { cause := f.cause, tblk := (b.ctxOf n k).addr, tidx := f.tidx, tval := f.tval, tval2 := f.tval2 }, false) := by
  subst hb
  unfold State.boundary
  dsimp only
  rw [hf]

theorem State.boundary_of_qntInf (hb : v.AtBoundary b n k) {f : StateFault} (hp : (b.ctxOf n k).pendFault = none)
    (hf : (b.ctxOf n k).qntInf = some f) :
    v.boundary n k = ((b.setCtx n k { b.ctxOf n k with qntInf := none }).takeTrap n k
      { cause := f.cause, tblk := (b.ctxOf n k).addr, tidx := f.tidx, tval := f.tval, tval2 := f.tval2 }, false) := by
  subst hb
  unfold State.boundary
  dsimp only
  rw [hp]
  dsimp only
  rw [hf]

/-- With no fault pending, a switch-out request comes before the timer's interrupt. -/
theorem State.boundary_of_no_fault (hb : v.AtBoundary b n k) (hp : (b.ctxOf n k).pendFault = none)
    (hq : (b.ctxOf n k).qntInf = none) :
    v.boundary n k =
      if (b.ctxOf n k).switchReq = true then (b, false)
      else if ((b.ctxOf n k).timerEvent && (b.ctxOf n k).ie) = true then
        ((b.setCtx n k { b.ctxOf n k with timerEvent := false }).takeTrap n k
          { cause := Cause.intTimer, tblk := (b.ctxOf n k).addr, tidx := 0, tval := 0, tval2 := 0 }, false)
      else (b, true) := by
  subst hb
  unfold State.boundary
  dsimp only
  rw [hp]
  dsimp only
  rw [hq]

end

/-! ### The fetch of a block and its checks (R54) -/

/-- The checks on a block's words are made in their order, and the block that passes them starts. -/
theorem admits_admitBlock (v : State) (n k : Nat) (ws : List (BitVec 32)) :
    Admits (goes (v.admitBlock n k ws)) v n k ws := by
  unfold Admits
  intro c trap w0 m32 user mode
  unfold State.admitBlock
  dsimp only
  refine ⟨fun huser => ?_, fun huser hmode => ?_, fun huser hmode => ⟨fun cause pos hbad => ?_, fun hgood => ?_⟩⟩
  · rw [if_pos huser]
    rfl
  · rw [if_neg (ne_true_of_eq_false huser), if_pos (by rw [Bool.not_eq_true']; exact hmode)]
    rfl
  · rw [if_neg (ne_true_of_eq_false huser), if_neg (by rw [Bool.not_eq_true', Bool.not_eq_false]; exact hmode), hbad]
    rfl
  · rw [if_neg (ne_true_of_eq_false huser), if_neg (by rw [Bool.not_eq_true', Bool.not_eq_false]; exact hmode), hgood]
    rfl

/-- BLOCK_FETCH of a live context that is to fetch: the boundary's events, or the leader's words, or the fetch. -/
theorem execBlockFetch_eq {s : State} (hlive : s.me.live = true) (hphase : s.me.phase = .fetch) {b : State × Bool}
    (hb : (s.applyWindow s.act.core s.act.ctx).boundary s.act.core s.act.ctx = b) :
    exec .blockFetch s = goes (
      if b.2 = false then b.1
      else
        let l := b.1.leaderOf s.act.core s.act.ctx
        let lead := b.1.ctxOf l.1 l.2
        if l ≠ (s.act.core, s.act.ctx) ∧ lead.phase = .body ∧ lead.pos = 0 ∧ lead.addr = b.1.me.addr then
          b.1.admitBlock s.act.core s.act.ctx lead.words
        else b.1.fetchBlock s.act.core s.act.ctx) := by
  show execBlockFetch s = _
  unfold execBlockFetch
  dsimp only
  rw [if_neg (by simp [hlive, hphase]), hb]
  cases b.2 with
  | false => rfl
  | true =>
    simp only [Bool.not_true, Bool.false_eq_true, if_false, Bool.true_eq_false]
    split <;> rfl

theorem blockFetch : BlockFetch := by
  intro s hlive hphase n k b c trap
  have hb : (s.applyWindow n k).AtBoundary b n k := by
    unfold State.AtBoundary
    rw [State.applyWindow_time]
  refine ⟨fun f hf => ?_, fun f hp hf => ?_, fun hp hq => ?_⟩
  · exact execBlockFetch_eq hlive hphase (State.boundary_of_pendFault hb hf)
  · exact execBlockFetch_eq hlive hphase (State.boundary_of_qntInf hb hp hf)
  · have hbound := State.boundary_of_no_fault hb hp hq
    refine ⟨fun hreq => ?_, fun hreq hevent hie => ?_, fun hreq htimer => ?_⟩
    · rw [if_pos hreq] at hbound
      exact execBlockFetch_eq hlive hphase hbound
    · rw [if_neg (ne_true_of_eq_false hreq), if_pos (by rw [Bool.and_eq_true]; exact ⟨hevent, hie⟩)] at hbound
      exact execBlockFetch_eq hlive hphase hbound
    · rw [if_neg (ne_true_of_eq_false hreq), if_neg (by rw [Bool.and_eq_true]; exact htimer)] at hbound
      have hexec := execBlockFetch_eq hlive hphase hbound
      rw [if_neg Bool.true_eq_false.mp] at hexec
      intro l
      refine ⟨fun hl hbody hpos haddr => ?_, fun hnot => ?_⟩
      · rw [hexec]
        dsimp only
        rw [if_pos ⟨hl, hbody, hpos, haddr⟩]
        exact admits_admitBlock b n k l.words
      · intro p
        have hfetch : exec .blockFetch s = goes (b.fetchBlock n k) := by
          rw [hexec]
          dsimp only
          rw [if_neg hnot]
        unfold State.fetchBlock at hfetch
        dsimp only at hfetch
        refine ⟨fun hodd => ⟨_, hfetch.trans (congrArg goes (if_pos hodd))⟩, fun heven => ?_⟩
        rw [if_neg (not_not_intro heven)] at hfetch
        refine ⟨fun hwait => ?_, fun e hfault => ?_, fun s1 w0 w1 hwords => ?_⟩
        · rw [hfetch, hwait]
        · rw [hfetch, hfault]
          rfl
        · intro w
          rw [hwords] at hfetch
          dsimp only at hfetch
          refine ⟨fun hblk => ?_, fun hblk hhdr => ?_, fun hblk hhdr s2 r hmore => ?_⟩
          · rw [hfetch, if_pos (by simp [hblk])]
            rfl
          · rw [hfetch, if_neg (by simp [hblk]), if_pos hhdr]
            rfl
          · rw [if_neg (by simp [hblk]), if_neg (not_not_intro hhdr), hmore] at hfetch
            refine ⟨fun hwait => ?_, fun e m hfault => ?_, fun ws hws => ?_⟩
            · rw [hfetch, hwait]
            · rw [hfetch, hfault]
              rfl
            · rw [hfetch, hws]
              exact admits_admitBlock s2 n k _

/-! ### Returns and the timer (R38, R42, R43) -/

/-- A timer that has reached zero raises its event. -/
theorem Context.raise_of_le {c : Context} {n now : Nat} (h : c.timerAt = some n) (hle : n ≤ now) :
    c.raise now = { c with timerAt := none, timerEvent := true } := by
  unfold Context.raise
  rw [h]
  exact if_pos hle

/-- A timer that still runs does not. -/
theorem Context.raise_of_lt {c : Context} {n now : Nat} (h : c.timerAt = some n) (hlt : now < n) : c.raise now = c := by
  unfold Context.raise
  rw [h]
  exact if_neg (by omega)

/-- A return that names a result writes it, and it is outstanding no more. -/
theorem Context.returnOne_of_some {c : Context} {k : Nat} {ws : List RegWrite} (h : c.outst[k]? = some ws) :
    c.returnOne k = { c with work := c.work.applyAll ws, outst := c.outst.take k ++ c.outst.drop (k + 1) } := by
  unfold Context.returnOne
  rw [h]
  rfl

/-- A discarded block leaves the committed registers, with no window write held (R27, R145). -/
theorem Context.discard_regs {c : Context} (h : c.heldWrites = []) : c.discard.arch = c.arch ∧ c.discard.work = c.arch := by
  unfold Context.discard Context.applyHeld
  dsimp only
  rw [h]
  exact ⟨rfl, rfl⟩

theorem returnsAndTimer : ReturnsAndTimer := by
  intro s c
  refine ⟨fun k ws hargs hk => ?_, fun n hat hle => ⟨fun hnot => ?_, fun hlive hbody hreq hie hset => ?_⟩,
    fun n hat hlt hevent => ?_⟩
  · have harg : s.arg 0 = k := by rw [State.arg, hargs]; rfl
    show execLoadReturn s = _
    unfold execLoadReturn
    dsimp only
    rw [State.onMe_act, hargs, State.onMe, harg, Context.returnOne_of_some hk]
  · show goes _ = goes _
    rw [State.onMe, ← Context.raise_of_le hat hle, if_neg]
    rintro ⟨hlive, hbody, hreq, hint⟩
    refine hnot ⟨hlive, hbody, hreq, ?_⟩
    rw [Context.interrupted, hreq] at hint
    simp only [Bool.false_or, Bool.and_eq_true, Bool.not_eq_true'] at hint
    exact ⟨hint.1.2, hint.2⟩
  · have hint : c.interrupted s.time = true := by
      rw [Context.interrupted, Context.raise_of_le hat hle]
      simp [hie, hset]
    refine ⟨c.interrupt s.time, ?_, ?_⟩
    · show goes _ = goes _
      rw [State.onMe, if_pos ⟨hlive, hbody, hreq, hint⟩]
    · unfold Context.interrupt
      rw [Context.raise_of_le hat hle]
      refine ⟨rfl, rfl, rfl, rfl, rfl, rfl, rfl, rfl, fun hheld => ?_⟩
      exact Context.discard_regs (c := { c with timerAt := none, timerEvent := true }) hheld
  · show goes _ = goes _
    rw [State.onMe, if_neg, Context.raise_of_lt hat hlt]
    rintro ⟨-, -, hreq, hint⟩
    rw [Context.interrupted, Context.raise_of_lt hat hlt, hreq, hevent] at hint
    exact absurd hint Bool.false_ne_true

/-! ### The vector queue (R224, R401) -/

/-- A core's fields other than its contexts may change without a context changing. -/
theorem State.ctxOf_setCore_same {s : State} {n : Nat} {x : Core} (h : x.ctxs = (s.core n).ctxs) (m j : Nat) :
    (s.setCore n x).ctxOf m j = s.ctxOf m j := by
  unfold State.ctxOf
  by_cases hm : m = n
  · rw [hm, State.core_setCore, h]
  · rw [State.core_setCore_other _ _ hm]

theorem vectorIssue : VectorIssue := by
  intro s k e rest hnext hq hshare u c
  have hu : s.onCore k (fun c => { c with vuq := rest, vtag := (c.vtag + 65536 / max c.vshare 1) % 2 ^ 32 }) = u := by
    rw [State.onCore, Nat.max_eq_left hshare]
  have hc : u.ctxOf k e.ctx = c := State.ctxOf_setCore_same (x := { s.core k with vuq := rest, vtag := _ }) rfl k e.ctx
  have hexec : exec .vuIssue s =
      if c.epoch ≠ e.epoch ∨ c.live = false then goes u
      else match e.trap with
        | some t => goes (u.takeTrap k e.ctx t)
        | none => goes (u.setCtx k e.ctx { c with work := c.work.applyAll e.writes, blockInf := c.blockInf.or e.inf }) := by
    show execVuIssue s = _
    unfold execVuIssue
    rw [hnext]
    dsimp only
    rw [hq]
    dsimp only
    rw [hu, hc]
    cases c.blockInf <;> rfl
  refine ⟨fun hgone => ?_, fun t hepoch hlive htrap => ?_, fun hepoch hlive htrap => ⟨_, ?_, rfl⟩⟩
  · rw [hexec, if_pos hgone]
  · rw [hexec, if_neg (by simp [hepoch, hlive]), htrap]
  · rw [hexec, if_neg (by simp [hepoch, hlive]), htrap]

/-- Settles O44: the fetch of a block, a return, the timer, and the performance of a vector instruction. -/
theorem contextEventResults : Obligations.ContextEventResults := ⟨blockFetch, returnsAndTimer, vectorIssue⟩

end Sys2Proof.Machine
end

section
/-!
PROOFS of O57: a step runs what its agent's words decode to. A context outside a gang that stands at a word (`AtWord`)
has one act, that of its words (`wordAct`), and its turn is that act when the scan of its core has it issue. Then come the
two kinds of issue, the bundle with flipped bits, what the scan's choice says of a gang and of a core, and the other
agents.
-/

namespace Sys2Proof.Machine

open Claims

set_option Elab.async false

/-! ### A turn of a context outside a gang -/

/-- A step takes the next turn of the agenda. -/
theorem step_of_agenda {s : State} {dt : Nat} {t : Turn} {rest : List (Nat × Turn)} (h : s.agenda = (dt, t) :: rest) :
    step s = runTurn { s with tick := s.tick + 1, agenda := rest, time := s.time + dt } t := by
  unfold step
  dsimp only
  rw [h]

theorem State.gangOf_alone {s : State} {n k : Nat} (h : (s.ctxOf n k).gang = none) : s.gangOf n k = [(n, k)] := by
  unfold State.gangOf
  rw [h]

theorem State.gangMembers_alone {s : State} {n k : Nat} (h : (s.ctxOf n k).gang = none) :
    s.gangMembers n k = (s, [(n, k)]) := by
  unfold State.gangMembers
  rw [State.gangOf_alone h]

/-- The turn of a context outside a gang: nothing when it would issue and the scan has another context issue. -/
theorem State.gangTurn_alone {s : State} {n k : Nat} (h : (s.ctxOf n k).gang = none) :
    s.gangTurn n k =
      if (s.ctxAct n k).issues = true ∧ s.issuer n ≠ some k then (s, []) else (s, [(n, k)]) := by
  unfold State.gangTurn
  rw [State.gangMembers_alone h]
  simp

theorem stepGang_single (s : State) (n k : Nat) : stepGang s [(n, k)] = stepContext s n k := by
  unfold stepGang
  cases stepContext s n k <;> rfl

theorem runTurn_of_single {s : State} {n k : Nat} (h : s.gangTurn n k = (s, [(n, k)])) :
    runTurn s (.context n k) = stepContext s n k := by
  unfold runTurn
  dsimp only
  rw [h]
  dsimp only
  rw [stepGang_single]
  cases stepContext s n k <;> rfl

/-- A turn in which the context does not issue, or may. -/
theorem runTurn_alone {s : State} {n k : Nat} (hgang : (s.ctxOf n k).gang = none)
    (h : (s.ctxAct n k).issues = true → s.issuer n = some k) : runTurn s (.context n k) = stepContext s n k := by
  refine runTurn_of_single ?_
  rw [State.gangTurn_alone hgang, if_neg (fun hc => hc.2 (h hc.1))]

/-- A turn in which the context would issue and the scan does not have it (R40, R41): its cycles pass. -/
theorem runTurn_of_passed_over {s : State} {n k : Nat} (hgang : (s.ctxOf n k).gang = none)
    (hact : (s.ctxAct n k).issues = true) (h : s.issuer n ≠ some k) : runTurn s (.context n k) = .next s := by
  have hg := State.gangTurn_alone hgang
  rw [if_pos ⟨hact, h⟩] at hg
  unfold runTurn
  dsimp only
  rw [hg]
  rfl

/-! ### What a context does at its words -/

/-- A live context outside a gang stands at a word of its block with nothing to do before it: no fault, no interrupt, no wait for
results, room in the vector queue, and a bundle without flipped bits. -/
structure State.AtWord (s : State) (n k : Nat) : Prop where
  live : (s.ctxOf n k).live = true
  unlocked : (s.ctxOf n k).locked = false
  alone : (s.ctxOf n k).gang = none
  body : (s.ctxOf n k).phase = .body
  stays : (s.ctxOf n k).exit = none
  noSwitch : (s.ctxOf n k).switchReq = false
  calm : (s.ctxOf n k).interrupted s.time = false
  noStall : (s.ctxOf n k).stall = none
  inBlock : (s.ctxOf n k).pos < (s.ctxOf n k).words.length
  notParked : (s.ctxOf n k).parked = false
  whole : (s.ctxOf n k).aDone = false
  room : (s.core n).vuq.length < 8
  sound : s.mem.errOf 0x0A n (64 * k + (s.ctxOf n k).pos / 2) = none

/-- The word at a context's position, and the one behind it. -/
def Context.word0 (c : Context) : BitVec 32 := c.words.getD c.pos 0
def Context.word1 (c : Context) : BitVec 32 := c.words.getD (c.pos + 1) 0

/-- A word issues alone: it stands second in its bundle, or the bundle's words are lone ones (R46, R48). -/
def Context.Lone (c : Context) : Prop := c.pos % 2 = 1 ∨ wordTop c.word0 = true
/-- A pair issues (R47). -/
def Context.Pair (c : Context) : Prop := c.pos % 2 = 0 ∧ wordTop c.word0 = false

/-- The act that two words at a context's position ask for. -/
def wordAct (paired : Bool) (w0 w1 : BitVec 32) : CtxAct :=
  if paired then
    match decodeWord w0, decodeWord w1 with
    | .ok m, .ok a => .pair m a
    | .error _, _ => .bad w0
    | _, .error _ => .bad w1
  else match decodeWord w0 with
    | .ok i => .word i
    | .error _ => .bad w0

section

variable {s : State} {n k : Nat}

theorem State.ctxAct_atWord (h : s.AtWord n k) :
    s.ctxAct n k = wordAct ((s.ctxOf n k).pos % 2 == 0 && !wordTop (s.ctxOf n k).word0)
      (s.ctxOf n k).word0 (s.ctxOf n k).word1 := by
  have hin : ¬ (s.ctxOf n k).words.length ≤ (s.ctxOf n k).pos := Nat.not_le.mpr h.inBlock
  have hroom : ¬ 8 ≤ (s.core n).vuq.length := Nat.not_le.mpr h.room
  unfold State.ctxAct
  simp only [h.live, h.unlocked, h.noStall, h.body, h.sound, h.noSwitch, h.calm, h.stays, h.notParked, h.whole, hin, hroom,
    Option.isSome_none, Bool.not_true, Bool.or_self, Bool.false_eq_true, if_false, decide_false, Bool.false_and]
  rfl

/-- A word that issues alone is no pair. -/
theorem Context.Lone.not_paired {c : Context} (h : c.Lone) : ¬ (c.pos % 2 == 0 && !wordTop c.word0) = true := by
  rcases h with hodd | htop
  · simp [hodd]
  · simp [htop]

theorem State.ctxAct_of_lone (h : s.AtWord n k) (hlone : (s.ctxOf n k).Lone) {i : Instr}
    (hi : decodeWord (s.ctxOf n k).word0 = .ok i) : s.ctxAct n k = .word i := by
  rw [State.ctxAct_atWord h, wordAct, if_neg hlone.not_paired, hi]

theorem State.ctxAct_of_undecodable (h : s.AtWord n k) (hlone : (s.ctxOf n k).Lone) {e : DecodeError}
    (he : decodeWord (s.ctxOf n k).word0 = .error e) : s.ctxAct n k = .bad (s.ctxOf n k).word0 := by
  rw [State.ctxAct_atWord h, wordAct, if_neg hlone.not_paired, he]

theorem State.ctxAct_of_pair (h : s.AtWord n k) (hpair : (s.ctxOf n k).Pair) {m a : Instr}
    (hm : decodeWord (s.ctxOf n k).word0 = .ok m) (ha : decodeWord (s.ctxOf n k).word1 = .ok a) :
    s.ctxAct n k = .pair m a := by
  obtain ⟨heven, htop⟩ := hpair
  rw [State.ctxAct_atWord h, wordAct, if_pos (by simp [heven, htop]), hm, ha]

/-! ### The state as a word issues -/

theorem State.ctxOf_of_cores {t : State} (h : t.cores = s.cores) (m j : Nat) : t.ctxOf m j = s.ctxOf m j := by
  unfold State.ctxOf State.core
  rw [h]

theorem State.ctxOf_onCore_same {f : Core → Core} (h : (f (s.core n)).ctxs = (s.core n).ctxs) (m j : Nat) :
    (s.onCore n f).ctxOf m j = s.ctxOf m j :=
  State.ctxOf_setCore_same h m j

theorem State.issueAt_clean (h : s.mem.errs = []) (paired : Bool) :
    s.issueAt n k paired = ((s.actAs n k 0 []).onCtx n k (fun c => c.issue s.time paired)).onCore n
      (fun c => { c with lastCtx := k, issuedAt := some s.time }) := by
  unfold State.issueAt
  dsimp only
  rw [s.readNamed_clean n k paired h]
  rfl

theorem State.ctxOf_issueAt (h : s.mem.errs = []) (paired : Bool) :
    (s.issueAt n k paired).ctxOf n k = (s.ctxOf n k).issue s.time paired := by
  rw [State.issueAt_clean h]
  refine (State.ctxOf_onCore_same rfl _ _).trans ?_
  exact State.ctxOf_setCtx _ n k _

theorem State.ctxOf_issueAt_other (h : s.mem.errs = []) (paired : Bool) {m j : Nat} (hne : m ≠ n ∨ j ≠ k) :
    (s.issueAt n k paired).ctxOf m j = s.ctxOf m j := by
  rw [State.issueAt_clean h]
  refine (State.ctxOf_onCore_same rfl _ _).trans ?_
  exact State.ctxOf_setCtx_other _ _ hne

theorem State.me_issueAt (h : s.mem.errs = []) (paired : Bool) :
    (s.issueAt n k paired).me = (s.ctxOf n k).issue s.time paired := by
  have hact : (s.issueAt n k paired).act = { core := n, ctx := k } := rfl
  rw [State.me, hact]
  exact State.ctxOf_issueAt h paired

/-- The context is its core's last to issue (R41). -/
theorem State.myCore_issueAt (h : s.mem.errs = []) (paired : Bool) :
    (s.issueAt n k paired).myCore.lastCtx = k ∧ (s.issueAt n k paired).myCore.issuedAt = some s.time := by
  rw [State.issueAt_clean h]
  exact ⟨congrArg Core.lastCtx (State.core_onCore _ n _), congrArg Core.issuedAt (State.core_onCore _ n _)⟩

theorem State.issueAt_frame (h : s.mem.errs = []) (paired : Bool) :
    (s.issueAt n k paired).mem = s.mem ∧ (s.issueAt n k paired).agenda = s.agenda ∧
      (s.issueAt n k paired).tick = s.tick ∧ (s.issueAt n k paired).time = s.time := by
  rw [State.issueAt_clean h]
  exact ⟨rfl, rfl, rfl, rfl⟩

/-- The position ends its block's part before a switch marker, or the block (R42). -/
def Context.endsAt (c : Context) (p : Nat) : Bool :=
  p % 2 == 1 && (wordTop (c.words.getD p 0) || decide (c.words.length ≤ p + 1))

theorem Context.issue_lone {c : Context} (h : c.aDone = false) (now : Nat) :
    c.issue now false = { c with
      cur := c.pos, pos := c.pos + 1, parked := c.endsAt c.pos, snap := none
      split := c.pos % 2 == 0
      lastIssue := if c.split = true ∧ c.pos % 2 = 1 then c.lastIssue else some now } := by
  simp [Context.issue, Context.endsAt, h]

theorem Context.issue_pair {c : Context} (h : c.aDone = false) (heven : c.pos % 2 = 0) (now : Nat) :
    c.issue now true = { c with
      cur := c.pos, pos := c.pos + 2, parked := c.endsAt (c.pos + 1), lastIssue := some now, snap := some c.work
      split := false } := by
  simp [Context.issue, Context.endsAt, h, heven]

/-! ### The turn of a context at its words -/

theorem runTurn_of_lone (h : s.AtWord n k) (hlone : (s.ctxOf n k).Lone) {i : Instr}
    (hi : decodeWord (s.ctxOf n k).word0 = .ok i) (hscan : s.issuer n = some k) :
    runTurn s (.context n k) = exec i (s.issueAt n k false) := by
  rw [runTurn_alone h.alone (fun _ => hscan), stepContext, State.ctxAct_of_lone h hlone hi]

theorem runTurn_of_undecodable (h : s.AtWord n k) (hlone : (s.ctxOf n k).Lone) {e : DecodeError}
    (he : decodeWord (s.ctxOf n k).word0 = .error e) :
    runTurn s (.context n k) = .fault (.blockWord (s.ctxOf n k).word0) := by
  have hact := State.ctxAct_of_undecodable h hlone he
  rw [runTurn_alone h.alone (by rw [hact]; exact nofun), stepContext, hact]

theorem runTurn_of_pair (h : s.AtWord n k) (hpair : (s.ctxOf n k).Pair) {m a : Instr}
    (hm : decodeWord (s.ctxOf n k).word0 = .ok m) (ha : decodeWord (s.ctxOf n k).word1 = .ok a)
    (hscan : s.issuer n = some k) : runTurn s (.context n k) = stepPair s n k m a := by
  rw [runTurn_alone h.alone (fun _ => hscan), stepContext, State.ctxAct_of_pair h hpair hm ha]

/-- An A word that has to wait leaves the pair as it was (R47). -/
theorem stepPair_of_a_waits {m a : Instr} {t : State} (hwhole : (s.ctxOf n k).aDone = false)
    (ha : exec a (s.issueAt n k true).onAWord = .next t) (hepoch : t.me.epoch = (s.issueAt n k true).me.epoch)
    (hwaits : t.me.pos = t.me.cur) : stepPair s n k m a = .next s := by
  unfold stepPair
  dsimp only
  rw [if_neg (ne_true_of_eq_false hwhole), ha]
  dsimp only
  rw [if_neg (not_not_intro hepoch), if_pos hwaits]

/-- Behind an A word that has issued, the M word issues. -/
theorem stepPair_of_a_done {m a : Instr} {t : State} (hwhole : (s.ctxOf n k).aDone = false)
    (ha : exec a (s.issueAt n k true).onAWord = .next t) (hepoch : t.me.epoch = (s.issueAt n k true).me.epoch)
    (hdone : t.me.pos ≠ t.me.cur) : stepPair s n k m a = stepMWord (s.issueAt n k true) t m := by
  unfold stepPair
  dsimp only
  rw [if_neg (ne_true_of_eq_false hwhole), ha]
  dsimp only
  rw [if_neg (not_not_intro hepoch), if_neg hdone]

/-- What becomes of the M word: it is done, or waits and issues again alone, with the registers from before the pair. -/
theorem stepMWord_of_next {s0 t v : State} {m : Instr} (hm : exec m t.onMWord = .next v) :
    stepMWord s0 t m =
      if v.me.phase = .body ∧ v.me.epoch = s0.me.epoch ∧ v.me.pos = v.me.cur ∧ v.me.exit = none then .next (v.waitPair s0)
      else .next v := by
  unfold stepMWord
  rw [hm]

/-! ### A bundle with flipped bits (R361, R362, log entry 65) -/

/-- An uncorrectable word of an array is answered with its flipped bits; the cores stay as they are. -/
theorem State.readArray_uncorrectable {e : ArrayErr} {array unit word : Nat} (h : s.mem.errOf array unit word = some e)
    (hflips : 2 ≤ popCount 64 e.flips.toNat) (addr : Word) :
    (s.readArray array unit word addr).2 = some e.flips ∧ (s.readArray array unit word addr).1.cores = s.cores := by
  unfold State.readArray
  rw [h]
  dsimp only
  rw [if_neg (by omega)]
  exact ⟨rfl, rfl⟩

/-- The block of such a bundle is discarded, and fetched again. -/
theorem State.ctxOf_readBuffer {e : ArrayErr} (h : s.mem.errOf 0x0A n (64 * k + (s.ctxOf n k).pos / 2) = some e)
    (hflips : 2 ≤ popCount 64 e.flips.toNat) :
    (s.readBuffer n k).ctxOf n k = (s.ctxOf n k).discard.fetchFrom (s.ctxOf n k).addr := by
  obtain ⟨hfound, hcores⟩ := State.readArray_uncorrectable h hflips 0
  have hctx : (s.readArray 0x0A n (64 * k + (s.ctxOf n k).pos / 2) 0).1.ctxOf n k = s.ctxOf n k :=
    State.ctxOf_of_cores hcores n k
  unfold State.readBuffer
  dsimp only
  rw [hfound]
  dsimp only
  rw [State.onCtx, State.ctxOf_setCtx, hctx]

/-- A live context in a block whose bundle has flipped bits reads them in its turn. -/
theorem runTurn_of_flipped {e : ArrayErr} (hlive : (s.ctxOf n k).live = true) (hunlocked : (s.ctxOf n k).locked = false)
    (hstall : (s.ctxOf n k).stall = none) (halone : (s.ctxOf n k).gang = none) (hbody : (s.ctxOf n k).phase = .body)
    (he : s.mem.errOf 0x0A n (64 * k + (s.ctxOf n k).pos / 2) = some e) :
    runTurn s (.context n k) = .next (s.readBuffer n k) := by
  have hact : s.ctxAct n k = .retest := by
    unfold State.ctxAct
    simp [hlive, hunlocked, hstall, hbody, he]
  rw [runTurn_alone halone (by rw [hact]; exact nofun), stepContext, hact]
  unfold State.retestWait
  rw [hbody]

/-! ### The scan of a core (R40, R41, R44, R48, R192) -/

/-- The context that issues has its word 1 to issue, or the scan has come to it. -/
theorem State.issuer_cases {i : Nat} (h : s.issuer n = some i) :
    (s.core n).issuedAt ≠ some s.time ∧
      (s.secondWord n i = true ∨
        (∀ j ∈ (s.core n).rotation, s.secondWord n j ≠ true) ∧ s.issuable n i = true) := by
  unfold State.issuer at h
  dsimp only at h
  split at h
  · exact absurd h nofun
  next hfree =>
    refine ⟨hfree, ?_⟩
    split at h
    next j hj =>
      obtain rfl := Option.some.inj h
      exact .inl (List.find?_some hj)
    next hnone =>
      exact .inr ⟨List.find?_eq_none.mp hnone, List.find?_some h⟩

/-- Every context of a core stands in its rotation. -/
theorem Core.mem_rotation {c : Core} {j : Nat} (h : j < c.nctx) : j ∈ c.rotation := by
  have hlt := Nat.mod_lt (c.lastCtx + 1) (Nat.zero_lt_of_lt h)
  have hdiv := Nat.div_add_mod (c.lastCtx + 1) c.nctx
  refine List.mem_map.mpr ⟨(j + (c.nctx - (c.lastCtx + 1) % c.nctx)) % c.nctx,
    List.mem_range.mpr (Nat.mod_lt _ (Nat.zero_lt_of_lt h)), ?_⟩
  rw [Nat.add_mod_mod, show c.lastCtx + 1 + (j + (c.nctx - (c.lastCtx + 1) % c.nctx)) =
    j + c.nctx * ((c.lastCtx + 1) / c.nctx + 1) by rw [Nat.mul_add, Nat.mul_one]; omega, Nat.add_mul_mod_self_left,
    Nat.mod_eq_of_lt h]

/-- A context that the scan has come to is ready, and so are the members of its gang that stand at its word. -/
theorem State.issuable_cases {i : Nat} (h : s.issuable n i = true) :
    (s.ctxAct n i).issues = true ∧
      (∀ m ∈ s.gangOf n i, (s.ctxOf m.1 m.2).phase = .fetch ∨
        (s.ctxAct m.1 m.2).issues = true ∧ (s.ctxOf n i).pos ≤ (s.ctxOf m.1 m.2).pos) ∧
      ∀ m ∈ s.mates n i, s.slotOk m.1 m.2 = true ∧ (s.ctxOf m.1 m.2).eligible s.time = true ∧
        (s.core m.1).issuedAt ≠ some s.time ∧ s.scanAt m.1 m.2 = true := by
  simp only [State.issuable, State.ready, State.coreFree, Bool.and_eq_true, List.all_eq_true, Bool.or_eq_true, beq_iff_eq,
    decide_eq_true_eq, bne_iff_ne] at h
  obtain ⟨⟨⟨hact, hgang⟩, hmates⟩, hscan⟩ := h
  refine ⟨hact, hgang, fun m hm => ?_⟩
  obtain ⟨⟨hslot, helig⟩, hfree, -⟩ := hmates m hm
  exact ⟨hslot, helig, hfree, hscan m hm⟩

theorem State.mem_mates {i : Nat} {m : Nat × Nat} (hm : m ∈ s.gangOf n i) (hact : (s.ctxAct m.1 m.2).issues = true)
    (hpos : (s.ctxOf m.1 m.2).pos = (s.ctxOf n i).pos) : m ∈ s.mates n i := by
  simp [State.mates, hm, hact, hpos]

/-- The scan comes to a context only when no lone bundle of its core has its word 1 to issue. -/
theorem State.issuable_of_issuer {i : Nat} (h : s.issuer n = some i) (hword : s.secondWord n i = false) :
    s.issuable n i = true := by
  obtain ⟨-, hsecond | ⟨-, hscan⟩⟩ := State.issuer_cases h
  · exact absurd hsecond (ne_true_of_eq_false hword)
  · exact hscan

/-- No other context's word 1 is passed over (R48). -/
theorem State.secondWord_of_issuer {i j : Nat} (h : s.issuer n = some i) (hj : s.secondWord n j = true)
    (hlt : j < (s.core n).nctx) : s.secondWord n i = true := by
  obtain ⟨-, hsecond | ⟨hnone, -⟩⟩ := State.issuer_cases h
  · exact hsecond
  · exact absurd hj (hnone j (Core.mem_rotation hlt))

/-- A context outside a gang that the scan has come to may issue (R40, R41). -/
theorem State.may_issue_of_issuer {i : Nat} (h : s.issuer n = some i) :
    s.secondWord n i = true ∨
      s.slotOk n i = true ∧ (s.ctxOf n i).gang = none ∧ (s.ctxOf n i).eligible s.time = true ∨
      (s.ctxOf n i).gang ≠ none := by
  by_cases hgang : (s.ctxOf n i).gang = none
  · obtain ⟨-, hsecond | ⟨-, hscan⟩⟩ := State.issuer_cases h
    · exact .inl hsecond
    · obtain ⟨hact, -, hmates⟩ := State.issuable_cases hscan
      have hself : (n, i) ∈ s.gangOf n i := by rw [State.gangOf_alone hgang]; exact List.mem_singleton_self _
      obtain ⟨hslot, helig, -⟩ := hmates _ (State.mem_mates hself hact rfl)
      exact .inr (.inl ⟨hslot, hgang, helig⟩)
  · exact .inr (.inr hgang)

/-! ### Elements, router operators and sequencers -/

variable {i : Instr}

/-- An element that has taken a token fires as its plane names; no marker comes before it. -/
theorem State.elementInstr_of_taken (hrun : (s.site n).running = true) (hchange : (s.site n).change = none)
    (htaken : (s.site n).taken ≠ []) (hwords : (s.site n).elem.words ≠ 0) (hi : decodeElement (s.site n).op = some i) :
    s.elementInstr n = some i := by
  have hempty : (s.site n).taken.isEmpty = false := by simpa using htaken
  unfold State.elementInstr
  simp [hrun, hchange, hempty, hwords, hi]

theorem State.routerInstr_of_running (hrun : (s.site n).running = true)
    (hi : decodeRouter ((s.site n).plane.bits 91 90) = some i) : s.routerInstr n = some i := by
  unfold State.routerInstr
  dsimp only
  rw [if_pos hrun, hi]

/-- The word at a sequencer's pc. -/
def Site.seqWord (x : Site) : BitVec 32 := x.plane.seq.getD (x.seq.r.pc % 64) 0

theorem State.seqInstr_of_running (hrun : (s.site n).running = true) (hfence : (s.site n).seq.fence = none)
    (hmode : (s.site n).seq.mode = .run) :
    (∀ i, decodeSeq (s.site n).seqWord = some i → s.seqInstr n = .ok (some i)) ∧
      (decodeSeq (s.site n).seqWord = none → s.seqInstr n = .error (s.site n).seqWord) := by
  unfold State.seqInstr Site.seqWord
  simp only [hrun, hfence, hmode, Bool.not_true, Bool.false_eq_true, if_false, Option.isSome_none, beq_self_eq_true, if_true]
  refine ⟨fun i hi => ?_, fun hnone => ?_⟩
  · rw [hi]
  · rw [hnone]

/-- The turns of an element, a router operator and a sequencer, on the tokens as they have moved. -/
theorem runTurn_of_element (hi : s.flowAll.elementInstr n = some i) :
    runTurn s (.element n) = exec i (s.flowAll.actAs 0 0 n []) := by
  unfold runTurn
  dsimp only
  rw [hi]

theorem runTurn_of_router (hi : s.flowAll.routerInstr n = some i) :
    runTurn s (.router n) = exec i (s.flowAll.actAs 0 0 n []) := by
  unfold runTurn
  dsimp only
  rw [hi]

theorem runTurn_of_sequencer (hi : s.flowAll.seqInstr n = .ok (some i)) :
    runTurn s (.sequencer n) = exec i (s.flowAll.actAs 0 0 n []) := by
  unfold runTurn
  dsimp only
  rw [hi]

theorem runTurn_of_seqWord {w : BitVec 32} (hw : s.flowAll.seqInstr n = .error w) :
    runTurn s (.sequencer n) = .fault (.seqWord w) := by
  unfold runTurn
  dsimp only
  rw [hw]

end

/-- Settles O57: a turn is the act that its agent's words ask for, around which the step counts and lets the time pass. -/
theorem stepRunsDecoded : Obligations.StepRunsDecoded := by
  intro s n k dt rest begun
  refine ⟨?_, ?_, ?_, ?_, ?_, ?_, ?_⟩
  · intro c w0 w1 ends lone pair hag hlive hunlocked halone hbody hstays hswitch hcalm hstall hin hparked hwhole hroom hsound
    have hword : (begun s).AtWord n k :=
      ⟨hlive, hunlocked, halone, hbody, hstays, hswitch, hcalm, hstall, hin, hparked, hwhole, hroom, hsound⟩
    have hstep : step s = runTurn (begun s) (.context n k) := step_of_agenda hag
    refine ⟨fun i hlone hi hscan => ?_, fun i herrs hlone hi hscan => ?_, fun i hlone hi hscan => ?_, fun e hlone he => ?_,
      fun m a hpair hm ha hscan => ?_, fun m a herrs hpair hm ha hscan => ?_⟩
    · exact hstep.trans (runTurn_of_lone hword hlone hi hscan)
    · obtain ⟨hlast, hat⟩ := State.myCore_issueAt (s := begun s) (n := n) (k := k) herrs false
      obtain ⟨hmem, hagenda, htick, htime⟩ := State.issueAt_frame (s := begun s) (n := n) (k := k) herrs false
      have hme := (State.me_issueAt (s := begun s) herrs false).trans (Context.issue_lone hwhole _)
      exact ⟨_, hstep.trans (runTurn_of_lone hword hlone hi hscan), rfl, hme, hlast, hat, hmem, hagenda, htick, htime,
        fun m j hne => State.ctxOf_issueAt_other (s := begun s) herrs false hne⟩
    · have hact : ((begun s).ctxAct n k).issues = true := by rw [State.ctxAct_of_lone hword hlone hi]; rfl
      exact hstep.trans (runTurn_of_passed_over halone hact hscan)
    · exact hstep.trans (runTurn_of_undecodable hword hlone he)
    · have hact : ((begun s).ctxAct n k).issues = true := by rw [State.ctxAct_of_pair hword hpair hm ha]; rfl
      exact hstep.trans (runTurn_of_passed_over halone hact hscan)
    · have hturn := hstep.trans (runTurn_of_pair hword hpair hm ha hscan)
      have hme : ((begun s).issueAt n k true).me = { c with
          cur := c.pos, pos := c.pos + 2, parked := ends (c.pos + 1), lastIssue := some (s.time + dt), snap := some c.work
          split := false } :=
        (State.me_issueAt (s := begun s) herrs true).trans (Context.issue_pair hwhole hpair.1 _)
      have hepoch : ((begun s).issueAt n k true).me.epoch = c.epoch := by rw [hme]
      have hsnap : ((begun s).issueAt n k true).me.snap = some c.work := by rw [hme]
      refine ⟨((begun s).issueAt n k true).onAWord, ?_, rfl, ?_, fun t ht he hwaits => ?_, fun t v ht he hdone hv => ?_⟩
      · rw [State.onAWord, State.me_onMe, hme]
      · exact (State.issueAt_frame (s := begun s) herrs true).1
      · exact hturn.trans (stepPair_of_a_waits (s := begun s) hwhole ht (he.trans hepoch.symm) hwaits)
      · rw [hturn, stepPair_of_a_done (s := begun s) hwhole ht (he.trans hepoch.symm) hdone, stepMWord_of_next hv, hepoch]
        refine ⟨fun hnot => if_neg hnot, fun hb hep hpos hex => ?_⟩
        rw [if_pos ⟨hb, hep, hpos, hex⟩, State.waitPair, hsnap]
        rfl
  · intro c e hag hlive hunlocked hstall halone hbody he hflips
    refine ⟨(begun s).readBuffer n k, ?_, ?_⟩
    · exact (step_of_agenda hag).trans (runTurn_of_flipped (s := begun s) hlive hunlocked hstall halone hbody he)
    · rw [State.ctxOf_readBuffer (s := begun s) he hflips]
      exact ⟨rfl, rfl, fun hheld => (Context.discard_regs hheld).1⟩
  · intro i hi hword m hm hact
    obtain ⟨-, hgang, -⟩ := State.issuable_cases (State.issuable_of_issuer hi hword)
    rcases hgang m hm with hfetch | ⟨-, hpos⟩
    · exact .inr hfetch
    · exact .inl hpos
  · intro i hi hword m hm hact hpos
    obtain ⟨-, -, hmates⟩ := State.issuable_cases (State.issuable_of_issuer hi hword)
    exact hmates m (State.mem_mates hm hact hpos)
  · exact fun i j hi => ⟨(State.issuer_cases hi).1, State.secondWord_of_issuer hi, State.may_issue_of_issuer hi⟩
  · exact fun site args i hag => step_of_agenda hag
  · intro u x acting
    refine ⟨fun i hag hrun hchange htaken hwords hi => ?_, fun i hag hrun hi => ?_, fun hag hrun hfence hmode => ?_⟩
    · exact (step_of_agenda hag).trans (runTurn_of_element (State.elementInstr_of_taken hrun hchange htaken hwords hi))
    · exact (step_of_agenda hag).trans (runTurn_of_router (State.routerInstr_of_running hrun hi))
    · obtain ⟨hsome, hnone⟩ := State.seqInstr_of_running hrun hfence hmode
      exact ⟨fun i hi => (step_of_agenda hag).trans (runTurn_of_sequencer (hsome i hi)),
        fun hw => (step_of_agenda hag).trans (runTurn_of_seqWord (hnone hw))⟩

end Sys2Proof.Machine
end

section
/-!
SUPPORT. What a core's port, its caches and their slices do leaves the contexts as they are, but for two fields: the
writes of others that a load has seen, and the record for which an access that failed at the port has its context sleep.
A read of a register through the window may flip bits of it besides. `Keeps e s0 s` says that what `e` reads of the
contexts stands in s as it stood in s0; one lemma per operation `f` of the model, `f_keeps`, in the order of the model's
files, as for memory's form (O58).
-/

namespace Sys2Proof.Machine

set_option Elab.async false

/-! ### What is kept -/

/-- What e reads of the contexts of these cores is what it reads of those of s0, and the same party acts. -/
def KeepsCores {α : Type} (e : Context → α) (s0 : State) (act : Acting) (cores : Map Core) : Prop :=
  act = s0.act ∧ ∀ n k, e (mget {} (mget {} cores n).ctxs k) = e (s0.ctxOf n k)

/-- What e reads of the contexts is as it was in s0, and the same party acts. -/
def Keeps {α : Type} (e : Context → α) (s0 s : State) : Prop := KeepsCores e s0 s.act s.cores

/-- e reads neither what a load has seen nor whether a failed access holds the context. -/
structure IgnoresPort {α : Type} (e : Context → α) : Prop where
  seen : ∀ c l, e { c with seen := l } = e c
  stall : ∀ c x, e { c with stall := x } = e c

/-- e reads no register either. -/
structure IgnoresRegs {α : Type} (e : Context → α) : Prop extends IgnoresPort e where
  regs : ∀ c arch work snap, e { c with arch := arch, work := work, snap := snap } = e c

/-- A check that passes keeps what e reads. -/
def ChkKeeps {α β : Type} (e : Context → α) (s0 : State) : Chk β → Prop
  | .ok s _ => Keeps e s0 s
  | .fault _ _ _ _ => True
  | .wait => True

variable {α β : Type} {e : Context → α} {s0 s : State}

theorem Keeps.refl (e : Context → α) (s : State) : Keeps e s s := ⟨rfl, fun _ _ => rfl⟩

/-- What e reads of the acting context. -/
theorem Keeps.me (h : Keeps e s0 s) : e s.me = e s0.me := by
  obtain ⟨hact, hctx⟩ := h
  have hme := hctx s.act.core s.act.ctx
  rw [hact] at hme
  unfold State.me
  rw [hact]
  exact hme

theorem keeps_mk {act agenda time tick cores herds sets mem launch fault fabric dev} :
    Keeps e s0 (State.mk act agenda time tick cores herds sets mem launch fault fabric dev) ↔ KeepsCores e s0 act cores :=
  Iff.rfl
theorem keepsCores_iff : KeepsCores e s0 s.act s.cores ↔ Keeps e s0 s := Iff.rfl

@[simp] theorem chkKeeps_ok {x : β} : ChkKeeps e s0 (.ok s x) ↔ Keeps e s0 s := Iff.rfl
@[simp] theorem chkKeeps_fault {c : Nat} {t u : Word} : ChkKeeps e s0 (.fault s c t u : Chk β) := trivial
@[simp] theorem chkKeeps_wait : ChkKeeps e s0 (.wait : Chk β) := trivial

theorem fst_ite_keeps {c : Prop} [Decidable c] {a b : State × β} (ha : Keeps e s0 a.1) (hb : Keeps e s0 b.1) :
    Keeps e s0 (if c then a else b).1 :=
  ite_both (motive := fun r : State × β => Keeps e s0 r.1) ha hb

theorem foldl_keeps {γ : Type} (f : State → γ → State) (hf : ∀ s x, Keeps e s0 s → Keeps e s0 (f s x)) (l : List γ) (s : State)
    (h : Keeps e s0 s) : Keeps e s0 (l.foldl f s) :=
  List.foldlRecOn (motive := Keeps e s0) l f h (fun t ht x _ => hf t x ht)

/-! ### The operations of Machine/Ops.lean -/

theorem State.onCore_keeps {n : Nat} {f : Core → Core} (hf : (f (s.core n)).ctxs = (s.core n).ctxs) (h : Keeps e s0 s) :
    Keeps e s0 (s.onCore n f) :=
  ⟨h.1, fun m k => (congrArg e (State.ctxOf_onCore_same hf m k)).trans (h.2 m k)⟩

theorem State.onCtx_keeps {n k : Nat} {f : Context → Context} (hf : e (f (s.ctxOf n k)) = e (s.ctxOf n k))
    (h : Keeps e s0 s) : Keeps e s0 (s.onCtx n k f) := by
  refine ⟨h.1, fun m j => ?_⟩
  by_cases hmj : m = n ∧ j = k
  · obtain ⟨rfl, rfl⟩ := hmj
    exact ((congrArg e (State.ctxOf_setCtx s m j _)).trans hf).trans (h.2 m j)
  · exact (congrArg e (State.ctxOf_setCtx_other s _ (by tauto))).trans (h.2 m j)

theorem State.onHerd_keeps {n : Nat} {f : Herd → Herd} (h : Keeps e s0 s) : Keeps e s0 (s.onHerd n f) := h

theorem State.postFault_keeps {r : FaultRec} (h : Keeps e s0 s) : Keeps e s0 (s.postFault r) := h

/-! ### The operations of Machine/Memory.lean -/

theorem State.corrected_keeps {d u : Nat} {a : Word} (h : Keeps e s0 s) : Keeps e s0 (s.corrected d u a) := h

theorem State.arrayLost_keeps {d u : Nat} {a : Word} (h : Keeps e s0 s) : Keeps e s0 (s.arrayLost d u a) := h

theorem State.poisonWord_keeps {w : Nat} {x : Word} (h : Keeps e s0 s) : Keeps e s0 (s.poisonWord w x) := h

theorem State.checkTile_keeps {t : Nat} (h : Keeps e s0 s) : Keeps e s0 (s.checkTile t).1 := by
  grind [State.checkTile, keeps_mk, keepsCores_iff, State.corrected_keeps]

theorem State.checkRows_keeps {t r0 r1 : Nat} (h : Keeps e s0 s) : Keeps e s0 (s.checkRows t r0 r1).1 := by
  grind [State.checkRows, State.checkTile_keeps]

theorem State.exposeFlips_keeps {t : Nat} (h : Keeps e s0 s) : Keeps e s0 (s.exposeFlips t) := by
  unfold State.exposeFlips
  split
  · exact h
  · refine foldl_keeps _ (fun t x ht => ?_) _ _ h
    exact ht

theorem State.putByte_keeps {a : Nat} {b : Byte} (h : Keeps e s0 s) : Keeps e s0 (s.putByte a b) := by
  unfold State.putByte
  dsimp only
  split <;> exact h

theorem State.putBytes_keeps {bs : List Byte} {a : Nat} (h : Keeps e s0 s) : Keeps e s0 (s.putBytes a bs) := by
  induction bs generalizing s a with
  | nil => exact h
  | cons b bs ih => exact ih (State.putByte_keeps h)

theorem State.readArray_keeps {a u w : Nat} {addr : Word} (h : Keeps e s0 s) : Keeps e s0 (s.readArray a u w addr).1 := by
  unfold State.readArray
  split
  · exact h
  · exact fst_ite_keeps h h

theorem State.detectHome_keeps {w : Nat} (h : Keeps e s0 s) : Keeps e s0 (s.detectHome w) := by
  unfold State.detectHome
  split
  · exact h
  · have hr : Keeps e s0 (s.readArray 0x0D (s.homeSlice w) w (BitVec.ofNat 64 (8 * w))).1 := State.readArray_keeps h
    dsimp only
    split
    · exact State.poisonWord_keeps hr
    · exact hr

theorem State.detectStored_keeps {w : Nat} (h : Keeps e s0 s) : Keeps e s0 (s.detectStored w) := by
  unfold State.detectStored
  dsimp only
  split
  · exact h
  · exact ite_both h h

theorem State.detect_keeps {w : Nat} (h : Keeps e s0 s) : Keeps e s0 (s.detect w) :=
  State.detectStored_keeps (State.detectHome_keeps h)

theorem State.detectAll_keeps {ws : List Nat} (h : Keeps e s0 s) : Keeps e s0 (s.detectAll ws) :=
  foldl_keeps _ (fun _ _ => State.detect_keeps) ws s h

theorem State.homeWrite_keeps {x : WordWrite} (h : Keeps e s0 s) : Keeps e s0 (s.homeWrite x) := by
  have hs : ∀ c : Bool, Keeps e s0 (if c = true then { s with mem := { s.mem with
        latent := mdel s.mem.latent x.word
        errs := s.mem.errs.filter (fun e => !(e.array == 0x0D && e.word == x.word)) } }
      else s.detect x.word) := by
    intro c
    cases c
    · exact State.detect_keeps h
    · exact h
  unfold State.homeWrite
  dsimp only
  generalize bytesLE 8 _ = bs
  have hp := State.putBytes_keeps (bs := bs) (a := 8 * x.word) (hs (x.mask == 0xFF))
  exact hp

theorem State.startTlbWalk_keeps {ptb asid va : Nat} (h : Keeps e s0 s) : Keeps e s0 (s.startTlbWalk ptb asid va) :=
  ite_both h h

theorem State.fillMicro_keeps {core : Nat} {t : TlbEntry} (h : Keeps e s0 s) : Keeps e s0 (s.fillMicro core t) :=
  ite_both h h

theorem State.readTlb_keeps {t : TlbEntry} (h : Keeps e s0 s) : Keeps e s0 (s.readTlb t) := by
  grind [State.readTlb, keeps_mk, keepsCores_iff, State.readArray_keeps]

theorem State.touchTlb_keeps {p : Party} {va : Nat} (h : Keeps e s0 s) : Keeps e s0 (s.touchTlb p va) := by
  grind [State.touchTlb, State.readTlb_keeps, State.fillMicro_keeps, State.startTlbWalk_keeps, State.detectAll_keeps]

/-! ### The operations of Machine/Port.lean -/

theorem State.follow_keeps {core ctx site : Nat} {args : List Nat} {i : Instr} (h : Keeps e s0 s) :
    Keeps e s0 (s.follow core ctx site args i) := h

theorem State.readReg_keeps (he : IgnoresRegs e) {core ctx r : Nat} (h : Keeps e s0 s) : Keeps e s0 (s.readReg core ctx r) := by
  unfold State.readReg
  split
  · exact h
  · have hr := State.readArray_keeps (a := 0x08) (u := core) (w := (if (s.core core).pmode then 32 else 64) * ctx + r)
      (addr := BitVec.ofNat 64 (0x80040000000 + 131072 * core + 4096 * ctx + 8 * r)) h
    dsimp only
    split
    · exact hr
    · exact State.onCtx_keeps (he.regs _ _ _ _) hr

/-! ### The operations of Machine/Coherence.lean: copies and their updates -/

theorem State.readL1_keeps {core w : Nat} (h : Keeps e s0 s) : Keeps e s0 (s.readL1 core w) := by
  grind [State.readL1, State.corrected_keeps, State.onCore_keeps, State.onHerd_keeps, State.arrayLost_keeps,
    State.poisonWord_keeps]

theorem State.readSlice_keeps {n w : Nat} (h : Keeps e s0 s) : Keeps e s0 (s.readSlice n w) := by
  grind [State.readSlice, State.corrected_keeps, State.onHerd_keeps, State.arrayLost_keeps, State.poisonWord_keeps]

theorem State.readCopy_keeps {core w : Nat} (h : Keeps e s0 s) : Keeps e s0 (s.readCopy core w) := by
  grind [State.readCopy, State.readL1_keeps, State.readSlice_keeps]

/-- A change to the writes on their way of every core changes nothing else of a core. -/
theorem core_map_wq (g : List Flight → List Flight) (hg : g [] = []) (cores : Map Core) (n : Nat) :
    mget ({} : Core) (cores.map (fun c => (c.1, { c.2 with wq := g c.2.wq }))) n =
      { mget ({} : Core) cores n with wq := g (mget ({} : Core) cores n).wq } := by
  induction cores with
  | nil => exact congrArg (fun fs => ({ wq := fs } : Core)) hg.symm
  | cons c cores ih =>
    obtain ⟨j, x⟩ := c
    simp only [List.map_cons, mget]
    split
    · rfl
    · exact ih

theorem State.accepted_keeps {ids : List Nat} {f : Flight → Flight} (h : Keeps e s0 s) : Keeps e s0 (s.accepted ids f) := by
  unfold State.accepted
  refine ite_both h ⟨h.1, fun n k => ?_⟩
  have hc := core_map_wq (fun fs => (fs.map (fun g => if ids.contains g.id then f g else g)).filter
    (fun g => !(ids.contains g.id && g.complete))) rfl s.cores n
  exact (congrArg (fun c : Core => e (mget {} c.ctxs k)) hc).trans (h.2 n k)

theorem State.acceptL1_keeps {core n : Nat} (h : Keeps e s0 s) : Keeps e s0 (s.acceptL1 core n) := by
  grind [State.acceptL1, State.onCore_keeps, State.accepted_keeps]

theorem State.acceptSlice_keeps {n src m : Nat} (h : Keeps e s0 s) : Keeps e s0 (s.acceptSlice n src m) := by
  grind [State.acceptSlice, State.onHerd_keeps, State.accepted_keeps]

theorem State.forward_keeps {x : WordWrite} {core : Nat} (h : Keeps e s0 s) : Keeps e s0 (s.forward x core) := by
  grind [State.forward, State.acceptL1_keeps, State.onCore_keeps]

theorem State.forwardAll_keeps {n : Nat} {x : WordWrite} (h : Keeps e s0 s) : Keeps e s0 (s.forwardAll n x) := by
  grind [State.forwardAll, foldl_keeps, State.forward_keeps]

theorem State.sliceApplyUpdate_keeps {n : Nat} {x : WordWrite} (h : Keeps e s0 s) :
    Keeps e s0 (s.sliceApplyUpdate n x) := by
  grind [State.sliceApplyUpdate, State.forwardAll_keeps, State.onHerd_keeps]

theorem Core.applyUpdate_ctxs (c : Core) (x : WordWrite) : (c.applyUpdate x).ctxs = c.ctxs := by
  grind [Core.applyUpdate]

theorem State.drainWordL1_keeps {core w : Nat} (h : Keeps e s0 s) : Keeps e s0 (s.drainWordL1 core w) := by
  refine State.onCore_keeps ?_ h
  exact List.foldlRecOn (motive := fun c : Core => c.ctxs = (s.core core).ctxs) _ _ rfl
    (fun c hc x _ => (c.applyUpdate_ctxs x).trans hc)

theorem State.drainWordSlice_keeps {n w : Nat} (h : Keeps e s0 s) : Keeps e s0 (s.drainWordSlice n w) := by
  grind [State.drainWordSlice, foldl_keeps, State.sliceApplyUpdate_keeps, State.onHerd_keeps]

theorem State.passL1_keeps {core w : Nat} (h : Keeps e s0 s) : Keeps e s0 (s.passL1 core w) := by
  grind [State.passL1, State.onCore_keeps, State.accepted_keeps]

theorem State.passSlice_keeps {n w : Nat} (h : Keeps e s0 s) : Keeps e s0 (s.passSlice n w) := by
  grind [State.passSlice, State.onHerd_keeps, State.accepted_keeps]

theorem State.homeRead_keeps {w : Nat} (h : Keeps e s0 s) : Keeps e s0 (s.homeRead w).1 :=
  State.detect_keeps h

theorem State.fillSlice_keeps {n w : Nat} (h : Keeps e s0 s) : Keeps e s0 (s.fillSlice n w) := by
  grind [State.fillSlice, State.homeRead_keeps, State.passSlice_keeps, State.onHerd_keeps]

theorem State.sliceRead_keeps {n w : Nat} (h : Keeps e s0 s) : Keeps e s0 (s.sliceRead n w).1 :=
  State.fillSlice_keeps (State.readSlice_keeps h)

theorem State.fillL1_keeps {core w : Nat} {obj : Bool} (h : Keeps e s0 s) : Keeps e s0 (s.fillL1 core w obj) := by
  grind [State.fillL1, State.sliceRead_keeps, State.onHerd_keeps, State.passL1_keeps, State.onCore_keeps]

theorem State.putFlight_keeps {core : Nat} {f : Flight} (h : Keeps e s0 s) : Keeps e s0 (s.putFlight core f) :=
  State.onCore_keeps rfl h

theorem State.shareL1_keeps {core id w : Nat} (h : Keeps e s0 s) : Keeps e s0 (s.shareL1 core id w).1 := by
  grind [State.shareL1, foldl_keeps, State.onCore_keeps, State.passL1_keeps]

theorem State.shareSlices_keeps {n id w : Nat} (h : Keeps e s0 s) : Keeps e s0 (s.shareSlices n id w).1 :=
  foldl_keeps _ (fun _ _ => State.onHerd_keeps) _ _ h

theorem State.herdApply_keeps {core : Nat} {f : Flight} (h : Keeps e s0 s) : Keeps e s0 (s.herdApply core f) := by
  grind [State.herdApply, State.fillSlice_keeps, State.readSlice_keeps, State.onHerd_keeps, State.shareL1_keeps,
    State.putFlight_keeps]

theorem State.renewSlice_keeps {n w : Nat} (h : Keeps e s0 s) : Keeps e s0 (s.renewSlice n w) := by
  grind [State.renewSlice, State.sliceApplyUpdate_keeps, State.passSlice_keeps]

theorem State.homeApply_keeps {core : Nat} {f : Flight} (h : Keeps e s0 s) : Keeps e s0 (s.homeApply core f) := by
  have hw : Keeps e s0 (s.homeWrite f.write) := State.homeWrite_keeps h
  unfold State.homeApply
  exact State.renewSlice_keeps (State.putFlight_keeps (State.shareSlices_keeps (State.onHerd_keeps hw)))

theorem State.homeStore_keeps {x : WordWrite} (h : Keeps e s0 s) : Keeps e s0 (s.homeStore x) := by
  grind [State.homeStore, foldl_keeps, State.homeWrite_keeps, State.acceptSlice_keeps, State.onHerd_keeps]

theorem State.flightStep_keeps {core : Nat} {f : Flight} (h : Keeps e s0 s) : Keeps e s0 (s.flightStep core f) := by
  grind [State.flightStep, State.herdApply_keeps, State.accepted_keeps, State.acceptL1_keeps, State.homeApply_keeps,
    State.acceptSlice_keeps]

theorem State.pushFlight_keeps {core id scope n : Nat} (h : Keeps e s0 s) : Keeps e s0 (s.pushFlight core id scope n) := by
  induction n generalizing s core id scope with
  | zero => exact h
  | succ m ih =>
    unfold State.pushFlight
    grind [State.flightStep_keeps]

theorem State.push_keeps {core id scope : Nat} (h : Keeps e s0 s) : Keeps e s0 (s.push core id scope) := by
  grind [State.push, State.pushFlight_keeps]

theorem State.pushWord_keeps {core w : Nat} (h : Keeps e s0 s) : Keeps e s0 (s.pushWord core w) := by
  grind [State.pushWord, foldl_keeps, State.push_keeps]

theorem State.writeBack_keeps {core w : Nat} (h : Keeps e s0 s) : Keeps e s0 (s.writeBack core w) := by
  grind [State.writeBack, foldl_keeps, State.pushWord_keeps, State.readL1_keeps, State.onCore_keeps,
    State.onHerd_keeps, State.forward_keeps]

theorem State.flushWord_keeps {core w : Nat} (h : Keeps e s0 s) : Keeps e s0 (s.flushWord core w) := by
  grind [State.flushWord, State.writeBack_keeps, State.readSlice_keeps, State.onHerd_keeps, State.homeStore_keeps]

theorem State.portPut_keeps {core ctx : Nat} {x : WordWrite} (h : Keeps e s0 s) : Keeps e s0 (s.portPut core ctx x) := by
  generalize hf : @State.portPut = f
  delta State.portPut at hf
  subst hf
  beta_reduce
  generalize State.region = region
  grind [State.follow_keeps, State.homeWrite_keeps]

theorem State.shareWrite_keeps {core ctx scope : Nat} {x : WordWrite} (h : Keeps e s0 s) :
    Keeps e s0 (s.shareWrite core ctx scope x) := by
  unfold State.shareWrite
  extract_lets id n m s1 s2 r s3 q f s4
  have h2 : Keeps e s0 s2 := State.homeWrite_keeps (s := s1) h
  have hr : Keeps e s0 r.1 := State.shareSlices_keeps h2
  clear_value r
  have h3 : Keeps e s0 s3 := by
    unfold s3
    exact ite_both (State.onHerd_keeps (State.passSlice_keeps hr)) hr
  clear_value s3
  have hq : Keeps e s0 q.1 := State.shareL1_keeps h3
  clear_value q
  have h4 : Keeps e s0 s4 := by
    unfold s4
    exact ite_both hq (State.onCore_keeps rfl hq)
  clear_value s4
  exact ite_both h4 (State.push_keeps h4)

/-! ### The operations of Machine/Coherence.lean: loads, atomics and the port -/

theorem State.noteSeen_keeps (he : IgnoresPort e) {core ctx w : Nat} (h : Keeps e s0 s) :
    Keeps e s0 (s.noteSeen core ctx w) :=
  ite_both h (State.onCtx_keeps (he.seen _ _) h)

theorem State.loadWord_keeps (he : IgnoresRegs e) {core ctx w : Nat} {obj : Bool} (h : Keeps e s0 s) :
    Keeps e s0 (s.loadWord core ctx w obj).1 := by
  generalize hf : @State.loadWord = f
  delta State.loadWord at hf
  subst hf
  beta_reduce
  generalize State.region = region
  grind [State.fillL1_keeps, State.readReg_keeps, State.homeRead_keeps]

theorem State.loadWords_keeps (he : IgnoresRegs e) {core ctx : Nat} {entry : Word} {obj : Bool} {ws : List Nat}
    (h : Keeps e s0 s) : Keeps e s0 (s.loadWords core ctx entry obj ws).1 := by
  induction ws generalizing s with
  | nil => exact h
  | cons w ws ih =>
    have hn : Keeps e s0 ((s.loadWord core ctx w obj).1.noteSeen core ctx w) :=
      State.noteSeen_keeps he.toIgnoresPort (State.loadWord_keeps he h)
    unfold State.loadWords
    obtain ⟨region, hr⟩ : ∃ f, f = State.region := ⟨_, rfl⟩
    rw [← hr]
    exact ih (ite_both (foldl_keeps _ (fun _ _ => State.fillL1_keeps) _ _ hn) hn)

theorem State.readWords_keeps (he : IgnoresRegs e) {core ctx : Nat} {entry : Word} {obj : Bool} {ws : List Nat}
    (h : Keeps e s0 s) : Keeps e s0 (s.readWords core ctx entry obj ws).1 :=
  State.loadWords_keeps he h

theorem State.loadSpan_keeps (he : IgnoresRegs e) {core ctx n : Nat} {a : Access} (h : Keeps e s0 s) :
    Keeps e s0 (s.loadSpan core ctx a n).1 :=
  State.readWords_keeps he h

theorem State.rmw_keeps (he : IgnoresRegs e) {core ctx w scope : Nat} {priv : Bool} {f : Word → Option (Word × BitVec 8)}
    (h : Keeps e s0 s) : Keeps e s0 (s.rmw core ctx w priv scope f).1 := by
  have hr : Keeps e s0 (((s.pushWord core w).flushWord core w).homeRead w).1 :=
    State.homeRead_keeps (State.flushWord_keeps (State.pushWord_keeps h))
  have hn := State.noteSeen_keeps he.toIgnoresPort (core := core) (ctx := ctx) (w := w) hr
  have hl : Keeps e s0 (s.loadWord core ctx w false).1 := State.loadWord_keeps he h
  unfold State.rmw
  generalize State.region = region
  generalize s.loadWord core ctx w false = l at hl ⊢
  grind [State.shareWrite_keeps, State.onCore_keeps, State.portPut_keeps]

/-- A write that is no atomic leaves the port. -/
theorem State.leavePort_keeps_of_write {core : Nat} {f : Flight} (hf : f.amo = none) (h : Keeps e s0 s) :
    Keeps e s0 (s.leavePort core f) := by
  unfold State.leavePort
  generalize State.region = region
  grind [State.onCore_keeps, State.readL1_keeps, State.fillL1_keeps, State.portPut_keeps]

theorem State.leavePort_keeps (he : IgnoresRegs e) {core : Nat} {f : Flight} (h : Keeps e s0 s) :
    Keeps e s0 (s.leavePort core f) := by
  unfold State.leavePort
  generalize State.region = region
  grind [State.onCore_keeps, State.readL1_keeps, State.fillL1_keeps, State.portPut_keeps, State.rmw_keeps]

theorem State.lostCause_keeps {core : Nat} {f : Flight} (h : Keeps e s0 s) : Keeps e s0 (s.lostCause core f).1 := by
  have hd : ∀ w, Keeps e s0 (s.detect w) := fun _ => State.detect_keeps h
  unfold State.lostCause
  generalize s.detect = d at hd ⊢
  generalize State.inTile = it
  exact fst_ite_keeps (hd _) (fst_ite_keeps (State.checkRows_keeps (hd _)) (hd _))

theorem State.tryLeave_keeps_of_leavePort (he : IgnoresPort e) {core : Nat} {f : Flight}
    (hleave : ∀ t, Keeps e s0 t → Keeps e s0 (t.leavePort core f)) (h : Keeps e s0 s) : Keeps e s0 (s.tryLeave core f) := by
  have hr : Keeps e s0 (if f.reads then s.lostCause core f else (s, none)).1 := fst_ite_keeps (State.lostCause_keeps h) h
  unfold State.tryLeave
  refine ite_both ?_ h
  dsimp only
  split
  · exact State.postFault_keeps (State.onCtx_keeps (he.stall _ _) (State.putFlight_keeps hr))
  · exact ite_both (hleave _ hr) (State.push_keeps (hleave _ hr))

theorem State.tryLeave_keeps (he : IgnoresRegs e) {core : Nat} {f : Flight} (h : Keeps e s0 s) :
    Keeps e s0 (s.tryLeave core f) :=
  State.tryLeave_keeps_of_leavePort he.toIgnoresPort (fun _ => State.leavePort_keeps he) h

theorem State.pushNeeds_keeps {core : Nat} {f : Flight} (h : Keeps e s0 s) : Keeps e s0 (s.pushNeeds core f) := by
  grind [State.pushNeeds, foldl_keeps, State.push_keeps]

theorem State.pushWrites_keeps (he : IgnoresRegs e) {core ctx scope : Nat} (h : Keeps e s0 s) :
    Keeps e s0 (s.pushWrites core ctx scope) := by
  grind [State.pushWrites, foldl_keeps, State.tryLeave_keeps, State.pushNeeds_keeps, State.push_keeps]

theorem State.openWords_keeps (he : IgnoresRegs e) {core ctx : Nat} {ws : List Nat} (h : Keeps e s0 s) :
    Keeps e s0 (s.openWords core ctx ws).1 :=
  foldl_keeps _ (fun _ _ => State.pushWrites_keeps he) _ _ h

/-- A write that is no atomic comes to the port. -/
theorem State.portEnter_keeps (he : IgnoresPort e) {core : Nat} {f : Flight} (hf : f.amo = none) (h : Keeps e s0 s) :
    Keeps e s0 (s.portEnter core f) := by
  unfold State.portEnter
  refine ite_both (State.tryLeave_keeps_of_leavePort he (fun _ => State.leavePort_keeps_of_write hf) ?_) ?_
  · exact State.onCore_keeps rfl h
  · exact State.onCore_keeps rfl h

theorem State.portStore_keeps (he : IgnoresPort e) {core ctx : Nat} {st : StoreReq} {walk : Option Nat} (h : Keeps e s0 s) :
    Keeps e s0 (s.portStore core ctx st walk) := by
  unfold State.portStore
  dsimp only
  refine foldl_keeps _ (fun _ _ => State.portEnter_keeps he rfl) _ _ ?_
  have hw := foldl_keeps _ (fun t (x : WordWrite) => State.portEnter_keeps (s := t) he (core := core)
    (f := { id := 0, ctx := ctx, write := x, obj := st.obj, va := st.va / 8 * 8 + 8 * (x.word - ((st.writes.map (·.word)).head?).getD 0), asid := st.asid, rel := st.rel, walk := walk, reads := st.exposed && x.mask != 0xFF }) rfl) st.writes s h
  split
  · exact hw
  · exact State.onCore_keeps rfl hw
  · exact hw

/-! ### The operations of Machine/Checks.lean -/

theorem State.checkData_keeps {p : Party} {pa size : Nat} (h : Keeps e s0 s) : Keeps e s0 (s.checkData p pa size).1 := by
  unfold State.checkData
  generalize State.inTile = inTile
  generalize State.region = region
  extract_lets ws t u c
  have ht : Keeps e s0 t := by
    unfold t
    split
    · exact State.exposeFlips_keeps h
    · exact ite_both (foldl_keeps _ (fun _ _ => State.readCopy_keeps) _ _ h) h
  have hu : Keeps e s0 u := State.detectAll_keeps ht
  have hc : Keeps e s0 c.1 := State.checkRows_keeps hu
  have hall : Keeps e s0 (t.detectAll ws) := State.detectAll_keeps ht
  clear_value c u t
  split
  · exact hall
  · split
    · exact hc
    · exact hu

theorem State.checkSpan_keeps (he : IgnoresRegs e) {p : Party} {q : AccessReq} {tval2 : Word} (h : Keeps e s0 s) :
    ChkKeeps e s0 (s.checkSpan p q tval2) := by
  have ht : Keeps e s0 (s.touchTlb p (q.va.toNat % 2 ^ 57)) := State.touchTlb_keeps h
  unfold State.checkSpan
  generalize s.touchTlb p (q.va.toNat % 2 ^ 57) = t at ht
  dsimp only
  split
  · trivial
  · refine ite_both trivial (ite_both trivial (ite_both trivial (ite_both trivial (ite_both trivial (ite_both ht ?_)))))
    have ho : ∀ ws, Keeps e s0 (if p.isCtx || p.viaPort then t.openWords p.core p.ctx ws else (t, true)).1 :=
      fun ws => fst_ite_keeps (State.openWords_keeps he ht) ht
    refine ite_both trivial (ite_both ?_ (ho _))
    have hc := fun ws pa => State.checkData_keeps (p := p) (pa := pa) (size := q.size) (ho ws)
    split
    · exact hc _ _
    · trivial
    · trivial

theorem State.headerWord_keeps (he : IgnoresRegs e) {core ctx w : Nat} {entry : Word} (h : Keeps e s0 s) :
    Keeps e s0 (s.headerWord core ctx entry w).1 := by
  have hr : Keeps e s0 (s.readWords core ctx entry false [w]).1 := State.readWords_keeps he h
  unfold State.headerWord
  exact fst_ite_keeps (State.drainWordL1_keeps (State.acceptL1_keeps (State.drainWordSlice_keeps (State.acceptSlice_keeps hr)))) hr

theorem State.readHeader_keeps (he : IgnoresRegs e) {p : Party} {x : Word} {origin : Origin} (h : Keeps e s0 s) :
    ChkKeeps e s0 (s.readHeader p x origin) := by
  have ht : Keeps e s0 (s.touchTlb p (x.toNat % 2 ^ 57)) := State.touchTlb_keeps h
  unfold State.readHeader
  generalize s.touchTlb p (x.toNat % 2 ^ 57) = t at ht ⊢
  extract_lets flt
  split
  · trivial
  · refine ite_both trivial (ite_both trivial (ite_both trivial (ite_both trivial (ite_both trivial ?_))))
    exact State.headerWord_keeps he (State.openWords_keeps he ht)

theorem State.checkAccess_keeps (he : IgnoresRegs e) {p : Party} {q : AccessReq} (h : Keeps e s0 s) :
    ChkKeeps e s0 (s.checkAccess p q) := by
  unfold State.checkAccess
  refine ite_both trivial (ite_both trivial (ite_both ?_ ?_))
  · have hh := State.readHeader_keeps he (p := p) (x := q.base.val) (origin := q.origin) h
    split
    next => trivial
    next => trivial
    next s1 hdr hpa hok =>
      rw [hok, chkKeeps_ok] at hh
      have hs := State.checkSpan_keeps he (p := p) (q := q) (tval2 := q.base.val) hh
      split
      next => trivial
      next => trivial
      next => trivial
      next =>
        refine ite_both trivial ?_
        split
        next => trivial
        next => trivial
        next hpass => exact chkKeeps_ok.mpr (by rwa [hpass, chkKeeps_ok] at hs)
  · have hs := State.checkSpan_keeps he (p := p) (q := q) (tval2 := 0) h
    split
    next => trivial
    next => trivial
    next hpass => exact chkKeeps_ok.mpr (by rwa [hpass, chkKeeps_ok] at hs)

/-! ### The operations of Machine/Commit.lean and Machine/Mem.lean -/

theorem State.startWalk_keeps {core ctx scope root : Nat} (h : Keeps e s0 s) : Keeps e s0 (s.startWalk core ctx scope root).1 :=
  h

theorem State.releaseStore_keeps (he : IgnoresPort e) {core ctx : Nat} {st : StoreReq} (h : Keeps e s0 s) :
    Keeps e s0 (s.releaseStore core ctx st) := by
  grind [State.releaseStore, State.startWalk_keeps, State.portStore_keeps]

theorem State.heldAccess_keeps (he : IgnoresRegs e) {q : AccessReq} (h : Keeps e s0 s) : ChkKeeps e s0 (s.heldAccess q) := by
  grind [State.heldAccess, chkKeeps_ok, chkKeeps_fault, chkKeeps_wait, !State.checkAccess_keeps, State.openWords_keeps,
    State.checkData_keeps]

end Sys2Proof.Machine
end

section
/-!
PROOFS of O25: the commit of a block, and the course of an exposed instruction through it. What a commit leaves of the
context is what `Context.commit` says, since the stores that leave the buffer and the walks that start keep it
(`State.commitBlock_keeps`).
-/

namespace Sys2Proof.Machine

open Claims

set_option Elab.async false

/-! ### The commit point (R26) -/

/-- A context whose block commits, with the next block at a. -/
def Context.commit (c : Context) (a : Word) : Context :=
  Context.fetchFrom { c with
    arch := c.work, qntInf := c.blockInf, blockInf := none, stores := [], implicitPubs := [], epoch := c.epoch + 1 } a

/-- What a context holds of its block and its registers, but not of its accesses at the port and its walks. -/
def Context.ofBlock (c : Context) : Context := { c with seen := [], stall := none, awaitWalks := [] }

theorem ignoresPort_ofBlock : IgnoresPort Context.ofBlock := ⟨fun _ _ => rfl, fun _ _ => rfl⟩

/-- The stores that leave and the walks that start keep what the commit has made of the context. -/
theorem State.commitBlock_keeps (s : State) (n k : Nat) (a : Word) :
    Keeps Context.ofBlock (s.setCtx n k ((s.ctxOf n k).settle.commit a)) (s.commitBlock n k a) := by
  unfold State.commitBlock
  refine foldl_keeps _ (fun t p ht => State.onCtx_keeps rfl (State.startWalk_keeps ht)) _ _ ?_
  exact foldl_keeps _ (fun t st ht => State.releaseStore_keeps ignoresPort_ofBlock ht) _ _ (Keeps.refl _ _)

/-- A block without stores and implicit publishes leaves memory as it is. -/
theorem State.commitBlock_mem {s : State} {n k : Nat} (hstores : (s.ctxOf n k).stores = [])
    (hpubs : (s.ctxOf n k).implicitPubs = []) (a : Word) : (s.commitBlock n k a).mem = s.mem := by
  unfold State.commitBlock Context.settle
  dsimp only
  rw [hstores, hpubs]
  rfl

/-- With no window write held, none takes effect at the end of a block (R145). -/
theorem State.settleWindow_of_nil {s : State} {n k : Nat} (hheld : (s.ctxOf n k).heldWrites = [])
    (hwork : (s.ctxOf n k).work = (s.ctxOf n k).arch) :
    (s.settleWindow n k).ctxOf n k = s.ctxOf n k ∧ (s.settleWindow n k).act = s.act ∧ (s.settleWindow n k).mem = s.mem := by
  have happly : { (s.ctxOf n k).applyHeld with heldWrites := [] } = s.ctxOf n k := by
    generalize s.ctxOf n k = c at hheld hwork
    cases c
    dsimp only at hheld hwork
    subst hheld hwork
    rfl
  unfold State.settleWindow
  split
  · exact ⟨rfl, rfl, rfl⟩
  · unfold State.applyWindow
    dsimp only
    rw [hheld]
    exact ⟨(State.ctxOf_setCtx _ _ _ _).trans happly, rfl, rfl⟩

/-- A timer that is raised touches nothing but the timer (R38). -/
theorem Context.raise_cases (c : Context) (now : Nat) :
    c.raise now = c ∨ c.raise now = { c with timerAt := none, timerEvent := true } := by
  unfold Context.raise
  split
  · split
    · exact .inr rfl
    · exact .inl rfl
  · exact .inl rfl

/-- A block that is discarded is fetched again, with the registers from before it (R27). -/
theorem Context.interrupt_spec (c : Context) (now : Nat) :
    (c.interrupt now).stores = [] ∧ (c.interrupt now).phase = .fetch ∧ (c.interrupt now).addr = c.addr ∧
      (c.interrupt now).switchReq = c.switchReq ∧
      (c.heldWrites = [] → (c.interrupt now).arch = c.arch ∧ (c.interrupt now).work = c.arch) := by
  unfold Context.interrupt
  rcases c.raise_cases now with h | h <;> rw [h]
  · exact ⟨rfl, rfl, rfl, rfl, fun hheld => Context.discard_regs hheld⟩
  · exact ⟨rfl, rfl, rfl, rfl, fun hheld => Context.discard_regs (c := { c with timerAt := none, timerEvent := true }) hheld⟩

theorem Context.interrupted_of_switchReq {c : Context} (h : c.switchReq = true) (now : Nat) : c.interrupted now = true := by
  rw [Context.interrupted, h, Bool.true_or]

/-- No vector instruction of the acting context's block waits in its core's queue. -/
theorem State.vuPending_of_none {s : State}
    (h : ∀ e ∈ (s.core s.act.core).vuq, ¬ (e.ctx = s.act.ctx ∧ e.epoch = s.me.epoch)) :
    s.vuPending s.act.core s.act.ctx = false := by
  unfold State.vuPending
  rw [List.any_eq_false]
  intro e he
  have := h e he
  simpa [State.me] using this

/-- BLOCK_COMMIT at the end of a block with no result outstanding. -/
theorem execBlockCommit_eq {s : State} (hlive : s.me.live = true) (hbody : s.me.phase = .body)
    (hend : s.me.exit ≠ none ∨ s.me.words.length ≤ s.me.pos) (hpending : s.resultsPending s.act.core s.act.ctx = false) :
    exec .blockCommit s =
      if s.me.interrupted s.time = true then goes (s.onMe (fun c => c.interrupt s.time))
      else goes ((s.commitBlock s.act.core s.act.ctx (s.me.exit.getD s.me.fallThrough)).settleWindow s.act.core s.act.ctx) := by
  have hends : (s.me.exit.isSome || decide (s.me.words.length ≤ s.me.pos)) = true := by
    rw [Bool.or_eq_true, Option.isSome_iff_ne_none, decide_eq_true_eq]
    exact hend
  show execBlockCommit s = _
  unfold execBlockCommit
  dsimp only
  rw [if_pos (by simp [hlive, hbody, hends, hpending])]

theorem blockCommitEffect : BlockCommitEffect := by
  intro s hlive hbody hend houtst hheld hvu
  have hpending : s.resultsPending s.act.core s.act.ctx = false := by
    have hnone : (s.ctxOf s.act.core s.act.ctx).outst = [] := houtst
    rw [State.resultsPending, State.vuPending_of_none hvu, hnone]
    rfl
  have hexec := execBlockCommit_eq hlive hbody hend hpending
  refine ⟨fun hcalm => ?_, fun hreq => ?_⟩
  · rw [if_neg (ne_true_of_eq_false (not_interrupted_of_calm hcalm))] at hexec
    generalize ha : s.me.exit.getD s.me.fallThrough = a at hexec
    let u := s.commitBlock s.act.core s.act.ctx a
    have hkeeps := s.commitBlock_keeps s.act.core s.act.ctx a
    have hu : (u.ctxOf s.act.core s.act.ctx).ofBlock = (s.me.commit a).ofBlock := by
      have h := hkeeps.2 s.act.core s.act.ctx
      have hsettle : (s.ctxOf s.act.core s.act.ctx).settle = s.me := Context.settle_of_outst houtst
      rwa [State.ctxOf_setCtx, hsettle] at h
    obtain ⟨hctx, hact, hmem⟩ := State.settleWindow_of_nil (s := u) (n := s.act.core) (k := s.act.ctx)
      ((congrArg Context.heldWrites hu).trans hheld)
      ((congrArg Context.work hu).trans (congrArg Context.arch hu).symm)
    have hme : (u.settleWindow s.act.core s.act.ctx).me.ofBlock = (s.me.commit a).ofBlock := by
      rw [State.me, hact, hkeeps.1]
      exact (congrArg Context.ofBlock hctx).trans hu
    have hkept : (u.settleWindow s.act.core s.act.ctx).me.work = s.me.work ∧
        (u.settleWindow s.act.core s.act.ctx).me.sreg = s.me.sreg :=
      ⟨Eq.trans (congrArg Context.work hme :) rfl, Eq.trans (congrArg Context.sreg hme :) rfl⟩
    refine ⟨_, hexec, congrArg Context.arch hme, hkept.1, congrArg Context.stores hme,
      congrArg Context.phase hme, congrArg Context.epoch hme, hkept.2, congrArg Context.exit hme,
      (congrArg Context.addr hme).trans ha.symm, fun hstores hpubs => hmem.trans (State.commitBlock_mem hstores hpubs a)⟩
  · rw [if_pos (Context.interrupted_of_switchReq hreq _)] at hexec
    obtain ⟨hstores, hphase, haddr, hswitch, hregs⟩ := s.me.interrupt_spec s.time
    refine ⟨_, hexec, ?_⟩
    rw [State.me_onMe]
    exact ⟨(hregs hheld).1, (hregs hheld).2, hstores, hphase, haddr, hswitch.trans hreq, rfl⟩

/-! ### The course of an exposed instruction (R24, R26) -/

section

variable {s : State}

/-- The state in which an exposed instruction's checks are made: every result of its block has returned. -/
def State.resultsIn (s : State) : State := s.setMe { s.me with work := s.me.outst.foldl Regs.applyAll s.me.work, outst := [] }

theorem State.exposed_of_interrupted (hbody : s.me.phase = .body) (hint : s.me.interrupted s.time = true) (i : Instr)
    (checks : State → Chk Unit) (perform : State → Perf) :
    s.exposed i checks perform = s.onMe (fun c => c.interrupt s.time) := by
  unfold State.exposed
  dsimp only
  rw [if_neg (by rw [hbody]; exact nofun), if_pos hint]

variable (hbody : s.me.phase = .body) (hcalm : Calm s)
  (hvu : ∀ e ∈ (s.core s.act.core).vuq, ¬ (e.ctx = s.act.ctx ∧ e.epoch = s.me.epoch))
include hbody hcalm hvu

/-- A check that fails traps, and the block does not commit. -/
theorem State.exposed_of_settled_fault {checks : State → Chk Unit} {c : Nat} {a b : Word}
    (h : checks s.resultsIn = .fault s.resultsIn c a b) (i : Instr) (perform : State → Perf) :
    s.exposed i checks perform = s.resultsIn.trapMe c a b := by
  have hsettle : s.onMe Context.settle = s.resultsIn := rfl
  unfold State.exposed
  dsimp only
  rw [if_neg (by rw [hbody]; exact nofun), if_neg (ne_true_of_eq_false (not_interrupted_of_calm hcalm)),
    if_neg (ne_true_of_eq_false (State.vuPending_of_none hvu)), hsettle, h]

/-- An exposed instruction without checks commits its block, and is then performed as one that is held. -/
theorem State.exposed_of_settled (i : Instr) (perform : State → Perf) {u held : State}
    (hu : s.resultsIn.commitBlock s.act.core s.act.ctx (s.me.addr + BitVec.ofNat 64 (4 * s.me.words.length)) = u)
    (hheld : u.setMe { u.me with phase := .exposed i, snap := some s.me.view } = held) :
    s.exposed i noChecks perform = held.exposed i noChecks perform := by
  have hsettle : s.onMe Context.settle = s.resultsIn := rfl
  have hcommit : s.resultsIn.commitBlock s.act.core s.act.ctx s.resultsIn.me.fallThrough = u := by
    rw [← hu]
    have hfall : s.resultsIn.me.fallThrough = s.me.addr + BitVec.ofNat 64 (4 * s.me.words.length) := by
      rw [State.resultsIn, State.me_setMe]
      rfl
    rw [hfall]
  have hphase : held.me.phase = .exposed i := by rw [← hheld, State.me_setMe]
  have hview : held.me.view = s.me.view := by
    rw [← hheld, State.me_setMe]
    rfl
  have hrun : held.onMe (fun c => { c with phase := .fetch, snap := some s.me.view }) =
      u.onMe (fun c => { c with phase := .fetch, snap := some s.me.view }) := by
    rw [State.onMe, ← hheld, State.me_setMe]
    exact State.setCtx_setCtx u _ _ _ _
  unfold State.exposed noChecks
  dsimp only
  rw [if_neg (by rw [hbody]; exact nofun), if_neg (ne_true_of_eq_false (not_interrupted_of_calm hcalm)),
    if_neg (ne_true_of_eq_false (State.vuPending_of_none hvu)), hsettle, hcommit, if_pos hphase, hview, hrun]

end

theorem exposedCourse : ExposedCourse := by
  intro s sc d a hbody
  refine ⟨fun hreq hheld => ?_, fun hcalm hvu => ?_⟩
  · have hexec := State.exposed_of_interrupted hbody (Context.interrupted_of_switchReq hreq s.time) (.fenceFull sc)
    obtain ⟨hstores, hphase, haddr, -, hregs⟩ := s.me.interrupt_spec s.time
    refine ⟨_, congrArg goes (hexec _ _), ?_⟩
    rw [State.me_onMe]
    exact ⟨(hregs hheld).1, hstores, hphase, haddr, rfl⟩
  · intro settled u held
    have course := fun i perform => State.exposed_of_settled hbody hcalm hvu i perform (u := u) (held := held i) rfl rfl
    refine ⟨congrArg goes (course _ _), congrArg goes (course _ _), congrArg goes (course _ _), congrArg goes (course _ _),
      congrArg goes (course _ _), fun huser => ?_⟩
    have hpriv : s.resultsIn.me.priv = 0 := by
      rw [State.resultsIn, State.me_setMe]
      exact huser
    exact congrArg goes (State.exposed_of_settled_fault hbody hcalm hvu (State.andThen_privOk_of_user hpriv _) _ _)

/-- Settles O25: a commit makes the block's registers the committed ones, and an exposed instruction goes through it. -/
theorem blockCommitResults : Obligations.BlockCommitResults := ⟨blockCommitEffect, exposedCourse⟩

end Sys2Proof.Machine
end

section
/-!
PROOFS of O15: loads. What ld and ldx do is said of `State.loadInstr`, which both run (`exec_ld`, `exec_ldx`); what the port
binds is the home word (`State.loadWord_of_stored`) under the block's own stores (`overlay_byte`).
-/

namespace Sys2Proof.Machine

open Claims

set_option Elab.async false

/-! ### ld and ldx (R154, R157) -/

theorem sxBytes_eq (bs : List Byte) (n : Nat) (hn : 8 * n ≤ 64) :
    sxBytes bs n = sextLow (8 * n) (BitVec.ofNat 64 (valueLE bs)) := by
  unfold sextLow
  rw [BitVec.setWidth_ofNat_of_le hn]
  rfl

theorem loadValue_eq (z : LoadKind) (bs : List Byte) :
    loadValue z bs = if z = .b ∨ z = .h ∨ z = .w then sxBytes bs (bytesOf z) else BitVec.ofNat 64 (valueLE bs) := by
  cases z with
  | b => exact (sxBytes_eq bs 1 (by decide)).symm
  | h => exact (sxBytes_eq bs 2 (by decide)).symm
  | w => exact (sxBytes_eq bs 4 (by decide)).symm
  | bz | hz | wz | d => rfl

theorem loadSize_eq (z : LoadKind) : loadSize z = bytesOf z := by cases z <;> rfl

/-- The result of a load of kind z in register d. -/
def loaded (z : LoadKind) (d : RegNo) (bs : List Byte) : List RegWrite :=
  [.g d.toNat { val := if z = .b ∨ z = .h ∨ z = .w then sxBytes bs (bytesOf z) else BitVec.ofNat 64 (valueLE bs)
                tag := false }]

theorem loadFin_eq (z : LoadKind) (d : RegNo) :
    (fun (_ : Access) (bs : List Byte) (_ : Bool) => [RegWrite.g d.toNat { val := loadValue z bs, tag := false }]) =
      fun _ bs _ => loaded z d bs := by
  funext _ bs _
  rw [loadValue_eq]
  rfl

theorem exec_ld (s : State) (z : LoadKind) (d a : RegNo) (off : BitVec 9) :
    exec (.ld z d a off) s = goes (s.loadInstr (.ld z d a off)
      (loadOf (s.me.rgt a) (ea (s.me.rgt a).val off (bytesOf z)) (bytesOf z)) (fun _ bs _ => loaded z d bs)) := by
  show execLd z d a off s = _
  unfold execLd
  dsimp only
  rw [loadSize_eq, effAddr_eq_ea, loadFin_eq]
  rfl

theorem exec_ldx (s : State) (z : LoadKind) (d a b : RegNo) (sh : BitVec 3) :
    exec (.ldx z d a b sh) s = goes (s.loadInstr (.ldx z d a b sh)
      (loadOf (s.me.rgt a) ((s.me.rgt a).val + (s.me.rg b <<< sh.toNat)) (bytesOf z)) (fun _ bs _ => loaded z d bs)) := by
  show execLdx z d a b sh s = _
  unfold execLdx
  dsimp only
  rw [loadSize_eq, loadFin_eq]
  rfl

section

variable {s s1 : State} {i : Instr} {q : AccessReq} {acc : Access} (fin : Access → List Byte → Bool → List RegWrite)

/-- A load whose checks fail traps. -/
theorem State.loadInstr_of_fault (hphase : s.me.phase ≠ .exposed i) {c : Nat} {v w : Word}
    (hfault : s.checkAccess s.party q = .fault s1 c v w) : s.loadInstr i q fin = s1.trapMe c v w := by
  unfold State.loadInstr
  dsimp only
  rw [if_neg hphase, hfault]
  rfl

/-- A load stands last in a block with x set exactly where its page has side effects (R24, R157). -/
theorem State.loadInstr_of_misplaced (hphase : s.me.phase ≠ .exposed i)
    (hok : s.checkAccess s.party q = .ok s1 acc) (hplace : acc.sideEffect ≠ (s1.me.atLast && s1.me.headerX)) :
    s.loadInstr i q fin = s1.trapInstr Cause.blkExposed := by
  unfold State.loadInstr
  dsimp only
  rw [if_neg hphase, hok]
  exact if_pos (bne_iff_ne.mpr hplace)

/-- A load from a page without side effects has a long result (R154). -/
theorem State.loadInstr_of_memory (hphase : s.me.phase ≠ .exposed i)
    (hok : s.checkAccess s.party q = .ok s1 acc) (hpage : acc.sideEffect = false)
    (hplace : (s1.me.atLast && s1.me.headerX) = false) :
    s.loadInstr i q fin =
      let r := s1.loadSpan s1.act.core s1.act.ctx acc q.size
      r.1.long (fin acc r.2.1 r.2.2) := by
  unfold State.loadInstr
  dsimp only
  rw [if_neg hphase, hok]
  unfold State.checked
  dsimp only
  rw [if_neg (by rw [hpage, hplace]; decide), if_neg (ne_true_of_eq_false hpage)]

/-- A load that is held is performed at once when its access finds its words (R26, R177). -/
theorem State.loadInstr_of_held (hheld : Held s i) (hok : (resumed s).heldAccess q = .ok s1 acc) :
    s.loadInstr i q fin =
      let r := s1.loadSpan s1.act.core s1.act.ctx acc q.size
      finished (committed r.1 (fin acc r.2.1 r.2.2)) := by
  have hregs : IgnoresRegs Context.phase := ⟨⟨fun _ _ => rfl, fun _ _ => rfl⟩, fun _ _ _ _ => rfl⟩
  have hs1 : Keeps Context.phase (resumed s) s1 := by
    have h := State.heldAccess_keeps (q := q) hregs (Keeps.refl Context.phase (resumed s))
    rwa [hok] at h
  have hspan := State.loadSpan_keeps (core := s1.act.core) (ctx := s1.act.ctx) (a := acc) (n := q.size) hregs hs1
  have hphase := hspan.me.trans (congrArg Context.phase (resumed_me s))
  unfold State.loadInstr
  dsimp only
  rw [if_pos hheld.1]
  refine State.exposed_of_held hheld (t := committed _ _) ?_ ?_ _
  · unfold State.performAccess
    rw [hok]
    rfl
  · rw [committed, State.me_setMe]
    exact hphase

end

theorem loadValues : LoadValues := by
  intro s z d a b off sh n base value rule
  have hrule : ∀ i va, exec i s = goes (s.loadInstr i (loadOf base va n) (fun _ bs _ => loaded z d bs)) → rule i va := by
    intro i va hexec
    refine ⟨fun hphase => ⟨fun s1 acc hok hpage hplace => ?_, fun s1 c v w hfault => ?_⟩, fun hheld s1 acc hok => ?_⟩
    · exact ⟨_, hexec.trans (congrArg goes (State.loadInstr_of_memory _ hphase hok hpage hplace)), State.long_eq _ _⟩
    · exact hexec.trans (congrArg goes (State.loadInstr_of_fault _ hphase hfault))
    · exact hexec.trans (congrArg goes (State.loadInstr_of_held _ hheld hok))
  exact ⟨hrule _ _ (exec_ld s z d a off), hrule _ _ (exec_ldx s z d a b sh)⟩

theorem sideEffectLoad : SideEffectLoad := by
  intro s z d a b off sh s1 acc rule
  exact ⟨fun hphase hok hplace => (exec_ld s z d a off).trans
      (congrArg goes (State.loadInstr_of_misplaced _ hphase hok hplace)),
    fun hphase hok hplace => (exec_ldx s z d a b sh).trans
      (congrArg goes (State.loadInstr_of_misplaced _ hphase hok hplace))⟩

/-! ### Writes over a word -/

theorem overlay_of_absent (x : Tagged) {w : Nat} {ws : List WordWrite} (h : ∀ y ∈ ws, y.word ≠ w) : overlay x w ws = x := by
  induction ws with
  | nil => rfl
  | cons y ws ih =>
    obtain ⟨hy, hws⟩ := List.forall_mem_cons.mp h
    rw [overlay, List.foldl_cons, if_neg hy]
    exact ih hws

/-- Byte i under writes in order is that of the last write that covers it. -/
theorem overlay_byte (x : Tagged) (w : Nat) (ws : List WordWrite) {i : Nat} (hi : i < 8) :
    (overlay x w ws).val.extractLsb' (8 * i) 8 =
      (((ws.filter (fun y => y.word == w && y.mask.getLsbD i)).getLast?.map (·.val)).getD x.val).extractLsb' (8 * i) 8 := by
  induction ws using List.reverseRecOn with
  | nil => rfl
  | append_singleton ws y ih =>
    have hstep : overlay x w (ws ++ [y]) =
        if y.word = w then { val := mergeBytes (overlay x w ws).val y.val y.mask, tag := y.tag } else overlay x w ws :=
      List.foldl_concat ..
    rw [hstep, List.filter_append]
    by_cases hw : y.word = w
    · have hbyte := mergeBytes_byte (overlay x w ws).val y.val y.mask i hi
      rw [if_pos hw]
      refine Eq.trans hbyte ?_
      cases hmask : y.mask.getLsbD i with
      | true => simp [hw, hmask]
      | false => simpa [hw, hmask] using ih
    · simpa [hw] using ih

/-! ### What the port binds to a word (R334, R336, R361) -/

/-- No write of a core to word w is on its way. -/
def State.NoFlight (s : State) (core w : Nat) : Prop := ∀ f ∈ (s.core core).wq, f.write.word ≠ w

theorem State.NoFlight.ownWrites {s : State} {core w : Nat} (h : s.NoFlight core w) :
    ∀ y ∈ (s.core core).ownWrites, y.word ≠ w := by
  intro y hy
  obtain ⟨f, hf, rfl⟩ := List.mem_map.mp hy
  exact h f (List.mem_filter.mp hf).1

theorem State.NoFlight.heldWrites {s : State} {core w : Nat} (h : s.NoFlight core w) (ctx : Nat) :
    ∀ y ∈ (s.core core).heldWrites ctx, y.word ≠ w := by
  intro y hy
  obtain ⟨f, hf, rfl⟩ := List.mem_map.mp hy
  exact h f (List.mem_filter.mp hf).1

/-- Updates that sharers accept change the writes on their way of every core, and nothing else of the cores. -/
theorem State.core_accepted (s : State) (ids : List Nat) (f : Flight → Flight) (n : Nat) :
    ∃ fs, (s.accepted ids f).core n = { s.core n with wq := fs } ∧
      ∀ g ∈ fs, ∃ g0 ∈ (s.core n).wq, g = g0 ∨ g = f g0 := by
  unfold State.accepted
  split
  · exact ⟨_, rfl, fun g hg => ⟨g, hg, .inl rfl⟩⟩
  · refine ⟨_, core_map_wq (fun fs => (fs.map (fun g : Flight => if ids.contains g.id then f g else g)).filter
      (fun g => !(ids.contains g.id && g.complete))) rfl s.cores n, fun g hg => ?_⟩
    obtain ⟨g0, hg0, rfl⟩ := List.mem_map.mp (List.mem_filter.mp hg).1
    refine ⟨g0, hg0, ?_⟩
    split
    · exact .inr rfl
    · exact .inl rfl

theorem State.accepted_noFlight {s : State} {core w : Nat} (h : s.NoFlight core w) (ids : List Nat) {f : Flight → Flight}
    (hf : ∀ g, (f g).write = g.write) : (s.accepted ids f).NoFlight core w := by
  obtain ⟨fs, hcore, hfs⟩ := s.core_accepted ids f core
  intro g hg
  rw [hcore] at hg
  obtain ⟨g0, hg0, rfl | rfl⟩ := hfs g hg
  · exact h g hg0
  · rw [hf]
    exact h g0 hg0

theorem State.passL1_noFlight {s : State} {core w : Nat} (h : s.NoFlight core w) : (s.passL1 core w).NoFlight core w := by
  refine State.accepted_noFlight ?_ _ (fun _ => rfl)
  intro f hf
  rw [State.core_onCore] at hf
  exact h f hf

theorem State.passSlice_noFlight {s : State} {core w : Nat} (h : s.NoFlight core w) (n : Nat) :
    (s.passSlice n w).NoFlight core w :=
  State.accepted_noFlight (s := s.onHerd n _) h _ (fun _ => rfl)

/-- What a word's home slice and the word there depend on. -/
structure SameHome (s t : State) : Prop where
  mem : t.mem = s.mem
  dev : t.dev = s.dev
  nctx : ∀ n, (t.core n).nctx = (s.core n).nctx

theorem SameHome.homeWord {s t : State} (h : SameHome s t) (w : Nat) : t.homeWord w = s.homeWord w := by
  unfold State.homeWord State.bytesAt State.byteAt State.shadowByte State.creg
  rw [h.mem, h.dev]

theorem SameHome.region {s t : State} (h : SameHome s t) (pa : Nat) : t.region pa = s.region pa := by
  unfold State.region State.creg State.absent
  simp only [h.mem, h.dev, h.nctx]

/-- The home slice is compared as a function of the state, before it is applied: the kernel would otherwise evaluate the match
on the region. -/
theorem SameHome.homeSlice {s t : State} (h : SameHome s t) (w : Nat) : t.homeSlice w = s.homeSlice w := by
  have hcreg : t.creg = s.creg := by
    funext off
    rw [State.creg, h.dev, State.creg]
  have hphysical : t.hbmPhysical = s.hbmPhysical := by
    funext ch
    rw [State.hbmPhysical, h.mem, State.hbmPhysical]
  have hregion : State.region t = State.region s := funext h.region
  obtain ⟨f, hf⟩ : ∃ f, State.homeSlice = f := ⟨_, rfl⟩
  rw [hf]
  delta State.homeSlice at hf
  rw [← hf]
  dsimp only
  rw [hregion, hcreg, hphysical]

theorem State.accepted_sameHome (s : State) (ids : List Nat) (f : Flight → Flight) : SameHome s (s.accepted ids f) := by
  refine ⟨?_, ?_, fun n => ?_⟩
  · unfold State.accepted
    split <;> rfl
  · unfold State.accepted
    split <;> rfl
  · obtain ⟨fs, hcore, -⟩ := s.core_accepted ids f n
    exact (congrArg Core.nctx hcore :).trans rfl

theorem State.passSlice_sameHome (s : State) (n w : Nat) : SameHome s (s.passSlice n w) := by
  obtain ⟨hmem, hdev, hnctx⟩ := (s.onHerd n (fun y => { y with
    net := y.net.filter (fun u => u.write.word != w), inq := y.inq.filter (fun x => x.word != w) })).accepted_sameHome
    (((s.herd n).net.filter (fun u => u.write.word == w)).map (·.id)) (fun f => { f with toSlices := f.toSlices.erase n })
  exact ⟨hmem, hdev, hnctx⟩

theorem State.accepted_herds (s : State) (ids : List Nat) (f : Flight → Flight) : (s.accepted ids f).herds = s.herds := by
  unfold State.accepted
  split <;> rfl

/-- The updates that a herd slice passes leave its writes on their way home. -/
theorem State.passSlice_pending (s : State) (n w : Nat) : ((s.passSlice n w).herd n).pending = (s.herd n).pending := by
  unfold State.passSlice
  dsimp only
  rw [State.herd, State.accepted_herds, State.onHerd, mget_mset_same]
  rfl

/-- A word in which no error waits is read as it is (R361, R362). -/
theorem State.detect_of_clean {s : State} {w : Nat} (hlatent : mfind s.mem.latent w = none)
    (herr : s.mem.errOf 0x0D (s.homeSlice w) w = none) : s.detect w = s := by
  have hhome : s.detectHome w = s := by
    unfold State.detectHome
    split
    · rfl
    · unfold State.readArray
      rw [herr]
  unfold State.detect State.detectStored
  rw [hhome, hlatent]

/-- The regions of storage; `Stored` too is unfolded before it is applied (as in `SameHome.homeSlice`). -/
theorem region_of_stored {s : State} {w : Nat} (hstored : Stored s w) : s.region (8 * w) = .hbm ∨ s.region (8 * w) = .lpddr ∨
    (∃ c off, s.region (8 * w) = .scratch c off) ∨ ∃ m off, s.region (8 * w) = .mt m off := by
  obtain ⟨p, hp⟩ : ∃ p, Stored = p := ⟨_, rfl⟩
  rw [hp] at hstored
  delta Stored at hp
  rw [← hp] at hstored
  generalize s.region (8 * w) = g at hstored ⊢
  cases g with
  | hbm => exact .inl rfl
  | lpddr => exact .inr (.inl rfl)
  | scratch c off => exact .inr (.inr (.inl ⟨c, off, rfl⟩))
  | mt m off => exact .inr (.inr (.inr ⟨m, off, rfl⟩))
  | _ => exact hstored.elim

section

variable {s : State} {core w : Nat} (hlatent : mfind s.mem.latent w = none)
  (herr : s.mem.errOf 0x0D (s.homeSlice w) w = none) (hflight : s.NoFlight core w)
include hlatent herr hflight

/-- A herd slice that does not hold a word fills with the word at its home. -/
theorem State.sliceRead_of_absent {n : Nat} (hcopy : mfind (s.herd n).copies w = none)
    (hpend : ∀ e ∈ (s.herd n).pend, e.2.word ≠ w) :
    (s.sliceRead n w).2 = s.homeWord w ∧ (s.sliceRead n w).1.NoFlight core w := by
  have hsame := s.passSlice_sameHome n w
  have hdetect : (s.passSlice n w).detect w = s.passSlice n w := by
    refine State.detect_of_clean ?_ ?_
    · rw [hsame.mem, hlatent]
    · rw [hsame.homeSlice, hsame.mem, herr]
  have hhome : (s.passSlice n w).homeRead w = (s.passSlice n w, s.homeWord w) := by
    unfold State.homeRead
    dsimp only
    rw [hdetect, hsame.homeWord]
  have hover : overlay (s.homeWord w) w ((s.passSlice n w).herd n).pending = s.homeWord w := by
    refine overlay_of_absent _ fun y hy => ?_
    rw [State.passSlice_pending] at hy
    obtain ⟨e, he, rfl⟩ := List.mem_map.mp hy
    exact hpend e he
  have hfill : s.fillSlice n w = (s.passSlice n w).onHerd n (fun y =>
      { y with copies := mset y.copies w { val := (s.homeWord w).val, tag := (s.homeWord w).tag } }) := by
    unfold State.fillSlice
    rw [if_neg (by rw [hcopy]; decide), hhome]
    dsimp only
    rw [hover]
  have hread : s.readSlice n w = s := by
    unfold State.readSlice
    rw [hcopy]
  unfold State.sliceRead
  rw [hread, hfill]
  refine ⟨?_, State.passSlice_noFlight hflight n⟩
  have hfind : mfind (((s.passSlice n w).onHerd n (fun y =>
      { y with copies := mset y.copies w { val := (s.homeWord w).val, tag := (s.homeWord w).tag } })).herd n).copies w =
      some { val := (s.homeWord w).val, tag := (s.homeWord w).tag } := by
    rw [State.herd, State.onHerd, mget_mset_same]
    exact mfind_mset_same _ _ _
  unfold State.slicePeek
  dsimp only
  rw [hfind]
  rfl

/-- A load of a cached word that no cache holds binds the word at its home. -/
theorem State.loadCached_of_absent (hl1 : mfind (s.core core).l1 w = none)
    (hcopy : mfind (s.herd (herdOfCore core)).copies w = none)
    (hpend : ∀ e ∈ (s.herd (herdOfCore core)).pend, e.2.word ≠ w) (obj : Bool) :
    (s.fillL1 core w obj).portPeek core w = s.homeWord w := by
  obtain ⟨hread, hclear⟩ := State.sliceRead_of_absent hlatent herr hflight hcopy hpend
  generalize hr : s.sliceRead (herdOfCore core) w = r at hread hclear
  obtain ⟨u, hu, hfill⟩ : ∃ u : State, u.NoFlight core w ∧ s.fillL1 core w obj = u.onCore core (fun c =>
      { c with l1 := mset c.l1 w { val := (overlay r.2 w c.ownWrites).val, tag := (overlay r.2 w c.ownWrites).tag } }) := by
    unfold State.fillL1
    dsimp only
    rw [if_neg (by rw [hl1]; exact Bool.false_ne_true), hr]
    refine ⟨_, State.passL1_noFlight ?_, rfl⟩
    exact ite_both (motive := fun t : State => t.NoFlight core w) hclear hclear
  have hover : overlay r.2 w (u.core core).ownWrites = s.homeWord w := by
    rw [hread]
    exact overlay_of_absent _ hu.ownWrites
  rw [hfill]
  unfold State.portPeek
  rw [State.core_onCore, mfind_mset_same]
  exact hover

/-- A load of a word of storage that no cache holds, with no write on its way and no error in it, binds the word at its home. -/
theorem State.loadWord_of_stored (hstored : Stored s w) (hl1 : mfind (s.core core).l1 w = none)
    (hcopy : mfind (s.herd (herdOfCore core)).copies w = none)
    (hpend : ∀ e ∈ (s.herd (herdOfCore core)).pend, e.2.word ≠ w) (ctx : Nat) (obj : Bool) :
    (s.loadWord core ctx w obj).2 = s.homeWord w := by
  have hcached := State.loadCached_of_absent hlatent herr hflight hl1 hcopy hpend obj
  have hheld : overlay (s.homeWord w) w ((s.core core).heldWrites ctx) = s.homeWord w :=
    overlay_of_absent _ (hflight.heldWrites ctx)
  have hhome : (s.homeRead w).2 = s.homeWord w := by
    unfold State.homeRead
    rw [State.detect_of_clean hlatent herr]
  have hregions := region_of_stored hstored
  generalize hr : s.loadWord core ctx w obj = r
  unfold State.loadWord at hr
  generalize s.region (8 * w) = g at hregions hr
  rw [← hr]
  obtain rfl | rfl | ⟨c, off, rfl⟩ | ⟨m, off, rfl⟩ := hregions
  · exact (congrArg (overlay · w _) hcached).trans hheld
  · exact (congrArg (overlay · w _) hcached).trans hheld
  · exact (congrArg (overlay · w _) hhome).trans hheld
  · exact (congrArg (overlay · w _) hhome).trans hheld

end

/-! ### The bytes of a load -/

/-- Byte i of an aligned access lies in the word of its address. -/
theorem aligned_byte {pa n i : Nat} (hn : n ∈ [1, 2, 4, 8]) (hpa : pa % n = 0) (hi : i < n) :
    wordsOf pa n = [pa / 8] ∧ (pa + i) % 8 = pa % 8 + i ∧ 8 * (pa / 8) + (pa + i) % 8 = pa + i := by
  have hin : pa % 8 + n ≤ 8 := by
    simp only [List.mem_cons, List.not_mem_nil, or_false] at hn
    rcases hn with rfl | rfl | rfl | rfl <;> omega
  refine ⟨?_, by omega, by omega⟩
  have hone : (pa + n - 1) / 8 - pa / 8 + 1 = 1 := by omega
  rw [wordsOf, hone]
  rfl

theorem bytesOfWords_singleton (x : Tagged) {pa n i : Nat} (hi : i < n) (hin : pa % 8 + i < 8) :
    (bytesOfWords pa n [x])[i]? = some (x.val.extractLsb' (8 * (pa % 8 + i)) 8) := by
  unfold bytesOfWords
  rw [List.getElem?_take_of_lt hi, List.getElem?_drop, List.map_singleton, List.flatten_singleton, bytesLE_getElem?, if_pos hin]
  rfl

theorem State.homeWord_byteAt (s : State) (w : Nat) {i : Nat} (hi : i < 8) :
    (s.homeWord w).val.extractLsb' (8 * i) 8 = s.byteAt (8 * w + i) := by
  unfold State.homeWord State.bytesAt
  rw [extract_valueLE _ (by simp) i hi, List.getElem_map, List.getElem_range]

theorem State.loadWords_singleton (s : State) (core ctx : Nat) (entry : Word) (obj : Bool) (w : Nat) :
    (s.loadWords core ctx entry obj [w]).2 = [(s.loadWord core ctx w obj).2] := by
  rw [State.loadWords]
  generalize s.loadWord core ctx w obj = r
  dsimp only
  rw [State.loadWords]

theorem State.readWords_snd (s : State) (core ctx : Nat) (entry : Word) (obj : Bool) (ws : List Nat) :
    (s.readWords core ctx entry obj ws).2 =
      (ws.zip (s.loadWords core ctx entry obj ws).2).map (fun x => overlay x.2 x.1 (s.ctxOf core ctx).buffered) := rfl

theorem State.loadSpan_bytes (s : State) (core ctx : Nat) (acc : Access) (n : Nat) :
    (s.loadSpan core ctx acc n).2.1 =
      bytesOfWords acc.pa n (s.readWords core ctx acc.entry acc.herdObj (wordsOf acc.pa n)).2 := rfl

theorem map_overlay_singleton (w : Nat) (x : Tagged) (buf : List WordWrite) :
    ([w].zip [x]).map (fun y => overlay y.2 y.1 buf) = [overlay x w buf] := rfl

/-- A load of one word binds the bytes of that word under the block's own stores (R25). -/
theorem State.loadSpan_bytes_of_word (s : State) (core ctx : Nat) (acc : Access) (n w : Nat) (hw : wordsOf acc.pa n = [w]) :
    (s.loadSpan core ctx acc n).2.1 =
      bytesOfWords acc.pa n [overlay (s.loadWord core ctx w acc.herdObj).2 w (s.ctxOf core ctx).buffered] := by
  rw [State.loadSpan_bytes, hw, State.readWords_snd, State.loadWords_singleton]
  exact congrArg (bytesOfWords acc.pa n) (map_overlay_singleton _ _ _)

theorem loadBindsYoungest : LoadBindsYoungest := by
  intro s core ctx n i acc _ _ hpa hi hn pa w hstored _ _ hlatent herr hl1 hcopy hflight hpend
  obtain ⟨hwords, hlane, hbyte⟩ := aligned_byte hn hpa hi
  have hlt : (pa + i) % 8 < 8 := Nat.mod_lt _ (by decide)
  have hword := State.loadWord_of_stored hlatent herr hflight hstored hl1 hcopy hpend ctx acc.herdObj
  have hover := overlay_byte (s.homeWord w) w (s.ctxOf core ctx).buffered hlt
  rw [s.loadSpan_bytes_of_word core ctx acc n w hwords, hword, bytesOfWords_singleton _ hi (by omega), ← hlane, hover]
  generalize ((s.ctxOf core ctx).buffered.filter _).getLast? = last
  cases last with
  | some x => rfl
  | none => exact congrArg some ((s.homeWord_byteAt w hlt).trans (congrArg s.byteAt hbyte))

/-- Settles O15: the port binds the youngest bytes to a load, and the load extends them into its result. -/
theorem loadResults : Obligations.LoadResults := ⟨loadValues, sideEffectLoad, loadBindsYoungest⟩

end Sys2Proof.Machine
end

section
/-!
PROOFS of O55: what the encoders write, the decoders read back. Of a Glipel word the body and the class are read back
whatever its top bit is (`decodeWord_word`), so that the statement of each constructor in Laws/PerInstr.lean is enough.
-/

namespace Sys2Proof.Laws.RoundTrip

/-- The statement of every step: the lemmas of Laws/PerInstr.lean in the order of the constructors of Instr. -/
theorem statement_all (i : Instr) : Statement i :=
  Instr.casesOn i
    nop nopA blk ld ldx st stx lda stl ldref stref amoW amoD casW casD fenceFull fenceRel fenceAcq fenceEng pub mkobj
    b call jr callr ret cflush cflushInv vld vst vlds vgth vsct send recv recvNb mbind rqput rqtake waitev waitevNb
    sleep cpy gath gathOwn scat scatAdd xchg mxc join joinNew leave bar barArr barWait couple coupleRe rjput rjtake
    spawn reply exit srd swr trap eret repart tlbinvPage tlbinvAsid tlbinvAll retag add sub and or xor andn orn sll
    srl sra rol ror mul mulh mulhu div divu rem remu min max minu maxu clz ctz popc bswap addw subw mulw sllw srlw
    sraw mov hash64 crc32c addi andi ori xori slli srli srai roli rori sllwi srlwi srawi li liu scadd bfx bfi cmp
    cmpi pand por pxor pandn pnot ppack punpack isref sel faddS fsubS fmulS fdivS fsqrtS fminS fmaxS fabsS fnegS
    faddD fsubD fmulD fdivD fsqrtD fminD fmaxD fabsD fnegD fmaS fmsS fmaD fmsD fcvt vadd vsub vmul vmin vmax vminu
    vmaxu vadds vsubs vaddus vsubus vavg vmulh vand vor vxor vandn vshl vshr vsar vabs vneg vdiv vrcp vrsq vsqrt
    vexp2 vlog2 vtanh vpopc vclz vfma vcmp vsel vcvt vqnt vdq vred vscan vperm vshuf vbcast vbcastG vmovg vins vcmprC
    vcmprE vmaskAnd vmaskOr vmaskXor vmaskAndn vmaskNot vmaskFromg vmaskTog vmaskPop vmaskFirst seqNop seta addaReg
    addaImm sets loopImm loopArg endl emitLd emitSt emitGth emitSct brc waitc signal seqFence eor seqSync setf setfIn
    halt feAdd feSub feMul feFma feFms feMin feMax feAbs feNeg feDiv feRcp feRsq feSqrt feExp2 feLog2 feTanh feAdds
    feSubs feAvg feMulh feCmpeq feCmpne feCmplt feCmple feAnd feOr feXor feNot feSel feShl feShr feSar fePopc feClz
    feCvt feSround feQmax feQcvt feDq feRsum feRmax feRmin feAcc feScan feBcast feShuf fePack feUnpack feDelay
    feCturn feRepl feIota feConst feZip feSplit feHash feSrc feSink feEsc feSync feFence feCmpk markerFiring
    planeChange steer merge carry mtProbe mxLoadb mxMm mxDrain mxMsg escDispatch escReplyArrival blockFetch
    loadReturn blockCommit timerExpiry vuIssue updateAccept updateDrain patrolRead tlbWalkStep walkStep walkerGrant
    sendInject messageArrival savedRingDelivery eventPost faultRecordPost lqtailWrite launchAdmission threadPlacement
    herdPlacement placementTimeout arbitrationPeriod slotReclaim launchDone fabricAdmission configLoad
    planeSlotWritten planeRefetch generatorFault fenceRetire stall drainRequest drained drainTimeout graphCompletion
    engineTake boxLand engineSegmentFault fixupReplay engineComplete xchgReceive xchgTimeout mxcInject loadw mm drain
    clear barWatchdog switchOut saveComplete resume ctxctlSwitchOut ctxctlAbort ctxctlForward fqresRetry fqresAbort
    fqheadWrite gctlDrain gctlAbort contextWindowWrite ctileWrite mtileWrite segmentConversionDone clkctlWrite
    itportStage itctlGo tableBroadcastAck controlRegisterWrite retireCore retireHerd retireSite retireDomain
    retireChannel linkRoute laneSpare attest herdQuiescentWindow stripeQuiescentWindow channelSpareCopy tlbSliceMove
    niFail regulatorPhase elementRailFailure routingRailFailure controlCoreFailure tableEntryError tableEntryRefetch
    seamFlitReceive seamResend linkFlitReceive linkReplay laneFailure hostAccess coldBoot chainUnitTimeout
    inputUndervoltage thermalStep thermalTrip thermalPowerRemoval linkTraining softError

theorem ofWord_word (x : Body) (top cls : Bool) : Body.ofWord (x.word top cls) = x := by
  simp [-Nat.reduceAdd, Body.ofWord, Body.word, Body.bits, BitVec.extractLsb'_append_eq_of_add_le,
    BitVec.extractLsb'_append_eq_of_le]

theorem wordClass_word (x : Body) (top cls : Bool) : wordClass (x.word top cls) = cls := by
  simp [-Nat.reduceAdd, -BitVec.getLsbD_eq_getElem, wordClass, Body.word, BitVec.getLsbD_append]

theorem word_or_top (x : Body) (cls : Bool) : x.word false cls ||| 0x80000000 = x.word true cls := by
  show _ ||| (BitVec.ofBool true ++ BitVec.ofBool false ++ (0 : BitVec 30)) = _
  unfold Body.word
  rw [BitVec.or_append, BitVec.or_append]
  simp

/-- A word decodes by its class and its body; the top bit is no part of the instruction (R46). -/
theorem decodeWord_word (x : Body) (top cls : Bool) : decodeWord (x.word top cls) = decodeBody cls x := by
  rw [decodeWord, wordClass_word, ofWord_word]

theorem decodeWord_of_encodeWord {i : Instr} {w : BitVec 32} (hi : i.wellFormed = true) (h : encodeWord i = some w) :
    decodeWord w = .ok i ∧ decodeWord (w ||| 0x80000000) = .ok i := by
  obtain ⟨⟨cls, x⟩, hbody, rfl⟩ := Option.map_eq_some_iff.mp h
  have hdecode : decodeBody cls x = .ok i := (statement_all i).1 hi _ hbody
  rw [word_or_top, decodeWord_word, decodeWord_word]
  exact ⟨hdecode, hdecode⟩

/-- Settles O55: by the statements of the constructors; a Glipel word adds the class and the top bit to a body. -/
theorem encodedInstructionsDecode : Obligations.EncodedInstructionsDecode := by
  intro i
  obtain ⟨-, helement, hrouter⟩ := statement_all i
  exact ⟨fun hi _ h => decodeWord_of_encodeWord hi h, helement, hrouter⟩

end Sys2Proof.Laws.RoundTrip
end

section
/-!
PROOFS of O56: sequencer words. Both directions speak of the fields that a word holds (`Holds`): a word is an encoding
when it holds each field of the layout at its place (`holds_append`), and these fields are what the decoder reads.
-/

namespace Sys2Proof.Laws.RoundTrip

/-! ### The fields of a word -/

/-- The bits of w from s on are the field x. -/
def Holds {m : Nat} (w : BitVec 32) (s : Nat) (x : BitVec m) : Prop := w.extractLsb' s m = x

theorem some_eq_iff_holds {x w : BitVec 32} : some x = some w ↔ Holds w 0 x := by
  rw [Option.some_inj, Holds, BitVec.extractLsb'_eq_self, eq_comm]

theorem holds_append {m n : Nat} {w : BitVec 32} {s : Nat} {x : BitVec m} {y : BitVec n} :
    Holds w s (x ++ y) ↔ Holds w (s + n) x ∧ Holds w s y := by
  unfold Holds
  rw [← BitVec.extractLsb'_append_extractLsb'_eq_extractLsb' rfl]
  constructor
  · intro h
    exact ⟨by rw [← hi_append x y, ← h, hi_append], by rw [← lo_append x y, ← h, lo_append]⟩
  · rintro ⟨rfl, rfl⟩
    rfl

theorem holds_ofBool {w : BitVec 32} {s : Nat} {p : Bool} : Holds w s (BitVec.ofBool p) ↔ w.getLsbD s = p := by
  unfold Holds
  rw [BitVec.getLsbD_eq_extractLsb']
  generalize w.extractLsb' s 1 = x
  revert x p
  decide

theorem holds_one {w : BitVec 32} {s : Nat} : Holds w s (1 : BitVec 1) ↔ w.getLsbD s = true := holds_ofBool (p := true)

theorem holds_zero {w : BitVec 32} {s : Nat} : Holds w s (0 : BitVec 1) ↔ w.getLsbD s = false :=
  holds_ofBool (p := false)

/-- The word of nop, cut below its operation. -/
theorem zero32_cut : (0 : BitVec 32) = (0 : BitVec 5) ++ (0 : BitVec 27) := rfl

/-- The clear bits of setf, cut below the bit that tells it from setf.in. -/
theorem zero20_cut : (0 : BitVec 20) = (0 : BitVec 1) ++ (0 : BitVec 19) := rfl

theorem operation_eq {w : BitVec 32} {k : Nat} (h : (w.extractLsb' 27 5).toNat = k) :
    w.extractLsb' 27 5 = BitVec.ofNat 5 k := by
  rw [← h, BitVec.ofNat_toNat, BitVec.setWidth_eq]

/-! ### The two directions

The sums of widths and the joined fields are kept as the layouts write them (`-Nat.reduceAdd`, `-BitVec.reduceAppend`), so
that `holds_append` cuts them field by field. -/

theorem decodeSeq_of_encodeSeq {i : Instr} {w : BitVec 32} (hi : i.wellFormed = true) (h : encodeSeq i = some w) :
    decodeSeq w = some i := by
  cases i with
  | seqNop | seta | addaReg | addaImm | sets | loopImm | loopArg | endl | brc | waitc | signal | seqFence | eor
  | seqSync | setf | setfIn | halt =>
    have h := some_eq_iff_holds.mp h
    simp only [holds_append, holds_ofBool, holds_one, holds_zero, zero32_cut, zero20_cut, -Nat.reduceAdd,
      -BitVec.reduceAppend] at h
    simp only [Nat.zero_add, Nat.reduceAdd, Holds] at h
    simp [-BitVec.getLsbD_eq_getElem, decodeSeq, h]
  | emitLd | emitSt | emitGth | emitSct =>
    have hsize := bne_iff_ne.mp hi
    have h := some_eq_iff_holds.mp h
    simp only [holds_append, -Nat.reduceAdd, -BitVec.reduceAppend] at h
    simp only [Nat.zero_add, Nat.reduceAdd, Holds] at h
    simpa [decodeSeq, h] using hsize
  | _ => cases h

theorem encodeSeq_of_decodeSeq {i : Instr} {w : BitVec 32} (h : decodeSeq w = some i) :
    encodeSeq i = some w ∧ i.wellFormed = true := by
  unfold decodeSeq at h
  dsimp only at h
  split at h
  all_goals simp only [ite_eq_iff, Option.some_inj, reduceCtorEq, and_false, or_false, Bool.and_eq_true,
    beq_iff_eq] at h
  -- operations with reserved bits only
  case h_1 hop | h_2 hop | h_6 hop | h_11 hop | h_12 hop | h_13 hop | h_14 hop | h_15 hop | h_16 hop | h_18 hop =>
    obtain ⟨hclear, rfl⟩ := h
    refine ⟨some_eq_iff_holds.mpr ?_, rfl⟩
    simp only [zero32_cut, holds_append, holds_ofBool, -Nat.reduceAdd, -BitVec.reduceAppend]
    simp [Holds, operation_eq hop, hclear]
  -- adda and setf: a bit chooses the form, and bits are reserved
  case h_3 hop | h_17 hop =>
    obtain ⟨hbit, hclear, rfl⟩ | ⟨hbit, hclear, rfl⟩ := h
    all_goals
      refine ⟨some_eq_iff_holds.mpr ?_, rfl⟩
      simp only [zero20_cut, holds_append, holds_one, holds_zero, -Nat.reduceAdd, -BitVec.reduceAppend]
      simp [-BitVec.getLsbD_eq_getElem, Holds, operation_eq hop, hclear, hbit]
  -- sets uses every bit
  case h_4 hop =>
    obtain rfl := h
    refine ⟨some_eq_iff_holds.mpr ?_, rfl⟩
    simp only [holds_append, -Nat.reduceAdd, -BitVec.reduceAppend]
    simp [Holds, operation_eq hop]
  -- loop: a bit chooses the form
  case h_5 hop =>
    obtain ⟨hbit, rfl⟩ | ⟨hbit, rfl⟩ := h
    all_goals
      refine ⟨some_eq_iff_holds.mpr ?_, rfl⟩
      simp only [holds_append, holds_one, holds_zero, -Nat.reduceAdd, -BitVec.reduceAppend]
      simp [-BitVec.getLsbD_eq_getElem, Holds, operation_eq hop, hbit]
  -- the emits: reserved bits, and a size code other than 7
  case h_7 hop | h_8 hop | h_9 hop | h_10 hop =>
    obtain ⟨⟨hclear, hsize⟩, rfl⟩ := h
    refine ⟨some_eq_iff_holds.mpr ?_, hsize⟩
    simp only [holds_append, -Nat.reduceAdd, -BitVec.reduceAppend]
    simp [Holds, operation_eq hop, hclear]

/-- Settles O56: the fields that make a word an encoding are the fields that the decoder reads. -/
theorem sequencerWordsRoundTrip : Obligations.SequencerWordsRoundTrip :=
  fun _ _ => ⟨encodeSeq_of_decodeSeq, fun ⟨h, hi⟩ => decodeSeq_of_encodeSeq hi h⟩

end Sys2Proof.Laws.RoundTrip
end

section
/-!
PROOFS of O24 and O54: nops, branches, calls and returns; and the words of the specification's examples.
-/

namespace Sys2Proof.Machine

open Claims

/-- The target of b and call as a sum of integers (R58). -/
theorem Context.branchTarget_eq (c : Context) (off : BitVec 20) :
    c.branchTarget off = BitVec.ofInt 64 (c.bundleAddr.toInt + 8 * off.toInt) := by
  rw [Context.branchTarget, BitVec.ofInt_add, BitVec.ofInt_mul, BitVec.ofInt_toInt, BitVec.mul_comm]
  rfl

/-- Settles O24: each transfer is its exit, and for call and callr the link is a short result in g31 after it. -/
theorem transferResults : Obligations.TransferResults := by
  intro s p n off a len x sv a16 a32 c bundle target link exits
  have htarget : s.exitTo (c.branchTarget off) = exits target := congrArg s.exitTo (c.branchTarget_eq off)
  have hlink (t : State) : WroteG t (t.shortG 31 c.fallThrough) 31 link := t.shortG_wroteG 31 c.fallThrough
  refine ⟨rfl, rfl, rfl, ?branch, ?call, rfl, ⟨_, rfl, hlink _⟩, rfl⟩
  case branch =>
    show goes (if c.rp p != n then s.exitTo (c.branchTarget off) else s) = _
    rw [htarget]
    simp only [bne_iff_ne]
  case call => exact ⟨_, rfl, htarget ▸ hlink _⟩

theorem decodedGlipelWords : DecodedGlipelWords := by
  unfold DecodedGlipelWords
  and_intros <;> rfl

theorem decodedSequencerWords : DecodedSequencerWords := by
  unfold DecodedSequencerWords
  decide

/-- Settles O54: the decoder evaluated on each word. -/
theorem decodedWords : Obligations.DecodedWords := ⟨decodedGlipelWords, decodedSequencerWords⟩

end Sys2Proof.Machine
end

section
/-!
PROOFS of O8: rounding toward zero, and the NaNs of scalar float results. A code magnitude is written as n + k·2^m, as
`Fmt.round` forms it: the significand n counts units of 2^(k + 1 − bias − m) (`Fmt.value_significand`), so that one unit
more is the next code, also where it reaches the next binade.
-/

namespace Sys2Proof.Machine

open Claims

/-! ### The value of a code (R82) -/

/-- The value of a finite code. -/
def Fmt.value (f : Fmt) (c : Nat) : ℚ := match f.decode c with
  | .fin _ n g => (n : ℚ) * (2 : ℚ) ^ g
  | _ => 0

/-- The codes up to the largest are those whose exponent field is not all ones. -/
theorem Fmt.le_maxCode_iff {f : Fmt} (hf : f.sp = .ieee) (he : 0 < f.e) (k : Nat) {n : Nat} (hn : n < 2 ^ f.m) :
    n + k * 2 ^ f.m ≤ f.maxCode ↔ k + 1 < 2 ^ f.e := by
  obtain ⟨t, ht⟩ : ∃ t, 2 ^ f.e = t + 2 := ⟨2 ^ f.e - 2, by have := Nat.pow_le_pow_right two_pos he; omega⟩
  have hmax : f.maxCode + 1 = t * 2 ^ f.m + 2 ^ f.m := by
    have hpos := Nat.two_pow_pos f.m
    simp only [Fmt.maxCode, hf, pow_add, ht, add_mul]
    omega
  have hlt : n + k * 2 ^ f.m ≤ f.maxCode ↔ (n + k * 2 ^ f.m) / 2 ^ f.m < t + 1 := by
    rw [Nat.div_lt_iff_lt_mul (Nat.two_pow_pos _), ← Nat.lt_succ_iff, Nat.succ_eq_add_one, hmax, add_mul, one_mul]
  rw [hlt, Nat.add_mul_div_right _ _ (Nat.two_pow_pos _), Nat.div_eq_of_lt hn, ht]
  omega

/-- What a finite code with exponent field k and mantissa n stands for (R82). -/
theorem Fmt.value_fields {f : Fmt} (hf : f.sp = .ieee) {k n : Nat} (hn : n < 2 ^ f.m) (hk : k + 1 < 2 ^ f.e) :
    f.value (n + k * 2 ^ f.m) =
      if k = 0 then (n : ℚ) * 2 ^ (1 - f.bias - f.m) else ((2 ^ f.m + n : Nat) : ℚ) * 2 ^ (k - f.bias - f.m) := by
  have hexp : (n + k * 2 ^ f.m) / 2 ^ f.m % 2 ^ f.e = k := by
    rw [Nat.add_mul_div_right _ _ (Nat.two_pow_pos _), Nat.div_eq_of_lt hn, Nat.zero_add, Nat.mod_eq_of_lt (by omega)]
  have hman : (n + k * 2 ^ f.m) % 2 ^ f.m = n := by rw [Nat.add_mul_mod_self_right, Nat.mod_eq_of_lt hn]
  have hk' : k ≠ 2 ^ f.e - 1 := by omega
  simp only [Fmt.value, Fmt.decode, hexp, hman, hf, hk']
  by_cases h0 : k = 0 <;> simp [h0]

/-- A significand n over k·2^m, with its first bit unless k = 0, is the code of n·2^(k + 1 − bias − m); 2^(m+1) is the
first code of the next binade. -/
theorem Fmt.value_significand {f : Fmt} (hf : f.sp = .ieee) (he : 0 < f.e) {k n : Nat} (hn : n ≤ 2 ^ (f.m + 1))
    (hnormal : k = 0 ∨ 2 ^ f.m ≤ n) (hmax : n + k * 2 ^ f.m ≤ f.maxCode) :
    f.value (n + k * 2 ^ f.m) = (n : ℚ) * 2 ^ ((k : ℤ) + 1 - f.bias - f.m) := by
  have hpow : 2 ^ (f.m + 1) = 2 ^ f.m + 2 ^ f.m := by ring
  rcases lt_or_ge n (2 ^ f.m) with hsub | hone
  · obtain rfl : k = 0 := by omega
    rw [Fmt.value_fields hf hsub ((Fmt.le_maxCode_iff hf he 0 hsub).1 hmax), if_pos rfl]
    norm_num
  rcases hn.lt_or_eq with hlt | rfl
  · have hsplit : n + k * 2 ^ f.m = (n - 2 ^ f.m) + (k + 1) * 2 ^ f.m := by rw [add_mul]; omega
    have hrest : n - 2 ^ f.m < 2 ^ f.m := by omega
    rw [hsplit] at hmax ⊢
    rw [Fmt.value_fields hf hrest ((Fmt.le_maxCode_iff hf he _ hrest).1 hmax), if_neg (by omega), Nat.add_sub_of_le hone]
    norm_num
  · have hsplit : 2 ^ (f.m + 1) + k * 2 ^ f.m = 0 + (k + 2) * 2 ^ f.m := by ring
    have hrest : 0 < 2 ^ f.m := Nat.two_pow_pos _
    rw [hsplit] at hmax ⊢
    rw [Fmt.value_fields hf hrest ((Fmt.le_maxCode_iff hf he _ hrest).1 hmax), if_neg (by omega)]
    have hexp : ((k + 2 : Nat) : ℤ) - f.bias - f.m = 1 + ((k : ℤ) + 1 - f.bias - f.m) := by push_cast; ring
    rw [hexp, zpow_add₀ two_ne_zero]
    push_cast
    ring

/-! ### Rounding toward zero (R94) -/

/-- Rounding toward zero gives the whole units of a magnitude, and says whether there was more. -/
theorem roundAt_towardZero (draw m : Nat) (sh : ℤ) :
    let r := roundAt 1 draw m sh false
    (r.1 : ℚ) ≤ m * 2 ^ (-sh) ∧ (m : ℚ) * 2 ^ (-sh) < r.1 + 1 ∧ (r.2 = false ↔ (r.1 : ℚ) = m * 2 ^ (-sh)) := by
  match sh with
  | .negSucc n =>
    have hval : ((m <<< (n + 1) : Nat) : ℚ) = m * 2 ^ (-Int.negSucc n) := by
      rw [Nat.shiftLeft_eq, Int.neg_negSucc, zpow_natCast]
      push_cast
      rfl
    simp [roundAt, hval]
  | .ofNat n =>
    have hpos : (0 : ℚ) < 2 ^ n := by positivity
    have hval : (m : ℚ) * 2 ^ (-Int.ofNat n) = m / 2 ^ n := by
      rw [Int.ofNat_eq_natCast, zpow_neg, zpow_natCast, div_eq_mul_inv]
    have hsplit : ((m >>> n : Nat) : ℚ) * 2 ^ n + (m % 2 ^ n : Nat) = m := by
      rw [Nat.shiftRight_eq_div_pow]
      exact_mod_cast Nat.div_add_mod' m (2 ^ n)
    have hrest : ((m % 2 ^ n : Nat) : ℚ) < 2 ^ n := by exact_mod_cast Nat.mod_lt m (Nat.two_pow_pos n)
    have hrest0 : (0 : ℚ) ≤ (m % 2 ^ n : Nat) := Nat.cast_nonneg _
    have hround : roundAt 1 draw m (.ofNat n) false = (m >>> n, m % 2 ^ n != 0) := by simp [roundAt, roundUnits]
    simp only [hround, bne_eq_false_iff_eq]
    rw [hval, le_div_iff₀ hpos, div_lt_iff₀ hpos, eq_div_iff hpos.ne']
    refine ⟨by linarith, by linarith, fun h => ?_, fun h => ?_⟩
    · rw [← hsplit, h, Nat.cast_zero, add_zero]
    · exact_mod_cast (by linarith : ((m % 2 ^ n : Nat) : ℚ) = 0)

/-- The exponent of a magnitude bounds it on both sides. -/
theorem expOf_bounds {m : Nat} (hm : m ≠ 0) (e : ℤ) :
    (2 : ℚ) ^ expOf m e ≤ m * 2 ^ e ∧ (m : ℚ) * 2 ^ e < 2 ^ (expOf m e + 1) := by
  have hlow : (2 : ℚ) ^ Nat.log2 m ≤ m := by exact_mod_cast Nat.log2_self_le hm
  have hhigh : (m : ℚ) < 2 ^ (Nat.log2 m + 1) := by exact_mod_cast Nat.lt_log2_self
  have hexp (k : Nat) : (2 : ℚ) ^ (e + k) = 2 ^ k * 2 ^ e := by rw [add_comm, zpow_add₀ two_ne_zero, zpow_natCast]
  rw [expOf, add_assoc, ← Nat.cast_succ, hexp, hexp]
  exact ⟨by gcongr, by gcongr⟩

/-- A magnitude in units of 2^(top − m), where top is its exponent or the least one that a code has, has at most m + 1
bits before the point, and all of them above the least exponent. -/
theorem units_bounds (f : Fmt) {m : Nat} (hm : m ≠ 0) (e : ℤ) :
    let top := max (expOf m e) (1 - f.bias)
    let x := (m : ℚ) * 2 ^ (-(top - f.m - e))
    x < 2 ^ (f.m + 1) ∧ (top = 1 - f.bias ∨ 2 ^ f.m ≤ x) := by
  intro top x
  obtain ⟨hlow, hhigh⟩ := expOf_bounds hm e
  have hx : x = m * 2 ^ e * 2 ^ ((f.m : ℤ) - top) := by
    rw [mul_assoc, ← zpow_add₀ two_ne_zero, show e + ((f.m : ℤ) - top) = -(top - f.m - e) by ring]
  have htop : expOf m e ≤ top := le_max_left _ _
  constructor
  · calc x < 2 ^ (expOf m e + 1) * 2 ^ ((f.m : ℤ) - top) := by rw [hx]; gcongr
      _ = (2 : ℚ) ^ (expOf m e + 1 + (f.m - top)) := (zpow_add₀ two_ne_zero _ _).symm
      _ ≤ (2 : ℚ) ^ ((f.m + 1 : Nat) : ℤ) := zpow_le_zpow_right₀ one_le_two (by push_cast; omega)
      _ = 2 ^ (f.m + 1) := zpow_natCast _ _
  · refine (max_choice (expOf m e) (1 - f.bias)).symm.imp id fun (h : top = expOf m e) => ?_
    calc (2 : ℚ) ^ f.m = 2 ^ (expOf m e + (f.m - top)) := by rw [h, add_sub_cancel, zpow_natCast]
      _ = 2 ^ expOf m e * 2 ^ ((f.m : ℤ) - top) := zpow_add₀ two_ne_zero _ _
      _ ≤ x := by rw [hx]; gcongr

/-- What `Fmt.round` gives toward zero where nothing overflows: the code of the whole units, and no flag when they are all. -/
theorem Fmt.round_towardZero (f : Fmt) (sat sg : Bool) (draw m : Nat) (e : ℤ) :
    let top := max (expOf m e) (1 - f.bias)
    let r := roundAt 1 draw m (top - f.m - e) false
    let c := r.1 + (top - f.m + f.m + f.bias - 1).toNat * 2 ^ f.m
    let res := f.round { rm := 1, ftz := false, sat := sat, draw := draw } sg m e false
    f.sp = .ieee → res.flags &&& ofFlag = 0 →
      c ≤ f.maxCode ∧ res.bits = f.signBit sg + c ∧ (res.flags = 0 ↔ r.2 = false) := by
  intro top r c res hf hno
  simp only [res, Fmt.round, hf] at hno ⊢
  split at hno
  · simp [ofFlag, nxFlag] at hno
  next hc =>
    rw [if_neg hc]
    refine ⟨not_lt.1 hc, rfl, ?_⟩
    change (if r.2 = true then nxFlag else 0) + _ = 0 ↔ _
    cases r.2 <;> simp [nxFlag]

/-- The formats of the claim are IEEE formats (R82). -/
theorem ieee_of_mem {f : Fmt} (hf : f ∈ [fp64, fp32, bf16, fp16]) : f.sp = .ieee ∧ 0 < f.e := by
  revert f
  decide

theorem roundingTowardZero : RoundingTowardZero := by
  intro f sat sg draw m e hf hm r v hno
  obtain ⟨hsp, he⟩ := ieee_of_mem hf
  obtain ⟨hc, hbits, hflags⟩ := f.round_towardZero sat sg draw m e hsp hno
  obtain ⟨hle, hlt, hexact⟩ := roundAt_towardZero draw m (max (expOf m e) (1 - f.bias) - f.m - e)
  obtain ⟨hhigh, hlow⟩ := units_bounds f hm e
  generalize htop : max (expOf m e) (1 - f.bias) = top at *
  generalize hu : roundAt 1 draw m (top - f.m - e) false = u at *
  generalize hk : (top - f.m + f.m + f.bias - 1).toNat = k at *
  have hleast : 1 - f.bias ≤ top := htop ▸ le_max_right _ _
  have hexp : (k : ℤ) + 1 - f.bias - f.m = top - f.m := by omega
  have hunit : (0 : ℚ) < 2 ^ (top - f.m) := by positivity
  have hm' : (m : ℚ) * 2 ^ e = m * 2 ^ (-(top - f.m - e)) * 2 ^ (top - f.m) := by
    rw [mul_assoc, ← zpow_add₀ two_ne_zero, show -(top - f.m - e) + (top - f.m) = e by ring]
  have hnext : u.1 + 1 ≤ 2 ^ (f.m + 1) := by exact_mod_cast (hle.trans_lt hhigh : (u.1 : ℚ) < 2 ^ (f.m + 1))
  have hfirst : k = 0 ∨ 2 ^ f.m ≤ u.1 := by
    refine hlow.imp (fun h => by omega) fun h => ?_
    exact Nat.lt_succ_iff.1 (by exact_mod_cast h.trans_lt hlt)
  have hvalue (n : Nat) (h1 : u.1 ≤ n) (h2 : n ≤ 2 ^ (f.m + 1)) (h3 : n + k * 2 ^ f.m ≤ f.maxCode) :
      v (n + k * 2 ^ f.m) = n * 2 ^ (top - f.m) := by
    rw [← hexp]
    exact Fmt.value_significand hsp he h2 (hfirst.imp id (·.trans h1)) h3
  refine ⟨u.1 + k * 2 ^ f.m, hbits, hc, ?_, fun hlast => ?_, ?_⟩
  · rw [hvalue _ le_rfl (by omega) hc, hm']
    gcongr
  · rw [show u.1 + k * 2 ^ f.m + 1 = (u.1 + 1) + k * 2 ^ f.m by ring,
      hvalue (u.1 + 1) (by omega) hnext (by omega), hm', Nat.cast_succ]
    gcongr
  · rw [hvalue _ le_rfl (by omega) hc, hm', mul_left_inj' hunit.ne']
    exact hflags.trans hexact

/-! ### NaNs (R96, R141) -/

theorem Fmt.deliver_of_isNan (f : Fmt) (v : FEnv) {x : FVal} (h : x.isNan = true) : (f.deliver v x).bits = f.nanCode := by
  cases x with
  | nan => rfl
  | inf => cases h
  | fin => cases h

/-- An invalid operation delivers the canonical NaN and the invalid flag. -/
theorem Fmt.deliver_invalid {f : Fmt} (hf : f.sp = .ieee) (v : FEnv) :
    f.deliver v (.nan true) = { bits := f.nanCode, flags := nvFlag } := by
  simp [Fmt.deliver, Fmt.convert, FVal.sigFlag, hf]

theorem FVal.add_isNan {a b : FVal} (h : a.isNan = true ∨ b.isNan = true) : (a.add b).isNan = true := by
  cases a <;> cases b <;> simp_all [FVal.add, FVal.isNan]

theorem FVal.mul_isNan {a b : FVal} (h : a.isNan = true ∨ b.isNan = true) : (a.mul b).isNan = true := by
  cases a <;> cases b <;> simp_all [FVal.mul, FVal.isNan]

/-- A quotient with a NaN operand is delivered from a NaN. -/
theorem Fmt.fdiv_isNan (f : Fmt) (v : FEnv) {a b : FVal} (h : a.isNan = true ∨ b.isNan = true) :
    (f.fdiv v a b).bits = f.nanCode := by
  cases a with
  | nan => cases b <;> rfl
  | inf => cases b <;> simp_all [FVal.isNan, Fmt.fdiv, Fmt.deliver, Fmt.convert]
  | fin => cases b <;> simp_all [FVal.isNan, Fmt.fdiv, Fmt.deliver, Fmt.convert]

theorem canonicalNan : CanonicalNan := by
  intro f v a b c hf
  have hsp : f.sp = .ieee := (ieee_of_mem (List.mem_append_left [bf16, fp16] hf)).1
  have hinvalid := Fmt.deliver_invalid hsp v
  refine ⟨fun x hx => f.deliver_of_isNan v hx, fun h => ⟨?add, ?mul, f.fdiv_isNan v h, ?fma⟩, fun h => ?sqrt, fun x y => ?infs,
    fun x y g => hinvalid, fun x y e g => hinvalid, fun x y => hinvalid, fun m e hm => ?neg⟩
  case add => exact f.deliver_of_isNan v (FVal.add_isNan h)
  case mul => exact f.deliver_of_isNan v (FVal.mul_isNan h)
  case fma => exact f.deliver_of_isNan v (FVal.add_isNan (.inl (FVal.mul_isNan h)))
  case sqrt =>
    cases a with
    | nan => rfl
    | inf => cases h
    | fin => cases h
  case infs =>
    show (f.deliver v (if x = y then .inf x else .nan true)).flags = _ ∧ (f.deliver v (if x = y then .inf x else .nan true)).bits = _
    split
    · simp [Fmt.deliver, Fmt.convert, FVal.sigFlag, hsp]
    · simp [hinvalid]
  case neg => simp [Fmt.fsqrt, hm, hinvalid]

/-- Settles O8: the whole units of the value, taken at its code's exponent, are the code's significand. -/
theorem floatRounding : Obligations.FloatRounding := ⟨roundingTowardZero, canonicalNan⟩

end Sys2Proof.Machine
end

section
/-!
PROOFS of O39, the commands of a matrix element. What becomes of the command at the head of the queue is said once
(`State.mxeCommand_of_…`): it is ended by an abort, refused, or run.
-/

namespace Sys2Proof.Machine

open Claims

/-! ### Refusals (R265, R269) -/

theorem State.mxeRefuses_of_stale {s : State} {e : Nat} {c : Command}
    (h : ¬ ((s.mxe e).owner = some (field (c.w 0) 22 11) ∧ (s.mxe e).nonce.toNat = field (c.w 0) 63 48)) :
    s.mxeRefuses e c = some Cause.capStale :=
  if_pos (not_and_or.1 h)

section
variable {s : State} {e : Nat} {c : Command}
  (hcap : (s.mxe e).owner = some (field (c.w 0) 22 11) ∧ (s.mxe e).nonce.toNat = field (c.w 0) 63 48)
include hcap

theorem State.mxeRefuses_of_cap : s.mxeRefuses e c =
    if !(field (c.w 0) 26 23 &&& (s.mxe e).rights).testBit (c.w 1 % 16 - 1) then some Cause.capRights
    else if c.w 1 % 16 = 2 ∧ ((s.mxe e).bank (c.w 1 / 16 % 2)).cell ≠ 0 ∧ ((s.mxe e).bank (c.w 1 / 16 % 2)).cell ≠
      (if intCode (wordN c.descB 0 % 32) && intCode (wordN c.descB 1 % 32) then 2 else 1) then some Cause.formatPair
    else if c.w 1 % 16 = 1 ∧ weightBytes e < c.w 3 + c.w 4 then some Cause.shape
    else none :=
  if_neg (by rw [not_or, not_not, not_not]; exact hcap)

end

/-- Right number op of a capability is its bit 22 + op (R264). -/
theorem testBit_capRights (x : Nat) {op : Nat} (h1 : 1 ≤ op) (h4 : op ≤ 4) :
    (field x 26 23).testBit (op - 1) = x.testBit (22 + op) := by
  rw [field, Nat.testBit_mod_two_pow, Nat.testBit_shiftRight, decide_eq_true (by omega), Bool.true_and]
  congr 1
  omega

/-! ### The head of the queue -/

/-- The MXE that operand 0 names may go on with the command c at the head of its queue. -/
structure State.MxeHead (s : State) (c : Command) (rest : List Command) : Prop where
  queue : (s.mxe (s.arg 0)).queue = c :: rest
  waiting : (s.mxe (s.arg 0)).waiting = none
  site : s.dev.retired.contains (siteOfMxe (s.arg 0)) = false
  poster : s.posterHeld (fun r => r.src == 5 && r.loc == siteOfMxe (s.arg 0)) = false

section
variable {s : State} {op : Nat} {run : State → Nat → Command → Chk Nat} {c : Command} {rest : List Command}
  (hhead : s.MxeHead c rest) (hop : c.w 1 % 16 = op)
include hhead hop

theorem State.mxeCommand_of_head : s.mxeCommand op run =
    if c.status ≠ 0 then .next (s.mxeDone (s.arg 0) c c.status)
    else match (if (s.mxe (s.arg 0)).running = some c.id then none else s.mxeRefuses (s.arg 0) c) with
      | some st => .next (s.mxeDone (s.arg 0) c st)
      | none =>
        let v := s.onMxe (s.arg 0) (fun m => { m with running := some c.id })
        match run v (s.arg 0) c with
        | .ok t st => .next (t.mxeDone (s.arg 0) c st)
        | .fault _ cause va _ => .next (v.mxeRecord (s.arg 0) c cause va)
        | .wait => .next v := by
  obtain ⟨hqueue, hwaiting, hsite, hposter⟩ := hhead
  unfold State.mxeCommand
  dsimp only
  split
  next h => rw [hqueue] at h; cases h
  next d _ h =>
    obtain ⟨rfl, -⟩ := List.cons.inj (hqueue.symm.trans h)
    exact (if_neg (by simp [hop, hwaiting, hposter])).trans (if_neg (by simp only [hsite]; exact Bool.false_ne_true))

theorem State.mxeCommand_of_status (hstatus : c.status ≠ 0) : s.mxeCommand op run = .next (s.mxeDone (s.arg 0) c c.status) := by
  rw [State.mxeCommand_of_head hhead hop, if_pos hstatus]

theorem State.mxeCommand_of_refused (hstatus : c.status = 0) (hrun : (s.mxe (s.arg 0)).running ≠ some c.id) {st : Nat}
    (h : s.mxeRefuses (s.arg 0) c = some st) : s.mxeCommand op run = .next (s.mxeDone (s.arg 0) c st) := by
  rw [State.mxeCommand_of_head hhead hop, if_neg (not_not.2 hstatus), if_neg hrun, h]

/-- A command that has passed its checks runs, also where it would be refused now. -/
theorem State.mxeCommand_of_run (hstatus : c.status = 0)
    (hpass : s.mxeRefuses (s.arg 0) c = none ∨ (s.mxe (s.arg 0)).running = some c.id) {t : State} {st : Nat}
    (h : run (s.onMxe (s.arg 0) (fun m => { m with running := some c.id })) (s.arg 0) c = .ok t st) :
    s.mxeCommand op run = .next (t.mxeDone (s.arg 0) c st) := by
  have hnone : (if (s.mxe (s.arg 0)).running = some c.id then none else s.mxeRefuses (s.arg 0) c) = none :=
    ite_eq_left_iff.2 fun hr => hpass.resolve_right hr
  rw [State.mxeCommand_of_head hhead hop, if_neg (not_not.2 hstatus), hnone]
  dsimp only
  rw [h]

end

/-- LOADW, MM, DRAIN and CLEAR are the commands of operation 1 to 4. -/
theorem exec_mxeCommand {i : Instr} {op : Nat} (h : (i, op) ∈ [(Instr.loadw, 1), (.mm, 2), (.drain, 3), (.clear, 4)]) (s : State) :
    (1 ≤ op ∧ op ≤ 4) ∧ ∃ run, exec i s = s.mxeCommand op run := by
  simp only [List.mem_cons, Prod.mk.injEq, List.not_mem_nil, or_false] at h
  obtain ⟨rfl, rfl⟩ | ⟨rfl, rfl⟩ | ⟨rfl, rfl⟩ | ⟨rfl, rfl⟩ := h
  · exact ⟨by decide, _, execLoadw.eq_1 s⟩
  · exact ⟨by decide, _, execMm.eq_1 s⟩
  · exact ⟨by decide, _, execDrain.eq_1 s⟩
  · exact ⟨by decide, _, execClear.eq_1 s⟩

/-! ### The end of a command -/

@[simp] theorem State.mxe_onMxe (s : State) (e : Nat) (f : Mxe → Mxe) : (s.onMxe e f).mxe e = f (s.mxe e) := mget_mset_same _ _ _ _

@[simp] theorem Mxe.bank_setBank (m : Mxe) (b : Nat) (x : Bank) : (m.setBank b x).bank b = x := by
  unfold Mxe.setBank Mxe.bank
  split <;> rfl

theorem State.postToLaunch_frame (s : State) (unit launch : Nat) (r : EventRec) :
    (s.postToLaunch unit launch r).mem = s.mem ∧ (s.postToLaunch unit launch r).fabric = s.fabric := by
  unfold State.postToLaunch
  split
  · exact ⟨rfl, rfl⟩
  · dsimp only
    split <;> exact ⟨rfl, rfl⟩

/-- A command whose completion handle names no set gives up its ownership, and nothing else. -/
theorem State.closeCommand_of_noSet {c : Command} (h : c.usesSet = false) (s : State) :
    s.closeCommand c = s.withOwned (s.mem.owned.filter (fun o => o.2.2.2 != c.id)) := by
  simp [State.closeCommand, State.lowerPend, State.setMoves, State.setOf, h]

theorem State.finish_frame {f : Finish} (h : f.cmd.usesSet = false) (s : State) :
    (s.finish f).mem.bytes = s.mem.bytes ∧ (s.finish f).fabric = s.fabric := by
  unfold State.finish
  split
  · exact ⟨rfl, rfl⟩
  split
  · rw [State.closeCommand_of_noSet h]
    exact ⟨rfl, rfl⟩
  · dsimp only
    split
    · exact ⟨rfl, rfl⟩
    · rw [State.closeCommand_of_noSet h]
      exact ⟨rfl, rfl⟩

theorem State.completeCommand_frame {c : Command} (h : c.usesSet = false) (s : State) (unit status landed extra : Nat) :
    (s.completeCommand unit c status landed extra).mem.bytes = s.mem.bytes ∧
      (s.completeCommand unit c status landed extra).fabric = s.fabric := by
  unfold State.completeCommand
  dsimp only
  split
  · split
    · exact State.finish_frame h _
    · obtain ⟨hmem, hfabric⟩ := s.postToLaunch_frame unit (launchOfHandle c.handle)
        [eventWord0 0x0020 c.handle, c.descAddr, BitVec.ofNat 64 landed, BitVec.ofNat 64 (status % 512 + 65536 * (extra % 2 ^ 32))]
      rw [← hmem, ← hfabric]
      exact State.finish_frame h _
  · split
    · exact ⟨rfl, rfl⟩
    · exact State.finish_frame h _

/-- A command without a completion handle leaves the queue, and memory as it is. -/
theorem State.mxeDone_frame {c : Command} (hdone : c.done = 0) (s : State) (e st : Nat) :
    (s.mxeDone e c st).mem.bytes = s.mem.bytes ∧ ((s.mxeDone e c st).mxe e).queue = (s.mxe e).queue.drop 1 := by
  have hset : c.usesSet = false := by simp [Command.usesSet, hdone]
  obtain ⟨hmem, hfabric⟩ := State.completeCommand_frame hset
    (s.onMxe e (fun m => { m with queue := m.queue.drop 1, waiting := none, running := none })) 3 st
    (if st = 0 ∨ st = Cause.codebook then c.byteCount else 0) 0
  refine ⟨hmem, ?_⟩
  rw [State.mxeDone, State.mxe, hfabric]
  exact congrArg Mxe.queue (State.mxe_onMxe s e _)

/-! ### A bank reset (R272) -/

theorem memGet_filter (p : Nat → Bool) (m : Memory) (a : Nat) :
    memGet (m.filter (fun c => p c.1)) a = if p a then memGet m a else Memory.background a := by
  induction m with
  | nil => simp [memGet]
  | cons c m ih =>
    obtain ⟨j, y⟩ := c
    by_cases hj : j = a
    · subst hj
      cases hp : p j <;> simp [hp, memGet, ih]
    · cases hp : p j <;> simp [hp, memGet, ih, hj]

/-- Unlisted bytes of a bank are zero. -/
theorem background_bank {e bank a : Nat} (hbank : bank < 2) (h : mxeBase e + 3145728 + 32768 * bank ≤ a)
    (h' : a < mxeBase e + 3145728 + 32768 * bank + bankBytes e) : Memory.background a = 0 := by
  have hsize : bankBytes e ≤ 32768 := by unfold bankBytes; split <;> omega
  unfold mxeBase at h h'
  refine if_neg fun ⟨_, _, hpage⟩ => ?_
  omega

theorem State.clearBank_spec (s : State) (e : Nat) {bank : Nat} (hbank : bank < 2) :
    let t := s.clearBank e bank
    let base := mxeBase e + 3145728 + 32768 * bank
    (∀ a, base ≤ a → a < base + bankBytes e → memGet t.mem.bytes a = 0) ∧
      (∀ a, a < base ∨ base + bankBytes e ≤ a → memGet t.mem.bytes a = memGet s.mem.bytes a) ∧ (t.mxe e).bank bank = {} := by
  intro t base
  have hbytes (a : Nat) := memGet_filter (fun a => decide (a < base) || decide (base + bankBytes e ≤ a)) s.mem.bytes a
  refine ⟨fun a h1 h2 => (hbytes a).trans ?_, fun a h => (hbytes a).trans ?_, ?_⟩
  · rw [if_neg (by simp; omega), background_bank hbank h1 h2]
  · rw [if_pos (by simpa using h)]
  · exact (congrArg (Mxe.bank · bank) (State.mxe_onMxe _ e _)).trans (Mxe.bank_setBank _ _ _)

/-! ### The commands -/

/-- The fields of a capability as quotients (R264). -/
theorem capFields (x : Nat) : field x 22 11 = x / 2 ^ 11 % 4096 ∧ field x 63 48 = x / 2 ^ 48 % 65536 := by
  simp [field, Nat.shiftRight_eq_div_pow]

theorem codebookOk_iff (bs : List Byte) : codebookOk bs = true ↔ ∀ b ∈ bs, b.toNat < 16 ∧ b.toNat ≠ 8 := by
  simp [codebookOk, List.all_eq_true, ← BitVec.toNat_inj]

theorem codebookOk_defaultSet : codebookOk defaultSet = true := by
  rw [codebookOk_iff]
  intro b hb
  obtain ⟨a, -, rfl⟩ := List.mem_map.1 hb
  split <;> decide

theorem State.loadCodebook_of_ok {bs : List Byte} (h : codebookOk bs = true) (s : State) (e : Nat) :
    s.loadCodebook e bs = (s.putBytes (mxeBase e + 2097152) bs, 0) := if_pos h

theorem State.loadCodebook_of_not_ok {bs : List Byte} (h : ¬ codebookOk bs = true) (s : State) (e : Nat) :
    s.loadCodebook e bs = (s, Cause.codebook) := if_neg h

/-- The record that a DRAIN posts for a bank that does not settle (R118, R272). -/
def Command.mismatchRecord (c : Command) (e : Nat) : FaultRec :=
  { cause := Cause.hallmarkMismatch, sev := 3, src := 5, handle := c.handle, launch := some (launchOfHandle c.handle)
    loc := siteOfMxe e, aux := c.descAddr }

theorem Chk.andThen_of_ok {α β : Type} {x : Chk α} {s : State} {a : α} (h : x = .ok s a) (k : State → α → Chk β) :
    x.andThen k = k s a := by
  rw [h]
  rfl

/-- What a DRAIN does once its bank, of kind k, has settled to r (R118, R119, R272). -/
def State.drainEnd (s : State) (e : Nat) (c : Command) (b : Nat) (k : Bank) (r : Settled) : Chk Nat :=
  let ends (u : State) : Chk Nat := (u.writeRows c b e k.n 0 k.m).andThen (fun u _ =>
    .ok (if (c.w 1).testBit 5 then u.clearBank e b else u) 0)
  match r with
  | .ok _ => ends s
  | .rebuilt _ i j old new =>
    ends ((s.mxeFlags e 128).postEvq 3 (s.evqOf c.handle) (launchOfHandle c.handle)
      [eventWord0 0x0021 c.handle, c.descAddr, BitVec.ofNat 64 (i + 65536 * j), BitVec.ofNat 64 (old + 2 ^ 32 * new)])
  | .mismatch _ => .ok (s.postFault (c.mismatchRecord e)) Cause.hallmarkMismatch

theorem matrixCommandEffects : MatrixCommandEffects := by
  intro s c rest e m bank ofCap implied hqueue hwaiting hsite hposter
  have hhead : s.MxeHead c rest := ⟨hqueue, hwaiting, hsite, hposter⟩
  refine ⟨fun i op hi hop => ?refused, fun hpass hstatus => ?runs, s.clearBank_spec e (Nat.mod_lt _ two_pos)⟩
  case refused =>
    intro right
    obtain ⟨⟨h1, h4⟩, run, hexec⟩ := exec_mxeCommand hi s
    have hof : ofCap ↔ (s.mxe e).owner = some (field (c.w 0) 22 11) ∧ (s.mxe e).nonce.toNat = field (c.w 0) 63 48 := by
      rw [(capFields _).1, (capFields _).2]
    have hright : right ↔ (field (c.w 0) 26 23 &&& (s.mxe e).rights).testBit (c.w 1 % 16 - 1) = true := by
      rw [hop, Nat.testBit_land, testBit_capRights _ h1 h4, Bool.and_eq_true]
    rw [hexec]
    refine ⟨State.mxeCommand_of_status hhead hop, fun hstatus hrun => ?_, fun st hdone => ?_⟩
    · have hrefused {st : Nat} (h : s.mxeRefuses e c = some st) : s.mxeCommand op run = goes (s.mxeDone e c st) :=
        State.mxeCommand_of_refused hhead hop hstatus hrun h
      refine ⟨fun hcap => hrefused (State.mxeRefuses_of_stale (mt hof.2 hcap)), fun hcap hno => hrefused ?_,
        fun hcap hyes h2 hcell himplied => hrefused ?_, fun hcap hyes h1 hspan => hrefused ?_⟩
      · rw [State.mxeRefuses_of_cap (hof.1 hcap), if_pos (by rw [Bool.eq_false_of_not_eq_true (mt hright.2 hno)]; rfl)]
      · rw [State.mxeRefuses_of_cap (hof.1 hcap), hright.1 hyes, if_neg (by decide), if_pos ⟨hop.trans h2, hcell, himplied⟩]
      · rw [State.mxeRefuses_of_cap (hof.1 hcap), hright.1 hyes, if_neg (by decide), if_neg (by omega), if_pos ⟨hop.trans h1, hspan⟩]
    · obtain ⟨hmem, hrest⟩ := s.mxeDone_frame hdone e st
      exact ⟨hmem, hrest.trans (by rw [hqueue]; rfl)⟩
  case runs =>
    intro v
    have hruns (i : Instr) {op : Nat} {run : State → Nat → Command → Chk Nat} (hexec : exec i s = s.mxeCommand op run)
        (hop : c.w 1 % 16 = op) {t : State} {st : Nat} (h : run v e c = .ok t st) : exec i s = goes (t.mxeDone e c st) :=
      hexec.trans (State.mxeCommand_of_run hhead hop hstatus hpass h)
    have hbank : (v.mxe e).bank bank = m.bank bank := by rw [State.mxe_onMxe]; rfl
    refine ⟨fun hop => hruns .clear (execClear.eq_1 s) hop rfl,
      fun hop hm => hruns .drain (execDrain.eq_1 s) hop (if_pos (hbank.symm ▸ hm)), fun v1 s1 hop hm hcheck => ?drain,
      fun s1 hop hdefault htiles => hruns .loadw (execLoadw.eq_1 s) hop ?default,
      fun s1 s2 bs hop hset htiles hread => ⟨fun hok => hruns .loadw (execLoadw.eq_1 s) hop ?set,
        fun hbad => hruns .loadw (execLoadw.eq_1 s) hop ?kept⟩,
      fun s1 s2 s3 s4 s5 ra rb rows cols hop h1 h2 => ?mm⟩
    case default =>
      simp only [htiles, Chk.andThen, if_pos hdefault, State.loadCodebook_of_ok codebookOk_defaultSet]
      rw [defaultSet]
    case set =>
      simp only [htiles, hread, Chk.andThen, if_neg hset, State.loadCodebook_of_ok ((codebookOk_iff bs).2 hok)]
    case kept =>
      simp only [htiles, hread, Chk.andThen, if_neg hset, State.loadCodebook_of_not_ok (mt (codebookOk_iff bs).1 hbad)]
    case mm =>
      intro fa fb a b h3 h4 h5
      refine hruns .mm (execMm.eq_1 s) hop ?_
      dsimp only [fa, fb, a, b, bank] at h3 h4 h5
      simp only [h1, h2, h3, h4, h5, Chk.andThen]
      rfl
    case drain =>
      intro marked ends
      have hdrain {r : Settled} {t : State} {st : Nat} (hsettle : v1.settleBank e bank (wordN c.descB 4 % 32) = (s1, r))
          (h : (marked r.unchecked).drainEnd e c bank (m.bank bank) r = .ok t st) : exec .drain s = goes (t.mxeDone e c st) := by
        refine hruns .drain (execDrain.eq_1 s) hop ?_
        rw [← hbank] at hm h
        dsimp only [bank] at hm hcheck hsettle
        simp only [if_neg hm, hcheck, hsettle, Chk.andThen]
        rcases r with un | ⟨un, i, j, old, new⟩ | un <;> cases un <;> exact h
      exact ⟨fun un hsettle s2 hrows => hdrain hsettle (Chk.andThen_of_ok hrows _),
        fun un i j old new hsettle s2 hrows => hdrain hsettle (Chk.andThen_of_ok hrows _),
        fun un hsettle => ⟨c.mismatchRecord e, hdrain hsettle rfl, rfl, rfl, rfl⟩⟩

end Sys2Proof.Machine
end

section
/-!
PROOFS of O39, the tile operation. Cells of a bank are read and written as independent variables
(`State.cell_putCell`); the two loops over rows and columns then change each cell once (`foldl_zipIdx_spec`).
-/

namespace Sys2Proof.Machine

open Claims

/-! ### Loops over a list with its positions -/

/-- A loop over a list with its positions that at position n changes only what is observed there, to `new n` of it,
has made that change once for every element. -/
theorem foldl_zipIdx_spec {σ α β : Type} {step : σ → β × Nat → σ} {I : σ → Prop} {obs : σ → Nat → α}
    {new : Nat → α → β → α} {bound : Nat}
    (hstep : ∀ r b n, I r → n < bound → I (step r (b, n)) ∧
      ∀ j, j < bound → obs (step r (b, n)) j = if j = n then new n (obs r n) b else obs r j)
    (xs : List β) (hlen : xs.length ≤ bound) {r : σ} (hr : I r) :
    I (xs.zipIdx.foldl step r) ∧
      ∀ j, j < bound → obs (xs.zipIdx.foldl step r) j = (xs[j]?).elim (obs r j) (new j (obs r j)) := by
  induction xs using List.reverseRecOn with
  | nil => exact ⟨hr, fun j _ => rfl⟩
  | append_singleton xs x ih =>
    rw [List.length_append, List.length_singleton] at hlen
    obtain ⟨hI, hobs⟩ := ih (by omega)
    obtain ⟨hI', hobs'⟩ := hstep _ x xs.length hI (by omega)
    rw [List.zipIdx_append, List.foldl_append]
    simp only [List.zipIdx_cons, List.zipIdx_nil, List.foldl_cons, List.foldl_nil, Nat.zero_add]
    refine ⟨hI', fun j hj => ?_⟩
    rw [hobs' j hj]
    rcases lt_trichotomy j xs.length with h | rfl | h
    · rw [if_neg h.ne, hobs j hj, List.getElem?_append_left h]
    · rw [if_pos rfl, hobs _ hj, List.getElem?_concat_length, List.getElem?_eq_none le_rfl]
      rfl
    · rw [if_neg h.ne', hobs j hj, List.getElem?_eq_none h.le, List.getElem?_eq_none (by simpa using h)]

/-! ### Cells (R102, R359) -/

theorem valueLE_bytesLE (n x : Nat) : valueLE (bytesLE n x) = x % 256 ^ n := by
  induction n generalizing x with
  | zero => simp [bytesLE, valueLE, Nat.mod_one]
  | succ n ih =>
    have htail : bytesLE (n + 1) x = BitVec.ofNat 8 x :: bytesLE n (x / 256) := by
      simp only [bytesLE, List.range_succ_eq_map, List.map_cons, List.map_map]
      refine congrArg₂ _ rfl (List.map_congr_left fun i _ => ?_)
      simp only [Function.comp, Nat.shiftRight_eq_div_pow, Nat.mul_succ, Nat.add_comm _ 8, Nat.pow_add, ← Nat.div_div_eq_div_mul]
    rw [htail, valueLE, ih, pow_succ', Nat.mod_mul, BitVec.toNat_ofNat]

theorem bitsOf_lt (n : Nat) (x : Int) : bitsOf n x < 2 ^ n := by
  have h := Int.emod_lt_of_pos x (show (0 : Int) < 2 ^ n by positivity)
  have h0 := Int.emod_nonneg x (show (2 : Int) ^ n ≠ 0 by positivity)
  unfold bitsOf
  zify
  omega

theorem State.cell_of_noShadow {s : State} (h : s.NoShadow) (e bank i j : Nat) :
    s.cell e bank i j = valueLE ((List.range 4).map fun k => memGet s.mem.bytes (cellAddr e bank i j + k)) := by
  simp only [State.cell, State.bytesAt, State.byteAt, h _]

/-- Two cells of a bank are the same, or have no byte in common. -/
theorem cellAddr_apart {e bank i j i' j' : Nat} (hj : j < bankCols e) (hj' : j' < bankCols e) (hne : ¬ (i' = i ∧ j' = j)) :
    cellAddr e bank i j + 4 ≤ cellAddr e bank i' j' ∨ cellAddr e bank i' j' + 4 ≤ cellAddr e bank i j := by
  have hindex : bankCols e * i + j ≠ bankCols e * i' + j' := by
    intro h
    have hrow := congrArg (· / bankCols e) h
    simp only [Nat.mul_add_div (show 0 < bankCols e by omega), Nat.div_eq_of_lt hj, Nat.div_eq_of_lt hj'] at hrow
    obtain rfl : i = i' := hrow
    exact hne ⟨rfl, by omega⟩
  unfold cellAddr
  omega

/-- The states in which a tile operation reads and writes cells. -/
structure State.Cells (s : State) : Prop where
  wf : s.memWf
  noShadow : s.NoShadow

section
variable {s : State} (h : s.Cells)
include h

theorem State.putCell_cells (e bank i j v : Nat) : (s.putCell e bank i j v).Cells :=
  ⟨s.putBytes_memWf _ _ h.wf, h.noShadow.of_dev (State.putBytes_frame _ _ _).1⟩

theorem State.memGet_putCell (e bank i j v a : Nat) : memGet (s.putCell e bank i j v).mem.bytes a =
    if a < cellAddr e bank i j ∨ cellAddr e bank i j + 4 ≤ a then memGet s.mem.bytes a
    else BitVec.ofNat 8 (v >>> (8 * (a - cellAddr e bank i j))) := by
  rw [State.putCell, memGet_putBytes _ _ _ _ h.wf, bytesLE_getElem?]
  split
  next hlow => rw [if_pos (.inl hlow)]
  next hlow =>
    split
    next hin => rw [if_neg (by omega)]; rfl
    next hout => rw [if_pos (by omega)]; rfl

/-- A cell after a cell of the same bank was written. -/
theorem State.cell_putCell {e bank i j i' j' : Nat} (hj : j < bankCols e) (hj' : j' < bankCols e) (v : Nat) :
    (s.putCell e bank i j v).cell e bank i' j' = if i' = i ∧ j' = j then v % 2 ^ 32 else s.cell e bank i' j' := by
  rw [State.cell_of_noShadow (State.putCell_cells h e bank i j v).noShadow]
  split
  next hsame =>
    obtain ⟨rfl, rfl⟩ := hsame
    rw [← show 256 ^ 4 = 2 ^ 32 by norm_num, ← valueLE_bytesLE, bytesLE]
    refine congrArg _ (List.map_congr_left fun k hk => ?_)
    have hk := List.mem_range.1 hk
    rw [State.memGet_putCell h, if_neg (by omega), Nat.add_sub_cancel_left]
  next hne =>
    rw [State.cell_of_noShadow h.noShadow]
    refine congrArg _ (List.map_congr_left fun k hk => ?_)
    have hk := List.mem_range.1 hk
    have hapart := cellAddr_apart (bank := bank) hj hj' hne
    rw [State.memGet_putCell h, if_pos (by omega)]

end

/-! ### The loops of a tile operation (R101, R102) -/

/-- The contributions of the K-blocks of row a of A and column b of B, on MXE e (R101). -/
def TileOp.contributions (o : TileOp) (e : Nat) (a b : List MElem) : List FVal :=
  ((runsOf (kLen (mxeFine e) o.fa o.fb) a).zip (runsOf (kLen (mxeFine e) o.fa o.fb) b)).map
    (fun p => contribution (!mxeFine e && o.fa == 0) (!mxeFine e && o.fb == 0) p.1 p.2)

/-- What a cell that holds `old` becomes under row a of A and column b of B. -/
def TileOp.newCell (o : TileOp) (e old : Nat) (a b : List MElem) : Nat :=
  if o.ints then bitsOf 32 (old + ((o.contributions e a b).map FVal.toInteger).sum)
  else (accumCell old (o.contributions e a b)).bits

/-- One turn of a tile operation's inner loop: cell (i, j), with the flags so far. -/
def TileOp.turn (o : TileOp) (e bank i : Nat) (a : List MElem) (r : State × Nat) (b : List MElem × Nat) : State × Nat :=
  let old := r.1.cell e bank i b.2
  let cs := o.contributions e a b.1
  if o.ints then (r.1.putCell e bank i b.2 (bitsOf 32 (old + (cs.map FVal.toInteger).sum)), r.2)
  else (r.1.putCell e bank i b.2 (accumCell old cs).bits, r.2 ||| (accumCell old cs).flags)

theorem TileOp.turn_fst (o : TileOp) (e bank i : Nat) (a : List MElem) (r : State × Nat) (b : List MElem × Nat) :
    (o.turn e bank i a r b).1 = r.1.putCell e bank i b.2 (o.newCell e (r.1.cell e bank i b.2) a b.1) := by
  unfold TileOp.turn TileOp.newCell
  dsimp only
  split <;> rfl

/-- A row of the loop. -/
def TileOp.row (o : TileOp) (e bank : Nat) (r : State × Nat) (a : List MElem × Nat) : State × Nat :=
  o.cols.zipIdx.foldl (o.turn e bank a.2 a.1) r

/-- The bytes outside a bank are as they were in s, and cells may be written. -/
structure State.Accumulating (s : State) (e bank : Nat) (t : State) : Prop where
  cells : t.Cells
  outside : ∀ a, a < mxeBase e + 3145728 + 32768 * bank ∨ mxeBase e + 3145728 + 32768 * bank + bankBytes e ≤ a →
    memGet t.mem.bytes a = memGet s.mem.bytes a

theorem State.Accumulating.putCell {s t : State} {e bank i j : Nat} (h : s.Accumulating e bank t) (hi : i < bankRows e)
    (hj : j < bankCols e) (v : Nat) : s.Accumulating e bank (t.putCell e bank i j v) := by
  refine ⟨State.putCell_cells h.cells e bank i j v, fun a ha => ?_⟩
  have hbank : 4 * (bankCols e * i + j) + 4 ≤ bankBytes e := by
    cases hfine : mxeFine e <;> simp [bankRows, bankCols, bankBytes, hfine] at hi hj ⊢ <;> omega
  rw [State.memGet_putCell h.cells, if_pos (by unfold cellAddr; omega)]
  exact h.outside a ha

section
variable {s : State} {e bank : Nat} {o : TileOp} (hcols : o.cols.length ≤ bankCols e)
include hcols

/-- A row of the loop changes the cells of its row, each by its column. -/
theorem TileOp.row_spec {r : State × Nat} (h : s.Accumulating e bank r.1) (a : List MElem) {i : Nat} (hi : i < bankRows e) :
    s.Accumulating e bank (o.row e bank r (a, i)).1 ∧ ∀ j, j < bankCols e → ∀ i', (o.row e bank r (a, i)).1.cell e bank i' j =
      if i' = i then (o.cols[j]?).elim (r.1.cell e bank i j) (fun b => o.newCell e (r.1.cell e bank i j) a b % 2 ^ 32)
      else r.1.cell e bank i' j := by
  have hloop := foldl_zipIdx_spec (step := o.turn e bank i a) (I := fun r => s.Accumulating e bank r.1)
    (obs := fun r j i' => r.1.cell e bank i' j)
    (new := fun j f b => Function.update f i (o.newCell e (f i) a b % 2 ^ 32)) (bound := bankCols e)
    (fun r b n hr hn => ?_) o.cols hcols h
  · refine ⟨hloop.1, fun j hj i' => (congrFun (hloop.2 j hj) i').trans ?_⟩
    cases o.cols[j]? with
    | none =>
      split
      next h => rw [h]; rfl
      next => rfl
    | some b => simp [Function.update_apply]
  · rw [TileOp.turn_fst]
    refine ⟨hr.putCell hi hn _, fun j hj => funext fun i' => ?_⟩
    rw [State.cell_putCell hr.cells hn hj]
    by_cases hjn : j = n
    · subst hjn
      simp [Function.update_apply]
    · simp [hjn]

/-- All rows of the loop: each cell has taken its row and its column. -/
theorem TileOp.rows_spec (hrows : o.rows.length ≤ bankRows e) (h : s.Cells) :
    let r := o.rows.zipIdx.foldl (o.row e bank) (s, 0)
    s.Accumulating e bank r.1 ∧ ∀ i j a b, o.rows[i]? = some a → o.cols[j]? = some b →
      r.1.cell e bank i j = o.newCell e (s.cell e bank i j) a b % 2 ^ 32 := by
  intro r
  have hloop := foldl_zipIdx_spec (step := o.row e bank) (I := fun r => s.Accumulating e bank r.1)
    (obs := fun r i (j : Fin (bankCols e)) => r.1.cell e bank i j)
    (new := fun _ f a j => (o.cols[j]?).elim (f j) (fun b => o.newCell e (f j) a b % 2 ^ 32)) (bound := bankRows e)
    (fun r a n hr hn => ?_) o.rows hrows (r := (s, 0)) ⟨h, fun _ _ => rfl⟩
  · refine ⟨hloop.1, fun i j a b ha hb => ?_⟩
    have hi := (List.getElem?_eq_some_iff.1 ha).1
    have hj := (List.getElem?_eq_some_iff.1 hb).1
    have hcell := congrFun (hloop.2 i (by omega)) ⟨j, by omega⟩
    simpa [ha, hb] using hcell
  · obtain ⟨hI, hcell⟩ := TileOp.row_spec hcols hr a hn
    refine ⟨hI, fun i _ => funext fun j => ?_⟩
    exact (hcell j j.isLt i).trans (by split <;> rfl)

end

theorem tileOperation : TileOperation := by
  intro s e bank o hbank he hwf hshadow hrows hcols t l wide
  obtain ⟨hI, hcell⟩ := TileOp.rows_spec (bank := bank) hcols hrows ⟨hwf, hshadow⟩
  have ht : (t.mxe e).bank bank = _ := (congrArg (Mxe.bank · bank) (State.mxe_onMxe _ e _)).trans (Mxe.bank_setBank _ _ _)
  refine ⟨fun i j a b ha hb => (hcell i j a b ha hb).trans ?_, by rw [ht], by rw [ht], by rw [ht], hI.outside⟩
  dsimp only [TileOp.newCell]
  split
  · exact Nat.mod_eq_of_lt (bitsOf_lt 32 _)
  · rfl

/-- Settles O39: the head of the queue is ended, refused or run, and the loops of a tile operation change each cell once. -/
theorem matrixCommandResults : Obligations.MatrixCommandResults := ⟨matrixCommandEffects, tileOperation⟩

end Sys2Proof.Machine
end

section
/-!
SUPPORT. The vector unit: elements as fields of a register, what packing elements gives, and the entry that an instruction
puts into its core's queue. `State.vEach`, which most vector instructions run, writes elements as the statements say
(`writesElems_of_vEach`, `writesInts_of_vEach`).
-/

namespace Sys2Proof.Machine

open Claims

/-! ### Packed elements (R219) -/

theorem packElems_lt (w : Nat) (xs : List Nat) : packElems w xs < 2 ^ (w * xs.length) := by
  induction xs with
  | nil => simp [packElems]
  | cons x xs ih =>
    have hx := Nat.mod_lt x (Nat.two_pow_pos w)
    rw [packElems, List.length_cons, Nat.mul_succ, Nat.add_comm (w * _), Nat.pow_add]
    calc x % 2 ^ w + 2 ^ w * packElems w xs < 2 ^ w * (packElems w xs + 1) := by rw [Nat.mul_succ]; omega
      _ ≤ 2 ^ w * 2 ^ (w * xs.length) := Nat.mul_le_mul_left _ ih

theorem packElems_lt_of_le {w : Nat} {xs : List Nat} {n : Nat} (h : w * xs.length ≤ n) : packElems w xs < 2 ^ n :=
  (packElems_lt w xs).trans_le (Nat.pow_le_pow_right two_pos h)

theorem elemOf_packElems (w : Nat) (xs : List Nat) (e : Nat) : elemOf w e (packElems w xs) = xs.getD e 0 % 2 ^ w := by
  induction xs generalizing e with
  | nil => simp [packElems, elemOf]
  | cons x xs ih =>
    have hx := Nat.mod_lt x (Nat.two_pow_pos w)
    cases e with
    | zero => simp [packElems, elemOf, Nat.add_mul_mod_self_left]
    | succ e =>
      rw [List.getD_cons_succ, ← ih e, elemOf, elemOf, Nat.mul_succ, Nat.add_comm (w * e), Nat.shiftRight_add, packElems]
      congr 2
      rw [Nat.shiftRight_eq_div_pow, Nat.add_mul_div_left _ _ (Nat.two_pow_pos w), Nat.div_eq_of_lt hx, Nat.zero_add]

theorem toNat_ofNat_of_lt {n x : Nat} (h : x < 2 ^ n) : (BitVec.ofNat n x).toNat = x := by
  rw [BitVec.toNat_ofNat, Nat.mod_eq_of_lt h]

/-- A field of a register that was packed from no more elements than it has. -/
theorem extractLsb'_vpack {w : Nat} {xs : List Nat} (h : w * xs.length ≤ 512) (e : Nat) :
    (vpack w xs).extractLsb' (w * e) w = BitVec.ofNat w (xs.getD e 0) := by
  apply BitVec.eq_of_toNat_eq
  rw [BitVec.extractLsb'_toNat, vpack, toNat_ofNat_of_lt (packElems_lt_of_le (n := 512) h), BitVec.toNat_ofNat]
  exact elemOf_packElems w xs e

/-! ### Types (R219) -/

theorem vBits_eq (t : VType) : vBits t = width t := by cases t <;> rfl

theorem vFloat_eq (t : VType) : vFloat t = floatOf t := by cases t <;> rfl

theorem width_of_float {t : VType} {f : Fmt} (h : floatOf t = some f) : width t = f.width := by
  cases t <;> cases h <;> rfl

/-! ### Elements of the acting context -/

theorem State.vel_eq (s : State) (w : Nat) (r : BitVec 4) (e : Nat) : s.vel w r e = (velem s w r e).toNat := rfl

theorem State.vAct_eq (s : State) (k : BitVec 2) (w e : Nat) : s.vAct k w e = active s k w e := rfl

theorem signedOf_toNat {w : Nat} (x : BitVec w) : signedOf w x.toNat = x.toInt := by
  unfold signedOf
  rw [BitVec.toInt_eq_toNat_cond, Nat.mod_eq_of_lt x.isLt]
  cases w with
  | zero => simp [BitVec.of_length_zero]
  | succ w =>
    rw [Nat.add_sub_cancel, Nat.pow_succ]
    simp only [show x.toNat < 2 ^ w ↔ 2 * x.toNat < 2 ^ w * 2 by omega]
    push_cast
    rfl

theorem bitsOf_eq (w : Nat) (x : Int) : bitsOf w x = (BitVec.ofInt w x).toNat := by
  rw [BitVec.toNat_ofInt, bitsOf]
  norm_cast

theorem ofNat_bitsOf (w : Nat) (x : Int) : BitVec.ofNat w (bitsOf w x) = BitVec.ofInt w x := by
  rw [bitsOf_eq, BitVec.ofNat_toNat, BitVec.setWidth_eq]

theorem clampInt_eq {lo hi : Int} (h : lo ≤ hi) (x : Int) : clampInt lo hi x = max lo (min hi x) := by
  unfold clampInt
  omega

/-! ### Entries of the vector queue (R222, R223, R401) -/

/-- An entry joins its core's queue, and nothing else changes but the queue's share tag. -/
theorem State.vuPush_eq (s : State) (n : Nat) (x : VuEntry) :
    s.vuPush n x = s.onCore n (fun k => { k with vuq := k.vuq ++ [x], vtag := ((s.vuPush n x).core n).vtag }) := by
  unfold State.vuPush
  simp only [State.core_onCore]
  rfl

theorem Context.enables_eq (c : Context) : c.enables = c.arch.fcsr.toNat / 2 ^ 9 % 32 := by
  rw [Context.enables, field, Nat.shiftRight_eq_div_pow]
  rfl

theorem State.vecDone_queues (s : State) (ws : List RegWrite) (fl : List (Nat × Nat)) :
    QueuesVector s (s.vecDone ws fl) ws (allFlags fl) (laneMap s.me.enables fl) := by
  unfold QueuesVector
  simp only [← Context.enables_eq]
  exact s.vuPush_eq _ _

theorem testBit_allFlags (fl : List (Nat × Nat)) (j : Nat) :
    (allFlags fl).testBit j = true ↔ ∃ x ∈ fl, x.2.testBit j = true := by
  induction fl using List.reverseRecOn with
  | nil => simp [allFlags]
  | append_singleton fl x ih =>
    rw [allFlags, List.foldl_append, List.foldl_cons, List.foldl_nil, Nat.testBit_lor, Bool.or_eq_true, ← allFlags, ih]
    simp [or_and_right, exists_or]

theorem testBit_laneMap (en : Nat) (fl : List (Nat × Nat)) (l : Nat) :
    (laneMap en fl).testBit l = true ↔ l < 16 ∧ ∃ x ∈ fl, x.1 = l ∧ x.2 &&& en ≠ 0 := by
  rw [laneMap, (testBit_sum_two_pow _ 16 l).1]
  simp

/-! ### Writes by elements (R220) -/

section
variable {s : State} {i : Instr} {w : Nat} {vd : BitVec 4} {k : BitVec 2}

/-- An instruction that runs `State.vEach` writes its elements. -/
theorem writesElems_of_vEach {f : Nat → FRes} (hexec : exec i s = s.vEach w vd k f) : WritesElems s i w vd k f := by
  refine ⟨_, _, _, _, hexec, s.vecDone_queues _ _, fun e he => ?_, fun j => ?_, fun l => ?_⟩
  · rw [extractLsb'_vpack (by simpa using Nat.mul_div_le 512 w)]
    cases hact : active s k w e <;> simp [he, hact, State.vAct_eq, State.vel_eq]
  · rw [testBit_allFlags]
    simp only [List.map_map, List.mem_map, List.mem_range, exists_exists_and_eq_and, Function.comp, State.vAct_eq]
    refine exists_congr fun e => and_congr_right fun _ => ?_
    by_cases hact : active s k w e = true <;> simp [hact]
  · rw [testBit_laneMap, Context.enables_eq]
    simp only [List.map_map, List.mem_map, List.mem_range, exists_exists_and_eq_and, Function.comp, State.vAct_eq]
    rw [← exists_and_left]
    refine exists_congr fun e => ?_
    have hlane (he : e < 512 / w) : w * e / 32 < 16 := by
      have hmul : w * (e + 1) ≤ 512 := (Nat.mul_le_mul_left w he).trans (Nat.mul_div_le 512 w)
      rw [Nat.mul_succ] at hmul
      rcases Nat.eq_zero_or_pos w with rfl | hw <;> omega
    by_cases hact : active s k w e = true
    · simp only [hact, if_true, true_and]
      exact ⟨fun ⟨_, he, hl, hf⟩ => ⟨he, hl, hf⟩, fun ⟨he, hl, hf⟩ => ⟨hl ▸ hlane he, he, hl, hf⟩⟩
    · simp [hact]

theorem writesElems_congr {f g : Nat → FRes}
    (h : WritesElems s i w vd k f) (hfg : ∀ e, f e = g e) : WritesElems s i w vd k g :=
  funext hfg ▸ h

/-- An instruction whose elements raise nothing writes them as integers. -/
theorem writesInts_of_writesElems {f : Nat → FRes} {val : Nat → BitVec w} (h : WritesElems s i w vd k f)
    (hval : ∀ e, e < 512 / w → BitVec.ofNat w (f e).bits = val e) (hflags : ∀ e, (f e).flags = 0) :
    WritesInts s i w vd k val := by
  obtain ⟨t, x, raised, lanes, hexec, hqueue, hx, hraised, hlanes⟩ := h
  obtain rfl : raised = 0 := Nat.eq_of_testBit_eq fun j => by
    rw [Nat.zero_testBit, ← Bool.not_eq_true, hraised]
    simp [hflags]
  obtain rfl : lanes = 0 := Nat.eq_of_testBit_eq fun l => by
    rw [Nat.zero_testBit, ← Bool.not_eq_true, hlanes]
    simp [hflags]
  exact ⟨t, x, hexec, hqueue, fun e he => by rw [hx e he, hval e he]⟩

end

end Sys2Proof.Machine
end

section
/-!
PROOFS of O10: the float functions of valu, and vfma. Each runs `State.vEach` with the function that the statement names.
-/

namespace Sys2Proof.Machine

open Claims

/-! ### The float functions of valu (R227) -/

section
variable {s : State} (i : Instr) {ty : VType} {f : Fmt} {vd va vb : BitVec 4} {k : BitVec 2} (hf : floatOf ty = some f)
include hf

theorem writesElems_of_vArith {g : Nat → Nat → Nat → Nat} {op : Fmt → FEnv → FVal → FVal → FRes}
    (hexec : exec i s = s.vArith ty vd va vb k g op) :
    WritesElems s i f.width vd k (fun e => op f (s.fenv e) (felem s f va e) (felem s f vb e)) := by
  refine writesElems_of_vEach (hexec.trans ?_)
  rw [State.vArith, vFloat_eq, hf]
  rfl

theorem writesElems_of_vFlt {op : Fmt → FEnv → FVal → FRes} (hexec : exec i s = s.vFlt ty vd va k op) :
    WritesElems s i f.width vd k (fun e => op f (s.fenv e) (felem s f va e)) :=
  writesElems_of_vArith i hf hexec

theorem writesElems_of_vSign {g : Nat → Nat → Nat} {op : Fmt → Nat → Nat} (hexec : exec i s = s.vSign ty vd va k g op) :
    WritesElems s i f.width vd k (fun e => { bits := op f (velem s f.width va e).toNat }) := by
  refine writesElems_of_vEach (hexec.trans ?_)
  rw [State.vSign, vFloat_eq, hf, vBits_eq, width_of_float hf]
  rfl

end

theorem Fmt.width_sub_one (f : Fmt) : f.width - 1 = f.e + f.m := by
  unfold Fmt.width
  omega

/-- The sign bit inverted, as a bit vector (R142). -/
theorem Fmt.fneg_toNat (f : Fmt) (x : BitVec f.width) :
    f.fneg x.toNat = (x ^^^ BitVec.twoPow f.width (f.width - 1)).toNat := by
  have hlt : 2 ^ (f.e + f.m) < 2 ^ f.width := Nat.pow_lt_pow_right one_lt_two (by unfold Fmt.width; omega)
  rw [Fmt.fneg, BitVec.toNat_xor, BitVec.toNat_twoPow, Fmt.width_sub_one, Nat.mod_eq_of_lt hlt, Nat.mod_eq_of_lt x.isLt]

theorem vectorFloatValues : VectorFloatValues := by
  intro s ty f vd va vb k hf a b gives
  refine ⟨writesElems_of_vArith (.vadd ty vd va vb k) hf (execVadd.eq_1 ty vd va vb k s),
    writesElems_of_vArith (.vsub ty vd va vb k) hf (execVsub.eq_1 ty vd va vb k s),
    writesElems_of_vArith (.vmul ty vd va vb k) hf (execVmul.eq_1 ty vd va vb k s),
    writesElems_of_vArith (.vmin ty vd va vb k) hf (execVmin.eq_1 ty vd va vb k s),
    writesElems_of_vArith (.vmax ty vd va vb k) hf (execVmax.eq_1 ty vd va vb k s),
    writesElems_of_vArith (.vdiv ty vd va vb k) hf (execVdiv.eq_1 ty vd va vb k s),
    writesElems_of_vFlt (.vrcp ty vd va k) hf (execVrcp.eq_1 ty vd va k s),
    writesElems_of_vFlt (.vrsq ty vd va k) hf (execVrsq.eq_1 ty vd va k s),
    writesElems_of_vFlt (.vsqrt ty vd va k) hf (execVsqrt.eq_1 ty vd va k s),
    writesElems_of_vFlt (.vexp2 ty vd va k) hf (execVexp2.eq_1 ty vd va k s),
    writesElems_of_vFlt (.vlog2 ty vd va k) hf (execVlog2.eq_1 ty vd va k s),
    writesElems_of_vFlt (.vtanh ty vd va k) hf (execVtanh.eq_1 ty vd va k s),
    writesElems_congr (writesElems_of_vSign (.vabs ty vd va k) hf (execVabs.eq_1 ty vd va k s)) fun e => ?_,
    writesElems_congr (writesElems_of_vSign (.vneg ty vd va k) hf (execVneg.eq_1 ty vd va k s)) fun e => ?_⟩
  · rw [Fmt.fabs, Fmt.width_sub_one]
  · rw [Fmt.fneg_toNat]

/-! ### The multiply-adds of vfma (R228) -/

section
variable (s : State) {ty : VType} (vd va vb : BitVec 4) (k : BitVec 2)

/-- The multiply-adds of a float type: the sign is that of the product or of the addend. -/
theorem execVfma_of_float {f : Fmt} (hf : floatOf ty = some f) :
    execVfma .fma ty vd va vb k s = s.vEach f.width vd k (fun e =>
      f.ffma (s.fenv e) (felem s f va e) (felem s f vb e) (felem s f vd e)) ∧
    execVfma .fms ty vd va vb k s = s.vEach f.width vd k (fun e =>
      f.ffma (s.fenv e) (felem s f va e) (felem s f vb e) (felem s f vd e).neg) ∧
    execVfma .fnma ty vd va vb k s = s.vEach f.width vd k (fun e =>
      f.ffma (s.fenv e) (felem s f va e).neg (felem s f vb e) (felem s f vd e)) := by
  rw [execVfma, execVfma, execVfma, vFloat_eq, hf, vBits_eq, width_of_float hf]
  exact ⟨rfl, rfl, rfl⟩

/-- The multiply-adds of an integer type, as sums of integers. -/
theorem execVfma_of_int (hty : floatOf ty = none) :
    let w := width ty
    let p (e : Nat) : Int := (velem s w va e).toNat * (velem s w vb e).toNat
    let c (e : Nat) : Int := (velem s w vd e).toNat
    execVfma .fma ty vd va vb k s = s.vEach w vd k (fun e => { bits := bitsOf w (p e + c e) }) ∧
    execVfma .fms ty vd va vb k s = s.vEach w vd k (fun e => { bits := bitsOf w (p e + -c e) }) ∧
    execVfma .fnma ty vd va vb k s = s.vEach w vd k (fun e => { bits := bitsOf w (-p e + c e) }) := by
  rw [execVfma, execVfma, execVfma, vFloat_eq, hty, vBits_eq]
  exact ⟨rfl, rfl, rfl⟩

theorem vDot_of_float {f : Fmt} (hf : floatOf ty = some f) (h16 : f.width = 16) :
    s.vDot ty vd va vb k = s.vEach 32 vd k (fun l => dotFloat (s.fenv l) (felem s fp32 vd l)
      [(felem s f va (2 * l)).mul (felem s f vb (2 * l)), (felem s f va (2 * l + 1)).mul (felem s f vb (2 * l + 1))]) := by
  rw [State.vDot, vFloat_eq, hf, vBits_eq, width_of_float hf, h16]
  rfl

theorem vDot_of_int (hty : floatOf ty = none) :
    let w := width ty
    s.vDot ty vd va vb k = s.vEach 32 vd k (fun l => { bits := bitsOf 32 ((velem s 32 vd l).toInt + ((List.range (32 / w)).map
      (fun i => (velem s w va (32 / w * l + i)).toInt * (velem s w vb (32 / w * l + i)).toInt)).sum) }) := by
  rw [State.vDot, vFloat_eq, hty, vBits_eq]
  simp only [List.map_map, Function.comp_def, State.vel_eq, signedOf_toNat]

end

theorem vectorFmaResults : VectorFmaResults := by
  intro s ty vd va vb k
  refine ⟨fun f hf => ?floats, fun hty => ?ints⟩
  case floats =>
    obtain ⟨hfma, hfms, hfnma⟩ := execVfma_of_float s vd va vb k hf
    refine ⟨writesElems_of_vEach hfma, writesElems_of_vEach hfms, writesElems_of_vEach hfnma, fun h16 => ?_⟩
    refine writesElems_congr (writesElems_of_vEach (vDot_of_float s vd va vb k hf h16)) fun l => ?_
    simp [dotFloat, exactSum, sigFlags, Nat.or_assoc]
  case ints =>
    intro w a b d
    obtain ⟨hfma, hfms, hfnma⟩ := execVfma_of_int s vd va vb k hty
    refine ⟨writesInts_of_writesElems (writesElems_of_vEach hfma) (fun e _ => ?fma) fun _ => rfl,
      writesInts_of_writesElems (writesElems_of_vEach hfms) (fun e _ => ?fms) fun _ => rfl,
      writesInts_of_writesElems (writesElems_of_vEach hfnma) (fun e _ => ?fnma) fun _ => rfl, fun _ =>
      writesInts_of_writesElems (writesElems_of_vEach (vDot_of_int s vd va vb k hty)) (fun l _ => ?dot) fun _ => rfl⟩
    case fma => simp [ofNat_bitsOf, BitVec.ofInt_add, BitVec.ofInt_mul, a, b, d, w]
    case fms => simp [ofNat_bitsOf, BitVec.ofInt_add, BitVec.ofInt_mul, BitVec.ofInt_neg, BitVec.sub_eq_add_neg, a, b, d, w]
    case fnma =>
      simp [ofNat_bitsOf, BitVec.ofInt_add, BitVec.ofInt_mul, BitVec.ofInt_neg, BitVec.sub_eq_add_neg, BitVec.add_comm, a, b, d, w]
    case dot => rw [ofNat_bitsOf, BitVec.ofInt_add, BitVec.ofInt_toInt]

/-- Settles O10: each instruction runs `State.vEach` with the function of its clause. -/
theorem vectorFloatResults : Obligations.VectorFloatResults := ⟨vectorFloatValues, vectorFmaResults⟩

end Sys2Proof.Machine
end

section
/-!
PROOFS of O13: vcvt, vqnt and vdq. The register that vqnt writes is read bit by bit: below bit 384 stand the packed codes,
and above it the scale.
-/

namespace Sys2Proof.Machine

open Claims

/-! ### vcvt (R231) -/

section
variable (s : State) (dst src : VFmt) (vd va part : BitVec 4) (k : BitVec 2)

theorem execVcvt_of_widening (h : vfBits src ≤ vfBits dst) : execVcvt dst src vd va part k s =
    s.vEach (vfBits dst) vd k (fun e =>
      cvtVec (s.fenv e) dst src (s.vel (vfBits src) va (e + part.toNat * (512 / vfBits dst)))) :=
  if_pos h

theorem execVcvt_of_narrowing (h : vfBits dst < vfBits src) : execVcvt dst src vd va part k s =
    s.vEach (vfBits dst) vd k (fun e =>
      if part.toNat * (512 / vfBits src) ≤ e ∧ e < (part.toNat + 1) * (512 / vfBits src) then
        cvtVec (s.fenv e) dst src (s.vel (vfBits src) va (e - part.toNat * (512 / vfBits src)))
      else { bits := s.vel (vfBits dst) vd e }) :=
  if_neg (not_le.2 h)

end

theorem vectorConversionValues : VectorConversionValues := by
  intro s dst src vd va part k wt wf p env int flo cvt
  have hcvt (e j : Nat) : cvtVec (s.fenv e) dst src (s.vel wf va j) = cvt e j := by
    have hbounds : (-(2 ^ (wt - 1)) : Int) ≤ 2 ^ (wt - 1) - 1 := by
      have hpos : (0 : Int) < 2 ^ (wt - 1) := by positivity
      omega
    dsimp only [wt] at hbounds
    dsimp only [cvt, cvtVec]
    cases vfFloat src with
    | some f =>
      cases vfFloat dst with
      | some g => rfl
      | none => simp only [bitsOf_eq]; rfl
    | none =>
      cases vfFloat dst with
      | some g => simp only [Fmt.ofInt, State.vel_eq, signedOf_toNat]; rfl
      | none => simp only [bitsOf_eq, State.vel_eq, signedOf_toNat, clampInt_eq hbounds]; rfl
  refine ⟨fun h _ => ?_, fun h _ => ?_⟩
  · exact writesElems_congr (writesElems_of_vEach (execVcvt_of_widening s dst src vd va part k h)) fun e => hcvt e _
  · refine writesElems_congr (writesElems_of_vEach (execVcvt_of_narrowing s dst src vd va part k h)) fun e => ?_
    exact congrArg (ite _ · _) (hcvt e _)

/-! ### vdq (R233) -/

theorem toNat_extractLsb'_byte {n : Nat} (x : BitVec n) (i : Nat) : (x.extractLsb' i 8).toNat = x.toNat / 2 ^ i % 256 := by
  rw [BitVec.extractLsb'_toNat, Nat.shiftRight_eq_div_pow]

theorem execVdq_of_float (s : State) (fmt : BxFmt) {ty : VType} (part : Bool) (vd va : BitVec 4) (k : BitVec 2) {f : Fmt}
    (hf : floatOf ty = some f) : execVdq fmt ty part vd va k s = s.vEach f.width vd k (fun e =>
      f.convert (s.fenv e) (bxValue (bxCode fmt) ((s.me.rv va).toNat / 2 ^ 384 % 256)
        (elemOf (codeBits (bxCode fmt)) (if f.width = 32 then e + 16 * b2n part else e) (s.me.rv va).toNat))) := by
  rw [execVdq, vFloat_eq, hf]

/-! ### vqnt (R106, R232) -/

/-- A quantised block has a code for each of its elements, and a scale of one byte. -/
theorem bxQuantise_bounds (c : Nat) (env : Nat → FEnv) (xs : List FVal) :
    (bxQuantise c env xs).codes.length = xs.length ∧ (bxQuantise c env xs).scale < 256 := by
  unfold bxQuantise bxWith
  split
  · simp
  · refine ⟨by simp, ?_⟩
    dsimp only
    split
    · split
      · decide
      · unfold clampInt
        omega
    · decide

theorem testBit_add_mul_two_pow {n b : Nat} (h : b < 2 ^ n) (a i : Nat) :
    (b + a * 2 ^ n).testBit i = if i < n then b.testBit i else a.testBit (i - n) := by
  rw [Nat.add_comm, Nat.mul_comm, Nat.testBit_two_pow_mul_add _ h]

/-- The register of a quantised block: its codes from bit 0, its scale in byte 48. -/
def blockVec (w : Nat) (codes : List Nat) (scale : Nat) : Vec := BitVec.ofNat 512 (packElems w codes + scale * 2 ^ 384)

section
variable {w : Nat} {codes : List Nat} (hcodes : w * codes.length ≤ 384) {scale : Nat}
include hcodes

theorem getLsbD_blockVec (i : Nat) : (blockVec w codes scale).getLsbD i =
    (decide (i < 512) && if i < 384 then (packElems w codes).testBit i else scale.testBit (i - 384)) := by
  rw [blockVec, BitVec.getLsbD_ofNat, testBit_add_mul_two_pow (packElems_lt_of_le (n := 384) hcodes)]

/-- A code's place. -/
theorem extractLsb'_blockVec_code {e : Nat} (he : e < codes.length) :
    (blockVec w codes scale).extractLsb' (w * e) w = BitVec.ofNat w (codes.getD e 0) := by
  refine BitVec.eq_of_getLsbD_eq fun i hi => ?_
  have hplace : w * e + i < 384 := by
    have hmul := Nat.mul_le_mul_left w he
    rw [Nat.mul_succ] at hmul
    omega
  have hcode := congrArg (·.testBit i) (elemOf_packElems w codes e)
  simp only [elemOf, Nat.testBit_mod_two_pow, Nat.testBit_shiftRight, hi, decide_true, Bool.true_and] at hcode
  rw [BitVec.getLsbD_extractLsb', getLsbD_blockVec hcodes, if_pos hplace, BitVec.getLsbD_ofNat, hcode,
    decide_eq_true (show w * e + i < 512 by omega), Bool.true_and]

theorem extractLsb'_blockVec_scale : (blockVec w codes scale).extractLsb' 384 8 = BitVec.ofNat 8 scale := by
  refine BitVec.eq_of_getLsbD_eq fun i hi => ?_
  rw [BitVec.getLsbD_extractLsb', getLsbD_blockVec hcodes, if_neg (by omega), BitVec.getLsbD_ofNat, Nat.add_sub_cancel_left,
    decide_eq_true (show 384 + i < 512 by omega), Bool.true_and]

/-- Every bit of the register beside the codes and the scale is zero. -/
theorem getLsbD_blockVec_rest (hscale : scale < 256) {i : Nat} (hi : w * codes.length ≤ i) (hrest : i < 384 ∨ 392 ≤ i) :
    (blockVec w codes scale).getLsbD i = false := by
  rw [getLsbD_blockVec hcodes]
  split
  next hlow => rw [Nat.testBit_lt_two_pow (packElems_lt_of_le hi), Bool.and_false]
  next hhigh =>
    have hbit : scale < 2 ^ (i - 384) := hscale.trans_le (Nat.pow_le_pow_right (i := 8) two_pos (by omega))
    rw [Nat.testBit_lt_two_pow hbit, Bool.and_false]

end

theorem codeBits_bxCode (fmt : BxFmt) : codeBits (bxCode fmt) ≤ 8 := by cases fmt <;> decide

/-- The 32 elements that vqnt quantises (R232). -/
def vqntInput (s : State) (f : Fmt) (va vb : BitVec 4) : List FVal :=
  if f.width = 32 then (List.range 16).map (felem s f va) ++ (List.range 16).map (felem s f vb)
  else (List.range 32).map (felem s f va)

theorem length_vqntInput (s : State) (f : Fmt) (va vb : BitVec 4) : (vqntInput s f va vb).length = 32 := by
  unfold vqntInput
  split <;> simp

/-- The entry that vqnt puts into the queue. -/
def vqntEntry (s : State) (fmt : BxFmt) (f : Fmt) (vd va vb : BitVec 4) : VuEntry :=
  let q := bxQuantise (bxCode fmt) s.fenv (vqntInput s f va vb)
  { ctx := s.act.ctx, epoch := s.me.epoch, trap := none
    writes := [.v vd.toNat (blockVec (codeBits (bxCode fmt)) q.codes q.scale),
      .flags ((if q.nan then 2 ^ 16 else 0) + (if q.inf then 2 ^ 17 else 0))]
    inf := if q.inf = true ∧ s.me.arch.fcsr.getLsbD 18 = true then
      some { cause := Cause.qntInf, tval := 0, tval2 := 0, tidx := s.me.cur } else none }

theorem execVqnt_of_float (s : State) (fmt : BxFmt) {ty : VType} (vd va vb : BitVec 4) {f : Fmt} (hf : floatOf ty = some f) :
    execVqnt fmt ty vd va vb s = goes (s.vuPush s.act.core (vqntEntry s fmt f vd va vb)) := by
  rw [execVqnt, vFloat_eq, hf, vqntEntry]
  simp only [Bool.and_eq_true, b2n, ite_mul, one_mul, zero_mul]
  rfl

theorem vectorQuantResults : VectorQuantResults := by
  intro s fmt ty f part vd va vb k hf xs q w
  constructor
  · have hcount : q.codes.length = 32 := (bxQuantise_bounds _ _ _).1.trans (length_vqntInput s f va vb)
    have hsize : w * q.codes.length ≤ 384 := by
      have hw := codeBits_bxCode fmt
      rw [hcount]
      omega
    refine ⟨_, _, execVqnt_of_float s fmt vd va vb hf, fun e he => extractLsb'_blockVec_code hsize (by omega),
      extractLsb'_blockVec_scale hsize, fun i hi => ?_, s.vuPush_eq _ _⟩
    exact getLsbD_blockVec_rest hsize (bxQuantise_bounds _ _ _).2 (by rw [hcount]; omega)
  · refine writesElems_congr (writesElems_of_vEach (execVdq_of_float s fmt part vd va k hf)) fun e => ?_
    have hindex : (if f.width = 32 then e + 16 * b2n part else e) = if f.width = 32 ∧ part = true then e + 16 else e := by
      cases part <;> simp [b2n]
    rw [hindex, ← toNat_extractLsb'_byte]
    rfl

/-- Settles O13: vcvt and vdq run `State.vEach`, and vqnt writes a block's codes and its scale. -/
theorem vectorConversionResults : Obligations.VectorConversionResults := ⟨vectorConversionValues, vectorQuantResults⟩

end Sys2Proof.Machine
end

section
/-!
PROOFS of O1 to O4: integer instructions. Each is one of the register forms of Machine/Operands.lean with a function
of the operands, so that a clause asks only that this function gives the value of the table: a lemma about words, proved
once and used again by the form with an immediate.
-/

namespace Sys2Proof.Machine

open Claims

/-! ### Values (R125, R129..R133) -/

section
variable {w : Nat} (x y : BitVec w) (n : Nat)

theorem add_eq_ofNat : x + y = BitVec.ofNat w (x.toNat + y.toNat) := by
  rw [BitVec.ofNat_add, BitVec.ofNat_toNat, BitVec.ofNat_toNat, BitVec.setWidth_eq, BitVec.setWidth_eq]

theorem add_eq_ofInt : x + y = BitVec.ofInt w (x.toInt + y.toInt) := by
  rw [BitVec.ofInt_add, BitVec.ofInt_toInt, BitVec.ofInt_toInt]

theorem sub_eq_ofInt : x - y = BitVec.ofInt w (x.toInt - y.toInt) :=
  BitVec.eq_of_toInt_eq (by rw [BitVec.toInt_sub, BitVec.toInt_ofInt])

theorem mul_eq_ofInt : x * y = BitVec.ofInt w (x.toInt * y.toInt) := by
  rw [BitVec.ofInt_mul, BitVec.ofInt_toInt, BitVec.ofInt_toInt]

theorem shiftLeft_eq_ofNat : x <<< n = BitVec.ofNat w (x.toNat * 2 ^ n) :=
  BitVec.eq_of_toNat_eq (by rw [BitVec.toNat_shiftLeft, Nat.shiftLeft_eq, BitVec.toNat_ofNat])

theorem ushiftRight_eq_ofNat : x >>> n = BitVec.ofNat w (x.toNat / 2 ^ n) := by
  rw [← Nat.shiftRight_eq_div_pow, ← BitVec.toNat_ushiftRight, BitVec.ofNat_toNat, BitVec.setWidth_eq]

theorem sshiftRight_eq_ofInt : x.sshiftRight n = BitVec.ofInt w (x.toInt / 2 ^ n) := by
  rw [BitVec.sshiftRight_eq, Int.shiftRight_eq_div_pow]
  norm_cast

end

section
variable (x y : Word)

theorem rotateLeft_eq {n : Nat} (h : n < 64) : x.rotateLeft n = (x <<< n ||| x >>> (64 - n)) := by
  rw [BitVec.rotateLeft_def, Nat.mod_eq_of_lt h]

theorem rotateRight_eq {n : Nat} (h : n < 64) : x.rotateRight n = (x >>> n ||| x <<< (64 - n)) := by
  rw [BitVec.rotateRight_def, Nat.mod_eq_of_lt h]

theorem minSigned_eq : (if x.toInt < y.toInt then x else y) = BitVec.ofInt 64 (min x.toInt y.toInt) := by
  split
  next h => rw [min_eq_left h.le, BitVec.ofInt_toInt]
  next h => rw [min_eq_right (not_lt.1 h), BitVec.ofInt_toInt]

theorem maxSigned_eq : (if x.toInt < y.toInt then y else x) = BitVec.ofInt 64 (max x.toInt y.toInt) := by
  split
  next h => rw [max_eq_right h.le, BitVec.ofInt_toInt]
  next h => rw [max_eq_left (not_lt.1 h), BitVec.ofInt_toInt]

theorem minUnsigned_eq : (if x.toNat < y.toNat then x else y) = BitVec.ofNat 64 (min x.toNat y.toNat) := by
  split
  next h => rw [min_eq_left h.le, BitVec.ofNat_toNat, BitVec.setWidth_eq]
  next h => rw [min_eq_right (not_lt.1 h), BitVec.ofNat_toNat, BitVec.setWidth_eq]

theorem maxUnsigned_eq : (if x.toNat < y.toNat then y else x) = BitVec.ofNat 64 (max x.toNat y.toNat) := by
  split
  next h => rw [max_eq_right h.le, BitVec.ofNat_toNat, BitVec.setWidth_eq]
  next h => rw [max_eq_left (not_lt.1 h), BitVec.ofNat_toNat, BitVec.setWidth_eq]

end

/-! ### 32-bit values (R125) -/

theorem setWidth_ofNat_of_le {v w : Nat} (h : v ≤ w) (n : Nat) : (BitVec.ofNat w n).setWidth v = BitVec.ofNat v n :=
  BitVec.eq_of_toNat_eq (by
    rw [BitVec.toNat_setWidth, BitVec.toNat_ofNat, BitVec.toNat_ofNat, Nat.mod_mod_of_dvd _ (Nat.pow_dvd_pow 2 h)])

/-- Only the low 32 bits of an integer count, so that a word of its low bits may stand for it. -/
theorem sx_eq_sx32 (z : Int) : sx z = sx32 (BitVec.ofInt 64 z) := by
  have hlow : (BitVec.ofInt 64 z).setWidth 32 = BitVec.ofInt 32 z := by
    apply BitVec.eq_of_toNat_eq
    simp only [BitVec.toNat_setWidth, BitVec.toNat_ofInt]
    omega
  rw [sx32, hlow]
  rfl

theorem sx32_add (x y : Word) : sx32 (x + y) = sx (x.toInt + y.toInt) := by rw [sx_eq_sx32, ← add_eq_ofInt]
theorem sx32_sub (x y : Word) : sx32 (x - y) = sx (x.toInt - y.toInt) := by rw [sx_eq_sx32, ← sub_eq_ofInt]
theorem sx32_mul (x y : Word) : sx32 (x * y) = sx (x.toInt * y.toInt) := by rw [sx_eq_sx32, ← mul_eq_ofInt]

theorem signExtend_shiftLeft (x : Word) (n : Nat) : (x.setWidth 32 <<< n).signExtend 64 = sx (x.toNat * 2 ^ n : Nat) := by
  rw [sx_eq_sx32, sx32, BitVec.ofInt_natCast, setWidth_ofNat_of_le (by decide), BitVec.ofNat_mul, shiftLeft_eq_ofNat,
    BitVec.ofNat_mul, BitVec.ofNat_toNat, BitVec.ofNat_toNat, BitVec.setWidth_eq]

theorem signExtend_ushiftRight (x : Word) (n : Nat) :
    (x.setWidth 32 >>> n).signExtend 64 = sx (x.toNat % 2 ^ 32 / 2 ^ n : Nat) := by
  rw [sx_eq_sx32, sx32, BitVec.ofInt_natCast, setWidth_ofNat_of_le (by decide), ushiftRight_eq_ofNat, BitVec.toNat_setWidth]

/-- An arithmetic shift stays within the 32 signed bits. -/
theorem signExtend_sshiftRight (x : Word) (n : Nat) :
    ((x.setWidth 32).sshiftRight n).signExtend 64 = BitVec.ofInt 64 ((x.setWidth 32).toInt / 2 ^ n) := by
  rw [BitVec.signExtend, BitVec.toInt_sshiftRight, Int.shiftRight_eq_div_pow]
  norm_cast

/-! ### Counts and bytes (R125) -/

theorem leadingZeros_spec (x : Word) :
    let r := leadingZeros 64 x.toNat
    r ≤ 64 ∧ (∀ i, 64 - r ≤ i → x.getLsbD i = false) ∧ (r < 64 → x.getLsbD (63 - r) = true) := by
  intro r
  have hmod : x.toNat % 2 ^ 64 = x.toNat := Nat.mod_eq_of_lt x.isLt
  by_cases hx : x.toNat = 0
  · have hr : r = 64 := by simp [r, leadingZeros, hx]
    exact ⟨hr.le, fun i _ => by simp [BitVec.getLsbD, hx], fun h => absurd h (by omega)⟩
  · have hr : r = 63 - Nat.log2 x.toNat := by simp only [r, leadingZeros, hmod, if_neg hx]
    have hlog : Nat.log2 x.toNat < 64 := (Nat.log2_lt hx).2 x.isLt
    refine ⟨by omega, fun i hi => ?_, fun _ => ?_⟩
    · exact Nat.testBit_lt_two_pow (Nat.lt_log2_self.trans_le (Nat.pow_le_pow_right two_pos (by omega)))
    · rw [show 63 - r = Nat.log2 x.toNat by omega]
      exact Nat.testBit_log2 hx

theorem trailingZeros_spec (x : Word) :
    let r := trailingZeros 64 x.toNat
    r ≤ 64 ∧ (∀ i, i < r → x.getLsbD i = false) ∧ (r < 64 → x.getLsbD r = true) := by
  intro r
  rcases hfind : (List.range 64).find? (fun i => x.toNat.testBit i) with _ | k
  · have hr : r = 64 := by simp [r, trailingZeros, hfind]
    rw [List.find?_range_eq_none] at hfind
    exact ⟨hr.le, fun i hi => by simpa [BitVec.getLsbD] using hfind i (by omega), fun h => absurd h (by omega)⟩
  · have hr : r = k := by simp [r, trailingZeros, hfind]
    obtain ⟨hbit, hmem, hbelow⟩ := List.find?_range_eq_some.1 hfind
    rw [hr]
    exact ⟨(List.mem_range.1 hmem).le, fun i hi => by simpa [BitVec.getLsbD] using hbelow i hi, fun _ => hbit⟩

theorem popCount_eq_sum (n x : Nat) : popCount n x = ((List.range n).map (fun i => x / 2 ^ i % 2)).sum := by
  unfold popCount
  generalize List.range n = l
  induction l with
  | nil => rfl
  | cons i l ih =>
    rw [List.filter_cons, List.map_cons, List.sum_cons, ← ih, Nat.testBit_eq_decide_div_mod_eq]
    rcases Nat.mod_two_eq_zero_or_one (x / 2 ^ i) with h | h <;> simp [h, Nat.add_comm]

theorem reverse_bytes (x : Word) {k : Nat} (hk : k < 8) :
    (BitVec.ofNat 64 (valueLE (bytesLE 8 x.toNat).reverse)).extractLsb' (8 * (7 - k)) 8 = x.extractLsb' (8 * k) 8 := by
  rw [extract_valueLE _ (by simp [bytesLE]) (7 - k) (by omega), List.getElem_reverse]
  simp only [bytesLE, List.getElem_map, List.getElem_range, List.length_map, List.length_range]
  rw [show 8 - 1 - (7 - k) = k by omega]
  rfl

/-! ### Bit fields (R133) -/

theorem extractField_eq (x : Word) (lsb : Nat) (w1 : BitVec 6) :
    (x >>> lsb) &&& fieldMask w1 = BitVec.ofNat 64 (x.toNat / 2 ^ lsb % 2 ^ (w1.toNat + 1)) := by
  have hw := w1.isLt
  have hmask : 2 ^ (w1.toNat + 1) - 1 < 2 ^ 64 :=
    (Nat.sub_lt (Nat.two_pow_pos _) one_pos).trans_le (Nat.pow_le_pow_right two_pos (by omega))
  apply BitVec.eq_of_toNat_eq
  rw [BitVec.toNat_and, fieldMask, BitVec.toNat_ofNat, Nat.mod_eq_of_lt hmask, Nat.and_two_pow_sub_one_eq_mod,
    BitVec.toNat_ushiftRight, Nat.shiftRight_eq_div_pow, BitVec.toNat_ofNat]
  refine (Nat.mod_eq_of_lt ?_).symm
  exact (Nat.mod_le _ _).trans_lt ((Nat.div_le_self _ _).trans_lt x.isLt)

theorem getLsbD_fieldMask (w1 : BitVec 6) (i : Nat) : (fieldMask w1).getLsbD i = decide (i < w1.toNat + 1) := by
  have hw := w1.isLt
  rw [fieldMask, BitVec.getLsbD_ofNat, Nat.testBit_two_pow_sub_one, ← Bool.decide_and, decide_eq_decide]
  omega

theorem getLsbD_insertField (own x : Word) (lsb : Nat) (w1 : BitVec 6) {i : Nat} (hi : i < 64) :
    ((own &&& ~~~(fieldMask w1 <<< lsb)) ||| ((x &&& fieldMask w1) <<< lsb)).getLsbD i =
      if lsb ≤ i ∧ i < lsb + (w1.toNat + 1) then x.getLsbD (i - lsb) else own.getLsbD i := by
  simp only [BitVec.getLsbD_or, BitVec.getLsbD_and, BitVec.getLsbD_not, BitVec.getLsbD_shiftLeft, getLsbD_fieldMask, hi,
    decide_true, Bool.true_and]
  by_cases hlow : i < lsb
  · rw [if_neg (by omega)]
    simp [hlow]
  · have hin : i - lsb < w1.toNat + 1 ↔ lsb ≤ i ∧ i < lsb + (w1.toNat + 1) := by omega
    simp only [hlow, hin]
    split <;> simp [*]

/-! ### Short results (R43, R122) -/

/-- i writes v to d, the tag clear, as a short result. -/
def GivesG (s : State) (d : RegNo) (i : Instr) (v : Word) : Prop :=
  ∃ t, exec i s = goes t ∧ WroteG s t d { val := v, tag := false }

/-- A short result with the tag that comes with it (R122). -/
theorem State.short_setG_wroteG (s : State) (d : RegNo) (x : Tagged) : WroteG s (s.short (fun r => r.setG d.toNat x)) d x := by
  have hd : d ≠ 0 → d.toNat ≠ 0 := fun h hz => h (BitVec.eq_of_toNat_eq hz)
  have hg (r : Regs) : r.setG d.toNat x = { r with g := (r.setG d.toNat x).g } := by
    unfold Regs.setG
    split <;> rfl
  rw [State.short_eq]
  unfold WroteG
  rw [State.me_setMe]
  exact ⟨rfl, fun h => Regs.getG_setG_same _ (hd h) _, fun n hn => Regs.getG_setG_other _ _ hn,
    congrArg (fun r => s.setMe { s.me with work := r }) (hg _)⟩

section
variable {s : State} {d : RegNo} {i : Instr}

theorem givesG_of_shortG {v u : Word} (hexec : exec i s = goes (s.shortG d u)) (hval : u = v) : GivesG s d i v :=
  ⟨_, hexec, hval ▸ s.shortG_wroteG d u⟩

theorem givesG_of_shortRR {a b : RegNo} {f : Word → Word → Word} {v : Word} (hexec : exec i s = s.shortRR d a b f)
    (hval : f (s.me.rg a) (s.me.rg b) = v) : GivesG s d i v :=
  givesG_of_shortG hexec hval

theorem givesG_of_shortR {a : RegNo} {f : Word → Word} {v : Word} (hexec : exec i s = s.shortR d a f)
    (hval : f (s.me.rg a) = v) : GivesG s d i v :=
  givesG_of_shortG hexec hval

end

theorem integerFunctionResults : IntegerFunctionResults := by
  intro s d a b x y n m gives
  have hn : n < 64 := Nat.mod_lt _ (by decide)
  exact ⟨givesG_of_shortRR (execAdd.eq_1 d a b s) (add_eq_ofNat x y),
    givesG_of_shortRR (execSub.eq_1 d a b s) (sub_eq_ofInt x y),
    givesG_of_shortRR (execAnd.eq_1 d a b s) rfl,
    givesG_of_shortRR (execOr.eq_1 d a b s) rfl,
    givesG_of_shortRR (execXor.eq_1 d a b s) rfl,
    givesG_of_shortRR (execAndn.eq_1 d a b s) rfl,
    givesG_of_shortRR (execOrn.eq_1 d a b s) rfl,
    givesG_of_shortRR (execSll.eq_1 d a b s) (shiftLeft_eq_ofNat x n),
    givesG_of_shortRR (execSrl.eq_1 d a b s) (ushiftRight_eq_ofNat x n),
    givesG_of_shortRR (execSra.eq_1 d a b s) (sshiftRight_eq_ofInt x n),
    givesG_of_shortRR (execRol.eq_1 d a b s) (rotateLeft_eq x hn),
    givesG_of_shortRR (execRor.eq_1 d a b s) (rotateRight_eq x hn),
    givesG_of_shortRR (execMin.eq_1 d a b s) (minSigned_eq x y),
    givesG_of_shortRR (execMax.eq_1 d a b s) (maxSigned_eq x y),
    givesG_of_shortRR (execMinu.eq_1 d a b s) (minUnsigned_eq x y),
    givesG_of_shortRR (execMaxu.eq_1 d a b s) (maxUnsigned_eq x y),
    givesG_of_shortRR (execAddw.eq_1 d a b s) (sx32_add x y),
    givesG_of_shortRR (execSubw.eq_1 d a b s) (sx32_sub x y),
    givesG_of_shortRR (execSllw.eq_1 d a b s) (signExtend_shiftLeft x m),
    givesG_of_shortRR (execSrlw.eq_1 d a b s) (signExtend_ushiftRight x m),
    givesG_of_shortRR (execSraw.eq_1 d a b s) (signExtend_sshiftRight x m)⟩

theorem unaryIntegerResults : UnaryIntegerResults := by
  intro s d a x
  refine ⟨⟨_, rfl, s.short_setG_wroteG d _⟩,
    ⟨_, _, rfl, s.shortG_wroteG d _, leadingZeros_spec x⟩,
    ⟨_, _, rfl, s.shortG_wroteG d _, trailingZeros_spec x⟩,
    givesG_of_shortR (execPopc.eq_1 d a s) (congrArg (BitVec.ofNat 64) (popCount_eq_sum 64 x.toNat)),
    ⟨_, _, rfl, s.shortG_wroteG d _, fun k hk => reverse_bytes x hk⟩⟩

/-- Settles O1: each function is a short result of its operands, and its value is that of the table. -/
theorem integerResults : Obligations.IntegerResults := ⟨integerFunctionResults, unaryIntegerResults⟩

/-- Settles O2: the values of the register forms again, with the immediate in the place of the second operand. -/
theorem immediateResults : Obligations.ImmediateResults := by
  intro s d a b i12 i18 n lsb w1 sh x own w gives
  refine ⟨givesG_of_shortR (execAddi.eq_1 d a i12 s) ?addi,
    givesG_of_shortR (execAndi.eq_1 d a i12 s) rfl,
    givesG_of_shortR (execOri.eq_1 d a i12 s) ?ori,
    givesG_of_shortR (execXori.eq_1 d a i12 s) ?xori,
    givesG_of_shortR (execSlli.eq_1 d a n s) (shiftLeft_eq_ofNat x n.toNat),
    givesG_of_shortR (execSrli.eq_1 d a n s) (ushiftRight_eq_ofNat x n.toNat),
    givesG_of_shortR (execSrai.eq_1 d a n s) (sshiftRight_eq_ofInt x n.toNat),
    givesG_of_shortR (execRoli.eq_1 d a n s) (rotateLeft_eq x n.isLt),
    givesG_of_shortR (execRori.eq_1 d a n s) (rotateRight_eq x n.isLt),
    fun h => givesG_of_shortR (execSllwi.eq_1 d a n s) ?sllwi,
    fun h => givesG_of_shortR (execSrlwi.eq_1 d a n s) ?srlwi,
    fun h => givesG_of_shortR (execSrawi.eq_1 d a n s) ?srawi,
    givesG_of_shortG (execLi.eq_1 d i18 s) rfl,
    givesG_of_shortR (execLiu.eq_1 d i18 s) ?liu,
    givesG_of_shortRR (execScadd.eq_1 d a b sh s) ?scadd,
    fun h => givesG_of_shortR (execBfx.eq_1 d a lsb w1 s) (extractField_eq x lsb.toNat w1),
    fun h => ⟨_, givesG_of_shortRR (execBfi.eq_1 d a lsb w1 s) rfl, fun i hi => getLsbD_insertField own x lsb.toNat w1 hi⟩⟩
  case addi => rw [BitVec.ofInt_add, BitVec.ofInt_toInt]; rfl
  case sllwi => rw [Nat.mod_eq_of_lt h]; exact signExtend_shiftLeft x n.toNat
  case srlwi => rw [Nat.mod_eq_of_lt h]; exact signExtend_ushiftRight x n.toNat
  case srawi => rw [Nat.mod_eq_of_lt h]; exact signExtend_sshiftRight x n.toNat
  case ori => rw [BitVec.ofNat_toNat]
  case xori => rw [BitVec.ofNat_toNat]
  case liu => rw [shiftLeft_eq_ofNat, BitVec.ofNat_toNat]
  case scadd => rw [shiftLeft_eq_ofNat, BitVec.ofNat_add, BitVec.ofNat_toNat, BitVec.setWidth_eq]

/-! ### Long results (R43, R125..R128) -/

theorem iter_eq_foldl {α : Type} (f : α → α) (n : Nat) (x : α) : iter f n x = (List.range n).foldl (fun y _ => f y) x := by
  induction n generalizing x with
  | zero => rfl
  | succ n ih => rw [iter, ih, List.range_succ_eq_map, List.foldl_cons, List.foldl_map]

theorem crcBytes_eq_foldl (c : BitVec 32) (bs : List Byte) :
    crcBytes c bs = bs.foldl (fun c x => iter crcBit 8 (c ^^^ x.setWidth 32)) c := by
  induction bs generalizing c with
  | nil => rfl
  | cons x xs ih => exact ih _

/-- The bytes of b enter the running value lowest first, each with eight steps (R128). -/
theorem crcBytes_bytesLE (c : BitVec 32) (y : Word) :
    crcBytes c (bytesLE 8 y.toNat) = (List.range 8).foldl (fun c i =>
      (List.range 8).foldl (fun c _ => crcBit c) (c ^^^ (y.extractLsb' (8 * i) 8).setWidth 32)) c := by
  rw [crcBytes_eq_foldl, bytesLE, List.foldl_map]
  simp only [iter_eq_foldl]
  rfl

/-- A long result in a general register. -/
theorem owes_of_longRR {s : State} {d a b : RegNo} {i : Instr} {f : Word → Word → Word} {v : Word}
    (hexec : exec i s = s.longRR d a b f) (hval : f (s.me.rg a) (s.me.rg b) = v) :
    ∃ t, exec i s = goes t ∧ Owes s t [.g d.toNat { val := v, tag := false }] :=
  ⟨_, hexec, hval ▸ s.long_eq _⟩

/-- Settles O3: each function is a long result of its operands, and its value is that of the table. -/
theorem longIntegerResults : Obligations.LongIntegerResults := by
  intro s d a b x y owes
  exact ⟨owes_of_longRR (execMul.eq_1 d a b s) (mul_eq_ofInt x y),
    owes_of_longRR (execMulh.eq_1 d a b s) rfl,
    owes_of_longRR (execMulhu.eq_1 d a b s) rfl,
    owes_of_longRR (execMulw.eq_1 d a b s) (sx32_mul x y),
    owes_of_longRR (execHash64.eq_1 d a b s) rfl,
    owes_of_longRR (execCrc32c.eq_1 d a b s) (congrArg (BitVec.setWidth 64) (crcBytes_bytesLE (x.setWidth 32) y))⟩

/-! ### Division (R126) -/

section
variable {x y : Word}

theorem divS_eq_sdiv (h : y ≠ 0) : divS x y = x.sdiv y := by
  rw [divS, if_neg h]
  exact BitVec.eq_of_toInt_eq (by rw [BitVec.toInt_sdiv, BitVec.toInt_ofInt])

theorem remS_eq_srem (h : y ≠ 0) : remS x y = x.srem y := by
  rw [remS, if_neg h, wrap, ← BitVec.toInt_srem, BitVec.ofInt_toInt]

theorem divU_of_ne (h : y ≠ 0) : divU x y = BitVec.ofNat 64 (x.toNat / y.toNat) := if_neg h

theorem remU_of_ne (h : y ≠ 0) : remU x y = BitVec.ofNat 64 (x.toNat % y.toNat) := if_neg h

end

/-- What i does that divides a by b into d: `zero` is its result for a zero divisor and `other` that for another one. -/
def Divides (s : State) (d a b : RegNo) (i : Instr) (zero other : Word) : Prop :=
  (s.me.rg b ≠ 0 → ∃ t, exec i s = goes t ∧ Owes s t [.g d.toNat { val := other, tag := false }]) ∧
  (s.me.rg b = 0 → s.me.arch.fcsr.getLsbD 15 = false → ∃ t, exec i s = goes t ∧
    Owes s t (.g d.toNat { val := zero, tag := false } :: (if d = 0 then [] else [.flags (2 ^ 14)]))) ∧
  (s.me.rg b = 0 → s.me.arch.fcsr.getLsbD 15 = true → exec i s = goes (s.trapMe Cause.divZero (s.me.rg a) 0))

theorem divides_of_divide {s : State} {d a b : RegNo} {i : Instr} {f : Word → Word → Word} {zero other : Word}
    (hexec : exec i s = goes (s.divide d a b f)) (hzero : s.me.rg b = 0 → f (s.me.rg a) (s.me.rg b) = zero)
    (hother : s.me.rg b ≠ 0 → f (s.me.rg a) (s.me.rg b) = other) : Divides s d a b i zero other := by
  rw [Divides, hexec, State.divide]
  refine ⟨fun hy => ⟨_, rfl, ?_⟩, fun hy he => ⟨_, rfl, ?_⟩, fun hy he => ?_⟩
  · rw [if_neg (fun h => hy h.1), if_neg (fun h => hy h.1), hother hy]
    exact s.long_eq _
  · rw [← hzero hy]
    simp only [hy, he, Bool.false_eq_true, and_false, if_false, true_and, ne_eq, ite_not]
    exact s.long_eq _
  · rw [if_pos ⟨hy, he⟩]

/-- Settles O4: the four divisions differ in their function of the operands only. -/
theorem divisionResults : Obligations.DivisionResults := by
  intro s d a b x y idze rule
  exact ⟨divides_of_divide (execDiv.eq_1 d a b s) (fun h => if_pos h) divS_eq_sdiv,
    divides_of_divide (execDivu.eq_1 d a b s) (fun h => if_pos h) divU_of_ne,
    divides_of_divide (execRem.eq_1 d a b s) (fun h => if_pos h) remS_eq_srem,
    divides_of_divide (execRemu.eq_1 d a b s) (fun h => if_pos h) remU_of_ne⟩

end Sys2Proof.Machine
end

section
/-!
PROOFS of O6 and O7: scalar floating point. Each instruction is one `State.floatResult`, whose two outcomes are those of
the claims; a minimum or a maximum is one of its operands, and a value that was read from a format goes back without a
flag (`Fmt.Holds.convert_flags`).
-/

namespace Sys2Proof.Machine

open Claims

/-! ### The delivery of a result (R138, R139) -/

theorem delivers_of_floatResult {s : State} {i : Instr} {d : RegNo} {q r : FRes}
    (hexec : exec i s = goes (s.floatResult d q)) (hval : q = r) : DeliversFloat s i d r := by
  subst hval
  rw [DeliversFloat, hexec, State.floatResult, Context.enables_eq]
  refine ⟨fun hmasked => ⟨_, rfl, ?_⟩, fun henabled => by rw [if_pos henabled]⟩
  rw [if_neg (not_not.2 hmasked)]
  split <;> exact s.long_eq _

/-! ### Minimum and maximum (R142) -/

/-- A significand in its format's own units needs no rounding. -/
theorem roundAt_zero (rm draw m : Nat) : roundAt rm draw m 0 false = (m, false) := by
  simp [roundAt, roundUnits, Nat.mod_one]

/-- The significand m, within a binade of f or below the first, rounds to the code that it has: no flag is raised. -/
theorem Fmt.round_flags_of_exact (f : Fmt) (v : FEnv) (sg : Bool) {m k : Nat} (hm : m ≠ 0) (hlt : m < 2 ^ (f.m + 1))
    (hnormal : 2 ^ f.m ≤ m ∨ k = 0 ∧ v.ftz = false) (hmax : m + k * 2 ^ f.m ≤ f.maxCode) :
    (f.round v sg m (k + 1 - f.bias - f.m) false).flags = 0 := by
  have hlog : Nat.log2 m ≤ f.m := Nat.lt_succ_iff.1 ((Nat.log2_lt hm).2 hlt)
  have hfirst : 2 ^ f.m ≤ m → Nat.log2 m = f.m := fun h => le_antisymm hlog ((Nat.le_log2 hm).2 h)
  have htop : max (expOf m (k + 1 - f.bias - f.m)) (1 - f.bias) = k + 1 - f.bias := by
    unfold expOf
    rcases hnormal with h | ⟨rfl, -⟩
    · have := hfirst h
      omega
    · omega
  have hcode : ((k : ℤ) + 1 - f.bias - f.m + f.m + f.bias - 1).toNat = k := by omega
  have hkept : ¬ (v.ftz && (m + k * 2 ^ f.m != 0) && decide (m + k * 2 ^ f.m < 2 ^ f.m)) = true := by
    rcases hnormal with h | ⟨-, h⟩
    · simp only [Bool.and_eq_true, decide_eq_true_eq]
      omega
    · simp [h]
  simp only [Fmt.round, htop, sub_self, roundAt_zero, hcode, if_neg (not_lt.2 hmax), if_neg hkept]
  rfl

/-- What a code of f stands for, as an operand: a NaN, an infinity, or a significand that f holds exactly. -/
inductive Fmt.Holds (f : Fmt) (ftz : Bool) : FVal → Prop
  | nan (q : Bool) : f.Holds ftz (.nan q)
  | inf (sg : Bool) : f.Holds ftz (.inf sg)
  | zero (sg : Bool) (e : Int) : f.Holds ftz (.fin sg 0 e)
  | finite (sg : Bool) (m k : Nat) : m ≠ 0 → m < 2 ^ (f.m + 1) → (2 ^ f.m ≤ m ∨ k = 0 ∧ ftz = false) →
      m + k * 2 ^ f.m ≤ f.maxCode → f.Holds ftz (.fin sg m (k + 1 - f.bias - f.m))

theorem Fmt.holds_read {f : Fmt} (hf : f.sp = .ieee) (he : 0 < f.e) (ftz : Bool) (x : Nat) : f.Holds ftz (f.read ftz x) := by
  have hM : x % 2 ^ f.m < 2 ^ f.m := Nat.mod_lt _ (Nat.two_pow_pos _)
  have hE : x / 2 ^ f.m % 2 ^ f.e < 2 ^ f.e := Nat.mod_lt _ (Nat.two_pow_pos _)
  have htwo : 2 ≤ 2 ^ f.e := Nat.pow_le_pow_right (i := 1) two_pos he
  unfold Fmt.read
  split
  next => exact .zero _ _
  next hsub =>
    simp only [Fmt.decode, hf, true_and, reduceCtorEq, false_and, if_false]
    simp only [Fmt.isSub, Bool.and_eq_true, beq_iff_eq, bne_iff_ne, not_and, not_not] at hsub
    generalize x % 2 ^ f.m = M at *
    generalize x / 2 ^ f.m % 2 ^ f.e = E at *
    split
    next =>
      split
      · exact .inf _
      · exact .nan _
    next hspecial =>
      split
      next hzero =>
        subst hzero
        rcases Nat.eq_zero_or_pos M with rfl | hpos
        · exact .zero _ _
        · have hftz : ftz = false := by
            cases ftz
            · rfl
            · exact absurd (hsub rfl rfl) hpos.ne'
          have h := Fmt.Holds.finite (f := f) (ftz := ftz) (x.testBit (f.e + f.m)) M 0 hpos.ne' (by rw [pow_succ]; omega)
            (.inr ⟨rfl, hftz⟩) ((Fmt.le_maxCode_iff hf he 0 hM).2 (by omega))
          simpa using h
      next hnonzero =>
        obtain ⟨k, rfl⟩ : ∃ k, E = k + 1 := ⟨E - 1, by omega⟩
        have hcode : 2 ^ f.m + M + k * 2 ^ f.m = M + (k + 1) * 2 ^ f.m := by ring
        have h := Fmt.Holds.finite (f := f) (ftz := ftz) (x.testBit (f.e + f.m)) (2 ^ f.m + M) k (by omega)
          (by rw [pow_succ]; omega) (.inl (by omega)) (by rw [hcode]; exact (Fmt.le_maxCode_iff hf he _ hM).2 (by omega))
        exact_mod_cast h

theorem Fmt.Holds.convert_flags {f : Fmt} (hf : f.sp = .ieee) {v : FEnv} {x : FVal} (h : f.Holds v.ftz x) :
    (f.convert v x).flags = 0 := by
  cases h with
  | nan q => simp [Fmt.convert, hf]
  | inf sg => simp [Fmt.convert, hf]
  | zero sg e => simp [Fmt.convert]
  | finite sg m k hm hlt hnormal hmax =>
    rw [Fmt.convert, if_neg hm]
    exact f.round_flags_of_exact v sg hm hlt hnormal hmax

theorem FVal.lesser_eq_or (a b : FVal) : a.lesser b = a ∨ a.lesser b = b := by
  unfold FVal.lesser
  split_ifs <;> simp

theorem FVal.greater_eq_or (a b : FVal) : a.greater b = a ∨ a.greater b = b := by
  unfold FVal.greater
  split_ifs <;> simp

theorem FVal.sigFlag_or (a b : FVal) : a.sigFlag ||| b.sigFlag = if a = .nan true ∨ b = .nan true then nvFlag else 0 := by
  have hone (x : FVal) : x.sigFlag = if x = .nan true then nvFlag else 0 := by
    unfold FVal.sigFlag
    split <;> simp_all
  rw [hone, hone]
  split_ifs <;> simp_all

/-- The operand that a minimum or a maximum delivers goes back to its format without a flag of its own. -/
theorem Fmt.fpick_eq {f : Fmt} (hf : f.sp = .ieee) {v : FEnv} {pick : FVal → FVal → FVal} {a b : FVal}
    (ha : f.Holds v.ftz a) (hb : f.Holds v.ftz b) (hpick : pick a b = a ∨ pick a b = b) :
    f.fpick v pick a b =
      { f.deliver v (if a.isNan then (if b.isNan then .nan false else b) else if b.isNan then a else pick a b) with
        flags := if a = .nan true ∨ b = .nan true then nvFlag else 0 } := by
  have hpicked : f.Holds v.ftz (if a.isNan then (if b.isNan then .nan false else b) else if b.isNan then a else pick a b) := by
    split_ifs
    · exact .nan false
    · exact hb
    · exact ha
    · rcases hpick with h | h <;> rw [h] <;> assumption
  rw [Fmt.fpick]
  simp only [hpicked.convert_flags hf, Nat.zero_or, FVal.sigFlag_or]
  rfl

/-! ### The sign bit (R142) -/

theorem fabs_single (x : Word) : fp32.fabs (x.toNat % 2 ^ 32) = x.toNat % 2 ^ 31 :=
  Nat.mod_mod_of_dvd _ (Nat.pow_dvd_pow 2 (by decide))

theorem fneg_single (x : Word) : fp32.fneg (x.toNat % 2 ^ 32) = (x.setWidth 32 ^^^ 0x80000000).toNat := by
  rw [← BitVec.toNat_setWidth]
  exact fp32.fneg_toNat (x.setWidth 32)

theorem fneg_double (x : Word) : fp64.fneg x.toNat = (x ^^^ 0x8000000000000000).toNat := fp64.fneg_toNat x

/-- Settles O6: each function is one delivery, of the function that its clause names. -/
theorem floatResults : Obligations.FloatResults := by
  intro s d a b c env S D pick
  have hS (r : RegNo) : fp32.Holds env.ftz (S r) := Fmt.holds_read rfl (by decide) _ _
  have hD (r : RegNo) : fp64.Holds env.ftz (D r) := Fmt.holds_read rfl (by decide) _ _
  exact ⟨delivers_of_floatResult (execFaddS.eq_1 d a b s) rfl,
    delivers_of_floatResult (execFsubS.eq_1 d a b s) rfl,
    delivers_of_floatResult (execFmulS.eq_1 d a b s) rfl,
    delivers_of_floatResult (execFdivS.eq_1 d a b s) rfl,
    delivers_of_floatResult (execFsqrtS.eq_1 d a s) rfl,
    delivers_of_floatResult (execFminS.eq_1 d a b s) (Fmt.fpick_eq rfl (hS a) (hS b) (FVal.lesser_eq_or _ _)),
    delivers_of_floatResult (execFmaxS.eq_1 d a b s) (Fmt.fpick_eq rfl (hS a) (hS b) (FVal.greater_eq_or _ _)),
    delivers_of_floatResult (execFabsS.eq_1 d a s) (congrArg (FRes.mk · 0) (fabs_single (s.me.rg a))),
    delivers_of_floatResult (execFnegS.eq_1 d a s) (congrArg (FRes.mk · 0) (fneg_single (s.me.rg a))),
    delivers_of_floatResult (execFmaS.eq_1 d a b c s) rfl,
    delivers_of_floatResult (execFmsS.eq_1 d a b c s) rfl,
    delivers_of_floatResult (execFaddD.eq_1 d a b s) rfl,
    delivers_of_floatResult (execFsubD.eq_1 d a b s) rfl,
    delivers_of_floatResult (execFmulD.eq_1 d a b s) rfl,
    delivers_of_floatResult (execFdivD.eq_1 d a b s) rfl,
    delivers_of_floatResult (execFsqrtD.eq_1 d a s) rfl,
    delivers_of_floatResult (execFminD.eq_1 d a b s) (Fmt.fpick_eq rfl (hD a) (hD b) (FVal.lesser_eq_or _ _)),
    delivers_of_floatResult (execFmaxD.eq_1 d a b s) (Fmt.fpick_eq rfl (hD a) (hD b) (FVal.greater_eq_or _ _)),
    delivers_of_floatResult (execFabsD.eq_1 d a s) rfl,
    delivers_of_floatResult (execFnegD.eq_1 d a s) (congrArg (FRes.mk · 0) (fneg_double (s.me.rg a))),
    delivers_of_floatResult (execFmaD.eq_1 d a b c s) rfl,
    delivers_of_floatResult (execFmsD.eq_1 d a b c s) rfl⟩

/-! ### Conversions (R97, R144) -/

section
variable (v : FEnv) (dst src : CvtFmt) (x : Word)

theorem cvtScalar_of_ints (hs : cvtFmt src = none) (hd : cvtFmt dst = none) :
    cvtScalar v dst src x = { bits := bitsOf 64 (clampInt (cvtLo dst) (cvtHi dst) (cvtInt src x)) } := by
  rw [cvtScalar, hs, hd]

theorem cvtScalar_to_float {g : Fmt} (hs : cvtFmt src = none) (hd : cvtFmt dst = some g) :
    cvtScalar v dst src x = g.ofInt v (cvtInt src x) := by
  rw [cvtScalar, hs, hd]

theorem cvtScalar_of_floats {f g : Fmt} (hs : cvtFmt src = some f) (hd : cvtFmt dst = some g) :
    cvtScalar v dst src x = g.deliver v (f.read v.ftz (x.toNat % 2 ^ f.width)) := by
  rw [cvtScalar, hs, hd]

theorem cvtScalar_to_int {f : Fmt} {r : Int × Nat} (hs : cvtFmt src = some f) (hd : cvtFmt dst = none)
    (hr : toInt v (cvtLo dst) (cvtHi dst) (f.read v.ftz (x.toNat % 2 ^ f.width)) = r) :
    cvtScalar v dst src x = { bits := bitsOf 64 r.1, flags := r.2 } := by
  rw [cvtScalar, hs, hd, ← hr]

end

theorem cvtLo_le_cvtHi (c : CvtFmt) : cvtLo c ≤ cvtHi c := by cases c <;> decide

theorem toInt_of_isNan (v : FEnv) (lo hi : Int) {x : FVal} (h : x.isNan = true) : toInt v lo hi x = (0, nvFlag) := by
  cases x with
  | nan => rfl
  | inf => cases h
  | fin => cases h

/-- A finite value clamped after it was rounded: outside the range the invalid flag stands in the place of inexact. -/
theorem toInt_fin (v : FEnv) {lo hi : Int} (h : lo ≤ hi) (sg : Bool) (m : Nat) (e : Int) :
    let u := roundAt v.rm v.draw m (-e) false
    let y : Int := if sg then -(u.1 : Int) else u.1
    toInt v lo hi (.fin sg m e) =
      (max lo (min hi y), if lo ≤ y ∧ y ≤ hi then (if u.2 then nxFlag else 0) else nvFlag) := by
  intro u y
  change (if y < lo then (lo, nvFlag) else if hi < y then (hi, nvFlag) else (y, if u.2 then nxFlag else 0)) = _
  rcases lt_or_ge y lo with hlo | hlo
  · rw [if_pos hlo, if_neg (by omega : ¬ (lo ≤ y ∧ y ≤ hi)), max_eq_left (by omega)]
  rcases lt_or_ge hi y with hhi | hhi
  · rw [if_neg (by omega : ¬ y < lo), if_pos hhi, if_neg (by omega : ¬ (lo ≤ y ∧ y ≤ hi)), min_eq_left hhi.le, max_eq_right h]
  · rw [if_neg (by omega : ¬ y < lo), if_neg (by omega : ¬ hi < y), if_pos (⟨hlo, hhi⟩ : lo ≤ y ∧ y ≤ hi), min_eq_right hhi, max_eq_right hlo]

/-- Settles O7: the four cases of `cvtScalar`, by whether the source and the target are floats. -/
theorem floatConversionResults : Obligations.FloatConversionResults := by
  intro s dst src d a x fmt lo hi int
  have hfmt : fmt = cvtFmt := by
    funext c
    cases c <;> rfl
  have hrange : lo ≤ hi := cvtLo_le_cvtHi dst
  rw [hfmt]
  refine ⟨cvtScalar (s.fenv 0) dst src x, delivers_of_floatResult (execFcvt.eq_1 dst src d a s) rfl,
    fun hs hd => ?ints, fun g hs hd => cvtScalar_to_float _ _ _ x hs hd,
    fun f hs => ⟨fun g hd => cvtScalar_of_floats _ _ _ x hs hd, fun hd hnan => ?nan, fun sg hd hinf => ?inf,
      fun sg m e hd hfin => ?fin⟩⟩
  case ints =>
    rw [cvtScalar_of_ints _ _ _ x hs hd]
    exact ⟨(ofNat_bitsOf 64 _).trans (congrArg _ (clampInt_eq hrange int)), rfl⟩
  case nan =>
    rw [cvtScalar_to_int _ _ _ x hs hd (toInt_of_isNan _ _ _ hnan)]
    exact ⟨rfl, rfl⟩
  case inf =>
    rw [cvtScalar_to_int _ _ _ x hs hd (congrArg (toInt _ _ _) hinf)]
    exact ⟨ofNat_bitsOf 64 _, rfl⟩
  case fin =>
    rw [cvtScalar_to_int _ _ _ x hs hd ((congrArg (toInt _ _ _) hfin).trans (toInt_fin _ hrange sg m e))]
    exact ⟨ofNat_bitsOf 64 _, rfl⟩

end Sys2Proof.Machine
end

section
/-!
REFUTATIONS of O5 and O48, each by one state that the statement quantifies over: for O5 a state whose tables do not list
the acting core, for O48 one in which a segment that converts does not begin at a word.
-/

namespace Sys2Proof.Machine

open Claims

/-! ### A predicate operation into p0 (R122) -/

/-- A replaced context is listed, with its core. -/
theorem State.setMe_ne_of_no_core {s : State} (h : s.cores = []) (x : Context) : s ≠ s.setMe x := by
  intro heq
  have hcores : s.cores = (s.setMe x).cores := congrArg State.cores heq
  simp [State.setMe, State.setCtx, State.onCore, State.setCore, h, mset] at hcores

/-- A predicate result for p0 is discarded with the state as it was (R122). -/
theorem State.shortP_zero (s : State) (b : Bool) (flags : Nat) : s.shortP 0 b flags = s := if_pos rfl

/-- Refutes O5: at reset no core is listed, and a pand into p0 leaves the tables as they are, but the claim's frame
writes the acting context's entry. -/
theorem not_predicateAndCompareResults : ¬ Obligations.PredicateAndCompareResults := by
  rintro ⟨hpred, -⟩
  obtain ⟨-, ⟨t, ht, hframe⟩, -⟩ := hpred State.reset 0 0 0 0 0 0 0 .set
  have hleft : exec (.pand 0 0 0) State.reset = goes State.reset := congrArg goes (State.shortP_zero _ _ _)
  obtain rfl : State.reset = t := Host.Outcome.next.inj (hleft.symm.trans ht)
  obtain ⟨-, -, -, heq⟩ := hframe
  exact State.setMe_ne_of_no_core rfl _ heq

/-! ### A segment whose address is no multiple of 8 (R363) -/

/-- The second byte of core 0's scratchpad. -/
def unevenAddr : Nat := 0x80000000001

/-- A segment of the scratchpad converts from its second byte on, and word 8,192 has two flipped bits: it begins within the
segment's 65,536 bytes, but behind the 8,192 words that the claim asks to be without flips. -/
def unevenSegment : State :=
  { State.reset with mem := { State.reset.mem with
      converting := [(unevenAddr, 0, true)], latent := [(unevenAddr / 8 + 8192, 0x11)] } }

/-- The state after the conversion. -/
def unevenConverted : State :=
  ({ unevenSegment with mem := { unevenSegment.mem with converting := [] } } : State).convertSegment unevenAddr true

theorem execSegmentConversionDone_uneven : exec .segmentConversionDone unevenSegment = goes unevenConverted := rfl

/-- The check of the segment's words finds the flipped bits and writes the word with them. -/
theorem memGet_uneven :
    memGet unevenSegment.mem.bytes (unevenAddr - 1 + 65536) = 0 ∧
    memGet unevenConverted.mem.bytes (unevenAddr - 1 + 65536) = 0x11 := by
  decide +kernel

/-- Refutes O48: a conversion to a tile area writes the bytes of a word beside those that the claim asks to be without
flips, when its segment does not begin at a word; c.ctile and c.mtile begin none such. -/
theorem not_registerWriteResults : ¬ Obligations.RegisterWriteResults := by
  rintro ⟨hwrites, -⟩
  obtain ⟨-, -, -, -, -, -, -, hsegment, -⟩ := hwrites unevenSegment
  obtain ⟨-, hkept⟩ := hsegment (unevenAddr, 0, true) rfl
  obtain ⟨t, ht, hbytes, -, -⟩ := hkept rfl (by decide) (by decide)
  obtain rfl := Host.Outcome.next.inj (execSegmentConversionDone_uneven.symm.trans ht)
  obtain ⟨hbefore, hafter⟩ := memGet_uneven
  rw [hbytes, hbefore] at hafter
  exact absurd hafter (by decide)

end Sys2Proof.Machine
end

section
/-!
SUPPORT. What an exposed memory instruction is performed with: the operations of the port that the layer of `Keeps` has
not named yet, and the two outcomes of a held instruction's performance, done (`State.exposed_of_kept`) and not yet
(`State.exposed_of_later`).
-/

namespace Sys2Proof.Machine

open Claims

set_option Elab.async false

/-! ### Acquires, releases and writes that come to the port -/

section

variable {α : Type} {e : Context → α} {s0 s : State}

theorem iter_keeps {f : State → State} (hf : ∀ t, Keeps e s0 t → Keeps e s0 (f t)) (n : Nat) (h : Keeps e s0 s) :
    Keeps e s0 (iter f n s) := by
  induction n generalizing s with
  | zero => exact h
  | succ n ih => exact ih (hf s h)

theorem State.drainL1One_keeps {core : Nat} (h : Keeps e s0 s) : Keeps e s0 (s.drainL1One core) := by
  refine State.onCore_keeps ?_ h
  split
  · exact Core.applyUpdate_ctxs _ _
  · rfl

theorem State.drainSliceOne_keeps {n : Nat} (h : Keeps e s0 s) : Keeps e s0 (s.drainSliceOne n) := by
  unfold State.drainSliceOne
  split
  · exact State.sliceApplyUpdate_keeps (State.onHerd_keeps h)
  · exact h

theorem State.acquire_keeps {core scope : Nat} (h : Keeps e s0 s) : Keeps e s0 (s.acquire core scope) := by
  unfold State.acquire
  refine iter_keeps (fun _ => State.drainL1One_keeps) _ ?_
  exact ite_both (iter_keeps (fun _ => State.drainSliceOne_keeps) _ h) h

theorem State.release_keeps (he : IgnoresRegs e) {core ctx scope : Nat} (h : Keeps e s0 s) :
    Keeps e s0 (s.release core ctx scope).1 := by
  have hw : Keeps e s0 (s.pushWrites core ctx scope) := State.pushWrites_keeps he h
  unfold State.release
  refine fst_ite_keeps h ?_
  extract_lets t seen u own
  have hu : Keeps e s0 u := foldl_keeps _ (fun _ _ ht => foldl_keeps _ (fun _ _ => State.push_keeps) _ _ ht) _ _ hw
  refine fst_ite_keeps (State.onCtx_keeps ?_ hu) hu
  exact ite_both (motive := fun c => e c = e (u.ctxOf core ctx)) (he.seen _ _) rfl

/-- A write that comes to the port, an atomic among them. -/
theorem State.portEnter_keeps_of_regs (he : IgnoresRegs e) {core : Nat} {f : Flight} (h : Keeps e s0 s) :
    Keeps e s0 (s.portEnter core f) := by
  unfold State.portEnter
  refine ite_both (State.tryLeave_keeps he ?_) ?_
  · exact State.onCore_keeps rfl h
  · exact State.onCore_keeps rfl h

/-- An exposed instruction's result touches the registers only. -/
theorem committed_keeps (he : IgnoresRegs e) {ws : List RegWrite} (h : Keeps e s0 s) : Keeps e s0 (committed s ws) :=
  State.onCtx_keeps (f := fun c => { c with arch := c.arch.applyAll ws, work := c.arch.applyAll ws })
    (he.regs _ _ _ (s.ctxOf s.act.core s.act.ctx).snap) h

end

/-! ### Operations of the memory system that leave the rest of the part as it was -/

/-- t is s but for its memory system and the records of its faults. -/
def MemOnly (s t : State) : Prop := t = { s with mem := t.mem, fault := t.fault }

namespace MemOnly

variable {s t u : State}

theorem refl (s : State) : MemOnly s s := rfl
theorem trans (h : MemOnly s t) (h' : MemOnly t u) : MemOnly s u := by
  unfold MemOnly at h h' ⊢
  rw [h', h]
theorem act (h : MemOnly s t) : t.act = s.act := (congrArg State.act h :)
theorem agenda (h : MemOnly s t) : t.agenda = s.agenda := (congrArg State.agenda h :)
theorem cores (h : MemOnly s t) : t.cores = s.cores := (congrArg State.cores h :)
theorem herds (h : MemOnly s t) : t.herds = s.herds := (congrArg State.herds h :)
theorem dev (h : MemOnly s t) : t.dev = s.dev := (congrArg State.dev h :)
theorem core (h : MemOnly s t) (n : Nat) : t.core n = s.core n := by
  rw [State.core, State.core, h.cores]
theorem ctxOf (h : MemOnly s t) (n k : Nat) : t.ctxOf n k = s.ctxOf n k := by
  rw [State.ctxOf, State.ctxOf, h.core]
theorem herd (h : MemOnly s t) (n : Nat) : t.herd n = s.herd n := by
  rw [State.herd, State.herd, h.herds]

end MemOnly

theorem foldl_memOnly {γ : Type} (f : State → γ → State) (hf : ∀ s x, MemOnly s (f s x)) (l : List γ) (s : State) :
    MemOnly s (l.foldl f s) :=
  List.foldlRecOn (motive := MemOnly s) l f rfl (fun _ ht x _ => ht.trans (hf _ x))

theorem State.readArray_memOnly (s : State) (a u w : Nat) (addr : Word) : MemOnly s (s.readArray a u w addr).1 := by
  unfold State.readArray
  split
  · rfl
  · exact ite_both (motive := fun r : State × Option Word => MemOnly s r.1) rfl rfl

theorem State.detectHome_memOnly (s : State) (w : Nat) : MemOnly s (s.detectHome w) := by
  unfold State.detectHome
  split
  · rfl
  · have hr := s.readArray_memOnly 0x0D (s.homeSlice w) w (BitVec.ofNat 64 (8 * w))
    dsimp only
    split
    · exact hr.trans rfl
    · exact hr

theorem State.detectStored_memOnly (s : State) (w : Nat) : MemOnly s (s.detectStored w) := by
  unfold State.detectStored
  dsimp only
  split
  · rfl
  · exact ite_both rfl rfl

theorem State.detect_memOnly (s : State) (w : Nat) : MemOnly s (s.detect w) :=
  (s.detectHome_memOnly w).trans (State.detectStored_memOnly _ w)

theorem State.detectAll_memOnly (s : State) (ws : List Nat) : MemOnly s (s.detectAll ws) :=
  foldl_memOnly _ State.detect_memOnly ws s

theorem State.readTlb_memOnly (s : State) (t : TlbEntry) : MemOnly s (s.readTlb t) := by
  unfold State.readTlb
  split
  · rfl
  · have hr := s.readArray_memOnly 0x14 t.slice (t.page * 2 ^ t.bits / 65536) 0
    dsimp only
    split
    · exact hr.trans rfl
    · exact hr

theorem State.fillMicro_memOnly (s : State) (core : Nat) (t : TlbEntry) : MemOnly s (s.fillMicro core t) := ite_both rfl rfl

theorem State.startTlbWalk_memOnly (s : State) (ptb asid va : Nat) : MemOnly s (s.startTlbWalk ptb asid va) :=
  ite_both rfl rfl

theorem State.touchTlb_memOnly (s : State) (p : Party) (va : Nat) : MemOnly s (s.touchTlb p va) := by
  unfold State.touchTlb
  dsimp only
  split
  · rfl
  · exact (s.readTlb_memOnly _).trans (ite_both (State.fillMicro_memOnly _ _ _) rfl)
  · exact (s.detectAll_memOnly _).trans (State.startTlbWalk_memOnly _ _ _ _)

/-! ### The performance of a held instruction (R26) -/

theorem ignoresRegs_phase : IgnoresRegs Context.phase := ⟨⟨fun _ _ => rfl, fun _ _ => rfl⟩, fun _ _ _ _ => rfl⟩

@[simp] theorem resumed_act (s : State) : (resumed s).act = s.act := rfl

section

variable {s t : State} {i : Instr} {perform : State → Perf}

/-- A held instruction whose performance is done leaves its context at the next block. -/
theorem State.exposed_of_kept (hheld : Held s i) (h : perform (resumed s) = .done t)
    (hkept : Keeps Context.phase (resumed s) t) (checks : State → Chk Unit) : s.exposed i checks perform = finished t :=
  State.exposed_of_held hheld h (hkept.me.trans (congrArg Context.phase (resumed_me s))) checks

/-- A held instruction that cannot be performed yet stays held. -/
theorem State.exposed_of_later (hheld : Held s i) (h : perform (resumed s) = .later t) (checks : State → Chk Unit) :
    s.exposed i checks perform = t.setMe { t.me with phase := .exposed i } := by
  obtain ⟨hphase, hwalks⟩ := hheld
  have hrun : s.onMe (fun c => { c with phase := .fetch, snap := some s.me.view }) = resumed s := by
    unfold State.onMe resumed
    dsimp only
    rw [hwalks]
  unfold State.exposed
  dsimp only
  rw [if_pos hphase, hrun, if_neg (by simp [resumed]), h]
  rfl

end

/-- A held access that finds its words goes on with them (R177). -/
theorem State.performAccess_of_ok {s s1 : State} {q : AccessReq} {acc : Access} (h : s.heldAccess q = .ok s1 acc)
    (k : State → Access → Perf) : s.performAccess q k = k s1 acc := by
  unfold State.performAccess
  rw [h]

theorem State.heldAccess_kept {α : Type} {e : Context → α} (he : IgnoresRegs e) {s0 s s1 : State} {q : AccessReq} {acc : Access}
    (hok : s.heldAccess q = .ok s1 acc) (h : Keeps e s0 s) : Keeps e s0 s1 := by
  have hk := State.heldAccess_keeps (q := q) he h
  rwa [hok] at hk

end Sys2Proof.Machine
end


section
/-!
PROOFS of O17: the first checks of an access. A check that passes has passed each of its steps, in their order
(`State.checkAccess_inv`), the firewall among those of its span (`State.checkSpan_permits`).
-/

namespace Sys2Proof.Machine

open Claims

set_option Elab.async false

/-! ### Addresses (R147) -/

/-- An address is canonical when its bits from 56 on are equal. -/
theorem canonical_iff (va : Word) : canonical va = true ↔ ∀ k, 57 ≤ k → k < 64 → va.getLsbD k = va.getLsbD 56 := by
  have hbit : ∀ i, i < 8 → (va.extractLsb' 56 8).getLsbD i = va.getLsbD (56 + i) := fun i hi => by
    rw [BitVec.getLsbD_extractLsb', decide_eq_true hi, Bool.true_and]
  unfold canonical
  rw [Bool.or_eq_true, beq_iff_eq, beq_iff_eq]
  constructor
  · rintro h k hk hlt
    obtain ⟨i, rfl⟩ : ∃ i, k = 56 + i := ⟨k - 56, by omega⟩
    rw [← hbit i (by omega), ← hbit 0 (by decide)]
    obtain h | h := h <;> rw [h]
    · simp
    · have : i < 8 := by omega
      interval_cases i <;> rfl
  · intro h
    have hall : ∀ i, i < 8 → (va.extractLsb' 56 8).getLsbD i = va.getLsbD 56 := fun i hi => by
      rw [hbit i hi]
      obtain rfl | hpos := Nat.eq_zero_or_pos i
      · rfl
      · exact h _ (by omega) (by omega)
    cases hb : va.getLsbD 56 with
    | false =>
      refine .inl (BitVec.eq_of_getLsbD_eq fun i hi => ?_)
      rw [hall i hi, hb, BitVec.ofNat_eq_ofNat, BitVec.getLsbD_zero]
    | true =>
      refine .inr (BitVec.eq_of_getLsbD_eq fun i hi => ?_)
      rw [hall i hi, hb]
      interval_cases i <;> rfl

/-! ### The steps of a check that passes (R151, R455) -/

/-- A check that passes answers x. -/
def Chk.Answers {β : Type} (x : β) : Chk β → Prop
  | .ok _ y => y = x
  | .fault _ _ _ _ => True
  | .wait => True

/-- A span that passes its checks is one that the firewall permits as the page is found. -/
theorem State.checkSpan_permits {s s1 : State} {p : Party} {q : AccessReq} {tval2 : Word} {l : Leaf}
    (h : s.checkSpan p q tval2 = .ok s1 l) :
    (s.touchTlb p (q.va.toNat % 2 ^ 57)).firewallDenies p l.pa q.size q.need = false := by
  unfold State.checkSpan at h
  generalize s.touchTlb p (q.va.toNat % 2 ^ 57) = t at h ⊢
  generalize State.seLeaf = seLeaf at h
  generalize State.absentAt = absentAt at h
  generalize State.windowDenied = windowDenied at h
  generalize State.checkData = checkData at h
  dsimp only at h
  split at h
  next => cases h
  next l' _ =>
    split at h
    next => cases h
    next =>
      split at h
      next => cases h
      next hdenied =>
        rw [Bool.or_eq_true, not_or, Bool.not_eq_true, Bool.not_eq_true] at hdenied
        have hl : l = seLeaf t l' := by
          have hanswers : Chk.Answers (seLeaf t l') (Chk.ok s1 l) := by
            rw [← h]
            refine ite_both trivial (ite_both trivial (ite_both trivial (ite_both rfl (ite_both trivial (ite_both ?_ rfl)))))
            split
            · rfl
            · trivial
            · trivial
          exact hanswers
        rw [hl]
        exact hdenied.2

/-- What the checks of an access have found when they pass (R151): an address that is canonical and aligned, for a reference
an object whose body covers the access, and a span whose checks pass after those of the header. -/
theorem State.checkAccess_inv {s s1 : State} {p : Party} {q : AccessReq} {acc : Access} (h : s.checkAccess p q = .ok s1 acc) :
    canonical q.va = true ∧ q.va.toNat % q.align = 0 ∧ acc.va = q.va ∧
    (q.base.tag = true → ∃ hdr, acc.hdr = some (q.base.val, hdr) ∧ inBody q.base.val hdr q.va q.size = true) ∧
    (q.base.tag = false → acc.hdr = none ∧ ∃ l, s.checkSpan p q 0 = .ok s1 l ∧ acc.pa = l.pa) := by
  unfold State.checkAccess at h
  dsimp only at h
  split at h
  next => cases h
  next hcanonical =>
  split at h
  next => cases h
  next halign =>
  rw [Bool.not_eq_true', Bool.not_eq_false] at hcanonical
  rw [bne_iff_ne, not_not] at halign
  refine ⟨hcanonical, halign, ?_⟩
  split at h
  next htag =>
    split at h
    next => cases h
    next => cases h
    next hdr hpa _ =>
      split at h
      next => cases h
      next => cases h
      next => cases h
      next =>
        split at h
        next => cases h
        next hbody =>
          rw [Bool.not_eq_true', Bool.not_eq_false] at hbody
          split at h
          next => cases h
          next => cases h
          next =>
            cases h
            exact ⟨rfl, fun _ => ⟨hdr, rfl, hbody⟩, fun hraw => absurd htag (ne_true_of_eq_false hraw)⟩
  next htag =>
    split at h
    next => cases h
    next => cases h
    next l hspan =>
      cases h
      exact ⟨rfl, fun href => absurd href htag, fun _ => ⟨rfl, l, hspan, rfl⟩⟩

/-- A region of the firewall permits an access where it does not deny it (R455). -/
theorem State.permits_of_not_denied {s : State} {p : Party} {pa size : Nat} {need : Need}
    (h : s.firewallDenies p pa size need = false) (hcontrol : Config.controlCore p.core = true)
    (hpriv : (s.ctxOf p.core p.ctx).priv ≠ 2) :
    ∃ f ∈ s.dev.firewall.take 16, f.base ≤ pa ∧ pa + size ≤ f.base + f.size ∧
      (need = .read → f.rd = true) ∧ (need = .write → f.wr = true) ∧ (need = .both → f.rd = true ∧ f.wr = true) := by
  unfold State.firewallDenies at h
  rw [hcontrol, decide_eq_true hpriv, Bool.true_and, Bool.true_and, Bool.not_eq_false', List.any_eq_true] at h
  obtain ⟨f, hf, hpermits⟩ := h
  unfold FwRegion.permits at hpermits
  rw [Bool.and_eq_true, Bool.and_eq_true, decide_eq_true_eq, decide_eq_true_eq] at hpermits
  obtain ⟨⟨hbase, hend⟩, hneed⟩ := hpermits
  refine ⟨f, hf, hbase, hend, ?_⟩
  cases need <;> simp_all

/-- Settles O17: the checks in their order, and what a check that passes has found. -/
theorem accessCheckOrder : Obligations.AccessCheckOrder := by
  intro s p q h
  refine ⟨fun hva => ?_, fun hva halign => ?_, fun s1 acc hok => ?_, fun s1 acc hok htag hcontrol hpriv => ?_⟩
  · have hcanonical : canonical q.va = false := Bool.eq_false_iff.mpr (mt (canonical_iff q.va).mp hva)
    unfold State.checkAccess
    dsimp only
    rw [if_pos (by rw [hcanonical]; rfl)]
  · have hcanonical : canonical q.va = true := (canonical_iff q.va).mpr hva
    unfold State.checkAccess
    dsimp only
    rw [if_neg (by rw [hcanonical]; decide), if_pos (bne_iff_ne.mpr halign)]
  · obtain ⟨-, halign, hva, href, hraw⟩ := State.checkAccess_inv hok
    refine ⟨hva, halign, fun htag => ?_, fun htag => (hraw htag).1⟩
    obtain ⟨hdr, hhdr, hbody⟩ := href htag
    unfold inBody at hbody
    dsimp only at hbody
    rw [Bool.and_eq_true, decide_eq_true_eq, decide_eq_true_eq] at hbody
    exact ⟨hdr, hhdr, hbody⟩
  · obtain ⟨-, -, -, -, hraw⟩ := State.checkAccess_inv hok
    obtain ⟨-, l, hspan, hpa⟩ := hraw htag
    rw [hpa, ← (s.touchTlb_memOnly p (q.va.toNat % 2 ^ 57)).dev]
    refine State.permits_of_not_denied (State.checkSpan_permits hspan) hcontrol ?_
    rwa [(s.touchTlb_memOnly p (q.va.toNat % 2 ^ 57)).ctxOf]

end Sys2Proof.Machine
end

section
/-!
PROOFS of O18: lda and stl, as their held instruction is performed.
-/

namespace Sys2Proof.Machine

open Claims

set_option Elab.async false

/-- Settles O18: once the access finds its words, lda loads and acquires, and stl hands its bytes to the port. -/
theorem orderedAccessResults : Obligations.OrderedAccessResults := by
  intro s z sc d a off n base va k
  have hsize : wordSize z = n := by cases z <;> rfl
  have hscope : scopeNo sc = k := by cases sc <;> rfl
  have hva : effAddr base.val off (wordSize z) = va := by rw [effAddr_eq_ea, hsize]
  refine ⟨fun hheld s1 acc hok => ⟨_, congrArg goes ?_, rfl⟩, fun hheld s1 acc hok => ⟨_, congrArg goes ?_, rfl⟩⟩
  · have hkept := State.heldAccess_kept ignoresRegs_phase hok (Keeps.refl _ _)
    have hvalue : ∀ bs : List Byte, (if z = .w then sextLow 32 (BitVec.ofNat 64 (valueLE bs)) else BitVec.ofNat 64 (valueLE bs)) =
        if z = .w then sxBytes bs 4 else BitVec.ofNat 64 (valueLE bs) := fun bs => by rw [sxBytes_eq bs 4 (by decide)]
    rw [hva, hsize, hscope]
    refine State.exposed_of_kept hheld ?_
      (committed_keeps ignoresRegs_phase (State.acquire_keeps (State.loadSpan_keeps ignoresRegs_phase hkept))) _
    refine (State.performAccess_of_ok hok _).trans ?_
    dsimp only
    rw [hvalue]
    rfl
  · have hkept := State.heldAccess_kept ignoresRegs_phase hok (Keeps.refl _ _)
    rw [hva, hsize, hscope]
    refine State.exposed_of_kept hheld ?_ (State.portStore_keeps ignoresRegs_phase.toIgnoresPort hkept) _
    exact State.performAccess_of_ok hok _

end Sys2Proof.Machine
end

section
/-!
PROOFS of O20: atomics. Every form but the posted one is `State.atomic` performed (`State.atomic_of_held`), with the new
value that its operation names (`amoValue_eq`); a posted one is a write that comes to the port. At a word of a scratch
the read-modify-write is a read and a write at its home.
-/

namespace Sys2Proof.Machine

open Claims

set_option Elab.async false

/-! ### Atomics as they are performed (R165..R168) -/

/-- A write of the context that its core's port holds. -/
theorem State.heldAny_eq_false {s : State} {core ctx : Nat} (h : ∀ g ∈ (s.core core).wq, g.ctx = ctx → g.atPort = false) :
    s.heldAny core ctx = false := by
  unfold State.heldAny
  rw [List.any_eq_false]
  intro g hg hheld
  rw [Bool.and_eq_true, beq_iff_eq] at hheld
  exact absurd hheld.1 (ne_true_of_eq_false (h g hg hheld.2))

/-- An atomic whose release is complete and whose context holds no write at the port is performed (R168, R333). -/
theorem State.atomic_of_held {s s1 s2 : State} {i : Instr} {d : RegNo} {q : AccessReq} {sc : Nat} {acc : Access} (hheld : Held s i)
    (hrelease : ((resumed s).pushWrites s.act.core s.act.ctx 0).release s.act.core s.act.ctx sc = (s1, true))
    (hport : ∀ g ∈ (s1.core s.act.core).wq, g.ctx = s.act.ctx → g.atPort = false) (hok : s1.heldAccess q = .ok s2 acc)
    (f : Nat → Option Nat) (fin : Nat → Word) :
    s.atomic i d q sc f fin =
      let o := acc.pa % 8
      let m := s2.rmw s.act.core s2.act.ctx (acc.pa / 8) (s2.atomicPriv acc) sc
        (fun old => (f (subWord old o q.size)).map (fun v => placeWord v o q.size))
      finished (committed (if sc = 0 then m.1 else m.1.acquire s.act.core sc)
        [.g d.toNat { val := fin (subWord m.2 o q.size), tag := false }]) := by
  have hpushed : Keeps Context.phase (resumed s) ((resumed s).pushWrites s.act.core s.act.ctx 0) :=
    State.pushWrites_keeps ignoresRegs_phase (Keeps.refl _ _)
  have hreleased : Keeps Context.phase (resumed s) s1 := by
    have h := State.release_keeps ignoresRegs_phase (core := s.act.core) (ctx := s.act.ctx) (scope := sc) hpushed
    rwa [hrelease] at h
  have hkept := State.heldAccess_kept ignoresRegs_phase hok hreleased
  unfold State.atomic
  dsimp only
  refine State.exposed_of_kept hheld ?_ (committed_keeps ignoresRegs_phase ?_) _
  · rw [resumed_act, hrelease]
    dsimp only
    rw [if_neg (by rw [State.heldAny_eq_false hport]; decide)]
    exact State.performAccess_of_ok hok _
  · have hrmw := State.rmw_keeps ignoresRegs_phase (core := s.act.core) (ctx := s2.act.ctx) (w := acc.pa / 8) (scope := sc)
      (priv := s2.atomicPriv acc)
      (f := fun old => (f (subWord old (acc.pa % 8) q.size)).map (fun v => placeWord v (acc.pa % 8) q.size)) hkept
    exact ite_both hrmw (State.acquire_keeps hrmw)

/-- The write of a posted atomic (R165). -/
def postedFlight (s : State) (acc : Access) (op : AmoOp) (n v : Nat) : Flight where
  id := 0
  ctx := s.act.ctx
  obj := acc.obj
  va := acc.va.toNat % 2 ^ 57
  asid := (resumed s).party.asid
  amo := some (op, n, v)
  reads := true
  write := { word := acc.pa / 8, mask := BitVec.ofNat 8 ((2 ^ n - 1) * 2 ^ (acc.pa % 8)), val := 0 }

/-- An atomic without a result comes to the port with the access that its block's checks found (R165). -/
theorem State.amoPost_of_held {s : State} {i : Instr} {q : AccessReq} {acc : Access} (hheld : Held s i)
    (hacc : (resumed s).me.acc = some acc) (op : AmoOp) (v : Nat) :
    s.amoPost i op q v = finished ((resumed s).portEnter s.act.core (postedFlight s acc op q.size v)) := by
  unfold State.amoPost
  refine State.exposed_of_kept hheld ?_ (State.portEnter_keeps_of_regs ignoresRegs_phase (Keeps.refl _ _)) _
  simp only [hacc]
  rfl

/-! ### The operations (R165, R166) -/

theorem signedOf_eq_toInt (n x : Nat) : signedOf n x = (BitVec.ofNat n x).toInt := by
  rw [← signedOf_toNat, BitVec.toNat_ofNat]
  unfold signedOf
  rw [Nat.mod_mod]

theorem sextLow_ofNat (x : Nat) : sextLow 32 (BitVec.ofNat 64 x) = BitVec.ofInt 64 (BitVec.ofNat 32 x).toInt := by
  unfold sextLow
  rw [BitVec.setWidth_ofNat_of_le (by decide)]
  rfl

/-- The operations of an atomic, with the signed comparisons those of n-bit words. -/
theorem amoValue_eq (op : AmoOp) (n old v : Nat) :
    amoValue op n old v = match op with
      | .add => (old + v) % 2 ^ n
      | .and => old &&& v
      | .or => old ||| v
      | .xor => old ^^^ v
      | .smin => if (BitVec.ofNat n old).slt (BitVec.ofNat n v) then old else v
      | .smax => if (BitVec.ofNat n old).slt (BitVec.ofNat n v) then v else old
      | .umin => min old v
      | .umax => max old v
      | .swap => v
      | .faddS => (fp32.fadd {} (fp32.decode old) (fp32.decode v)).bits
      | .faddBf2 => (bf16.fadd {} (bf16.decode (old % 65536)) (bf16.decode (v % 65536))).bits +
          65536 * (bf16.fadd {} (bf16.decode (old / 65536)) (bf16.decode (v / 65536))).bits := by
  cases op with
  | smin => simp only [amoValue, signedOf_eq_toInt, BitVec.slt, decide_eq_true_eq]
  | smax => simp only [amoValue, signedOf_eq_toInt, BitVec.slt, decide_eq_true_eq]
  | add | and | or | xor | umin | umax | swap | faddS | faddBf2 => rfl

theorem atomicEffects : AtomicEffects := by
  intro s op o d a b c k base x y f32 b16 new q rule posted
  have hk : ordNo o = k := by cases o <;> rfl
  have hnew : ∀ n old v, amoValue op n old v = new n old v := fun n old v =>
    (amoValue_eq op n old v).trans (by cases op <;> rfl)
  have hrule : ∀ i n scope f res, exec i s = goes (s.atomic i d (q n) scope f res) → rule i n scope f res := by
    intro i n scope f res hexec hheld s1 s2 acc hrelease hport hok
    exact ⟨_, hexec, State.atomic_of_held hheld hrelease hport hok f res⟩
  have hposted : ∀ i n v, exec i s = goes (s.amoPost i op (q n) v) → posted i n v := by
    intro i n v hexec hheld acc hacc
    exact hexec.trans (congrArg goes (State.amoPost_of_held (q := q n) hheld hacc op v))
  clear_value rule posted
  refine ⟨fun hpost => ⟨hposted _ _ _ ?_, hposted _ _ _ ?_⟩, fun hfetch => hrule _ _ _ _ _ ?_,
    fun hfetch _ _ => hrule _ _ _ _ _ ?_, hrule _ _ _ _ _ ?_, hrule _ _ _ _ _ ?_⟩
  · show execAmoW op o d a b s = _
    unfold execAmoW
    dsimp only
    rw [if_pos hpost]
    rfl
  · show execAmoD op o d a b s = _
    unfold execAmoD
    dsimp only
    rw [if_pos hpost]
    rfl
  · show execAmoW op o d a b s = _
    unfold execAmoW
    simp only [if_neg hfetch, hk, hnew, sextLow_ofNat]
    rfl
  · show execAmoD op o d a b s = _
    unfold execAmoD
    simp only [if_neg hfetch, hk, hnew]
    rfl
  · show execCasW d a b c s = _
    unfold execCasW
    simp only [sextLow_ofNat]
    rfl
  · rfl

/-! ### At a word of a scratch (R168) -/

/-- Bytes merged into a word of storage: those that the mask names, and no other. -/
theorem memGet_putBytes_merge {s : State} (hwf : s.memWf) (hshadow : s.NoShadow) (w : Nat) (new : Word) (mask : BitVec 8) (a : Nat) :
    memGet (s.putBytes (8 * w) (bytesLE 8 (mergeBytes (s.homeWord w).val new mask).toNat)).mem.bytes a =
      if a / 8 = w ∧ mask.getLsbD (a % 8) = true then new.extractLsb' (8 * (a % 8)) 8 else memGet s.mem.bytes a := by
  rw [memGet_putBytes _ _ _ _ hwf, bytesLE_getElem?]
  by_cases hin : a / 8 = w
  · obtain ⟨i, hi, rfl⟩ : ∃ i, i < 8 ∧ a = 8 * w + i := ⟨a % 8, Nat.mod_lt _ (by decide), by omega⟩
    have hoffset : 8 * w + i - 8 * w = i := by omega
    have hlane : (8 * w + i) % 8 = i := by omega
    rw [if_neg (by omega), hoffset, hlane, if_pos hi, Option.getD_some, mergeBytes_byte _ _ _ _ hi, s.homeWord_byte hshadow w i hi]
    simp [hin]
  · have hout : ¬ (a / 8 = w ∧ mask.getLsbD (a % 8) = true) := fun h => hin h.1
    rw [if_neg hout]
    split
    · rfl
    · rw [if_neg (by omega), Option.getD_none]

/-- A write of a word in which no error waits changes the bytes that its mask names, and no other. -/
theorem State.memGet_homeWrite_of_clean {s : State} {x : WordWrite} (hwf : s.memWf) (hshadow : s.NoShadow)
    (hdetect : s.detect x.word = s) (a : Nat) :
    memGet (s.homeWrite x).mem.bytes a =
      if a / 8 = x.word ∧ x.mask.getLsbD (a % 8) = true then x.val.extractLsb' (8 * (a % 8)) 8
      else memGet s.mem.bytes a := by
  unfold State.homeWrite
  rw [hdetect]
  extract_lets full m t v u tagged
  obtain ⟨htwf, htshadow, htbytes⟩ : t.memWf ∧ t.NoShadow ∧ t.mem.bytes = s.mem.bytes :=
    ite_both (motive := fun t : State => t.memWf ∧ t.NoShadow ∧ t.mem.bytes = s.mem.bytes)
      ⟨hwf, hshadow.of_dev rfl, rfl⟩ ⟨hwf, hshadow, rfl⟩
  clear_value t
  rw [← htbytes]
  exact memGet_putBytes_merge htwf htshadow x.word x.val x.mask a

/-- A word of a scratch is written at its port. -/
theorem State.portPut_of_scratch {s : State} {x : WordWrite} {c off : Nat} (hscratch : s.region (8 * x.word) = .scratch c off)
    (core ctx : Nat) : s.portPut core ctx x = s.homeWrite x := by
  generalize hput : @State.portPut = put
  delta State.portPut at hput
  subst hput
  beta_reduce
  rw [hscratch]

section

variable {s : State} {w c off : Nat} (hscratch : s.region (8 * w) = .scratch c off)
include hscratch

/-- A word of a scratch is read at its port. -/
theorem State.loadWord_of_scratch {core ctx : Nat} (hdetect : s.detect w = s) (hheld : ∀ y ∈ (s.core core).heldWrites ctx, y.word ≠ w)
    (obj : Bool) : s.loadWord core ctx w obj = (s, s.homeWord w) := by
  have hread : s.homeRead w = (s, s.homeWord w) := by
    unfold State.homeRead
    rw [hdetect]
  generalize hr : s.loadWord core ctx w obj = r
  unfold State.loadWord at hr
  rw [hscratch] at hr
  have hport : ¬ (Region.scratch c off).cached = true := Bool.false_ne_true
  dsimp only at hr
  rw [← hr, if_neg hport, hread, overlay_of_absent _ hheld]

/-- A read-modify-write at a word of a scratch. -/
theorem State.rmw_of_scratch {core ctx : Nat} (hdetect : s.detect w = s) (hheld : ∀ y ∈ (s.core core).heldWrites ctx, y.word ≠ w)
    (scope : Nat) (f : Word → Option (Word × BitVec 8)) :
    s.rmw core ctx w false scope f = (match f (s.homeWord w).val with
      | none => s
      | some (v, mask) => s.homeWrite { word := w, mask := mask, val := v, tag := false }, (s.homeWord w).val) := by
  generalize hr : s.rmw core ctx w false scope f = r
  unfold State.rmw at hr
  rw [hscratch, State.loadWord_of_scratch hscratch hdetect hheld] at hr
  have hport : ¬ ((Region.scratch c off).cached && !false) = true := Bool.false_ne_true
  dsimp only at hr
  rw [← hr, if_neg hport]
  cases f (s.homeWord w).val with
  | none => rfl
  | some x => exact congrArg (·, (s.homeWord w).val) (State.portPut_of_scratch (x := { word := w, mask := x.2, val := x.1, tag := false }) hscratch core ctx)

end

theorem atomicAtScratch : AtomicAtScratch := by
  intro s core ctx w c off scope f hwf hscratch hlatent herr hshadow hport m
  have hdetect : s.detect w = s := State.detect_of_clean hlatent herr
  have hheld : ∀ y ∈ (s.core core).heldWrites ctx, y.word ≠ w := by
    intro y hy
    obtain ⟨g, hg, rfl⟩ := List.mem_map.mp hy
    obtain ⟨hmem, hat⟩ := List.mem_filter.mp hg
    rw [Bool.and_eq_true, beq_iff_eq] at hat
    exact hport g hmem hat.1 hat.2
  have hm : m = _ := State.rmw_of_scratch hscratch hdetect hheld scope f
  clear_value m
  subst hm
  refine ⟨rfl, fun hnone => ?_, fun v mask hsome a => ?_⟩
  · dsimp only at hnone ⊢
    rw [hnone]
  · dsimp only at hsome ⊢
    rw [hsome]
    exact State.memGet_homeWrite_of_clean (x := { word := w, mask := mask, val := v, tag := false }) hwf hshadow hdetect a

/-- Settles O20: atomics as they are performed, and a read-modify-write at a word of a scratch. -/
theorem atomicResults : Obligations.AtomicResults := ⟨atomicEffects, atomicAtScratch⟩

end Sys2Proof.Machine
end

section
/-!
PROOFS of O19 and O22: references and mkobj, whose stores take an entry of the store buffer as a plain store's does
(`State.storeInstr_of_room`).
-/

namespace Sys2Proof.Machine

open Claims

set_option Elab.async false

/-- The entry of a store whose access check passes (R155, R156). -/
def storeEntry (s : State) (q : AccessReq) (acc : Access) (bs : List Byte) (tag : Bool) : StoreReq where
  writes := wordWrites acc.pa bs tag
  va := q.va.toNat % 2 ^ 57
  asid := s.party.asid
  obj := acc.obj
  glob := acc.entry.getLsbD 6

/-- A store of a whole word whose checks pass takes an entry of the store buffer (R155, R156). -/
theorem State.storeInstr_of_room {s s1 : State} {q : AccessReq} {acc : Access} (hok : s.checkAccess s.party q = .ok s1 acc)
    (hroom : s1.me.stores.length < 32) {bs : List Byte} (hbs : bs.length = 8) (tag : Bool) (more : State → StoreReq → StoreReq) :
    s.storeInstr q bs tag more =
      s1.setMe { s1.me with stores := s1.me.stores ++ [more s1 (storeEntry s1 q acc bs tag)] } := by
  unfold State.storeInstr
  rw [hok]
  unfold State.checked
  dsimp only
  rw [if_neg (by omega)]
  dsimp only
  rw [if_neg (by omega)]
  rfl

theorem State.setMe_setMe (s : State) (x y : Context) : (s.setMe x).setMe y = s.setMe y := s.setCtx_setCtx _ _ _ _

theorem bytesLE_length (n x : Nat) : (bytesLE n x).length = n := by
  simp [bytesLE]

theorem field_eq_div (x hi lo : Nat) : field x hi lo = x / 2 ^ lo % 2 ^ (hi + 1 - lo) := by
  rw [field, Nat.shiftRight_eq_div_pow]

/-! ### ldref (R161) -/

theorem referenceLoadResults : ReferenceLoadResults := by
  intro s o d a off s1 acc base k hok r tag u
  have hk : ordNo o = k := by cases o <;> rfl
  have hva : effAddr base.val off 8 = ea base.val off 8 := effAddr_eq_ea _ _ _
  refine ⟨_, ?_, rfl⟩
  show execLdref o d a off s = _
  unfold execLdref
  dsimp only
  rw [hva]
  refine congrArg goes ((congrArg (fun c => s.checked c _) hok).trans ?_)
  unfold State.checked
  dsimp only
  rw [hk]
  have htag : tag = (r.2.2 && (match acc.hdr with
      | some h => field h.2.toNat 29 28 == 1
      | none => true)) := by
    unfold tag
    cases acc.hdr with
    | none => rfl
    | some h => exact congrArg (fun n : Nat => r.2.2 && n == 1) (field_eq_div _ 29 28).symm
  rw [htag]
  by_cases ho : o = .rlx
  · have hu : u = r.1 := if_pos ho
    rw [hu, if_pos ho, if_pos ho, State.long_eq, decide_eq_false (not_not.mpr ho), Bool.or_false] <;> rfl
  · have hu : u = r.1.acquire s1.act.core k := if_neg ho
    rw [hu, if_neg ho, if_neg ho, State.long_eq, State.onMe, State.setMe_setMe, State.me_setMe, decide_eq_true ho,
      Bool.or_true] <;> rfl

/-! ### stref (R162..R164, R361) -/

theorem State.checked_ok {α : Type} (s s1 : State) (x : α) (k : State → α → State) : s.checked (.ok s1 x) k = k s1 x := rfl

theorem referenceStoreResults : ReferenceStoreResults := by
  intro s o d a off s1 s2 acc acc' base x va q k flat put hok
  have hk : ordNo o = k := by cases o <;> rfl
  have hva : effAddr base.val off 8 = va := effAddr_eq_ea _ _ _
  have hput : ∀ (u u' : State) (a' : Access) (pub : Option (Nat × Nat)), u.checkAccess u.party q = .ok u' a' →
      u'.me.stores.length < 32 → u.storeInstr q (bytesLE 8 x.val.toNat) x.tag (fun _ st => { st with rel := k, pub := pub }) =
        put u' a' pub :=
    fun u u' a' pub hpass hroom => State.storeInstr_of_room hpass hroom (bytesLE_length _ _) _ _
  have hflat : (match acc.hdr with
      | some w => field w.2.toNat 29 28 != 1 || !s1.hasTags acc.pa
      | none => !s1.hasTags acc.pa) = flat := by
    unfold flat
    cases acc.hdr with
    | none => exact (Bool.false_or _).symm
    | some h => exact congrArg (fun n : Nat => n != 1 || !s1.hasTags acc.pa) (field_eq_div _ 29 28)
  have hexec : ∀ t, (if !x.tag then s1.storeInstr q (bytesLE 8 x.val.toNat) x.tag (fun _ st => { st with rel := k, pub := none })
      else if flat then s1.trapMe (memCause .tag .store) va (if base.tag then base.val else 0)
      else s1.checked (s1.escapes s1.party x.val (s1.destOf acc)) (fun s3 esc =>
        if !esc then s3.storeInstr q (bytesLE 8 x.val.toNat) x.tag (fun _ st => { st with rel := k, pub := none })
        else if s3.me.autopub then s3.storeInstr q (bytesLE 8 x.val.toNat) x.tag
          (fun _ st => { st with rel := k, pub := some (x.val.toNat, (s3.destOf acc).pubScope) })
        else s3.trapMe Cause.refEscape va x.val)) = t → exec (.stref o d a off) s = goes t := by
    rintro t rfl
    show execStref o d a off s = _
    unfold execStref
    dsimp only
    rw [hva, hk]
    refine congrArg goes ((congrArg (fun c => s.checked c _) hok).trans ?_)
    rw [State.checked_ok, ← hflat]
    rfl
  refine ⟨fun htag hpass hroom => hexec _ ?_, fun htag hf => hexec _ ?_, fun htag hf s3 esc hesc =>
    ⟨fun hescapes hauto => hexec _ ?_, fun hescapes hauto hpass hroom => hexec _ ?_, fun hstays hpass hroom => hexec _ ?_⟩⟩
  · rw [if_pos (by rw [htag]; rfl)]
    exact hput _ _ _ _ hpass hroom
  · rw [if_neg (by rw [htag]; decide), if_pos hf]
  · rw [if_neg (by rw [htag]; decide), if_neg (ne_true_of_eq_false hf), hesc, State.checked_ok, hescapes, hauto]
    rfl
  · rw [if_neg (by rw [htag]; decide), if_neg (ne_true_of_eq_false hf), hesc, State.checked_ok, hescapes, hauto]
    exact hput _ _ _ _ hpass hroom
  · rw [if_neg (by rw [htag]; decide), if_neg (ne_true_of_eq_false hf), hesc, State.checked_ok, hstays]
    exact hput _ _ _ _ hpass hroom

/-- Settles O19: ldref binds the word with its tag, and stref takes a store-buffer entry once its reference may go there. -/
theorem referenceResults : Obligations.ReferenceResults := ⟨referenceLoadResults, referenceStoreResults⟩

/-! ### mkobj (R153) -/

/-- Settles O22: mkobj's refusals in their order, and the header's entry of the store buffer. -/
theorem makeObjectResults : Obligations.MakeObjectResults := by
  intro s k d a b x n kind
  have hexec : exec (.mkobj k d a b) s = execMkobj k d a b s := rfl
  unfold execMkobj at hexec
  dsimp only at hexec
  rw [hexec]
  refine ⟨fun htag => ?_, fun htag halign => ?_, fun htag halign hlen => ?_, fun htag halign hpos hlt hphase s1 s2 acc hpages hok hbody hroom => ?_⟩
  · rw [if_pos htag]
  · rw [if_neg (ne_true_of_eq_false htag), if_pos halign]
  · rw [if_neg (ne_true_of_eq_false htag), if_neg (not_not.mpr halign), if_pos hlen]
  · have hlen : ¬ (n = 0 ∨ 2 ^ 28 ≤ n) := by omega
    rw [if_neg (ne_true_of_eq_false htag), if_neg (not_not.mpr halign), if_neg hlen]
    have hobj : acc.obj = none := by
      obtain ⟨-, -, -, -, hraw⟩ := State.checkAccess_inv hok
      rw [Access.obj, (hraw rfl).1]
      rfl
    have hput := fun more => State.storeInstr_of_room hok hroom
      (bytesLE_length 8 (n + 2 ^ 28 * objKindNo k + 2 ^ 33 * ownerOf s1.act.core s1.act.ctx)) false more
    let st : StoreReq := { storeEntry s2 (storeOf { val := x.val } x.val 8) acc
        (bytesLE 8 (n + 2 ^ 28 * objKindNo k + 2 ^ 33 * ownerOf s1.act.core s1.act.ctx)) false with
      clear := if k = .mixed then s1.wordsAt (x.val.toNat + 8) n else []
      body := s2.rangesAt (x.val.toNat + 8) n }
    refine ⟨_, st, congrArg goes ((congrArg (fun c => s.checked c _) hpages).trans ?_), rfl, ?_, rfl, hobj, rfl, ?_, ?_⟩
    · rw [State.checked_ok]
      dsimp only
      refine (congrArg (fun t : State => if t.me.phase = .body then t.long _ else t) (hput _)).trans ?_
      rw [State.me_setMe, if_pos hbody, State.long_eq, State.setMe_setMe, State.me_setMe]
    · have hkind : objKindNo k = kind := by cases k <;> rfl
      have howner : ownerOf s1.act.core s1.act.ctx = 32 * s1.act.core + s1.act.ctx := by rw [ownerOf, Nat.mul_comm]
      rw [← hkind, ← howner]
      rfl
    · exact fun hk => if_neg hk
    · exact fun hk => if_pos hk

end Sys2Proof.Machine
end

section
/-!
PROOFS of O21: fences, publishing and cache flushes, as their held instruction is performed, and what a write-back leaves.
-/

namespace Sys2Proof.Machine

open Claims

set_option Elab.async false

/-! ### Fences (R169) -/

theorem scopeNo_pos {sc : Scope} (h : sc ≠ .core) : scopeNo sc ≠ 0 := by
  cases sc with
  | core => exact absurd rfl h
  | herd | device | system => decide

section

variable {s : State} {sc : Scope}

theorem exec_fenceFull_of_released (hheld : Held s (.fenceFull sc)) {s1 : State}
    (hrelease : (resumed s).release s.act.core s.act.ctx (scopeNo sc) = (s1, true)) :
    exec (.fenceFull sc) s = goes (finished (s1.acquire s.act.core (scopeNo sc))) := by
  have hkept : Keeps Context.phase (resumed s) s1 := by
    have h := State.release_keeps ignoresRegs_phase (core := s.act.core) (ctx := s.act.ctx) (scope := scopeNo sc)
      (Keeps.refl Context.phase (resumed s))
    rwa [hrelease] at h
  refine congrArg goes (State.exposed_of_kept hheld ?_ (State.acquire_keeps hkept) _)
  dsimp only
  rw [resumed_act, hrelease, if_pos rfl]

theorem exec_fenceAcq (hheld : Held s (.fenceAcq sc)) :
    exec (.fenceAcq sc) s = goes (finished ((resumed s).acquire s.act.core (scopeNo sc))) :=
  congrArg goes (State.exposed_of_kept (t := (resumed s).acquire s.act.core (scopeNo sc)) hheld rfl
    (State.acquire_keeps (Keeps.refl _ _)) _)

theorem exec_fenceRel_core (hheld : Held s (.fenceRel .core)) : exec (.fenceRel .core) s = goes (finished (resumed s)) :=
  congrArg goes (State.exposed_of_kept hheld rfl (Keeps.refl _ _) _)

/-- The entry of a fence.rel at the port (R169). -/
def relFlight (ctx scope : Nat) : Flight := { id := 0, ctx := ctx, write := { word := fenceWord, mask := 0, val := 0 }, rel := scope }

theorem exec_fenceRel (hheld : Held s (.fenceRel sc)) (hsc : sc ≠ .core) :
    exec (.fenceRel sc) s = goes (finished ((resumed s).portEnter s.act.core (relFlight s.act.ctx (scopeNo sc)))) := by
  refine congrArg goes (State.exposed_of_kept hheld (if_neg hsc) ?_ _)
  exact State.portEnter_keeps ignoresRegs_phase.toIgnoresPort rfl (Keeps.refl _ _)

/-- A release that comes to the port stays there until its condition is tested. -/
theorem State.portEnter_release (s : State) (core : Nat) {f : Flight} (h : f.rel ≠ 0) :
    ∃ g, ((s.portEnter core f).core core).wq = (s.core core).wq ++ [g] ∧ g.atPort = true ∧ g.rel = f.rel ∧ g.ctx = f.ctx ∧
      g.id = s.mem.nextId ∧ (s.portEnter core f).mem.bytes = s.mem.bytes := by
  unfold State.portEnter
  extract_lets g m s1 s2
  rw [if_neg h]
  refine ⟨g, ?_, rfl, rfl, rfl, rfl, rfl⟩
  exact congrArg Core.wq (s1.core_onCore core _)

theorem exec_fenceEng_of_done (hheld : Held s (.fenceEng sc)) (hdone : (resumed s).commandsOf s.me.handle = false) :
    exec (.fenceEng sc) s = goes (finished (resumed s)) := by
  refine congrArg goes (State.exposed_of_kept hheld ?_ (Keeps.refl _ _) _)
  rw [resumed_me, if_neg (ne_true_of_eq_false hdone)]

theorem exec_fenceEng_of_running (hheld : Held s (.fenceEng sc)) (hrun : (resumed s).commandsOf s.me.handle = true) :
    exec (.fenceEng sc) s = goes ((resumed s).setMe { (resumed s).me with phase := .exposed (.fenceEng sc) }) := by
  refine congrArg goes (State.exposed_of_later hheld ?_ _)
  rw [resumed_me, if_pos hrun]

theorem resumed_wq (s : State) : ((resumed s).core s.act.core).wq = (s.core s.act.core).wq :=
  Eq.trans (congrArg Core.wq (State.core_setCtx s s.act.core s.act.ctx _) :) rfl

/-! ### Publishing (R170) -/

variable {a b : RegNo}

theorem resumed_herd (s : State) (h : Nat) : (resumed s).herd h = s.herd h := rfl

theorem exec_pub_of_room (hheld : Held s (.pub sc a)) (hroom : (s.herd (herdOfCore s.act.core)).walks.length < 16) :
    exec (.pub sc a) s =
      goes (finished ((resumed s).startWalk s.act.core s.act.ctx (scopeNo sc) (s.me.rgt a).val.toNat).1) := by
  refine congrArg goes (State.exposed_of_kept hheld ?_ (State.startWalk_keeps (Keeps.refl _ _)) _)
  rw [if_neg (by rw [resumed_act, resumed_herd]; omega)]
  rfl

theorem exec_pub_of_full (hheld : Held s (.pub sc a)) (hfull : 16 ≤ (s.herd (herdOfCore s.act.core)).walks.length) :
    exec (.pub sc a) s = goes ((resumed s).setMe { (resumed s).me with phase := .exposed (.pub sc a) }) :=
  congrArg goes (State.exposed_of_later hheld (if_pos hfull) _)

/-- A walk that is queued stands last among those of its herd. -/
theorem State.startWalk_spec (s : State) (core ctx scope root : Nat) :
    ∃ w, ((s.startWalk core ctx scope root).1.herd (herdOfCore core)).walks = (s.herd (herdOfCore core)).walks ++ [w] ∧
      w.root = root ∧ w.scope = scope ∧ w.handle = (s.ctxOf core ctx).handle ∧ w.queue = [root] ∧
      (s.startWalk core ctx scope root).1.mem.bytes = s.mem.bytes := by
  unfold State.startWalk
  extract_lets c id w m s1
  refine ⟨w, ?_, rfl, rfl, rfl, rfl, rfl⟩
  rw [State.herd, State.onHerd, mget_mset_same]
  rfl

/-! ### Cache flushes (R174, R333) -/

/-- The state in which a flush finds the caches: the context's writes have left the port as far as they may. -/
def flushFrom (s : State) : State := (resumed s).pushWrites s.act.core s.act.ctx 0

theorem flushFrom_kept (s : State) : Keeps Context.phase (resumed s) (flushFrom s) :=
  State.pushWrites_keeps ignoresRegs_phase (Keeps.refl _ _)

theorem exec_cflush_of_held (hheld : Held s (.cflush a b)) (hport : (flushFrom s).heldAny s.act.core s.act.ctx = true) :
    exec (.cflush a b) s = goes ((flushFrom s).setMe { (flushFrom s).me with phase := .exposed (.cflush a b) }) := by
  have hact : (flushFrom s).act = s.act := (flushFrom_kept s).1
  refine congrArg goes (State.exposed_of_later hheld ?_ _)
  dsimp only
  rw [resumed_act, ← flushFrom, hact, if_pos hport]

/-- The acting core may be read before a fold over operations that leave the acting party as it is. -/
theorem foldl_act {γ : Type} (f : State → Nat → γ → State) (hf : ∀ t n x, (f t n x).act = t.act) (l : List γ) (v : State) :
    l.foldl (fun t x => f t t.act.core x) v = l.foldl (fun t x => f t v.act.core x) v := by
  induction l generalizing v with
  | nil => rfl
  | cons x l ih => rw [List.foldl_cons, List.foldl_cons, ih, hf]

theorem State.writeBack_act (s : State) (core w : Nat) : (s.writeBack core w).act = s.act :=
  (State.writeBack_keeps (Keeps.refl Context.phase s)).1

theorem exec_cflush (hheld : Held s (.cflush a b)) (hport : (flushFrom s).heldAny s.act.core s.act.ctx = false) :
    exec (.cflush a b) s = goes (finished
      ((((flushFrom s).core s.act.core).l1.filter (fun e => e.2.dirty == some (ownerOf s.act.core s.act.ctx) &&
          inRanges ((flushFrom s).rangesOf (flushStart (s.me.rgt a)).toNat (s.me.rg b).toNat) e.1)).foldl
        (fun v e => v.writeBack s.act.core e.1) (flushFrom s))) := by
  have hact : (flushFrom s).act = s.act := (flushFrom_kept s).1
  refine congrArg goes (State.exposed_of_kept hheld ?_ (foldl_keeps _ (fun _ _ => State.writeBack_keeps) _ _ (flushFrom_kept s)) _)
  dsimp only
  rw [resumed_act, ← flushFrom, hact, if_neg (ne_true_of_eq_false hport),
    foldl_act (fun t n (e : Nat × Copy) => t.writeBack n e.1) (fun t n e => t.writeBack_act n e.1), hact]

theorem exec_cflushInv_of_held (hheld : Held s (.cflushInv a b)) (hport : (flushFrom s).heldAny s.act.core s.act.ctx = true) :
    exec (.cflushInv a b) s = goes ((flushFrom s).setMe { (flushFrom s).me with phase := .exposed (.cflushInv a b) }) := by
  have hact : (flushFrom s).act = s.act := (flushFrom_kept s).1
  refine congrArg goes (State.exposed_of_later hheld ?_ _)
  dsimp only
  rw [resumed_act, ← flushFrom, hact, if_pos hport]

/-- The core with the copies in these ranges discarded that are clean or the context's own. -/
def Core.discard (c : Core) (rs : List (Nat × Nat)) (own : Nat) : Core :=
  { c with l1 := c.l1.filter (fun e => !(inRanges rs e.1 && (e.2.dirty.isNone || e.2.dirty == some own))) }

theorem exec_cflushInv (hheld : Held s (.cflushInv a b)) (hport : (flushFrom s).heldAny s.act.core s.act.ctx = false) :
    exec (.cflushInv a b) s = goes (finished ((flushFrom s).onCore s.act.core (fun c =>
      c.discard ((flushFrom s).rangesOf (flushStart (s.me.rgt a)).toNat (s.me.rg b).toNat) (ownerOf s.act.core s.act.ctx)))) := by
  have hact : (flushFrom s).act = s.act := (flushFrom_kept s).1
  refine congrArg goes (State.exposed_of_kept hheld ?_ (State.onCore_keeps rfl (flushFrom_kept s)) _)
  dsimp only
  rw [resumed_act, ← flushFrom, hact, if_neg (ne_true_of_eq_false hport)]
  rfl

/-- The copies that a cflush.inv leaves. -/
theorem mem_discard (c : Core) (rs : List (Nat × Nat)) (own : Nat) (e : Nat × Copy) :
    e ∈ (c.discard rs own).l1 ↔ e ∈ c.l1 ∧ ¬ (inRanges rs e.1 = true ∧ (e.2.dirty = none ∨ e.2.dirty = some own)) := by
  simp only [Core.discard, List.mem_filter, Bool.not_eq_true', Bool.and_eq_false_iff, Bool.or_eq_false_iff, not_and, not_or,
    and_congr_right_iff, Option.isNone_eq_false_iff, beq_eq_false_iff_ne, ← Option.ne_none_iff_isSome]
  intro _
  cases inRanges rs e.1 <;> simp

end

theorem fenceResults : FenceResults := by
  intro s sc a b k u me x p held rs touches
  have hscope : scopeNo sc = k := by cases sc <;> rfl
  refine ⟨fun hheld s1 hrelease => ⟨_, ?_, rfl⟩, fun hheld => ⟨_, ?_, rfl⟩, fun hheld hsc => ⟨_, ?_, rfl⟩, fun hheld hsc => ?_,
    fun hheld hdone => ⟨_, exec_fenceEng_of_done hheld hdone, rfl⟩, exec_fenceEng_of_running, fun hheld hroom => ?_, exec_pub_of_full,
    exec_cflush_of_held, fun hheld hport => ⟨_, exec_cflush hheld hport, rfl⟩, exec_cflushInv_of_held, fun hheld hport => ?_⟩
  · rw [← hscope] at hrelease ⊢
    exact exec_fenceFull_of_released hheld hrelease
  · rw [← hscope]
    exact exec_fenceAcq hheld
  · subst hsc
    exact exec_fenceRel_core hheld
  · obtain ⟨g, hwq, hat, hrel, hctx, hid, hbytes⟩ := (resumed s).portEnter_release s.act.core
      (f := relFlight s.act.ctx (scopeNo sc)) (scopeNo_pos hsc)
    exact ⟨_, g, exec_fenceRel hheld hsc, hwq.trans (congrArg (· ++ [g]) (resumed_wq s)), hat, hrel.trans hscope, hctx, hid, hbytes⟩
  · obtain ⟨w, hwalks, hroot, hwscope, hhandle, hqueue, hbytes⟩ :=
      (resumed s).startWalk_spec s.act.core s.act.ctx (scopeNo sc) (s.me.rgt a).val.toNat
    exact ⟨_, w, exec_pub_of_room hheld hroom, hwalks, hroot, hwscope.trans hscope, hhandle.trans (congrArg Context.handle (resumed_me s) :),
      hqueue, hbytes⟩
  · refine ⟨_, exec_cflushInv hheld hport, rfl, fun e => ?_⟩
    rw [State.core_onCore]
    exact mem_discard _ _ _ e

end Sys2Proof.Machine
end

section
/-!
SUPPORT. Updates as sharers take them: what a party's acceptances change of the cores, apart from the writes on their way,
which each acceptance may complete.
-/

namespace Sys2Proof.Machine

open Claims

set_option Elab.async false

/-! ### What is compared -/

/-- d is c but for its writes on their way. -/
def Core.ButWq (c d : Core) : Prop := d = { c with wq := d.wq }

/-- t is s but for its cores. -/
def CoresOnly (s t : State) : Prop := t = { s with cores := t.cores }

namespace Core.ButWq

variable {c d e : Core}

theorem trans (h : c.ButWq d) (h' : d.ButWq e) : c.ButWq e := by
  unfold ButWq at h h' ⊢
  rw [h', h]
theorem of_eq (h : d = c) : c.ButWq d := by
  subst h
  rfl
theorem ctxs (h : c.ButWq d) : d.ctxs = c.ctxs := (congrArg Core.ctxs h :)
theorem l1 (h : c.ButWq d) : d.l1 = c.l1 := (congrArg Core.l1 h :)
theorem net (h : c.ButWq d) : d.net = c.net := (congrArg Core.net h :)
theorem inq (h : c.ButWq d) : d.inq = c.inq := (congrArg Core.inq h :)

end Core.ButWq

namespace CoresOnly

variable {s t u : State}

theorem trans (h : CoresOnly s t) (h' : CoresOnly t u) : CoresOnly s u := by
  unfold CoresOnly at h h' ⊢
  rw [h', h]
theorem act (h : CoresOnly s t) : t.act = s.act := (congrArg State.act h :)
theorem agenda (h : CoresOnly s t) : t.agenda = s.agenda := (congrArg State.agenda h :)
theorem herds (h : CoresOnly s t) : t.herds = s.herds := (congrArg State.herds h :)
theorem mem (h : CoresOnly s t) : t.mem = s.mem := (congrArg State.mem h :)
theorem herd (h : CoresOnly s t) (n : Nat) : t.herd n = s.herd n := by
  rw [State.herd, State.herd, h.herds]

end CoresOnly

@[simp] theorem State.core_onHerd (s : State) (h : Nat) (f : Herd → Herd) (n : Nat) : (s.onHerd h f).core n = s.core n := rfl
theorem State.herd_onHerd (s : State) (h : Nat) (f : Herd → Herd) : (s.onHerd h f).herd h = f (s.herd h) := by
  rw [State.herd, State.onHerd, mget_mset_same]

/-! ### Acceptances (R159, R336) -/

theorem State.accepted_coresOnly (s : State) (ids : List Nat) (f : Flight → Flight) : CoresOnly s (s.accepted ids f) :=
  ite_both rfl rfl

theorem State.accepted_core (s : State) (ids : List Nat) (f : Flight → Flight) (n : Nat) :
    (s.core n).ButWq ((s.accepted ids f).core n) := by
  obtain ⟨fs, hcore, -⟩ := s.core_accepted ids f n
  rw [hcore]
  rfl

/-- The core after it has accepted its next n updates. -/
def Core.accept (c : Core) (n : Nat) : Core := { c with net := c.net.drop n, inq := c.inq ++ (c.net.take n).map (·.write) }

theorem State.acceptL1_coresOnly (s : State) (core n : Nat) : CoresOnly s (s.acceptL1 core n) :=
  (show CoresOnly s (s.onCore core _) from rfl).trans (State.accepted_coresOnly _ _ _)

theorem State.core_onCore_other (s : State) {n m : Nat} (f : Core → Core) (h : m ≠ n) : (s.onCore n f).core m = s.core m :=
  State.core_setCore_other s _ h

theorem State.acceptL1_core (s : State) (core n : Nat) : ((s.core core).accept n).ButWq ((s.acceptL1 core n).core core) := by
  refine Core.ButWq.trans (.of_eq ?_) (State.accepted_core _ _ _ core)
  rw [State.core_onCore]
  rfl

theorem State.acceptL1_core_other (s : State) {core m : Nat} (n : Nat) (h : m ≠ core) :
    (s.core m).ButWq ((s.acceptL1 core n).core m) :=
  Core.ButWq.trans (.of_eq (State.core_onCore_other s _ h)) (State.accepted_core _ _ _ m)

/-! ### Updates that a herd slice passes on (R336, R372) -/

/-- The core after it has taken x behind all that its herd slice has sent it. -/
def Core.receive (c : Core) (x : WordWrite) : Core := { c with net := [], inq := c.inq ++ c.net.map (·.write) ++ [x] }

theorem Core.ButWq.receive {c d : Core} (h : c.ButWq d) (x : WordWrite) : (c.receive x).ButWq (d.receive x) := by
  unfold Core.ButWq Core.receive at *
  rw [h]

theorem State.forward_coresOnly (s : State) (x : WordWrite) (core : Nat) : CoresOnly s (s.forward x core) :=
  (s.acceptL1_coresOnly core _).trans rfl

theorem State.forward_core (s : State) (x : WordWrite) (core : Nat) : ((s.core core).receive x).ButWq ((s.forward x core).core core) := by
  have h := s.acceptL1_core core (s.core core).net.length
  unfold State.forward Core.ButWq at *
  dsimp only
  rw [State.core_onCore, h]
  simp [Core.accept, Core.receive]

theorem State.forward_core_other (s : State) (x : WordWrite) {core m : Nat} (h : m ≠ core) :
    (s.core m).ButWq ((s.forward x core).core m) :=
  (s.acceptL1_core_other _ h).trans (.of_eq (State.core_onCore_other _ _ h))

section

variable (x : WordWrite) (cs : List Nat) (s : State)

theorem foldl_forward_coresOnly : CoresOnly s (cs.foldl (fun t c => t.forward x c) s) :=
  List.foldlRecOn (motive := CoresOnly s) cs _ rfl (fun t ht _ _ => ht.trans (t.forward_coresOnly x _))

theorem foldl_forward_core_other {m : Nat} (hm : m ∉ cs) : (s.core m).ButWq ((cs.foldl (fun t c => t.forward x c) s).core m) :=
  List.foldlRecOn (motive := fun t : State => (s.core m).ButWq (t.core m)) cs _ rfl
    (fun t ht _ hc => ht.trans (t.forward_core_other x (fun h => hm (h ▸ hc))))

/-- Each of these cores takes x once. -/
theorem foldl_forward_core (hcs : cs.Nodup) {m : Nat} (hm : m ∈ cs) :
    ((s.core m).receive x).ButWq ((cs.foldl (fun t c => t.forward x c) s).core m) := by
  induction cs generalizing s with
  | nil => exact absurd hm (List.not_mem_nil)
  | cons c cs ih =>
    obtain ⟨hc, hcs⟩ := List.nodup_cons.mp hcs
    rw [List.foldl_cons]
    by_cases hmc : m = c
    · subst hmc
      exact (s.forward_core x m).trans (foldl_forward_core_other x cs _ hc)
    · exact ((s.forward_core_other x hmc).receive x).trans (ih _ hcs ((List.mem_cons.mp hm).resolve_left hmc))

end

/-- The eight cores of a herd are distinct (R15). -/
theorem coresOfHerd_nodup (h : Nat) : (coresOfHerd h).Nodup := by
  refine List.Nodup.map_on (fun i hi j hj heq => ?_) List.nodup_range
  have hi := List.mem_range.mp hi
  have hj := List.mem_range.mp hj
  unfold coreOfHerd at heq
  omega

theorem State.mem_l1Holders (s : State) (h w c : Nat) :
    c ∈ s.l1Holders h w ↔ c ∈ coresOfHerd h ∧ (mfind (s.core c).l1 w).isSome = true :=
  List.mem_filter

theorem State.l1Holders_nodup (s : State) (h w : Nat) : (s.l1Holders h w).Nodup := (coresOfHerd_nodup h).filter _

theorem State.mem_l1Sharers (s : State) (h w skip c : Nat) :
    c ∈ s.l1Sharers h w skip ↔ (c ∈ coresOfHerd h ∧ (mfind (s.core c).l1 w).isSome = true) ∧ c ≠ skip := by
  rw [State.l1Sharers, List.mem_filter, State.mem_l1Holders, bne_iff_ne]

/-! ### Words that nothing is on its way to (R361, R372) -/

theorem State.readL1_of_sound {s : State} {core w : Nat} (h : ∀ c, mfind (s.core core).l1 w = some c → c.err = 0) :
    s.readL1 core w = s := by
  unfold State.readL1
  split
  next => rfl
  next c hc => exact if_pos (h c hc)

theorem State.pushWord_of_quiet {s : State} {core w : Nat} (hflight : s.NoFlight core w)
    (hpend : ∀ e ∈ (s.herd (herdOfCore core)).pend, e.2.word ≠ w) : s.pushWord core w = s := by
  have hwq : (s.core core).wq.filter (fun f => f.write.word == w) = [] :=
    List.filter_eq_nil_iff.mpr (fun f hf h => hflight f hf (beq_iff_eq.mp h))
  have hnone : (s.herd (herdOfCore core)).pend.filter (fun e => e.2.word == w) = [] :=
    List.filter_eq_nil_iff.mpr (fun e he h => hpend e he (beq_iff_eq.mp h))
  unfold State.pushWord
  dsimp only
  rw [hwq, List.map_nil, List.foldl_nil, hnone]
  rfl

end Sys2Proof.Machine
end

section
/-!
PROOFS of O21, the write-back.
-/

namespace Sys2Proof.Machine

open Claims

set_option Elab.async false

/-- The state in which a written-back word stands clean in its core's L1 and dirty in the herd slice. -/
def State.cleaned (s : State) (core w : Nat) (c : Copy) : State :=
  (s.onCore core (fun y => { y with l1 := mset y.l1 w { c with dirty := none } })).onHerd (herdOfCore core)
    (fun y => { y with copies := mset y.copies w { (mget { val := 0 } y.copies w) with val := c.val, tag := c.tag, dirty := some 0, err := 0 } })

theorem State.cleaned_core (s : State) (core w : Nat) (c : Copy) :
    (s.cleaned core w c).core core = { s.core core with l1 := mset (s.core core).l1 w { c with dirty := none } } := by
  rw [State.cleaned, State.core_onHerd, State.core_onCore]

theorem State.cleaned_core_other (s : State) {core k : Nat} (w : Nat) (c : Copy) (h : k ≠ core) :
    (s.cleaned core w c).core k = s.core k := by
  rw [State.cleaned, State.core_onHerd, State.core_onCore_other _ _ h]

/-- A write-back of a word that no write is on its way to (R174, R372). -/
theorem State.writeBack_of_quiet {s : State} {core w : Nat} {c : Copy} (hcopy : mfind (s.core core).l1 w = some c) (herr : c.err = 0)
    (hflight : s.NoFlight core w) (hpend : ∀ e ∈ (s.herd (herdOfCore core)).pend, e.2.word ≠ w) :
    s.writeBack core w = ((s.cleaned core w c).l1Sharers (herdOfCore core) w core).foldl
      (fun t k => t.forward (wholeWord w c.tagged) k) (s.cleaned core w c) := by
  have hread : s.readL1 core w = s := State.readL1_of_sound fun d hd => by
    rw [hcopy] at hd
    cases hd
    exact herr
  unfold State.writeBack
  rw [hread, State.pushWord_of_quiet hflight hpend]
  dsimp only
  rw [hcopy]
  rfl

theorem writeBackEffect : WriteBackEffect := by
  intro s core w c hcopy herr hflight hpend
  have ht := State.writeBack_of_quiet hcopy herr hflight hpend
  have hkeep : Keeps id s (s.writeBack core w) := State.writeBack_keeps (Keeps.refl id s)
  generalize s.writeBack core w = t at ht hkeep ⊢
  intro _ u
  generalize hs : s.cleaned core w c = s1 at ht
  generalize hks : s1.l1Sharers (herdOfCore core) w core = ks at ht
  have hcore : s1.core core = { s.core core with l1 := mset (s.core core).l1 w { c with dirty := none } } := by
    rw [← hs]
    exact s.cleaned_core core w c
  have hother : ∀ k, k ≠ core → s1.core k = s.core k := fun k hk => by
    rw [← hs]
    exact s.cleaned_core_other w c hk
  have hherd : ∃ b, mfind (s1.herd (herdOfCore core)).copies w = some { val := c.val, tag := c.tag, dirty := some 0, obj := b } := by
    rw [← hs, State.cleaned, State.herd_onHerd]
    exact ⟨_, mfind_mset_same _ _ _⟩
  have hmem : ∀ k, k ∈ ks ↔ (k ∈ coresOfHerd (herdOfCore core) ∧ (mfind (s1.core k).l1 w).isSome = true) ∧ k ≠ core := by
    rw [← hks]
    exact s1.mem_l1Sharers _ _ _
  have hnodup : ks.Nodup := by
    rw [← hks]
    exact (s1.l1Holders_nodup _ _).filter _
  have hrest : CoresOnly s1 t := by
    rw [ht]
    exact foldl_forward_coresOnly _ _ _
  have hin : ∀ k ∈ ks, ((s1.core k).receive u).ButWq (t.core k) := fun k hk => by
    rw [ht]
    exact foldl_forward_core _ _ _ hnodup hk
  have hout : ∀ k, k ∉ ks → (s1.core k).ButWq (t.core k) := fun k hk => by
    rw [ht]
    exact foldl_forward_core_other _ _ _ hk
  refine ⟨?_, ?_, fun k hk => ?_, fun k hk hherdk hholds => ?_, ?_, ?_, hkeep.2⟩
  · rw [(hout core (fun h => ((hmem core).mp h).2 rfl)).l1, hcore]
    exact mfind_mset_same _ _ _
  · rw [hrest.herd]
    exact hherd
  · by_cases hks : k ∈ ks
    · have h := hin k hks
      rw [hother k hk] at h
      exact ⟨h.l1, .inr h.inq⟩
    · have h := hout k hks
      rw [hother k hk] at h
      exact ⟨h.l1, .inl h.inq⟩
  · have h := hin k ((hmem k).mpr ⟨⟨hherdk, by rw [hother k hk, Option.isSome_iff_ne_none]; exact hholds⟩, hk⟩)
    rw [hother k hk] at h
    exact ⟨h.inq, h.net⟩
  · rw [hrest.mem, ← hs]
    rfl
  · rw [hrest.agenda, ← hs]
    rfl

/-- Settles O21: fences, publishing and cache flushes as they are performed, and what a write-back leaves. -/
theorem fenceAndFlushResults : Obligations.FenceAndFlushResults := ⟨fenceResults, writeBackEffect⟩

end Sys2Proof.Machine
end

section
/-!
PROOFS of O45, the updates: what UPDATE_ACCEPT does with a write that the port holds, with one that has left it, and what
UPDATE_DRAIN does at an L1 and at a herd slice.
-/

namespace Sys2Proof.Machine

open Claims

set_option Elab.async false

/-! ### Which write acts (R336, R337) -/

section

variable {s : State} {f : Flight} (hf : s.myCore.wq[s.arg 0]? = some f)
include hf

theorem exec_updateAccept_of_held (hat : f.atPort = true) : exec .updateAccept s = goes (s.tryLeave s.act.core f) := by
  have hwq : (s.core s.act.core).wq[s.arg 0]? = some f := hf
  show execUpdateAccept s = _
  unfold execUpdateAccept
  dsimp only
  rw [hwq]
  exact if_pos hat

theorem exec_updateAccept_of_sent (hat : f.atPort = false) (hturn : s.turnOf s.act.core f = (s.act.core, f)) :
    exec .updateAccept s = goes (if s.flightReady s.act.core f then s.flightStep s.act.core f else s) := by
  have hwq : (s.core s.act.core).wq[s.arg 0]? = some f := hf
  show execUpdateAccept s = _
  unfold execUpdateAccept
  dsimp only
  rw [hwq]
  dsimp only
  rw [if_neg (ne_true_of_eq_false hat), hturn]

end

/-! ### A write that the port holds (R159, R175, R178, R372) -/

/-- The state in which a write is on its core's list no more. -/
def State.unlisted (s : State) (core : Nat) (f : Flight) : State :=
  s.setCore core { s.core core with wq := (s.core core).wq.filter (fun g => g.id != f.id) }

theorem State.unlisted_core (s : State) (core : Nat) (f : Flight) :
    (s.unlisted core f).core core = { s.core core with wq := (s.core core).wq.filter (fun g => g.id != f.id) } :=
  s.core_setCore core _

section

variable {s s1 : State} {core cause : Nat} {f : Flight}

theorem State.tryLeave_of_staying (h : s.mayLeave core f = false) : s.tryLeave core f = s := by
  unfold State.tryLeave
  exact if_neg (ne_true_of_eq_false h)

/-- An access that finds its word uncorrectable as it leaves stays at the port: its context stalls, and a record is posted
(R178). -/
theorem State.tryLeave_of_lost (hleave : s.mayLeave core f = true) (hreads : f.reads = true)
    (hlost : s.lostCause core f = (s1, some cause)) : ∃ t r, s.tryLeave core f = t ∧
      (t.ctxOf core f.ctx).stall = some 0 ∧ t.fault.waiting = s1.fault.waiting ++ [r] ∧ r.cause = cause ∧ r.sev = 1 ∧
      r.handle = (s1.ctxOf core f.ctx).handle ∧ r.tval = BitVec.ofNat 64 f.va ∧ t.mem = s1.mem := by
  have hput : (s1.putFlight core { f with failed := true }).ctxOf core f.ctx = s1.ctxOf core f.ctx :=
    (State.putFlight_keeps (Keeps.refl id s1)).2 core f.ctx
  have hleaves : s.tryLeave core f =
      ((s1.putFlight core { f with failed := true }).onCtx core f.ctx (fun c => { c with stall := some 0 })).postLost
        core f.ctx cause (BitVec.ofNat 64 f.va) := by
    unfold State.tryLeave
    rw [if_pos hleave, if_pos hreads, hlost]
  have hctx : ((s1.putFlight core { f with failed := true }).onCtx core f.ctx (fun c => { c with stall := some 0 })).ctxOf core f.ctx =
      { s1.ctxOf core f.ctx with stall := some 0 } := by
    rw [State.onCtx, State.ctxOf_setCtx, hput]
  refine ⟨_, _, hleaves, congrArg Context.stall hctx, rfl, rfl, rfl, (congrArg Context.handle hctx :), rfl, rfl⟩

theorem State.tryLeave_of_leaving (hleave : s.mayLeave core f = true) (hreads : f.reads = false) :
    s.tryLeave core f = if f.rel = 0 then s.leavePort core f else (s.leavePort core f).push core f.id f.rel := by
  unfold State.tryLeave
  rw [if_pos hleave, if_neg (ne_true_of_eq_false hreads)]

/-- A write that is on no list cannot be pushed. -/
theorem State.push_unlisted (s : State) (core scope : Nat) (f : Flight) :
    (s.unlisted core f).push core f.id scope = s.unlisted core f := by
  have hnone : ((s.unlisted core f).core core).wq.find? (fun g => g.id == f.id) = none := by
    rw [State.unlisted_core, List.find?_eq_none]
    intro g hg
    simpa using (List.mem_filter.mp hg).2
  unfold State.push
  rw [hnone]

/-- A fence.rel that leaves the port is gone (R169). -/
theorem State.leavePort_fence (hword : f.write.word = fenceWord) : s.leavePort core f = s.unlisted core f := by
  unfold State.leavePort
  dsimp only
  exact if_pos hword

theorem State.region_unlisted (s : State) (core : Nat) (f : Flight) (pa : Nat) : (s.unlisted core f).region pa = s.region pa := by
  refine (show SameHome s (s.unlisted core f) from ⟨rfl, rfl, fun n => ?_⟩).region pa
  by_cases hn : n = core
  · rw [hn, State.unlisted_core]
    rfl
  · exact congrArg Core.nctx (State.core_setCore_other s _ hn)

/-- A word under one write. -/
theorem overlay_one (x : Tagged) (y : WordWrite) : overlay x y.word [y] = { val := mergeBytes x.val y.val y.mask, tag := y.tag } :=
  if_pos rfl

section

variable (hword : f.write.word ≠ fenceWord) (hamo : f.amo = none) (hcached : (s.region (8 * f.write.word)).cached = true)
  (herr : ∀ c, mfind ((s.unlisted core f).core core).l1 f.write.word = some c → c.err = 0)
include hword hamo hcached herr

/-- A plain write of a cached word leaves the port: for a PRIVATE object of its own it stays dirty in the L1, else it is on its
way (R159, R175, R372). -/
theorem State.leavePort_cached : s.leavePort core f =
    let u := s.unlisted core f
    if u.keepsDirty core f.ctx f.write.word f.obj && f.write.mask != 0 then
      let v := overlay ((u.fillL1 core f.write.word false).portPeek core f.write.word) f.write.word [f.write]
      (u.fillL1 core f.write.word false).onCore core (fun c =>
        { c with l1 := mset c.l1 f.write.word { val := v.val, tag := v.tag, dirty := some (ownerOf core f.ctx) } })
    else u.onCore core (fun c => { c with l1 := portUpdate c.l1 f.write, wq := c.wq ++ [{ f with atPort := false }] }) := by
  have hu : s.onCore core (fun c => { c with wq := c.wq.filter (fun g => g.id != f.id) }) = s.unlisted core f := rfl
  rw [← s.region_unlisted core f] at hcached
  have hread : (if f.write.mask = 0xFF then s.unlisted core f else (s.unlisted core f).readL1 core f.write.word) = s.unlisted core f := by
    rw [State.readL1_of_sound herr, ite_self]
  unfold State.leavePort
  generalize State.region = region at hcached ⊢
  dsimp only
  rw [hu, if_neg hword, hamo]
  dsimp only
  rw [if_pos hcached, hread]

theorem State.leavePort_through (hkeep : (s.unlisted core f).keepsDirty core f.ctx f.write.word f.obj = false) :
    s.leavePort core f = (s.unlisted core f).onCore core (fun c =>
      { c with l1 := portUpdate c.l1 f.write, wq := c.wq ++ [{ f with atPort := false }] }) := by
  rw [State.leavePort_cached hword hamo hcached herr]
  dsimp only
  rw [hkeep]
  exact if_neg Bool.false_ne_true

theorem State.leavePort_dirty (hkeep : (s.unlisted core f).keepsDirty core f.ctx f.write.word f.obj = true) (hmask : f.write.mask ≠ 0) :
    let old := ((s.unlisted core f).fillL1 core f.write.word false).portPeek core f.write.word
    mfind ((s.leavePort core f).core core).l1 f.write.word =
      some { val := mergeBytes old.val f.write.val f.write.mask, tag := f.write.tag, dirty := some (ownerOf core f.ctx) } := by
  rw [State.leavePort_cached hword hamo hcached herr]
  dsimp only
  rw [hkeep, bne_iff_ne.mpr hmask, Bool.and_self, if_pos rfl, State.core_onCore, overlay_one]
  exact mfind_mset_same _ _ _

end

end

/-! ### A write that has left the port (R336, R337) -/

/-- The herd after the next updates of one home slice, among the first n on their way, are accepted. -/
theorem State.acceptSlice_herd (s : State) (h src n : Nat) : (s.acceptSlice h src n).herd h =
    { s.herd h with
      net := ((s.herd h).net.take n).filter (fun u => u.src != src) ++ (s.herd h).net.drop n
      inq := (s.herd h).inq ++ (((s.herd h).net.take n).filter (fun u => u.src == src)).map (·.write) } := by
  unfold State.acceptSlice
  dsimp only
  rw [State.herd, State.accepted_herds]
  exact s.herd_onHerd h _

theorem State.acceptSlice_mem (s : State) (h src n : Nat) : (s.acceptSlice h src n).mem = s.mem :=
  (State.accepted_coresOnly _ _ _).mem

theorem State.passL1_coresOnly (s : State) (core w : Nat) : CoresOnly s (s.passL1 core w) :=
  (show CoresOnly s (s.onCore core _) from rfl).trans (State.accepted_coresOnly _ _ _)

theorem State.shareL1_coresOnly (s : State) (core id w : Nat) : CoresOnly s (s.shareL1 core id w).1 := by
  unfold State.shareL1
  extract_lets h v cs t u mine
  have ht : CoresOnly s t := List.foldlRecOn (motive := CoresOnly s) cs _ rfl (fun _ hu _ _ => hu.trans rfl)
  have hu : CoresOnly s u := ite_both (ht.trans (t.passL1_coresOnly core w)) ht
  exact hu.trans rfl

theorem State.putFlight_coresOnly (s : State) (core : Nat) (f : Flight) : CoresOnly s (s.putFlight core f) := rfl

theorem mget_of_mfind {α : Type} {d x : α} {m : Map α} {k : Nat} (h : mfind m k = some x) : mget d m k = x := by
  induction m with
  | nil => cases h
  | cons e m ih =>
    obtain ⟨j, y⟩ := e
    by_cases hj : j = k
    · rw [mfind, if_pos hj] at h
      cases h
      exact if_pos hj
    · rw [mfind, if_neg hj] at h
      exact (if_neg hj).trans (ih h)

theorem State.onHerd_pend (s : State) {h : Nat} {f : Herd → Herd} (hf : (f (s.herd h)).pend = (s.herd h).pend) :
    ((s.onHerd h f).herd h).pend = (s.herd h).pend := by
  rw [State.herd_onHerd, hf]

theorem State.corrected_memOnly (s : State) (d u : Nat) (a : Word) : MemOnly s (s.corrected d u a) := rfl
theorem State.arrayLost_memOnly (s : State) (d u : Nat) (a : Word) : MemOnly s (s.arrayLost d u a) := rfl
theorem State.poisonWord_memOnly (s : State) (w : Nat) (e : Word) : MemOnly s (s.poisonWord w e) := rfl

theorem State.readSlice_pend (s : State) (h w : Nat) : ((s.readSlice h w).herd h).pend = (s.herd h).pend := by
  unfold State.readSlice
  split
  · rfl
  · dsimp only
    split
    · rfl
    · split
      · exact (congrArg Herd.pend ((State.corrected_memOnly _ _ _ _).herd h)).trans (s.onHerd_pend rfl)
      · exact (congrArg Herd.pend (((State.poisonWord_memOnly _ _ _).trans (State.arrayLost_memOnly _ _ _ _)).herd h)).trans
          (s.onHerd_pend rfl)

theorem State.passSlice_pend (s : State) (h w : Nat) : ((s.passSlice h w).herd h).pend = (s.herd h).pend := by
  unfold State.passSlice
  dsimp only
  rw [State.herd, State.accepted_herds]
  exact s.onHerd_pend rfl

/-- After a fill the slice holds the word, and what it has still to send home is as it was. -/
theorem State.fillSlice_holds (s : State) (h w : Nat) :
    (∃ c, mfind ((s.fillSlice h w).herd h).copies w = some c) ∧ ((s.fillSlice h w).herd h).pend = (s.herd h).pend := by
  unfold State.fillSlice
  split
  next hsome => exact ⟨Option.isSome_iff_exists.mp hsome, rfl⟩
  next =>
    dsimp only
    rw [State.herd_onHerd]
    refine ⟨⟨_, mfind_mset_same _ _ _⟩, ?_⟩
    have hread : ((s.passSlice h w).homeRead w).1.herd h = (s.passSlice h w).herd h := (State.detect_memOnly _ w).herd h
    exact (congrArg Herd.pend hread).trans (s.passSlice_pend h w)

theorem State.slicePeek_of_held {s : State} {h w : Nat} {c : Copy} (hc : mfind (s.herd h).copies w = some c) :
    s.slicePeek h w = c.tagged := by
  unfold State.slicePeek
  rw [hc]

/-- A write of a whole word leaves nothing of the old one. -/
theorem mergeBytes_full (old old' new : Word) : mergeBytes old new 0xFF = mergeBytes old' new 0xFF := by
  have hmask : ∀ i, i < 8 → (0xFF : BitVec 8).getLsbD i = true := by decide
  unfold mergeBytes
  refine congrArg (fun l => BitVec.ofNat 64 (valueLE l)) (List.map_congr_left fun i hi => ?_)
  rw [hmask i (List.mem_range.mp hi)]
  rfl

/-- The herd slice holds a write that it applies, over the word as a read of it finds it, and sends it home unless it stays
(R159, R372). -/
theorem State.herdApply_copy (s : State) (core : Nat) (f : Flight) :
    ∃ y, mfind ((s.herdApply core f).herd (herdOfCore core)).copies f.write.word = some y ∧ y.tag = f.write.tag ∧
      y.val = mergeBytes (s.sliceRead (herdOfCore core) f.write.word).2.val f.write.val f.write.mask ∧
      (y.dirty = none → ((s.herdApply core f).herd (herdOfCore core)).pend = (s.herd (herdOfCore core)).pend ++ [(f.id, f.write)]) := by
  unfold State.herdApply
  extract_lets h x t old ref stay v cp u r
  have hold : mergeBytes old.val x.val x.mask = mergeBytes (s.sliceRead h x.word).2.val x.val x.mask := by
    by_cases hfull : x.mask = 0xFF
    · rw [hfull]
      exact mergeBytes_full _ _ _
    · have ht : t = (s.readSlice h x.word).fillSlice h x.word := by
        unfold t
        rw [if_neg hfull]
      obtain ⟨c, hc⟩ := (State.fillSlice_holds (s.readSlice h x.word) h x.word).1
      have hread : (s.sliceRead h x.word).2 = c.tagged := State.slicePeek_of_held hc
      rw [hread]
      rw [← ht] at hc
      exact congrArg (fun o : Copy => mergeBytes o.val x.val x.mask) (mget_of_mfind hc)
  have hpend : (t.herd h).pend = (s.herd h).pend :=
    (State.fillSlice_holds _ h x.word).2.trans
      (ite_both (motive := fun t : State => (t.herd h).pend = (s.herd h).pend) rfl (s.readSlice_pend h x.word))
  have hherd : ∀ g, (r.1.putFlight core g).herd h = u.herd h :=
    fun g => ((u.shareL1_coresOnly core f.id x.word).trans (r.1.putFlight_coresOnly core g)).herd h
  have hv : v = { val := mergeBytes old.val x.val x.mask, tag := x.tag } := overlay_one old.tagged x
  rw [hherd, State.herd_onHerd]
  refine ⟨cp, mfind_mset_same _ _ _, congrArg Tagged.tag hv, (congrArg Tagged.val hv).trans hold, fun hclean => ?_⟩
  have hstay : stay = false := by
    by_contra hs
    rw [show cp.dirty = some 0 from if_pos ((Bool.not_eq_false _).mp hs)] at hclean
    cases hclean
  dsimp only
  rw [hstay, hpend]
  rfl

end Sys2Proof.Machine
end

section
/-!
PROOFS of O45, the updates, continued: the recipients behind the herd slice, and the drains.
-/

namespace Sys2Proof.Machine

open Claims

set_option Elab.async false

/-! ### The recipients of a write (R336) -/

section

variable {s : State} {core : Nat} {f : Flight} (hport : f.atPort = false)
include hport

theorem State.flightStep_herd (hherd : f.atHerd = true) : s.flightStep core f = s.herdApply core f := by
  unfold State.flightStep
  rw [if_neg (ne_true_of_eq_false hport), if_pos hherd]

variable (hherd : f.atHerd = false)
include hherd

theorem State.flightStep_l1 {c : Nat} {cs : List Nat} (hl1 : f.toL1 = c :: cs) :
    s.flightStep core f = (s.acceptL1 c (Machine.placeOf (s.core c).net f.id)).accepted [f.id] (fun g => { g with toL1 := g.toL1.erase c }) := by
  unfold State.flightStep
  rw [if_neg (ne_true_of_eq_false hport), if_neg (ne_true_of_eq_false hherd), hl1]

variable (hl1 : f.toL1 = [])
include hl1

theorem State.flightStep_home (hhome : f.atHome = true) : s.flightStep core f = s.homeApply core f := by
  unfold State.flightStep
  rw [if_neg (ne_true_of_eq_false hport), if_neg (ne_true_of_eq_false hherd), hl1]
  exact if_pos hhome

theorem State.flightStep_slice (hhome : f.atHome = false) {g : Nat} {gs : List Nat} (hslices : f.toSlices = g :: gs) :
    s.flightStep core f = (s.acceptSlice g (s.homeSlice f.write.word) (Machine.placeOf (s.herd g).net f.id)).accepted [f.id]
      (fun y => { y with toSlices := y.toSlices.erase g }) := by
  unfold State.flightStep
  rw [if_neg (ne_true_of_eq_false hport), if_neg (ne_true_of_eq_false hherd), hl1]
  dsimp only
  rw [if_neg (ne_true_of_eq_false hhome), hslices]

end

/-- The place behind the first update on the way. -/
theorem placeOf_cons {u : Update} {us : List Update} {id : Nat} (h : u.id = id) : placeOf (u :: us) id = 1 := by
  unfold placeOf
  rw [List.findIdx_cons, beq_iff_eq.mpr h]
  rfl

/-- An L1 takes the update that its herd slice has sent it first. -/
theorem State.acceptL1_first {s : State} {c id : Nat} {u : Update} {us : List Update} (hnet : (s.core c).net = u :: us)
    (hid : u.id = id) (f : Flight → Flight) :
    let t := (s.acceptL1 c (Machine.placeOf (s.core c).net id)).accepted [id] f
    (t.core c).inq = (s.core c).inq ++ [u.write] ∧ (t.core c).net = us ∧ (t.core c).l1 = (s.core c).l1 ∧ t.mem = s.mem := by
  have hcore := (s.acceptL1_core c (Machine.placeOf (s.core c).net id)).trans (State.accepted_core _ [id] f c)
  have hrest := (s.acceptL1_coresOnly c (Machine.placeOf (s.core c).net id)).trans (State.accepted_coresOnly _ [id] f)
  rw [hnet, placeOf_cons hid] at hcore hrest ⊢
  refine ⟨hcore.inq.trans ?_, hcore.net.trans ?_, hcore.l1, hrest.mem⟩
  · rw [Core.accept, hnet]
    rfl
  · rw [Core.accept, hnet]
    rfl

/-- A herd slice takes the update that a home slice has sent it first. -/
theorem State.acceptSlice_first {s : State} {g id : Nat} {u : Update} {us : List Update} (hnet : (s.herd g).net = u :: us)
    (hid : u.id = id) (f : Flight → Flight) :
    let t := (s.acceptSlice g u.src (Machine.placeOf (s.herd g).net id)).accepted [id] f
    (t.herd g).inq = (s.herd g).inq ++ [u.write] ∧ (t.herd g).net = us ∧ (t.herd g).copies = (s.herd g).copies ∧ t.mem = s.mem := by
  have hherd := (State.accepted_coresOnly (s.acceptSlice g u.src (Machine.placeOf (s.herd g).net id)) [id] f).herd g
  have hmem := (State.accepted_coresOnly (s.acceptSlice g u.src (Machine.placeOf (s.herd g).net id)) [id] f).mem
  rw [State.acceptSlice_mem] at hmem
  rw [State.acceptSlice_herd] at hherd
  rw [hnet, placeOf_cons hid] at hherd hmem ⊢
  intro t
  rw [show t.herd g = _ from hherd]
  refine ⟨?_, ?_, rfl, hmem⟩
  · simp
  · simp

theorem State.forwardAll_coresOnly (s : State) (h : Nat) (x : WordWrite) : CoresOnly s (s.forwardAll h x) :=
  foldl_forward_coresOnly x _ s

theorem State.sliceApplyUpdate_mem (s : State) (h : Nat) (x : WordWrite) : (s.sliceApplyUpdate h x).mem = s.mem := by
  unfold State.sliceApplyUpdate
  split
  · rfl
  · dsimp only
    split
    · rfl
    · split
      · rfl
      · exact (State.forwardAll_coresOnly _ h _).mem

theorem State.renewSlice_mem (s : State) (h w : Nat) : (s.renewSlice h w).mem = s.mem := by
  unfold State.renewSlice
  split
  · exact (State.sliceApplyUpdate_mem _ _ _).trans (s.passSlice_sameHome h w).mem
  · rfl

theorem State.shareSlices_mem (s : State) (h id w : Nat) : (s.shareSlices h id w).1.mem = s.mem :=
  List.foldlRecOn (motive := fun v : State => v.mem = s.mem) _ _ rfl (fun _ hv _ _ => hv)

/-- What a write leaves in memory is its write at the home slice (R336). -/
theorem State.homeApply_mem (s : State) (core : Nat) (f : Flight) : (s.homeApply core f).mem = (s.homeWrite f.write).mem := by
  unfold State.homeApply
  generalize s.homeWrite f.write = t
  dsimp only
  rw [State.renewSlice_mem]
  exact State.shareSlices_mem _ _ _ _

/-! ### Drains (R336, R372) -/

theorem exec_updateDrain_l1 {s : State} {u : WordWrite} {us : List WordWrite} (harg : s.arg 0 ≠ 1) (hinq : s.myCore.inq = u :: us) :
    exec .updateDrain s = goes (s.setCore s.act.core (({ s.myCore with inq := us } : Core).applyUpdate u)) := by
  have hcore : (s.core s.act.core).inq = u :: us := hinq
  show execUpdateDrain s = _
  unfold execUpdateDrain
  rw [if_neg harg, State.drainL1One, State.onCore]
  dsimp only
  rw [hcore]
  rfl

theorem exec_updateDrain_slice {s : State} {u : WordWrite} {us : List WordWrite} (harg : s.arg 0 = 1)
    (hinq : (s.herd (herdOfCore s.act.core)).inq = u :: us) :
    exec .updateDrain s = goes ((s.onHerd (herdOfCore s.act.core) (fun y => { y with inq := us })).sliceApplyUpdate
      (herdOfCore s.act.core) u) := by
  show execUpdateDrain s = _
  unfold execUpdateDrain
  rw [if_pos harg, State.drainSliceOne, hinq]

theorem State.sliceApplyUpdate_absent {s : State} {h : Nat} {u : WordWrite} (hcopy : mfind (s.herd h).copies u.word = none) :
    s.sliceApplyUpdate h u = s := by
  unfold State.sliceApplyUpdate
  rw [hcopy]

/-- A clean copy in a herd slice takes an update under no write of its own, and passes it on where it changes the copy. -/
theorem State.sliceApplyUpdate_clean {s : State} {h : Nat} {u : WordWrite} {c : Copy} (hcopy : mfind (s.herd h).copies u.word = some c)
    (hclean : c.dirty = none) (hpend : ∀ z ∈ (s.herd h).pend, z.2.word ≠ u.word) :
    let t := s.sliceApplyUpdate h u
    (∃ y, mfind (t.herd h).copies u.word = some y ∧ y.val = u.val ∧ y.tag = u.tag) ∧ (t.herd h).inq = (s.herd h).inq ∧
      t.mem = s.mem ∧ ∀ k ∈ coresOfHerd h, (t.core k).l1 = (s.core k).l1 ∧
        ((mfind (s.core k).l1 u.word).isSome = true → c.val ≠ u.val ∨ c.tag ≠ u.tag →
          (t.core k).inq = (s.core k).inq ++ (s.core k).net.map (·.write) ++
            [{ word := u.word, mask := 0xFF, val := u.val, tag := u.tag }]) := by
  have hover : overlay { val := u.val, tag := u.tag } u.word (s.herd h).pending = { val := u.val, tag := u.tag } :=
    overlay_of_absent _ (fun y hy => by
      obtain ⟨z, hz, rfl⟩ := List.mem_map.mp hy
      exact hpend z hz)
  unfold State.sliceApplyUpdate
  rw [hcopy]
  dsimp only
  rw [if_neg (by rw [hclean]; exact Bool.false_ne_true), hover]
  split
  next hsame =>
    obtain ⟨hv, -⟩ := hsame
    have hval : u.val = c.val := congrArg Tagged.val hv
    have htag : u.tag = c.tag := congrArg Tagged.tag hv
    exact ⟨⟨c, hcopy, hval.symm, htag.symm⟩, rfl, rfl, fun k _ => ⟨rfl, fun _ hdiff => absurd hdiff (by simp [hval, htag])⟩⟩
  next =>
    let t := s.onHerd h (fun z => { z with copies := mset z.copies u.word (c.renew { val := u.val, tag := u.tag }) })
    have hrest := t.forwardAll_coresOnly h (wholeWord u.word { val := u.val, tag := u.tag })
    refine ⟨⟨c.renew { val := u.val, tag := u.tag }, ?_, rfl, rfl⟩, ?_, hrest.mem, fun k hk => ?_⟩
    · rw [hrest.herd, State.herd_onHerd]
      exact mfind_mset_same _ _ _
    · rw [hrest.herd, State.herd_onHerd]
    by_cases hheld : (mfind (s.core k).l1 u.word).isSome = true
    · have hcore := foldl_forward_core (wholeWord u.word { val := u.val, tag := u.tag }) _ t (t.l1Holders_nodup h u.word)
        ((t.mem_l1Holders h u.word k).mpr ⟨hk, hheld⟩)
      exact ⟨hcore.l1, fun _ _ => hcore.inq⟩
    · have hcore := foldl_forward_core_other (wholeWord u.word { val := u.val, tag := u.tag }) _ t
        (m := k) (fun hm => hheld ((t.mem_l1Holders h u.word k).mp hm).2)
      exact ⟨hcore.l1, fun h => absurd h hheld⟩

/-- An update at an L1 (R175, R337, R373). -/
theorem Core.applyUpdate_dirty {y : Core} {c : Copy} {u : WordWrite} (hcopy : mfind y.l1 u.word = some c)
    (hdirty : c.dirty.isSome = true) : y.applyUpdate u = y := by
  unfold Core.applyUpdate
  rw [hcopy]
  exact if_pos hdirty

theorem Core.applyUpdate_clean {y : Core} {c : Copy} {u : WordWrite} (hcopy : mfind y.l1 u.word = some c) (hclean : c.dirty = none)
    (hown : ∀ z ∈ y.ownWrites, z.word ≠ u.word) :
    ∃ c', mfind (y.applyUpdate u).l1 u.word = some c' ∧ c'.val = u.val ∧ c'.tag = u.tag := by
  unfold Core.applyUpdate
  rw [hcopy]
  dsimp only
  rw [if_neg (by rw [hclean]; exact Bool.false_ne_true), overlay_of_absent _ hown]
  exact ⟨_, mfind_mset_same _ _ _, rfl, rfl⟩

/-! ### The updates (R159, R336, R372) -/

theorem updates : Updates := by
  intro s f n h x left
  refine ⟨fun hf hport => ?_, fun hf hport hturn => ?_, fun u us harg hinq => exec_updateDrain_l1 harg hinq,
    fun u us harg hinq => ?_, fun y cp u hcopy => ⟨Core.applyUpdate_dirty hcopy, Core.applyUpdate_clean hcopy⟩⟩
  · rw [exec_updateAccept_of_held hf hport]
    refine ⟨fun hstay => congrArg goes (State.tryLeave_of_staying hstay), fun hleave => ⟨fun s1 cause hreads hlost => ?_,
      fun hreads hword => ?_, fun hreads hword hamo hrel hcached herr => ?_⟩⟩
    · obtain ⟨t, r, ht, hres⟩ := State.tryLeave_of_lost hleave hreads hlost
      exact ⟨t, r, congrArg goes ht, hres⟩
    · rw [State.tryLeave_of_leaving hleave hreads, State.leavePort_fence hword]
      exact congrArg goes ((congrArg (ite _ _) (s.push_unlisted n f.rel f)).trans (ite_self _))
    · rw [State.tryLeave_of_leaving hleave hreads, if_pos hrel]
      refine ⟨fun hkeep => congrArg goes (State.leavePort_through hword hamo hcached herr hkeep), fun hkeep hmask => ?_⟩
      exact ⟨_, rfl, State.leavePort_dirty hword hamo hcached herr hkeep hmask⟩
  · rw [exec_updateAccept_of_sent hf hport hturn]
    refine ⟨fun hready => congrArg goes (if_neg (ne_true_of_eq_false hready)), fun hready => ?_⟩
    rw [if_pos hready]
    refine ⟨fun hherd => ?_, fun c cs u us hherd hl1 hnet hid => ?_, fun hherd hl1 hhome => ?_,
      fun g gs u us hherd hl1 hhome hslices hnet hid hsrc => ?_⟩
    · rw [State.flightStep_herd hport hherd]
      obtain ⟨y, hy, htag, hval, hpend⟩ := s.herdApply_copy n f
      exact ⟨_, rfl, y, hy, htag, hval, hpend⟩
    · rw [State.flightStep_l1 hport hherd hl1]
      exact ⟨_, rfl, State.acceptL1_first hnet hid _⟩
    · rw [State.flightStep_home hport hherd hl1 hhome]
      exact ⟨_, rfl, s.homeApply_mem n f⟩
    · rw [State.flightStep_slice hport hherd hl1 hhome hslices, ← hsrc]
      exact ⟨_, rfl, State.acceptSlice_first hnet hid _⟩
  · rw [exec_updateDrain_slice harg hinq]
    set v := s.onHerd h (fun y => { y with inq := us }) with hv
    have hherd : v.herd h = { s.herd h with inq := us } := s.herd_onHerd h _
    refine ⟨fun hcopy => congrArg goes (State.sliceApplyUpdate_absent (by rw [hherd]; exact hcopy)), fun cp hcopy hclean hpend => ?_⟩
    obtain ⟨⟨y, hy, hval, htag⟩, hq, hmem, hcores⟩ := State.sliceApplyUpdate_clean (s := v) (h := h) (u := u)
      (by rw [hherd]; exact hcopy) hclean (by rw [hherd]; exact hpend)
    exact ⟨_, y, rfl, hy, hval, htag, hq.trans (congrArg Herd.inq hherd), hmem, hcores⟩

end Sys2Proof.Machine
end

section
/-!
PROOFS of O45, the walks of the translation tables, the patrol and what a read of a word finds in it.
-/

namespace Sys2Proof.Machine

open Claims

set_option Elab.async false

/-! ### A step of a walk (R367) -/

/-- In a word in which no flipped bit waits, poison is what was found before (R361). -/
theorem State.poisoned_of_clean {s : State} {w : Nat} (hlatent : mfind s.mem.latent w = none)
    (herr : s.mem.errOf 0x0D (s.homeSlice w) w = none) : s.poisoned w = s.mem.poison.contains w := by
  unfold State.poisoned
  rw [hlatent, herr]
  simp

/-- A slice with room takes an entry behind the others. -/
theorem State.fillTlb_of_room {s : State} (hroom : s.mem.tlb.length < 1024) (t : TlbEntry) :
    s.fillTlb t = { s with mem := { s.mem with tlb := s.mem.tlb ++ [t] } } := by
  have hsame : (s.mem.tlb.filter (fun x => x.slice == t.slice)).length < 1024 := Nat.lt_of_le_of_lt (List.length_filter_le _ _) hroom
  unfold State.fillTlb
  dsimp only
  rw [if_pos hsame]

/-- The state in which walk k has ended. -/
def State.walkEnded (s : State) (k : Nat) : State := { s with mem := { s.mem with tlbWalks := dropNth s.mem.tlbWalks k } }

section

variable {s : State} {x : TlbWalk} (hwalk : s.mem.tlbWalks[s.arg 0]? = some x) (hwaits : x.waits = false)
  (hdown : s.sliceDown x.slice = false) (hlatent : mfind s.mem.latent (s.entryWord x.va x.table x.level) = none)
  (herr : s.mem.errOf 0x0D (s.homeSlice (s.entryWord x.va x.table x.level)) (s.entryWord x.va x.table x.level) = none)
include hwalk hwaits hdown hlatent herr

/-- A walk whose slice is in service reads the entry as it stands in memory. -/
theorem exec_tlbWalkStep :
    let w := s.entryWord x.va x.table x.level
    let e := (s.homeWord w).val
    exec .tlbWalkStep s =
      if !s.entryOk e x.level || s.mem.poison.contains w then goes (s.walkEnded (s.arg 0))
      else if e.getLsbD 1 then goes ((s.walkEnded (s.arg 0)).fillTlb
        { asid := x.asid, page := x.va / 2 ^ pageBits x.level, bits := pageBits x.level, entry := e, slice := x.slice })
      else goes { s with mem := { s.mem with
        tlbWalks := s.mem.tlbWalks.set (s.arg 0) { x with level := x.level + 1, table := e.toNat / 2 ^ 8 % 2 ^ 44 * 256 } } } := by
  have hdetect : s.detect (s.entryWord x.va x.table x.level) = s := State.detect_of_clean hlatent herr
  have hpoison := State.poisoned_of_clean hlatent herr
  show execTlbWalkStep s = _
  unfold execTlbWalkStep
  rw [hwalk]
  dsimp only
  rw [hwaits, hdown, hdetect, hpoison, field_eq_div]
  rfl

theorem exec_tlbWalkStep_of_poison (hpoison : s.mem.poison.contains (s.entryWord x.va x.table x.level) = true) :
    exec .tlbWalkStep s = goes (s.walkEnded (s.arg 0)) := by
  rw [exec_tlbWalkStep hwalk hwaits hdown hlatent herr]
  dsimp only
  rw [hpoison, Bool.or_true]
  exact if_pos rfl

theorem exec_tlbWalkStep_of_invalid (hok : s.entryOk (s.homeWord (s.entryWord x.va x.table x.level)).val x.level = false) :
    exec .tlbWalkStep s = goes (s.walkEnded (s.arg 0)) := by
  rw [exec_tlbWalkStep hwalk hwaits hdown hlatent herr]
  dsimp only
  rw [hok]
  exact if_pos rfl

variable (hsound : s.mem.poison.contains (s.entryWord x.va x.table x.level) = false)
  (hok : s.entryOk (s.homeWord (s.entryWord x.va x.table x.level)).val x.level = true)
include hsound hok

theorem exec_tlbWalkStep_of_leaf (hleaf : (s.homeWord (s.entryWord x.va x.table x.level)).val.getLsbD 1 = true)
    (hroom : s.mem.tlb.length < 1024) :
    exec .tlbWalkStep s = goes { s with mem := { s.mem with
      tlbWalks := dropNth s.mem.tlbWalks (s.arg 0)
      tlb := s.mem.tlb ++ [{ asid := x.asid, page := x.va / 2 ^ pageBits x.level, bits := pageBits x.level
                             entry := (s.homeWord (s.entryWord x.va x.table x.level)).val, slice := x.slice }] } } := by
  have hfill := State.fillTlb_of_room (s := s.walkEnded (s.arg 0)) hroom
  rw [exec_tlbWalkStep hwalk hwaits hdown hlatent herr]
  dsimp only
  rw [hok, hsound, hleaf, hfill]
  rfl

theorem exec_tlbWalkStep_of_pointer (hleaf : (s.homeWord (s.entryWord x.va x.table x.level)).val.getLsbD 1 = false) :
    exec .tlbWalkStep s = goes { s with mem := { s.mem with tlbWalks := s.mem.tlbWalks.set (s.arg 0) { x with
      level := x.level + 1
      table := (s.homeWord (s.entryWord x.va x.table x.level)).val.toNat / 2 ^ 8 % 2 ^ 44 * 256 } } } := by
  rw [exec_tlbWalkStep hwalk hwaits hdown hlatent herr]
  dsimp only
  rw [hok, hsound, hleaf]
  rfl

end

/-! ### Patrol reads (R362) -/

/-- The state's regions are kept folded: their bounds are too large to be counted down to. -/
theorem State.patrolLine_succ (s : State) (slice fuel n : Nat) :
    s.patrolLine slice (fuel + 1) n = match s.region (64 * n) with
      | .hbm | .lpddr => if s.homeSlice (8 * n) = slice then some n else s.patrolLine slice fuel (n + 1)
      | _ => s.patrolLine slice fuel (n + 1) := by
  generalize hline : @State.patrolLine = patrolLine
  delta State.patrolLine at hline
  generalize hstep : @State.patrolLine._f = step at hline
  delta State.patrolLine._f at hstep
  generalize State.region = region at hstep ⊢
  generalize State.homeSlice = homeSlice at hstep ⊢
  as_aux_lemma =>
    subst hstep hline
    rfl

/-- The line that a patrol finds is the slice's own, at or behind the line where it begins. -/
theorem State.patrolLine_some {s : State} {slice fuel line n : Nat} (h : s.patrolLine slice fuel line = some n) :
    line ≤ n ∧ s.homeSlice (8 * n) = slice ∧ (s.region (64 * n) = .hbm ∨ s.region (64 * n) = .lpddr) := by
  induction fuel generalizing line with
  | zero => cases h
  | succ fuel ih =>
    have hnext : s.patrolLine slice fuel (line + 1) = some n →
        line ≤ n ∧ s.homeSlice (8 * n) = slice ∧ (s.region (64 * n) = .hbm ∨ s.region (64 * n) = .lpddr) := fun h => by
      obtain ⟨hle, hrest⟩ := ih h
      exact ⟨Nat.le_of_succ_le hle, hrest⟩
    have hhere : (if s.homeSlice (8 * line) = slice then some line else s.patrolLine slice fuel (line + 1)) = some n →
        (s.region (64 * line) = .hbm ∨ s.region (64 * line) = .lpddr) →
        line ≤ n ∧ s.homeSlice (8 * n) = slice ∧ (s.region (64 * n) = .hbm ∨ s.region (64 * n) = .lpddr) := fun h hr => by
      by_cases hhome : s.homeSlice (8 * line) = slice
      · rw [if_pos hhome] at h
        cases h
        exact ⟨le_rfl, hhome, hr⟩
      · rw [if_neg hhome] at h
        exact hnext h
    rw [State.patrolLine_succ] at h
    generalize State.homeSlice = homeSlice at *
    generalize hr : s.region (64 * line) = r at h hhere
    cases r with
    | hbm => exact hhere h (.inl rfl)
    | lpddr => exact hhere h (.inr rfl)
    | _ => exact hnext h

/-- The eight words of a line. -/
theorem wordsOf_line (n : Nat) : wordsOf (64 * n) 64 = (List.range 8).map (fun i => 8 * n + i) := by
  have hcount : (64 * n + 64 - 1) / 8 - 64 * n / 8 + 1 = 8 := by omega
  have hfirst : 64 * n / 8 = 8 * n := by omega
  rw [wordsOf, hcount, hfirst]

/-- The state in which slice k is to patrol from line n. -/
def State.patrolled (s : State) (k n : Nat) : State := { s with mem := { s.mem with patrol := mset s.mem.patrol k n } }

section

variable {s : State}

/-- The search is kept folded: its 8,192 steps are too many to be counted down. -/
theorem exec_patrolRead {r : Option Nat} (h : s.patrolLine (s.arg 0) 8192 (s.patrolNext (mget 0 s.mem.patrol (s.arg 0))) = r) :
    exec .patrolRead s = goes (r.elim (s.patrolled (s.arg 0) (s.patrolNext (mget 0 s.mem.patrol (s.arg 0)) + 8192))
      (fun n => ((List.range 8).foldl (fun u i => u.detect (8 * n + i)) s).patrolled (s.arg 0) (n + 1))) := by
  show execPatrolRead s = _
  generalize hexec : @execPatrolRead = execRead
  delta execPatrolRead at hexec
  generalize State.patrolLine = patrolLine at h hexec
  as_aux_lemma =>
    subst hexec
    dsimp only
    rw [h]
    cases r with
    | none => rfl
    | some n =>
      refine congrArg (fun t : State => goes (t.patrolled (s.arg 0) (n + 1))) ?_
      rw [State.detectAll, wordsOf_line, List.foldl_map]

end

/-- A read of sound words changes nothing. -/
theorem State.foldl_detect_of_clean {s : State} {ws : List Nat} {g : Nat → Nat} (hclean : ∀ i ∈ ws, s.detect (g i) = s) :
    ws.foldl (fun u i => u.detect (g i)) s = s :=
  List.foldlRecOn (motive := fun u : State => u = s) ws _ rfl (fun _ hu i hi => by rw [hu, hclean i hi])

/-! ### What a read finds in a word (R361, R362) -/

theorem State.detectHome_of_sound {s : State} {w : Nat} (h : s.mem.errOf 0x0D (s.homeSlice w) w = none) : s.detectHome w = s := by
  unfold State.detectHome
  split
  · rfl
  · unfold State.readArray
    rw [h]

theorem State.detectStored_of_none {s : State} {w : Nat} (h : mfind s.mem.latent w = none) : s.detectStored w = s := by
  unfold State.detectStored
  dsimp only
  rw [h]

/-- A read of a word with flipped bits finds them. -/
theorem State.detect_latent {s : State} {w : Nat} {err : Word} (hlatent : mfind s.mem.latent w = some err)
    (herr : s.mem.errOf 0x0D (s.homeSlice w) w = none) :
    s.detect w =
      let t : State := { s with mem := { s.mem with latent := mdel s.mem.latent w } }
      if s.uncorrectable w then (t.poisonWord w err).arrayLost (s.arrayOf (8 * w)).1 (s.arrayOf (8 * w)).2 (BitVec.ofNat 64 (8 * w))
      else t.corrected (s.arrayOf (8 * w)).1 (s.arrayOf (8 * w)).2 (BitVec.ofNat 64 (8 * w)) := by
  unfold State.detect
  rw [State.detectHome_of_sound herr]
  unfold State.detectStored
  dsimp only
  rw [hlatent]

/-- A read of a word whose home slice has lost it. -/
theorem State.detect_homeLost {s : State} {w : Nat} {y : ArrayErr} (hlatent : mfind s.mem.latent w = none)
    (herr : s.mem.errOf 0x0D (s.homeSlice w) w = some y) (hflips : 2 ≤ popCount 64 y.flips.toNat) :
    s.detect w = (({ s with mem := s.mem.dropErr 0x0D (s.homeSlice w) w } : State).arrayLost 0x0D (s.homeSlice w)
      (BitVec.ofNat 64 (8 * w))).poisonWord w y.flips := by
  have hread : s.readArray 0x0D (s.homeSlice w) w (BitVec.ofNat 64 (8 * w)) =
      (({ s with mem := s.mem.dropErr 0x0D (s.homeSlice w) w } : State).arrayLost 0x0D (s.homeSlice w) (BitVec.ofNat 64 (8 * w)),
        some y.flips) := by
    unfold State.readArray
    rw [herr]
    exact if_neg (Nat.not_lt.mpr hflips)
  have hhome : s.detectHome w = (({ s with mem := s.mem.dropErr 0x0D (s.homeSlice w) w } : State).arrayLost 0x0D (s.homeSlice w)
      (BitVec.ofNat 64 (8 * w))).poisonWord w y.flips := by
    unfold State.detectHome
    split
    next hnone =>
      rw [MemSys.errOf, hnone] at herr
      cases herr
    next => rw [hread]
  unfold State.detect
  rw [hhome]
  exact State.detectStored_of_none hlatent

theorem walksOfTables : WalksOfTables := by
  intro s x k ew e without bits line moved clean
  refine ⟨fun hwalk hwaits hdown ⟨hlatent, herr⟩ hsound => ⟨fun hok => ?_, fun hok hleaf hroom => ?_, fun hok hleaf => ?_⟩,
    fun hwalk hwaits hdown ⟨hlatent, herr⟩ hpoison => ?_, fun n hline => ?_, fun hline => ?_, fun w err hlatent herr => ?_,
    fun w y hlatent herr hflips => ?_⟩
  · exact exec_tlbWalkStep_of_invalid hwalk hwaits hdown hlatent herr hok
  · exact exec_tlbWalkStep_of_leaf hwalk hwaits hdown hlatent herr hsound hok hleaf hroom
  · exact exec_tlbWalkStep_of_pointer hwalk hwaits hdown hlatent herr hsound hok hleaf
  · exact exec_tlbWalkStep_of_poison hwalk hwaits hdown hlatent herr hpoison
  · obtain ⟨hle, hhome, hregion⟩ := State.patrolLine_some hline
    have hexec := exec_patrolRead (s := s) (r := some n) hline
    rw [Option.elim_some] at hexec
    refine ⟨hle, hhome, hregion, hexec, fun hclean => ?_⟩
    rw [hexec, State.foldl_detect_of_clean (fun i hi =>
      State.detect_of_clean (hclean i (List.mem_range.mp hi)).1 (hclean i (List.mem_range.mp hi)).2)]
    rfl
  · have hexec := exec_patrolRead (s := s) (r := none) hline
    exact hexec
  · intro t
    have ht := State.detect_latent hlatent herr
    cases hbad : s.uncorrectable w with
    | false =>
      rw [hbad] at ht
      rw [show t = _ from ht]
      exact ⟨mfind_mdel_same _ _, rfl, fun _ => ⟨rfl, rfl⟩, fun h => absurd h Bool.false_ne_true⟩
    | true =>
      rw [hbad] at ht
      rw [show t = _ from ht]
      exact ⟨mfind_mdel_same _ _, rfl, fun h => absurd h.symm Bool.false_ne_true, fun _ => ⟨rfl, _, rfl, rfl, rfl, rfl, rfl⟩⟩
  · intro t
    rw [show t = _ from State.detect_homeLost hlatent herr hflips]
    exact ⟨rfl, _, rfl, rfl, rfl, rfl, rfl, rfl⟩

end Sys2Proof.Machine
end

section
/-!
PROOFS of O45, the publish walks: the step of a herd's one walk, what a walk that stops leaves to its publishing context, and the
header of an object that enters a state.
-/

namespace Sys2Proof.Machine

open Claims

set_option Elab.async false

/-! ### The step of the one walk of a herd (R172) -/

/-- The header's word of an object, where its page is mapped. -/
def State.headerWords (s : State) (w : Walk) (o : Nat) : List Nat :=
  match s.translate w.ptb w.asid w.super .read (BitVec.ofNat 64 o) with
  | .ok l => [l.pa / 8]
  | .error _ => []

/-- A walk at the head of its mark stack, with the header in memory. -/
def State.atHead (s : State) (w : Walk) (o : Nat) : State :=
  (s.pushHeader w o).walkDetect w ((s.pushHeader w o).headerWords w o)

/-- What a walk does with an object of its mark stack, by what it meets there. -/
def State.afterVisit (s : State) (h : Nat) (w : Walk) (o : Nat) : Visit → Option State
  | .wait => none
  | .stop cause => some (s.stopWalk h w cause o)
  | .fault k _ => some (s.onWalk h w.id (fun _ => { w with fix := w.fix ++ [(o, memCause k .walker)] }))
  | .skip hpa =>
    let x := (s.setBy w.id hpa).elim w (fun d => { w with skipped := w.skipped ++ [(d, o)] })
    some (s.onWalk h x.id (fun _ => x))
  | .enter hpa hdr => s.scanObj h w o hpa hdr false false

theorem State.walkDetect_nil (s : State) (w : Walk) : s.walkDetect w [] = s := ite_self _

section

variable {s : State} {w : Walk}

theorem exec_walk {i : Instr} (hi : i = .walkStep ∨ i = .walkerGrant) : exec i s = goes s.walkStep := by
  rcases hi with rfl | rfl <;> rfl

theorem State.walkStep_of_one (hargs : s.act.args = []) (hwalks : (s.herd (herdOfCore s.act.core)).walks = [w]) :
    s.walkStep = (s.walkRun (herdOfCore s.act.core) w false).getD s := by
  unfold State.walkStep
  dsimp only
  rw [hargs, hwalks]
  dsimp only
  rw [List.findSome?_singleton]

theorem State.walkRun_of_some {h : Nat} {only : Bool} {t : State} (hwaits : w.waits = false) (ht : s.takeObj h w only = some t) :
    s.walkRun h w only = some t := by
  unfold State.walkRun
  rw [if_neg (ne_true_of_eq_false hwaits), ht]

/-- With nothing left a walk is gone, and what waited for it goes on (R171). -/
theorem State.walkRun_of_complete {h : Nat} {only : Bool} (hwaits : w.waits = false) (htake : s.takeObj h w only = none)
    (hheld : w.held = none) (hnext : s.nextObj w = .none) (hcomplete : s.walkCompletes w = true) :
    s.walkRun h w only = some ((s.onHerd h (fun y => { y with walks := y.walks.filter (fun x => x.id != w.id) })).walkDone w) := by
  unfold State.walkRun
  rw [if_neg (ne_true_of_eq_false hwaits), htake, hheld, hnext, hcomplete]
  rfl

theorem State.refillWord_of_none (hspill : w.spilled ≤ w.refilled) : s.refillWord w = [] := if_neg (fun h => Nat.not_lt.mpr hspill h.2)

section

variable (hretry : w.retrying = false) (hspill : w.spilled ≤ w.refilled)
include hretry hspill

theorem State.nextObj_of_stack {o : Nat} {q : List Nat} (hqueue : w.queue = o :: q) :
    s.nextObj w = .obj o false { w with queue := q } := by
  unfold State.nextObj
  rw [if_neg (ne_true_of_eq_false hretry), if_neg (Nat.not_lt.mpr hspill), hqueue]

theorem State.nextObj_of_empty (hqueue : w.queue = []) (hfix : w.fix = []) : s.nextObj w = .none := by
  unfold State.nextObj
  rw [if_neg (ne_true_of_eq_false hretry), if_neg (Nat.not_lt.mpr hspill), hqueue, hfix]

end

variable (hspill : w.spilled ≤ w.refilled) (hheld : w.held = none) (hbefore : s.heldBefore w = false)
include hspill hheld hbefore

theorem State.takeObj_of_none (h : Nat) (hnext : s.nextObj w = .none) : s.takeObj h w false = none := by
  have hs : (if s.heldBefore w = true then s.pushWrites w.core w.ctx 0 else s) = s := if_neg (ne_true_of_eq_false hbefore)
  unfold State.takeObj
  rw [hheld]
  dsimp only
  rw [hs, if_neg (ne_true_of_eq_false hbefore), State.refillWord_of_none hspill, State.walkDetect_nil,
    hnext]

/-- A walk takes an object for the first time, and no other walk has stopped there (R172). -/
theorem State.takeObj_of_next (h : Nat) {o : Nat} {x : Walk} (hnext : s.nextObj w = .obj o false x) (htake : x.takeover = []) :
    s.takeObj h w false = (s.atHead x o).afterVisit h x o ((s.atHead x o).visit x o false) := by
  have hs : (if s.heldBefore w = true then s.pushWrites w.core w.ctx 0 else s) = s := if_neg (ne_true_of_eq_false hbefore)
  have hforce : x.takeover.contains o = false := by rw [htake]; rfl
  unfold State.takeObj
  rw [hheld]
  dsimp only
  rw [hs, if_neg (ne_true_of_eq_false hbefore), State.refillWord_of_none hspill, State.walkDetect_nil, hnext]
  dsimp only
  rw [hforce]
  unfold State.atHead State.headerWords
  generalize s.pushHeader x o = v
  generalize v.translate x.ptb x.asid x.super .read (BitVec.ofNat 64 o) = page
  cases page
  all_goals
    dsimp only
    generalize v.walkDetect x _ = u
    generalize u.visit x o false = met
    cases met with
    | skip hpa =>
      unfold State.afterVisit
      dsimp only
      cases u.setBy x.id hpa <;> rfl
    | _ => rfl

end

end Sys2Proof.Machine
end

section
/-!
PROOFS of O45, the publish walks, continued: a walk that stops finds its publishing context where it was.
-/

namespace Sys2Proof.Machine

open Claims

set_option Elab.async false

/-! ### The first hit in a table -/

section

variable {α β : Type} {g : Nat × α → Option β} {m : Map α} {k : Nat} {x d : α} {b : β}

theorem mem_of_mem_mset {e : Nat × α} (h : e ∈ mset m k x) : e = (k, x) ∨ e ∈ m := by
  induction m with
  | nil => exact .inl (List.mem_singleton.mp h)
  | cons y m ih =>
    obtain ⟨j, y⟩ := y
    rw [mset] at h
    split at h
    · exact (List.mem_cons.mp h).imp_right (List.mem_cons_of_mem _)
    · split at h
      · exact List.mem_cons.mp h
      · rcases List.mem_cons.mp h with h | h
        · exact .inr (h ▸ List.mem_cons_self)
        · exact (ih h).imp_right (List.mem_cons_of_mem _)

/-- The hit stays the first one when an entry changes that stays the hit if it is, and becomes no other. -/
theorem findSome?_mset (hm : m.findSome? g = some b) (hkeep : g (k, mget d m k) = some b → g (k, x) = some b)
    (hx : g (k, x) = none ∨ g (k, x) = some b) : (mset m k x).findSome? g = some b := by
  induction m with
  | nil => cases hm
  | cons e m ih =>
    obtain ⟨j, y⟩ := e
    rw [mset]
    split
    next hj =>
      subst hj
      rw [mget, if_pos rfl] at hkeep
      rcases hx with hx | hx
      · have hy : g (j, y) = none := by
          cases hy : g (j, y) with
          | none => rfl
          | some c =>
            rw [List.findSome?_cons, hy] at hm
            rw [hkeep (hy.trans hm)] at hx
            cases hx
        rw [List.findSome?_cons, hy] at hm
        rw [List.findSome?_cons, hx]
        exact hm
      · rw [List.findSome?_cons, hx]
    next hj =>
      rw [mget, if_neg hj] at hkeep
      split
      · rcases hx with hx | hx
        · rw [List.findSome?_cons, hx]
          exact hm
        · rw [List.findSome?_cons, hx]
      · rw [List.findSome?_cons] at hm ⊢
        cases hy : g (j, y) with
        | none =>
          rw [hy] at hm
          exact ih hm hkeep
        | some c =>
          rw [hy] at hm
          exact hm

/-- Where the first hit is of number k, the table's value of k is the hit, or has none. -/
theorem hit_mget (hm : m.findSome? g = some b) (hkey : ∀ j y, g (j, y) = some b → j = k) :
    g (k, mget d m k) = none ∨ g (k, mget d m k) = some b := by
  induction m with
  | nil => cases hm
  | cons e m ih =>
    obtain ⟨j, y⟩ := e
    rw [List.findSome?_cons] at hm
    cases hy : g (j, y) with
    | some c =>
      rw [hy] at hm
      have hj : j = k := hkey j y (hy.trans hm)
      rw [mget, if_pos hj, ← hj, hy]
      exact .inr hm
    | none =>
      rw [hy] at hm
      by_cases hj : j = k
      · rw [mget, if_pos hj, ← hj]
        exact .inl hy
      · rw [mget, if_neg hj]
        exact ih hm

end

/-! ### The place of a thread (R18) -/

/-- A live context of a thread, by its core and its number. -/
def placeIn (handle core : Nat) (e : Nat × Context) : Option (Nat × Nat) :=
  if e.2.live && e.2.handle == handle then some (core, e.1) else none

/-- A core's first context of a thread. -/
def placeAt (handle : Nat) (e : Nat × Core) : Option (Nat × Nat) := e.2.ctxs.findSome? (placeIn handle e.1)

theorem placeIn_cases {handle core : Nat} {e : Nat × Context} {p : Nat × Nat} (h : placeIn handle core e = some p) :
    p = (core, e.1) ∧ (e.2.live && e.2.handle == handle) = true := by
  unfold placeIn at h
  split at h
  next hhit =>
    cases h
    exact ⟨rfl, hhit⟩
  next => cases h

theorem State.placeOf_eq (s : State) (handle : Nat) : s.placeOf handle = s.cores.findSome? (placeAt handle) := by
  have hcore : ∀ (c : Nat) (ks : Map Context),
      ((ks.filter (fun k => k.2.live && k.2.handle == handle)).map (fun k => (c, k.1))).head? = ks.findSome? (placeIn handle c) := by
    intro c ks
    induction ks with
    | nil => rfl
    | cons e ks ih =>
      rw [List.findSome?_cons, placeIn]
      by_cases hhit : (e.2.live && e.2.handle == handle) = true
      · rw [List.filter_cons, if_pos hhit, if_pos hhit]
        rfl
      · rw [List.filter_cons, if_neg hhit, if_neg hhit]
        exact ih
  unfold State.placeOf
  rw [List.head?_flatten, List.findSome?_map]
  exact congrArg (fun g => s.cores.findSome? g) (funext fun c => hcore c.1 c.2.ctxs)

theorem placeAt_fst {handle j : Nat} {y : Core} {p : Nat × Nat} (h : placeAt handle (j, y) = some p) : j = p.1 := by
  obtain ⟨e, -, he⟩ := List.exists_of_findSome?_eq_some h
  rw [(placeIn_cases he).1]

/-- A thread's context keeps its place while it stays live and the thread's. -/
theorem State.placeOf_onCtx {s : State} {handle c k : Nat} {f : Context → Context}
    (hf : ∀ x : Context, (f x).live = x.live ∧ (f x).handle = x.handle) (h : s.placeOf handle = some (c, k)) :
    (s.onCtx c k f).placeOf handle = some (c, k) := by
  have hhit : ∀ x : Context, placeIn handle c (k, f x) = placeIn handle c (k, x) := fun x => by
    obtain ⟨hlive, hhandle⟩ := hf x
    unfold placeIn
    rw [hlive, hhandle]
  have hnew : ∀ x : Context, placeIn handle c (k, x) = none ∨ placeIn handle c (k, x) = some (c, k) := fun x =>
    (ite_eq_or_eq _ _ _).symm
  rw [State.placeOf_eq] at h ⊢
  have hold : placeAt handle (c, s.core c) = none ∨ placeAt handle (c, s.core c) = some (c, k) :=
    hit_mget h (fun _ _ hy => placeAt_fst hy)
  have hstay : placeAt handle (c, s.core c) = some (c, k) →
      placeAt handle (c, { s.core c with ctxs := mset (s.core c).ctxs k (f (s.ctxOf c k)) }) = some (c, k) := fun hc =>
    findSome?_mset (d := ({} : Context)) hc (fun hx => (hhit _).trans hx) (hnew _)
  refine findSome?_mset (d := ({} : Core)) h hstay ?_
  rcases hold with hold | hold
  · refine (Option.eq_none_or_eq_some _).imp_right fun ⟨p, hp⟩ => hp.trans ?_
    obtain ⟨e, he, hep⟩ := List.exists_of_findSome?_eq_some hp
    rcases mem_of_mem_mset he with rfl | he
    · rw [← hep]
      exact (hnew _).resolve_left (fun hno => by rw [hno] at hep; cases hep)
    · rw [List.findSome?_eq_none_iff.mp hold e he] at hep
      cases hep
  · exact .inr (hstay hold)

/-! ### A walk that stops (R173) -/

/-- The herds when walk w of herd h has stopped. -/
def State.withoutWalk (s : State) (h : Nat) (w : Walk) : State :=
  let t := s.onHerd h (fun y => { y with walks := y.walks.filter (fun x => x.id != w.id) })
  { t with herds := t.herds.map (fun (y : Nat × Herd) => (y.1, { y.2 with walks := y.2.walks.map (fun (x : Walk) => x.takeOver w.id) })) }

/-- A context that waits for a walk which stopped does not go on with its instruction. -/
def Context.walkLost (id : Nat) (x : Context) : Context :=
  if x.awaitWalks.contains id then { x with phase := .fetch, snap := none, acc := none, snapCmd := none, awaitWalks := [] } else x

theorem Context.walkLost_place (id : Nat) (x : Context) : (x.walkLost id).live = x.live ∧ (x.walkLost id).handle = x.handle := by
  unfold Context.walkLost
  split
  · exact ⟨rfl, rfl⟩
  · exact ⟨rfl, rfl⟩

/-- The state in which the stores that wait for a walk that stopped are noted. -/
def State.walkNoted (s : State) (w : Walk) : State :=
  if s.cores.any (fun c => c.2.wq.any (fun f => f.walk == some w.id)) then
    { s with mem := { s.mem with unpublished := s.mem.unpublished ++ [(w.id, w.handle, w.root, w.scope)] } }
  else s

theorem State.walkNoted_cores (s : State) (w : Walk) : (s.walkNoted w).cores = s.cores := by
  unfold State.walkNoted
  split
  · rfl
  · rfl

/-- The place of a thread is a matter of the cores. -/
theorem State.placeOf_of_cores {s t : State} (h : t.cores = s.cores) (handle : Nat) : t.placeOf handle = s.placeOf handle := by
  rw [State.placeOf, State.placeOf, h]

theorem State.walkLost_eq {s : State} {w : Walk} {c k : Nat} (h : s.placeOf w.handle = some (c, k)) :
    s.walkLost w = (s.walkNoted w).onCtx c k (Context.walkLost w.id) := by
  have hplace : (s.walkNoted w).placeOf w.handle = some (c, k) := (State.placeOf_of_cores (s.walkNoted_cores w) _).trans h
  unfold State.walkLost
  extract_lets waits m t
  rw [show t.placeOf w.handle = some (c, k) from hplace]
  rfl

/-- A walk of a context that is in place leaves it a pending fault. -/
theorem State.stopWalk_eq {s : State} {h cause o c k : Nat} {w : Walk} (hheld : w.held = none) (hsite : w.site = none)
    (hplace : s.placeOf w.handle = some (c, k)) :
    s.stopWalk h w cause o = (((s.withoutWalk h w).walkNoted w).onCtx c k (Context.walkLost w.id)).onCtx c k
      (fun x => x.stateFault cause (BitVec.ofNat 64 w.root) (BitVec.ofNat 64 o)) := by
  have hunmark : s.unmark w = s := by
    unfold State.unmark
    rw [hheld]
  have hwithout : (s.withoutWalk h w).placeOf w.handle = some (c, k) := (State.placeOf_of_cores rfl _).trans hplace
  have hnoted : ((s.withoutWalk h w).walkNoted w).placeOf w.handle = some (c, k) :=
    (State.placeOf_of_cores ((s.withoutWalk h w).walkNoted_cores w) _).trans hwithout
  unfold State.stopWalk
  rw [hunmark]
  extract_lets s1 s2 s3 s4 root
  have hlost : s4 = ((s.withoutWalk h w).walkNoted w).onCtx c k (Context.walkLost w.id) := State.walkLost_eq hwithout
  rw [hlost, hsite]
  dsimp only
  rw [State.placeOf_onCtx (Context.walkLost_place w.id) hnoted]

theorem State.walkNoted_of_none {s : State} {w : Walk} (h : ∀ c ∈ s.cores, ∀ f ∈ c.2.wq, f.walk ≠ some w.id) :
    s.walkNoted w = s := by
  refine if_neg fun hany => ?_
  obtain ⟨c, hc, hf⟩ := List.any_eq_true.mp hany
  obtain ⟨f, hf, hwalk⟩ := List.any_eq_true.mp hf
  exact h c hc f hf (beq_iff_eq.mp hwalk)

theorem State.stopWalk_result {s : State} {h cause o c k : Nat} {w : Walk} (hheld : w.held = none) (hsite : w.site = none)
    (hplace : s.placeOf w.handle = some (c, k)) :
    ((s.stopWalk h w cause o).ctxOf c k).pendFault = some { cause := cause, tval := BitVec.ofNat 64 w.root, tval2 := BitVec.ofNat 64 o } ∧
      ((∀ c ∈ s.cores, ∀ f ∈ c.2.wq, f.walk ≠ some w.id) → (s.stopWalk h w cause o).mem = s.mem) := by
  rw [State.stopWalk_eq hheld hsite hplace]
  refine ⟨?_, fun hwalk => ?_⟩
  · rw [State.onCtx, State.ctxOf_setCtx]
    rfl
  · rw [State.walkNoted_of_none (s := s.withoutWalk h w) hwalk]
    rfl

/-! ### Headers (R152) -/

/-- A header that takes its next version and a state keeps its other fields. -/
theorem hdrState_hdrNext {hdr scope : Nat} (hscope : scope < 8) :
    let x := hdrState (hdrNext hdr) scope
    x / 2 ^ 30 % 8 = scope ∧ x / 2 ^ 49 = (hdr / 2 ^ 49 + 1) % 2 ^ 15 ∧ x % 2 ^ 30 = hdr % 2 ^ 30 ∧
      x / 2 ^ 33 % 2 ^ 16 = hdr / 2 ^ 33 % 2 ^ 16 := by
  have hnext : hdrNext hdr = hdr % 2 ^ 49 + (hdr / 2 ^ 49 % 2 ^ 15 + 1) % 2 ^ 15 * 2 ^ 49 := by
    rw [hdrNext, field_eq_div]
  intro x
  have hx : x = hdrNext hdr - hdrNext hdr / 2 ^ 30 % 2 ^ 3 * 2 ^ 30 + scope * 2 ^ 30 := by
    rw [show x = hdrState (hdrNext hdr) scope from rfl, hdrState, field_eq_div]
  clear_value x
  generalize hdrNext hdr = y at hnext hx
  omega

/-! ### The publish walks -/

/-- WALK_STEP of the one walk of a herd (R172). -/
theorem walkEffects (s : State) (w : Walk) (o : Nat) (q : List Nat) (i : Instr) (hi : i = .walkStep ∨ i = .walkerGrant) :
    let h := herdOfCore s.act.core
    let w1 : Walk := { w with queue := q }
    let u := s.atHead w1 o
    s.act.args = [] → (s.herd h).walks = [w] → w.waits = false → w.held = none → w.retrying = false → w.spilled ≤ w.refilled →
    s.heldBefore w = false →
    (w.queue = [] → w.fix = [] → s.walkCompletes w = true →
      exec i s = goes ((s.onHerd h (fun y => { y with walks := [] })).walkDone w)) ∧
    (w.queue = o :: q → w.takeover = [] → ∀ t, u.afterVisit h w1 o (u.visit w1 o false) = some t → exec i s = goes t) := by
  intro h w1 u hargs hwalks hwaits hheld hretry hspill hbefore
  have hstep : ∀ t, s.walkRun h w false = some t → exec i s = goes t := fun t ht => by
    rw [exec_walk hi, State.walkStep_of_one hargs hwalks, ht]
    rfl
  refine ⟨fun hqueue hfix hcomplete => ?_, fun hqueue htake t ht => ?_⟩
  · have hnext := State.nextObj_of_empty (s := s) hretry hspill hqueue hfix
    have hgone : s.onHerd h (fun y => { y with walks := y.walks.filter (fun x => x.id != w.id) }) =
        s.onHerd h (fun y => { y with walks := [] }) := by
      unfold State.onHerd
      dsimp only
      rw [hwalks, List.filter_cons, bne_self_eq_false]
      rfl
    rw [hstep _ (State.walkRun_of_complete hwaits (State.takeObj_of_none hspill hheld hbefore h hnext) hheld hnext hcomplete), hgone]
  · exact hstep t (State.walkRun_of_some hwaits
      ((State.takeObj_of_next hspill hheld hbefore h (State.nextObj_of_stack hretry hspill hqueue) htake).trans ht))

theorem publishWalks : PublishWalks := by
  refine ⟨?_, fun s h w cause o c k hheld hsite hplace => ?_, fun hdr scope _ => hdrState_hdrNext⟩
  · intro s w o q i hi h w1 hargs hwalks hwaits hheld hretry hspill hbefore
    obtain ⟨hempty, hstack⟩ := walkEffects s w o q i hi hargs hwalks hwaits hheld hretry hspill hbefore
    refine ⟨hempty, fun hqueue htake => ?_⟩
    intro v u
    have hu : u = s.atHead w1 o := by
      show v.walkDetect w1 _ = v.walkDetect w1 (v.headerWords w1 o)
      unfold State.headerWords
      generalize v.translate w.ptb w.asid w.super .read (BitVec.ofNat 64 o) = page
      cases page <;> rfl
    have hnext := hstack hqueue htake
    rw [← hu] at hnext
    clear_value u
    refine ⟨fun hpa hvisit hset => hnext _ ?_, fun cause hvisit => hnext _ ?_, fun k va hvisit => hnext _ ?_,
      fun hpa hdr t hvisit hscan => hnext _ ?_⟩
    · rw [hvisit, State.afterVisit, hset]
      rfl
    · rw [hvisit, State.afterVisit]
    · rw [hvisit, State.afterVisit]
    · rw [hvisit, State.afterVisit]
      exact hscan
  · obtain ⟨hfault, hmem⟩ := State.stopWalk_result (h := h) (cause := cause) (o := o) hheld hsite hplace
    exact ⟨_, rfl, hfault, hmem⟩

/-- Settles O45: the updates on their way, the walks of the translation tables with the patrol, and the publish walks. -/
theorem memoryEventResults : Obligations.MemoryEventResults := ⟨updates, walksOfTables, publishWalks⟩

end Sys2Proof.Machine
end

section
/-!
SUPPORT. The performance of a held instruction whatever it leaves the context in: at the next block, or in a wait that is
not one for a resolution (R181).
-/

namespace Sys2Proof.Machine

open Claims

set_option Elab.async false

/-- A phase in which no resolution of a record is waited for (R178, R181). -/
def Phase.Free (p : Phase) : Prop := ∀ n, p ≠ .wait (.fault n)

theorem Phase.free_fetch : Phase.Free .fetch := fun _ h => nomatch h

/-- A held instruction whose performance is done leaves a finished context: it waits for no resolution. -/
theorem State.exposed_of_free {s t : State} {i : Instr} {perform : State → Perf} (hheld : Held s i)
    (h : perform (resumed s) = .done t) (ht : t.me.phase.Free) (checks : State → Chk Unit) :
    s.exposed i checks perform = finished t := by
  obtain ⟨hphase, hwalks⟩ := hheld
  have hrun : s.onMe (fun c => { c with phase := .fetch, snap := some s.me.view }) = resumed s := by
    unfold State.onMe resumed
    dsimp only
    rw [hwalks]
  unfold State.exposed
  dsimp only
  rw [if_pos hphase, hrun, if_neg (by simp [resumed]), h]
  unfold State.onMe finished
  dsimp only
  split
  next n hn => exact absurd hn (ht n)
  next => rfl

theorem State.free_of_kept {s t : State} (h : Keeps Context.phase (resumed s) t) : t.me.phase.Free := by
  rw [h.me, resumed_me]
  exact Phase.free_fetch

/-- A context that is set beside the acting one's phase. -/
theorem State.onMe_free {s : State} {f : Context → Context} (h : (f s.me).phase.Free) : (s.onMe f).me.phase.Free := by
  rwa [State.me_onMe]

end Sys2Proof.Machine
end

section
/-!
PROOFS of O33 to O36: the instructions on sets. An instruction that finds its record is performed with the record's content
(`State.setInstr_perform`); each outcome is then an arm of its definition.
-/

namespace Sys2Proof.Machine

open Claims

set_option Elab.async false

/-! ### Set records (R182) -/

theorem SetRec.count_eq (r : SetRec) : r.count = Claims.count r := by
  rw [SetRec.count, field_eq_div]
  simp [Claims.count]
theorem SetRec.joined_eq (r : SetRec) : r.joined = Claims.joined r := field_eq_div _ _ _
theorem SetRec.herd_eq (r : SetRec) : r.herd = r.w0.toNat / 2 ^ 34 % 256 := field_eq_div _ _ _
theorem SetRec.unit_eq (r : SetRec) : r.unit = r.w0.toNat / 2 ^ 42 % 4 := field_eq_div _ _ _
theorem SetRec.wdog_eq (r : SetRec) : r.wdog = r.w0.toNat / 2 ^ 46 % 32 := field_eq_div _ _ _

/-- The fields that a record refuses are those out of their range. -/
theorem SetRec.bad_eq_false_iff (r : SetRec) : r.bad = false ↔ InRange r := by
  unfold SetRec.bad InRange
  rw [SetRec.herd_eq, SetRec.count_eq, SetRec.joined_eq]
  unfold SetRec.bound SetRec.pool Claims.count Claims.joined
  simp only [Bool.or_eq_false_iff, Bool.and_eq_false_iff, decide_eq_false_iff_not, Bool.not_eq_false', not_and, not_lt,
    not_le, Bool.not_eq_false]
  cases r.w0.getLsbD 33 <;> cases r.w0.getLsbD 32 <;> simp

theorem SetRec.bad_of_not_inRange {r : SetRec} (h : ¬ InRange r) : r.bad = true := by
  rwa [← Bool.not_eq_false, SetRec.bad_eq_false_iff]

/-! ### The course of an instruction on a set -/

section

variable {s s1 : State} {a : RegNo} {pa e : Nat} {m : Member} {r : SetRec} {i : Instr}

theorem State.readAt_keeps {α : Type} {f : Context → α} (hf : IgnoresRegs f) {s0 s : State} {core ctx w : Nat}
    (h : Keeps f s0 s) : Keeps f s0 (s.readAt core ctx w).1 := by
  grind [State.readAt, State.rmw_keeps]

theorem State.writeAt_keeps {α : Type} {f : Context → α} (hf : IgnoresRegs f) {s0 s : State} {core ctx w : Nat} {v : Word}
    (h : Keeps f s0 s) : Keeps f s0 (s.writeAt core ctx w v) := by
  generalize hg : @State.writeAt = g
  delta State.writeAt at hg
  subst hg
  beta_reduce
  generalize State.region = region
  grind [State.rmw_keeps]

/-- What the reads of a record keep. -/
theorem State.readRec_keeps {α : Type} {f : Context → α} (hf : IgnoresRegs f) {s0 s : State} {core ctx pa : Nat}
    (h : Keeps f s0 s) : Keeps f s0 (s.readRec core ctx pa).1 := by
  generalize hg : @State.readRec = g
  delta State.readRec at hg
  subst hg
  beta_reduce
  have hread := @State.readAt_keeps α f hf s0
  generalize @State.readAt = readAt at hread ⊢
  grind

theorem State.onUnit_keeps {α : Type} {f : Context → α} {s0 s : State} {h u : Nat} {g : BarUnit → BarUnit}
    (hs : Keeps f s0 s) : Keeps f s0 (s.onUnit h u g) := hs

theorem State.writeRec_keeps {α : Type} {f : Context → α} (hf : IgnoresRegs f) {s0 s : State} {core ctx pa : Nat} {r : SetRec}
    (h : Keeps f s0 s) : Keeps f s0 (s.writeRec core ctx pa r) := by
  have hwrite := @State.writeAt_keeps α f hf s0
  unfold State.writeRec
  generalize @State.writeAt = writeAt at hwrite ⊢
  exact ite_both (State.onUnit_keeps (hwrite h)) (hwrite (hwrite (hwrite h)))

/-- What a context holds beside the phase of an instruction that finds its record is what it held. -/
theorem findsRecord_keeps {α : Type} {f : Context → α} (hf : IgnoresRegs f) (h : FindsRecord s a s1 pa r) :
    Keeps f (resumed s) s1 := by
  obtain ⟨s0, acc, hok, -, hread⟩ := h
  have hk := State.readRec_keeps hf (core := s0.act.core) (ctx := s0.act.ctx) (pa := pa) (State.heldAccess_kept hf hok (Keeps.refl _ _))
  rwa [hread] at hk

/-- The performance of an access that finds a record. -/
theorem performAccess_of_findsRecord (h : FindsRecord s a s1 pa r) {k : State → Access → Perf} {g : State → SetRec → Nat → Perf}
    (hg : ∀ u acc, k u acc = g (u.readRec u.act.core u.act.ctx acc.pa).1 (u.readRec u.act.core u.act.ctx acc.pa).2 acc.pa) :
    (resumed s).performAccess (recordReq (s.me.rgt a)) k = g s1 r pa := by
  obtain ⟨s0, acc, hok, rfl, hread⟩ := h
  refine (State.performAccess_of_ok hok k).trans ?_
  rw [hg, hread]

/-- An instruction on a set of the table is performed with the record that it finds. -/
theorem State.setInstr_of_found (hheld : Held s i) (hm : MemberAt s a e m) (h : FindsRecord s a s1 pa r)
    {k : State → Nat → Member → Nat → SetRec → Perf} {t : State} (hk : k s1 e m pa r = .done t) (ht : t.me.phase.Free) :
    s.setInstr i a k = finished t := by
  unfold State.setInstr
  refine State.exposed_of_free hheld ?_ ht _
  have hentry : (resumed s).me.entryOf (s.me.rgt a).val.toNat = some (e, m) := by
    rw [resumed_me]
    exact hm
  dsimp only
  rw [hentry]
  exact (performAccess_of_findsRecord h (g := fun u x p => k u e m p x) (fun _ _ => rfl)).trans hk

/-- A state fault is noted where the context stands at its next block. -/
theorem State.noted_deliver (u : State) (cause : Nat) (v w : Word) : Noted u (finished (u.deliver cause v w)) cause v w := rfl

theorem State.deliver_free {u : State} (h : u.me.phase.Free) (cause : Nat) (v w : Word) : (u.deliver cause v w).me.phase.Free :=
  State.onMe_free h

end

/-! ### Rejoin queues (R194..R196) -/

theorem iter_herds {f : State → State} (hf : ∀ t, (f t).herds = t.herds) (n : Nat) (s : State) : (iter f n s).herds = s.herds := by
  induction n generalizing s with
  | zero => rfl
  | succ n ih => exact (ih (f s)).trans (hf s)

/-- An acquire at HERD scope leaves the herds as they are. -/
theorem State.acquire_herd (s : State) (core : Nat) : (s.acquire core 1).herds = s.herds :=
  iter_herds (f := fun t => t.drainL1One core) (fun _ => rfl) _ _

theorem State.unit_onUnit (s : State) (h u : Nat) (f : BarUnit → BarUnit) :
    ((s.onUnit h u f).herd h).unit u = f ((s.herd h).unit u) := by
  unfold State.onUnit Herd.unit
  rw [State.herd_onHerd, mget_mset_same]

/-- Settles O36: rjput and rjtake on a herd-bound POOL set, and SET_MODE on any other. -/
theorem rejoinQueueResults : Obligations.RejoinQueueResults := by
  intro s s1 d a b c p pa e m r hm hfinds hrange herd unit ranges own x y put
  have hbad : r.bad = false := r.bad_eq_false_iff.mpr hrange
  have hkept := findsRecord_keeps ignoresRegs_phase hfinds
  have hfree := State.free_of_kept hkept
  have hown : (r.pool && r.bound) = true ↔ own := by
    rw [Bool.and_eq_true]
    rfl
  have hranges : ∀ u : State, ((u.herd r.herd).unit r.unit).ranges = ranges u := fun u => by
    rw [r.herd_eq, r.unit_eq]
    rfl
  refine ⟨fun hnot i hi hheld => ?_, fun hyes hheld s2 hrel => ?_, fun hyes hheld => ?_⟩
  · have hmode : (!(r.pool && r.bound)) = true := by rwa [Bool.not_eq_true', ← Bool.not_eq_true, hown]
    rcases List.mem_pair.mp hi with rfl | rfl
    all_goals
      refine ⟨_, congrArg goes (State.setInstr_of_found hheld hm hfinds ?_ (State.deliver_free hfree _ _ _)), s1.noted_deliver _ _ _⟩
      dsimp only
      rw [if_neg (ne_true_of_eq_false hbad), if_pos hmode]
  · have hmode : ¬ (!(r.pool && r.bound)) = true := by
      rw [Bool.not_eq_true', ← Bool.not_eq_true, not_not, hown]
      exact hyes
    have hkept2 : Keeps Context.phase (resumed s) s2 := by
      have h := State.release_keeps ignoresRegs_phase (core := s1.act.core) (ctx := s1.act.ctx) (scope := 1) hkept
      rwa [hrel] at h
    have hfree2 := State.free_of_kept hkept2
    have hput : ∀ t, t.me.phase.Free →
        (if y.toNat ≤ x.toNat then Perf.done s2 else if 32 ≤ (ranges s2).length then .done (s2.deliver Cause.rjFull x y)
          else .done (s2.onUnit herd unit (fun u => { u with ranges := u.ranges ++ [(x, y)] }))) = .done t →
        exec (.rjput a b c) s = goes (finished t) := fun t hphase hdone => by
      refine congrArg goes (State.setInstr_of_found hheld hm hfinds ?_ hphase)
      dsimp only
      rw [if_neg (ne_true_of_eq_false hbad), if_neg hmode, hrel, if_neg Bool.noConfusion, hranges, r.herd_eq, r.unit_eq]
      exact hdone
    refine ⟨fun hle => ⟨_, hput s2 hfree2 (if_pos hle), rfl⟩, fun hlt hfull => ⟨_, hput _ (State.deliver_free hfree2 _ _ _) ?_, s2.noted_deliver _ _ _⟩,
      fun hlt hroom => ⟨hput _ ?_ ?_, ?_⟩⟩
    · rw [if_neg (by omega), if_pos hfull]
    · exact hfree2
    · rw [if_neg (by omega), if_neg (by omega)]
    · exact congrArg BarUnit.ranges (s2.unit_onUnit herd unit _)
  · have hmode : ¬ (!(r.pool && r.bound)) = true := by
      rw [Bool.not_eq_true', ← Bool.not_eq_true, not_not, hown]
      exact hyes
    refine ⟨fun hnone => ⟨_, congrArg goes (State.setInstr_of_found hheld hm hfinds ?_
      (State.free_of_kept (committed_keeps ignoresRegs_phase hkept))), rfl⟩, fun u v rest hsome => ⟨congrArg goes (State.setInstr_of_found hheld hm hfinds ?_
      (State.free_of_kept (committed_keeps ignoresRegs_phase (State.acquire_keeps (State.onUnit_keeps hkept))))), ?_⟩⟩
    · dsimp only
      rw [if_neg (ne_true_of_eq_false hbad), if_neg hmode, hranges, hnone]
      rfl
    · dsimp only
      rw [if_neg (ne_true_of_eq_false hbad), if_neg hmode, hranges, hsome, r.herd_eq, r.unit_eq]
      rfl
    · have hherds : (committed ((s1.onUnit herd unit (fun y => { y with ranges := rest })).acquire s1.act.core 1) (put u v true)).herds =
          (s1.onUnit herd unit (fun y => { y with ranges := rest })).herds := State.acquire_herd _ _
      show ((mget {} (committed _ _).herds herd).unit unit).ranges = rest
      rw [hherds]
      exact congrArg BarUnit.ranges (s1.unit_onUnit herd unit _)

end Sys2Proof.Machine
end

section
/-!
PROOFS of O34: barriers.
-/

namespace Sys2Proof.Machine

open Claims

set_option Elab.async false

/-! ### Barriers (R188..R190) -/

theorem Context.onMember_phase (c : Context) (e : Nat) (f : Member → Member) : (c.onMember e f).phase = c.phase := by
  unfold Context.onMember
  split <;> rfl

theorem Context.onMember_sets {c : Context} {e : Nat} {x : Member} (h : mfind c.sets e = some x) (f : Member → Member) :
    mfind (c.onMember e f).sets e = some (f x) := by
  unfold Context.onMember
  rw [h]
  exact mfind_mset_same _ _ _

theorem State.onMe_keeps {α : Type} {f : Context → α} {s0 s : State} {g : Context → Context} (hg : f (g s.me) = f s.me)
    (h : Keeps f s0 s) : Keeps f s0 (s.onMe g) :=
  State.onCtx_keeps hg h

theorem State.testRec_keeps {α : Type} {f : Context → α} {s0 s : State} {pa : Nat} {r : SetRec} (h : Keeps f s0 s) :
    Keeps f s0 (s.testRec pa r).1 := by
  unfold State.testRec
  dsimp only
  split
  · exact h
  · exact h

/-- An arrival changes nothing of its context but the entry of its set. -/
theorem State.arrive_keeps {α : Type} {f : Context → α} (hf : IgnoresRegs f) {s0 s : State} {e pa : Nat} {m : Member} {r : SetRec}
    (h : Keeps f s0 (s.onMe (fun c => c.onMember e (fun m => { m with arrived := true })))) :
    Keeps f s0 (s.arrive e m pa r).1 := by
  unfold State.arrive
  dsimp only
  refine State.writeRec_keeps hf (State.testRec_keeps ?_)
  split
  · exact h
  · exact h

/-- The completion test of a record whose phase is not complete leaves it. -/
theorem SetRec.complete_of_not {r : SetRec} (h : ¬ r.complete.2 = true) : r.complete.1 = r := by
  unfold SetRec.complete at h ⊢
  split
  next hall => exact absurd (by rw [if_pos hall]) h
  next => rfl

theorem State.testRec_snd (s : State) (pa : Nat) (r : SetRec) : (s.testRec pa r).2 = r.complete.1 := by
  unfold State.testRec
  dsimp only
  split
  next => rfl
  next h => exact (SetRec.complete_of_not h).symm

/-- An arrival in its member's phase, and the completion test (R188, R189). -/
theorem State.arrive_snd (s : State) (e pa : Nat) (m : Member) (r : SetRec) :
    (s.arrive e m pa r).2 = (r.setCnt m.phase (r.cnt m.phase + 1)).complete.1 :=
  State.testRec_snd _ _ _

theorem SetRec.setCnt_cnt_same (r : SetRec) (ph : Bool) (n : Nat) : (r.setCnt ph n).cnt ph = n := by cases ph <;> rfl
theorem SetRec.setCnt_cnt_not (r : SetRec) (ph : Bool) (n : Nat) : (r.setCnt ph n).cnt (!ph) = r.cnt (!ph) := by cases ph <;> rfl
theorem SetRec.setCnt_w0 (r : SetRec) (ph : Bool) (n : Nat) : (r.setCnt ph n).w0 = r.w0 := by cases ph <;> rfl
theorem SetRec.setCnt_phase (r : SetRec) (ph : Bool) (n : Nat) : (r.setCnt ph n).phase = r.phase := by cases ph <;> rfl
theorem SetRec.setCnt_pend (r : SetRec) (ph : Bool) (n : Nat) : (r.setCnt ph n).pend = r.pend := by cases ph <;> rfl

theorem arrivalCounts : ArrivalCounts := by
  intro s e pa m r hphase q n other mine
  have hq : q = (r.setCnt r.phase n).complete.1 := by
    have h := s.arrive_snd e pa m r
    rwa [hphase] at h
  have hcount : (r.setCnt r.phase n).count = Claims.count r := by
    rw [SetRec.count_eq, Claims.count, r.setCnt_w0]
    rfl
  have hmine : ∀ x : SetRec, mine x = x.cnt r.phase := fun _ => rfl
  have hother : ∀ x : SetRec, other x = x.cnt (!r.phase) := fun x => by
    show (if r.phase then x.cnt0 else x.cnt1) = _
    cases r.phase <;> rfl
  have htest : (r.setCnt r.phase n).complete = if Claims.count r = n ∧ r.pend = 0 then
      ({ (r.setCnt r.phase n).setCnt r.phase 0 with phase := !r.phase }, true) else (r.setCnt r.phase n, false) := by
    unfold SetRec.complete
    rw [hcount, r.setCnt_phase, r.setCnt_cnt_same, r.setCnt_pend]
    by_cases h : Claims.count r = n ∧ r.pend = 0
    · rw [if_pos ⟨by omega, h.1.symm, h.2⟩, if_pos h]
    · rw [if_neg (fun h' => h ⟨h'.2.1.symm, h'.2.2⟩), if_neg h]
  rw [htest] at hq
  refine ⟨?_, ?_, fun hall => ?_, fun hnot => ?_, fun x hx => ?_⟩
  · rw [hq]
    split
    · exact ((r.setCnt r.phase n).setCnt_w0 _ _).trans (r.setCnt_w0 _ _)
    · exact r.setCnt_w0 _ _
  · rw [hother, hother, hq]
    split
    · exact ((r.setCnt r.phase n).setCnt_cnt_not r.phase 0).trans (r.setCnt_cnt_not _ _)
    · exact r.setCnt_cnt_not _ _
  · rw [if_pos hall] at hq
    rw [hmine, hq]
    exact ⟨rfl, (r.setCnt r.phase n).setCnt_cnt_same _ _⟩
  · rw [if_neg hnot] at hq
    rw [hmine, hq]
    exact ⟨r.setCnt_phase _ _, r.setCnt_cnt_same _ _⟩
  · have hsets := (State.arrive_keeps (f := Context.sets) ⟨⟨fun _ _ => rfl, fun _ _ => rfl⟩, fun _ _ _ _ => rfl⟩
      (e := e) (m := m) (pa := pa) (r := r) (Keeps.refl _ (s.onMe (fun c => c.onMember e (fun m => { m with arrived := true }))))).me
    rw [hsets, State.me_onMe]
    exact Context.onMember_sets hx _

/-- The acting context after a change to it. -/
theorem State.me_onCtx_of_act {s t : State} (h : t.act = s.act) (f : Context → Context) :
    (t.onCtx s.act.core s.act.ctx f).me = f t.me := by
  rw [← h]
  exact t.me_onMe f

theorem State.passBar_phase (s : State) (e scope : Nat) : (s.passBar s.act.core s.act.ctx e scope).me.phase = .fetch := by
  have hact : (s.acquire s.act.core scope).act = s.act := (State.acquire_keeps (Keeps.refl Context.phase s)).1
  unfold State.passBar
  generalize s.acquire s.act.core scope = t at hact ⊢
  exact congrArg Context.phase (State.me_onCtx_of_act hact _)

/-- The wait part of a bar leaves the context at its next block, or waiting for its set. -/
theorem State.barWait_free (s : State) (e : Nat) (m : Member) (r : SetRec) : (s.barWait e m r).me.phase.Free := by
  unfold State.barWait
  split
  · rw [s.passBar_phase]
    exact Phase.free_fetch
  · rw [State.me_onMe]
    exact fun _ h => nomatch h

theorem barrierEffects : BarrierEffects := by
  intro s s1 a pa e m r hm hfinds hrange hcount va ph arrived scope all
  have hkept := findsRecord_keeps ignoresRegs_phase hfinds
  have hfree := State.free_of_kept hkept
  have hbad : ¬ (r.bad = true ∨ r.count = 0) := by
    rw [r.bad_eq_false_iff.mpr hrange, r.count_eq]
    simpa using hcount
  have hph : BitVec.ofNat 64 (b2n m.phase) = ph := by
    show _ = if m.phase then 1 else 0
    cases m.phase <;> rfl
  -- What each form of bar is performed with.
  have hrun : ∀ {i : Instr} {arrives waits : Bool} {t : State}, Held s i → t.me.phase.Free →
      (if r.broken then Perf.done (s1.deliver Cause.barTimeout va (BitVec.ofNat 64 (r.cnt r.phase)))
       else if arrives && m.arrived then .done (s1.deliver Cause.barOverarrive va ph)
       else if !arrives && !m.arrived then .done (s1.deliver Cause.barNoarrive va ph)
       else if arrives then
        let q := s1.release s1.act.core s1.act.ctx r.scope
        if !q.2 then .later q.1
        else
          let t := q.1.arrive e m pa r
          .done (if waits then t.1.barWait e { m with arrived := true } t.2 else t.1)
       else .done (s1.barWait e m r)) = .done t → s.barrier i a arrives waits = finished t := by
    intro i arrives waits t hheld ht hdone
    refine State.setInstr_of_found hheld hm hfinds ?_ ht
    dsimp only
    rw [if_neg hbad, hph]
    exact hdone
  refine ⟨fun i hi hheld hbroken => ?_, fun hbroken harr i hi hheld => ?_, fun hbroken harr hheld => ?_,
    fun hbroken harr hphase hheld => ?_, fun hbroken harr hphase hheld => ?_, fun s2 hbroken harr hrel => ?_⟩
  · have hdone : ∀ arrives waits, s.barrier i a arrives waits = finished (s1.deliver Cause.barTimeout va (BitVec.ofNat 64 (r.cnt r.phase))) :=
      fun _ _ => hrun hheld (State.deliver_free hfree _ _ _) (if_pos hbroken)
    refine ⟨_, ?_, s1.noted_deliver _ _ _⟩
    simp only [all, List.mem_cons, List.not_mem_nil, or_false] at hi
    rcases hi with rfl | rfl | rfl <;> exact congrArg goes (hdone _ _)
  · have hdone : ∀ waits, s.barrier i a true waits = finished (s1.deliver Cause.barOverarrive va ph) :=
      fun _ => hrun hheld (State.deliver_free hfree _ _ _) (by rw [if_neg (by simp [hbroken]), if_pos (by simp [harr])])
    refine ⟨_, ?_, s1.noted_deliver _ _ _⟩
    rcases List.mem_pair.mp hi with rfl | rfl <;> exact congrArg goes (hdone _)
  · refine ⟨_, congrArg goes (hrun hheld (State.deliver_free hfree _ _ _) ?_), s1.noted_deliver _ _ _⟩
    rw [if_neg (by simp [hbroken]), if_neg (by simp), if_pos (by simp [harr])]
  · have hwait : s1.barWait e m r = s1.setMe { s1.me with phase := .wait (.bar e) } := if_neg (not_not.mpr hphase)
    refine ⟨_, congrArg goes (hrun hheld (s1.barWait_free e m r) ?_), congrArg finished hwait⟩
    rw [if_neg (by simp [hbroken]), if_neg (by simp), if_neg (by simp [harr]), if_neg (by simp)]
  · have hwait : s1.barWait e m r = s1.passBar s1.act.core s1.act.ctx e scope := if_pos hphase
    refine ⟨_, congrArg goes (hrun hheld (s1.barWait_free e m r) ?_), congrArg finished hwait⟩
    rw [if_neg (by simp [hbroken]), if_neg (by simp), if_neg (by simp [harr]), if_neg (by simp)]
  · have hkept2 : Keeps Context.phase (resumed s) s2 := by
      have h := State.release_keeps ignoresRegs_phase (core := s1.act.core) (ctx := s1.act.ctx) (scope := scope) hkept
      rwa [hrel] at h
    have hqfree : (s2.arrive e m pa r).1.me.phase.Free := State.free_of_kept (State.arrive_keeps ignoresRegs_phase
      (State.onMe_keeps (s2.me.onMember_phase _ _) hkept2))
    have harrives : ∀ {waits : Bool} {t : State},
        (if waits then (s2.arrive e m pa r).1.barWait e { m with arrived := true } (s2.arrive e m pa r).2 else (s2.arrive e m pa r).1) = t →
        (if r.broken then Perf.done (s1.deliver Cause.barTimeout va (BitVec.ofNat 64 (r.cnt r.phase)))
         else if true && m.arrived then .done (s1.deliver Cause.barOverarrive va ph)
         else if !true && !m.arrived then .done (s1.deliver Cause.barNoarrive va ph)
         else if true then
          let q := s1.release s1.act.core s1.act.ctx r.scope
          if !q.2 then .later q.1
          else
            let t := q.1.arrive e m pa r
            .done (if waits then t.1.barWait e { m with arrived := true } t.2 else t.1)
         else .done (s1.barWait e m r)) = .done t := by
      intro waits t ht
      have hscope : r.scope = scope := rfl
      rw [if_neg (by simp [hbroken]), if_neg (by simp [harr]), if_neg (by simp), if_pos rfl, hscope, hrel]
      dsimp only
      rw [if_neg Bool.noConfusion, ht]
    generalize s2.arrive e m pa r = q at hqfree harrives ⊢
    have hwait : q.1.barWait e { m with arrived := true } q.2 = if q.2.phase ≠ m.phase then
        q.1.passBar q.1.act.core q.1.act.ctx e q.2.scope else q.1.setMe { q.1.me with phase := .wait (.bar e) } := rfl
    exact ⟨fun hheld => ⟨_, congrArg goes (hrun hheld hqfree (harrives (if_neg Bool.noConfusion))), rfl⟩,
      fun hheld => ⟨_, congrArg goes (hrun hheld (q.1.barWait_free e { m with arrived := true } q.2) (harrives (if_pos rfl))),
        congrArg finished hwait⟩⟩

/-- Settles O34: the three forms of bar, and how arrivals count. -/
theorem barrierResults : Obligations.BarrierResults := ⟨barrierEffects, arrivalCounts⟩

end Sys2Proof.Machine
end

section
/-!
SUPPORT. What a core's port, the caches and the slices do stays within the cores' ports and contexts, the herds, the memory
system, the records of faults and the agenda. The rest of the part, `State.beyond`, is as it was: one equation per operation,
in the order of the model's files.
-/

namespace Sys2Proof.Machine

set_option Elab.async false

/-! ### What lies beyond the memory system -/

/-- The rest of a part with these components: who acts and when, the sets, the launches, the fabric and the device, and each
core's partition (R32, R39). -/
def beyondOf (act : Acting) (time tick : Nat) (cores : Map Core) (sets : Map SetAux) (launch : LaunchSys) (fabric : FabricSys)
    (dev : DevSys) : Acting × Nat × Nat × (Nat → Bool × Nat) × Map SetAux × LaunchSys × FabricSys × DevSys :=
  (act, time, tick, fun n => ((mget ({} : Core) cores n).pmode, (mget ({} : Core) cores n).escres), sets, launch, fabric, dev)

/-- What lies beyond the memory system. -/
def State.beyond (s : State) : Acting × Nat × Nat × (Nat → Bool × Nat) × Map SetAux × LaunchSys × FabricSys × DevSys :=
  beyondOf s.act s.time s.tick s.cores s.sets s.launch s.fabric s.dev

variable {s t : State}

theorem beyond_mk {act agenda time tick cores herds sets mem launch fault fabric dev} :
    (State.mk act agenda time tick cores herds sets mem launch fault fabric dev).beyond =
      beyondOf act time tick cores sets launch fabric dev := rfl
theorem beyondOf_eq : beyondOf s.act s.time s.tick s.cores s.sets s.launch s.fabric s.dev = s.beyond := rfl

theorem act_of_beyond (h : t.beyond = s.beyond) : t.act = s.act := (congrArg (·.1) h :)
theorem time_of_beyond (h : t.beyond = s.beyond) : t.time = s.time := (congrArg (·.2.1) h :)
theorem sets_of_beyond (h : t.beyond = s.beyond) : t.sets = s.sets := (congrArg (·.2.2.2.2.1) h :)
theorem launch_of_beyond (h : t.beyond = s.beyond) : t.launch = s.launch := (congrArg (·.2.2.2.2.2.1) h :)
theorem partition_of_beyond (h : t.beyond = s.beyond) (n : Nat) :
    (t.core n).pmode = (s.core n).pmode ∧ (t.core n).escres = (s.core n).escres :=
  Prod.ext_iff.mp (congrFun (congrArg (·.2.2.2.1) h :) n :)

theorem MemOnly.beyond (h : MemOnly s t) : t.beyond = s.beyond := by
  rw [h]
  rfl

theorem foldl_beyond {γ : Type} (f : State → γ → State) (hf : ∀ s x, (f s x).beyond = s.beyond) (l : List γ) (s : State) :
    (l.foldl f s).beyond = s.beyond :=
  List.foldlRecOn (motive := fun t : State => t.beyond = s.beyond) l f rfl (fun t ht x _ => (hf t x).trans ht)

theorem fst_ite_beyond {β : Type} {c : Prop} [Decidable c] {a b : State × β} (ha : a.1.beyond = s.beyond)
    (hb : b.1.beyond = s.beyond) : (if c then a else b).1.beyond = s.beyond :=
  ite_both (motive := fun r : State × β => r.1.beyond = s.beyond) ha hb

/-! ### The operations of Machine/Ops.lean -/

theorem State.onCore_beyond {n : Nat} {f : Core → Core} (hm : (f (s.core n)).pmode = (s.core n).pmode)
    (he : (f (s.core n)).escres = (s.core n).escres) : (s.onCore n f).beyond = s.beyond := by
  have hcores : ∀ m, (((s.onCore n f).core m).pmode, ((s.onCore n f).core m).escres) = ((s.core m).pmode, (s.core m).escres) := by
    intro m
    by_cases hmn : m = n
    · subst hmn
      rw [State.core_onCore, hm, he]
    · rw [State.core_onCore_other s f hmn]
  exact congrArg (fun g => (s.act, s.time, s.tick, g, s.sets, s.launch, s.fabric, s.dev)) (funext hcores)

theorem State.setCtx_beyond (s : State) (n k : Nat) (c : Context) : (s.setCtx n k c).beyond = s.beyond :=
  State.onCore_beyond rfl rfl

theorem State.onCtx_beyond (s : State) (n k : Nat) (f : Context → Context) : (s.onCtx n k f).beyond = s.beyond :=
  State.onCore_beyond rfl rfl

theorem State.onHerd_beyond (s : State) (h : Nat) (f : Herd → Herd) : (s.onHerd h f).beyond = s.beyond := rfl

theorem State.postFault_beyond (s : State) (r : FaultRec) : (s.postFault r).beyond = s.beyond := rfl

/-! ### The operations of Machine/Memory.lean -/

theorem State.corrected_beyond (s : State) (d u : Nat) (a : Word) : (s.corrected d u a).beyond = s.beyond := rfl
theorem State.arrayLost_beyond (s : State) (d u : Nat) (a : Word) : (s.arrayLost d u a).beyond = s.beyond := rfl
theorem State.poisonWord_beyond (s : State) (w : Nat) (x : Word) : (s.poisonWord w x).beyond = s.beyond := rfl

theorem State.readArray_beyond (s : State) (a u w : Nat) (addr : Word) : (s.readArray a u w addr).1.beyond = s.beyond :=
  (s.readArray_memOnly a u w addr).beyond

theorem State.detect_beyond (s : State) (w : Nat) : (s.detect w).beyond = s.beyond := (s.detect_memOnly w).beyond

theorem State.checkTile_beyond (s : State) (t : Nat) : (s.checkTile t).1.beyond = s.beyond := by
  grind [State.checkTile, beyond_mk, beyondOf_eq, State.corrected_beyond]

theorem State.checkRows_beyond (s : State) (t r0 r1 : Nat) : (s.checkRows t r0 r1).1.beyond = s.beyond := by
  grind [State.checkRows, State.checkTile_beyond]

theorem State.putBytes_memOnly (s : State) (a : Nat) (bs : List Byte) : MemOnly s (s.putBytes a bs) := by
  induction bs generalizing s a with
  | nil => rfl
  | cons b bs ih =>
    have hb : MemOnly s (s.putByte a b) := by
      unfold State.putByte
      dsimp only
      split <;> rfl
    exact hb.trans (ih _ _)

theorem State.homeWrite_beyond (s : State) (x : WordWrite) : (s.homeWrite x).beyond = s.beyond := by
  have hs : ∀ c : Bool, (if c = true then { s with mem := { s.mem with
        latent := mdel s.mem.latent x.word
        errs := s.mem.errs.filter (fun e => !(e.array == 0x0D && e.word == x.word)) } }
      else s.detect x.word).beyond = s.beyond := by
    intro c
    cases c
    · exact s.detect_beyond _
    · rfl
  unfold State.homeWrite
  dsimp only
  generalize bytesLE 8 _ = bs
  exact ((State.putBytes_memOnly _ (8 * x.word) bs).beyond).trans (hs (x.mask == 0xFF))

/-! ### The operations of Machine/Port.lean -/

theorem State.follow_beyond (s : State) (core ctx site : Nat) (args : List Nat) (i : Instr) :
    (s.follow core ctx site args i).beyond = s.beyond := rfl

theorem State.readReg_beyond (s : State) (core ctx r : Nat) : (s.readReg core ctx r).beyond = s.beyond := by
  grind [State.readReg, State.readArray_beyond, State.onCtx_beyond]

theorem State.readAllRegs_beyond (s : State) (core ctx : Nat) : (s.readAllRegs core ctx).beyond = s.beyond := by
  unfold State.readAllRegs
  split
  · rfl
  · exact foldl_beyond _ (fun t r => t.readReg_beyond core ctx r) _ _

/-! ### The operations of Machine/Coherence.lean: copies and their updates -/

theorem State.readL1_beyond (s : State) (core w : Nat) : (s.readL1 core w).beyond = s.beyond := by
  grind [State.readL1, State.corrected_beyond, State.onCore_beyond, State.onHerd_beyond, State.arrayLost_beyond,
    State.poisonWord_beyond]

theorem State.readSlice_beyond (s : State) (h w : Nat) : (s.readSlice h w).beyond = s.beyond := by
  grind [State.readSlice, State.corrected_beyond, State.onHerd_beyond, State.arrayLost_beyond, State.poisonWord_beyond]

theorem State.accepted_beyond (s : State) (ids : List Nat) (f : Flight → Flight) : (s.accepted ids f).beyond = s.beyond := by
  unfold State.accepted
  split
  · rfl
  have hc := core_map_wq (fun fs => (fs.map (fun g => if ids.contains g.id then f g else g)).filter
    (fun g => !(ids.contains g.id && g.complete))) rfl s.cores
  refine congrArg (fun g => (s.act, s.time, s.tick, g, s.sets, s.launch, s.fabric, s.dev)) (funext fun n => ?_)
  exact (congrArg (fun c : Core => (c.pmode, c.escres)) (hc n) :)

theorem State.acceptL1_beyond (s : State) (core n : Nat) : (s.acceptL1 core n).beyond = s.beyond := by
  grind [State.acceptL1, State.onCore_beyond, State.accepted_beyond]

theorem State.acceptSlice_beyond (s : State) (h src n : Nat) : (s.acceptSlice h src n).beyond = s.beyond := by
  grind [State.acceptSlice, State.onHerd_beyond, State.accepted_beyond]

theorem State.forward_beyond (s : State) (x : WordWrite) (core : Nat) : (s.forward x core).beyond = s.beyond := by
  grind [State.forward, State.acceptL1_beyond, State.onCore_beyond]

theorem State.forwardAll_beyond (s : State) (h : Nat) (x : WordWrite) : (s.forwardAll h x).beyond = s.beyond :=
  foldl_beyond _ (fun t c => t.forward_beyond x c) _ _

theorem State.sliceApplyUpdate_beyond (s : State) (h : Nat) (x : WordWrite) : (s.sliceApplyUpdate h x).beyond = s.beyond := by
  grind [State.sliceApplyUpdate, State.forwardAll_beyond, State.onHerd_beyond]

theorem State.passL1_beyond (s : State) (core w : Nat) : (s.passL1 core w).beyond = s.beyond := by
  grind [State.passL1, State.onCore_beyond, State.accepted_beyond]

theorem State.passSlice_beyond (s : State) (h w : Nat) : (s.passSlice h w).beyond = s.beyond := by
  grind [State.passSlice, State.onHerd_beyond, State.accepted_beyond]

theorem State.homeRead_beyond (s : State) (w : Nat) : (s.homeRead w).1.beyond = s.beyond := s.detect_beyond w

theorem State.fillSlice_beyond (s : State) (h w : Nat) : (s.fillSlice h w).beyond = s.beyond := by
  grind [State.fillSlice, State.homeRead_beyond, State.passSlice_beyond, State.onHerd_beyond]

theorem State.sliceRead_beyond (s : State) (h w : Nat) : (s.sliceRead h w).1.beyond = s.beyond :=
  (State.fillSlice_beyond _ h w).trans (s.readSlice_beyond h w)

theorem State.fillL1_beyond (s : State) (core w : Nat) (obj : Bool) : (s.fillL1 core w obj).beyond = s.beyond := by
  grind [State.fillL1, State.sliceRead_beyond, State.onHerd_beyond, State.passL1_beyond, State.onCore_beyond]

theorem State.putFlight_beyond (s : State) (core : Nat) (f : Flight) : (s.putFlight core f).beyond = s.beyond :=
  State.onCore_beyond rfl rfl

theorem State.shareL1_beyond (s : State) (core id w : Nat) : (s.shareL1 core id w).1.beyond = s.beyond := by
  grind [State.shareL1, foldl_beyond, State.onCore_beyond, State.passL1_beyond]

theorem State.shareSlices_beyond (s : State) (h id w : Nat) : (s.shareSlices h id w).1.beyond = s.beyond :=
  foldl_beyond _ (fun t k => t.onHerd_beyond k _) _ _

theorem State.herdApply_beyond (s : State) (core : Nat) (f : Flight) : (s.herdApply core f).beyond = s.beyond := by
  grind [State.herdApply, State.fillSlice_beyond, State.readSlice_beyond, State.onHerd_beyond, State.shareL1_beyond,
    State.putFlight_beyond]

theorem State.renewSlice_beyond (s : State) (h w : Nat) : (s.renewSlice h w).beyond = s.beyond := by
  grind [State.renewSlice, State.sliceApplyUpdate_beyond, State.passSlice_beyond]

theorem State.homeApply_beyond (s : State) (core : Nat) (f : Flight) : (s.homeApply core f).beyond = s.beyond := by
  have hw := s.homeWrite_beyond f.write
  unfold State.homeApply
  generalize s.homeWrite f.write = u at hw ⊢
  exact (State.renewSlice_beyond _ _ _).trans ((State.putFlight_beyond _ _ _).trans ((State.shareSlices_beyond _ _ _ _).trans hw))

theorem State.homeStore_beyond (s : State) (x : WordWrite) : (s.homeStore x).beyond = s.beyond := by
  unfold State.homeStore
  exact (foldl_beyond _ (fun t h => (State.onHerd_beyond _ _ _).trans (t.acceptSlice_beyond h _ _)) _ _).trans (s.homeWrite_beyond x)

theorem State.flightStep_beyond (s : State) (core : Nat) (f : Flight) : (s.flightStep core f).beyond = s.beyond := by
  grind [State.flightStep, State.herdApply_beyond, State.accepted_beyond, State.acceptL1_beyond, State.homeApply_beyond,
    State.acceptSlice_beyond]

theorem State.pushFlight_beyond (s : State) (core id scope n : Nat) : (s.pushFlight core id scope n).beyond = s.beyond := by
  induction n generalizing s core id scope with
  | zero => rfl
  | succ m ih =>
    unfold State.pushFlight
    grind [State.flightStep_beyond]

theorem State.push_beyond (s : State) (core id scope : Nat) : (s.push core id scope).beyond = s.beyond := by
  grind [State.push, State.pushFlight_beyond]

theorem State.pushWord_beyond (s : State) (core w : Nat) : (s.pushWord core w).beyond = s.beyond := by
  grind [State.pushWord, foldl_beyond, State.push_beyond]

theorem State.writeBack_beyond (s : State) (core w : Nat) : (s.writeBack core w).beyond = s.beyond := by
  grind [State.writeBack, foldl_beyond, State.pushWord_beyond, State.readL1_beyond, State.onCore_beyond,
    State.onHerd_beyond, State.forward_beyond]

theorem State.flushWord_beyond (s : State) (core w : Nat) : (s.flushWord core w).beyond = s.beyond := by
  grind [State.flushWord, State.writeBack_beyond, State.readSlice_beyond, State.onHerd_beyond, State.homeStore_beyond]

theorem State.portPut_beyond (s : State) (core ctx : Nat) (x : WordWrite) : (s.portPut core ctx x).beyond = s.beyond := by
  generalize hf : @State.portPut = f
  delta State.portPut at hf
  subst hf
  beta_reduce
  generalize State.region = region
  grind [State.follow_beyond, State.homeWrite_beyond]

theorem State.shareWrite_beyond (s : State) (core ctx scope : Nat) (x : WordWrite) :
    (s.shareWrite core ctx scope x).beyond = s.beyond := by
  grind [State.shareWrite, beyond_mk, beyondOf_eq, State.homeWrite_beyond, State.shareSlices_beyond, State.onHerd_beyond,
    State.passSlice_beyond, State.shareL1_beyond, State.onCore_beyond, State.push_beyond]

/-! ### The operations of Machine/Coherence.lean: loads, atomics and the port -/

theorem State.noteSeen_beyond (s : State) (core ctx w : Nat) : (s.noteSeen core ctx w).beyond = s.beyond :=
  ite_both (motive := fun t : State => t.beyond = s.beyond) rfl (s.onCtx_beyond _ _ _)

theorem State.loadWord_beyond (s : State) (core ctx w : Nat) (obj : Bool) : (s.loadWord core ctx w obj).1.beyond = s.beyond := by
  generalize hf : @State.loadWord = f
  delta State.loadWord at hf
  subst hf
  beta_reduce
  generalize State.region = region
  grind [State.fillL1_beyond, State.readReg_beyond, State.homeRead_beyond]

theorem State.rmw_beyond (s : State) (core ctx w : Nat) (priv : Bool) (scope : Nat) (f : Word → Option (Word × BitVec 8)) :
    (s.rmw core ctx w priv scope f).1.beyond = s.beyond := by
  have hr := ((s.pushWord core w).flushWord core w).homeRead_beyond w
  have hl := s.loadWord_beyond core ctx w false
  unfold State.rmw
  generalize State.region = region
  generalize s.loadWord core ctx w false = l at hl ⊢
  generalize ((s.pushWord core w).flushWord core w).homeRead w = r at hr ⊢
  grind [State.pushWord_beyond, State.flushWord_beyond, State.homeRead_beyond, State.noteSeen_beyond, State.loadWord_beyond,
    State.shareWrite_beyond, State.onCore_beyond, State.portPut_beyond]

theorem State.leavePort_beyond (s : State) (core : Nat) (f : Flight) : (s.leavePort core f).beyond = s.beyond := by
  unfold State.leavePort
  generalize State.region = region
  grind [State.onCore_beyond, State.readL1_beyond, State.fillL1_beyond, State.portPut_beyond, State.rmw_beyond]

theorem State.lostCause_beyond (s : State) (core : Nat) (f : Flight) : (s.lostCause core f).1.beyond = s.beyond := by
  have hd : ∀ w, (s.detect w).beyond = s.beyond := s.detect_beyond
  unfold State.lostCause
  generalize s.detect = d at hd ⊢
  generalize State.inTile = it
  exact fst_ite_beyond (hd _) (fst_ite_beyond ((State.checkRows_beyond _ _ _ _).trans (hd _)) (hd _))

theorem State.tryLeave_beyond (s : State) (core : Nat) (f : Flight) : (s.tryLeave core f).beyond = s.beyond := by
  grind [State.tryLeave, State.lostCause_beyond, State.postLost, State.postFault_beyond, State.onCtx_beyond,
    State.putFlight_beyond, State.leavePort_beyond, State.push_beyond]

theorem State.portEnter_beyond (s : State) (core : Nat) (f : Flight) : (s.portEnter core f).beyond = s.beyond := by
  grind [State.portEnter, beyond_mk, beyondOf_eq, State.onCore_beyond, State.tryLeave_beyond]

theorem State.portStore_beyond (s : State) (core ctx : Nat) (st : StoreReq) (walk : Option Nat) :
    (s.portStore core ctx st walk).beyond = s.beyond := by
  grind [State.portStore, foldl_beyond, State.portEnter_beyond, State.onCore_beyond]

/-! ### The operations of Machine/Commit.lean and Machine/Sets.lean -/

theorem State.releaseStore_beyond (s : State) (core ctx : Nat) (st : StoreReq) :
    (s.releaseStore core ctx st).beyond = s.beyond := by
  unfold State.releaseStore
  split
  · exact State.portStore_beyond _ _ _ _ _
  · exact State.portStore_beyond _ _ _ _ _

theorem State.commitBlock_beyond (s : State) (core ctx : Nat) (a : Word) : (s.commitBlock core ctx a).beyond = s.beyond := by
  unfold State.commitBlock
  dsimp only
  refine (foldl_beyond _ (fun t (p : Nat × Nat) => (t.startWalk core ctx p.2 p.1).1.onCtx_beyond core ctx _) _ _).trans ?_
  exact (foldl_beyond _ (fun t st => t.releaseStore_beyond core ctx st) _ _).trans (s.setCtx_beyond core ctx _)

theorem State.agentWrite_beyond (s : State) (pa : Nat) (x : Tagged) : (s.agentWrite pa x).beyond = s.beyond :=
  s.homeStore_beyond _

theorem State.putSlotWord_beyond (s : State) (handle off : Nat) (x : Word) : (s.putSlotWord handle off x).beyond = s.beyond :=
  s.agentWrite_beyond _ _

theorem State.writeAt_beyond (s : State) (core ctx w : Nat) (v : Word) : (s.writeAt core ctx w v).beyond = s.beyond := by
  generalize hf : @State.writeAt = f
  delta State.writeAt at hf
  subst hf
  beta_reduce
  generalize State.region = region
  grind [State.rmw_beyond]

theorem State.writeRec_beyond (s : State) (core ctx pa : Nat) (r : SetRec) : (s.writeRec core ctx pa r).beyond = s.beyond := by
  grind [State.writeRec, State.writeAt_beyond, State.onUnit, State.onHerd_beyond]

end Sys2Proof.Machine
end

section
/-!
PROOFS of O35: couple gates. What the opening of a gate does to the acting context is said
once for any property that the two ways on keep (`State.testGate_me`).
-/

namespace Sys2Proof.Machine

open Claims

set_option Elab.async false

/-! ### Save slots (R419, R420) -/

section

variable {α : Type} {f : Context → α} {s0 s : State}

theorem State.putSlotWord_keeps {h off : Nat} {x : Word} (hs : Keeps f s0 s) : Keeps f s0 (s.putSlotWord h off x) := by
  unfold State.putSlotWord State.agentWrite
  exact State.homeStore_keeps hs

theorem State.onThread_keeps {h : Nat} {g : Thread → Thread} (hs : Keeps f s0 s) : Keeps f s0 (s.onThread h g) := by
  unfold State.onThread
  split
  · exact hs
  · exact hs

theorem State.savedFault_keeps {h cause : Nat} {v w : Word} (hs : Keeps f s0 s) : Keeps f s0 (s.savedFault h cause v w) :=
  State.putSlotWord_keeps (State.putSlotWord_keeps (State.putSlotWord_keeps (State.putSlotWord_keeps hs)))

theorem State.endSavedWait_keeps {h : Nat} (hs : Keeps f s0 s) : Keeps f s0 (s.endSavedWait h) :=
  State.putSlotWord_keeps (State.putSlotWord_keeps (State.onThread_keeps hs))

end

theorem State.onThread_sets (s : State) (h : Nat) (g : Thread → Thread) : (s.onThread h g).sets = s.sets := by
  unfold State.onThread
  split <;> rfl

theorem State.putSlotWord_sets (s : State) (h off : Nat) (x : Word) : (s.putSlotWord h off x).sets = s.sets :=
  sets_of_beyond (s.putSlotWord_beyond h off x)

theorem State.endSavedWait_sets (s : State) (h : Nat) : (s.endSavedWait h).sets = s.sets := by
  unfold State.endSavedWait
  rw [State.putSlotWord_sets, State.putSlotWord_sets, State.onThread_sets]

theorem State.savedFault_sets (s : State) (h cause : Nat) (v w : Word) : (s.savedFault h cause v w).sets = s.sets := by
  unfold State.savedFault
  dsimp only
  simp only [State.putSlotWord_sets]

/-! ### The opening of a couple gate (R191) -/

/-- A property of the acting context that a change to any context keeps. -/
theorem State.onCtx_me {P : Context → Prop} {s : State} {n k : Nat} {g : Context → Context} (hg : P s.me → P (g s.me))
    (h : P s.me) : P (s.onCtx n k g).me := by
  by_cases hnk : s.act.core = n ∧ s.act.ctx = k
  · obtain ⟨rfl, rfl⟩ := hnk
    rw [show (s.onCtx s.act.core s.act.ctx g).me = g s.me from s.me_onMe g]
    exact hg h
  · have hother : (s.onCtx n k g).me = s.me := State.ctxOf_setCtx_other s _ (by tauto)
    rwa [hother]

theorem me_of_keeps {P : Context → Prop} {s t : State} (hk : Keeps P s t) (h : P s.me) : P t.me := by
  rwa [show P t.me = P s.me from hk.me]

section

variable {P : Context → Prop}

/-- A thread whose wait ends with a fault: the acting context keeps what a pending fault and the end of a wait keep. -/
theorem State.faultWait_me {s : State} (hend : ∀ c f p, P c → p = .fetch ∨ p = c.phase → P { c with pendFault := f, phase := p })
    (h cause : Nat) (v w : Word) (hs : P s.me) : P (s.faultWait h cause v w).me := by
  unfold State.faultWait
  split
  · refine State.onCtx_me (fun hme => hend s.me (some { cause := cause, tval := v, tval2 := w }) _ hme ?_) hs
    split
    · exact .inl rfl
    · exact .inr rfl
  · split
    · exact me_of_keeps (State.endSavedWait_keeps (State.savedFault_keeps (Keeps.refl P s))) hs
    · exact hs

/-- A context that a gate lets pass in the gang of the set at pa (R191). -/
def Context.throughGate (pa : Nat) (addr : Word) (x : Context) : Context :=
  if x.atGate then { x.fetchFrom addr with gang := if x.locked then none else some pa } else x

theorem Context.throughGate_of_unlocked {x : Context} (hg : x.atGate = true) (hl : x.locked = false) (pa : Nat) (addr : Word) :
    x.throughGate pa addr = { x.fetchFrom addr with gang := some pa } := by
  unfold Context.throughGate
  rw [if_pos hg, hl]
  rfl

theorem State.passGate_of_placed {s : State} {h c k : Nat} (hp : s.placeOf h = some (c, k)) (pa : Nat) (addr : Word) :
    s.passGate pa addr h = s.onCtx c k (Context.throughGate pa addr) := by
  unfold State.passGate
  rw [hp]
  rfl

/-- A thread that passes its gate: the acting context keeps what the passage of a waiting context keeps. -/
theorem State.passGate_me {s : State} (hpass : ∀ c a g, c.atGate = true → P c → P { c.fetchFrom a with gang := g })
    (pa : Nat) (addr : Word) (h : Nat) (hs : P s.me) : P (s.passGate pa addr h).me := by
  unfold State.passGate
  split
  · refine State.onCtx_me (fun hme => ?_) hs
    split
    next hgate => exact hpass _ _ _ hgate hme
    next => exact hme
  · exact me_of_keeps (State.endSavedWait_keeps (State.putSlotWord_keeps (Keeps.refl P s))) hs

/-- What the test of a couple gate keeps of the acting context. -/
theorem State.testGate_me {s : State} (hend : ∀ c f p, P c → p = .fetch ∨ p = c.phase → P { c with pendFault := f, phase := p })
    (hpass : ∀ c a g, c.atGate = true → P c → P { c.fetchFrom a with gang := g })
    (pa : Nat) (record : Word) (joined : Nat) (w0 : Word) (hs : P s.me) : P (s.testGate pa record joined w0).me := by
  unfold State.testGate
  dsimp only
  split
  · exact hs
  · split
    · exact hs
    · split
      · exact List.foldlRecOn (motive := fun t : State => P t.me) _ _ hs (fun t ht h _ => State.faultWait_me hend h _ _ _ ht)
      · exact List.foldlRecOn (motive := fun t : State => P t.me) _ _ hs (fun t ht h _ => State.passGate_me hpass _ _ h ht)

end

theorem State.faultWait_sets (s : State) (h cause : Nat) (v w : Word) : (s.faultWait h cause v w).sets = s.sets := by
  unfold State.faultWait
  split
  · rfl
  · split
    · rw [State.endSavedWait_sets, State.savedFault_sets]
    · rfl

theorem State.passGate_sets (s : State) (pa : Nat) (addr : Word) (h : Nat) : (s.passGate pa addr h).sets = s.sets := by
  unfold State.passGate
  split
  · rfl
  · rw [State.endSavedWait_sets, State.putSlotWord_sets]

theorem foldl_sets {γ : Type} (f : State → γ → State) (hf : ∀ s x, (f s x).sets = s.sets) (l : List γ) (s : State) :
    (l.foldl f s).sets = s.sets :=
  List.foldlRecOn (motive := fun t : State => t.sets = s.sets) l f rfl (fun t ht x _ => (hf t x).trans ht)

theorem State.aux_onAux (s : State) (pa : Nat) (f : SetAux → SetAux) : (s.onAux pa f).aux pa = f (s.aux pa) :=
  mget_mset_same _ _ _ _

/-- The test of a couple gate changes no set, but for the gate of its own. -/
theorem State.testGate_aux (s : State) (pa : Nat) (record : Word) (joined : Nat) (w0 : Word) :
    (s.testGate pa record joined w0).aux pa = s.aux pa ∨
      (s.testGate pa record joined w0).aux pa = { s.aux pa with gate := [] } := by
  unfold State.testGate
  dsimp only
  split
  · exact .inl rfl
  · split
    · exact .inl rfl
    · refine .inr ((s.aux_onAux pa (fun a => { a with gate := [] })).symm ▸ congrArg (fun m => mget ({} : SetAux) m pa) ?_)
      split
      · exact foldl_sets _ (fun t h => t.faultWait_sets h _ _ _) _ _
      · exact foldl_sets _ (fun t h => t.passGate_sets _ _ h) _ _

/-- A gate at which fewer members than joined have arrived stays shut. -/
theorem State.testGate_of_few {s : State} {pa : Nat} {joined : Nat} (h : ((s.aux pa).gate.filter (s.gateCounts pa)).length < joined)
    (record w0 : Word) : s.testGate pa record joined w0 = s := by
  unfold State.testGate
  dsimp only
  split
  · rfl
  · exact if_pos h

/-- A gate at which the one member has arrived lets it pass. -/
theorem State.testGate_of_one {s : State} {pa h : Nat} (hg : (s.aux pa).gate.filter (s.gateCounts pa) = [h]) (record w0 : Word) :
    s.testGate pa record 1 w0 = (s.onAux pa (fun a => { a with gate := [] })).passGate pa (s.nextAddr h) h := by
  have hmodes : ([s.modeOf h].contains true && [s.modeOf h].contains false) = false := by
    cases s.modeOf h <;> rfl
  unfold State.testGate
  dsimp only
  rw [hg]
  dsimp only
  rw [if_neg (show ¬ [h].length < 1 from Nat.lt_irrefl 1), List.map_cons, List.map_nil, hmodes, if_neg Bool.noConfusion]
  rfl

/-! ### couple and couple.re (R191) -/

/-- Settles O35: couple and couple.re, and the gate of a set of one. -/
theorem coupleResults : Obligations.CoupleResults := by
  intro s s1 a pa e m r hm hfinds hrange hcount va coupled v h w arrives
  have hfree := State.free_of_kept (findsRecord_keeps ignoresRegs_phase hfinds)
  have hbad : ¬ (r.bad = true ∨ r.count = 0) := by
    rw [r.bad_eq_false_iff.mpr hrange, r.count_eq]
    simpa using hcount
  have hv : v.me = if s1.me.gang = some pa then s1.me else { s1.me with phase := .wait (.gate e) } := s1.me_setMe _
  have hwfree : ∀ c : Context, c = v.me → c.phase.Free := fun c hc => by
    rw [hc, hv]
    split
    · exact hfree
    · exact fun _ h => nomatch h
  have htested : (w.testGate pa va (joined r) r.w0).me.phase.Free :=
    State.testGate_me (P := fun c => c.phase.Free) (fun c f p hc hp => by rcases hp with rfl | rfl; exacts [Phase.free_fetch, hc])
      (fun _ _ _ _ _ => Phase.free_fetch) _ _ _ _ (hwfree w.me rfl)
  -- What each form is performed with.
  have hrun : ∀ {i : Instr} {again : Bool} {t : State}, Held s i → t.me.phase.Free →
      (if r.pool then Perf.done (s1.deliver Cause.setMode va r.w0)
       else if s1.me.gang = some pa ∧ again = false then .done (s1.deliver Cause.coupleState va r.w0)
       else .done (w.testGate pa va (joined r) r.w0)) = .done t → s.coupleAt i a again = finished t := by
    intro i again t hheld ht hdone
    refine State.setInstr_of_found hheld hm hfinds ?_ ht
    dsimp only
    rw [if_neg hbad, r.joined_eq]
    exact hdone
  refine ⟨fun hpool i hi hheld => ?_, fun hgang hcoupled hheld => ?_, fun hgang hnot hheld => ?_, fun hgang hheld => ?_,
    fun hfew => State.testGate_of_few hfew _ _, fun hnot hempty hone hlocked hplace => ?_⟩
  · have hdone : ∀ again, s.coupleAt i a again = finished (s1.deliver Cause.setMode va r.w0) :=
      fun _ => hrun hheld (State.deliver_free hfree _ _ _) (if_pos hpool)
    refine ⟨_, ?_, s1.noted_deliver _ _ _⟩
    rcases List.mem_pair.mp hi with rfl | rfl <;> exact congrArg goes (hdone _)
  · have hpool : ¬ r.pool = true := ne_true_of_eq_false hgang
    exact ⟨_, congrArg goes (hrun hheld (State.deliver_free hfree _ _ _) (by rw [if_neg hpool, if_pos ⟨hcoupled, rfl⟩])), s1.noted_deliver _ _ _⟩
  · have hpool : ¬ r.pool = true := ne_true_of_eq_false hgang
    exact congrArg goes (hrun hheld htested (by rw [if_neg hpool, if_neg (fun h => hnot h.1)]))
  · have hpool : ¬ r.pool = true := ne_true_of_eq_false hgang
    exact congrArg goes (hrun hheld htested (by rw [if_neg hpool, if_neg (fun h => nomatch h.2)]))
  · have hvme : v.me = { s1.me with phase := .wait (.gate e) } := by rw [hv, if_neg hnot]
    have hgate : (w.aux pa).gate = [h] := by
      rw [State.aux_onAux, show (v.aux pa).gate = [] from hempty]
      rfl
    have hctx : w.ctxOf w.act.core w.act.ctx = { s1.me with phase := .wait (.gate e) } := hvme
    have hcounts : w.gateCounts pa h = true := by
      unfold State.gateCounts
      rw [hplace]
      dsimp only
      rw [hctx]
      rfl
    have hnext : w.nextAddr h = s1.me.addr := by
      unfold State.nextAddr
      rw [hplace]
      dsimp only
      rw [hctx, if_neg (fun h => nomatch h)]
    have ht := State.testGate_of_one (s := w) (pa := pa) (h := h) (by rw [hgate, List.filter_cons_of_pos hcounts]; rfl) va r.w0
    rw [hnext] at ht
    have hplace' : (w.onAux pa (fun a => { a with gate := [] })).placeOf h = some (w.act.core, w.act.ctx) := hplace
    have hme : w.me = { s1.me with phase := .wait (.gate e) } := hctx
    rw [State.passGate_of_placed hplace'] at ht
    have htme := (congrArg State.me ht).trans (State.me_onCtx_of_act (s := w) rfl _)
    rw [hme] at htme
    have hthrough : ({ s1.me with phase := .wait (.gate e) } : Context).throughGate pa s1.me.addr =
        { ({ s1.me with phase := .wait (.gate e) } : Context).fetchFrom s1.me.addr with gang := some pa } :=
      Context.throughGate_of_unlocked (x := { s1.me with phase := .wait (.gate e) }) rfl hlocked pa _
    rw [hthrough] at htme
    rw [hone]
    dsimp only
    rw [htme, ht]
    exact ⟨rfl, rfl, rfl, congrArg SetAux.gate (w.aux_onAux pa (fun a => { a with gate := [] }))⟩

end Sys2Proof.Machine
end

section
/-!
PROOFS of O33: join, join.new and leave. A set record that lies in a register window is read before it is written: the
flipped bits of its words are found by then, so the writes leave the registers as they are (`State.writeRec_keeps_of_recordSound`).
-/

namespace Sys2Proof.Machine

open Claims

set_option Elab.async false

/-! ### Flipped bits of the register files (R361, R362) -/

/-- If the word lies in a register window (R360), its word of the register file has no flipped bits. -/
def State.NoRegError (s : State) (w : Nat) : Prop :=
  ∀ n k off, s.region (8 * w) = .regs n k off → off < 0x200 →
    s.mem.errOf 0x08 n ((if (s.core n).pmode then 32 else 64) * k + off / 8) = none

section

variable {s t : State} {core ctx w w' scope : Nat} {n k off : Nat}

/-- The address is the word off of the register window of context k of core n (R360). -/
def State.InWindow (s : State) (pa n k off : Nat) : Prop :=
  (0x80040000000 ≤ pa ∧ pa < 0x80040000000 + 131072 * 1536) ∧ s.absent n = false ∧ k < (s.core n).nctx ∧
    n = (pa - 0x80040000000) / 131072 ∧ k = pa % 131072 / 4096 ∧ off = pa % 4096

theorem State.inWindow_of_region {pa : Nat} (h : s.region pa = .regs n k off) : s.InWindow pa n k off := by
  unfold State.region at h
  dsimp only at h
  split at h
  · split at h <;> cases h
  split at h
  · split at h <;> cases h
  split at h
  · split at h <;> cases h
  split at h
  next hpa =>
    split at h
    · cases h
    next hk =>
      cases h
      rw [Bool.or_eq_true, not_or, Bool.not_eq_true, decide_eq_true_eq, Nat.not_le] at hk
      exact ⟨hpa, hk.1, hk.2, rfl, rfl, rfl⟩
  split at h
  · cases h
  split at h
  · split at h
    · cases h
    split at h
    · cases h
    split at h <;> cases h
  split at h
  · cases h
  split at h
  · split at h <;> cases h
  split at h <;> cases h

theorem State.region_of_inWindow {pa : Nat} (h : s.InWindow pa n k off) : s.region pa = .regs n k off := by
  obtain ⟨hpa, habs, hk, rfl, rfl, rfl⟩ := h
  have hn : (s.creg 0x1030).toNat % 2048 < 2048 := Nat.mod_lt _ (by omega)
  have hm : (s.creg 0x1038).toNat % 256 < 256 := Nat.mod_lt _ (by omega)
  unfold State.region
  generalize (s.creg 0x1030).toNat % 2048 = a at hn ⊢
  generalize (s.creg 0x1038).toNat % 256 = b at hm ⊢
  dsimp only
  rw [if_neg (by omega), if_neg (by omega), if_neg (by omega), if_pos hpa, habs, Bool.false_or,
    if_neg (by rwa [decide_eq_true_eq, Nat.not_le])]

/-- Where the register windows lie depends on the cores that are absent and the partition modes. -/
theorem State.region_regs_of_eq (hdev : t.dev = s.dev) (hmode : ∀ n, (t.core n).pmode = (s.core n).pmode) {pa : Nat}
    (h : t.region pa = .regs n k off) : s.region pa = .regs n k off := by
  obtain ⟨hpa, habs, hk, hrest⟩ := State.inWindow_of_region h
  refine State.region_of_inWindow ⟨hpa, ?_, ?_, hrest⟩
  · unfold State.absent at habs ⊢
    rwa [← hdev]
  · unfold Core.nctx at hk ⊢
    rwa [← hmode]

/-- A register window does not lie beside a cached region. -/
theorem State.region_not_cached_of_regs (h : s.region (8 * w) = .regs n k off) (hw : w ≤ w' + 2) (hw' : w' ≤ w + 2) :
    (s.region (8 * w')).cached = false := by
  obtain ⟨hlo, -⟩ := State.inWindow_of_region h
  have hn : (s.creg 0x1030).toNat % 2048 < 2048 := Nat.mod_lt _ (by omega)
  have hm : (s.creg 0x1038).toNat % 256 < 256 := Nat.mod_lt _ (by omega)
  unfold State.region
  generalize (s.creg 0x1030).toNat % 2048 = a at hn ⊢
  generalize (s.creg 0x1038).toNat % 256 = b at hm ⊢
  dsimp only
  rw [if_neg (by omega), if_neg (by omega), if_neg (show ¬ (0xC0000000000 ≤ 8 * w' ∧ _) by omega),
    if_neg (show ¬ (0x10C0000000000 ≤ 8 * w' ∧ _) by omega)]
  repeat' split
  all_goals rfl

/-! Errors are found, and none appear. -/

theorem MemSys.errOf_none_of_subset {m m' : MemSys} (h : m'.errs ⊆ m.errs) {a u x : Nat} (hm : m.errOf a u x = none) :
    m'.errOf a u x = none := by
  unfold MemSys.errOf at hm ⊢
  rw [List.find?_eq_none] at hm ⊢
  exact fun e he => hm e (h he)

theorem MemSys.errOf_dropErr (m : MemSys) (a u x : Nat) : (m.dropErr a u x).errOf a u x = none := by
  unfold MemSys.errOf MemSys.dropErr
  rw [List.find?_eq_none]
  intro e he
  rw [Bool.not_eq_true, ← Bool.not_eq_true']
  exact (List.mem_filter.mp he).2

theorem State.readArray_errs (s : State) (a u x : Nat) (addr : Word) : (s.readArray a u x addr).1.mem.errs ⊆ s.mem.errs := by
  unfold State.readArray
  split
  · exact List.Subset.refl _
  · dsimp only
    split <;> exact List.filter_subset_self _

theorem State.readArray_errOf (s : State) (a u x : Nat) (addr : Word) : (s.readArray a u x addr).1.mem.errOf a u x = none := by
  unfold State.readArray
  split
  next h => exact h
  next =>
    dsimp only
    split <;> exact s.mem.errOf_dropErr a u x

theorem State.detect_errs (s : State) (w : Nat) : (s.detect w).mem.errs ⊆ s.mem.errs := by
  have hhome : (s.detectHome w).mem.errs ⊆ s.mem.errs := by
    unfold State.detectHome
    split
    · exact List.Subset.refl _
    · have h := s.readArray_errs 0x0D (s.homeSlice w) w (BitVec.ofNat 64 (8 * w))
      dsimp only
      split <;> exact h
  refine List.Subset.trans ?_ hhome
  unfold State.detect State.detectStored
  dsimp only
  split
  · exact List.Subset.refl _
  · split <;> exact List.Subset.refl _

theorem State.homeWrite_errs (s : State) (x : WordWrite) : (s.homeWrite x).mem.errs ⊆ s.mem.errs := by
  unfold State.homeWrite
  dsimp only
  rw [(State.putBytes_frame _ _ _).2.2.2]
  split
  · exact List.filter_subset_self _
  · exact s.detect_errs _

theorem State.readReg_errs (s : State) (core ctx r : Nat) : (s.readReg core ctx r).mem.errs ⊆ s.mem.errs := by
  unfold State.readReg
  split
  · exact List.Subset.refl _
  · have h := s.readArray_errs 0x08 core ((if (s.core core).pmode then 32 else 64) * ctx + r) (BitVec.ofNat 64 (0x80040000000 + 131072 * core + 4096 * ctx + 8 * r))
    dsimp only
    split <;> exact h

theorem State.readReg_errOf (s : State) (core ctx r : Nat) :
    (s.readReg core ctx r).mem.errOf 0x08 core ((if (s.core core).pmode then 32 else 64) * ctx + r) = none := by
  unfold State.readReg
  split
  next h =>
    unfold MemSys.errOf
    rw [h]
    rfl
  next =>
    have h := s.readArray_errOf 0x08 core ((if (s.core core).pmode then 32 else 64) * ctx + r) (BitVec.ofNat 64 (0x80040000000 + 131072 * core + 4096 * ctx + 8 * r))
    dsimp only
    split <;> exact h

/-- A register without flipped bits is read as it stands. -/
theorem State.readReg_of_errOf {r : Nat} (h : s.mem.errOf 0x08 core ((if (s.core core).pmode then 32 else 64) * ctx + r) = none) :
    s.readReg core ctx r = s := by
  unfold State.readReg
  split
  · rfl
  · unfold State.readArray
    dsimp only
    rw [h]

/-- The state that a load of a word leaves. -/
theorem State.loadWord_fst (s : State) (core ctx w : Nat) (obj : Bool) :
    (s.loadWord core ctx w obj).1 = match s.region (8 * w) with
      | .regs n k off => if off < 0x200 then s.readReg n k (off / 8) else s
      | .control _ => s
      | r => if r.cached then s.fillL1 core w obj else (s.homeRead w).1 := by
  generalize hf : @State.loadWord = f
  delta State.loadWord at hf
  subst hf
  beta_reduce
  generalize State.fillL1 = fillL1, State.readReg = readReg, State.homeRead = homeRead, State.windowRead = windowRead,
    State.controlReadBy = controlReadBy, State.portPeek = portPeek, @overlay = overlay, State.region = region
  generalize region s (8 * w) = r
  cases r <;> rfl

/-- A property of what a load of a word leaves, by the region that it reads. -/
theorem State.loadWord_fst_of {P : State → Prop} (obj : Bool) (hs : P s)
    (hfill : (s.region (8 * w)).cached = true → P (s.fillL1 core w obj))
    (hreg : ∀ n k off, s.region (8 * w) = .regs n k off → off < 0x200 → P (s.readReg n k (off / 8)))
    (hhome : (s.region (8 * w)).cached = false → P (s.homeRead w).1) : P (s.loadWord core ctx w obj).1 := by
  rw [State.loadWord_fst]
  generalize State.fillL1 = fillL1, State.readReg = readReg, State.homeRead = homeRead at hfill hreg hhome ⊢
  generalize State.region = region at hfill hreg hhome ⊢
  generalize region s (8 * w) = r at hfill hreg hhome ⊢
  cases r with
  | regs n k off =>
    dsimp only
    split
    next hoff => exact hreg n k off rfl hoff
    next => exact hs
  | control off => exact hs
  | hbm | lpddr | remote _ _ | host _ => exact hfill rfl
  | _ => exact hhome rfl

/-- A property of what a write at the port leaves. -/
theorem State.portPut_of {P : State → Prop} (x : WordWrite) (hf : ∀ n k args i, P (s.follow n k 0 args i)) (hw : P (s.homeWrite x)) :
    P (s.portPut core ctx x) := by
  generalize hp : @State.portPut = f
  delta State.portPut at hp
  subst hp
  beta_reduce
  generalize State.homeWrite = homeWrite at hw ⊢
  generalize State.region = region
  generalize region s (8 * x.word) = r
  cases r with
  | regs n k off => exact hf _ _ _ _
  | control off => exact hf _ _ _ _
  | _ => exact hw

/-- A load beyond the cached regions finds errors and makes none. -/
theorem State.loadWord_errs (h : (s.region (8 * w)).cached = false) (obj : Bool) :
    (s.loadWord core ctx w obj).1.mem.errs ⊆ s.mem.errs :=
  State.loadWord_fst_of (P := fun t => t.mem.errs ⊆ s.mem.errs) obj (List.Subset.refl _)
    (fun hc => absurd hc (ne_true_of_eq_false h)) (fun n k off _ _ => s.readReg_errs n k (off / 8)) (fun _ => s.detect_errs w)

theorem State.portPut_errs (s : State) (core ctx : Nat) (x : WordWrite) : (s.portPut core ctx x).mem.errs ⊆ s.mem.errs :=
  State.portPut_of (P := fun t => t.mem.errs ⊆ s.mem.errs) x (fun _ _ _ _ => List.Subset.refl _) (s.homeWrite_errs x)

/-- A property of what an atomic access beyond the cached regions leaves (R168). -/
theorem State.rmw_fst_of {P : State → Prop} {x : State × Tagged} (hc : (s.region (8 * w)).cached = false)
    (hx : s.loadWord core ctx w false = x) (hl : P x.1) (f : Word → Option (Word × BitVec 8))
    (hw : ∀ y, (∃ v, f v ≠ none) → P (x.1.portPut core ctx y)) : P (s.rmw core ctx w false scope f).1 := by
  unfold State.rmw
  rw [hx]
  generalize State.region = region at hc ⊢
  rw [if_neg (by rw [hc]; exact Bool.noConfusion)]
  dsimp only
  generalize hf : f x.2.val = y
  cases y with
  | none => exact hl
  | some y =>
    dsimp only
    rw [Bool.false_and, if_neg Bool.noConfusion]
    exact hw _ ⟨x.2.val, by rw [hf]; exact Option.some_ne_none y⟩

theorem State.rmw_errs (h : (s.region (8 * w)).cached = false) (scope : Nat) (f : Word → Option (Word × BitVec 8)) :
    (s.rmw core ctx w false scope f).1.mem.errs ⊆ s.mem.errs :=
  have hl := s.loadWord_errs (core := core) (ctx := ctx) h false
  State.rmw_fst_of (P := fun t => t.mem.errs ⊆ s.mem.errs) h rfl hl f (fun y _ => List.Subset.trans (State.portPut_errs _ core ctx y) hl)

theorem State.NoRegError.of_eq (hdev : t.dev = s.dev) (hmode : ∀ n, (t.core n).pmode = (s.core n).pmode)
    (herrs : t.mem.errs ⊆ s.mem.errs) (h : s.NoRegError w) : t.NoRegError w := by
  intro n k off hregion hoff
  rw [hmode]
  exact MemSys.errOf_none_of_subset herrs (h n k off (State.region_regs_of_eq hdev hmode hregion) hoff)

theorem dev_of_beyond (h : t.beyond = s.beyond) : t.dev = s.dev := (congrArg (·.2.2.2.2.2.2.2) h :)

/-- An atomic access near a word makes no error of it. -/
theorem State.NoRegError.rmw (h : s.NoRegError w) (hw : w ≤ w' + 2) (hw' : w' ≤ w + 2) (f : Word → Option (Word × BitVec 8)) :
    (s.rmw core ctx w' false scope f).1.NoRegError w := by
  have hb := s.rmw_beyond core ctx w' false scope f
  have hmode := fun n => (partition_of_beyond hb n).1
  intro n k off hregion hoff
  have hregion0 := State.region_regs_of_eq (dev_of_beyond hb) hmode hregion
  have herrs := State.rmw_errs (core := core) (ctx := ctx) (State.region_not_cached_of_regs hregion0 hw hw') scope f
  rw [hmode]
  exact MemSys.errOf_none_of_subset herrs (h n k off hregion0 hoff)

/-- A word that has been read has no error left. -/
theorem State.readAt_noRegError (s : State) (core ctx w : Nat) : (s.readAt core ctx w).1.NoRegError w := by
  have hb : (s.readAt core ctx w).1.beyond = s.beyond := s.rmw_beyond core ctx w false 0 _
  have hmode := fun n => (partition_of_beyond hb n).1
  intro n k off hregion hoff
  have hregion0 := State.region_regs_of_eq (dev_of_beyond hb) hmode hregion
  have hc : (s.region (8 * w)).cached = false := congrArg Region.cached hregion0
  have hload : (s.loadWord core ctx w false).1 = s.readReg n k (off / 8) := by
    rw [State.loadWord_fst, hregion0]
    exact if_pos hoff
  rw [hmode]
  unfold State.readAt
  refine State.rmw_fst_of (P := fun t => t.mem.errOf 0x08 n ((if (s.core n).pmode then 32 else 64) * k + off / 8) = none) hc rfl ?_ _
    (fun _ ⟨_, h⟩ => absurd rfl h)
  rw [hload]
  exact s.readReg_errOf n k (off / 8)

/-- A load of a word without an error changes no register. -/
theorem State.loadWord_keeps_of_noRegError {α : Type} {e : Context → α} {s0 : State} (hno : s.NoRegError w)
    (h : Keeps e s0 s) (obj : Bool) : Keeps e s0 (s.loadWord core ctx w obj).1 :=
  State.loadWord_fst_of obj h (fun _ => State.fillL1_keeps h)
    (fun n k off hr hoff => by rwa [State.readReg_of_errOf (hno n k off hr hoff)]) (fun _ => State.homeRead_keeps h)

/-- An atomic access to a word without an error changes no register. -/
theorem State.rmw_keeps_of_noRegError {α : Type} {e : Context → α} (he : IgnoresPort e) {s0 : State} (hno : s.NoRegError w)
    (f : Word → Option (Word × BitVec 8)) (h : Keeps e s0 s) : Keeps e s0 (s.rmw core ctx w false scope f).1 := by
  have hr : Keeps e s0 (((s.pushWord core w).flushWord core w).homeRead w).1 :=
    State.homeRead_keeps (State.flushWord_keeps (State.pushWord_keeps h))
  have hn := State.noteSeen_keeps he (core := core) (ctx := ctx) (w := w) hr
  have hl : Keeps e s0 (s.loadWord core ctx w false).1 := State.loadWord_keeps_of_noRegError hno h false
  unfold State.rmw
  generalize State.region = region
  generalize s.loadWord core ctx w false = l at hl ⊢
  grind [State.shareWrite_keeps, State.onCore_keeps, State.portPut_keeps]

/-! The words of a record. -/

theorem State.readAt_fst (s : State) (core ctx w : Nat) : (s.readAt core ctx w).1 = (s.rmw core ctx w false 0 (fun _ => none)).1 := by
  unfold State.readAt
  rfl

/-- A write of a word of a record is an atomic access. -/
theorem State.writeAt_eq (s : State) (core ctx w : Nat) (v : Word) :
    ∃ f, s.writeAt core ctx w v = (s.rmw core ctx w false 0 f).1 := by
  generalize hf : @State.writeAt = f
  delta State.writeAt at hf
  generalize @State.rmw = rmw at hf ⊢
  subst hf
  exact ⟨_, rfl⟩

theorem State.NoRegError.readAt (h : s.NoRegError w) (hw : w ≤ w' + 2) (hw' : w' ≤ w + 2) : (s.readAt core ctx w').1.NoRegError w := by
  have hr := h.rmw (core := core) (ctx := ctx) (scope := 0) hw hw' (fun _ => none)
  rwa [← State.readAt_fst] at hr

theorem State.NoRegError.writeAt (h : s.NoRegError w) (hw : w ≤ w' + 2) (hw' : w' ≤ w + 2) (v : Word) :
    (s.writeAt core ctx w' v).NoRegError w := by
  obtain ⟨f, hf⟩ := s.writeAt_eq core ctx w' v
  rw [hf]
  exact h.rmw hw hw' f

theorem State.writeAt_keeps_of_noRegError {α : Type} {e : Context → α} (he : IgnoresPort e) {s0 : State} (hno : s.NoRegError w)
    (v : Word) (h : Keeps e s0 s) : Keeps e s0 (s.writeAt core ctx w v) := by
  obtain ⟨f, hf⟩ := s.writeAt_eq core ctx w v
  rw [hf]
  exact State.rmw_keeps_of_noRegError he hno f h

/-- The three words of a record at physical address pa have no flipped bits in a register window. -/
def State.RecordSound (s : State) (pa : Nat) : Prop :=
  s.NoRegError (pa / 8) ∧ s.NoRegError (pa / 8 + 1) ∧ s.NoRegError (pa / 8 + 2)

/-- A property of what the reads of a record leave. -/
theorem State.readRec_fst_of {P : State → Prop} {pa : Nat} (h : P (((s.readAt core ctx (pa / 8)).1.readAt core ctx
    (pa / 8 + 1)).1.readAt core ctx (pa / 8 + 2)).1) : P (s.readRec core ctx pa).1 := by
  generalize hg : @State.readRec = g
  delta State.readRec at hg
  subst hg
  beta_reduce
  generalize @State.readAt = readAt at h ⊢
  grind

/-- A record that has been read is sound. -/
theorem State.readRec_recordSound (s : State) (core ctx pa : Nat) : (s.readRec core ctx pa).1.RecordSound pa :=
  State.readRec_fst_of (P := fun t => t.RecordSound pa)
    ⟨((s.readAt_noRegError core ctx (pa / 8)).readAt (by omega) (by omega)).readAt (by omega) (by omega),
      (State.readAt_noRegError _ core ctx (pa / 8 + 1)).readAt (by omega) (by omega), State.readAt_noRegError _ _ _ _⟩

/-- A sound record is written back without an effect on the registers. -/
theorem State.writeRec_keeps_of_recordSound {α : Type} {e : Context → α} (he : IgnoresPort e) {s0 : State} {pa : Nat} (r : SetRec)
    (hs : s.RecordSound pa) (h : Keeps e s0 s) : Keeps e s0 (s.writeRec core ctx pa r) := by
  obtain ⟨h0, h1, h2⟩ := hs
  have hbound : Keeps e s0 (s.writeAt core ctx (pa / 8) r.w0) := State.writeAt_keeps_of_noRegError he h0 _ h
  have hfree : ∀ a b c, Keeps e s0 (((s.writeAt core ctx (pa / 8) a).writeAt core ctx (pa / 8 + 1) b).writeAt core ctx (pa / 8 + 2) c) :=
    fun a b c => State.writeAt_keeps_of_noRegError he ((h2.writeAt (by omega) (by omega) a).writeAt (by omega) (by omega) b) c
      (State.writeAt_keeps_of_noRegError he (h1.writeAt (by omega) (by omega) a) b (State.writeAt_keeps_of_noRegError he h0 a h))
  unfold State.writeRec
  generalize @State.writeAt = writeAt at hbound hfree ⊢
  exact ite_both (State.onUnit_keeps hbound) (hfree _ _ _)

end

/-! ### join and join.new (R185) -/

/-- An instruction that finds its record is performed with the record's content. -/
theorem State.exposed_of_found {s s1 : State} {i : Instr} {a : RegNo} {pa : Nat} {r : SetRec} (hheld : Held s i)
    (h : FindsRecord s a s1 pa r) {g : State → SetRec → Nat → Perf} {t : State} (hg : g s1 r pa = .done t) (ht : t.me.phase.Free)
    (checks : State → Chk Unit) :
    s.exposed i checks (fun u => u.performAccess (recordReq (s.me.rgt a)) (fun u acc =>
      g (u.readRec u.act.core u.act.ctx acc.pa).1 (u.readRec u.act.core u.act.ctx acc.pa).2 acc.pa)) = finished t :=
  State.exposed_of_free hheld ((performAccess_of_findsRecord h (g := g) (fun _ _ => rfl)).trans hg) ht checks

/-- One member more, where there is room for it. -/
theorem SetRec.withCounts_succ {r : SetRec} (h : Claims.joined r < Claims.count r) :
    r.withCounts r.count (r.joined + 1) = { r with w0 := BitVec.ofNat 64 (r.w0.toNat + 65536) } := by
  unfold SetRec.withCounts
  rw [r.count_eq, r.joined_eq]
  unfold Claims.joined Claims.count at h ⊢
  have hw : r.w0.toNat / 2 ^ 32 * 2 ^ 32 + r.w0.toNat % 65536 % 65536 + 65536 * ((r.w0.toNat / 2 ^ 16 % 65536 + 1) % 65536) =
      r.w0.toNat + 65536 := by
    generalize r.w0.toNat = x at h ⊢
    omega
  rw [hw]

theorem State.entered_keeps {s0 u : State} {pa : Nat} {x : Word} {ph : Bool} (h : Keeps Context.phase s0 u) :
    Keeps Context.phase s0 (Entered u pa x ph) :=
  State.onMe_keeps (f := Context.phase) (g := fun c => { c with sets := mset c.sets c.freeEntry { record := x.toNat, phase := ph, arrived := false } }) rfl h

/-- What join does with the record that it finds (R185). -/
def State.joinWith (d : RegNo) (x : Word) (s : State) (r : SetRec) (pa : Nat) : Perf :=
  if r.count = 0 then .done (s.deliver Cause.setDead x r.w0)
  else if r.bad then .done (s.deliver Cause.setRecord x r.w0)
  else if r.joined = r.count then .done (s.deliver Cause.setFull x r.w0)
  else if r.bound ∧ herdOfCore s.act.core ≠ r.herd then .done (s.deliver Cause.setHerd x r.w0)
  else if r.pool = false ∧ (s.aux pa).members.any (fun m => m.2 == s.act.core) = true then .done (s.deliver Cause.setGang x r.w0)
  else .done (committed (Entered (s.writeRec s.act.core s.act.ctx pa (r.withCounts r.count (r.joined + 1))) pa x r.phase)
    [.g d.toNat { val := BitVec.ofNat 64 r.joined, tag := false }])

/-- join of a record that it finds. -/
theorem exec_join_of_found {s s1 t : State} {d a : RegNo} {pa : Nat} {r : SetRec} (hheld : Held s (.join d a))
    (h : FindsRecord s a s1 pa r) (hdone : s1.joinWith d (s.me.rg a) r pa = .done t) (ht : t.me.phase.Free) :
    exec (.join d a) s = goes (finished t) :=
  congrArg goes (State.exposed_of_found hheld h (g := State.joinWith d (s.me.rg a)) hdone ht (fun u => u.joinOk (s.me.rgt a)))

theorem joinResults : JoinResults := by
  intro s s1 d a pa r hheld hfinds x herd onCore i
  have hkept := findsRecord_keeps ignoresRegs_phase hfinds
  have hnoted : ∀ cause, (s1.deliver cause x r.w0).me.phase.Free :=
    fun cause => State.deliver_free (State.free_of_kept hkept) cause _ _
  have hrun : ∀ {t : State}, t.me.phase.Free → s1.joinWith d x r pa = .done t → exec i s = goes (finished t) :=
    fun ht hdone => exec_join_of_found hheld hfinds hdone ht
  unfold State.joinWith at hrun
  rw [r.count_eq, r.joined_eq, r.herd_eq] at hrun
  have hok : InRange r → ¬ r.bad = true := fun h => ne_true_of_eq_false (r.bad_eq_false_iff.mpr h)
  have hherd : ¬ (r.w0.getLsbD 33 = true ∧ herdOfCore s1.act.core ≠ herd) →
      ¬ (r.bound = true ∧ herdOfCore s1.act.core ≠ r.w0.toNat / 2 ^ 34 % 256) := id
  have hgang : ¬ (r.w0.getLsbD 32 = false ∧ onCore = true) →
      ¬ (r.pool = false ∧ (s1.aux pa).members.any (fun m => m.2 == s1.act.core) = true) := id
  refine ⟨fun hc => ⟨_, hrun (hnoted _) (if_pos hc), rfl⟩, fun hc hbad => ⟨_, hrun (hnoted Cause.setRecord) ?_, rfl⟩,
    fun hc hr hfull => ⟨_, hrun (hnoted Cause.setFull) ?_, rfl⟩, fun hr hlt hb hh => ⟨_, hrun (hnoted Cause.setHerd) ?_, rfl⟩,
    fun hr hlt hb hpool hon => ⟨_, hrun (hnoted Cause.setGang) ?_, rfl⟩, fun hr hlt hb hpool => hrun ?_ ?_⟩
  · rw [if_neg hc, if_pos (SetRec.bad_of_not_inRange hbad)]
  · rw [if_neg hc, if_neg (hok hr), if_pos hfull]
  · rw [if_neg (by omega), if_neg (hok hr), if_neg (by omega), if_pos ⟨hb, hh⟩]
  · rw [if_neg (by omega), if_neg (hok hr), if_neg (by omega), if_neg (hherd hb), if_pos ⟨hpool, hon⟩]
  · exact State.free_of_kept (committed_keeps ignoresRegs_phase (State.entered_keeps (State.writeRec_keeps ignoresRegs_phase hkept)))
  · rw [if_neg (by omega), if_neg (hok hr), if_neg (by omega), if_neg (hherd hb), if_neg (hgang hpool), ← r.count_eq, ← r.joined_eq,
      SetRec.withCounts_succ hlt]

/-- What join.new does with the record that it finds (R185). -/
def State.joinNewWith (pool bound : Bool) (d : RegNo) (x : Word) (n : Nat) (s : State) (r : SetRec) (pa : Nat) : Perf :=
  let h := herdOfCore s.act.core
  let waits := s.herds.any (fun y => y.2.units.any (fun u => u.2.draining && u.2.record == some pa))
  let free := (List.range 4).find? (fun u => ((s.herd h).unit u).record.isNone)
  if n = 0 ∨ 65535 < n ∨ (pool = false ∧ 8 < n) then .done (s.deliver Cause.setCount x r.w0)
  else if r.joined ≠ 0 ∨ waits = true ∨ (r.bound = false ∧ r.pend ≠ 0) then .done (s.deliver Cause.setLive x r.w0)
  else if bound = true ∧ free = none then .done (s.deliver Cause.barNounit x r.w0)
  else
    let u := free.getD 0
    let v := { s with sets := mset s.sets pa {} }
    let w := if bound then v.onUnit h u (fun _ => { record := some pa }) else v
    .done (committed (Entered (w.writeRec w.act.core w.act.ctx pa
      { w0 := setWord0 n 1 pool bound h (if bound then u else 0) false false (if r.wdog = 0 then 30 else r.wdog)
        cnt0 := 0, cnt1 := 0, phase := false, broken := false, pend := 0 }) pa x false) [.g d.toNat { val := 0, tag := false }])

/-- join.new of a record that it finds. -/
theorem exec_joinNew_of_found {s s1 t : State} {pool bound : Bool} {d a b : RegNo} {pa : Nat} {r : SetRec}
    (hheld : Held s (.joinNew pool bound d a b)) (h : FindsRecord s a s1 pa r)
    (hdone : s1.joinNewWith pool bound d (s.me.rg a) (s.me.rg b).toNat r pa = .done t) (ht : t.me.phase.Free) :
    exec (.joinNew pool bound d a b) s = goes (finished t) :=
  congrArg goes (State.exposed_of_found hheld h (g := State.joinNewWith pool bound d (s.me.rg a) (s.me.rg b).toNat) hdone ht
    (fun u => u.joinOk (s.me.rgt a)))

theorem joinNewResults : JoinNewResults := by
  intro s s1 pool bound d a b pa r i hheld hfinds x n badCount waits live herd free unit wdog v w fresh
  have hkept := findsRecord_keeps ignoresRegs_phase hfinds
  have hnoted : ∀ cause, (s1.deliver cause x r.w0).me.phase.Free :=
    fun cause => State.deliver_free (State.free_of_kept hkept) cause _ _
  have hrun : ∀ {t : State}, t.me.phase.Free → s1.joinNewWith pool bound d x n r pa = .done t → exec i s = goes (finished t) :=
    fun ht hdone => exec_joinNew_of_found hheld hfinds hdone ht
  have hw : Keeps Context.phase (resumed s) w :=
    ite_both (motive := Keeps Context.phase (resumed s)) (State.onUnit_keeps (s := v) hkept) hkept
  have hact : w.act = s1.act := ite_both (motive := fun u : State => u.act = s1.act) rfl rfl
  unfold State.joinNewWith at hrun
  rw [r.joined_eq, r.wdog_eq] at hrun
  refine ⟨fun hcount hlive hunit => hrun ?_ ((if_neg hcount).trans ((if_neg hlive).trans ((if_neg ?_).trans ?_))),
    fun hcount => ⟨_, hrun (hnoted _) (if_pos hcount), rfl⟩,
    fun hcount hlive => ⟨_, hrun (hnoted Cause.setLive) ((if_neg hcount).trans (if_pos hlive)), rfl⟩,
    fun hcount hlive hb hfree =>
      ⟨_, hrun (hnoted Cause.barNounit) ((if_neg hcount).trans ((if_neg hlive).trans (if_pos ⟨hb, hfree⟩))), rfl⟩⟩
  · exact State.free_of_kept (committed_keeps ignoresRegs_phase (State.entered_keeps (State.writeRec_keeps ignoresRegs_phase hw)))
  · exact fun h => hunit.elim (fun hb => Bool.noConfusion (hb.symm.trans h.1)) (fun hf => hf h.2)
  · show Perf.done (committed (Entered (w.writeRec w.act.core w.act.ctx pa fresh) pa x false) _) = _
    rw [hact]

/-! ### leave (R186) -/

/-- A context that stands at its next block with this membership table, gang and registers. -/
def Context.LeftWith (sets : Map Member) (gang : Option Nat) (arch : Regs) (c : Context) : Prop :=
  c.phase = .fetch ∧ c.sets = sets ∧ c.gang = gang ∧ c.arch = arch

theorem Context.leftWith_ignoresPort (sets : Map Member) (gang : Option Nat) (arch : Regs) :
    IgnoresPort (Context.LeftWith sets gang arch) := ⟨fun _ _ => rfl, fun _ _ => rfl⟩

/-- The acting context's membership ends: it is no longer coupled in the set, nor listed by it (R186). -/
def State.withoutMember (s : State) (core ctx e pa : Nat) : State :=
  (s.onCtx core ctx (fun c => { c with sets := mdel c.sets e, gang := if c.gang = some pa then none else c.gang })).onAux pa
    (fun a => { a with members := a.members.filter (fun x => x.1 != (s.ctxOf core ctx).handle)
                       gate := a.gate.filter (fun h => h != (s.ctxOf core ctx).handle) })

/-- A property of what a departure leaves: the record is tested and written, the gate tested, an empty set's unit freed. -/
theorem State.leaveSet_of {P : State → Prop} {s : State} {core ctx e pa : Nat} {m : Member} {r : SetRec}
    (hw : ∀ r2 r3, P (((s.withoutMember core ctx e pa).testRec pa r2).1.writeRec core ctx pa r3))
    (hg : ∀ t x j w0, P t → P (t.testGate pa x j w0)) (hf : ∀ t h u x k evq, P t → P (t.freeUnit h u x k evq)) :
    P (s.leaveSet core ctx e m pa r) := by
  unfold State.withoutMember at hw
  generalize hl : @State.leaveSet = leave
  delta State.leaveSet at hl
  subst hl
  beta_reduce
  generalize @State.testGate = testGate, @State.freeUnit = freeUnit, @State.writeRec = writeRec at hw hg hf ⊢
  grind

/-- The same party acts, on the same contexts and sets. -/
def SameSets (s t : State) : Prop := t.act = s.act ∧ t.cores = s.cores ∧ t.sets = s.sets

theorem SameSets.me {s t : State} (h : SameSets s t) : t.me = s.me := by
  obtain ⟨hact, hcores, -⟩ := h
  unfold State.me State.ctxOf State.core
  rw [hact, hcores]

theorem State.postEvq_sameSets (s : State) (unit : Nat) (evq : Word) (launch : Nat) (e : EventRec) :
    SameSets s (s.postEvq unit evq launch e) := by
  unfold State.postEvq
  split
  · exact ⟨rfl, rfl, rfl⟩
  · unfold State.postToLaunch
    split
    · exact ⟨rfl, rfl, rfl⟩
    · dsimp only
      split <;> exact ⟨rfl, rfl, rfl⟩

theorem State.freeUnit_sameSets (s : State) (h u : Nat) (x : Word) (k : Nat) (evq : Word) :
    SameSets s (s.freeUnit h u x k evq) := by
  have hpost : SameSets s (if ((s.herd h).unit u).ranges = [] then s
      else s.postEvq 5 evq (launchOfHandle k) [eventWord0 0x0011 k, x, BitVec.ofNat 64 ((s.herd h).unit u).ranges.length, 0]) :=
    ite_both (motive := SameSets s) ⟨rfl, rfl, rfl⟩ (s.postEvq_sameSets _ _ _ _)
  unfold State.freeUnit
  exact ite_both (motive := SameSets s) hpost hpost

theorem State.RecordSound.of_eq {s t : State} {pa : Nat} (hdev : t.dev = s.dev) (hmode : ∀ n, (t.core n).pmode = (s.core n).pmode)
    (hmem : t.mem = s.mem) (h : s.RecordSound pa) : t.RecordSound pa := by
  have herrs : t.mem.errs ⊆ s.mem.errs := by
    rw [hmem]
    exact List.Subset.refl _
  obtain ⟨h0, h1, h2⟩ := h
  exact ⟨h0.of_eq hdev hmode herrs, h1.of_eq hdev hmode herrs, h2.of_eq hdev hmode herrs⟩

/-- The completion test changes the watchdog's start alone. -/
theorem State.testRec_frame (s : State) (pa : Nat) (r : SetRec) :
    (s.testRec pa r).1 = { s with sets := (s.testRec pa r).1.sets } ∧ ((s.testRec pa r).1.aux pa).members = (s.aux pa).members := by
  unfold State.testRec
  dsimp only
  split
  · refine ⟨rfl, ?_⟩
    rw [State.aux_onAux]
    split <;> rfl
  · exact ⟨rfl, rfl⟩

theorem State.withoutMember_me (s : State) (e pa : Nat) : (s.withoutMember s.act.core s.act.ctx e pa).me =
    { s.me with sets := mdel s.me.sets e, gang := if s.me.gang = some pa then none else s.me.gang } :=
  s.me_onMe (fun c => { c with sets := mdel c.sets e, gang := if c.gang = some pa then none else c.gang })

/-- What a departure leaves of the acting context, whose record has been read (R186). -/
theorem State.leaveSet_me {P : Context → Prop} {s : State} {e pa : Nat} {m : Member} {r : SetRec} (hP : IgnoresPort P)
    (hend : ∀ c f p, P c → p = .fetch ∨ p = c.phase → P { c with pendFault := f, phase := p })
    (hpass : ∀ c a g, c.atGate = true → P c → P { c.fetchFrom a with gang := g }) (hs : s.RecordSound pa)
    (h : P { s.me with sets := mdel s.me.sets e, gang := if s.me.gang = some pa then none else s.me.gang }) :
    P (s.leaveSet s.act.core s.act.ctx e m pa r).me := by
  refine State.leaveSet_of (P := fun t => P t.me) (fun r2 r3 => ?_) (fun t x j w0 ht => State.testGate_me hend hpass pa x j w0 ht)
    (fun t g u x k evq ht => by rwa [(t.freeUnit_sameSets g u x k evq).me])
  have hwithout : (s.withoutMember s.act.core s.act.ctx e pa).RecordSound pa :=
    State.RecordSound.of_eq (s := s) rfl (fun n => (partition_of_beyond (s.onCtx_beyond s.act.core s.act.ctx (fun c =>
      { c with sets := mdel c.sets e, gang := if c.gang = some pa then none else c.gang })) n).1) rfl hs
  have hsound : ((s.withoutMember s.act.core s.act.ctx e pa).testRec pa r2).1.RecordSound pa := by
    rw [(State.testRec_frame _ _ _).1]
    exact State.RecordSound.of_eq (s := s.withoutMember s.act.core s.act.ctx e pa) rfl (fun _ => rfl) rfl hwithout
  have hkept := State.writeRec_keeps_of_recordSound (core := s.act.core) (ctx := s.act.ctx) hP r3 hsound
    (State.testRec_keeps (r := r2) (pa := pa) (Keeps.refl P (s.withoutMember s.act.core s.act.ctx e pa)))
  exact me_of_keeps hkept (by rwa [State.withoutMember_me])

/-- The set no longer lists who has left it. -/
theorem State.leaveSet_members (s : State) (e pa : Nat) (m : Member) (r : SetRec) :
    ((s.leaveSet s.act.core s.act.ctx e m pa r).aux pa).members = (s.aux pa).members.filter (fun x => x.1 != s.me.handle) := by
  refine State.leaveSet_of (P := fun t => (t.aux pa).members = (s.aux pa).members.filter (fun x => x.1 != s.me.handle))
    (fun r2 r3 => ?_) (fun t x j w0 ht => ?_) (fun t g u x k evq ht => ?_)
  · have haux : ∀ (t : State) core ctx, (t.writeRec core ctx pa r3).aux pa = t.aux pa :=
      fun t core ctx => congrArg (fun m => mget ({} : SetAux) m pa) (sets_of_beyond (t.writeRec_beyond core ctx pa r3))
    rw [haux, (State.testRec_frame _ _ _).2, State.withoutMember, State.aux_onAux]
    rfl
  · rcases t.testGate_aux pa x j w0 with h | h <;> rw [h] <;> exact ht
  · obtain ⟨-, -, hsets⟩ := t.freeUnit_sameSets g u x k evq
    rw [show (t.freeUnit g u x k evq).aux pa = t.aux pa from congrArg (fun m => mget ({} : SetAux) m pa) hsets]
    exact ht

theorem findsRecord_sound {s s1 : State} {a : RegNo} {pa : Nat} {r : SetRec} (h : FindsRecord s a s1 pa r) : s1.RecordSound pa := by
  obtain ⟨s0, acc, -, -, hread⟩ := h
  have hs := s0.readRec_recordSound s0.act.core s0.act.ctx pa
  rwa [hread] at hs

theorem leaveResults : LeaveResults := by
  intro s s1 a pa e m r i
  refine ⟨fun hheld hm hfinds hsets => ⟨fun hbad => ?_, fun hr hj => ?_⟩, fun hbody hcalm houtst hvu hnot => ?_⟩
  · have hfree := State.free_of_kept (findsRecord_keeps ignoresRegs_phase hfinds)
    refine ⟨_, congrArg goes (State.setInstr_of_found hheld hm hfinds (if_pos ?_) (State.deliver_free hfree _ _ _)), s1.noted_deliver _ _ _⟩
    exact hbad.imp SetRec.bad_of_not_inRange (fun h => r.joined_eq.trans h)
  · intro t
    have hphase : s1.me.phase = .fetch := by
      rw [(findsRecord_keeps ignoresRegs_phase hfinds).me, resumed_me]
    have hleft : t.me.LeftWith (mdel s1.me.sets e) (if s1.me.gang = some pa then none else s1.me.gang) s1.me.arch := by
      refine State.leaveSet_me (Context.leftWith_ignoresPort _ _ _) ?_ ?_ (findsRecord_sound hfinds) ⟨hphase, rfl, rfl, rfl⟩
      · rintro c f p ⟨hc, hrest⟩ hp
        exact ⟨hp.elim id (fun h => h.trans hc), hrest⟩
      · rintro c x g hgate ⟨hc, -⟩
        unfold Context.atGate at hgate
        rw [hc] at hgate
        exact Bool.noConfusion hgate
    obtain ⟨htphase, htsets, htgang, htarch⟩ := hleft
    refine ⟨congrArg goes (State.setInstr_of_found hheld hm hfinds (if_neg ?_) (by rw [htphase]; exact Phase.free_fetch)),
      ?_, htgang, htarch, fun x hx => ?_⟩
    · rw [not_or, r.joined_eq]
      exact ⟨ne_true_of_eq_false (r.bad_eq_false_iff.mpr hr), hj⟩
    · rw [htsets, hsets]
      rfl
    · rw [s1.leaveSet_members] at hx
      simpa using (List.mem_filter.mp hx).2
  · have hnone : (s.setMe s.me).me.entryOf (s.me.rgt a).val.toNat = none := by
      rw [State.me_setMe]
      exact List.find?_eq_none.mpr (fun x hx h => hnot x hx (beq_iff_eq.mp h))
    refine congrArg goes ?_
    unfold State.setInstr
    refine State.exposed_of_fault hbody hcalm houtst hvu ?_ _
    rw [hnone]
    rfl

/-- Settles O33: join, join.new and leave. -/
theorem membershipResults : Obligations.MembershipResults := ⟨joinResults, joinNewResults, leaveResults⟩

end Sys2Proof.Machine
end

section
/-!
PROOFS of O50: the statement fails in SwitchOut. SAVE_COMPLETE reads every general register before it saves the thread (R362),
and a register with two flipped bits keeps them in the operands of the pending exposed instruction as well; the statement
gives the saved thread the operands from before those reads.
-/

namespace Sys2Proof.Machine

open Claims

set_option Elab.async false

/-! ### SAVE_COMPLETE (R421) -/

/-- No write is pushed of a context of which the port holds none. -/
theorem State.pushWrites_of_none {s : State} {core ctx : Nat} (h : ∀ f ∈ (s.core core).wq, f.ctx ≠ ctx) (scope : Nat) :
    s.pushWrites core ctx scope = s := by
  unfold State.pushWrites
  rw [List.filter_eq_nil_iff.mpr (fun f hf => by simpa using h f hf)]
  rfl

theorem State.thread_onThread {s : State} {h : Nat} {th : Thread} (hth : s.thread h = some th) (f : Thread → Thread) :
    (s.onThread h f).thread h = some (f th) := by
  unfold State.onThread
  rw [hth]
  exact mfind_mset_same _ _ _

theorem State.thread_onCore (s : State) (n : Nat) (f : Core → Core) (h : Nat) : (s.onCore n f).thread h = s.thread h := rfl

/-- The acting context as it is saved: its registers have been read, and a timer at zero has raised its event. -/
def State.savedMe (s : State) : State :=
  (s.readAllRegs s.act.core s.act.ctx).onCtx s.act.core s.act.ctx (fun c => c.raise s.time)

/-- The operands that SAVE_COMPLETE saves with the thread are those after the reads of the registers. -/
theorem saveComplete_view {s t : State} {th : Thread} (hlive : s.me.live = true) (hlocked : s.me.locked = true)
    (hwq : ∀ f ∈ s.myCore.wq, f.ctx ≠ s.act.ctx)
    (hth : s.thread (s.savedMe.ctxOf s.act.core s.act.ctx).handle = some th) (ht : exec .saveComplete s = goes t) :
    (t.thread (s.savedMe.ctxOf s.act.core s.act.ctx).handle).map (·.view) =
      some (if (s.savedMe.ctxOf s.act.core s.act.ctx).pendingAccess.isSome then (s.savedMe.ctxOf s.act.core s.act.ctx).snap else none) := by
  have hlaunch : s.savedMe.launch = s.launch := (launch_of_beyond (State.onCtx_beyond _ _ _ _)).trans
    (launch_of_beyond (s.readAllRegs_beyond _ _))
  have hexec : exec .saveComplete s = execSaveComplete s := rfl
  have hnone : ¬ (s.core s.act.core).wq.any (fun f => f.ctx == s.act.ctx && (f.atPort || f.pendingAt 2)) = true := by
    rw [List.any_eq_true]
    rintro ⟨f, hf, h⟩
    rw [Bool.and_eq_true, beq_iff_eq] at h
    exact hwq f hf h.1
  rw [hexec] at ht
  unfold execSaveComplete at ht
  dsimp only at ht
  rw [show s.ctxOf s.act.core s.act.ctx = s.me from rfl, hlive, hlocked, if_neg Bool.noConfusion, State.pushWrites_of_none hwq, if_neg hnone] at ht
  rw [show (s.readAllRegs s.act.core s.act.ctx).onCtx s.act.core s.act.ctx (fun c => c.raise s.time) = s.savedMe from rfl] at ht
  generalize s.savedMe = u at hth hlaunch ht ⊢
  generalize u.slotHead s.act.core s.act.ctx ++ u.slotTail (u.ctxOf s.act.core s.act.ctx) = words at ht
  have hfold : (words.foldl (fun v x => v.putSlotWord (u.ctxOf s.act.core s.act.ctx).handle x.1 x.2) u).thread
      (u.ctxOf s.act.core s.act.ctx).handle = some th := by
    unfold State.thread at hth ⊢
    rwa [launch_of_beyond (foldl_beyond (fun v (x : Nat × Word) => v.putSlotWord (u.ctxOf s.act.core s.act.ctx).handle x.1 x.2)
      (fun v x => v.putSlotWord_beyond _ x.1 x.2) words u), hlaunch]
  generalize words.foldl (fun v x => v.putSlotWord (u.ctxOf s.act.core s.act.ctx).handle x.1 x.2) u = v at ht hfold
  rw [← Host.Outcome.next.inj ht]
  rw [State.thread_onCore, State.thread_onThread hfold]
  rfl

/-- A core's context whose save is due, with a pending exposed instruction, and two flipped bits in its register g1. -/
def flippedSave : State :=
  { State.reset with
    act := { core := 0, ctx := 0 }
    cores := [(0, { ctxs := [(0, { live := true, locked := true, handle := 0, phase := .wait (.fault 0), lost := some .exit, snap := some {} })] })]
    launch := { threads := [(0, { slot := 0 })] }
    mem := { errs := [{ array := 0x08, unit := 0, word := 1, flips := 3 }] } }

/-- Its saved operands: g1 holds the flipped bits, where it held zero. -/
theorem flippedSave_saved : (flippedSave.savedMe.ctxOf 0 0).handle = 0 ∧ (flippedSave.savedMe.ctxOf 0 0).pendingAccess = some .exit ∧
    (flippedSave.savedMe.ctxOf 0 0).snap ≠ some {} := by decide +kernel

/-- Refutes O50: SAVE_COMPLETE of `flippedSave` saves the operands with the flipped bits of g1, and not those from before the
reads of the registers, which the statement names. -/
theorem not_switchEventResults : ¬ Obligations.SwitchEventResults := by
  rintro ⟨-, hswitch, -⟩
  obtain ⟨-, -, -, -, hsave⟩ := hswitch flippedSave { slot := 0 } rfl rfl
  have hwq : ∀ f ∈ flippedSave.myCore.wq, f.ctx ≠ flippedSave.act.ctx := fun _ h => nomatch h
  obtain ⟨t, ht, -, -, hthread, -⟩ := hsave rfl hwq
  obtain ⟨hhandle, hpending, hsnap⟩ := flippedSave_saved
  have hview := saveComplete_view rfl rfl hwq (th := { slot := 0 }) (congrArg flippedSave.thread hhandle) ht
  rw [show flippedSave.act.core = 0 from rfl, show flippedSave.act.ctx = 0 from rfl, hhandle, hpending] at hview
  rw [show flippedSave.me.handle = 0 from rfl] at hthread
  rw [hthread] at hview
  exact hsnap (Option.some.inj hview).symm

end Sys2Proof.Machine
end

section
/-!
PROOFS of O27: trap and eret. A trap instruction enters its handler from the state that the commit of its block leaves
(`State.exposed_of_settled`); what the commit keeps of the context is `Context.ofBlock`.
-/

namespace Sys2Proof.Machine

open Claims

set_option Elab.async false

/-! ### The status register (R37) -/

theorem Context.sr_setSr_same (c : Context) (n : Nat) (x : Word) : (c.setSr n x).sr n = x := mget_mset_same _ _ _ _

theorem Context.sr_setSr_of_ne (c : Context) {n r : Nat} (x : Word) (h : r ≠ n) : (c.setSr n x).sr r = c.sr r :=
  mget_mset_other _ _ _ h

/-- The fields of a status value. -/
theorem statusFields (p : Fin 4) (ie autopub esc : Bool) :
    let w : Word := BitVec.ofNat 64 (p.val + 4 * b2n ie + 8 * b2n autopub + 32 * b2n esc)
    w.toNat % 4 = p.val ∧ w.getLsbD 2 = ie ∧ w.getLsbD 3 = autopub ∧ w.getLsbD 5 = esc := by
  revert p ie autopub esc
  decide

theorem Context.setStatus_fields (c : Context) (p : Nat) (ie autopub : Bool) :
    (c.setStatus p ie autopub).priv = p % 4 ∧ (c.setStatus p ie autopub).ie = ie ∧ (c.setStatus p ie autopub).autopub = autopub ∧
      ((c.setStatus p ie autopub).sr 0x020).getLsbD 5 = (c.sr 0x020).getLsbD 5 := by
  unfold Context.priv Context.ie Context.autopub Context.setStatus
  rw [Context.sr_setSr_same]
  exact statusFields ⟨p % 4, Nat.mod_lt _ (by decide)⟩ ie autopub _

/-! ### eret (R214) -/

theorem returnFromTrap : ReturnFromTrap := by
  intro s hheld
  let c := (resumed s).me
  obtain ⟨hpriv, hie, hautopub, hesc⟩ := c.setStatus_fields ((c.sr 0x046).toNat % 4) ((c.sr 0x046).getLsbD 2) ((c.sr 0x046).getLsbD 3)
  have hc : c = { s.me with phase := .fetch, snap := some s.me.view, awaitWalks := [] } := resumed_me s
  have hme : ((resumed s).onMe Context.trapReturn).me = c.trapReturn := State.me_onMe _ _
  have hsr : ∀ r, c.sr r = s.me.sr r := fun r => by
    rw [hc]
    rfl
  refine ⟨(resumed s).onMe Context.trapReturn, congrArg goes (State.exposed_of_held (t := (resumed s).onMe Context.trapReturn)
    hheld rfl (congrArg Context.phase hme) _), ?_⟩
  rw [hme, ← hsr, ← hsr, ← hsr]
  refine ⟨hpriv.trans (Nat.mod_mod _ _), hie, hautopub, hesc, ?_, rfl, rfl, ?_, rfl, fun r hr => ?_⟩
  · exact (partition_of_beyond ((State.setCtx_beyond _ _ _ _).trans (State.setCtx_beyond _ _ _ _)) s.act.core).1
  · show c.arch = _
    rw [hc]
  · rw [← hsr]
    exact Context.sr_setSr_of_ne c _ hr

/-! ### trap (R213) -/

/-- A context that enters its handler with a trap (R408). -/
def Context.enterHandler (c : Context) (x : TrapInfo) (status : Word) : Context :=
  ((((((((c.discard.setSr 0x041 (BitVec.ofNat 64 (x.cause % 512))).setSr 0x042 x.tblk).setSr 0x043 (BitVec.ofNat 64 (x.tidx % 128))).setSr
    0x044 x.tval).setSr 0x045 x.tval2).setSr 0x046 status).setStatus 1 false c.discard.autopub).fetchFrom (c.discard.sr 0x040))

/-- A trap instruction's trap never nests (R213). -/
theorem State.takeTrap_of_code {s : State} {n k : Nat} {x : TrapInfo} (h : x.cause = Cause.trapCode) :
    s.takeTrap n k x = s.setCtx n k ((s.ctxOf n k).enterHandler x (s.status n k)) :=
  if_neg (fun hn => hn.1 h)

/-- The trap registers of a handler that is entered. -/
theorem Context.enterHandler_sr (c : Context) (x : TrapInfo) (status : Word) :
    let d := c.enterHandler x status
    d.sr 0x041 = BitVec.ofNat 64 (x.cause % 512) ∧ d.sr 0x042 = x.tblk ∧ d.sr 0x043 = BitVec.ofNat 64 (x.tidx % 128) ∧
      d.sr 0x044 = x.tval ∧ d.sr 0x045 = x.tval2 ∧ d.sr 0x046 = status := by
  have hstep : ∀ (c : Context) n x r, (c.setSr n x).sr r = if r = n then x else c.sr r := fun c n x r => by
    split
    next h => rw [h, Context.sr_setSr_same]
    next h => exact Context.sr_setSr_of_ne c x h
  have hfetch : ∀ (c : Context) a r, (c.fetchFrom a).sr r = c.sr r := fun _ _ _ => rfl
  intro d
  simp [d, Context.enterHandler, Context.setStatus, hfetch, hstep]

/-- The level, the block and the registers of a handler that is entered with no window write held. -/
theorem Context.enterHandler_spec {c : Context} (hheld : c.heldWrites = []) (x : TrapInfo) (status : Word) :
    let d := c.enterHandler x status
    d.priv = 1 ∧ d.ie = false ∧ d.addr = c.sr 0x040 ∧ d.phase = .fetch ∧ d.arch = c.arch ∧ d.work = c.arch ∧ d.heldWrites = [] := by
  intro d
  obtain ⟨hpriv, hie, -⟩ := Context.setStatus_fields ((((((c.discard.setSr 0x041 (BitVec.ofNat 64 (x.cause % 512))).setSr 0x042 x.tblk).setSr
    0x043 (BitVec.ofNat 64 (x.tidx % 128))).setSr 0x044 x.tval).setSr 0x045 x.tval2).setSr 0x046 status) 1 false c.discard.autopub
  obtain ⟨harch, hwork⟩ := Context.discard_regs hheld
  refine ⟨hpriv, hie, rfl, rfl, harch, hwork, ?_⟩
  show c.heldWrites.filter _ = []
  rw [hheld]
  rfl

/-- What the commit of a block leaves of its context (R26). -/
theorem State.commitBlock_me {s : State} (houtst : s.me.outst = []) (hpubs : s.me.implicitPubs = []) (a : Word) :
    (s.commitBlock s.act.core s.act.ctx a).me.ofBlock = (s.me.commit a).ofBlock ∧
      (s.commitBlock s.act.core s.act.ctx a).me.awaitWalks = s.me.awaitWalks ∧ (s.commitBlock s.act.core s.act.ctx a).act = s.act := by
  have hsettle : (s.ctxOf s.act.core s.act.ctx).settle = s.me := Context.settle_of_outst houtst
  have hkeeps := s.commitBlock_keeps s.act.core s.act.ctx a
  rw [hsettle] at hkeeps
  have hwalks : Keeps Context.awaitWalks (s.setCtx s.act.core s.act.ctx (s.me.commit a)) (s.commitBlock s.act.core s.act.ctx a) := by
    unfold State.commitBlock
    dsimp only
    rw [hsettle, hpubs]
    exact foldl_keeps _ (fun t st ht => State.releaseStore_keeps ⟨fun _ _ => rfl, fun _ _ => rfl⟩ ht) _ _ (Keeps.refl _ _)
  refine ⟨?_, ?_, hkeeps.1⟩
  · exact hkeeps.me.trans (congrArg Context.ofBlock (s.me_setMe _))
  · exact hwalks.me.trans (Eq.trans (congrArg Context.awaitWalks (s.me_setMe (s.me.commit a)) :) rfl)

theorem State.status_eq {s t : State} {n k : Nat} (hsreg : (t.ctxOf n k).sreg = (s.ctxOf n k).sreg)
    (hlive : (t.ctxOf n k).live = (s.ctxOf n k).live) (hb : t.beyond = s.beyond) : t.status n k = s.status n k := by
  have hsr : (t.ctxOf n k).sr = (s.ctxOf n k).sr := by
    unfold Context.sr
    rw [hsreg]
  obtain ⟨hmode, hres⟩ := partition_of_beyond hb n
  unfold State.status State.escBit Core.reservedCtx Core.nctx
  dsimp only
  rw [hsr, hlive, hmode, hres]

/-- The state in which an exposed instruction without checks is performed: its block has committed (R26). -/
theorem State.exposed_of_body {s : State} (hbody : s.me.phase = .body) (hcalm : Calm s) (houtst : s.me.outst = [])
    (hpubs : s.me.implicitPubs = []) (hwalks : s.me.awaitWalks = [])
    (hvu : ∀ e ∈ (s.core s.act.core).vuq, ¬ (e.ctx = s.act.ctx ∧ e.epoch = s.me.epoch)) :
    ∃ v, v.me.ofBlock = Context.ofBlock { s.me.commit s.me.fallThrough with snap := some s.me.view } ∧ v.beyond = s.beyond ∧
      (s.me.stores = [] → v.mem = s.mem) ∧
      ∀ i perform t, perform v = .done t → t.me.phase = .fetch → s.exposed i noChecks perform = finished t := by
  have hres : s.resultsIn.me = s.me := (s.me_setMe _).trans (Context.settle_of_outst houtst)
  obtain ⟨hu, huw, -⟩ := s.resultsIn.commitBlock_me (by rw [hres, houtst]) (by rw [hres, hpubs]) s.me.fallThrough
  have hub : (s.resultsIn.commitBlock s.act.core s.act.ctx s.me.fallThrough).beyond = s.beyond :=
    (State.commitBlock_beyond _ _ _ _).trans (State.setCtx_beyond _ _ _ _)
  have hum : s.me.stores = [] → (s.resultsIn.commitBlock s.act.core s.act.ctx s.me.fallThrough).mem = s.mem := fun hs =>
    State.commitBlock_mem ((congrArg Context.stores hres).trans hs) ((congrArg Context.implicitPubs hres).trans hpubs) _
  have hcourse := fun i perform => State.exposed_of_settled hbody hcalm hvu i perform rfl rfl
  rw [show s.me.addr + BitVec.ofNat 64 (4 * s.me.words.length) = s.me.fallThrough from rfl] at hcourse
  rw [hres, show s.resultsIn.act = s.act from rfl] at hu huw
  generalize s.resultsIn.commitBlock s.act.core s.act.ctx s.me.fallThrough = u at hu huw hub hum hcourse
  have hresumed : ∀ i, resumed (u.setMe { u.me with phase := .exposed i, snap := some s.me.view }) =
      u.setMe { u.me with phase := .fetch, snap := some s.me.view, awaitWalks := [] } := fun i => by
    rw [resumed, State.me_setMe]
    exact u.setCtx_setCtx _ _ _ _
  refine ⟨u.setMe { u.me with phase := .fetch, snap := some s.me.view, awaitWalks := [] }, ?_, (u.setCtx_beyond _ _ _).trans hub, hum,
    fun i perform t hdone ht => ?_⟩
  · rw [State.me_setMe]
    exact congrArg (fun c : Context => { c with phase := .fetch, snap := some s.me.view }) hu
  · rw [hcourse i perform]
    refine State.exposed_of_held ⟨?_, ?_⟩ (by rw [hresumed]; exact hdone) ht _
    · rw [State.me_setMe]
    · rw [State.me_setMe]
      exact huw.trans hwalks

/-- The acting context of a state in which the same party acts. -/
theorem me_of_act {s t : State} (h : t.act = s.act) : t.me = t.ctxOf s.act.core s.act.ctx := by
  rw [← h]
  rfl

/-- With no window write held, a finished instruction leaves its context at the next block. -/
theorem finished_of_nil {u : State} (hheld : u.me.heldWrites = []) (hwork : u.me.work = u.me.arch) :
    (finished u).me = { u.me with snap := none, acc := none } ∧ (finished u).mem = u.mem := by
  have hme : (u.setMe { u.me with snap := none, acc := none }).ctxOf u.act.core u.act.ctx = { u.me with snap := none, acc := none } :=
    u.me_setMe _
  obtain ⟨hctx, hact, hmem⟩ := State.settleWindow_of_nil (s := u.setMe { u.me with snap := none, acc := none })
    (n := u.act.core) (k := u.act.ctx) (by rw [hme]; exact hheld) (by rw [hme]; exact hwork)
  exact ⟨(me_of_act hact).trans (hctx.trans hme), hmem⟩

/-- What a trap instruction at position pos does when it is performed (R213). -/
def State.trapWith (code : BitVec 12) (pos : Nat) (v : State) : State :=
  (v.takeTrap v.act.core v.act.ctx
    { cause := Cause.trapCode, tblk := v.me.addr, tidx := pos, tval := code.setWidth 64, tval2 := 0 }).onMe
    (fun c => { c with gang := v.me.gang })

theorem exec_trap (code : BitVec 12) (s : State) :
    exec (.trap code) s = goes (s.exposed (.trap code) noChecks (fun v => .done (v.trapWith code s.me.cur))) := rfl

theorem State.trapWith_eq (code : BitVec 12) (pos : Nat) (v : State) :
    (v.trapWith code pos).me = { v.me.enterHandler { cause := Cause.trapCode, tblk := v.me.addr, tidx := pos, tval := code.setWidth 64, tval2 := 0 }
      (v.status v.act.core v.act.ctx) with gang := v.me.gang } ∧ (v.trapWith code pos).mem = v.mem := by
  unfold State.trapWith
  rw [State.takeTrap_of_code rfl, State.me_onMe]
  exact ⟨congrArg (fun c : Context => { c with gang := v.me.gang }) (v.me_setMe _), rfl⟩

theorem trapInstruction : TrapInstruction := by
  intro s code hbody hcalm houtst hpubs hwalks hheld hvu
  obtain ⟨v, hv, hvb, hvm, hrun⟩ := State.exposed_of_body hbody hcalm houtst hpubs hwalks hvu
  have hact := act_of_beyond hvb
  have hvh : v.me.heldWrites = [] := Eq.trans (congrArg Context.heldWrites hv :) hheld
  have hsreg : v.me.sreg = s.me.sreg := (congrArg Context.sreg hv :)
  have hstatus : v.status v.act.core v.act.ctx = s.status s.act.core s.act.ctx := by
    rw [hact]
    refine State.status_eq ?_ ?_ hvb <;> rw [← me_of_act hact]
    · exact hsreg
    · exact (congrArg Context.live hv :)
  obtain ⟨ht, htmem⟩ := v.trapWith_eq code s.me.cur
  have hdone := hrun (.trap code) (fun v => .done (v.trapWith code s.me.cur)) _ rfl
  rw [exec_trap]
  generalize v.trapWith code s.me.cur = t at ht htmem hdone
  generalize hx : ({ cause := Cause.trapCode, tblk := v.me.addr, tidx := s.me.cur, tval := code.setWidth 64, tval2 := 0 } : TrapInfo) = x at ht
  obtain ⟨hcause, htblk, htidx, htval, htval2, htstat⟩ := v.me.enterHandler_sr x (v.status v.act.core v.act.ctx)
  obtain ⟨hpriv, hie, haddr, hphase, harch, hwork, hheld'⟩ := Context.enterHandler_spec hvh x (v.status v.act.core v.act.ctx)
  generalize v.me.enterHandler x (v.status v.act.core v.act.ctx) = d at ht hcause htblk htidx htval htval2 htstat hpriv hie haddr hphase harch hwork hheld'
  subst hx
  obtain ⟨hfin, hfinmem⟩ := finished_of_nil (u := t) (by rw [ht]; exact hheld') (by rw [ht]; exact hwork.trans harch.symm)
  refine ⟨finished t, congrArg goes (hdone (by rw [ht]; exact hphase)), ?_⟩
  rw [hfin, ht, hfinmem, htmem]
  refine ⟨hcause, htblk.trans (congrArg Context.addr hv :), htidx, htval, htval2, htstat.trans hstatus, hpriv, hie, ?_, hphase,
    harch.trans (congrArg Context.arch hv :), hvm⟩
  refine haddr.trans ?_
  unfold Context.sr
  rw [hsreg]

/-- Settles O27: trap enters its handler behind its block, and eret returns. -/
theorem trapAndReturnResults : Obligations.TrapAndReturnResults := ⟨trapInstruction, returnFromTrap⟩

end Sys2Proof.Machine
end

section
/-!
PROOFS of O31: the ready queue, send, mbind, sleep and recv, each as it is performed.
-/

namespace Sys2Proof.Machine

open Claims

set_option Elab.async false

/-! ### The core of the acting context -/

theorem State.myCore_onCore (s : State) (f : Core → Core) : (s.onCore s.act.core f).myCore = f s.myCore := s.core_onCore _ _

/-- A change to what a core holds beside its contexts. -/
theorem State.me_onCore {s : State} {f : Core → Core} (h : (f s.myCore).ctxs = s.myCore.ctxs) : (s.onCore s.act.core f).me = s.me := by
  show mget {} ((s.onCore s.act.core f).core s.act.core).ctxs s.act.ctx = _
  rw [State.core_onCore]
  exact congrArg (fun m => mget ({} : Context) m s.act.ctx) h

/-- The core of a context that has been set, its contexts aside. -/
theorem State.myCore_setMe (s : State) (x : Context) : (s.setMe x).myCore = { s.myCore with ctxs := mset s.myCore.ctxs s.act.ctx x } :=
  s.core_onCore _ _

/-- A property that the default and every entry of a table have. -/
theorem mget_of_forall {α : Type} {P : α → Prop} {d : α} (hd : P d) {m : Map α} (h : ∀ e ∈ m, P e.2) (k : Nat) : P (mget d m k) := by
  induction m with
  | nil => exact hd
  | cons e m ih =>
    unfold mget
    split
    · exact h e List.mem_cons_self
    · exact ih (fun x hx => h x (List.mem_cons_of_mem e hx))

theorem committed_me (u : State) (ws : List RegWrite) :
    (committed u ws).me = { u.me with arch := u.me.arch.applyAll ws, work := u.me.arch.applyAll ws } := u.me_setMe _

theorem committed_phase (u : State) (ws : List RegWrite) : (committed u ws).me.phase = u.me.phase := by
  rw [committed_me]

theorem resumed_phase (s : State) : (resumed s).me.phase = .fetch := by rw [resumed_me]
theorem resumed_arch (s : State) : (resumed s).me.arch = s.me.arch := by rw [resumed_me]

/-! ### The ready queue (R203) -/

/-- A core whose contexts hold no push makes none (R204). -/
theorem pushHeld_of_none {c : Core} (h : ∀ k, (mget {} c.ctxs k).held = []) (k n : Nat) : pushHeld c k n = c := by
  cases n with
  | zero => rfl
  | succ n =>
    unfold pushHeld
    dsimp only
    rw [h k]

theorem State.flushHeld_of_none {s : State} {core : Nat} (h : ∀ k, (s.ctxOf core k).held = []) : s.flushHeld core = s.onCore core id := by
  unfold State.flushHeld State.onCore
  congr 1
  have hfold : ∀ l : List Nat, l.foldl (fun c k => pushHeld c k 4) (s.core core) = s.core core := fun l => by
    induction l with
    | nil => rfl
    | cons k l ih =>
      rw [List.foldl_cons, pushHeld_of_none h]
      exact ih
  exact hfold _

theorem Core.readyPut_readyq (c : Core) (pri : Nat) (h : Word) :
    mget [] (c.readyPut pri h).readyq pri = c.ready pri ++ [h] ∧
      ∀ k, k ≠ pri → mget [] (c.readyPut pri h).readyq k = c.ready k :=
  ⟨mget_mset_same _ _ _ _, fun _ hk => mget_mset_other _ _ _ hk⟩

theorem committed_readyq (u : State) (ws : List RegWrite) : (committed u ws).myCore.readyq = u.myCore.readyq := by
  unfold committed
  rw [State.myCore_setMe]

theorem resumed_ready (s : State) (k : Nat) : (resumed s).myCore.ready k = mget [] s.myCore.readyq k := by
  unfold resumed Core.ready
  rw [State.myCore_setMe]

/-- Where no context of the core holds a push, none does when its own is resumed. -/
theorem resumed_held {s : State} (h : ∀ c ∈ s.myCore.ctxs, c.2.held = []) (j : Nat) :
    ((resumed s).ctxOf s.act.core j).held = [] := by
  have hall := mget_of_forall (P := fun c : Context => c.held = []) (d := {}) rfl h
  by_cases hj : j = s.act.ctx
  · subst hj
    show (resumed s).me.held = []
    rw [resumed_me]
    exact hall s.act.ctx
  · unfold resumed
    exact (congrArg Context.held (s.ctxOf_setCtx_other _ (.inr hj))).trans (hall j)

theorem readyQueueResults : ReadyQueueResults := by
  intro s d a pri p q u
  have hready : ∀ k, (resumed s).myCore.ready k = q k := resumed_ready s
  refine ⟨fun hheld hroom => ?_, fun hheld hfull => ?_, fun hheld hnone => ?_, fun k h rest hheld hk hempty hhead hpush => ?_⟩
  · let v := u.onCore u.act.core (fun c => c.readyPut pri.toNat (s.me.rg a))
    have hv : v.me = u.me := State.me_onCore rfl
    obtain ⟨hput, hkeep⟩ := u.myCore.readyPut_readyq pri.toNat (s.me.rg a)
    have hcore : (committed v [.p p.toNat true]).myCore.readyq = (u.myCore.readyPut pri.toNat (s.me.rg a)).readyq :=
      (committed_readyq v _).trans (congrArg Core.readyq (State.myCore_onCore u _))
    refine ⟨committed v [.p p.toNat true], congrArg goes (State.exposed_of_held hheld (if_neg ?_) ?_ _), ?_, fun k hk => ?_, ?_, rfl⟩
    · rw [hready]
      exact Nat.not_le.mpr hroom
    · rw [committed_phase, hv, resumed_phase]
    · rw [hcore, hput, hready]
    · rw [hcore, hkeep k hk, hready]
    · rw [committed_me, hv]
      exact congrArg (fun r : Regs => r.applyAll [.p p.toNat true]) (resumed_arch s)
  · refine ⟨_, congrArg goes (State.exposed_of_held hheld (if_pos ?_) ?_ _), rfl⟩
    · rwa [hready]
    · exact (committed_phase _ _).trans (resumed_phase s)
  · have hfind : (List.range (pri.toNat + 1)).find? (fun k => !((resumed s).myCore.ready k).isEmpty) = none := by
      rw [List.find?_eq_none]
      intro k hk
      rw [hready, hnone k (by have := List.mem_range.mp hk; omega)]
      exact Bool.noConfusion
    refine ⟨_, congrArg goes (State.exposed_of_held hheld (t := committed u [.g d.toNat {}, .p p.toNat false]) ?_ ?_ _), rfl⟩
    · rw [hfind]
      rfl
    · exact (committed_phase _ _).trans (resumed_phase s)
  · have hfind : (List.range (pri.toNat + 1)).find? (fun k => !((resumed s).myCore.ready k).isEmpty) = some k := by
      rw [List.find?_range_eq_some]
      refine ⟨?_, List.mem_range.mpr (by omega), fun j hj => ?_⟩
      · rw [hready, hhead]
        rfl
      · rw [hready, hempty j hj]
        rfl
    let take (c : Core) : Core := { c with readyq := mset c.readyq k ((c.ready k).drop 1) }
    let v := u.onCore u.act.core take
    have hv : v.me = u.me := State.me_onCore rfl
    have hheldNone : ∀ j, (v.ctxOf v.act.core j).held = [] := fun j => by
      refine Eq.trans ?_ (resumed_held hpush j)
      show (mget {} (v.core u.act.core).ctxs j).held = _
      rw [State.core_onCore]
      rfl
    have hflush : v.flushHeld v.act.core = v.onCore v.act.core id := State.flushHeld_of_none hheldNone
    let w := committed (v.onCore v.act.core id) [.g d.toNat { val := h, tag := false }, .p p.toNat true]
    have hw : (v.onCore v.act.core id).me = u.me := (State.me_onCore rfl).trans hv
    refine ⟨w, congrArg goes (State.exposed_of_held hheld ?_ ?_ _), ?_, ?_⟩
    · rw [hfind]
      dsimp only
      rw [hready, hhead]
      exact congrArg (fun x => Perf.done (committed x [.g d.toNat { val := h, tag := false }, .p p.toNat true])) hflush
    · rw [committed_phase, hw, resumed_phase]
    · rw [committed_readyq, State.myCore_onCore]
      show mget [] v.myCore.readyq k = rest
      rw [State.myCore_onCore]
      exact (mget_mset_same _ _ _ _).trans (by rw [hready, hhead]; rfl)
    · rw [committed_me, hw]
      exact congrArg (fun r : Regs => r.applyAll [.g d.toNat { val := h, tag := false }, .p p.toNat true]) (resumed_arch s)

/-! ### send, mbind and sleep (R197, R204, R207) -/

theorem resumed_sendbuf (s : State) : (resumed s).myCore.sendbuf = s.myCore.sendbuf := by
  unfold resumed
  rw [State.myCore_setMe]

/-- The payload registers, with their tags (R197). -/
theorem Context.payload_eq (c : Context) (d : RegNo) (n1 : BitVec 3) :
    c.payload d n1 = (List.range (n1.toNat + 1)).map (fun k => c.view.getG (d.toNat + k)) := by
  unfold Context.payload regRange
  rw [List.map_map]
  rfl

theorem Context.raise_of_running {c : Context} {now : Nat} (h : ∀ t, c.timerAt = some t → now < t) : c.raise now = c := by
  unfold Context.raise
  split
  next t ht => exact if_neg (Nat.not_le.mpr (h t ht))
  next => rfl

theorem sendEffects (s : State) (d a : RegNo) (n1 : BitVec 3) (pri : BitVec 2) :
    let u := resumed s
    let words := (List.range (n1.toNat + 1)).map (fun k => s.me.view.getG (d.toNat + k))
    (Held s (.send d a n1 pri) → mfind s.myCore.sendbuf pri.toNat = none → ∃ t, exec (.send d a n1 pri) s = goes (finished t) ∧
      mfind t.myCore.sendbuf pri.toNat = some { src := s.me.handle, dst := (s.me.rg a).toNat % 2 ^ 32, pri := pri.toNat, words := words
                                                time := s.time, seq := s.tick, evq := s.me.sr 0x063, core := s.act.core } ∧
      (∀ k, k ≠ pri.toNat → mfind t.myCore.sendbuf k = mfind s.myCore.sendbuf k) ∧ t.mem = s.mem ∧ t.me.arch = s.me.arch) ∧
    (Held s (.send d a n1 pri) → mfind s.myCore.sendbuf pri.toNat ≠ none → exec (.send d a n1 pri) s =
      goes (u.setMe { u.me with phase := .exposed (.send d a n1 pri) })) := by
  intro u words
  refine ⟨fun hheld hfree => ?_, fun hheld hfilled => ?_⟩
  · let m : Msg := { src := u.me.handle, dst := (s.me.rg a).toNat % 2 ^ 32, pri := pri.toNat, words := s.me.payload d n1
                     time := u.time, seq := u.tick, evq := u.me.sr 0x063, core := u.act.core }
    let t := u.onCore u.act.core (fun c => { c with sendbuf := mset c.sendbuf pri.toNat m })
    have ht : t.me = u.me := State.me_onCore rfl
    have hbuf : t.myCore.sendbuf = mset s.myCore.sendbuf pri.toNat m := by
      rw [← resumed_sendbuf s]
      exact congrArg Core.sendbuf (State.myCore_onCore u _)
    have hm : m = { src := s.me.handle, dst := (s.me.rg a).toNat % 2 ^ 32, pri := pri.toNat, words := words
                    time := s.time, seq := s.tick, evq := s.me.sr 0x063, core := s.act.core } := by
      show ({ src := (resumed s).me.handle, dst := _, pri := _, words := _, time := _, seq := _, evq := (resumed s).me.sr 0x063, core := _ } : Msg) = _
      rw [resumed_me, Context.payload_eq]
      rfl
    refine ⟨t, congrArg goes (State.exposed_of_held hheld (if_neg ?_) (by rw [ht, resumed_phase]) _), ?_, fun k hk => ?_, rfl, ?_⟩
    · rw [resumed_sendbuf, hfree]
      exact Bool.noConfusion
    · rw [hbuf, mfind_mset_same, hm]
    · rw [hbuf, mfind_mset_other _ _ hk]
    · rw [ht, resumed_arch]
  · refine congrArg goes (State.exposed_of_later hheld (if_pos ?_) _)
    rwa [resumed_sendbuf, Option.isSome_iff_ne_none]

/-- What a sleep does when it is performed, by whether a cause holds (R207). -/
theorem exec_sleep {s t : State} {mask : BitVec 4} (hheld : Held s (.sleep mask)) (ht : t.me.phase.Free)
    (h : (match (resumed s).wakeSleep s.act.core s.act.ctx mask.toNat with
      | some v => Perf.done v
      | none => .done ((resumed s).onMe (fun c => { c with phase := .wait (.sleep mask.toNat) }))) = .done t) :
    exec (.sleep mask) s = goes (finished t) :=
  congrArg goes (State.exposed_of_free hheld h ht _)

/-- A sleep of which no cause holds. -/
theorem State.wakeSleep_none {s : State} {mask : Nat} (h0 : mask.testBit 0 = true → ∀ r ∈ s.me.rings, r.2.occ = 0)
    (h1 : mask.testBit 1 = false) (h2 : mask.testBit 2 = true → (s.me.raise s.time).timerEvent = false) (h3 : mask.testBit 3 = false) :
    s.wakeSleep s.act.core s.act.ctx mask = none := by
  have hctx : (s.onCtx s.act.core s.act.ctx (fun c => c.raise s.time)).ctxOf s.act.core s.act.ctx = s.me.raise s.time :=
    State.ctxOf_setCtx _ _ _ _
  have hrings : (s.me.raise s.time).rings = s.me.rings := by
    rcases s.me.raise_cases s.time with h | h <;> rw [h]
  unfold State.wakeSleep
  dsimp only
  rw [hctx, h1, h3, if_neg Bool.noConfusion, hrings]
  dsimp only
  rw [if_neg ?_, if_neg ?_, Bool.false_and, if_neg Bool.noConfusion]
  · rw [Bool.and_eq_true]
    rintro ⟨hb, hany⟩
    obtain ⟨r, hr, hocc⟩ := List.any_eq_true.mp hany
    rw [h0 hb r hr] at hocc
    exact Bool.noConfusion hocc
  · rw [Bool.and_eq_true]
    rintro ⟨hb, hev⟩
    exact Bool.noConfusion ((h2 hb).symm.trans hev)

/-- A sleep whose timer event is pending takes it. -/
theorem State.wakeSleep_timer {s : State} {mask : Nat} (h2 : mask.testBit 2 = true) (h3 : mask.testBit 3 = false)
    (hev : s.me.timerEvent = true) (hat : ∀ t, s.me.timerAt = some t → s.time < t) :
    s.wakeSleep s.act.core s.act.ctx mask = some (s.setMe { s.me with timerEvent := false, phase := .fetch }) := by
  have hctx : (s.onCtx s.act.core s.act.ctx (fun c => c.raise s.time)).ctxOf s.act.core s.act.ctx = s.me :=
    (State.ctxOf_setCtx _ _ _ _).trans (Context.raise_of_running hat)
  unfold State.wakeSleep
  dsimp only
  rw [hctx, h2, h3, hev, if_neg Bool.noConfusion]
  dsimp only
  rw [Bool.true_and, if_pos rfl]
  unfold State.onCtx State.setMe
  rw [State.setCtx_setCtx]
  exact congrArg (fun c : Context => some (s.setMe { c with timerEvent := false, phase := .fetch })) hctx

theorem sendResults : SendResults := by
  intro s d a n1 pri ring mask u words
  have hbit : ∀ k, mask.toNat.testBit k = mask.getLsbD k := fun k => BitVec.testBit_toNat mask
  have hme := resumed_me s
  obtain ⟨hsend, hstall⟩ := sendEffects s d a n1 pri
  refine ⟨hsend, hstall, fun hheld hempty => ?_, fun hheld h0 h1 h2 h3 => ?_, fun hheld h2 h3 hev hat => ?_⟩
  · let t := u.setMe { u.me with binds := mset u.me.binds ring.toNat { task := s.me.rg a, pri := pri.toNat, armed := true } }
    have ht : t.me = { u.me with binds := mset u.me.binds ring.toNat { task := s.me.rg a, pri := pri.toNat, armed := true } } := u.me_setMe _
    refine ⟨_, congrArg goes (State.exposed_of_held (t := t) hheld (if_pos ?_) ?_ _), rfl⟩
    · show (mget {} t.me.rings ring.toNat).occ = 0
      rw [ht]
      show (mget {} (resumed s).me.rings ring.toNat).occ = 0
      rwa [hme]
    · rw [ht]
      exact resumed_phase s
  · have hnone : (resumed s).wakeSleep (resumed s).act.core (resumed s).act.ctx mask.toNat = none := by
      refine State.wakeSleep_none (fun h => ?_) ((hbit 1).trans h1) (fun h => ?_) ((hbit 3).trans h3)
      · rw [hme]
        exact h0 ((hbit 0).symm.trans h)
      · obtain ⟨hev, hat⟩ := h2 ((hbit 2).symm.trans h)
        rw [Context.raise_of_running (by rw [hme]; exact hat), hme]
        exact hev
    refine ⟨_, exec_sleep hheld (t := u.setMe { u.me with phase := .wait (.sleep mask.toNat) }) ?_ ?_, rfl⟩
    · rw [State.me_setMe]
      exact fun _ h => nomatch h
    · rw [show (resumed s).wakeSleep s.act.core s.act.ctx mask.toNat = none from hnone]
      rfl
  · have hsome : (resumed s).wakeSleep (resumed s).act.core (resumed s).act.ctx mask.toNat =
        some (u.setMe { u.me with timerEvent := false, phase := .fetch }) :=
      State.wakeSleep_timer ((hbit 2).trans h2) ((hbit 3).trans h3) (by rw [hme]; exact hev) (by rw [hme]; exact hat)
    refine ⟨_, exec_sleep hheld (t := u.setMe { u.me with timerEvent := false, phase := .fetch }) ?_ ?_, rfl⟩
    · rw [State.me_setMe]
      exact Phase.free_fetch
    · rw [show (resumed s).wakeSleep s.act.core s.act.ctx mask.toNat = _ from hsome]

/-! ### recv (R198, R200) -/

theorem State.loadTagged_keeps {α : Type} {e : Context → α} (he : IgnoresRegs e) {s0 : State} (p : Party) (n : Nat) :
    ∀ {s : State} {va : Nat}, Keeps e s0 s → ChkKeeps e s0 (s.loadTagged p va n) := by
  induction n with
  | zero => exact fun h => h
  | succ n ih =>
    intro s va h
    have hspan := State.checkSpan_keeps (p := p) (q := loadReq {} (BitVec.ofNat 64 va) 8) (tval2 := 0) he h
    unfold State.loadTagged
    generalize s.checkSpan p (loadReq {} (BitVec.ofNat 64 va) 8) 0 = x at hspan ⊢
    cases x with
    | fault | wait => trivial
    | ok t l =>
      have hrest := ih (va := va + 8) (State.readWords_keeps he (core := p.core) (ctx := p.ctx) (entry := l.entry) (obj := false)
        (ws := [l.pa / 8]) hspan)
      unfold Chk.andThen
      dsimp only
      generalize (t.readWords p.core p.ctx l.entry false [l.pa / 8]) = y at hrest ⊢
      generalize y.1.loadTagged p (va + 8) n = z at hrest ⊢
      cases z with
      | fault | wait => trivial
      | ok v ws => exact hrest

/-- The registers that a taken message writes (R200). -/
theorem recvWrites_eq (d a : Nat) (msg : List Tagged) :
    recvWrites d a msg = (List.range 8).map (fun k => RegWrite.g (d + k)
      (if k ≤ (msg.getD 0 {}).val.toNat / 2 ^ 32 % 8 then { val := (msg.getD (2 + k) {}).val, tag := (msg.getD 0 {}).val.getLsbD (40 + k) }
       else {})) ++ [.g a { val := (msg.getD 0 {}).val, tag := false }] := by
  have hlen : field (msg.getD 0 {}).val.toNat 34 32 = (msg.getD 0 {}).val.toNat / 2 ^ 32 % 8 := field_eq_div _ _ _
  unfold recvWrites
  dsimp only
  rw [hlen]

/-- A context that takes the oldest message of a ring r, which writes ws. -/
def Context.received (ring : Nat) (r : Ring) (ws : List RegWrite) (c : Context) : Context :=
  { c with arch := c.arch.applyAll ws, work := c.arch.applyAll ws, phase := .fetch
           rings := mset c.rings ring { head := (r.head + 1) % 16, occ := r.occ - 1 } }

theorem committed_received (u : State) (ring : Nat) (r : Ring) (ws : List RegWrite) :
    (committed u ws).onMe (fun c => { c with phase := .fetch, rings := mset c.rings ring { head := (r.head + 1) % 16, occ := r.occ - 1 } }) =
      u.onMe (Context.received ring r ws) := by
  rw [State.onMe, committed_me]
  exact u.setCtx_setCtx _ _ _ _

/-- A message whose slot can be read is taken. -/
theorem State.takeMsg_of_ok {u s1 : State} {ring d a : Nat} {msg : List Tagged} (more : List RegWrite)
    (h : u.loadTagged u.party (slotAddr (u.me.sr 0x064) ring (mget {} u.me.rings ring).head) 10 = .ok s1 msg) :
    u.takeMsg u.act.core u.act.ctx ring d a more =
      .done (s1.onMe (Context.received ring (mget {} u.me.rings ring) (recvWrites d a msg ++ more))) := by
  have hact : s1.act = u.act := by
    have hk := State.loadTagged_keeps ignoresRegs_phase u.party 10
      (va := slotAddr (u.me.sr 0x064) ring (mget {} u.me.rings ring).head) (Keeps.refl Context.phase u)
    rw [h] at hk
    exact hk.1
  have htake : u.takeMsg u.act.core u.act.ctx ring d a more = .done (s1.onCtx u.act.core u.act.ctx
      (Context.received ring (mget {} u.me.rings ring) (recvWrites d a msg ++ more))) := by
    unfold State.takeMsg
    dsimp only
    rw [show u.ctxOf u.act.core u.act.ctx = u.me from rfl]
    unfold State.party at h
    dsimp only at h
    rw [h]
    rfl
  rw [htake, ← hact]
  rfl

theorem receiveResults : ReceiveResults := by
  intro s d a ring p u r va taken
  have hme := resumed_me s
  have hring : mget {} (resumed s).me.rings ring.toNat = r := by rw [hme]
  have hva : slotAddr ((resumed s).me.sr 0x064) ring.toNat (mget {} (resumed s).me.rings ring.toNat).head = va := by
    rw [hring, hme]
    rfl
  -- What a message that is taken writes, with the further writes of the form.
  have htaken : ∀ s1 msg more, u.loadTagged u.party va 10 = .ok s1 msg → ∃ t,
      (resumed s).takeMsg (resumed s).act.core (resumed s).act.ctx ring.toNat d.toNat a.toNat more = .done t ∧ t.me.phase = .fetch ∧
        taken (finished t) s1 msg more := by
    intro s1 msg more hload
    refine ⟨_, State.takeMsg_of_ok more (by rw [hva]; exact hload), ?_, ?_⟩
    · rw [State.me_onMe]
      rfl
    · rw [hring, ← committed_received, recvWrites_eq]
  refine ⟨fun hheld hempty => ?_, fun hheld hempty => ?_, fun s1 msg hheld hocc hload => ?_, fun s1 msg hheld hocc hload => ?_⟩
  · refine ⟨_, congrArg goes (State.exposed_of_free hheld (t := u.setMe { u.me with phase := .wait (.recv ring.toNat d.toNat a.toNat) })
      (if_pos (by rw [hring]; exact hempty)) ?_ _), rfl⟩
    rw [State.me_setMe]
    exact fun _ h => nomatch h
  · exact ⟨_, congrArg goes (State.exposed_of_held hheld (t := committed u [.p p.toNat false]) (if_pos (by rw [hring]; exact hempty))
      ((committed_phase _ _).trans (resumed_phase s)) _), rfl⟩
  · obtain ⟨t, hdone, hphase, ht⟩ := htaken s1 msg [] hload
    exact ⟨_, congrArg goes (State.exposed_of_held hheld ((if_neg (by rw [hring]; exact hocc)).trans hdone) hphase _), ht⟩
  · obtain ⟨t, hdone, hphase, ht⟩ := htaken s1 msg [.p p.toNat true] hload
    exact ⟨_, congrArg goes (State.exposed_of_held hheld ((if_neg (by rw [hring]; exact hocc)).trans hdone) hphase _), ht⟩

/-- Settles O31: the ready queue, send, mbind and sleep, and recv. -/
theorem messageResults : Obligations.MessageResults := ⟨readyQueueResults, sendResults, receiveResults⟩

end Sys2Proof.Machine
end

section
/-!
PROOFS of O32: waitev, spawn, reply and exit, each as it is performed.
-/

namespace Sys2Proof.Machine

open Claims

set_option Elab.async false

/-! ### waitev (R206) -/

/-- The queue that s.evq binds (R206). -/
theorem State.evqHerd_of_bound {s : State} {core ctx : Nat} (h : ((s.ctxOf core ctx).sr 0x063).getLsbD 8 = true) :
    s.evqHerd core ctx = some (((s.ctxOf core ctx).sr 0x063).toNat % 256) := if_pos h

/-- The oldest record is taken into four registers, with the further writes ws of the form. -/
theorem State.takeEvent_of_cons {s : State} {h d : Nat} {e : EventRec} {rest : List EventRec} (hev : (s.herd h).events = e :: rest)
    (ws : List RegWrite) : s.takeEvent s.act.core s.act.ctx d ws h =
      some (((s.onHerd h (fun y => { y with events := rest })).onMe (fun c =>
        { c with arch := c.arch.applyAll ((List.range 4).map (fun k => RegWrite.g (d + k) { val := e.getD k 0, tag := false }) ++ ws)
                 work := c.arch.applyAll ((List.range 4).map (fun k => RegWrite.g (d + k) { val := e.getD k 0, tag := false }) ++ ws)
                 phase := .fetch }))) := by
  unfold State.takeEvent
  rw [hev]
  rfl

theorem State.takeEvent_of_nil {s : State} {core ctx h d : Nat} {ws : List RegWrite} (hev : (s.herd h).events = []) :
    s.takeEvent core ctx d ws h = none := by
  unfold State.takeEvent
  rw [hev]

theorem eventResults : EventResults := by
  intro s d p hbound h u regs
  have hme := resumed_me s
  have hherd : ((resumed s).evqHerd (resumed s).act.core (resumed s).act.ctx) = some h := by
    have hsr : ((resumed s).ctxOf (resumed s).act.core (resumed s).act.ctx).sr 0x063 = s.me.sr 0x063 := by
      show (resumed s).me.sr 0x063 = _
      rw [hme]
      rfl
    rw [State.evqHerd_of_bound (by rw [hsr]; exact hbound), hsr]
  refine ⟨fun e rest hev => ?_, fun hev => ?_⟩
  · -- What the record that is taken leaves.
    have htake : ∀ ws, ∃ t, (resumed s).takeEvent (resumed s).act.core (resumed s).act.ctx d.toNat ws h = some t ∧ t.me.phase = .fetch ∧
        (t.herd h).events = rest ∧ t.me.arch = s.me.arch.applyAll (regs e ++ ws) ∧ t.me.work = t.me.arch ∧ t.mem = s.mem := by
      intro ws
      refine ⟨_, State.takeEvent_of_cons (s := resumed s) hev ws, ?_⟩
      rw [State.me_onMe]
      refine ⟨rfl, ?_, ?_, rfl, rfl⟩
      · exact congrArg Herd.events (State.herd_onHerd (resumed s) h (fun y => { y with events := rest }))
      · exact congrArg (fun r : Regs => r.applyAll (regs e ++ ws)) (resumed_arch s)
    refine ⟨fun hheld => ?_, fun hheld => ?_⟩
    · obtain ⟨t, hsome, hphase, hevents, harch, hwork, hmem⟩ := htake []
      refine ⟨t, congrArg goes (State.exposed_of_held hheld ?_ hphase _), hevents, ?_, hwork, hmem⟩
      · rw [hherd, Option.bind_some, hsome]
      · rw [harch, List.append_nil]
    · obtain ⟨t, hsome, hphase, hevents, harch, -, hmem⟩ := htake [.p p.toNat true]
      refine ⟨t, congrArg goes (State.exposed_of_held hheld ?_ hphase _), hevents, harch, hmem⟩
      rw [hherd, Option.bind_some, hsome]
  · have hnone : ∀ ws, ((resumed s).evqHerd (resumed s).act.core (resumed s).act.ctx).bind
        ((resumed s).takeEvent (resumed s).act.core (resumed s).act.ctx d.toNat ws) = none := fun ws => by
      rw [hherd, Option.bind_some]
      exact State.takeEvent_of_nil hev
    refine ⟨fun hheld => ?_, fun hheld => ?_⟩
    · refine ⟨_, congrArg goes (State.exposed_of_free hheld (t := u.setMe { u.me with phase := .wait (.waitev d.toNat) }) ?_ ?_ _), rfl⟩
      · rw [hnone]
        rfl
      · rw [State.me_setMe]
        exact fun _ h => nomatch h
    · refine ⟨_, congrArg goes (State.exposed_of_held hheld (t := committed u [.p p.toNat false]) ?_
        ((committed_phase _ _).trans (resumed_phase s)) _), rfl⟩
      rw [hnone]
      rfl

/-! ### spawn and reply (R208, R209) -/

/-- The first clause of spawn's checks: a record of a kind that a spawn takes, without argument words. -/
theorem State.spawnOk_of_read {s s1 : State} {x : Tagged} {acc : Access}
    (h : s.checkAccess s.party { loadOf x x.val 64 with align := 64 } = .ok s1 acc) :
    let r := s1.readWords s1.act.core s1.act.ctx acc.entry acc.herdObj (wordsOf acc.pa 64)
    let kind := (r.2.getD 0 {}).val.toNat % 8
    (kind = 1 ∨ kind = 2 ∨ kind = 3) → (r.2.getD 6 {}).val = 0 →
      s.spawnOk x = .ok (r.1.setMe { r.1.me with snapCmd := some ([], r.2.map (·.val)) }) () := by
  intro r kind hkind harg
  unfold State.spawnOk Chk.andThen
  dsimp only
  rw [show s.checkAccess s.party { loadReq x x.val 64 with align := 64 } = .ok s1 acc from h]
  dsimp only
  rw [if_neg (not_not.mpr hkind), if_pos harg]
  rfl

/-- The pending-pool entry of a child with this record (R208, R389). -/
def State.childEntry (v : State) (parent : Nat) (record : List Word) (reserved : Bool) : PoolEntry :=
  { queue := match mfind v.launch.live parent with
      | some l => l.queue
      | none => 0
    parent := parent, record := record, reserved := reserved, order := v.launch.nextOrder }

/-- The parts of the launches that a spawn with this record changes, when it takes entry k of the pending pool (R208, R389). -/
def State.poolChild (v : State) (parent : Nat) (record : List Word) (k : Nat) (reserved : Bool) : LaunchSys :=
  { v.launch with
    pool := mset v.launch.pool k (v.childEntry parent record reserved)
    nextOrder := v.launch.nextOrder + 1
    live := match mfind v.launch.live parent with
      | some l => mset v.launch.live parent (if reserved then { l with reserve := l.reserve - 1 } else l)
      | none => v.launch.live }

/-- What a spawn does once its release is performed (R208). -/
def State.spawnWith (d : RegNo) (p : PredNo) (record : List Word) (v : State) : State :=
  match v.poolEntry (launchOfHandle v.me.handle) with
  | none => committed v [.g d.toNat { val := 0xFFFFFFFF, tag := false }, .p p.toNat false]
  | some (k, reserved) =>
    committed { v with launch := v.poolChild (launchOfHandle v.me.handle) record k reserved }
      [.g d.toNat { val := BitVec.ofNat 64 k, tag := false }, .p p.toNat true]

theorem State.spawnWith_phase (d : RegNo) (p : PredNo) (record : List Word) (v : State) :
    (v.spawnWith d p record).me.phase = v.me.phase := by
  unfold State.spawnWith
  split
  · exact committed_phase _ _
  · exact committed_phase _ _

theorem exec_spawn_of_released {s s1 : State} {d a : RegNo} {p : PredNo} {ws : List Tagged} {record : List Word}
    (hheld : Held s (.spawn d a p)) (hrel : (resumed s).release s.act.core s.act.ctx 2 = (s1, true))
    (hcmd : s1.me.snapCmd = some (ws, record)) :
    exec (.spawn d a p) s = goes (finished ((s1.setMe { s1.me with snapCmd := none }).spawnWith d p record)) := by
  have hphase : (s1.setMe { s1.me with snapCmd := none }).me.phase = .fetch := by
    have hk := State.release_keeps ignoresRegs_phase (core := s.act.core) (ctx := s.act.ctx) (scope := 2) (Keeps.refl Context.phase (resumed s))
    rw [hrel] at hk
    rw [State.me_setMe]
    exact hk.me.trans (resumed_phase s)
  refine congrArg goes (State.exposed_of_held hheld ?_ ((State.spawnWith_phase _ _ _ _).trans hphase) _)
  rw [show (resumed s).release (resumed s).act.core (resumed s).act.ctx 2 = _ from hrel]
  dsimp only
  rw [if_neg Bool.noConfusion, hcmd, show s1.onMe (fun c => { c with snapCmd := none }) = s1.setMe { s1.me with snapCmd := none } from rfl]
  generalize s1.setMe { s1.me with snapCmd := none } = v
  unfold State.spawnWith
  dsimp only
  generalize v.poolEntry (launchOfHandle v.me.handle) = x
  cases x with
  | none => rfl
  | some x => rfl

theorem spawnEffects {s s1 : State} {d a : RegNo} {p : PredNo} {ws : List Tagged} {record : List Word} (hheld : Held s (.spawn d a p))
    (hrel : (resumed s).release s.act.core s.act.ctx 2 = (s1, true)) (hcmd : s1.me.snapCmd = some (ws, record)) :
    let v := s1.setMe { s1.me with snapCmd := none }
    let parent := s1.me.handle / 2 ^ 20 % 4096
    (v.poolEntry parent = none → ∃ t, exec (.spawn d a p) s = goes t ∧
      t = finished (committed v [.g d.toNat { val := 0xFFFFFFFF, tag := false }, .p p.toNat false])) ∧
    (∀ k rv, v.poolEntry parent = some (k, rv) → ∃ t e, exec (.spawn d a p) s = goes (finished t) ∧
      mfind t.launch.pool k = some e ∧ e.record = record ∧ e.parent = parent ∧ e.reserved = rv ∧ e.order = s1.launch.nextOrder ∧
      t.me.arch = s1.me.arch.applyAll [.g d.toNat { val := BitVec.ofNat 64 k, tag := false }, .p p.toNat true] ∧ t.mem = s1.mem) := by
  intro v parent
  have hexec := exec_spawn_of_released hheld hrel hcmd
  have hv : v.me = { s1.me with snapCmd := none } := s1.me_setMe _
  have hparent : launchOfHandle v.me.handle = parent := by
    rw [hv]
    rfl
  have hmem : v.mem = s1.mem := rfl
  have horder : v.launch = s1.launch := rfl
  change exec (.spawn d a p) s = goes (finished (v.spawnWith d p record)) at hexec
  clear_value v
  refine ⟨fun hnone => ⟨_, hexec, ?_⟩, fun k rv hsome => ⟨_, v.childEntry parent record rv, hexec, ?_⟩⟩
  · rw [State.spawnWith, hparent, hnone]
  · have hwith : v.spawnWith d p record = committed { v with launch := v.poolChild parent record k rv }
        [.g d.toNat { val := BitVec.ofNat 64 k, tag := false }, .p p.toNat true] := by
      rw [State.spawnWith, hparent, hsome]
    rw [hwith, committed_me]
    refine ⟨mfind_mset_same _ _ _, rfl, rfl, rfl, congrArg LaunchSys.nextOrder horder, ?_, hmem⟩
    show v.me.arch.applyAll _ = _
    rw [hv]

theorem replyEffect {s s1 : State} {d : RegNo} {n1 : BitVec 3} {site tk : Nat} {w : Bool} (hheld : Held s (.reply d n1))
    (hrel : (resumed s).release s.act.core s.act.ctx 2 = (s1, true)) (htk : s1.me.ticket = some (site, tk, w)) :
    ∃ t r, exec (.reply d n1) s = goes (finished t) ∧ t.fabric.replies = s1.fabric.replies ++ [r] ∧ r.site = site ∧ r.ticket = tk ∧
      r.launch = s1.me.ticketLaunch ∧ r.cause = 0 ∧
      r.words = (List.range (n1.toNat + 1)).map (fun k => (s.me.view.getG (d.toNat + k)).val) ∧
      t.me.ticket = some (site, tk, true) ∧ t.mem = s1.mem := by
  have hphase : s1.me.phase = .fetch := by
    have hk := State.release_keeps ignoresRegs_phase (core := s.act.core) (ctx := s.act.ctx) (scope := 2) (Keeps.refl Context.phase (resumed s))
    rw [hrel] at hk
    exact hk.me.trans (resumed_phase s)
  let words := (s.me.payload d n1).map (·.val)
  let t := (s1.sendReply s1.me site tk words 0).onMe (fun c => { c with ticket := some (site, tk, true) })
  have ht : t.me = { s1.me with ticket := some (site, tk, true) } := State.me_onMe (s1.sendReply s1.me site tk words 0) _
  refine ⟨t, { handle := s1.me.handle, evq := s1.me.sr 0x063, launch := s1.me.ticketLaunch, site := site, ticket := tk, words := words, cause := 0 },
    congrArg goes (State.exposed_of_held hheld ?_ (by rw [ht]; exact hphase) _), rfl, rfl, rfl, rfl, rfl, ?_, by rw [ht], rfl⟩
  · rw [show (resumed s).release (resumed s).act.core (resumed s).act.ctx 2 = _ from hrel]
    dsimp only
    rw [if_neg Bool.noConfusion, htk]
  · show (s.me.payload d n1).map (·.val) = _
    rw [Context.payload_eq, List.map_map]
    rfl

/-! ### exit (R210) -/

theorem mget_mdel_same {α : Type} (d : α) (m : Map α) (k : Nat) : mget d (mdel m k) k = d := by
  induction m with
  | nil => rfl
  | cons e m ih =>
    unfold mdel at ih ⊢
    rw [List.filter_cons]
    split
    next h =>
      unfold mget
      rw [if_neg (by simpa using h)]
      exact ih
    next => exact ih

/-- A thread of no set leaves none. -/
theorem State.leaveAll_of_none {s : State} {core ctx : Nat} (h : (s.ctxOf core ctx).sets = []) : s.leaveAll core ctx = s := by
  unfold State.leaveAll
  rw [h]
  rfl

theorem exec_exit (s : State) :
    exec .exit s = goes (s.exposed .exit noChecks (fun u => .done (u.retire u.act.core u.act.ctx Cause.replyNone))) := rfl

theorem exitEffect {s s1 : State} (hheld : Held s .exit) (hsets : s.me.sets = []) (htk : s.me.ticket = none)
    (hcmd : ((resumed s).setMe { (resumed s).me with phase := .wait .exit, ticket := none }).commandsOf s.me.handle = false)
    (hwalks : ((resumed s).setMe { (resumed s).me with phase := .wait .exit, ticket := none }).walksOf s.me.handle 1 = 0)
    (hposter : ((resumed s).setMe { (resumed s).me with phase := .wait .exit, ticket := none }).posterHeld
      (fun r => r.src == 0 && r.handle == s.me.handle) = false)
    (hrel : ((resumed s).setMe { (resumed s).me with phase := .wait .exit, ticket := none }).release s.act.core s.act.ctx 3 = (s1, true))
    (hhandle : s1.me.handle = s.me.handle) :
    ∃ t, exec .exit s = goes (finished t) ∧ t.me.live = false ∧ mfind t.launch.threads s.me.handle = none ∧ t.mem = s1.mem := by
  have hme := resumed_me s
  have hctx : (resumed s).ctxOf (resumed s).act.core (resumed s).act.ctx = (resumed s).me := rfl
  have hleave : (resumed s).leaveAll (resumed s).act.core (resumed s).act.ctx = resumed s :=
    State.leaveAll_of_none (by rw [hctx, hme]; exact hsets)
  generalize hv : (resumed s).setMe { (resumed s).me with phase := .wait .exit, ticket := none } = v at hcmd hwalks hposter hrel
  have hvme : v.me = { (resumed s).me with phase := .wait .exit, ticket := none } := by
    rw [← hv, State.me_setMe]
  have hvh : (v.ctxOf s.act.core s.act.ctx).handle = s.me.handle := by
    have hvact : v.act = s.act := by rw [← hv]; rfl
    rw [← hvact]
    show v.me.handle = _
    rw [hvme, hme]
  have hact : s1.act = s.act := by
    have hk := State.release_keeps ignoresRegs_phase (core := s.act.core) (ctx := s.act.ctx) (scope := 3) (Keeps.refl Context.phase v)
    rw [hrel] at hk
    exact hk.1.trans (by rw [← hv]; rfl)
  have hretire : v.tryRetire s.act.core s.act.ctx = some (s1.freeThread s.act.core s.act.ctx) := by
    unfold State.tryRetire
    dsimp only
    rw [hvh, hcmd, hwalks, hposter, hrel]
    rfl
  have hdone : (resumed s).retire (resumed s).act.core (resumed s).act.ctx Cause.replyNone = s1.freeThread s.act.core s.act.ctx := by
    have hticket : (resumed s).me.ticket = none := by rw [hme]; exact htk
    unfold State.retire
    dsimp only
    rw [hleave, hctx, hticket]
    dsimp only
    rw [show (resumed s).onCtx (resumed s).act.core (resumed s).act.ctx (fun c => { c with phase := .wait .exit, ticket := none }) = v from hv,
      show v.tryRetire (resumed s).act.core (resumed s).act.ctx = _ from hretire]
    rfl
  have ht : (s1.freeThread s.act.core s.act.ctx).me = {} := by
    rw [← hact]
    show mget {} (State.core _ s1.act.core).ctxs s1.act.ctx = _
    unfold State.freeThread
    rw [State.core_onCore]
    exact mget_mdel_same _ _ _
  have hthreads : mfind (s1.freeThread s.act.core s.act.ctx).launch.threads s.me.handle = none := by
    rw [← hact, ← hhandle]
    exact mfind_mdel_same _ _
  have hmem : (s1.freeThread s.act.core s.act.ctx).mem = s1.mem := rfl
  generalize s1.freeThread s.act.core s.act.ctx = t at hdone ht hthreads hmem
  rw [exec_exit]
  exact ⟨t, congrArg goes (State.exposed_of_held (t := t) hheld (by rw [hdone]) (by rw [ht]) _), by rw [ht], hthreads, hmem⟩

theorem threadControlResults : ThreadControlResults := by
  intro s d a p n1 u x
  refine ⟨fun s1 acc h => State.spawnOk_of_read h, fun s1 ws record hheld hrel hcmd => spawnEffects hheld hrel hcmd,
    fun s1 site tk w hheld hrel htk => replyEffect hheld hrel htk, ?_⟩
  intro s1 hheld hsets htk _ v hcmd hwalks hposter hrel hhandle
  exact exitEffect hheld hsets htk hcmd hwalks hposter hrel hhandle

/-- Settles O32: waitev, spawn, reply and exit. -/
theorem eventAndThreadResults : Obligations.EventAndThreadResults := ⟨eventResults, threadControlResults⟩

end Sys2Proof.Machine
end

section
/-!
PROOFS of O30: repart, tlbinv and retag, each as it is performed.
-/

namespace Sys2Proof.Machine

open Claims

set_option Elab.async false

/-! ### repart (R215) -/

/-- A table cut off at n. -/
theorem mget_filter_lt {α : Type} (d : α) (m : Map α) (n r : Nat) :
    mget d (m.filter (fun e => decide (e.1 < n))) r = if r < n then mget d m r else d := by
  induction m with
  | nil => simp [mget]
  | cons e m ih =>
    rw [List.filter_cons]
    by_cases he : e.1 < n
    · rw [if_pos (decide_eq_true he), mget, mget, ih]
      split
      next h => rw [if_pos (h ▸ he)]
      next => rfl
    · rw [if_neg (by simpa using he), ih]
      split
      next h =>
        rw [mget, if_neg]
        omega
      next => rfl

theorem Regs.lower_getG (r : Regs) (n : Nat) : r.lower.getG n = if n < 32 then r.getG n else {} := by
  unfold Regs.getG Regs.lower
  dsimp only
  rw [mget_filter_lt]
  split
  next h => rw [h]; rfl
  next => rfl

theorem Regs.lower_getV (r : Regs) (n : Nat) : r.lower.getV n = if n < 8 then r.getV n else 0 := mget_filter_lt _ _ _ _

/-- The context that goes on in the other mode (R215). -/
def Context.lowered (x : Context) : Context := { x with arch := x.arch.lower, work := x.arch.lower, snap := none }

/-- The core of a repartition: it holds one context, y, as context 0. -/
def Core.repart (ctx : Nat) (mode : Bool) (y : Context) (c : Core) : Core :=
  { c with ctxs := [(0, y)], pmode := mode, escres := min c.escres (if mode then 16 else 8), lastCtx := 0
           slots := [(0, mget {} c.slots ctx)]
           wq := c.wq.map (fun (f : Flight) => if f.ctx = ctx then { f with ctx := 0 } else f) }

theorem State.repartTo_core (s : State) (mode : Bool) :
    (s.repartTo s.act.core s.act.ctx mode).core s.act.core = s.myCore.repart s.act.ctx mode s.me.lowered :=
  s.core_onCore s.act.core (Core.repart s.act.ctx mode s.me.lowered)

theorem State.repartTo_ctxOf (s : State) (mode : Bool) (k : Nat) :
    (s.repartTo s.act.core s.act.ctx mode).ctxOf s.act.core k = if k = 0 then s.me.lowered else {} := by
  unfold State.ctxOf
  rw [State.repartTo_core]
  show mget {} [(0, s.me.lowered)] k = _
  rw [mget, mget]
  split
  next h => rw [if_pos h.symm]
  next h => rw [if_neg (fun hk => h hk.symm)]

theorem repartResults : RepartResults := by
  intro s mode hheld
  have hpart := partition_of_beyond (s.setCtx_beyond s.act.core s.act.ctx { s.me with phase := .fetch, snap := some s.me.view, awaitWalks := [] }) s.act.core
  have hmode : (resumed s).myCore.pmode = s.myCore.pmode := hpart.1
  refine ⟨fun hsame => ⟨_, congrArg goes (State.exposed_of_held hheld (if_pos (hmode.trans hsame)) (resumed_phase s) _), rfl⟩, fun hother => ?_⟩
  have hcore := (resumed s).repartTo_core mode
  have hctx := (resumed s).repartTo_ctxOf mode
  have hme : ((resumed s).repartTo (resumed s).act.core (resumed s).act.ctx mode).me = (resumed s).me.lowered := hctx 0
  have hrun : exec (.repart mode) s = goes (finished ((resumed s).repartTo (resumed s).act.core (resumed s).act.ctx mode)) := by
    refine congrArg goes (State.exposed_of_held hheld (if_neg ?_) ?_ _)
    · rwa [hmode]
    · rw [hme]
      exact resumed_phase s
  have htcore : ((resumed s).repartTo (resumed s).act.core (resumed s).act.ctx mode).myCore =
      (resumed s).myCore.repart s.act.ctx mode (resumed s).me.lowered := hcore
  refine ⟨_, hrun, rfl, rfl, ?_, ?_, ?_⟩
  · rw [htcore]
    rfl
  · rw [htcore]
    exact congrArg (fun n => min n (if mode then 16 else 8)) hpart.2
  rw [hme]
  have harch : (resumed s).me.lowered.arch = s.me.arch.lower := congrArg Regs.lower (resumed_arch s)
  rw [harch]
  refine ⟨?_, ?_, rfl, rfl, rfl, fun r hr => ?_, fun r hr => ?_, fun r hr => ?_, fun r hr => ?_, rfl, fun k hk => ?_⟩
  · show (resumed s).me.sreg = _
    rw [resumed_me]
  · show (resumed s).me.addr = _
    rw [resumed_me]
  · rw [Regs.lower_getG, if_pos hr]
  · rw [Regs.lower_getG, if_neg (by omega)]
  · rw [Regs.lower_getV, if_pos hr]
  · rw [Regs.lower_getV, if_neg (by omega)]
  · exact congrArg Context.live ((hctx k).trans (if_neg hk))

/-! ### tlbinv (R216) -/

/-- No write is on its way, and no context but the acting one holds an access. -/
def State.Quiet (s : State) : Prop :=
  (∀ c ∈ s.cores, c.2.wq = []) ∧
    ∀ c ∈ s.cores, ∀ k ∈ c.2.ctxs, k.2.live = true → ¬ (c.1 = s.act.core ∧ k.1 = s.act.ctx) → k.2.stores = [] ∧ k.2.acc = none

theorem mget_mem_or {α : Type} (d : α) (m : Map α) (k : Nat) : (k, mget d m k) ∈ m ∨ mget d m k = d := by
  induction m with
  | nil => exact .inr rfl
  | cons e m ih =>
    obtain ⟨j, x⟩ := e
    rw [mget]
    split
    next h => exact .inl (h ▸ List.mem_cons_self)
    next => exact ih.imp_left (List.mem_cons_of_mem _)

theorem State.Quiet.wq_nil {s : State} (h : s.Quiet) (n : Nat) : (s.core n).wq = [] :=
  mget_of_forall (P := fun c : Core => c.wq = []) rfl h.1 n

theorem State.Quiet.setMe {s : State} (h : s.Quiet) (x : Context) : (s.setMe x).Quiet := by
  have hmem : ∀ c ∈ (s.setMe x).cores, c = (s.act.core, { s.myCore with ctxs := mset s.myCore.ctxs s.act.ctx x }) ∨ c ∈ s.cores :=
    fun c hc => mem_of_mem_mset hc
  obtain ⟨hwq, hctx⟩ := h
  refine ⟨fun c hc => ?_, fun c hc k hk hlive hnot => ?_⟩
  · rcases hmem c hc with rfl | hc
    · exact State.Quiet.wq_nil ⟨hwq, hctx⟩ s.act.core
    · exact hwq c hc
  · rcases hmem c hc with rfl | hc
    · rcases mem_of_mem_mset hk with rfl | hk
      · exact absurd ⟨rfl, rfl⟩ hnot
      · rcases mget_mem_or ({} : Core) s.cores s.act.core with hin | hnone
        · exact hctx _ hin k hk hlive hnot
        · rw [show s.myCore = {} from hnone] at hk
          exact nomatch hk
    · exact hctx c hc k hk hlive hnot

theorem foldl_id {α β : Type} {f : α → β → α} {l : List β} {a : α} (h : ∀ b ∈ l, f a b = a) : l.foldl f a = a := by
  induction l with
  | nil => rfl
  | cons b l ih =>
    rw [List.foldl_cons, h b List.mem_cons_self]
    exact ih (fun x hx => h x (List.mem_cons_of_mem b hx))

/-- A release where no write is on its way only forgets the writes that the context's loads have seen. -/
theorem State.release_of_quiet {s s1 : State} (h : s.Quiet) (hrel : s.release s.act.core s.act.ctx 2 = (s1, true)) :
    s1 = s.setMe { s.me with seen := [] } := by
  have hpush : s.pushWrites s.act.core s.act.ctx 2 = s :=
    State.pushWrites_of_none (fun f hf => by rw [h.wq_nil] at hf; exact nomatch hf) 2
  have hfold : s.cores.foldl (fun t c => ((c.2.wq.filter (fun f => (s.ctxOf s.act.core s.act.ctx).seen.contains f.id)).map (·.id)).foldl
      (fun t id => t.push c.1 id 2) t) s = s := foldl_id (fun c hc => by rw [h.1 c hc]; rfl)
  unfold State.release at hrel
  rw [if_neg (by decide)] at hrel
  dsimp only at hrel
  rw [hpush, hfold] at hrel
  split at hrel
  · exact (congrArg Prod.fst hrel).symm
  · exact Bool.noConfusion (congrArg Prod.snd hrel)

theorem State.pushAll_of_quiet {s : State} (h : s.Quiet) : s.pushAll = s :=
  foldl_id (fun c hc => by rw [h.1 c hc]; rfl)

theorem State.inFlight_of_quiet {s : State} (h : s.Quiet) (hsites : ∀ x ∈ s.fabric.sites, x.2.seq.held = [])
    (hherds : ∀ h ∈ s.herds, ∀ w ∈ h.2.walks, w.held = none) (here : Nat → Bool) : s.inFlight here = false := by
  unfold State.inFlight
  rw [Bool.or_eq_false_iff, Bool.or_eq_false_iff]
  refine ⟨⟨?_, ?_⟩, ?_⟩
  · rw [List.any_eq_false]
    intro c hc
    rw [Bool.not_eq_true, List.any_eq_false]
    intro k hk hbusy
    rw [Bool.and_eq_true, Bool.and_eq_true, Bool.not_eq_true', ← Bool.not_eq_true, Bool.and_eq_true, beq_iff_eq, beq_iff_eq] at hbusy
    obtain ⟨⟨hlive, hother⟩, haccess⟩ := hbusy
    obtain ⟨hstores, hacc⟩ := h.2 c hc k hk hlive hother
    rw [hstores, hacc] at haccess
    exact Bool.noConfusion haccess
  · rw [List.any_eq_false]
    intro x hx
    rw [hsites x hx]
    exact Bool.noConfusion
  · rw [List.any_eq_false]
    intro x hx
    rw [Bool.not_eq_true, List.any_eq_false]
    intro w hw
    rw [hherds x hx w hw]
    exact Bool.noConfusion

/-- The entries that match are dropped from the slices, the micro-TLBs and the walks (R216). -/
def State.dropped (s : State) (f : TlbEntry → Bool) (g : Nat → Bool) : State :=
  { s with mem := { s.mem with
      tlb := s.mem.tlb.filter (fun t => !f t)
      micro := s.mem.micro.map (fun (e : Nat × List TlbEntry) => (e.1, e.2.filter (fun t => !f t)))
      tlbWalks := s.mem.tlbWalks.filter (fun t => !g t.asid) } }

/-- An entry that a micro-TLB still holds was there, and does not match. -/
theorem mem_mget_map_filter {α : Type} {p : α → Bool} {m : Map (List α)} {k : Nat} {e : α}
    (h : e ∈ mget [] (m.map (fun x => (x.1, x.2.filter p))) k) : e ∈ mget [] m k ∧ p e = true := by
  induction m with
  | nil => exact nomatch h
  | cons x m ih =>
    rw [List.map_cons, mget] at h
    rw [mget]
    by_cases hk : x.1 = k
    · rw [if_pos hk] at h ⊢
      exact List.mem_filter.mp h
    · rw [if_neg hk] at h ⊢
      exact ih h

/-- tlbinv performed where nothing is in flight: the release, and the entries dropped. -/
theorem State.tlbInvalidate_of_quiet {s s1 : State} {i : Instr} {f : TlbEntry → Bool} {g : Nat → Bool} (hheld : Held s i)
    (hquiet : s.Quiet) (hsites : ∀ x ∈ s.fabric.sites, x.2.seq.held = []) (hherds : ∀ h ∈ s.herds, ∀ w ∈ h.2.walks, w.held = none)
    (hrel : (resumed s).release s.act.core s.act.ctx 2 = (s1, true)) :
    s.tlbInvalidate i f g = finished (s1.dropped f g) ∧ s1 = (resumed s).setMe { (resumed s).me with seen := [] } := by
  have hresumed : (resumed s).Quiet := hquiet.setMe _
  have hs1 := State.release_of_quiet hresumed hrel
  have hquiet1 : (s1.dropped f g).Quiet := by
    rw [hs1]
    exact hresumed.setMe _
  have hpush : (s1.dropped f g).pushAll = s1.dropped f g := State.pushAll_of_quiet hquiet1
  have hflight : (s1.dropped f g).inFlight g = false :=
    State.inFlight_of_quiet hquiet1 (by rw [hs1]; exact hsites) (by rw [hs1]; exact hherds) g
  have hdev : (s1.dropped f g).cores.any (fun c => c.2.wq.any (fun f => f.devPending)) = false := by
    rw [List.any_eq_false]
    intro c hc
    rw [hquiet1.1 c hc]
    exact Bool.noConfusion
  have hphase : (s1.dropped f g).me.phase = .fetch := by
    show s1.me.phase = .fetch
    rw [hs1, State.me_setMe]
    exact resumed_phase s
  refine ⟨?_, hs1⟩
  unfold State.tlbInvalidate
  refine State.exposed_of_held hheld ?_ hphase _
  rw [show (resumed s).release (resumed s).act.core (resumed s).act.ctx 2 = _ from hrel]
  dsimp only
  rw [if_neg Bool.noConfusion]
  change (if ((s1.dropped f g).pushAll.cores.any (fun c => c.2.wq.any (fun f => f.devPending)) || (s1.dropped f g).pushAll.inFlight g) = true
    then Perf.later (s1.dropped f g).pushAll else .done (s1.dropped f g).pushAll) = _
  rw [hpush, hdev, hflight, Bool.or_false, if_neg Bool.noConfusion]

theorem tlbInvalidateResults : TlbInvalidateResults := by
  intro s a b asid va rule
  have hrule : ∀ i f g, exec i s = goes (s.tlbInvalidate i f g) → rule i f := by
    intro i f g hexec hheld s1 hrel hwq hctx hsites hherds
    obtain ⟨hrun, hs1⟩ := State.tlbInvalidate_of_quiet (f := f) (g := g) hheld ⟨hwq, hctx⟩ hsites hherds hrel
    refine ⟨s1.dropped f g, hexec.trans (congrArg goes hrun), ?_⟩
    have hmem : s1.mem = s.mem := by rw [hs1]; rfl
    have hme : (s1.dropped f g).me = { (resumed s).me with seen := [] } := by
      show s1.me = _
      rw [hs1, State.me_setMe]
    rw [hme]
    refine ⟨?_, resumed_phase s, fun k e he => ?_, (congrArg MemSys.bytes hmem :), resumed_arch s⟩
    · exact congrArg (fun m : MemSys => m.tlb.filter (fun t => !f t)) hmem
    · obtain ⟨hin, hnot⟩ := mem_mget_map_filter (p := fun t => !f t) (m := s1.mem.micro) he
      rw [hmem] at hin
      exact ⟨hin, by simpa using hnot⟩
  exact ⟨hrule _ _ (fun a => a == asid) rfl, hrule _ _ (fun a => a == asid) rfl,
    hrule _ _ (fun _ => true) rfl⟩

/-! ### retag (R217) -/

theorem retagResult : RetagResult := by
  intro s d a hheld
  exact ⟨_, congrArg goes (State.exposed_of_held hheld (t := committed (resumed s) [.g d.toNat { val := s.me.rg a, tag := true }]) rfl
    ((committed_phase _ _).trans (resumed_phase s)) _), rfl⟩

/-- Settles O30: repart, tlbinv and retag. -/
theorem systemResults : Obligations.SystemResults := ⟨repartResults, tlbInvalidateResults, retagResult⟩

end Sys2Proof.Machine
end

section
/-!
PROOFS of O46: the arrival of messages, at a resident ring and at a saved one, and the posting of event records.
-/

namespace Sys2Proof.Machine

open Claims

set_option Elab.async false

/-! ### Messages (R197..R201, R422) -/

section

variable {s : State} {m : Msg}

theorem exec_messageArrival_of_waiting (hk : s.launch.msgs[s.arg 0]? = some m)
    (h : (s.msgBehind m || s.msgFollows m || s.unstarted m.dst) = true) : exec .messageArrival s = goes s := by
  show execMessageArrival s = _
  unfold execMessageArrival
  rw [hk]
  exact if_pos h

theorem exec_messageArrival_of_free (hk : s.launch.msgs[s.arg 0]? = some m) (hbehind : s.msgBehind m = false)
    (hfollows : s.msgFollows m = false) (hstart : s.unstarted m.dst = false) : exec .messageArrival s =
      if !s.hasRings m.dst then goes (s.deadMsg m)
      else match s.placeOf m.dst with
        | none => goes s
        | some (core, ctx) => if (s.ctxOf core ctx).locked || s.routeWaits core then goes s else goes (s.writeRing core ctx m) := by
  show execMessageArrival s = _
  unfold execMessageArrival
  rw [hk]
  exact if_neg (by rw [hbehind, hfollows, hstart]; exact Bool.noConfusion)

/-- A message to a resident thread whose rings are open is refused, or waits, or is held, or is written. -/
theorem exec_messageArrival_of_placed {c x : Nat} (hk : s.launch.msgs[s.arg 0]? = some m) (hbehind : s.msgBehind m = false)
    (hfollows : s.msgFollows m = false) (hstart : s.unstarted m.dst = false) (hrings : s.hasRings m.dst = true)
    (hplace : s.placeOf m.dst = some (c, x)) (hlocked : (s.ctxOf c x).locked = false) :
    exec .messageArrival s = if s.routeWaits c then goes s else goes (s.writeRing c x m) := by
  rw [exec_messageArrival_of_free hk hbehind hfollows hstart, hrings, if_neg Bool.noConfusion, hplace]
  dsimp only
  rw [hlocked, Bool.false_or]

theorem exec_savedRingDelivery_of_waiting (hk : s.launch.msgs[s.arg 0]? = some m) (h : s.msgBehind m = true ∨ s.msgFollows m = true) :
    exec .savedRingDelivery s = goes s := by
  show execSavedRingDelivery s = _
  unfold execSavedRingDelivery
  rw [hk]
  refine if_pos ?_
  rcases h with h | h <;> rw [h] <;> simp only [Bool.or_true, Bool.true_or]

theorem exec_sendInject_of_new (hk : mfind s.myCore.sendbuf (s.arg 0) = some m) (hnew : ∀ x ∈ s.launch.msgs, m.same x = false) :
    exec .sendInject s = goes { s with launch := { s.launch with msgs := s.launch.msgs ++ [m] } } := by
  show execSendInject s = _
  unfold execSendInject
  rw [hk]
  refine if_neg ?_
  rw [Bool.not_eq_true, List.any_eq_false]
  exact fun x hx => ne_true_of_eq_false (hnew x hx)

theorem exec_sendInject_of_none (hk : mfind s.myCore.sendbuf (s.arg 0) = none) : exec .sendInject s = goes s := by
  show execSendInject s = _
  unfold execSendInject
  rw [hk]

/-- The message in flight is gone, and its entry free. -/
theorem State.dropMsg_frame (s : State) (m : Msg) : mfind ((s.dropMsg m).core m.core).sendbuf m.pri = none ∧
    (∀ y ∈ (s.dropMsg m).launch.msgs, m.same y = false) ∧ (s.dropMsg m).mem = s.mem := by
  refine ⟨?_, fun y hy => ?_, rfl⟩
  · unfold State.dropMsg
    rw [State.core_onCore]
    exact mfind_mdel_same _ _
  · have h := (List.mem_filter.mp (show y ∈ s.launch.msgs.filter (fun x => !m.same x) from hy)).2
    simpa using h

/-- A message that is held (R422): its record, and the mark on it. -/
theorem State.holdMsg_spec {c x : Nat} (hplace : s.placeOf m.dst = some (c, x)) (k : MemKind) (a : Nat) :
    ∃ f, (s.holdMsg m k a c).fault.waiting = s.fault.waiting ++ [f] ∧ f.cause = memCause k .store ∧ f.sev = 1 ∧ f.handle = m.dst ∧
      f.tval = BitVec.ofNat 64 a ∧ f.aux = (s.ctxOf c x).sr 0x042 ∧ (s.holdMsg m k a c).mem = s.mem ∧
      ∀ y ∈ (s.holdMsg m k a c).launch.msgs, m.same y = true → y.blocked = true := by
  let mark (y : Msg) : Msg := if m.same y then { y with blocked := true, first := true } else y
  have hplace' : ({ s with launch := { s.launch with msgs := s.launch.msgs.map mark } } : State).placeOf m.dst = some (c, x) := hplace
  unfold State.holdMsg
  dsimp only
  rw [hplace']
  refine ⟨_, rfl, rfl, rfl, rfl, rfl, rfl, rfl, fun y hy hsame => ?_⟩
  obtain ⟨z, -, hz⟩ := List.mem_map.mp (show y ∈ s.launch.msgs.map mark from hy)
  by_cases hmark : m.same z = true
  · rw [← hz, show mark z = _ from if_pos hmark]
  · rw [show mark z = z from if_neg hmark] at hz
    rw [hz] at hmark
    exact absurd hsame hmark

/-- A message is written into the next slot of a resident ring, unless it is full or its words are not to be written now. -/
theorem State.writeRing_cases (s : State) (m : Msg) (c x : Nat) :
    let d := s.ctxOf c x
    let r : Ring := mget {} d.rings m.pri
    let va := (d.sr 0x064).toNat + 1280 * m.pri + 80 * ((r.head + r.occ) % 16)
    let owned := s.writeWaits (d.sr 0x060).toNat (d.sr 0x061).toNat d.super va 10
    let words := s.writable (d.sr 0x060).toNat (d.sr 0x061).toNat d.super va 10
    (16 ≤ r.occ → s.writeRing c x m = s.refuseMsg m) ∧
    (r.occ < 16 → owned = true → s.writeRing c x m = s) ∧
    (r.occ < 16 → owned = false → ∀ e a, words = .error (e, a) → s.writeRing c x m = s.holdMsg m e a c) ∧
    (r.occ < 16 → owned = false → ∀ ws, words = .ok ws → s.writeRing c x m =
      ((((s.agentWrites ws m.slot).onCtx c x (fun y => { y with rings := mset y.rings m.pri { head := r.head, occ := r.occ + 1 } })).dropMsg
        m)).bindPush c x m.pri) := by
  intro d r va owned words
  have hwords : ∀ z, words = z → s.writable (d.sr 0x060).toNat (d.sr 0x061).toNat d.super (slotAddr (d.sr 0x064) m.pri ((r.head + r.occ) % 16)) 10 = z :=
    fun _ h => h
  unfold State.writeRing
  refine ⟨fun hfull => if_pos hfull, fun hroom howned => (if_neg (Nat.not_le.mpr hroom)).trans (if_pos howned), fun hroom howned e a h => ?_,
    fun hroom howned ws h => ?_⟩
  · refine (if_neg (Nat.not_le.mpr hroom)).trans ((if_neg (ne_true_of_eq_false howned)).trans ?_)
    rw [hwords _ h]
  · refine (if_neg (Nat.not_le.mpr hroom)).trans ((if_neg (ne_true_of_eq_false howned)).trans ?_)
    rw [hwords _ h]

/-- A message for a thread that is switched out, its rings saved (R422). -/
theorem exec_savedRingDelivery_of_saved {th : Thread} (hk : s.launch.msgs[s.arg 0]? = some m) (hbehind : s.msgBehind m = false)
    (hfollows : s.msgFollows m = false) (hth : mfind s.launch.threads m.dst = some th) (hplace : th.place = none)
    (hsaving : th.saving = false) (hrings : s.hasRings m.dst = true) :
    let ring := (s.slotWord m.dst (0xE20 + 8 * m.pri)).toNat
    let head := ring % 16
    let occ := ring / 16 % 32
    let sreg (n : Nat) : Word := s.slotWord m.dst (0x800 + 8 * n)
    let super := (sreg 0x020).toNat % 4 == 1 || (sreg 0x020).toNat % 4 == 2
    let va := (sreg 0x064).toNat + 1280 * m.pri + 80 * ((head + occ) % 16)
    (16 ≤ occ → exec .savedRingDelivery s = goes (s.refuseMsg m)) ∧
    (occ < 16 → s.writeWaits (sreg 0x060).toNat (sreg 0x061).toNat super va 10 = true → exec .savedRingDelivery s = goes s) ∧
    (∀ ws, occ < 16 → s.writeWaits (sreg 0x060).toNat (sreg 0x061).toNat super va 10 = false →
        s.writable (sreg 0x060).toNat (sreg 0x061).toNat super va 10 = .ok ws →
      let u := (s.agentWrites ws m.slot).putSlotWord m.dst (0xE20 + 8 * m.pri) (BitVec.ofNat 64 (head + 16 * (occ + 1)))
      (u.slotWord m.dst (0xE48 + 16 * m.pri)).getLsbD 2 = false → exec .savedRingDelivery s = goes (u.dropMsg m)) := by
  intro ring head occ sreg super va
  have hhead : field (s.slotWord m.dst (0xE20 + 8 * m.pri)).toNat 3 0 = head := (field_eq_div _ _ _).trans (by rw [pow_zero, Nat.div_one]; rfl)
  have hocc : field (s.slotWord m.dst (0xE20 + 8 * m.pri)).toNat 8 4 = occ := field_eq_div _ _ _
  have hexec : exec .savedRingDelivery s = execSavedRingDelivery s := rfl
  unfold execSavedRingDelivery at hexec
  rw [hk] at hexec
  dsimp only at hexec
  rw [hth] at hexec
  dsimp only at hexec
  have hwait : ¬ (!(th.place.isNone && !th.saving) || s.msgBehind m || s.msgFollows m) = true := by
    rw [hplace, hsaving, hbehind, hfollows]
    exact Bool.noConfusion
  have hdead : ¬ (!s.hasRings m.dst) = true := by
    rw [hrings]
    exact Bool.noConfusion
  rw [if_neg hwait, if_neg hdead, hhead, hocc] at hexec
  refine ⟨fun hfull => hexec.trans (if_pos hfull), fun hroom hown => hexec.trans ((if_neg (by omega)).trans (if_pos hown)),
    fun ws hroom hown hok => ?_⟩
  intro u hdisarmed
  refine hexec.trans ((if_neg (by omega)).trans ((if_neg (ne_true_of_eq_false hown)).trans ?_))
  have hwords : s.writable (s.slotWord m.dst (0x800 + 8 * 0x060)).toNat (s.slotWord m.dst (0x800 + 8 * 0x061)).toNat
      ((s.slotWord m.dst (0x800 + 8 * 0x020)).toNat % 4 == 1 || (s.slotWord m.dst (0x800 + 8 * 0x020)).toNat % 4 == 2)
      (slotAddr (s.slotWord m.dst (0x800 + 8 * 0x064)) m.pri ((head + occ) % 16)) 10 = .ok ws := hok
  rw [hwords]
  dsimp only
  rw [if_neg (ne_true_of_eq_false hdisarmed)]

end

theorem messageEvents : MessageEvents := by
  intro s m k
  refine ⟨exec_sendInject_of_new, exec_sendInject_of_none, fun hk h => ⟨exec_messageArrival_of_waiting hk ?_, exec_savedRingDelivery_of_waiting hk h⟩,
    fun hk h => exec_messageArrival_of_waiting hk ?_, fun hk hbehind hfollows => ⟨fun hstart hrings => ?_, fun c x hstart hrings hplace hlocked => ?_, ?_⟩, s.dropMsg_frame m⟩
  · rcases h with h | h <;> rw [h] <;> simp only [Bool.or_true, Bool.true_or]
  · rw [h, Bool.or_true]
  · rw [exec_messageArrival_of_free hk hbehind hfollows hstart, hrings]
    rfl
  · have hexec := exec_messageArrival_of_placed hk hbehind hfollows hstart hrings hplace hlocked
    obtain ⟨hfull, howned, herror, hok⟩ := s.writeRing_cases m c x
    have hopen : s.routeWaits c = false → exec .messageArrival s = goes (s.writeRing c x m) :=
      fun h => hexec.trans (if_neg (ne_true_of_eq_false h))
    refine ⟨fun h => hexec.trans (if_pos h), fun h hocc => (hopen h).trans (congrArg goes (hfull hocc)),
      fun h hocc hwait => (hopen h).trans (congrArg goes (howned hocc hwait)), fun h hocc hwait e a herr => ?_,
      fun h hocc hwait ws hws => (hopen h).trans (congrArg goes (hok hocc hwait ws hws))⟩
    obtain ⟨f, hspec⟩ := State.holdMsg_spec hplace e a
    exact ⟨_, f, (hopen h).trans (congrArg goes (herror hocc hwait e a herr)), hspec⟩
  · intro th hth hplace hsaving hrings
    exact exec_savedRingDelivery_of_saved hk hbehind hfollows hth hplace hsaving hrings

/-! ### Event records (R369) -/

/-- The post that is served next waits. -/
theorem mem_of_nextPost {posts : List (Nat × EventRec)} {last : Nat} {x : Nat × EventRec} (h : nextPost posts last = some x) : x ∈ posts := by
  unfold nextPost at h
  obtain ⟨u, -, hu⟩ := List.exists_of_findSome?_eq_some h
  exact List.mem_of_find?_eq_some hu

/-- The posts of one unit are served in their order, whichever unit was served last. -/
theorem nextPost_of_one {u : Nat} {e : EventRec} {posts : List (Nat × EventRec)} {last : Nat} (hu : u < 6) (hlast : last < 6)
    (hone : ∀ p ∈ posts, p.1 = u) : nextPost ((u, e) :: posts) last = some (u, e) := by
  have hfound : ((u, e) :: posts).find? (fun x => x.1 == u) = some (u, e) := List.find?_cons_of_pos (beq_self_eq_true u)
  have hother : ∀ v, v ≠ u → ((u, e) :: posts).find? (fun x => x.1 == v) = none := fun v hv => by
    rw [List.find?_eq_none]
    intro p hp
    rw [beq_iff_eq]
    rcases List.mem_cons.mp hp with rfl | hp
    · exact fun h => hv h.symm
    · rw [hone p hp]
      exact fun h => hv h.symm
  have hin : u ∈ (List.range 6).map (fun i => (last + 1 + i) % 6) :=
    List.mem_map.mpr ⟨(u + 11 - last) % 6, List.mem_range.mpr (Nat.mod_lt _ (by decide)), by omega⟩
  unfold nextPost
  generalize (List.range 6).map (fun i => (last + 1 + i) % 6) = order at hin
  induction order with
  | nil => exact nomatch hin
  | cons v order ih =>
    rw [List.findSome?_cons]
    by_cases hv : v = u
    · rw [hv, hfound]
    · rw [hother v hv]
      exact ih ((List.mem_cons.mp hin).resolve_left (fun h => hv h.symm))

/-- With no completion held, a record that is posted changes nothing further. -/
theorem State.posted_of_none {t : State} (h : t.dev.finishing = []) (n u : Nat) (e : EventRec) : t.posted n u e = t := by
  unfold State.posted
  rw [h]
  rfl

/-- The one completion that is held for a record goes on when it is posted. -/
theorem State.posted_of_one {t : State} {f : Finish} {n u : Nat} {e : EventRec} (h : t.dev.finishing = [f]) (hq : f.queued = true)
    (hu : f.unit = u) (hp : f.post = some (n, e)) (hset : f.cmd.usesSet = false ∨ f.cmd.pend = 0) :
    t.posted n u e = ({ t with dev := { t.dev with finishing := [] } } : State).closeCommand f.cmd := by
  have hstays : ∀ s : State, (s.setMoves f.cmd && f.cmd.pend != 0) = false := fun s => by
    unfold State.setMoves
    rcases hset with h | h <;> rw [h]
    · rfl
    · exact Bool.and_false _
  have hfirst : [f].findIdx? (fun g => g.queued && g.unit == u && g.post == some (n, e)) = some 0 := by
    simp [List.findIdx?_cons, hq, hu, hp]
  unfold State.posted
  rw [h]
  dsimp only
  rw [hfirst]
  show State.finish ({ t with dev := { t.dev with finishing := [] } } : State) { f with post := none, queued := false } = _
  unfold State.finish
  dsimp only
  rw [hstays]
  rfl

theorem eventPosts : EventPosts := by
  intro s h y
  have hexec : exec .eventPost s = execEventPost s := rfl
  unfold execEventPost at hexec
  refine ⟨fun hfull => hexec.trans (if_pos hfull), fun x hroom hnext => ?_, fun u e posts hposts hu hlast hone => ?_⟩
  · intro t
    refine ⟨mem_of_nextPost hnext, hexec.trans ((if_neg (Nat.not_le.mpr hroom)).trans ?_), fun hnone => State.posted_of_none (t := t) hnone h _ _,
      fun f hf hq hfu hfp hset => State.posted_of_one (t := t) hf hq hfu hfp hset⟩
    rw [show nextPost (s.herd (s.arg 0)).posts (s.herd (s.arg 0)).lastPoster = some x from hnext]
    rfl
  · rw [hposts]
    exact nextPost_of_one hu hlast hone

/-- Settles O46: messages under way, and the posting of event records. -/
theorem messageEventResults : Obligations.MessageEventResults := ⟨messageEvents, eventPosts⟩

end Sys2Proof.Machine
end
